-- ==== Sys2Proof/Word.lean ====
section
/-! DEFINITION. The word types of the machine (R5, R112): bytes and 64-bit words. -/

namespace Sys2Proof

/-- One byte of memory, of a register image or of a packet. -/
abbrev Byte := BitVec 8

/-- The value of a scalar register, an address while it is computed, a control register (R112). -/
abbrev Word := BitVec 64

end Sys2Proof
end

