-- ==== Sys2Proof/Syntax.lean ====
section
/-! DEFINITION. The instructions and steps of the Ngazal: one constructor per row of
spec/opcode_table.json: the instructions with operands and the compact operations first, in the
table's order, then the instructions without operands, then the steps that have no word (Lean's code
generator can build no more than 244 constructors with operands, so the
decoder, which builds 245, is marked noncomputable; the kernel evaluates it). A constructor's operands are the fields of its row,
each at the width the format tables of spec/02 give it (R22 to R27). The twelve compact operations
(R50) are halves of a pair word (R34). The rows from vtypeWrite on have no word of their own: they
are steps of the device (spec/95); their operands name what the rule of the row needs (a hart by its
HARTID.SER, a gang by its handle, a value that comes from outside the module). -/

namespace Sys2Proof

/-- Where an uncorrectable error is found (the rows of R385). -/
inductive ErrorSite where
  /-- a line of HBM or the capacity tier, which the next fill of it finds -/
  | line (a : BitVec 52)
  /-- the registers, tiles, queue image or captured operands of the hart `ser` -/
  | hart (ser : BitVec 16)
  /-- line `n` of the scratchpad of a core, in its region of 64 lines (R326) -/
  | scratch (core : BitVec 8) (n : BitVec 14)
  /-- the `n`-th queued task word of worklist `w` of a gang -/
  | task (gid : BitVec 32) (w : BitVec 4) (n : Nat)
  /-- a clean line of a slice, or of the scalar data cache of a core -/
  | clean (cache : Option (BitVec 8)) (a : BitVec 52)
  /-- a dirty line of a slice, or of the scalar data cache of a core, with the KEYID it was written under (R386) -/
  | dirty (cache : Option (BitVec 8)) (a : BitVec 52) (keyid : BitVec 10)
deriving DecidableEq, Repr

/-- A firmware image as the management interface hands it over (R406). -/
structure FirmwareImage where
  version : Nat
  digest  : BitVec 256
  signed  : Bool
deriving DecidableEq, Repr

/-- A unit with a corrected error, and the line that the error affects, when there is one (R390). -/
structure CorrectedUnit where
  unit : BitVec 16
  line : Option (BitVec 52)
deriving DecidableEq, Repr

/-- One constructor per row of spec/opcode_table.json. -/
inductive Instr where
  /-- ADD (R118): Writes the 64-bit wrapped sum of xa and xb to xd. -/
  | add (d a b : BitVec 5)
  /-- SUB (R118): Writes the 64-bit wrapped difference xa minus xb to xd. -/
  | sub (d a b : BitVec 5)
  /-- AND (R118): Writes the bitwise AND of xa and xb to xd. -/
  | and (d a b : BitVec 5)
  /-- OR (R118): Writes the bitwise OR of xa and xb to xd. -/
  | or (d a b : BitVec 5)
  /-- XOR (R118): Writes the bitwise XOR of xa and xb to xd. -/
  | xor (d a b : BitVec 5)
  /-- SLL (R118): Shifts xa left by xb[5:0] and writes the result to xd. -/
  | sll (d a b : BitVec 5)
  /-- SRL (R118): Shifts xa right logically by xb[5:0] and writes the result to xd. -/
  | srl (d a b : BitVec 5)
  /-- SRA (R118): Shifts xa right arithmetically by xb[5:0] and writes the result to xd. -/
  | sra (d a b : BitVec 5)
  /-- SLT (R118): Writes 1 to xd when xa is less than xb as signed, else 0. -/
  | slt (d a b : BitVec 5)
  /-- SLTU (R118): Writes 1 to xd when xa is less than xb as unsigned, else 0. -/
  | sltu (d a b : BitVec 5)
  /-- MIN (R118): Writes the signed minimum of xa and xb to xd. -/
  | min (d a b : BitVec 5)
  /-- MAX (R118): Writes the signed maximum of xa and xb to xd. -/
  | max (d a b : BitVec 5)
  /-- MUL (R118): Writes the low 64 bits of the product of xa and xb to xd. -/
  | mul (d a b : BitVec 5)
  /-- MULH (R118): Writes the upper half of the signed 128-bit product to xd. -/
  | mulh (d a b : BitVec 5)
  /-- MULHU (R118): Writes the upper half of the unsigned 128-bit product to xd. -/
  | mulhu (d a b : BitVec 5)
  /-- DIV (R119): Writes the signed quotient truncated toward zero, with defined results for zero and overflow. -/
  | div (d a b : BitVec 5)
  /-- DIVU (R119): Writes the unsigned quotient, all ones for a zero divisor. -/
  | divu (d a b : BitVec 5)
  /-- REM (R119): Writes the signed remainder with the dividend's sign. -/
  | rem (d a b : BitVec 5)
  /-- REMU (R119): Writes the unsigned remainder, the dividend for a zero divisor. -/
  | remu (d a b : BitVec 5)
  /-- CLZ (R118): Writes the number of leading zero bits of xa to xd. -/
  | clz (d a : BitVec 5)
  /-- CTZ (R118): Writes the number of trailing zero bits of xa to xd. -/
  | ctz (d a : BitVec 5)
  /-- POPC (R118): Writes the number of one bits of xa to xd. -/
  | popc (d a : BitVec 5)
  /-- SEXTB (R118): Sign-extends xa[7:0] into xd. -/
  | sextb (d a : BitVec 5)
  /-- SEXTH (R118): Sign-extends xa[15:0] into xd. -/
  | sexth (d a : BitVec 5)
  /-- SEXTW (R118): Sign-extends xa[31:0] into xd. -/
  | sextw (d a : BitVec 5)
  /-- ZEXTH (R118): Zero-extends xa[15:0] into xd. -/
  | zexth (d a : BitVec 5)
  /-- ZEXTW (R118): Zero-extends xa[31:0] into xd. -/
  | zextw (d a : BitVec 5)
  /-- FADDD (R128): Adds two FP64 operands, rounded in RM. -/
  | faddd (d a b : BitVec 5)
  /-- FSUBD (R128): Subtracts two FP64 operands, rounded in RM. -/
  | fsubd (d a b : BitVec 5)
  /-- FMULD (R128): Multiplies two FP64 operands, rounded in RM. -/
  | fmuld (d a b : BitVec 5)
  /-- FDIVD (R128): Divides two FP64 operands, rounded in RM. -/
  | fdivd (d a b : BitVec 5)
  /-- FSQRTD (R128): Writes the FP64 square root of xa, rounded in RM. -/
  | fsqrtd (d a : BitVec 5)
  /-- FMAD (R128): Fused FP64 multiply-add with xd as addend and one rounding. -/
  | fmad (d a b : BitVec 5)
  /-- FMIND (R129): Writes the smaller FP64 operand, NaN-avoiding and unrounded. -/
  | fmind (d a b : BitVec 5)
  /-- FMAXD (R129): Writes the larger FP64 operand, NaN-avoiding and unrounded. -/
  | fmaxd (d a b : BitVec 5)
  /-- FEQD (R130): Writes 1 when the FP64 operands are equal, else 0. -/
  | feqd (d a b : BitVec 5)
  /-- FLTD (R130): Writes 1 when FP64 a is less than b, else 0. -/
  | fltd (d a b : BitVec 5)
  /-- FLED (R130): Writes 1 when FP64 a is at most b, else 0. -/
  | fled (d a b : BitVec 5)
  /-- FADDS (R128): Adds two FP32 operands, rounded in RM. -/
  | fadds (d a b : BitVec 5)
  /-- FMULS (R128): Multiplies two FP32 operands, rounded in RM. -/
  | fmuls (d a b : BitVec 5)
  /-- FMAS (R128): Fused FP32 multiply-add with xd as addend. -/
  | fmas (d a b : BitVec 5)
  /-- FCVTSD (R131): Converts FP64 to FP32 in RM. -/
  | fcvtsd (d a : BitVec 5)
  /-- FCVTDS (R131): Converts FP32 to FP64 exactly. -/
  | fcvtds (d a : BitVec 5)
  /-- FCVTLD (R131): Converts FP64 to a signed 64-bit integer in RM. -/
  | fcvtld (d a : BitVec 5)
  /-- FCVTDL (R131): Converts a signed 64-bit integer to FP64 in RM. -/
  | fcvtdl (d a : BitVec 5)
  /-- AMOADD (R235): Atomically adds xb to the 64-bit word at xa and returns the old word. -/
  | amoadd (d a b : BitVec 5) (s : BitVec 3)
  /-- AMOMIN (R235): Atomic signed minimum on the 64-bit word at xa, returning the old word. -/
  | amomin (d a b : BitVec 5) (s : BitVec 3)
  /-- AMOMAX (R235): Atomic signed maximum on the 64-bit word at xa, returning the old word. -/
  | amomax (d a b : BitVec 5) (s : BitVec 3)
  /-- AMOAND (R235): Atomic AND on the 64-bit word at xa, returning the old word. -/
  | amoand (d a b : BitVec 5) (s : BitVec 3)
  /-- AMOOR (R235): Atomic OR on the 64-bit word at xa, returning the old word. -/
  | amoor (d a b : BitVec 5) (s : BitVec 3)
  /-- AMOXOR (R235): Atomic XOR on the 64-bit word at xa, returning the old word. -/
  | amoxor (d a b : BitVec 5) (s : BitVec 3)
  /-- AMOSWAP (R235): Atomically swaps xb into the 64-bit word at xa, returning the old word. -/
  | amoswap (d a b : BitVec 5) (s : BitVec 3)
  /-- AMOCAS (R235): Atomic compare-and-swap of the word at xa against xd, new value xb. -/
  | amocas (d a b : BitVec 5) (s : BitVec 3)
  /-- ADDI (R120): Adds the sign-extended immediate to xa, keeping xa's tag. -/
  | addi (d a : BitVec 5) (i : BitVec 16)
  /-- ANDI (R120): ANDs xa with the sign-extended immediate. -/
  | andi (d a : BitVec 5) (i : BitVec 16)
  /-- ORI (R120): ORs xa with the sign-extended immediate. -/
  | ori (d a : BitVec 5) (i : BitVec 16)
  /-- SLLI (R120): Shifts xa left by an immediate amount. -/
  | slli (d a : BitVec 5) (s : BitVec 6)
  /-- SRLI (R120): Shifts xa right logically by an immediate amount. -/
  | srli (d a : BitVec 5) (s : BitVec 6)
  /-- SRAI (R120): Shifts xa right arithmetically by an immediate amount. -/
  | srai (d a : BitVec 5) (s : BitVec 6)
  /-- JALR (R125): Jumps to xa plus offset and writes the return address to xd. -/
  | jalr (d a : BitVec 5) (i : BitVec 16)
  /-- LB (R228): Loads a sign-extended byte into xd. -/
  | lb (d a : BitVec 5) (i : BitVec 16)
  /-- LBU (R228): Loads a zero-extended byte into xd. -/
  | lbu (d a : BitVec 5) (i : BitVec 16)
  /-- LH (R228): Loads a sign-extended halfword into xd. -/
  | lh (d a : BitVec 5) (i : BitVec 16)
  /-- LHU (R228): Loads a zero-extended halfword into xd. -/
  | lhu (d a : BitVec 5) (i : BitVec 16)
  /-- LW (R228): Loads a sign-extended word into xd. -/
  | lw (d a : BitVec 5) (i : BitVec 16)
  /-- LWU (R228): Loads a zero-extended word into xd. -/
  | lwu (d a : BitVec 5) (i : BitVec 16)
  /-- LD (R228): Loads a doubleword into xd, untagged. -/
  | ld (d a : BitVec 5) (i : BitVec 16)
  /-- SB (R228): Stores the low byte of xd. -/
  | sb (d a : BitVec 5) (i : BitVec 16)
  /-- SH (R228): Stores the low halfword of xd. -/
  | sh (d a : BitVec 5) (i : BitVec 16)
  /-- SW (R228): Stores the low word of xd. -/
  | sw (d a : BitVec 5) (i : BitVec 16)
  /-- SD (R228): Stores the doubleword of xd. -/
  | sd (d a : BitVec 5) (i : BitVec 16)
  /-- LUI (R121): Writes the immediate shifted left by 16 to xd. -/
  | lui (d : BitVec 5) (i : BitVec 21)
  /-- AUIPC (R121): Writes the instruction address plus the immediate shifted left by 16 to xd. -/
  | auipc (d : BitVec 5) (i : BitVec 21)
  /-- BEQ (R122): Branches when xa equals xb. -/
  | beq (a b : BitVec 5) (o : BitVec 16)
  /-- BNE (R122): Branches when xa differs from xb. -/
  | bne (a b : BitVec 5) (o : BitVec 16)
  /-- BLT (R122): Branches when xa is less than xb as signed. -/
  | blt (a b : BitVec 5) (o : BitVec 16)
  /-- BGE (R122): Branches when xa is at least xb as signed. -/
  | bge (a b : BitVec 5) (o : BitVec 16)
  /-- BLTU (R122): Branches when xa is less than xb as unsigned. -/
  | bltu (a b : BitVec 5) (o : BitVec 16)
  /-- BGEU (R122): Branches when xa is at least xb as unsigned. -/
  | bgeu (a b : BitVec 5) (o : BitVec 16)
  /-- BCNT (R123): Decrements xa and branches while the result is non-zero. -/
  | bcnt (a : BitVec 5) (o : BitVec 16)
  /-- J (R124): Jumps to the word-offset target. -/
  | j (o : BitVec 26)
  /-- JAL (R124): Jumps to the target and writes the return address to x1. -/
  | jal (o : BitVec 26)
  /-- STIR (R32): Lends a predicate mask to the following V, W or M instruction. -/
  | stir (k : BitVec 4)
  /-- STIR_COPY (R32): Lends a mask and a second destination register to the following instruction. -/
  | stirCopy (k : BitVec 4) (v : BitVec 5)
  /-- CMOV (R50): Compact operation copying the carried source to xd. -/
  | cmov (d : BitVec 5)
  /-- CADDI (R50): Compact operation adding a 3-bit immediate to the carried source. -/
  | caddi (d : BitVec 5) (e : BitVec 3)
  /-- CSUBI (R50): Compact operation subtracting a 3-bit immediate from the carried source. -/
  | csubi (d : BitVec 5) (e : BitVec 3)
  /-- CSLLI (R50): Compact operation shifting the carried source left. -/
  | cslli (d : BitVec 5) (e : BitVec 3)
  /-- CSRLI (R50): Compact operation shifting the carried source right logically. -/
  | csrli (d : BitVec 5) (e : BitVec 3)
  /-- CSRAI (R50): Compact operation shifting the carried source right arithmetically. -/
  | csrai (d : BitVec 5) (e : BitVec 3)
  /-- CANDI (R50): Compact operation ANDing the carried source with an immediate. -/
  | candi (d : BitVec 5) (e : BitVec 3)
  /-- CADD (R50): Compact operation adding x0 to x7 to the carried source. -/
  | cadd (d : BitVec 5) (e : BitVec 3)
  /-- CSUB (R50): Compact operation subtracting x0 to x7 from the carried source. -/
  | csub (d : BitVec 5) (e : BitVec 3)
  /-- CAND (R50): Compact operation ANDing the carried source with x0 to x7. -/
  | cand (d : BitVec 5) (e : BitVec 3)
  /-- COR (R50): Compact operation ORing the carried source with x0 to x7. -/
  | cor (d : BitVec 5) (e : BitVec 3)
  /-- CXOR (R50): Compact operation XORing the carried source with x0 to x7. -/
  | cxor (d : BitVec 5) (e : BitVec 3)
  /-- VADD (R145): Element-wise wrapped integer add. -/
  | vadd (c m : BitVec 1) (d a b : BitVec 5)
  /-- VSUB (R145): Element-wise wrapped integer subtract. -/
  | vsub (c m : BitVec 1) (d a b : BitVec 5)
  /-- VMUL (R145): Element-wise wrapped integer multiply. -/
  | vmul (c m : BitVec 1) (d a b : BitVec 5)
  /-- VMULH (R145): Element-wise upper half of the integer product. -/
  | vmulh (c m : BitVec 1) (d a b : BitVec 5)
  /-- VMIN (R145): Element-wise integer minimum. -/
  | vmin (c m : BitVec 1) (d a b : BitVec 5)
  /-- VMAX (R145): Element-wise integer maximum. -/
  | vmax (c m : BitVec 1) (d a b : BitVec 5)
  /-- VAND (R145): Element-wise bitwise AND. -/
  | vand (c m : BitVec 1) (d a b : BitVec 5)
  /-- VOR (R145): Element-wise bitwise OR. -/
  | vor (c m : BitVec 1) (d a b : BitVec 5)
  /-- VXOR (R145): Element-wise bitwise XOR. -/
  | vxor (c m : BitVec 1) (d a b : BitVec 5)
  /-- VSADD (R145): Element-wise saturating add raising SAT. -/
  | vsadd (c m : BitVec 1) (d a b : BitVec 5)
  /-- VSSUB (R145): Element-wise saturating subtract raising SAT. -/
  | vssub (c m : BitVec 1) (d a b : BitVec 5)
  /-- VMACC (R145): Element-wise wrapped multiply-accumulate into vd. -/
  | vmacc (c m : BitVec 1) (d a b : BitVec 5)
  /-- VADDX (R145): Adds a captured scalar to every element. -/
  | vaddx (c m : BitVec 1) (d a b : BitVec 5)
  /-- VMULX (R145): Multiplies every element by a captured scalar. -/
  | vmulx (c m : BitVec 1) (d a b : BitVec 5)
  /-- VADDI (R145): Adds a 5-bit signed immediate to every element. -/
  | vaddi (c m : BitVec 1) (d a i : BitVec 5)
  /-- VSLLI (R145): Shifts every element left by an immediate. -/
  | vslli (c m : BitVec 1) (d a i : BitVec 5)
  /-- VSRLI (R145): Shifts every element right logically by an immediate. -/
  | vsrli (c m : BitVec 1) (d a i : BitVec 5)
  /-- VSRAI (R145): Shifts every element right arithmetically by an immediate. -/
  | vsrai (c m : BitVec 1) (d a i : BitVec 5)
  /-- VCMPEQ (R146): Writes predicate bits for element equality. -/
  | vcmpeq (c m : BitVec 1) (d a b : BitVec 5)
  /-- VCMPLT (R146): Writes predicate bits for element less-than. -/
  | vcmplt (c m : BitVec 1) (d a b : BitVec 5)
  /-- VCMPLE (R146): Writes predicate bits for element less-or-equal. -/
  | vcmple (c m : BitVec 1) (d a b : BitVec 5)
  /-- VSEL (R146): Selects va or vb per mask bit. -/
  | vsel (c m : BitVec 1) (d a b : BitVec 5)
  /-- VMVX (R146): Broadcasts the low bits of a scalar to every element. -/
  | vmvx (c m : BitVec 1) (d b : BitVec 5)
  /-- VFADD (R147): Element-wise floating add, rounded once. -/
  | vfadd (c m : BitVec 1) (d a b : BitVec 5)
  /-- VFSUB (R147): Element-wise floating subtract. -/
  | vfsub (c m : BitVec 1) (d a b : BitVec 5)
  /-- VFMUL (R147): Element-wise floating multiply. -/
  | vfmul (c m : BitVec 1) (d a b : BitVec 5)
  /-- VFDIV (R147): Element-wise floating divide. -/
  | vfdiv (c m : BitVec 1) (d a b : BitVec 5)
  /-- VFSQRT (R147): Element-wise floating square root. -/
  | vfsqrt (c m : BitVec 1) (d a : BitVec 5)
  /-- VFMA (R147): Element-wise fused multiply-add into vd. -/
  | vfma (c m : BitVec 1) (d a b : BitVec 5)
  /-- VFMIN (R147): Element-wise floating minimum. -/
  | vfmin (c m : BitVec 1) (d a b : BitVec 5)
  /-- VFMAX (R147): Element-wise floating maximum. -/
  | vfmax (c m : BitVec 1) (d a b : BitVec 5)
  /-- VFCMPEQ (R147): Writes predicate bits for floating equality. -/
  | vfcmpeq (c m : BitVec 1) (d a b : BitVec 5)
  /-- VFCMPLT (R147): Writes predicate bits for floating less-than. -/
  | vfcmplt (c m : BitVec 1) (d a b : BitVec 5)
  /-- VFCMPLE (R147): Writes predicate bits for floating less-or-equal. -/
  | vfcmple (c m : BitVec 1) (d a b : BitVec 5)
  /-- VFMULX (R147): Multiplies every element by a captured scalar floating value. -/
  | vfmulx (c m : BitVec 1) (d a b : BitVec 5)
  /-- VFSMUL (R148): FP32 product of va, vb and the scale in v31, rounded once. -/
  | vfsmul (c m : BitVec 1) (d a b : BitVec 5)
  /-- VFSMACC (R148): Scaled FP32 multiply-accumulate into vd. -/
  | vfsmacc (c m : BitVec 1) (d a b : BitVec 5)
  /-- VFCVT (R149): Converts floating elements of type CT to floating type ET. -/
  | vfcvt (c m : BitVec 1) (d a : BitVec 5)
  /-- VFCVTI (R149): Converts floating elements to integers. -/
  | vfcvti (c m : BitVec 1) (d a : BitVec 5)
  /-- VICVTF (R149): Converts integer elements to floating. -/
  | vicvtf (c m : BitVec 1) (d a : BitVec 5)
  /-- VICVT (R149): Converts between integer types, saturating. -/
  | vicvt (c m : BitVec 1) (d a : BitVec 5)
  /-- VREDSUM (R151): Wrapped integer sum of the active elements into element 0. -/
  | vredsum (c m : BitVec 1) (d a : BitVec 5)
  /-- VREDMAX (R151): Integer maximum of the active elements into element 0. -/
  | vredmax (c m : BitVec 1) (d a : BitVec 5)
  /-- VFREDSUM (R151): Canonical sum of the active floating elements into element 0. -/
  | vfredsum (c m : BitVec 1) (d a : BitVec 5)
  /-- VFREDMAX (R151): Floating maximum of the active elements into element 0. -/
  | vfredmax (c m : BitVec 1) (d a : BitVec 5)
  /-- VTOPK (R152): Writes the k highest-ranked active elements as index-value records. -/
  | vtopk (c m : BitVec 1) (d a b : BitVec 5)
  /-- VPERM (R153): Gathers elements of va by the indices in vb. -/
  | vperm (c m : BitVec 1) (d a b : BitVec 5)
  /-- VSLIDEUP (R153): Slides elements of va up by a scalar amount. -/
  | vslideup (c m : BitVec 1) (d a b : BitVec 5)
  /-- VSLIDEDN (R153): Slides elements of va down by a scalar amount. -/
  | vslidedn (c m : BitVec 1) (d a b : BitVec 5)
  /-- VCOMPRESS (R154): Packs the active elements of va to the front of vd. -/
  | vcompress (c m : BitVec 1) (d a : BitVec 5)
  /-- VIOTA (R154): Writes element indices or counts of active elements below each. -/
  | viota (c m : BitVec 1) (d : BitVec 5)
  /-- VSKV (R150): Converts between packed and bit-sliced integer layouts. -/
  | vskv (c m : BitVec 1) (d a : BitVec 5)
  /-- KAND (R155): Predicate AND. -/
  | kand (c m : BitVec 1) (d a b : BitVec 5)
  /-- KOR (R155): Predicate OR. -/
  | kor (c m : BitVec 1) (d a b : BitVec 5)
  /-- KXOR (R155): Predicate XOR. -/
  | kxor (c m : BitVec 1) (d a b : BitVec 5)
  /-- KANDN (R155): Predicate AND-NOT. -/
  | kandn (c m : BitVec 1) (d a b : BitVec 5)
  /-- KNOT (R155): Predicate NOT. -/
  | knot (c m : BitVec 1) (d a : BitVec 5)
  /-- KBEFORE (R155): Sets bits below the first active set bit of ka. -/
  | kbefore (c m : BitVec 1) (d a : BitVec 5)
  /-- KSET (R155): Sets every predicate bit. -/
  | kset (c m : BitVec 1) (d : BitVec 5)
  /-- VLD (R230): Unit-stride vector load after a whole-range probe. -/
  | vld (c m : BitVec 1) (v x : BitVec 5) (p : BitVec 2)
  /-- VLDS (R230): Strided vector load. -/
  | vlds (c m : BitVec 1) (v x s : BitVec 5) (p : BitVec 2)
  /-- VLDX (R230): Indexed vector gather. -/
  | vldx (c m : BitVec 1) (v x s : BitVec 5) (p : BitVec 2)
  /-- VLDFF (R232): Fault-first unit-stride load that trims at the first failing element and writes VLFF. -/
  | vldff (c m : BitVec 1) (v x : BitVec 5) (p : BitVec 2)
  /-- VQRD (R239): Reads up to VL arrived elements of a stream into a vector register. -/
  | vqrd (c m : BitVec 1) (v x : BitVec 5) (p : BitVec 2)
  /-- VLR (R382): Loads the whole image of a vector register. -/
  | vlr (c : BitVec 1) (v x : BitVec 5)
  /-- VLR_PREDICATE (R382): Loads the whole image of a predicate register. -/
  | vlrPredicate (c : BitVec 1) (v x : BitVec 5)
  /-- VST (R230): Unit-stride vector store after a whole-range probe. -/
  | vst (c m : BitVec 1) (v x : BitVec 5) (p : BitVec 2)
  /-- VSTS (R230): Strided vector store. -/
  | vsts (c m : BitVec 1) (v x s : BitVec 5) (p : BitVec 2)
  /-- VSTX (R230): Indexed vector scatter. -/
  | vstx (c m : BitVec 1) (v x s : BitVec 5) (p : BitVec 2)
  /-- VSR (R382): Stores the whole image of a vector register. -/
  | vsr (c : BitVec 1) (v x : BitVec 5)
  /-- VSR_PREDICATE (R382): Stores the whole image of a predicate register. -/
  | vsrPredicate (c : BitVec 1) (v x : BitVec 5)
  /-- VAMOADD (R236): Per-element atomic add at indexed addresses, returning old words. -/
  | vamoadd (c m : BitVec 1) (v x i : BitVec 5) (p : BitVec 2) (s : BitVec 3)
  /-- VAMOMIN (R236): Per-element atomic minimum at indexed addresses. -/
  | vamomin (c m : BitVec 1) (v x i : BitVec 5) (p : BitVec 2) (s : BitVec 3)
  /-- VAMOMAX (R236): Per-element atomic maximum at indexed addresses. -/
  | vamomax (c m : BitVec 1) (v x i : BitVec 5) (p : BitVec 2) (s : BitVec 3)
  /-- VAMOAND (R236): Per-element atomic AND at indexed addresses. -/
  | vamoand (c m : BitVec 1) (v x i : BitVec 5) (p : BitVec 2) (s : BitVec 3)
  /-- VAMOOR (R236): Per-element atomic OR at indexed addresses. -/
  | vamoor (c m : BitVec 1) (v x i : BitVec 5) (p : BitVec 2) (s : BitVec 3)
  /-- VAMOXOR (R236): Per-element atomic XOR at indexed addresses. -/
  | vamoxor (c m : BitVec 1) (v x i : BitVec 5) (p : BitVec 2) (s : BitVec 3)
  /-- VAMOSWAP (R236): Per-element atomic swap at indexed addresses. -/
  | vamoswap (c m : BitVec 1) (v x i : BitVec 5) (p : BitVec 2) (s : BitVec 3)
  /-- VAMOCAS (R236): Per-element atomic compare-and-swap with new values from group v+G. -/
  | vamocas (c m : BitVec 1) (v x i : BitVec 5) (p : BitVec 2) (s : BitVec 3)
  /-- MMCPY (R157): Memory-to-memory strided element copy. -/
  | mmcpy (c m : BitVec 1) (d a : BitVec 5) (p : BitVec 2)
  /-- MMADD (R157): Memory-to-memory element-wise add. -/
  | mmadd (c m : BitVec 1) (d a b : BitVec 5) (p : BitVec 2)
  /-- MMSUB (R157): Memory-to-memory element-wise subtract. -/
  | mmsub (c m : BitVec 1) (d a b : BitVec 5) (p : BitVec 2)
  /-- MMMUL (R157): Memory-to-memory element-wise multiply. -/
  | mmmul (c m : BitVec 1) (d a b : BitVec 5) (p : BitVec 2)
  /-- MMMIN (R157): Memory-to-memory element-wise minimum. -/
  | mmmin (c m : BitVec 1) (d a b : BitVec 5) (p : BitVec 2)
  /-- MMMAX (R157): Memory-to-memory element-wise maximum. -/
  | mmmax (c m : BitVec 1) (d a b : BitVec 5) (p : BitVec 2)
  /-- TSHP (R166): Sets TSHP from the captured VTYPE and a k-step count at queue entry. -/
  | tshp (c : BitVec 1) (k : BitVec 5)
  /-- MXACC (R169): Adds one outer product into a tile. -/
  | mxacc (c m : BitVec 1) (t : BitVec 3) (a b : BitVec 5)
  /-- MOPK (R170): Performs KS k-steps of outer products into a tile. -/
  | mopk (c m : BitVec 1) (t : BitVec 3) (a b : BitVec 5)
  /-- MXSUB (R169): Subtracts one outer product from a tile. -/
  | mxsub (c m : BitVec 1) (t : BitVec 3) (a b : BitVec 5)
  /-- MZERO (R168): Clears the whole image of a tile. -/
  | mzero (c : BitVec 1) (t : BitVec 3)
  /-- MDRAIN (R173): Drains tile elements as FP32 into a vector register and empties them. -/
  | mdrain (c m : BitVec 1) (t : BitVec 3) (a : BitVec 5)
  /-- MROW (R174): Copies a vector row into every row of a tile. -/
  | mrow (c m : BitVec 1) (t : BitVec 3) (a : BitVec 5)
  /-- TSAVE (R175): Copies the whole tile image into a vector register. -/
  | tsave (c : BitVec 1) (t : BitVec 3) (a : BitVec 5)
  /-- TREST (R175): Copies a vector register image into a tile. -/
  | trest (c : BitVec 1) (t : BitVec 3) (a : BitVec 5)
  /-- QBIND (R238): Binds a stream register to a strided extent after a probe. -/
  | qbind (q : BitVec 3) (a b : BitVec 5)
  /-- BTCOPY (R243): Issues a background block copy reporting each piece in a predicate bit. -/
  | btcopy (a b : BitVec 5) (k : BitVec 4)
  /-- BTGATHER (R244): Issues background row copies named by row numbers in a register. -/
  | btgather (a b : BitVec 5) (k : BitVec 4)
  /-- QRD (R239): Reads the next stream element into a scalar register. -/
  | qrd (q : BitVec 3) (a : BitVec 5)
  /-- SBAR (R241): Orders named streams and transfers against the hart's writes. -/
  | sbar (a : BitVec 5)
  /-- KWAIT (R246): Waits until a range of predicate bits is all 1 and acquires. -/
  | kwait (a b : BitVec 5) (k : BitVec 4)
  /-- WMARK (R247): Publishes a value to a gang watermark after older events perform. -/
  | wmark (a : BitVec 5)
  /-- CHDEMOTE (R248): Demotes the slice lines of a chain. -/
  | chdemote (a : BitVec 5)
  /-- PREF (R249): Hints that an extent be brought into the slices. -/
  | pref (a b : BitVec 5)
  /-- NSQ (R189): Issues a near-stack search query and returns a ticket. -/
  | nsq (a b : BitVec 5) (k : BitVec 4)
  /-- NSSTAT (R190): Reports whether a ticket is unknown, in flight or done. -/
  | nsstat (a b : BitVec 5)
  /-- HCMV (R194): Issues a split product over a row map and returns a ticket. -/
  | hcmv (a b : BitVec 5) (k : BitVec 4)
  /-- HCFIRE (R195): Increments row firing counters for set predicate bits. -/
  | hcfire (a b : BitVec 5) (k : BitVec 4)
  /-- HCAGE (R195): Halves every firing counter of a map. -/
  | hcage (a : BitVec 5)
  /-- HCRANK (R195): Stages the H hottest rows into the other half and starts their copy. -/
  | hcrank (a b : BitVec 5)
  /-- HCCOMMIT (R195): Makes a staged hot half current. -/
  | hccommit (a : BitVec 5)
  /-- WLOPEN (R294): Opens a worklist from its descriptor. -/
  | wlopen (a b : BitVec 5)
  /-- WLPUSH (R295): Queues a task at a priority level. -/
  | wlpush (a b : BitVec 5)
  /-- WLPOP (R296): Takes a task from the window, or waits, or returns NONE or DONE. -/
  | wlpop (a b : BitVec 5)
  /-- WLDONE (R297): Retires an outstanding token. -/
  | wldone (a : BitVec 5)
  /-- WLSTAT (R298): Returns the worklist status word. -/
  | wlstat (a b : BitVec 5)
  /-- WLFLOOR (R298): Returns the worklist floor. -/
  | wlfloor (a b : BitVec 5)
  /-- GLAUNCH (R261): Checks a gang descriptor and launches the gang, returning its handle. -/
  | glaunch (a b : BitVec 5)
  /-- GWAIT (R264): Waits for a gang to retire and returns its status. -/
  | gwait (a b : BitVec 5)
  /-- GBAR (R274): Arrives at a gang barrier and waits for its epoch. -/
  | gbar (a : BitVec 5)
  /-- XRED (R277): Joins a reduction across every member of the gang. -/
  | xred (a : BitVec 5) (k : BitVec 4)
  /-- LSLOT (R312): Reads a slot word and forms a tagged pointer. -/
  | lslot (d a : BitVec 5) (n : BitVec 6)
  /-- PCHK (R313): Checks an access against its slot without performing it. -/
  | pchk (d a : BitVec 5) (n : BitVec 4)
  /-- PTAG (R314): Returns the slot index carried by a register's tag. -/
  | ptag (d a : BitVec 5)
  /-- PSTRIP (R314): Copies a register without its tag. -/
  | pstrip (d a : BitVec 5)
  /-- RPATCH_WRITE (R315): Writes a whole slot word atomically. -/
  | rpatchWrite (d a : BitVec 5)
  /-- RPATCH_MOVE (R315): Sets BASE and STATE of a slot word and advances GEN. -/
  | rpatchMove (d a : BitVec 5)
  /-- WATTEST_REPORT (R337): Writes a signed attestation report and creates a new report key. -/
  | wattestReport (d a : BitVec 5)
  /-- WATTEST_ALLOW (R338): Sets the world's allow-list and returns the previous one. -/
  | wattestAllow (d a : BitVec 5)
  /-- WATTEST_LOG (R339): Moves the disclosure log into a buffer. -/
  | wattestLog (d a : BitVec 5)
  /-- WATTEST_GRANT (R340): Grants another world use of this world's key. -/
  | wattestGrant (d a : BitVec 5)
  /-- WATTEST_REVOKE (R340): Revokes a key grant and waits for its accesses to drain. -/
  | wattestRevoke (d a : BitVec 5)
  /-- WBIND_OPEN (R342): Creates a world with version 0 and its device list. -/
  | wbindOpen (d a : BitVec 5)
  /-- WBIND_NEWVER (R343): Creates a key version of a world. -/
  | wbindNewver (d a : BitVec 5)
  /-- WBIND_PLACE (R344): Copies plaintext into world memory encrypted and extends the image measurement. -/
  | wbindPlace (d a : BitVec 5)
  /-- WBIND_SEAL (R348): Accepts a sealed load of a .rodata into a pending version. -/
  | wbindSeal (d a : BitVec 5)
  /-- WBIND_INSTALL (R350): Accepts installation of a sealed model into a store entry. -/
  | wbindInstall (d a : BitVec 5)
  /-- WBIND_ERASE (R350): Destroys a store entry's key and frees it. -/
  | wbindErase (d a : BitVec 5)
  /-- WBIND_CLOSE (R345): Destroys every version, grant and log of a world. -/
  | wbindClose (d a : BitVec 5)
  /-- ECALL (R378): Traps with cause 10 passing a code and a value. -/
  | ecall (d a : BitVec 5) (n : BitVec 6)
  /-- EBREAK (R378): Traps with cause 11. -/
  | ebreak (n : BitVec 6)
  /-- MTCR (R369): Writes a control register in program order. -/
  | mtcr (x : BitVec 5) (c : BitVec 10)
  /-- MFCR (R369): Reads a control register into a scalar register. -/
  | mfcr (x : BitVec 5) (c : BitVec 10)
  /-- SVL (R139): Applies any pending share and sets VL to min(request, VLMAX). -/
  | svl (d a : BitVec 5)
  /-- SVL_W (R139): Sets the strip and waits for the watermark to reach POS plus VL. -/
  | svlW (d a : BitVec 5)
  /-- WFE (R380): Waits for an event or a cycle count. -/
  | wfe (d a : BitVec 5)
  /-- CSYNC (R381): Fences and invalidates instruction-cache lines on every core. -/
  | csync (d a : BitVec 5)
  /-- VMVXS (R156): Moves element 0 of a vector register to a scalar register. -/
  | vmvxs (d a : BitVec 5)
  /-- KPOP (R156): Counts the set predicate bits below VL. -/
  | kpop (d a : BitVec 5)
  /-- KFIRST (R156): Returns the lowest set predicate bit index below VL. -/
  | kfirst (d a : BitVec 5)
  /-- HYIELD (R271): Ends the hart's current quantum. -/
  | hyield
  /-- GEXIT (R279): Ends the hart once older work has completed. -/
  | gexit
  /-- SLOTSYNC (R316): Invalidates every slot cache of the device and waits for acknowledgement. -/
  | slotsync
  /-- ERET (R379): Returns from handler mode, restoring the context from its CSA. -/
  | eret
  /-- FENCE (R237): Orders older scalar-side events before younger scalar-side events. -/
  | fence
  /-- FENCE_SV (R237): Orders older scalar-side events before younger events of both sides. -/
  | fenceSv
  /-- FENCE_VS (R237): Orders older events of both sides before younger scalar-side events. -/
  | fenceVs
  /-- FENCE_SV_VS (R237): Orders older events of both sides before younger events of both sides. -/
  | fenceSvVs
  /-- VTYPE_WRITE (R136): A write of VTYPE sets the type or marks it VILL. -/
  | vtypeWrite (x : BitVec 5)
  /-- TSHP_WRITE (R161): A write of TSHP sets the shape or marks it TILL. -/
  | tshpWrite (x : BitVec 5)
  /-- FRM_WRITE (R97): A write of FRM sets RM unless the code is 6 or 7. -/
  | frmWrite (x : BitVec 5)
  /-- FFLAGS_WRITE (R104): A write of FFLAGS merges older instructions' flags and then overwrites them. -/
  | fflagsWrite (x : BitVec 5)
  /-- FFLAGS_READ (R104): A read of FFLAGS waits for older vector and matrix instructions. -/
  | fflagsRead (x : BitVec 5)
  /-- VLFF_READ (R233): A read of VLFF waits for older vldff and vqrd. -/
  | vlffRead (x : BitVec 5)
  /-- VLCAP_WRITE (R266): A write of VLCAP sets CAP, possibly making a reduction pending. -/
  | vlcapWrite (x : BitVec 5)
  /-- SCHEDCFG_WRITE (R270): A write of SCHEDCFG sets in-range scheduling fields. -/
  | schedcfgWrite (x : BitVec 5)
  /-- VVIEW_OWN (R376): Views the trapping context's vector state. -/
  | vviewOwn
  /-- VVIEW_ADDR (R376): Views the in-lanes state of the context whose CSA ADDR names. -/
  | vviewAddr (x : BitVec 5)
  /-- VVIEW_EVICT (R376): Evicts the viewed context's lane groups, setting its VLOC to 2. -/
  | vviewEvict
  /-- VVIEW_INSTALL (R376): Installs free lane groups for the trapping context with zero images. -/
  | vviewInstall
  /-- FWD_HOLD (R318): Setting forwarding MODE 1 holds stores to the OLD extent. -/
  | fwdHold (e : BitVec 6)
  /-- FWD_FORWARD (R318): Setting forwarding MODE 2 applies held writes at NEW and forwards later accesses. -/
  | fwdForward (e : BitVec 6)
  /-- FWD_FREE (R317): Setting forwarding MODE 0 returns OLD accesses to OLD. -/
  | fwdFree (e : BitVec 6)
  /-- CSAFREE_PUSH (R372): A write of CSAFREE pushes a CSA address onto the free list. -/
  | csafreePush (a : BitVec 64)
  /-- HART_HOLD (R373): Writing CTL 1 requests a hold of a hart. -/
  | hartHold (ser : BitVec 16)
  /-- HART_RELEASE (R372): Writing CTL 2 releases a held hart. -/
  | hartRelease (ser : BitVec 16)
  /-- EXTENT_ACCEPT (R399): Writing STATE 2 maps an offered capacity extent. -/
  | extentAccept (p : BitVec 3) (e : BitVec 6)
  /-- EXTENT_DECLINE (R399): Writing STATE 0 to an offered entry declines it. -/
  | extentDecline (p : BitVec 3) (e : BitVec 6)
  /-- EXTENT_RELEASE (R400): Writing STATE 3 starts the release of a mapped extent. -/
  | extentRelease (p : BitVec 3) (e : BitVec 6)
  /-- EXTENT_FREE (R399): Writing STATE 0 frees a withdrawn extent entry. -/
  | extentFree (p : BitVec 3) (e : BitVec 6)
  /-- MSIX_RAISE (R397): A write of n raises MSI-X vector n to the host. -/
  | msixRaise (n : BitVec 64)
  /-- REGISTER_WRITE (R369): A write of a register that has no behaviour of its own. -/
  | registerWrite (x : BitVec 5) (c : BitVec 10)
  /-- RESET (R366): Device reset brings every unit to its reset values and awaits BOOT. -/
  | reset
  /-- BOOT (R366): The management BOOT command reads and places a world-0 image. -/
  | boot (image : List (BitVec 8))
  /-- BOOT_HART_START (R366): The boot hart starts on core 0 once the image is placed. -/
  | bootHartStart
  /-- MICROOP_ISSUE (R272): The sequencer issues a ready element-group micro-operation. -/
  | microopIssue (core : BitVec 8)
  /-- MICROOP_AGED (R272): A micro-operation ready for AGEMAX cycles becomes aged. -/
  | microopAged (ser : BitVec 16)
  /-- EVENT_DELIVERY (R362): The oldest queued asynchronous event is delivered to a world-0 hart. -/
  | eventDelivery
  /-- QUANTUM_EXPIRY (R269): The end of a quantum requests a pre-emption. -/
  | quantumExpiry (ser : BitVec 16)
  /-- LPGRACE_EXPIRY (R268): A pending share reduction unmet within LPGRACE deschedules the hart whole. -/
  | lpgraceExpiry (ser : BitVec 16)
  /-- SHARE_GRANT_CHANGE (R265): The scheduler makes a change of a hart's lane share pending. -/
  | shareGrantChange (ser : BitVec 16) (n : BitVec 3)
  /-- PREEMPTION (R373): The hart's context is saved within 10 µs of a request. -/
  | preemption (ser : BitVec 16)
  /-- SWITCH_OUT (R374): The scheduler writes a hart's CSA without a handler. -/
  | switchOut (ser : BitVec 16)
  /-- SWITCH_IN (R374): The scheduler reloads a context from its CSA and refills its queue. -/
  | switchIn (ser : BitVec 16)
  /-- DOMAIN_SLICE_START (R273): At agreed time T members pre-empt slots for a domain gang's slice. -/
  | domainSliceStart (gid : BitVec 32)
  /-- SLICE_FORFEIT (R273): A member not ready by T plus SGRACE forfeits the slice on every member. -/
  | sliceForfeit (gid : BitVec 32)
  /-- GANG_PLACEMENT (R263): A member is placed once a free CSA is available. -/
  | gangPlacement (gid : BitVec 32)
  /-- GANG_START (R263): The start barrier completes and every member becomes runnable. -/
  | gangStart (gid : BitVec 32)
  /-- GWAIT_RETURN (R264): A waiting gwait returns the retired gang's status. -/
  | gwaitReturn (ser : BitVec 16)
  /-- GBAR_RELEASE (R274): All live members have arrived, the barrier advances its epoch. -/
  | gbarRelease (gid : BitVec 32) (b : BitVec 4)
  /-- GEXIT_COMPLETE (R279): Older work drained, the hart exits and releases its slot. -/
  | gexitComplete (ser : BitVec 16)
  /-- XRED_COMPLETE (R277): A gang reduction writes every buffer, XRSTAT and completion bit. -/
  | xredComplete (gid : BitVec 32) (k : Nat)
  /-- SVL_W_PASS (R139): The watermark reaches the bound and svl.w sets VL with acquire. -/
  | svlWPass (ser : BitVec 16)
  /-- KWAIT_RETURN (R246): The awaited predicate bits are all 1 and kwait returns with acquire. -/
  | kwaitReturn (ser : BitVec 16)
  /-- QRD_RETURN (R239): The awaited stream element arrives and qrd writes it. -/
  | qrdReturn (ser : BitVec 16)
  /-- WMARK_PUBLISH (R247): Older events performed, the watermark takes the published value. -/
  | wmarkPublish (ser : BitVec 16)
  /-- FENCE_DRAINED (R237): A fence's before-set has performed and the hart proceeds. -/
  | fenceDrained (ser : BitVec 16)
  /-- SLOTSYNC_COMPLETE (R316): Every core has acknowledged the slot-cache invalidation. -/
  | slotsyncComplete (ser : BitVec 16)
  /-- STREAM_FETCH (R238): A stream fetches its next element into staging. -/
  | streamFetch (ser : BitVec 16) (q : BitVec 3)
  /-- LINE_FILL (R333): A slice fills a line and verifies its ECC and MAC. -/
  | lineFill (ser : BitVec 16) (a : BitVec 52)
  /-- REMOTE_PACKET_ARRIVAL (R221): A fabric packet reaches its target memory unit and performs. -/
  | remotePacketArrival (n : Nat)
  /-- HOST_COMPLETION (R396): A host completion arrives for a read or atomic. -/
  | hostCompletion (ser : BitVec 16) (ok : Bool) (data : List (BitVec 8))
  /-- HOST_COMPLETION_TIMEOUT (R396): No host completion within 16 ms faults the access. -/
  | hostCompletionTimeout (ser : BitVec 16)
  /-- HOST_WRITE_FAILURE (R396): A host-reported write failure posts an error report. -/
  | hostWriteFailure (a : BitVec 64)
  /-- HOST_LINK_DOWN (R396): Loss of the host link makes host windows unpopulated. -/
  | hostLinkDown
  /-- SHARD_SEARCH_COMPLETE (R186): A stack engine finishes its shard's reference search. -/
  | shardSearchComplete (ser : BitVec 16) (t : Nat) (k : BitVec 4)
  /-- SEARCH_COMPLETE (R187): The home stack merges shard results, writes the record and sets the bit. -/
  | searchComplete (ser : BitVec 16) (t : Nat)
  /-- SPLIT_PRODUCT_COMPLETE (R194): Every y of a split product is stored and the completion bit set. -/
  | splitProductComplete (ser : BitVec 16) (t : Nat)
  /-- HCRANK_COPY_DONE (R195): The background hot-row copy of an hcrank finishes. -/
  | hcrankCopyDone (n : Nat)
  /-- BT_PIECE_COMPLETE (R245): A block-transfer piece is read and written and its bit set. -/
  | btPieceComplete (n k : Nat)
  /-- WLPOP_RETURN (R296): A waiting pop takes a task of the window or returns DONE. -/
  | wlpopReturn (ser : BitVec 16)
  /-- WL_DETECTION_WAVE (R289): A termination wave visits every member and sums pushes and retirements. -/
  | wlDetectionWave (gid : BitVec 32) (w : BitVec 4)
  /-- WL_BALANCE_MOVE (R300): Queued tasks move from device FROM to an idle device TO. -/
  | wlBalanceMove (gid : BitVec 32) (w : BitVec 4) (i : Nat)
  /-- WL_UNSPILL (R287): Spilled tasks are brought back as room and floor allow. -/
  | wlUnspill (gid : BitVec 32) (w : BitVec 4)
  /-- KEY_EXCHANGE_COMPLETE (R342): A listed device finishes the world key exchange and becomes ready. -/
  | keyExchangeComplete (wid : BitVec 10) (dev : BitVec 8)
  /-- SEALED_LOAD_COMPLETE (R348): A sealed load ends with a final status and posts the interrupt. -/
  | sealedLoadComplete (n : Nat)
  /-- INSTALL_COMPLETE (R350): A model installation into a store entry ends with a final status. -/
  | installComplete (n : Nat)
  /-- CORRECTED_ERROR (R384): A check detects and corrects an error. -/
  | correctedError (cls : BitVec 8) (unit : CorrectedUnit)
  /-- UNCORRECTABLE_ERROR (R385): A detected uncorrectable error is handled without passing bad data. -/
  | uncorrectableError (site : ErrorSite)
  /-- SELF_TEST_COMPLETE (R387): A unit's targeted self-test ends, returning or retiring it. -/
  | selfTestComplete (cls : BitVec 8) (unit : BitVec 16) (passed : Bool)
  /-- FLIT_RECEIVE (R392): A receiver takes a data flit, delivering it in sequence or rejecting it. -/
  | flitReceive (data : BitVec 512) (check : BitVec 64) (damage : List (BitVec 72))
  /-- NAK_RECEIVE (R392): A sender receiving a NAK replays flits after g. -/
  | nakReceive (g : BitVec 10)
  /-- ACK_RECEIVE (R392): A cumulative acknowledgement frees retry buffer entries. -/
  | ackReceive (g : BitVec 10)
  /-- READY_WINDOW_RECEIVE (R393): A ready flit updates the sender's window. -/
  | readyWindowReceive (w : BitVec 10)
  /-- REPLAY_TIMEOUT (R392): No acknowledgement within 2 µs replays from the oldest flit. -/
  | replayTimeout
  /-- PORT_RETRAIN (R394): Sixteen failed replays or lost lock retrain all 36 links. -/
  | portRetrain (ok : Bool)
  /-- PORT_UP (R394): Management retrains the port and key exchanges rerun. -/
  | portUp
  /-- EXTENT_OFFERED (R399): The fabric manager offers a capacity extent. -/
  | extentOffered (p : BitVec 3) (e : BitVec 6) (off : BitVec 13) (units : BitVec 14)
  /-- RELEASE_REQUEST (R400): The fabric manager requests release of a mapped extent. -/
  | releaseRequest (p : BitVec 3) (e : BitVec 6)
  /-- RELEASE_COMPLETE (R400): Accesses drained and dirty lines written back, the release is acknowledged. -/
  | releaseComplete (p : BitVec 3) (e : BitVec 6)
  /-- FORCED_RELEASE (R401): A forced release withdraws an extent at once. -/
  | forcedRelease (p : BitVec 3) (e : BitVec 6)
  /-- ROOT_PORT_FAILURE (R401): A root-port link failure withdraws its extents. -/
  | rootPortFailure (p : BitVec 3)
  /-- CLOCK_STEP (R405): The compute clock moves one 100 MHz step to keep within the power limit. -/
  | clockStep (up : Bool)
  /-- THERMAL_ALARM (R405): Over-temperature for 1 ms at 800 MHz raises the environmental alarm. -/
  | thermalAlarm (die : BitVec 2)
  /-- POWER_LIMIT_SET (R405): Management sets the power and temperature limits. -/
  | powerLimitSet (watts temp : BitVec 16)
  /-- FIRMWARE_UPDATE (R406): A signed firmware image is written into the inactive store. -/
  | firmwareUpdate (image : FirmwareImage)
  /-- MGMT_COUNTER_READ (R338): A host or world-0 read of a world's counters, decided by its allow-list. -/
  | mgmtCounterRead (wid : BitVec 10) (cls : BitVec 6) (host : Bool)
  /-- FUSE_READ (R397): Management reads fuse values. -/
  | fuseRead (n : BitVec 4)
  /-- ERROR_LOG_READ (R397): Management reads the error log. -/
  | errorLogRead
  /-- RETIREMENT_MAP_READ (R397): Management reads the retirement map. -/
  | retirementMapRead
  /-- POWER_STATE_SET (R397): Management sets the module power state. -/
  | powerStateSet (n : BitVec 8)
  /-- LINE_WRITE_BACK (R206): A memory-side slice writes a dirty line back to its stack, computing its MAC and advancing the page counter, which may post the counter-threshold interrupt. -/
  | lineWriteBack (a : BitVec 52)
  /-- WFE_TIMEOUT (R380): A wfe whose x[xa] cycles pass before any event writes x[xd] := 0 and ends its wait. -/
  | wfeTimeout (ser : BitVec 16)
  /-- HOST_LINK_UP (R396): The host link returns after being down and host-window addresses become populated again. -/
  | hostLinkUp
  /-- CORRECTED_ERROR_REPORT_DUE (R390): When the one-millisecond interval of a unit ends, the corrected errors it has held back are posted in one error report whose COUNT covers them. -/
  | correctedErrorReportDue (cls : BitVec 8) (unit : BitVec 16)
deriving DecidableEq, Repr

end Sys2Proof
end

