-- ==== Sys2Proof/WellFormed.lean ====
section
/-! DEFINITION. Well-formed instructions: every field in the range that check 4 of R20 gives it. The
widths of the fields are those of the constructors, so only the bounds that are no powers of two are
left to say. -/

namespace Sys2Proof

/-- The control-register numbers that R368 lists. -/
def crnListed (c : BitVec 10) : Bool :=
  let n := c.toNat
  n ≤ 0x00A || (0x010 ≤ n && n ≤ 0x013) || (0x020 ≤ n && n ≤ 0x023) || (0x030 ≤ n && n ≤ 0x032) ||
    (0x040 ≤ n && n ≤ 0x048)

/-- Are all fields of the instruction in range (check 4 of R20)? -/
def Instr.wf (i : Instr) : Bool :=
  match i with
  | .add _ _ _ => true
  | .sub _ _ _ => true
  | .and _ _ _ => true
  | .or _ _ _ => true
  | .xor _ _ _ => true
  | .sll _ _ _ => true
  | .srl _ _ _ => true
  | .sra _ _ _ => true
  | .slt _ _ _ => true
  | .sltu _ _ _ => true
  | .min _ _ _ => true
  | .max _ _ _ => true
  | .mul _ _ _ => true
  | .mulh _ _ _ => true
  | .mulhu _ _ _ => true
  | .div _ _ _ => true
  | .divu _ _ _ => true
  | .rem _ _ _ => true
  | .remu _ _ _ => true
  | .clz _ _ => true
  | .ctz _ _ => true
  | .popc _ _ => true
  | .sextb _ _ => true
  | .sexth _ _ => true
  | .sextw _ _ => true
  | .zexth _ _ => true
  | .zextw _ _ => true
  | .faddd _ _ _ => true
  | .fsubd _ _ _ => true
  | .fmuld _ _ _ => true
  | .fdivd _ _ _ => true
  | .fsqrtd _ _ => true
  | .fmad _ _ _ => true
  | .fmind _ _ _ => true
  | .fmaxd _ _ _ => true
  | .feqd _ _ _ => true
  | .fltd _ _ _ => true
  | .fled _ _ _ => true
  | .fadds _ _ _ => true
  | .fmuls _ _ _ => true
  | .fmas _ _ _ => true
  | .fcvtsd _ _ => true
  | .fcvtds _ _ => true
  | .fcvtld _ _ => true
  | .fcvtdl _ _ => true
  | .amoadd _ _ _ s => decide (s.toNat ≤ 5)
  | .amomin _ _ _ s => decide (s.toNat ≤ 5)
  | .amomax _ _ _ s => decide (s.toNat ≤ 5)
  | .amoand _ _ _ s => decide (s.toNat ≤ 5)
  | .amoor _ _ _ s => decide (s.toNat ≤ 5)
  | .amoxor _ _ _ s => decide (s.toNat ≤ 5)
  | .amoswap _ _ _ s => decide (s.toNat ≤ 5)
  | .amocas _ _ _ s => decide (s.toNat ≤ 5)
  | .addi _ _ _ => true
  | .andi _ _ _ => true
  | .ori _ _ _ => true
  | .slli _ _ _ => true
  | .srli _ _ _ => true
  | .srai _ _ _ => true
  | .jalr _ _ _ => true
  | .lb _ _ _ => true
  | .lbu _ _ _ => true
  | .lh _ _ _ => true
  | .lhu _ _ _ => true
  | .lw _ _ _ => true
  | .lwu _ _ _ => true
  | .ld _ _ _ => true
  | .sb _ _ _ => true
  | .sh _ _ _ => true
  | .sw _ _ _ => true
  | .sd _ _ _ => true
  | .lui _ _ => true
  | .auipc _ _ => true
  | .beq _ _ _ => true
  | .bne _ _ _ => true
  | .blt _ _ _ => true
  | .bge _ _ _ => true
  | .bltu _ _ _ => true
  | .bgeu _ _ _ => true
  | .bcnt _ _ => true
  | .j _ => true
  | .jal _ => true
  | .stir k => decide (k.toNat ≤ 11)
  | .stirCopy k _ => decide (k.toNat ≤ 11)
  | .cmov _ => true
  | .caddi _ _ => true
  | .csubi _ _ => true
  | .cslli _ _ => true
  | .csrli _ _ => true
  | .csrai _ _ => true
  | .candi _ _ => true
  | .cadd _ _ => true
  | .csub _ _ => true
  | .cand _ _ => true
  | .cor _ _ => true
  | .cxor _ _ => true
  | .vadd _ _ _ _ _ => true
  | .vsub _ _ _ _ _ => true
  | .vmul _ _ _ _ _ => true
  | .vmulh _ _ _ _ _ => true
  | .vmin _ _ _ _ _ => true
  | .vmax _ _ _ _ _ => true
  | .vand _ _ _ _ _ => true
  | .vor _ _ _ _ _ => true
  | .vxor _ _ _ _ _ => true
  | .vsadd _ _ _ _ _ => true
  | .vssub _ _ _ _ _ => true
  | .vmacc _ _ _ _ _ => true
  | .vaddx _ _ _ _ _ => true
  | .vmulx _ _ _ _ _ => true
  | .vaddi _ _ _ _ _ => true
  | .vslli _ _ _ _ _ => true
  | .vsrli _ _ _ _ _ => true
  | .vsrai _ _ _ _ _ => true
  | .vcmpeq _ _ d _ _ => decide (d.toNat ≤ 11)
  | .vcmplt _ _ d _ _ => decide (d.toNat ≤ 11)
  | .vcmple _ _ d _ _ => decide (d.toNat ≤ 11)
  | .vsel _ _ _ _ _ => true
  | .vmvx _ _ _ _ => true
  | .vfadd _ _ _ _ _ => true
  | .vfsub _ _ _ _ _ => true
  | .vfmul _ _ _ _ _ => true
  | .vfdiv _ _ _ _ _ => true
  | .vfsqrt _ _ _ _ => true
  | .vfma _ _ _ _ _ => true
  | .vfmin _ _ _ _ _ => true
  | .vfmax _ _ _ _ _ => true
  | .vfcmpeq _ _ d _ _ => decide (d.toNat ≤ 11)
  | .vfcmplt _ _ d _ _ => decide (d.toNat ≤ 11)
  | .vfcmple _ _ d _ _ => decide (d.toNat ≤ 11)
  | .vfmulx _ _ _ _ _ => true
  | .vfsmul _ _ _ _ _ => true
  | .vfsmacc _ _ _ _ _ => true
  | .vfcvt _ _ _ _ => true
  | .vfcvti _ _ _ _ => true
  | .vicvtf _ _ _ _ => true
  | .vicvt _ _ _ _ => true
  | .vredsum _ _ _ _ => true
  | .vredmax _ _ _ _ => true
  | .vfredsum _ _ _ _ => true
  | .vfredmax _ _ _ _ => true
  | .vtopk _ _ _ _ _ => true
  | .vperm _ _ _ _ _ => true
  | .vslideup _ _ _ _ _ => true
  | .vslidedn _ _ _ _ _ => true
  | .vcompress _ _ _ _ => true
  | .viota _ _ _ => true
  | .vskv _ _ _ _ => true
  | .kand _ _ d a b => decide (d.toNat ≤ 11) && decide (a.toNat ≤ 11) && decide (b.toNat ≤ 11)
  | .kor _ _ d a b => decide (d.toNat ≤ 11) && decide (a.toNat ≤ 11) && decide (b.toNat ≤ 11)
  | .kxor _ _ d a b => decide (d.toNat ≤ 11) && decide (a.toNat ≤ 11) && decide (b.toNat ≤ 11)
  | .kandn _ _ d a b => decide (d.toNat ≤ 11) && decide (a.toNat ≤ 11) && decide (b.toNat ≤ 11)
  | .knot _ _ d a => decide (d.toNat ≤ 11) && decide (a.toNat ≤ 11)
  | .kbefore _ _ d a => decide (d.toNat ≤ 11) && decide (a.toNat ≤ 11)
  | .kset _ _ d => decide (d.toNat ≤ 11)
  | .vld _ _ _ _ _ => true
  | .vlds _ _ _ _ _ _ => true
  | .vldx _ _ _ _ _ _ => true
  | .vldff _ _ _ _ _ => true
  | .vqrd _ _ _ x _ => decide (x.toNat ≤ 7)
  | .vlr _ _ _ => true
  | .vlrPredicate _ v _ => decide (v.toNat ≤ 11)
  | .vst _ _ _ _ _ => true
  | .vsts _ _ _ _ _ _ => true
  | .vstx _ _ _ _ _ _ => true
  | .vsr _ _ _ => true
  | .vsrPredicate _ v _ => decide (v.toNat ≤ 11)
  | .vamoadd _ _ _ _ _ _ s => decide (s.toNat ≤ 5)
  | .vamomin _ _ _ _ _ _ s => decide (s.toNat ≤ 5)
  | .vamomax _ _ _ _ _ _ s => decide (s.toNat ≤ 5)
  | .vamoand _ _ _ _ _ _ s => decide (s.toNat ≤ 5)
  | .vamoor _ _ _ _ _ _ s => decide (s.toNat ≤ 5)
  | .vamoxor _ _ _ _ _ _ s => decide (s.toNat ≤ 5)
  | .vamoswap _ _ _ _ _ _ s => decide (s.toNat ≤ 5)
  | .vamocas _ _ _ _ _ _ s => decide (s.toNat ≤ 5)
  | .mmcpy _ _ _ _ _ => true
  | .mmadd _ _ _ _ _ _ => true
  | .mmsub _ _ _ _ _ _ => true
  | .mmmul _ _ _ _ _ _ => true
  | .mmmin _ _ _ _ _ _ => true
  | .mmmax _ _ _ _ _ _ => true
  | .tshp _ _ => true
  | .mxacc _ _ _ _ _ => true
  | .mopk _ _ _ _ _ => true
  | .mxsub _ _ _ _ _ => true
  | .mzero _ _ => true
  | .mdrain _ _ _ _ => true
  | .mrow _ _ _ _ => true
  | .tsave _ _ _ => true
  | .trest _ _ _ => true
  | .qbind _ _ _ => true
  | .btcopy _ _ k => decide (k.toNat ≤ 11)
  | .btgather _ _ k => decide (k.toNat ≤ 11)
  | .qrd _ _ => true
  | .sbar _ => true
  | .kwait _ _ k => decide (k.toNat ≤ 11)
  | .wmark _ => true
  | .chdemote _ => true
  | .pref _ _ => true
  | .nsq _ _ k => decide (k.toNat ≤ 11)
  | .nsstat _ _ => true
  | .hcmv _ _ k => decide (k.toNat ≤ 11)
  | .hcfire _ _ k => decide (k.toNat ≤ 11)
  | .hcage _ => true
  | .hcrank _ _ => true
  | .hccommit _ => true
  | .wlopen _ _ => true
  | .wlpush _ _ => true
  | .wlpop _ _ => true
  | .wldone _ => true
  | .wlstat _ _ => true
  | .wlfloor _ _ => true
  | .glaunch _ _ => true
  | .gwait _ _ => true
  | .gbar _ => true
  | .xred _ k => decide (k.toNat ≤ 11)
  | .lslot _ _ _ => true
  | .pchk _ _ _ => true
  | .ptag _ _ => true
  | .pstrip _ _ => true
  | .rpatchWrite _ _ => true
  | .rpatchMove _ _ => true
  | .wattestReport _ _ => true
  | .wattestAllow _ _ => true
  | .wattestLog _ _ => true
  | .wattestGrant _ _ => true
  | .wattestRevoke _ _ => true
  | .wbindOpen _ _ => true
  | .wbindNewver _ _ => true
  | .wbindPlace _ _ => true
  | .wbindSeal _ _ => true
  | .wbindInstall _ _ => true
  | .wbindErase _ _ => true
  | .wbindClose _ _ => true
  | .ecall _ _ _ => true
  | .ebreak _ => true
  | .mtcr _ c => crnListed c
  | .mfcr _ c => crnListed c
  | .svl _ _ => true
  | .svlW _ _ => true
  | .wfe _ _ => true
  | .csync _ _ => true
  | .vmvxs _ _ => true
  | .kpop _ a => decide (a.toNat ≤ 11)
  | .kfirst _ a => decide (a.toNat ≤ 11)
  | .hyield => true
  | .gexit => true
  | .slotsync => true
  | .eret => true
  | .fence => true
  | .fenceSv => true
  | .fenceVs => true
  | .fenceSvVs => true
  | .vtypeWrite _ => true
  | .tshpWrite _ => true
  | .frmWrite _ => true
  | .fflagsWrite _ => true
  | .fflagsRead _ => true
  | .vlffRead _ => true
  | .vlcapWrite _ => true
  | .schedcfgWrite _ => true
  | .vviewOwn => true
  | .vviewAddr _ => true
  | .vviewEvict => true
  | .vviewInstall => true
  | .fwdHold _ => true
  | .fwdForward _ => true
  | .fwdFree _ => true
  | .csafreePush _ => true
  | .hartHold _ => true
  | .hartRelease _ => true
  | .extentAccept _ _ => true
  | .extentDecline _ _ => true
  | .extentRelease _ _ => true
  | .extentFree _ _ => true
  | .msixRaise _ => true
  | .registerWrite _ c => crnListed c
  | .reset => true
  | .boot _ => true
  | .bootHartStart => true
  | .microopIssue _ => true
  | .microopAged _ => true
  | .eventDelivery => true
  | .quantumExpiry _ => true
  | .lpgraceExpiry _ => true
  | .shareGrantChange _ _ => true
  | .preemption _ => true
  | .switchOut _ => true
  | .switchIn _ => true
  | .domainSliceStart _ => true
  | .sliceForfeit _ => true
  | .gangPlacement _ => true
  | .gangStart _ => true
  | .gwaitReturn _ => true
  | .gbarRelease _ _ => true
  | .gexitComplete _ => true
  | .xredComplete _ _ => true
  | .svlWPass _ => true
  | .kwaitReturn _ => true
  | .qrdReturn _ => true
  | .wmarkPublish _ => true
  | .fenceDrained _ => true
  | .slotsyncComplete _ => true
  | .streamFetch _ _ => true
  | .lineFill _ _ => true
  | .remotePacketArrival _ => true
  | .hostCompletion _ _ _ => true
  | .hostCompletionTimeout _ => true
  | .hostWriteFailure _ => true
  | .hostLinkDown => true
  | .shardSearchComplete _ _ _ => true
  | .searchComplete _ _ => true
  | .splitProductComplete _ _ => true
  | .hcrankCopyDone _ => true
  | .btPieceComplete _ _ => true
  | .wlpopReturn _ => true
  | .wlDetectionWave _ _ => true
  | .wlBalanceMove _ _ _ => true
  | .wlUnspill _ _ => true
  | .keyExchangeComplete _ _ => true
  | .sealedLoadComplete _ => true
  | .installComplete _ => true
  | .correctedError _ _ => true
  | .uncorrectableError _ => true
  | .selfTestComplete _ _ _ => true
  | .flitReceive _ _ _ => true
  | .nakReceive _ => true
  | .ackReceive _ => true
  | .readyWindowReceive _ => true
  | .replayTimeout => true
  | .portRetrain _ => true
  | .portUp => true
  | .extentOffered _ _ _ _ => true
  | .releaseRequest _ _ => true
  | .releaseComplete _ _ => true
  | .forcedRelease _ _ => true
  | .rootPortFailure _ => true
  | .clockStep _ => true
  | .thermalAlarm _ => true
  | .powerLimitSet _ _ => true
  | .firmwareUpdate _ => true
  | .mgmtCounterRead _ _ _ => true
  | .fuseRead _ => true
  | .errorLogRead => true
  | .retirementMapRead => true
  | .powerStateSet _ => true
  | .lineWriteBack _ => true
  | .wfeTimeout _ => true
  | .hostLinkUp => true
  | .correctedErrorReportDue _ _ => true

end Sys2Proof
end

