-- ==== Sys2Proof/Decode.lean ====
section
/-! DEFINITION. The decoder (R18 to R27, R38 to R50) and, after it, the encoder. `decode` is total on
every 32-bit word; a word that is no instruction is rejected with the name of the check of R20 that
fails. The rejects of checks 1 to 4 and of check 6 end in the illegal-instruction trap. -/

namespace Sys2Proof

/-- The check of R20 that refuses a word. -/
inductive Reject where
  /-- check 1: the major opcode is reserved -/
  | reservedMajor
  /-- check 2: the fn value is not assigned -/
  | unassignedFn
  /-- check 3: a field that is not used, or a reserved field, is not zero -/
  | unusedField
  /-- check 4: a field holds a value outside its range -/
  | range
  /-- check 6: an operand constraint on the word's fields fails -/
  | operand
  /-- check 6 in a privileged code point: check 5 comes before it -/
  | operandPrivileged
deriving DecidableEq, Repr

/-- The field of `n` bits from bit `lo` of a word. -/
def field (n lo : Nat) (w : Nat) : BitVec n := BitVec.ofNat n (w / 2 ^ lo)

/-- The instruction, when the fields that must be zero are (check 3). -/
def ifZero (z : Bool) (r : Except Reject Instr) : Except Reject Instr :=
  if z then r else .error .unusedField

/-- The instruction, when its fields are in range (check 4). -/
def ifRange (i : Instr) : Except Reject Instr :=
  if i.wf then .ok i else .error .range

/-- Major 0x01. Format A (R22). -/
def decA01 (d : BitVec 5) (a : BitVec 5) (b : BitVec 5) (fn : Nat) : Except Reject Instr :=
  match fn with
  | 0x000 => .ok (.add d a b)
  | 0x001 => .ok (.sub d a b)
  | 0x002 => .ok (.and d a b)
  | 0x003 => .ok (.or d a b)
  | 0x004 => .ok (.xor d a b)
  | 0x005 => .ok (.sll d a b)
  | 0x006 => .ok (.srl d a b)
  | 0x007 => .ok (.sra d a b)
  | 0x008 => .ok (.slt d a b)
  | 0x009 => .ok (.sltu d a b)
  | 0x00a => .ok (.min d a b)
  | 0x00b => .ok (.max d a b)
  | 0x00c => .ok (.mul d a b)
  | 0x00d => .ok (.mulh d a b)
  | 0x00e => .ok (.mulhu d a b)
  | 0x00f => .ok (.div d a b)
  | 0x010 => .ok (.divu d a b)
  | 0x011 => .ok (.rem d a b)
  | 0x012 => .ok (.remu d a b)
  | 0x013 => ifZero (b == 0) (.ok (.clz d a))
  | 0x014 => ifZero (b == 0) (.ok (.ctz d a))
  | 0x015 => ifZero (b == 0) (.ok (.popc d a))
  | 0x016 => ifZero (b == 0) (.ok (.sextb d a))
  | 0x017 => ifZero (b == 0) (.ok (.sexth d a))
  | 0x018 => ifZero (b == 0) (.ok (.sextw d a))
  | 0x019 => ifZero (b == 0) (.ok (.zexth d a))
  | 0x01a => ifZero (b == 0) (.ok (.zextw d a))
  | _ => .error .unassignedFn

/-- Major 0x02. Format A (R22). -/
def decA02 (d : BitVec 5) (a : BitVec 5) (b : BitVec 5) (fn : Nat) : Except Reject Instr :=
  match fn with
  | 0x000 => .ok (.faddd d a b)
  | 0x001 => .ok (.fsubd d a b)
  | 0x002 => .ok (.fmuld d a b)
  | 0x003 => .ok (.fdivd d a b)
  | 0x004 => ifZero (b == 0) (.ok (.fsqrtd d a))
  | 0x005 => .ok (.fmad d a b)
  | 0x006 => .ok (.fmind d a b)
  | 0x007 => .ok (.fmaxd d a b)
  | 0x008 => .ok (.feqd d a b)
  | 0x009 => .ok (.fltd d a b)
  | 0x00a => .ok (.fled d a b)
  | 0x00b => .ok (.fadds d a b)
  | 0x00c => .ok (.fmuls d a b)
  | 0x00d => .ok (.fmas d a b)
  | 0x00e => ifZero (b == 0) (.ok (.fcvtsd d a))
  | 0x00f => ifZero (b == 0) (.ok (.fcvtds d a))
  | 0x010 => ifZero (b == 0) (.ok (.fcvtld d a))
  | 0x011 => ifZero (b == 0) (.ok (.fcvtdl d a))
  | _ => .error .unassignedFn

/-- Major 0x03. Format A (R22). -/
def decA03 (d : BitVec 5) (a : BitVec 5) (b : BitVec 5) (fn : Nat) : Except Reject Instr :=
  let s := BitVec.ofNat 3 (fn / 256)
  match fn % 256 with
  | 0x00 => ifRange (.amoadd d a b s)
  | 0x01 => ifRange (.amomin d a b s)
  | 0x02 => ifRange (.amomax d a b s)
  | 0x03 => ifRange (.amoand d a b s)
  | 0x04 => ifRange (.amoor d a b s)
  | 0x05 => ifRange (.amoxor d a b s)
  | 0x06 => ifRange (.amoswap d a b s)
  | 0x07 => ifRange (.amocas d a b s)
  | _ => .error .unassignedFn

/-- Major 0x04. Format I (R22). -/
def decI04 (d : BitVec 5) (a : BitVec 5) (i : BitVec 16) : Except Reject Instr :=
  .ok (.addi d a i)

/-- Major 0x05. Format I (R22). -/
def decI05 (d : BitVec 5) (a : BitVec 5) (i : BitVec 16) : Except Reject Instr :=
  .ok (.andi d a i)

/-- Major 0x06. Format I (R22). -/
def decI06 (d : BitVec 5) (a : BitVec 5) (i : BitVec 16) : Except Reject Instr :=
  .ok (.ori d a i)

/-- Major 0x07. Format I (R22). -/
def decI07 (d : BitVec 5) (a : BitVec 5) (i : BitVec 16) : Except Reject Instr :=
  if i.toNat < 64 then .ok (.slli d a (BitVec.ofNat 6 i.toNat)) else .error .operand

/-- Major 0x08. Format I (R22). -/
def decI08 (d : BitVec 5) (a : BitVec 5) (i : BitVec 16) : Except Reject Instr :=
  if i.toNat < 64 then .ok (.srli d a (BitVec.ofNat 6 i.toNat)) else .error .operand

/-- Major 0x09. Format I (R22). -/
def decI09 (d : BitVec 5) (a : BitVec 5) (i : BitVec 16) : Except Reject Instr :=
  if i.toNat < 64 then .ok (.srai d a (BitVec.ofNat 6 i.toNat)) else .error .operand

/-- Major 0x0A. Format I (R22). -/
def decI0A (d : BitVec 5) (a : BitVec 5) (i : BitVec 16) : Except Reject Instr :=
  .ok (.jalr d a i)

/-- Major 0x0B. Format I (R22). -/
def decI0B (d : BitVec 5) (a : BitVec 5) (i : BitVec 16) : Except Reject Instr :=
  .ok (.lb d a i)

/-- Major 0x0C. Format I (R22). -/
def decI0C (d : BitVec 5) (a : BitVec 5) (i : BitVec 16) : Except Reject Instr :=
  .ok (.lbu d a i)

/-- Major 0x0D. Format I (R22). -/
def decI0D (d : BitVec 5) (a : BitVec 5) (i : BitVec 16) : Except Reject Instr :=
  .ok (.lh d a i)

/-- Major 0x0E. Format I (R22). -/
def decI0E (d : BitVec 5) (a : BitVec 5) (i : BitVec 16) : Except Reject Instr :=
  .ok (.lhu d a i)

/-- Major 0x0F. Format I (R22). -/
def decI0F (d : BitVec 5) (a : BitVec 5) (i : BitVec 16) : Except Reject Instr :=
  .ok (.lw d a i)

/-- Major 0x10. Format I (R22). -/
def decI10 (d : BitVec 5) (a : BitVec 5) (i : BitVec 16) : Except Reject Instr :=
  .ok (.lwu d a i)

/-- Major 0x11. Format I (R22). -/
def decI11 (d : BitVec 5) (a : BitVec 5) (i : BitVec 16) : Except Reject Instr :=
  .ok (.ld d a i)

/-- Major 0x12. Format I (R22). -/
def decI12 (d : BitVec 5) (a : BitVec 5) (i : BitVec 16) : Except Reject Instr :=
  .ok (.sb d a i)

/-- Major 0x13. Format I (R22). -/
def decI13 (d : BitVec 5) (a : BitVec 5) (i : BitVec 16) : Except Reject Instr :=
  .ok (.sh d a i)

/-- Major 0x14. Format I (R22). -/
def decI14 (d : BitVec 5) (a : BitVec 5) (i : BitVec 16) : Except Reject Instr :=
  .ok (.sw d a i)

/-- Major 0x15. Format I (R22). -/
def decI15 (d : BitVec 5) (a : BitVec 5) (i : BitVec 16) : Except Reject Instr :=
  .ok (.sd d a i)

/-- Major 0x16. Format U (R22). -/
def decU16 (d : BitVec 5) (i : BitVec 21) : Except Reject Instr :=
  .ok (.lui d i)

/-- Major 0x17. Format U (R22). -/
def decU17 (d : BitVec 5) (i : BitVec 21) : Except Reject Instr :=
  .ok (.auipc d i)

/-- Major 0x18. Format B (R22). -/
def decB18 (a : BitVec 5) (b : BitVec 5) (o : BitVec 16) : Except Reject Instr :=
  .ok (.beq a b o)

/-- Major 0x19. Format B (R22). -/
def decB19 (a : BitVec 5) (b : BitVec 5) (o : BitVec 16) : Except Reject Instr :=
  .ok (.bne a b o)

/-- Major 0x1A. Format B (R22). -/
def decB1A (a : BitVec 5) (b : BitVec 5) (o : BitVec 16) : Except Reject Instr :=
  .ok (.blt a b o)

/-- Major 0x1B. Format B (R22). -/
def decB1B (a : BitVec 5) (b : BitVec 5) (o : BitVec 16) : Except Reject Instr :=
  .ok (.bge a b o)

/-- Major 0x1C. Format B (R22). -/
def decB1C (a : BitVec 5) (b : BitVec 5) (o : BitVec 16) : Except Reject Instr :=
  .ok (.bltu a b o)

/-- Major 0x1D. Format B (R22). -/
def decB1D (a : BitVec 5) (b : BitVec 5) (o : BitVec 16) : Except Reject Instr :=
  .ok (.bgeu a b o)

/-- Major 0x1E. Format B (R22). -/
def decB1E (a : BitVec 5) (b : BitVec 5) (o : BitVec 16) : Except Reject Instr :=
  ifZero (b == 0) (.ok (.bcnt a o))

/-- Major 0x1F. Format J (R22). -/
def decJ1F (o : BitVec 26) : Except Reject Instr :=
  .ok (.j o)

/-- Major 0x20. Format J (R22). -/
def decJ20 (o : BitVec 26) : Except Reject Instr :=
  .ok (.jal o)

/-- Major 0x28. Format V (R24). -/
def decV28 (c : BitVec 1) (m : BitVec 1) (d : BitVec 5) (a : BitVec 5) (b : BitVec 5) (fn : Nat) : Except Reject Instr :=
  match fn with
  | 0x000 => .ok (.vadd c m d a b)
  | 0x001 => .ok (.vsub c m d a b)
  | 0x002 => .ok (.vmul c m d a b)
  | 0x003 => .ok (.vmulh c m d a b)
  | 0x004 => .ok (.vmin c m d a b)
  | 0x005 => .ok (.vmax c m d a b)
  | 0x006 => .ok (.vand c m d a b)
  | 0x007 => .ok (.vor c m d a b)
  | 0x008 => .ok (.vxor c m d a b)
  | 0x009 => .ok (.vsadd c m d a b)
  | 0x00a => .ok (.vssub c m d a b)
  | 0x00b => .ok (.vmacc c m d a b)
  | 0x00c => .ok (.vaddx c m d a b)
  | 0x00d => .ok (.vmulx c m d a b)
  | 0x00e => .ok (.vaddi c m d a b)
  | 0x00f => .ok (.vslli c m d a b)
  | 0x010 => .ok (.vsrli c m d a b)
  | 0x011 => .ok (.vsrai c m d a b)
  | 0x012 => ifRange (.vcmpeq c m d a b)
  | 0x013 => ifRange (.vcmplt c m d a b)
  | 0x014 => ifRange (.vcmple c m d a b)
  | 0x015 => .ok (.vsel c m d a b)
  | 0x016 => ifZero (a == 0) (.ok (.vmvx c m d b))
  | _ => .error .unassignedFn

/-- Major 0x29. Format V (R24). -/
def decV29 (c : BitVec 1) (m : BitVec 1) (d : BitVec 5) (a : BitVec 5) (b : BitVec 5) (fn : Nat) : Except Reject Instr :=
  match fn with
  | 0x000 => .ok (.vfadd c m d a b)
  | 0x001 => .ok (.vfsub c m d a b)
  | 0x002 => .ok (.vfmul c m d a b)
  | 0x003 => .ok (.vfdiv c m d a b)
  | 0x004 => ifZero (b == 0) (.ok (.vfsqrt c m d a))
  | 0x005 => .ok (.vfma c m d a b)
  | 0x006 => .ok (.vfmin c m d a b)
  | 0x007 => .ok (.vfmax c m d a b)
  | 0x008 => ifRange (.vfcmpeq c m d a b)
  | 0x009 => ifRange (.vfcmplt c m d a b)
  | 0x00a => ifRange (.vfcmple c m d a b)
  | 0x00b => .ok (.vfmulx c m d a b)
  | 0x00c => .ok (.vfsmul c m d a b)
  | 0x00d => .ok (.vfsmacc c m d a b)
  | _ => .error .unassignedFn

/-- Major 0x2A. Format V (R24). -/
def decV2A (c : BitVec 1) (m : BitVec 1) (d : BitVec 5) (a : BitVec 5) (b : BitVec 5) (fn : Nat) : Except Reject Instr :=
  match fn with
  | 0x000 => ifZero (b == 0) (.ok (.vfcvt c m d a))
  | 0x001 => ifZero (b == 0) (.ok (.vfcvti c m d a))
  | 0x002 => ifZero (b == 0) (.ok (.vicvtf c m d a))
  | 0x003 => ifZero (b == 0) (.ok (.vicvt c m d a))
  | 0x004 => ifZero (b == 0) (.ok (.vredsum c m d a))
  | 0x005 => ifZero (b == 0) (.ok (.vredmax c m d a))
  | 0x006 => ifZero (b == 0) (.ok (.vfredsum c m d a))
  | 0x007 => ifZero (b == 0) (.ok (.vfredmax c m d a))
  | 0x008 => .ok (.vtopk c m d a b)
  | 0x009 => .ok (.vperm c m d a b)
  | 0x00a => .ok (.vslideup c m d a b)
  | 0x00b => .ok (.vslidedn c m d a b)
  | 0x00c => ifZero (b == 0) (.ok (.vcompress c m d a))
  | 0x00d => ifZero (a == 0 && b == 0) (.ok (.viota c m d))
  | 0x00e => ifZero (b == 0) (.ok (.vskv c m d a))
  | _ => .error .unassignedFn

/-- Major 0x2B. Format V (R24). -/
def decV2B (c : BitVec 1) (m : BitVec 1) (d : BitVec 5) (a : BitVec 5) (b : BitVec 5) (fn : Nat) : Except Reject Instr :=
  match fn with
  | 0x000 => ifRange (.kand c m d a b)
  | 0x001 => ifRange (.kor c m d a b)
  | 0x002 => ifRange (.kxor c m d a b)
  | 0x003 => ifRange (.kandn c m d a b)
  | 0x004 => ifZero (b == 0) (ifRange (.knot c m d a))
  | 0x005 => ifZero (b == 0) (ifRange (.kbefore c m d a))
  | 0x006 => ifZero (a == 0 && b == 0) (ifRange (.kset c m d))
  | _ => .error .unassignedFn

/-- Major 0x2C. Format W (R24). -/
def decW2C (c : BitVec 1) (m : BitVec 1) (v : BitVec 5) (x : BitVec 5) (s : BitVec 5) (p : BitVec 2) (fn : Nat) : Except Reject Instr :=
  match fn with
  | 0x000 => ifZero (s == 0) (.ok (.vld c m v x p))
  | 0x001 => .ok (.vlds c m v x s p)
  | 0x002 => .ok (.vldx c m v x s p)
  | 0x003 => ifZero (s == 0) (.ok (.vldff c m v x p))
  | 0x004 => ifZero (s == 0) (ifRange (.vqrd c m v x p))
  | 0x005 => ifZero (m == 0 && p == 0)
      (if s = 0 then .ok (.vlr c v x) else if s = 1 then ifRange (.vlrPredicate c v x) else .error .range)
  | _ => .error .unassignedFn

/-- Major 0x2D. Format W (R24). -/
def decW2D (c : BitVec 1) (m : BitVec 1) (v : BitVec 5) (x : BitVec 5) (s : BitVec 5) (p : BitVec 2) (fn : Nat) : Except Reject Instr :=
  match fn with
  | 0x000 => ifZero (s == 0) (.ok (.vst c m v x p))
  | 0x001 => .ok (.vsts c m v x s p)
  | 0x002 => .ok (.vstx c m v x s p)
  | 0x003 => ifZero (m == 0 && p == 0)
      (if s = 0 then .ok (.vsr c v x) else if s = 1 then ifRange (.vsrPredicate c v x) else .error .range)
  | _ => .error .unassignedFn

/-- Major 0x2E. Format W (R24). -/
def decW2E (c : BitVec 1) (m : BitVec 1) (v : BitVec 5) (x : BitVec 5) (s : BitVec 5) (p : BitVec 2) (fn : Nat) : Except Reject Instr :=
  let o := BitVec.ofNat 3 (fn / 8)
  if fn < 64 then
    match fn % 8 with
    | 0 => ifRange (.vamoadd c m v x s p o)
    | 1 => ifRange (.vamomin c m v x s p o)
    | 2 => ifRange (.vamomax c m v x s p o)
    | 3 => ifRange (.vamoand c m v x s p o)
    | 4 => ifRange (.vamoor c m v x s p o)
    | 5 => ifRange (.vamoxor c m v x s p o)
    | 6 => ifRange (.vamoswap c m v x s p o)
    | _ => ifRange (.vamocas c m v x s p o)
  else
    match fn with
    | 0x40 => ifZero (s == 0) (.ok (.mmcpy c m v x p))
    | 0x41 => .ok (.mmadd c m v x s p)
    | 0x42 => .ok (.mmsub c m v x s p)
    | 0x43 => .ok (.mmmul c m v x s p)
    | 0x44 => .ok (.mmmin c m v x s p)
    | 0x45 => .ok (.mmmax c m v x s p)
    | _ => .error .unassignedFn

/-- Major 0x2F. Format M (R24). -/
def decM2F (c : BitVec 1) (m : BitVec 1) (t : BitVec 3) (a : BitVec 5) (b : BitVec 5) (fn : Nat) : Except Reject Instr :=
  match fn with
  | 0x000 => ifZero (m == 0 && t == 0 && a == 0) (.ok (.tshp c b))
  | 0x001 => .ok (.mxacc c m t a b)
  | 0x002 => .ok (.mopk c m t a b)
  | 0x003 => .ok (.mxsub c m t a b)
  | 0x004 => ifZero (m == 0 && a == 0 && b == 0) (.ok (.mzero c t))
  | 0x005 => ifZero (b == 0) (.ok (.mdrain c m t a))
  | 0x006 => ifZero (b == 0) (.ok (.mrow c m t a))
  | 0x007 => ifZero (m == 0 && b == 0) (.ok (.tsave c t a))
  | 0x008 => ifZero (m == 0 && b == 0) (.ok (.trest c t a))
  | _ => .error .unassignedFn

/-- Major 0x30. Format Q (R26). -/
def decQ30 (q : BitVec 3) (a : BitVec 5) (b : BitVec 5) (k : BitVec 4) (fn : Nat) : Except Reject Instr :=
  match fn with
  | 0x000 => ifZero (k == 0) (.ok (.qbind q a b))
  | 0x001 => ifZero (q == 0) (ifRange (.btcopy a b k))
  | 0x002 => ifZero (q == 0) (ifRange (.btgather a b k))
  | 0x003 => ifZero (b == 0 && k == 0) (.ok (.qrd q a))
  | 0x004 => ifZero (q == 0 && b == 0 && k == 0) (.ok (.sbar a))
  | 0x005 => ifZero (q == 0) (ifRange (.kwait a b k))
  | 0x006 => ifZero (q == 0 && b == 0 && k == 0) (.ok (.wmark a))
  | 0x007 => ifZero (q == 0 && b == 0 && k == 0) (.ok (.chdemote a))
  | 0x008 => ifZero (q == 0 && k == 0) (.ok (.pref a b))
  | _ => .error .unassignedFn

/-- Major 0x31. Format Q (R26). -/
def decQ31 (q : BitVec 3) (a : BitVec 5) (b : BitVec 5) (k : BitVec 4) (fn : Nat) : Except Reject Instr :=
  match fn with
  | 0x000 => ifZero (q == 0) (ifRange (.nsq a b k))
  | 0x001 => ifZero (q == 0 && k == 0) (.ok (.nsstat a b))
  | 0x002 => ifZero (q == 0) (ifRange (.hcmv a b k))
  | 0x003 => ifZero (q == 0) (ifRange (.hcfire a b k))
  | 0x004 => ifZero (q == 0 && b == 0 && k == 0) (.ok (.hcage a))
  | 0x005 => ifZero (q == 0 && k == 0) (.ok (.hcrank a b))
  | 0x006 => ifZero (q == 0 && b == 0 && k == 0) (.ok (.hccommit a))
  | _ => .error .unassignedFn

/-- Major 0x32. Format Q (R26). -/
def decQ32 (q : BitVec 3) (a : BitVec 5) (b : BitVec 5) (k : BitVec 4) (fn : Nat) : Except Reject Instr :=
  match fn with
  | 0x000 => ifZero (q == 0 && k == 0) (.ok (.wlopen a b))
  | 0x001 => ifZero (q == 0 && k == 0) (.ok (.wlpush a b))
  | 0x002 => ifZero (q == 0 && k == 0) (.ok (.wlpop a b))
  | 0x003 => ifZero (q == 0 && b == 0 && k == 0) (.ok (.wldone a))
  | 0x004 => ifZero (q == 0 && k == 0) (.ok (.wlstat a b))
  | 0x005 => ifZero (q == 0 && k == 0) (.ok (.wlfloor a b))
  | _ => .error .unassignedFn

/-- Major 0x33. Format Q (R26). -/
def decQ33 (q : BitVec 3) (a : BitVec 5) (b : BitVec 5) (k : BitVec 4) (fn : Nat) : Except Reject Instr :=
  match fn with
  | 0x000 => ifZero (q == 0 && k == 0) (.ok (.glaunch a b))
  | 0x001 => ifZero (q == 0 && k == 0) (.ok (.gwait a b))
  | 0x002 => ifZero (q == 0 && b == 0 && k == 0) (.ok (.gbar a))
  | 0x003 => ifZero (q == 0 && b == 0) (ifRange (.xred a k))
  | 0x004 => ifZero (q == 0 && a == 0 && b == 0 && k == 0) (.ok (.hyield))
  | 0x005 => ifZero (q == 0 && a == 0 && b == 0 && k == 0) (.ok (.gexit))
  | _ => .error .unassignedFn

/-- Major 0x34. Format S (R27). -/
def decS34 (fn : Nat) (d : BitVec 5) (a : BitVec 5) (n : BitVec 6) : Except Reject Instr :=
  match fn with
  | 0x000 => .ok (.lslot d a n)
  | 0x001 => ifZero (decide (n.toNat < 16)) (.ok (.pchk d a (BitVec.ofNat 4 n.toNat)))
  | 0x002 => ifZero (n == 0) (.ok (.ptag d a))
  | 0x003 => ifZero (n == 0) (.ok (.pstrip d a))
  | 0x004 => if n = 0 then .ok (.rpatchWrite d a) else if n = 1 then .ok (.rpatchMove d a) else .error .operandPrivileged
  | 0x005 => ifZero (d == 0 && a == 0 && n == 0) (.ok (.slotsync))
  | 0x006 =>
    match n.toNat with
    | 0 => .ok (.wattestReport d a)
    | 1 => .ok (.wattestAllow d a)
    | 2 => .ok (.wattestLog d a)
    | 3 => .ok (.wattestGrant d a)
    | 4 => .ok (.wattestRevoke d a)
    | _ => .error .range
  | 0x007 =>
    match n.toNat with
    | 0 => .ok (.wbindOpen d a)
    | 1 => .ok (.wbindNewver d a)
    | 2 => .ok (.wbindPlace d a)
    | 3 => .ok (.wbindSeal d a)
    | 4 => .ok (.wbindInstall d a)
    | 5 => .ok (.wbindErase d a)
    | 6 => .ok (.wbindClose d a)
    | _ => .error .range
  | _ => .error .unassignedFn

/-- Major 0x35. Format S (R27). -/
noncomputable def decS35 (fn : Nat) (d : BitVec 5) (a : BitVec 5) (n : BitVec 6) : Except Reject Instr :=
  match fn with
  | 0x000 => .ok (.ecall d a n)
  | 0x001 => ifZero (d == 0 && a == 0 && n == 0) (.ok (.eret))
  | 0x002 => ifZero (d == 0 && a == 0) (.ok (.ebreak n))
  | 0x003 => ifZero (decide (n.toNat % 2 = 0)) (ifRange (.mtcr d (BitVec.ofNat 10 (a.toNat * 32 + n.toNat / 2))))
  | 0x004 => ifZero (decide (n.toNat % 2 = 0)) (ifRange (.mfcr d (BitVec.ofNat 10 (a.toNat * 32 + n.toNat / 2))))
  | 0x005 => ifZero (decide (n.toNat < 2)) (if n = 0 then .ok (.svl d a) else .ok (.svlW d a))
  | 0x006 => ifZero (d == 0 && a == 0 && decide (n.toNat < 4))
    (match n.toNat with
    | 0 => .ok .fence
    | 1 => .ok .fenceSv
    | 2 => .ok .fenceVs
    | _ => .ok .fenceSvVs)
  | 0x007 => ifZero (n == 0) (.ok (.wfe d a))
  | 0x008 => ifZero (n == 0) (.ok (.csync d a))
  | 0x009 => ifZero (n == 0) (.ok (.vmvxs d a))
  | 0x00a => ifZero (n == 0) (ifRange (.kpop d a))
  | 0x00b => ifZero (n == 0) (ifRange (.kfirst d a))
  | _ => .error .unassignedFn

/-- Major 0x3E. The stirrup word (R31). -/
def decP3E (k : BitVec 4) (dc : BitVec 1) (v : BitVec 5) (z : BitVec 16) : Except Reject Instr :=
  ifZero (z == 0) (if dc = 1 then ifRange (.stirCopy k v) else ifZero (v == 0) (ifRange (.stir k)))

/-- One half of a pair word (R34, R50). -/
def decodeHalf (h : Nat) : Except Reject Instr :=
  let d := field 5 3 h
  let e := field 3 0 h
  match h / 256 % 32 with
  | 0x01 => ifZero (e == 0) (.ok (.cmov d))
  | 0x02 => .ok (.caddi d e)
  | 0x03 => .ok (.csubi d e)
  | 0x04 => .ok (.cslli d e)
  | 0x05 => .ok (.csrli d e)
  | 0x06 => .ok (.csrai d e)
  | 0x07 => .ok (.candi d e)
  | 0x08 => .ok (.cadd d e)
  | 0x09 => .ok (.csub d e)
  | 0x0a => .ok (.cand d e)
  | 0x0b => .ok (.cor d e)
  | 0x0c => .ok (.cxor d e)
  | _ => .error .range

/-- The two halves of a pair word, both checked (R35). -/
def decodePair (w : Nat) : Except Reject (Instr × Instr) :=
  match decodeHalf (w % 2 ^ 13), decodeHalf (w / 2 ^ 13 % 2 ^ 13) with
  | .ok i0, .ok i1 => .ok (i0, i1)
  | .error e, _ => .error e
  | _, .error e => .error e

/-- A word of a format other than H (R19). -/
noncomputable def decodeMajor (w : Nat) : Except Reject Instr :=
  match w / 2 ^ 26 % 64 with
  | 0x01 => decA01 (field 5 21 w) (field 5 16 w) (field 5 11 w) (w / 2 ^ 0 % 2 ^ 11)
  | 0x02 => decA02 (field 5 21 w) (field 5 16 w) (field 5 11 w) (w / 2 ^ 0 % 2 ^ 11)
  | 0x03 => decA03 (field 5 21 w) (field 5 16 w) (field 5 11 w) (w / 2 ^ 0 % 2 ^ 11)
  | 0x04 => decI04 (field 5 21 w) (field 5 16 w) (field 16 0 w)
  | 0x05 => decI05 (field 5 21 w) (field 5 16 w) (field 16 0 w)
  | 0x06 => decI06 (field 5 21 w) (field 5 16 w) (field 16 0 w)
  | 0x07 => decI07 (field 5 21 w) (field 5 16 w) (field 16 0 w)
  | 0x08 => decI08 (field 5 21 w) (field 5 16 w) (field 16 0 w)
  | 0x09 => decI09 (field 5 21 w) (field 5 16 w) (field 16 0 w)
  | 0x0a => decI0A (field 5 21 w) (field 5 16 w) (field 16 0 w)
  | 0x0b => decI0B (field 5 21 w) (field 5 16 w) (field 16 0 w)
  | 0x0c => decI0C (field 5 21 w) (field 5 16 w) (field 16 0 w)
  | 0x0d => decI0D (field 5 21 w) (field 5 16 w) (field 16 0 w)
  | 0x0e => decI0E (field 5 21 w) (field 5 16 w) (field 16 0 w)
  | 0x0f => decI0F (field 5 21 w) (field 5 16 w) (field 16 0 w)
  | 0x10 => decI10 (field 5 21 w) (field 5 16 w) (field 16 0 w)
  | 0x11 => decI11 (field 5 21 w) (field 5 16 w) (field 16 0 w)
  | 0x12 => decI12 (field 5 21 w) (field 5 16 w) (field 16 0 w)
  | 0x13 => decI13 (field 5 21 w) (field 5 16 w) (field 16 0 w)
  | 0x14 => decI14 (field 5 21 w) (field 5 16 w) (field 16 0 w)
  | 0x15 => decI15 (field 5 21 w) (field 5 16 w) (field 16 0 w)
  | 0x16 => decU16 (field 5 21 w) (field 21 0 w)
  | 0x17 => decU17 (field 5 21 w) (field 21 0 w)
  | 0x18 => decB18 (field 5 21 w) (field 5 16 w) (field 16 0 w)
  | 0x19 => decB19 (field 5 21 w) (field 5 16 w) (field 16 0 w)
  | 0x1a => decB1A (field 5 21 w) (field 5 16 w) (field 16 0 w)
  | 0x1b => decB1B (field 5 21 w) (field 5 16 w) (field 16 0 w)
  | 0x1c => decB1C (field 5 21 w) (field 5 16 w) (field 16 0 w)
  | 0x1d => decB1D (field 5 21 w) (field 5 16 w) (field 16 0 w)
  | 0x1e => decB1E (field 5 21 w) (field 5 16 w) (field 16 0 w)
  | 0x1f => decJ1F (field 26 0 w)
  | 0x20 => decJ20 (field 26 0 w)
  | 0x28 => decV28 (field 1 25 w) (field 1 24 w) (field 5 19 w) (field 5 14 w) (field 5 9 w) (w / 2 ^ 0 % 2 ^ 9)
  | 0x29 => decV29 (field 1 25 w) (field 1 24 w) (field 5 19 w) (field 5 14 w) (field 5 9 w) (w / 2 ^ 0 % 2 ^ 9)
  | 0x2a => decV2A (field 1 25 w) (field 1 24 w) (field 5 19 w) (field 5 14 w) (field 5 9 w) (w / 2 ^ 0 % 2 ^ 9)
  | 0x2b => decV2B (field 1 25 w) (field 1 24 w) (field 5 19 w) (field 5 14 w) (field 5 9 w) (w / 2 ^ 0 % 2 ^ 9)
  | 0x2c => decW2C (field 1 25 w) (field 1 24 w) (field 5 19 w) (field 5 14 w) (field 5 9 w) (field 2 7 w) (w / 2 ^ 0 % 2 ^ 7)
  | 0x2d => decW2D (field 1 25 w) (field 1 24 w) (field 5 19 w) (field 5 14 w) (field 5 9 w) (field 2 7 w) (w / 2 ^ 0 % 2 ^ 7)
  | 0x2e => decW2E (field 1 25 w) (field 1 24 w) (field 5 19 w) (field 5 14 w) (field 5 9 w) (field 2 7 w) (w / 2 ^ 0 % 2 ^ 7)
  | 0x2f => decM2F (field 1 25 w) (field 1 24 w) (field 3 21 w) (field 5 16 w) (field 5 11 w) (w / 2 ^ 0 % 2 ^ 11)
  | 0x30 => decQ30 (field 3 23 w) (field 5 18 w) (field 5 13 w) (field 4 9 w) (w / 2 ^ 0 % 2 ^ 9)
  | 0x31 => decQ31 (field 3 23 w) (field 5 18 w) (field 5 13 w) (field 4 9 w) (w / 2 ^ 0 % 2 ^ 9)
  | 0x32 => decQ32 (field 3 23 w) (field 5 18 w) (field 5 13 w) (field 4 9 w) (w / 2 ^ 0 % 2 ^ 9)
  | 0x33 => decQ33 (field 3 23 w) (field 5 18 w) (field 5 13 w) (field 4 9 w) (w / 2 ^ 0 % 2 ^ 9)
  | 0x34 => decS34 (w / 2 ^ 16 % 2 ^ 10) (field 5 11 w) (field 5 6 w) (field 6 0 w)
  | 0x35 => decS35 (w / 2 ^ 16 % 2 ^ 10) (field 5 11 w) (field 5 6 w) (field 6 0 w)
  | 0x3e => decP3E (field 4 22 w) (field 1 21 w) (field 5 16 w) (field 16 0 w)
  | _ => .error .reservedMajor

/-- The major opcode of a word (R18). -/
def major (w : BitVec 32) : Nat := w.toNat / 2 ^ 26

/-- The instruction a word stands for. `half` says that h0 of the pair word at this address has
executed, so that only h1 is looked at (R36). -/
noncomputable def decode (half : Bool) (w : BitVec 32) : Except Reject Instr :=
  if half then
    if major w = 0x3F then decodeHalf (w.toNat / 2 ^ 13 % 2 ^ 13) else .error .operand
  else if major w = 0x3F then
    match decodePair w.toNat with
    | .ok (i0, _) => .ok i0
    | .error e => .error e
  else decodeMajor w.toNat

/-- The 32-bit word of up to four bytes, little-endian (R5, R18). -/
def wordOfBytes : List Byte → Nat
  | [] => 0
  | b :: t => b.toNat + 256 * wordOfBytes t

/-- The instruction that four bytes in memory order stand for. -/
noncomputable def decodeBytes (half : Bool) (bs : List Byte) : Except Reject Instr :=
  decode half (BitVec.ofNat 32 (wordOfBytes (bs.take 4)))

/-- The `n` low bytes of a number, in memory order (R5). -/
def bytesOfNat : Nat → Nat → List Byte
  | 0, _ => []
  | n + 1, v => BitVec.ofNat 8 v :: bytesOfNat n (v / 256)

/-- The decoder as the opcode table numbers bits. -/
noncomputable def decodeTableWord (nbits w : Nat) : Option Instr :=
  if nbits ≤ 32 then
    match decodeBytes false (bytesOfNat 4 (w % 2 ^ nbits)) with
    | .ok i => some i
    | .error _ => none
  else none

/-! ### The encoder, from the format tables -/

/-- Format A (R22). -/
def encA (op : Nat) (d : BitVec 5) (a : BitVec 5) (b : BitVec 5) (fn : Nat) : Nat :=
  op * 2 ^ 26 + d.toNat * 2 ^ 21 + a.toNat * 2 ^ 16 + b.toNat * 2 ^ 11 + fn

/-- Format I (R22). -/
def encI (op : Nat) (d : BitVec 5) (a : BitVec 5) (i : BitVec 16) : Nat :=
  op * 2 ^ 26 + d.toNat * 2 ^ 21 + a.toNat * 2 ^ 16 + i.toNat

/-- Format U (R22). -/
def encU (op : Nat) (d : BitVec 5) (i : BitVec 21) : Nat :=
  op * 2 ^ 26 + d.toNat * 2 ^ 21 + i.toNat

/-- Format B (R22). -/
def encB (op : Nat) (a : BitVec 5) (b : BitVec 5) (o : BitVec 16) : Nat :=
  op * 2 ^ 26 + a.toNat * 2 ^ 21 + b.toNat * 2 ^ 16 + o.toNat

/-- Format J (R22). -/
def encJ (op : Nat) (o : BitVec 26) : Nat :=
  op * 2 ^ 26 + o.toNat

/-- Format V (R24). -/
def encV (op : Nat) (c : BitVec 1) (m : BitVec 1) (d : BitVec 5) (a : BitVec 5) (b : BitVec 5) (fn : Nat) : Nat :=
  op * 2 ^ 26 + c.toNat * 2 ^ 25 + m.toNat * 2 ^ 24 + d.toNat * 2 ^ 19 + a.toNat * 2 ^ 14 + b.toNat * 2 ^ 9 + fn

/-- Format W (R24). -/
def encW (op : Nat) (c : BitVec 1) (m : BitVec 1) (v : BitVec 5) (x : BitVec 5) (s : BitVec 5) (p : BitVec 2) (fn : Nat) : Nat :=
  op * 2 ^ 26 + c.toNat * 2 ^ 25 + m.toNat * 2 ^ 24 + v.toNat * 2 ^ 19 + x.toNat * 2 ^ 14 + s.toNat * 2 ^ 9 + p.toNat * 2 ^ 7 + fn

/-- Format M (R24). -/
def encM (op : Nat) (c : BitVec 1) (m : BitVec 1) (t : BitVec 3) (a : BitVec 5) (b : BitVec 5) (fn : Nat) : Nat :=
  op * 2 ^ 26 + c.toNat * 2 ^ 25 + m.toNat * 2 ^ 24 + t.toNat * 2 ^ 21 + a.toNat * 2 ^ 16 + b.toNat * 2 ^ 11 + fn

/-- Format Q (R26). -/
def encQ (op : Nat) (q : BitVec 3) (a : BitVec 5) (b : BitVec 5) (k : BitVec 4) (fn : Nat) : Nat :=
  op * 2 ^ 26 + q.toNat * 2 ^ 23 + a.toNat * 2 ^ 18 + b.toNat * 2 ^ 13 + k.toNat * 2 ^ 9 + fn

/-- Format S (R27). -/
def encS (op : Nat) (fn : Nat) (d : BitVec 5) (a : BitVec 5) (n : BitVec 6) : Nat :=
  op * 2 ^ 26 + fn * 2 ^ 16 + d.toNat * 2 ^ 11 + a.toNat * 2 ^ 6 + n.toNat

/-- The stirrup word (R31). -/
def encP (op : Nat) (k : BitVec 4) (dc : BitVec 1) (v : BitVec 5) (z : BitVec 16) : Nat :=
  op * 2 ^ 26 + k.toNat * 2 ^ 22 + dc.toNat * 2 ^ 21 + v.toNat * 2 ^ 16 + z.toNat

/-- The pair word (R34). -/
def encH (op : Nat) (h1 : BitVec 13) (h0 : BitVec 13) : Nat :=
  op * 2 ^ 26 + h1.toNat * 2 ^ 13 + h0.toNat

/-- One half of a pair word (R34). -/
def encHalf (cop : Nat) (d : BitVec 5) (e : BitVec 3) : Option (BitVec 13) :=
  some (BitVec.ofNat 13 (cop * 2 ^ 8 + d.toNat * 2 ^ 3 + e.toNat))

/-- The half word of a compact operation (R50); none for every other instruction. -/
def encodeHalf (i : Instr) : Option (BitVec 13) :=
  match i with
  | .cmov d => encHalf 0x01 d 0
  | .caddi d e => encHalf 0x02 d e
  | .csubi d e => encHalf 0x03 d e
  | .cslli d e => encHalf 0x04 d e
  | .csrli d e => encHalf 0x05 d e
  | .csrai d e => encHalf 0x06 d e
  | .candi d e => encHalf 0x07 d e
  | .cadd d e => encHalf 0x08 d e
  | .csub d e => encHalf 0x09 d e
  | .cand d e => encHalf 0x0a d e
  | .cor d e => encHalf 0x0b d e
  | .cxor d e => encHalf 0x0c d e
  | _ => none

/-- The pair word of two compact operations. -/
def encodePair (i0 i1 : Instr) : Option (BitVec 32) :=
  match encodeHalf i0, encodeHalf i1 with
  | some h0, some h1 => some (BitVec.ofNat 32 (encH 0x3F h1 h0))
  | _, _ => none

/-- The word of an instruction as a number; none for the compact operations, which stand two to a
word, and for the steps that have no word. -/
def encodeNat (i : Instr) : Option Nat :=
  match i with
  | .add d a b => some (encA 0x01 d a b 0x0)
  | .sub d a b => some (encA 0x01 d a b 0x1)
  | .and d a b => some (encA 0x01 d a b 0x2)
  | .or d a b => some (encA 0x01 d a b 0x3)
  | .xor d a b => some (encA 0x01 d a b 0x4)
  | .sll d a b => some (encA 0x01 d a b 0x5)
  | .srl d a b => some (encA 0x01 d a b 0x6)
  | .sra d a b => some (encA 0x01 d a b 0x7)
  | .slt d a b => some (encA 0x01 d a b 0x8)
  | .sltu d a b => some (encA 0x01 d a b 0x9)
  | .min d a b => some (encA 0x01 d a b 0xa)
  | .max d a b => some (encA 0x01 d a b 0xb)
  | .mul d a b => some (encA 0x01 d a b 0xc)
  | .mulh d a b => some (encA 0x01 d a b 0xd)
  | .mulhu d a b => some (encA 0x01 d a b 0xe)
  | .div d a b => some (encA 0x01 d a b 0xf)
  | .divu d a b => some (encA 0x01 d a b 0x10)
  | .rem d a b => some (encA 0x01 d a b 0x11)
  | .remu d a b => some (encA 0x01 d a b 0x12)
  | .clz d a => some (encA 0x01 d a 0 0x13)
  | .ctz d a => some (encA 0x01 d a 0 0x14)
  | .popc d a => some (encA 0x01 d a 0 0x15)
  | .sextb d a => some (encA 0x01 d a 0 0x16)
  | .sexth d a => some (encA 0x01 d a 0 0x17)
  | .sextw d a => some (encA 0x01 d a 0 0x18)
  | .zexth d a => some (encA 0x01 d a 0 0x19)
  | .zextw d a => some (encA 0x01 d a 0 0x1a)
  | .faddd d a b => some (encA 0x02 d a b 0x0)
  | .fsubd d a b => some (encA 0x02 d a b 0x1)
  | .fmuld d a b => some (encA 0x02 d a b 0x2)
  | .fdivd d a b => some (encA 0x02 d a b 0x3)
  | .fsqrtd d a => some (encA 0x02 d a 0 0x4)
  | .fmad d a b => some (encA 0x02 d a b 0x5)
  | .fmind d a b => some (encA 0x02 d a b 0x6)
  | .fmaxd d a b => some (encA 0x02 d a b 0x7)
  | .feqd d a b => some (encA 0x02 d a b 0x8)
  | .fltd d a b => some (encA 0x02 d a b 0x9)
  | .fled d a b => some (encA 0x02 d a b 0xa)
  | .fadds d a b => some (encA 0x02 d a b 0xb)
  | .fmuls d a b => some (encA 0x02 d a b 0xc)
  | .fmas d a b => some (encA 0x02 d a b 0xd)
  | .fcvtsd d a => some (encA 0x02 d a 0 0xe)
  | .fcvtds d a => some (encA 0x02 d a 0 0xf)
  | .fcvtld d a => some (encA 0x02 d a 0 0x10)
  | .fcvtdl d a => some (encA 0x02 d a 0 0x11)
  | .amoadd d a b s => some (encA 0x03 d a b (s.toNat * 256 + 0x0))
  | .amomin d a b s => some (encA 0x03 d a b (s.toNat * 256 + 0x1))
  | .amomax d a b s => some (encA 0x03 d a b (s.toNat * 256 + 0x2))
  | .amoand d a b s => some (encA 0x03 d a b (s.toNat * 256 + 0x3))
  | .amoor d a b s => some (encA 0x03 d a b (s.toNat * 256 + 0x4))
  | .amoxor d a b s => some (encA 0x03 d a b (s.toNat * 256 + 0x5))
  | .amoswap d a b s => some (encA 0x03 d a b (s.toNat * 256 + 0x6))
  | .amocas d a b s => some (encA 0x03 d a b (s.toNat * 256 + 0x7))
  | .addi d a i => some (encI 0x04 d a i)
  | .andi d a i => some (encI 0x05 d a i)
  | .ori d a i => some (encI 0x06 d a i)
  | .slli d a s => some (encI 0x07 d a (BitVec.ofNat 16 s.toNat))
  | .srli d a s => some (encI 0x08 d a (BitVec.ofNat 16 s.toNat))
  | .srai d a s => some (encI 0x09 d a (BitVec.ofNat 16 s.toNat))
  | .jalr d a i => some (encI 0x0a d a i)
  | .lb d a i => some (encI 0x0b d a i)
  | .lbu d a i => some (encI 0x0c d a i)
  | .lh d a i => some (encI 0x0d d a i)
  | .lhu d a i => some (encI 0x0e d a i)
  | .lw d a i => some (encI 0x0f d a i)
  | .lwu d a i => some (encI 0x10 d a i)
  | .ld d a i => some (encI 0x11 d a i)
  | .sb d a i => some (encI 0x12 d a i)
  | .sh d a i => some (encI 0x13 d a i)
  | .sw d a i => some (encI 0x14 d a i)
  | .sd d a i => some (encI 0x15 d a i)
  | .lui d i => some (encU 0x16 d i)
  | .auipc d i => some (encU 0x17 d i)
  | .beq a b o => some (encB 0x18 a b o)
  | .bne a b o => some (encB 0x19 a b o)
  | .blt a b o => some (encB 0x1a a b o)
  | .bge a b o => some (encB 0x1b a b o)
  | .bltu a b o => some (encB 0x1c a b o)
  | .bgeu a b o => some (encB 0x1d a b o)
  | .bcnt a o => some (encB 0x1e a 0 o)
  | .j o => some (encJ 0x1f o)
  | .jal o => some (encJ 0x20 o)
  | .stir k => some (encP 0x3e k 0 0 0)
  | .stirCopy k v => some (encP 0x3e k 1 v 0)
  | .cmov _ => none
  | .caddi _ _ => none
  | .csubi _ _ => none
  | .cslli _ _ => none
  | .csrli _ _ => none
  | .csrai _ _ => none
  | .candi _ _ => none
  | .cadd _ _ => none
  | .csub _ _ => none
  | .cand _ _ => none
  | .cor _ _ => none
  | .cxor _ _ => none
  | .vadd c m d a b => some (encV 0x28 c m d a b 0x0)
  | .vsub c m d a b => some (encV 0x28 c m d a b 0x1)
  | .vmul c m d a b => some (encV 0x28 c m d a b 0x2)
  | .vmulh c m d a b => some (encV 0x28 c m d a b 0x3)
  | .vmin c m d a b => some (encV 0x28 c m d a b 0x4)
  | .vmax c m d a b => some (encV 0x28 c m d a b 0x5)
  | .vand c m d a b => some (encV 0x28 c m d a b 0x6)
  | .vor c m d a b => some (encV 0x28 c m d a b 0x7)
  | .vxor c m d a b => some (encV 0x28 c m d a b 0x8)
  | .vsadd c m d a b => some (encV 0x28 c m d a b 0x9)
  | .vssub c m d a b => some (encV 0x28 c m d a b 0xa)
  | .vmacc c m d a b => some (encV 0x28 c m d a b 0xb)
  | .vaddx c m d a b => some (encV 0x28 c m d a b 0xc)
  | .vmulx c m d a b => some (encV 0x28 c m d a b 0xd)
  | .vaddi c m d a i => some (encV 0x28 c m d a i 0xe)
  | .vslli c m d a i => some (encV 0x28 c m d a i 0xf)
  | .vsrli c m d a i => some (encV 0x28 c m d a i 0x10)
  | .vsrai c m d a i => some (encV 0x28 c m d a i 0x11)
  | .vcmpeq c m d a b => some (encV 0x28 c m d a b 0x12)
  | .vcmplt c m d a b => some (encV 0x28 c m d a b 0x13)
  | .vcmple c m d a b => some (encV 0x28 c m d a b 0x14)
  | .vsel c m d a b => some (encV 0x28 c m d a b 0x15)
  | .vmvx c m d b => some (encV 0x28 c m d 0 b 0x16)
  | .vfadd c m d a b => some (encV 0x29 c m d a b 0x0)
  | .vfsub c m d a b => some (encV 0x29 c m d a b 0x1)
  | .vfmul c m d a b => some (encV 0x29 c m d a b 0x2)
  | .vfdiv c m d a b => some (encV 0x29 c m d a b 0x3)
  | .vfsqrt c m d a => some (encV 0x29 c m d a 0 0x4)
  | .vfma c m d a b => some (encV 0x29 c m d a b 0x5)
  | .vfmin c m d a b => some (encV 0x29 c m d a b 0x6)
  | .vfmax c m d a b => some (encV 0x29 c m d a b 0x7)
  | .vfcmpeq c m d a b => some (encV 0x29 c m d a b 0x8)
  | .vfcmplt c m d a b => some (encV 0x29 c m d a b 0x9)
  | .vfcmple c m d a b => some (encV 0x29 c m d a b 0xa)
  | .vfmulx c m d a b => some (encV 0x29 c m d a b 0xb)
  | .vfsmul c m d a b => some (encV 0x29 c m d a b 0xc)
  | .vfsmacc c m d a b => some (encV 0x29 c m d a b 0xd)
  | .vfcvt c m d a => some (encV 0x2a c m d a 0 0x0)
  | .vfcvti c m d a => some (encV 0x2a c m d a 0 0x1)
  | .vicvtf c m d a => some (encV 0x2a c m d a 0 0x2)
  | .vicvt c m d a => some (encV 0x2a c m d a 0 0x3)
  | .vredsum c m d a => some (encV 0x2a c m d a 0 0x4)
  | .vredmax c m d a => some (encV 0x2a c m d a 0 0x5)
  | .vfredsum c m d a => some (encV 0x2a c m d a 0 0x6)
  | .vfredmax c m d a => some (encV 0x2a c m d a 0 0x7)
  | .vtopk c m d a b => some (encV 0x2a c m d a b 0x8)
  | .vperm c m d a b => some (encV 0x2a c m d a b 0x9)
  | .vslideup c m d a b => some (encV 0x2a c m d a b 0xa)
  | .vslidedn c m d a b => some (encV 0x2a c m d a b 0xb)
  | .vcompress c m d a => some (encV 0x2a c m d a 0 0xc)
  | .viota c m d => some (encV 0x2a c m d 0 0 0xd)
  | .vskv c m d a => some (encV 0x2a c m d a 0 0xe)
  | .kand c m d a b => some (encV 0x2b c m d a b 0x0)
  | .kor c m d a b => some (encV 0x2b c m d a b 0x1)
  | .kxor c m d a b => some (encV 0x2b c m d a b 0x2)
  | .kandn c m d a b => some (encV 0x2b c m d a b 0x3)
  | .knot c m d a => some (encV 0x2b c m d a 0 0x4)
  | .kbefore c m d a => some (encV 0x2b c m d a 0 0x5)
  | .kset c m d => some (encV 0x2b c m d 0 0 0x6)
  | .vld c m v x p => some (encW 0x2c c m v x 0 p 0x0)
  | .vlds c m v x s p => some (encW 0x2c c m v x s p 0x1)
  | .vldx c m v x s p => some (encW 0x2c c m v x s p 0x2)
  | .vldff c m v x p => some (encW 0x2c c m v x 0 p 0x3)
  | .vqrd c m v x p => some (encW 0x2c c m v x 0 p 0x4)
  | .vlr c v x => some (encW 0x2c c 0 v x 0 0 0x5)
  | .vlrPredicate c v x => some (encW 0x2c c 0 v x 1 0 0x5)
  | .vst c m v x p => some (encW 0x2d c m v x 0 p 0x0)
  | .vsts c m v x s p => some (encW 0x2d c m v x s p 0x1)
  | .vstx c m v x s p => some (encW 0x2d c m v x s p 0x2)
  | .vsr c v x => some (encW 0x2d c 0 v x 0 0 0x3)
  | .vsrPredicate c v x => some (encW 0x2d c 0 v x 1 0 0x3)
  | .vamoadd c m v x i p s => some (encW 0x2e c m v x i p (s.toNat * 8 + 0))
  | .vamomin c m v x i p s => some (encW 0x2e c m v x i p (s.toNat * 8 + 1))
  | .vamomax c m v x i p s => some (encW 0x2e c m v x i p (s.toNat * 8 + 2))
  | .vamoand c m v x i p s => some (encW 0x2e c m v x i p (s.toNat * 8 + 3))
  | .vamoor c m v x i p s => some (encW 0x2e c m v x i p (s.toNat * 8 + 4))
  | .vamoxor c m v x i p s => some (encW 0x2e c m v x i p (s.toNat * 8 + 5))
  | .vamoswap c m v x i p s => some (encW 0x2e c m v x i p (s.toNat * 8 + 6))
  | .vamocas c m v x i p s => some (encW 0x2e c m v x i p (s.toNat * 8 + 7))
  | .mmcpy c m d a p => some (encW 0x2e c m d a 0 p 0x40)
  | .mmadd c m d a b p => some (encW 0x2e c m d a b p 0x41)
  | .mmsub c m d a b p => some (encW 0x2e c m d a b p 0x42)
  | .mmmul c m d a b p => some (encW 0x2e c m d a b p 0x43)
  | .mmmin c m d a b p => some (encW 0x2e c m d a b p 0x44)
  | .mmmax c m d a b p => some (encW 0x2e c m d a b p 0x45)
  | .tshp c k => some (encM 0x2f c 0 0 0 k 0x0)
  | .mxacc c m t a b => some (encM 0x2f c m t a b 0x1)
  | .mopk c m t a b => some (encM 0x2f c m t a b 0x2)
  | .mxsub c m t a b => some (encM 0x2f c m t a b 0x3)
  | .mzero c t => some (encM 0x2f c 0 t 0 0 0x4)
  | .mdrain c m t a => some (encM 0x2f c m t a 0 0x5)
  | .mrow c m t a => some (encM 0x2f c m t a 0 0x6)
  | .tsave c t a => some (encM 0x2f c 0 t a 0 0x7)
  | .trest c t a => some (encM 0x2f c 0 t a 0 0x8)
  | .qbind q a b => some (encQ 0x30 q a b 0 0x0)
  | .btcopy a b k => some (encQ 0x30 0 a b k 0x1)
  | .btgather a b k => some (encQ 0x30 0 a b k 0x2)
  | .qrd q a => some (encQ 0x30 q a 0 0 0x3)
  | .sbar a => some (encQ 0x30 0 a 0 0 0x4)
  | .kwait a b k => some (encQ 0x30 0 a b k 0x5)
  | .wmark a => some (encQ 0x30 0 a 0 0 0x6)
  | .chdemote a => some (encQ 0x30 0 a 0 0 0x7)
  | .pref a b => some (encQ 0x30 0 a b 0 0x8)
  | .nsq a b k => some (encQ 0x31 0 a b k 0x0)
  | .nsstat a b => some (encQ 0x31 0 a b 0 0x1)
  | .hcmv a b k => some (encQ 0x31 0 a b k 0x2)
  | .hcfire a b k => some (encQ 0x31 0 a b k 0x3)
  | .hcage a => some (encQ 0x31 0 a 0 0 0x4)
  | .hcrank a b => some (encQ 0x31 0 a b 0 0x5)
  | .hccommit a => some (encQ 0x31 0 a 0 0 0x6)
  | .wlopen a b => some (encQ 0x32 0 a b 0 0x0)
  | .wlpush a b => some (encQ 0x32 0 a b 0 0x1)
  | .wlpop a b => some (encQ 0x32 0 a b 0 0x2)
  | .wldone a => some (encQ 0x32 0 a 0 0 0x3)
  | .wlstat a b => some (encQ 0x32 0 a b 0 0x4)
  | .wlfloor a b => some (encQ 0x32 0 a b 0 0x5)
  | .glaunch a b => some (encQ 0x33 0 a b 0 0x0)
  | .gwait a b => some (encQ 0x33 0 a b 0 0x1)
  | .gbar a => some (encQ 0x33 0 a 0 0 0x2)
  | .xred a k => some (encQ 0x33 0 a 0 k 0x3)
  | .lslot d a n => some (encS 0x34 0x0 d a n)
  | .pchk d a n => some (encS 0x34 0x1 d a (BitVec.ofNat 6 n.toNat))
  | .ptag d a => some (encS 0x34 0x2 d a 0)
  | .pstrip d a => some (encS 0x34 0x3 d a 0)
  | .rpatchWrite d a => some (encS 0x34 0x4 d a 0)
  | .rpatchMove d a => some (encS 0x34 0x4 d a 1)
  | .wattestReport d a => some (encS 0x34 0x6 d a 0)
  | .wattestAllow d a => some (encS 0x34 0x6 d a 1)
  | .wattestLog d a => some (encS 0x34 0x6 d a 2)
  | .wattestGrant d a => some (encS 0x34 0x6 d a 3)
  | .wattestRevoke d a => some (encS 0x34 0x6 d a 4)
  | .wbindOpen d a => some (encS 0x34 0x7 d a 0)
  | .wbindNewver d a => some (encS 0x34 0x7 d a 1)
  | .wbindPlace d a => some (encS 0x34 0x7 d a 2)
  | .wbindSeal d a => some (encS 0x34 0x7 d a 3)
  | .wbindInstall d a => some (encS 0x34 0x7 d a 4)
  | .wbindErase d a => some (encS 0x34 0x7 d a 5)
  | .wbindClose d a => some (encS 0x34 0x7 d a 6)
  | .ecall d a n => some (encS 0x35 0x0 d a n)
  | .ebreak n => some (encS 0x35 0x2 0 0 n)
  | .mtcr x c => some (encS 0x35 0x3 x (BitVec.ofNat 5 (c.toNat / 32)) (BitVec.ofNat 6 (c.toNat % 32 * 2)))
  | .mfcr x c => some (encS 0x35 0x4 x (BitVec.ofNat 5 (c.toNat / 32)) (BitVec.ofNat 6 (c.toNat % 32 * 2)))
  | .svl d a => some (encS 0x35 0x5 d a 0)
  | .svlW d a => some (encS 0x35 0x5 d a 1)
  | .wfe d a => some (encS 0x35 0x7 d a 0)
  | .csync d a => some (encS 0x35 0x8 d a 0)
  | .vmvxs d a => some (encS 0x35 0x9 d a 0)
  | .kpop d a => some (encS 0x35 0xa d a 0)
  | .kfirst d a => some (encS 0x35 0xb d a 0)
  | .hyield => some (encQ 0x33 0 0 0 0 0x4)
  | .gexit => some (encQ 0x33 0 0 0 0 0x5)
  | .slotsync => some (encS 0x34 0x5 0 0 0)
  | .eret => some (encS 0x35 0x1 0 0 0)
  | .fence => some (encS 0x35 0x6 0 0 0)
  | .fenceSv => some (encS 0x35 0x6 0 0 1)
  | .fenceVs => some (encS 0x35 0x6 0 0 2)
  | .fenceSvVs => some (encS 0x35 0x6 0 0 3)
  | .vtypeWrite _ => none
  | .tshpWrite _ => none
  | .frmWrite _ => none
  | .fflagsWrite _ => none
  | .fflagsRead _ => none
  | .vlffRead _ => none
  | .vlcapWrite _ => none
  | .schedcfgWrite _ => none
  | .vviewOwn => none
  | .vviewAddr _ => none
  | .vviewEvict => none
  | .vviewInstall => none
  | .fwdHold _ => none
  | .fwdForward _ => none
  | .fwdFree _ => none
  | .csafreePush _ => none
  | .hartHold _ => none
  | .hartRelease _ => none
  | .extentAccept _ _ => none
  | .extentDecline _ _ => none
  | .extentRelease _ _ => none
  | .extentFree _ _ => none
  | .msixRaise _ => none
  | .registerWrite _ _ => none
  | .reset => none
  | .boot _ => none
  | .bootHartStart => none
  | .microopIssue _ => none
  | .microopAged _ => none
  | .eventDelivery => none
  | .quantumExpiry _ => none
  | .lpgraceExpiry _ => none
  | .shareGrantChange _ _ => none
  | .preemption _ => none
  | .switchOut _ => none
  | .switchIn _ => none
  | .domainSliceStart _ => none
  | .sliceForfeit _ => none
  | .gangPlacement _ => none
  | .gangStart _ => none
  | .gwaitReturn _ => none
  | .gbarRelease _ _ => none
  | .gexitComplete _ => none
  | .xredComplete _ _ => none
  | .svlWPass _ => none
  | .kwaitReturn _ => none
  | .qrdReturn _ => none
  | .wmarkPublish _ => none
  | .fenceDrained _ => none
  | .slotsyncComplete _ => none
  | .streamFetch _ _ => none
  | .lineFill _ _ => none
  | .remotePacketArrival _ => none
  | .hostCompletion _ _ _ => none
  | .hostCompletionTimeout _ => none
  | .hostWriteFailure _ => none
  | .hostLinkDown => none
  | .shardSearchComplete _ _ _ => none
  | .searchComplete _ _ => none
  | .splitProductComplete _ _ => none
  | .hcrankCopyDone _ => none
  | .btPieceComplete _ _ => none
  | .wlpopReturn _ => none
  | .wlDetectionWave _ _ => none
  | .wlBalanceMove _ _ _ => none
  | .wlUnspill _ _ => none
  | .keyExchangeComplete _ _ => none
  | .sealedLoadComplete _ => none
  | .installComplete _ => none
  | .correctedError _ _ => none
  | .uncorrectableError _ => none
  | .selfTestComplete _ _ _ => none
  | .flitReceive _ _ _ => none
  | .nakReceive _ => none
  | .ackReceive _ => none
  | .readyWindowReceive _ => none
  | .replayTimeout => none
  | .portRetrain _ => none
  | .portUp => none
  | .extentOffered _ _ _ _ => none
  | .releaseRequest _ _ => none
  | .releaseComplete _ _ => none
  | .forcedRelease _ _ => none
  | .rootPortFailure _ => none
  | .clockStep _ => none
  | .thermalAlarm _ => none
  | .powerLimitSet _ _ => none
  | .firmwareUpdate _ => none
  | .mgmtCounterRead _ _ _ => none
  | .fuseRead _ => none
  | .errorLogRead => none
  | .retirementMapRead => none
  | .powerStateSet _ => none
  | .lineWriteBack _ => none
  | .wfeTimeout _ => none
  | .hostLinkUp => none
  | .correctedErrorReportDue _ _ => none

/-- The word of an instruction. -/
def encode (i : Instr) : Option (BitVec 32) := (encodeNat i).map (BitVec.ofNat 32)

end Sys2Proof
end

