-- ==== Sys2Proof/Machine/Float.lean ====
section
/-! DEFINITION. Number formats and rounding (spec/06): the eight floating formats (R90, R91), exact
extended reals, RoundTo (R99), conversions (R100), the random word of stochastic rounding (R101),
the integer helpers Wrap and Sat (R93) and the canonical sum (R106). An encoding is a natural number
below 2 to the format's width; a flag set is a word in the bit positions of FFLAGS (R102). -/

namespace Sys2Proof.Machine

/-- The flag bits of FFLAGS (R102). -/
abbrev Flags := BitVec 7

def Flags.none : Flags := 0
def Flags.nx   : Flags := 0x01
def Flags.uf   : Flags := 0x02
def Flags.of   : Flags := 0x04
def Flags.dz   : Flags := 0x08
def Flags.nv   : Flags := 0x10
def Flags.sat  : Flags := 0x20
def Flags.asat : Flags := 0x40

/-- The rounding modes (R96). -/
inductive RMode where
  | rne | rtz | rdn | rup | rna | sr
deriving DecidableEq, Repr

/-- The mode of a three-bit code; codes 6 and 7 are no modes and never stand in RM (R97). -/
def RMode.ofCode (c : Nat) : RMode :=
  match c with
  | 1 => .rtz | 2 => .rdn | 3 => .rup | 4 => .rna | 5 => .sr | _ => .rne

/-- The floating formats (R90). -/
inductive Fmt where
  | fp64 | fp32 | bf16 | fp16 | e5m2 | e4m3 | e3m2 | e2m1
deriving DecidableEq, Repr

/-- Exponent bits (R90). -/
def Fmt.ebits : Fmt → Nat
  | .fp64 => 11 | .fp32 => 8 | .bf16 => 8 | .fp16 => 5 | .e5m2 => 5 | .e4m3 => 4 | .e3m2 => 3 | .e2m1 => 2

/-- Fraction bits (R90). -/
def Fmt.mbits : Fmt → Nat
  | .fp64 => 52 | .fp32 => 23 | .bf16 => 7 | .fp16 => 10 | .e5m2 => 2 | .e4m3 => 3 | .e3m2 => 2 | .e2m1 => 1

def Fmt.width (f : Fmt) : Nat := 1 + f.ebits + f.mbits

def Fmt.bias (f : Fmt) : Int := 2 ^ (f.ebits - 1) - 1

/-- Exponent of the smallest normal value. -/
def Fmt.emin (f : Fmt) : Int := 1 - f.bias

/-- Formats with infinities (R91). -/
def Fmt.hasInf : Fmt → Bool
  | .e4m3 | .e3m2 | .e2m1 => false
  | _ => true

/-- Formats with a NaN (R91). -/
def Fmt.hasNaN : Fmt → Bool
  | .e3m2 | .e2m1 => false
  | _ => true

/-- The canonical NaN (R91, R92). -/
def Fmt.canonNaN : Fmt → Nat
  | .fp64 => 0x7FF8000000000000 | .fp32 => 0x7FC00000 | .bf16 => 0x7FC0 | .fp16 => 0x7E00
  | .e5m2 => 0x7E | .e4m3 => 0x7F | .e3m2 => 0 | .e2m1 => 0

/-- The largest finite encoding (R91). -/
def Fmt.maxEnc : Fmt → Nat
  | .fp64 => 0x7FEFFFFFFFFFFFFF | .fp32 => 0x7F7FFFFF | .bf16 => 0x7F7F | .fp16 => 0x7BFF
  | .e5m2 => 0x7B | .e4m3 => 0x7E | .e3m2 => 0x1F | .e2m1 => 0x7

def Fmt.signBit (f : Fmt) : Nat := 2 ^ (f.width - 1)

/-- The infinity of a format that has one: exponent all ones, fraction zero. -/
def Fmt.infEnc (f : Fmt) : Nat := (2 ^ f.ebits - 1) * 2 ^ f.mbits

/-- An encoding of the given sign and magnitude bits. -/
def Fmt.signed (f : Fmt) (neg : Bool) (mag : Nat) : Nat := if neg then f.signBit + mag else mag

/-- An exact extended real: NaN, an infinity, or sign, magnitude and a power of two. Zero keeps its
sign. -/
inductive Ext where
  | nan
  | inf (neg : Bool)
  | num (neg : Bool) (m : Nat) (e : Int)
deriving DecidableEq, Repr

/-- The value of an encoding (R90, R91). -/
def Fmt.decode (f : Fmt) (enc : Nat) : Ext :=
  let neg := decide (enc / f.signBit % 2 = 1)
  let mag := enc % f.signBit
  let ex := mag / 2 ^ f.mbits
  let fr := mag % 2 ^ f.mbits
  if f.hasInf ∧ ex = 2 ^ f.ebits - 1 then (if fr = 0 then .inf neg else .nan)
  else if f = .e4m3 ∧ mag = 0x7F then .nan
  else if ex = 0 then .num neg fr (f.emin - f.mbits)
  else .num neg (2 ^ f.mbits + fr) ((ex : Int) - f.bias - f.mbits)

/-- A signalling NaN: a NaN whose most significant fraction bit is 0; the E4M3 NaN is quiet (R91). -/
def Fmt.isSNaN (f : Fmt) (enc : Nat) : Bool :=
  f.hasInf && f.decode enc = .nan && enc / 2 ^ (f.mbits - 1) % 2 = 0

/-- NV when the operand is a signalling NaN (R92). -/
def Fmt.snanFlag (f : Fmt) (enc : Nat) : Flags := if f.isSNaN enc then .nv else .none

/-- A magnitude still to be rounded: n ÷ d × 2^e, or its square root. -/
structure Mag where
  n : Nat
  d : Nat
  e : Int
  root : Bool
deriving DecidableEq, Repr

/-- n ÷ d × 2^k as one fraction. -/
def Mag.shift (n d : Nat) (k : Int) : Nat × Nat :=
  if 0 ≤ k then (n * 2 ^ k.toNat, d) else (n, d * 2 ^ (-k).toNat)

/-- ⌊log2 (n ÷ d)⌋ for n and d positive. -/
def Mag.log2Frac (n d : Nat) : Int :=
  let k : Int := (Nat.log2 n : Int) - (Nat.log2 d : Int)
  let (a, b) := Mag.shift n d (-k)
  if a < b then k - 1 else k

/-- ⌊log2⌋ of a positive magnitude. -/
def Mag.log2 (v : Mag) : Int :=
  let k := Mag.log2Frac v.n v.d + v.e
  if v.root then k / 2 else k

/-- The magnitude in units of 2^q, as a fraction (its square, when a root is to be taken). -/
def Mag.scaled (v : Mag) (q : Int) : Nat × Nat :=
  if v.root then Mag.shift v.n v.d (v.e - 2 * q) else Mag.shift v.n v.d (v.e - q)

/-- ⌊v ÷ 2^q⌋. -/
def Mag.floor (v : Mag) (q : Int) : Nat :=
  let (a, b) := v.scaled q
  if v.root then Nat.sqrt (a / b) else a / b

/-- Compares v ÷ 2^q with lo + p ÷ s, exactly. -/
def Mag.cmp (v : Mag) (q : Int) (lo p s : Nat) : Ordering :=
  let (a, b) := v.scaled q
  if v.root then compare (a * s ^ 2) ((lo * s + p) ^ 2 * b) else compare (a * s) ((lo * s + p) * b)

/-- Pick of R99 on magnitudes: does the result take the larger magnitude lo + 1? The value lies
strictly between lo and lo + 1 units. `sr` says whether SR applies (it acts as RNE beyond the largest
finite value). The random word enters by its upper 24 bits (R101). -/
def pickUp (mode : RMode) (neg : Bool) (v : Mag) (q : Int) (lo : Nat) (rnd : Word) (sr : Bool) : Bool :=
  let half := v.cmp q lo 1 2
  let nearEven := half = .gt ∨ (half = .eq ∧ lo % 2 = 1)
  match mode with
  | .rne => nearEven
  | .rtz => false
  | .rdn => neg
  | .rup => !neg
  | .rna => half ≠ .lt
  | .sr =>
    if sr then
      let g := (rnd >>> 40).toNat
      if neg then ¬ v.cmp q lo (2 ^ 24 - g) (2 ^ 24) = .lt
      else v.cmp q lo g (2 ^ 24) = .gt
    else nearEven

/-- The magnitude above which R101 lets SR act as RNE: v beyond ±MaxF. -/
def Fmt.beyondMax (f : Fmt) (v : Mag) : Bool :=
  match f.decode f.maxEnc with
  | .num _ m e => v.cmp e m 0 1 = .gt
  | _ => false

/-- What overflow returns (R99): infinity or the largest finite value. -/
def Fmt.overflow (f : Fmt) (mode : RMode) (neg : Bool) : Nat :=
  let toInf := f.hasInf && (match mode with
    | .rne | .rna | .sr => true
    | .rtz => false
    | .rdn => neg
    | .rup => !neg)
  f.signed neg (if toInf then f.infEnc else f.maxEnc)

/-- RoundTo (R99) of a magnitude with a sign. -/
def Fmt.roundMag (f : Fmt) (mode : RMode) (rnd : Word) (neg : Bool) (v : Mag) : Nat × Flags :=
  if v.n = 0 then (f.signed neg 0, .none)
  else
    let k := max v.log2 f.emin
    let q := k - f.mbits
    let lo := v.floor q
    let exact := v.cmp q lo 0 1 = .eq
    let up := !exact && pickUp mode neg v q lo rnd (!f.beyondMax v)
    let w := if up then lo + 1 else lo
    let mag := (k - f.emin).toNat * 2 ^ f.mbits + w
    let tiny := decide (mag < 2 ^ f.mbits)
    let fl : Flags := if exact then .none else if tiny then Flags.nx ||| Flags.uf else .nx
    if mag > f.maxEnc then (f.overflow mode neg, fl ||| Flags.of ||| Flags.nx)
    else (f.signed neg mag, fl)

/-- RoundTo (R99) of an exact extended real. -/
def Fmt.roundTo (f : Fmt) (mode : RMode) (rnd : Word) (v : Ext) : Nat × Flags :=
  match v with
  | .nan => if f.hasNaN then (f.canonNaN, .none) else (f.maxEnc, .nv)
  | .inf neg => if f.hasInf then (f.signed neg f.infEnc, .none)
                else (f.signed neg f.maxEnc, Flags.of ||| Flags.nx)
  | .num neg m e => f.roundMag mode rnd neg ⟨m, 1, e, false⟩

/-! ### Exact arithmetic on extended reals -/

/-- Signed integer value of two finite operands over a common power of two. -/
def Ext.align (n1 : Bool) (m1 : Nat) (e1 : Int) (n2 : Bool) (m2 : Nat) (e2 : Int) : Int × Int × Int :=
  let e := min e1 e2
  let a : Int := m1 * 2 ^ (e1 - e).toNat
  let b : Int := m2 * 2 ^ (e2 - e).toNat
  (if n1 then -a else a, if n2 then -b else b, e)

/-- Exact sum, and whether it is an invalid operation (∞ − ∞). A zero sum follows IEEE 754-2019 (R99). -/
def Ext.add (mode : RMode) : Ext → Ext → Ext × Bool
  | .nan, _ => (.nan, false)
  | _, .nan => (.nan, false)
  | .inf a, .inf b => if a = b then (.inf a, false) else (.nan, true)
  | .inf a, .num .. => (.inf a, false)
  | .num .., .inf b => (.inf b, false)
  | .num n1 m1 e1, .num n2 m2 e2 =>
    let (a, b, e) := Ext.align n1 m1 e1 n2 m2 e2
    let s := a + b
    if s = 0 then (.num (if n1 = n2 then n1 else decide (mode = .rdn)) 0 e, false)
    else (.num (decide (s < 0)) s.natAbs e, false)

def Ext.neg : Ext → Ext
  | .nan => .nan
  | .inf a => .inf (!a)
  | .num n m e => .num (!n) m e

/-- Exact product, and whether it is an invalid operation (0 × ∞). -/
def Ext.mul : Ext → Ext → Ext × Bool
  | .nan, _ => (.nan, false)
  | _, .nan => (.nan, false)
  | .inf a, .inf b => (.inf (a != b), false)
  | .inf a, .num n m _ => if m = 0 then (.nan, true) else (.inf (a != n), false)
  | .num n m _, .inf b => if m = 0 then (.nan, true) else (.inf (n != b), false)
  | .num n1 m1 e1, .num n2 m2 e2 => (.num (n1 != n2) (m1 * m2) (e1 + e2), false)

/-- Order of two numbers by value: −0 equals +0. None when either is a NaN. -/
def Ext.cmp : Ext → Ext → Option Ordering
  | .nan, _ => none
  | _, .nan => none
  | .inf a, .inf b => some (if a = b then .eq else if a then .lt else .gt)
  | .inf a, .num .. => some (if a then .lt else .gt)
  | .num .., .inf b => some (if b then .gt else .lt)
  | .num n1 m1 e1, .num n2 m2 e2 =>
    let (a, b, _) := Ext.align n1 m1 e1 n2 m2 e2
    some (compare a b)

def Ext.isNeg : Ext → Bool
  | .nan => false
  | .inf n => n
  | .num n _ _ => n

def Ext.isNaN : Ext → Bool
  | .nan => true
  | _ => false

/-- An integer as an exact real; the integer 0 is +0. -/
def Ext.ofInt (v : Int) : Ext := .num (decide (v < 0)) v.natAbs 0

def invalidFlag (b : Bool) : Flags := if b then .nv else .none

/-! ### Arithmetic in a format: each operation rounds once (R128, R147) -/

def Fmt.add (f : Fmt) (mode : RMode) (rnd : Word) (a b : Nat) : Nat × Flags :=
  let (v, bad) := (f.decode a).add mode (f.decode b)
  let (r, fl) := f.roundTo mode rnd v
  (r, fl ||| invalidFlag bad ||| f.snanFlag a ||| f.snanFlag b)

def Fmt.sub (f : Fmt) (mode : RMode) (rnd : Word) (a b : Nat) : Nat × Flags :=
  let (v, bad) := (f.decode a).add mode (f.decode b).neg
  let (r, fl) := f.roundTo mode rnd v
  (r, fl ||| invalidFlag bad ||| f.snanFlag a ||| f.snanFlag b)

def Fmt.mul (f : Fmt) (mode : RMode) (rnd : Word) (a b : Nat) : Nat × Flags :=
  let (v, bad) := (f.decode a).mul (f.decode b)
  let (r, fl) := f.roundTo mode rnd v
  (r, fl ||| invalidFlag bad ||| f.snanFlag a ||| f.snanFlag b)

/-- a × b + c, rounded once; 0 × ∞ is invalid whatever c is (R128). -/
def Fmt.fma (f : Fmt) (mode : RMode) (rnd : Word) (a b c : Nat) : Nat × Flags :=
  let (p, bad1) := (f.decode a).mul (f.decode b)
  let (v, bad2) := p.add mode (f.decode c)
  let (r, fl) := f.roundTo mode rnd v
  (r, fl ||| invalidFlag (bad1 || bad2) ||| f.snanFlag a ||| f.snanFlag b ||| f.snanFlag c)

def Fmt.div (f : Fmt) (mode : RMode) (rnd : Word) (a b : Nat) : Nat × Flags :=
  let sn := f.snanFlag a ||| f.snanFlag b
  match f.decode a, f.decode b with
  | .nan, _ => (f.canonNaN, sn)
  | _, .nan => (f.canonNaN, sn)
  | .inf _, .inf _ => (f.canonNaN, sn ||| Flags.nv)
  | .inf n, .num n2 _ _ => (f.signed (n != n2) f.infEnc, sn)
  | .num n _ _, .inf n2 => (f.signed (n != n2) 0, sn)
  | .num n1 m1 e1, .num n2 m2 e2 =>
    if m2 = 0 then
      if m1 = 0 then (f.canonNaN, sn ||| Flags.nv) else (f.signed (n1 != n2) f.infEnc, sn ||| Flags.dz)
    else
      let (r, fl) := f.roundMag mode rnd (n1 != n2) ⟨m1, m2, e1 - e2, false⟩
      (r, fl ||| sn)

def Fmt.sqrt (f : Fmt) (mode : RMode) (rnd : Word) (a : Nat) : Nat × Flags :=
  match f.decode a with
  | .nan => (f.canonNaN, f.snanFlag a)
  | .inf neg => if neg then (f.canonNaN, .nv) else (f.infEnc, .none)
  | .num neg m e =>
    if m = 0 then (f.signed neg 0, .none)
    else if neg then (f.canonNaN, .nv)
    else f.roundMag mode rnd false ⟨m, 1, e, true⟩

/-- The order of R129: numbers by value with −0 below +0. -/
def Ext.below (a b : Ext) : Bool :=
  match a.cmp b with
  | some .lt => true
  | some .eq => a.isNeg && !b.isNeg
  | _ => false

/-- fmin and fmax of R129; `mx` chooses the larger. -/
def Fmt.minmax (f : Fmt) (mx : Bool) (a b : Nat) : Nat × Flags :=
  let sn := f.snanFlag a ||| f.snanFlag b
  let x := f.decode a
  let y := f.decode b
  if x.isNaN then (if y.isNaN then f.canonNaN else b, sn)
  else if y.isNaN then (a, sn)
  else if mx then (if x.below y then b else a, sn)
  else (if y.below x then b else a, sn)

/-- The comparisons of R130. -/
inductive FCmp where
  | eq | lt | le
deriving DecidableEq, Repr

def Fmt.compare (f : Fmt) (op : FCmp) (a b : Nat) : Bool × Flags :=
  match (f.decode a).cmp (f.decode b) with
  | none => (false, if op = .eq then f.snanFlag a ||| f.snanFlag b else .nv)
  | some o =>
    ((match op with
      | .eq => o = .eq
      | .lt => o = .lt
      | .le => o ≠ .gt), .none)

/-! ### Conversions (R100) -/

/-- floating to floating -/
def Fmt.convert (src dst : Fmt) (mode : RMode) (rnd : Word) (a : Nat) : Nat × Flags :=
  let (r, fl) := dst.roundTo mode rnd (src.decode a)
  (r, fl ||| src.snanFlag a)

/-- A finite value rounded to an integer in the mode, and whether it was inexact. -/
def roundInt (mode : RMode) (rnd : Word) (neg : Bool) (m : Nat) (e : Int) : Int × Bool :=
  let v : Mag := ⟨m, 1, e, false⟩
  let lo := v.floor 0
  let exact := v.cmp 0 lo 0 1 = .eq
  let w := if !exact && pickUp mode neg v 0 lo rnd true then lo + 1 else lo
  (if neg then -(w : Int) else w, !exact)

/-- floating to an integer between lo and hi -/
def Fmt.toInt (f : Fmt) (mode : RMode) (rnd : Word) (lo hi : Int) (a : Nat) : Int × Flags :=
  match f.decode a with
  | .nan => (0, .nv)
  | .inf neg => (if neg then lo else hi, .nv)
  | .num neg m e =>
    let (v, inexact) := roundInt mode rnd neg m e
    if v < lo then (lo, .nv) else if hi < v then (hi, .nv)
    else (v, if inexact then .nx else .none)

/-- integer to floating -/
def Fmt.ofInt (f : Fmt) (mode : RMode) (rnd : Word) (v : Int) : Nat × Flags :=
  f.roundTo mode rnd (.ofInt v)

/-- floating to bipolar: +1 or −1 as bit 1 or 0 -/
def Fmt.toBipolar (f : Fmt) (a : Nat) : Nat × Flags :=
  match f.decode a with
  | .nan => (1, .nv)
  | v => (if v.isNeg then 0 else 1, .none)

/-! ### Stochastic rounding (R101) -/

def mix64 (z0 : Word) : Word :=
  let z1 := (z0 ^^^ (z0 >>> 30)) * 0xBF58476D1CE4E5B9
  let z2 := (z1 ^^^ (z1 >>> 27)) * 0x94D049BB133111EB
  z2 ^^^ (z2 >>> 31)

/-- The random word of element i under a captured seed. -/
def rndWord (seed : Word) (i : Nat) : Word :=
  mix64 (seed ^^^ (BitVec.ofNat 64 i * 0x9E3779B97F4A7C15))

/-! ### Integers (R93, R94) -/

/-- Wrap: the encoding of v modulo 2^w. -/
def wrapNat (w : Nat) (v : Int) : Nat := (v % (2 ^ w : Int)).toNat

/-- The bounds of a w-bit integer. -/
def intLo (w : Nat) (signed : Bool) : Int := if signed then -(2 ^ (w - 1)) else 0
def intHi (w : Nat) (signed : Bool) : Int := if signed then 2 ^ (w - 1) - 1 else 2 ^ w - 1

/-- Sat: the clamped value, and whether the clamp changed it. -/
def satInt (w : Nat) (signed : Bool) (v : Int) : Int × Bool :=
  if v < intLo w signed then (intLo w signed, true)
  else if intHi w signed < v then (intHi w signed, true)
  else (v, false)

/-- The signed value of a w-bit encoding. -/
def sintOf (w : Nat) (enc : Nat) : Int :=
  if enc % 2 ^ w < 2 ^ (w - 1) then (enc % 2 ^ w : Nat) else (enc % 2 ^ w : Nat) - 2 ^ w

/-! ### The canonical sum (R106) -/

/-- One addition of the tree: an exact sum rounded to FP32 in RNE. -/
def canonAdd (a b : Ext × Flags) : Ext × Flags :=
  let (v, bad) := a.1.add .rne b.1
  let (r, fl) := Fmt.fp32.roundTo .rne 0 v
  (Fmt.fp32.decode r, a.2 ||| b.2 ||| fl ||| invalidFlag bad)

/-- One level of the tree: neighbours pairwise, in index order. -/
def canonLevel : List (Ext × Flags) → List (Ext × Flags)
  | a :: b :: t => canonAdd a b :: canonLevel t
  | t => t

/-- The exponent of the smallest power of two that is at least n and at least 16. -/
def treeLevels (n : Nat) : Nat := if n ≤ 16 then 4 else Nat.log2 (n - 1) + 1

def canonLevels : Nat → List (Ext × Flags) → List (Ext × Flags)
  | 0, l => l
  | k + 1, l => canonLevels k (canonLevel l)

/-- CanonSum over terms; an inactive term is −0, as is the padding. The result is an FP32 encoding. -/
def canonSum (terms : List (Ext × Bool)) : Nat × Flags :=
  let k := treeLevels terms.length
  let leaves := terms.map fun t => if t.2 then (t.1, Flags.none) else (Ext.num true 0 0, Flags.none)
  let padded := leaves ++ List.replicate (2 ^ k - terms.length) (Ext.num true 0 0, Flags.none)
  match canonLevels k padded with
  | (v, fl) :: _ =>
    let (r, fl') := Fmt.fp32.roundTo .rne 0 v
    (r, fl ||| fl')
  | [] => (0, .none)

end Sys2Proof.Machine
end

