-- ==== Sys2Proof/Machine/State.lean ====
section
/-! DEFINITION. The state of the machine as plain data: harts, vector state, gangs, worklists,
near-memory work, memory, device registers, worlds and links; and the state after reset (R366).
Memory and register images are lists of (position, byte) pairs in one canonical form: positions
strictly rising, no byte 0; a position that is not listed holds 0 (log entry 3 for memory). -/

namespace Sys2Proof.Machine

/-- Sparse bytes by position. -/
abbrev Bytes := List Host.Cell

/-! ### Slots and pointers -/

/-- A slot word, field by field (R70). -/
structure SlotWord where
  keyid   : BitVec 10
  version : BitVec 12
  gen     : BitVec 8
  attr    : BitVec 2
  len     : BitVec 32
  chain   : BitVec 12
  base    : BitVec 46
  state   : BitVec 2
  rights  : BitVec 4
deriving DecidableEq, Repr

/-- A slot word captured by work in flight, with its index (R180). -/
structure SlotRef where
  index : Nat
  word  : SlotWord
deriving DecidableEq, Repr

/-- A captured scalar operand: value and provenance tag (R113, R357). -/
structure Operand where
  val : Word
  tag : Option (BitVec 16)
deriving DecidableEq, Repr

/-- Who accesses: the hart, the world its checks use, its core and the table its slots come from. In
the view of another context, the world whose register-save key alone passes (R377). `op` numbers the
instruction that accesses: what it writes to one destination leaves in one packet (R221). -/
structure Ctx where
  ser   : BitVec 16
  world : BitVec 10
  core  : BitVec 8
  table : Nat
  view  : Option (BitVec 10)
  op    : Nat
deriving DecidableEq, Repr

/-- A slot word in a core's slot cache, or the head of a table, as the 16 bytes of memory it was read from
(R304, R307). -/
structure CachedSlot where
  core : BitVec 8
  addr : Nat
  data : List Byte
deriving DecidableEq, Repr

/-- A line in a core's instruction cache, in plaintext (R21): its place, and the key, version and slot offset under which
it was read (R327). -/
structure CachedLine where
  core    : BitVec 8
  line    : Nat
  keyid   : BitVec 10
  version : BitVec 12
  off     : Nat
  data    : List Byte
deriving DecidableEq, Repr

/-- A scalar store of a hart that has not performed yet (R211): its probe has passed. -/
structure PendingStore where
  ctx  : Ctx
  word : SlotWord
  addr : Nat
  data : List Byte
deriving DecidableEq, Repr

/-- The capture of a query vector or a product vector in progress, element by element (R177, R253): its
slot word, address, element size and number of elements, and the elements read so far. -/
structure VecCapture where
  slot : SlotRef
  addr : Nat
  size : Nat
  count : Nat
  got  : List (Nat × List Byte)
deriving DecidableEq, Repr

/-- What the instruction at pc has read while it waits: structures by slot and address, each read once (R177), the vector
that it captures, and the place of the map block whose event has begun with it, which keeps other events of that map
out (R196). -/
structure Capture where
  seen : List ((Nat × Nat) × List Byte)
  vec  : Option VecCapture
  map  : Option Nat
deriving DecidableEq, Repr

/-! ### Harts -/

/-- A pending stirrup loan (R31, R32). -/
structure Loan where
  k   : BitVec 4
  dc  : Bool
  vdc : BitVec 5
deriving DecidableEq, Repr

/-- Convoy classes (R28, R39). -/
inductive Class where
  | load | store | arith | permute | feed
deriving DecidableEq, Repr

/-- Where a hart stands in its life (R269, R351, R367). -/
inductive Life where
  /-- no hart -/
  | absent
  /-- on a front-end slot -/
  | running
  /-- runnable, saved in its CSA -/
  | descheduled
  /-- held by the manager (R373) -/
  | held
  | exited
  | quarantined
deriving DecidableEq, Repr

/-- An interruptible wait in progress. Every one restarts its instruction on return. -/
inductive Wait where
  /-- for the hart's own queue, for room, for a held write or for a copy: no row names its end -/
  | retry
  /-- for a host completion (R396), of an access or of the fetch at pc -/
  | host
  | hostFetch
  /-- for the slice that holds its atomic (R318) -/
  | slice
  | fence | slotsync | gexit
  | svlW (d a : BitVec 5)
  | kwait (a b : BitVec 5) (k : BitVec 4)
  | qrd (q : BitVec 3) (a : BitVec 5)
  | wmark (a : BitVec 5)
  | gwait (a b : BitVec 5)
  | gbar (b : BitVec 4)
  | wlpop (a b : BitVec 5)
  | wfe (d a : BitVec 5)
deriving DecidableEq, Repr

/-- One entry of the vector instruction queue (R212, R357, R370). -/
structure QEntry where
  addr    : Word
  instr   : Instr
  cls     : Class
  loan    : Option Loan
  vl      : Nat
  start   : Nat
  vtype   : Word
  rm      : BitVec 3
  tshp    : Word
  seed    : Word
  ops     : Vector Operand 3
  strides : Vector Word 3
  /-- the mask, once the instruction has started (R25) -/
  mask    : Option Bytes
  /-- the slot words of the probe that has passed (R229); none before it -/
  probed  : Option (List SlotRef)
  /-- elements that `vldff` performs (R232), or `vqrd` reads (R239), once probed -/
  limit   : Nat
  /-- its host reads or atomics have left, and what the host has answered (R396): success, data -/
  asked   : Bool
  answer  : Option (Bool × List Byte)
  /-- packing units that have been accessed before the rest of their element group, with what a load has read (R213) -/
  early   : List (Nat × List Byte)
  /-- the convoy of the hart in which it stands (R28, R30) -/
  convoy  : Nat
  /-- it has completed before an older entry -/
  done    : Bool
  /-- ready for AGEMAX cycles (R272) -/
  aged    : Bool
  /-- stopped part-way and restored: its completion clears VSTART (R137) -/
  resumed : Bool
  /-- the place of its entry among all entries of the device -/
  stamp   : Nat
deriving DecidableEq, Repr

/-- A vector register: width tag (R111) and image (R110). -/
structure VReg where
  width : Nat
  img   : Bytes
deriving DecidableEq, Repr

/-- A stream binding (R238); unbound when `bound` is false, and then all else is 0. -/
structure Stream where
  bound  : Bool
  /-- the world for which it fetches -/
  wid    : BitVec 10
  base   : Operand
  stride : Word
  extent : BitVec 32
  et     : BitVec 8
  pos    : Word
  /-- elements fetched and not consumed, oldest first -/
  ready  : List Word
  /-- the host has not given the next element: its reader takes the fault (R396) -/
  failed : Bool
  slot   : Option SlotRef
deriving DecidableEq, Repr

/-- Whose state `vsr`, `vlr`, `tsave` and `trest` act on in handler mode (R376). -/
inductive View where
  | own
  | ctx (csa : BitVec 52)
deriving DecidableEq, Repr

structure Hart where
  -- identity (R260) and group (R76)
  dev    : BitVec 8
  core   : BitVec 8
  ser    : BitVec 16
  gid    : BitVec 32
  rank   : BitVec 12
  wid    : BitVec 10
  role   : BitVec 2
  weight : BitVec 8
  life   : Life
  -- scalar registers (R112, R113)
  x      : Vector Word 32
  tag    : Vector (Option (BitVec 16)) 32
  pc     : Word
  /-- the word fetched at pc (TVAL of R360 holds it) -/
  iw     : BitVec 32
  /-- h0 of the pair word at pc has executed (R36) -/
  half   : Bool
  /-- `iw` is the pair word whose h0 has executed: h1 executes from it and is not fetched again (R34, R36) -/
  pairHeld : Bool
  loan   : Option Loan
  /-- last-destination record (R35) -/
  last   : Option (BitVec 5)
  -- control registers
  vl     : BitVec 20
  vtype  : Word
  vstart : BitVec 20
  vlff   : BitVec 20
  tshp   : Word
  fflags : Flags
  frm    : BitVec 3
  seed   : Word
  wcons  : Word
  btctl  : Word
  xrSeq  : BitVec 32
  xrLast : BitVec 2
  share  : BitVec 3
  pend   : BitVec 3
  pv     : Bool
  cap    : BitVec 3
  pfx    : Word
  issue  : BitVec 63
  slottab : Word
  ltab   : Word
  /-- index of the code slot recorded at launch (R306) -/
  code   : BitVec 32
  /-- index of the handler's code slot, read at handler entry (R363) -/
  hcode  : BitVec 32
  tcause : Word
  tpc    : Word
  tdetail : Word
  tval   : Word
  tctx   : Word
  ovf    : Bool
  ie     : Bool
  nest   : Bool
  hm     : Bool
  view   : View
  -- vector state (R110, R133, R158), when `vloc` is 1; the lane groups that hold it (R375)
  vreg   : Vector VReg 32
  kreg   : Vector Bytes 12
  tile   : Vector Bytes 8
  vloc   : BitVec 8
  groups : List (BitVec 2)
  queue  : List QEntry
  /-- classes in the open convoy; none when the next member begins one (R28, R29) -/
  convoy : Option (List Class)
  /-- convoys begun so far, and the one of which a member has issued last (R28, R30) -/
  convoys : Nat
  convoyRun : Nat
  streams : Vector Stream 8
  /-- barriers arrived at (R274) -/
  arrivals : BitVec 16
  /-- completion sets held while the hart does not run (R179): predicate and bit -/
  sets   : List (BitVec 4 × Nat)
  /-- ends of reductions held likewise, as LAST of XRSTAT (R278) -/
  ends   : List (BitVec 2)
  /-- completion bits set since the last `wfe` (R380) -/
  event  : Bool
  csa    : BitVec 52
  /-- a hold has been requested (R372) -/
  holdReq : Bool
  /-- a pre-emption has been requested (R373) -/
  preempt : Bool
  wait   : Option Wait
  /-- the host's answer to the waiting access (R396): success, data -/
  answer : Option (Bool × List Byte)
  /-- a line that fails its check, which work of the hart in flight has met as an agent of world 0: the hart takes the
  fault for it before its next instruction (R385) -/
  badLine : Option Nat
  /-- what the instruction at pc has read; none before it has read anything -/
  capture : Option Capture
  /-- quanta left in this round of the run set (R269) -/
  quanta : Nat
deriving DecidableEq, Repr

/-! ### Gangs (R76, R261 to R279) -/

/-- A member of a gang. -/
structure Member where
  rank   : Nat
  dev    : BitVec 8
  /-- the hart, once it is placed on this device -/
  ser    : Option (BitVec 16)
  role   : BitVec 2
  weight : BitVec 8
  entry  : BitVec 32
  /-- neither exited nor quarantined -/
  live   : Bool
  /-- reductions joined so far (R277) -/
  joins  : Nat
  /-- bit b: it has arrived at barrier b in the current epoch (R274) -/
  arrived : BitVec 16
deriving DecidableEq, Repr

/-- One member's part in a domain reduction (R275, R277). -/
structure Join where
  rank  : Nat
  ser   : BitVec 16
  count : Nat
  op    : BitVec 8
  etype : BitVec 8
  steps : List Word
  buf   : SlotRef
  boff  : Nat
  kb    : BitVec 4
  cbit  : Nat
deriving DecidableEq, Repr

/-- Reduction number k of a gang (R277). -/
structure Reduction where
  k     : Nat
  joins : List Join
  /-- its results have left, and it waits for what a forwarding entry holds of them (R318) -/
  sent  : Bool
deriving DecidableEq, Repr

/-- State of a worklist (R290). -/
inductive WlState where
  | closed | opened | armed | done
deriving DecidableEq, Repr

/-- A spill record (R287): its place in the part, and the number that keys its bytes, which are the
device's own. -/
structure Spill where
  place : Nat
  key   : Nat
deriving DecidableEq, Repr

/-- A queued task (R282): where it is queued, its level, and its record while it is spilled. -/
structure Task where
  word    : Word
  level   : Nat
  dev     : BitVec 8
  spilled : Option Spill
deriving DecidableEq, Repr

/-- An outstanding token (R291). -/
structure Token where
  serial : Nat
  level  : Nat
  /-- the hart that popped it; on another device, its rank -/
  ser    : BitVec 16
  dev    : BitVec 8
deriving DecidableEq, Repr

/-- Worklist w of a gang (R281 to R299). -/
structure Worklist where
  w       : Nat
  state   : WlState
  desc    : List Byte
  delta   : Nat
  shift   : Nat
  spill   : Option SlotRef
  soff    : Nat
  slen    : Nat
  /-- the captured slot word of the balancing record, and the record's address -/
  rslot   : Option SlotRef
  roff    : Nat
  record  : List Word
  tasks   : List Task
  tokens  : List Token
  serial  : Nat
  floor   : Nat
  /-- pushes and retirements, summed over the member devices (R289) -/
  pushes  : BitVec 64
  retired : BitVec 64
  /-- sums that the first wave of a detection in progress has found -/
  wave    : Option (BitVec 64 × BitVec 64)
  /-- other devices on which a blocking pop waits (R300) -/
  waiters : List (BitVec 8)
  lost    : Bool
  aband   : Bool
  sfull   : Bool
deriving DecidableEq, Repr

/-- Where a gang stands. -/
inductive GangPhase where
  /-- in the launch queue or waiting for CSAs (R263) -/
  | waiting
  /-- every member placed; the start barrier has not passed -/
  | placed
  | started
  /-- retired with a status, not yet consumed (R264) -/
  | retired (status : Nat)
  | consumed
deriving DecidableEq, Repr

structure Gang where
  gid     : BitVec 32
  wid     : BitVec 10
  chain   : BitVec 16
  devs    : List (BitVec 8)
  members : List Member
  wlmask  : BitVec 16
  table   : Word
  code    : BitVec 32
  phase   : GangPhase
  /-- compute die whose launch queue admitted it -/
  die     : Nat
  marks   : Vector (BitVec 48) 16
  epochs  : Vector Nat 16
  reds    : List Reduction
  /-- the first reduction that a member left without joining (R277) -/
  cancel  : Option Nat
  lists   : List Worklist
  /-- this device is ready for the gang's slice (R273) -/
  sliceReady : Bool
  /-- a domain gang runs inside its slice only, which begins when every member device is ready (R273) -/
  inSlice : Bool
  /-- some member was quarantined -/
  broken  : Bool
deriving DecidableEq, Repr

/-! ### Near-memory work (10, 12) -/

/-- One member of a search result: distance encoding and identifier. -/
abbrev Near := Nat × Nat

/-- The search of one shard (R182, R186). -/
structure Shard where
  stack   : Nat
  deg     : Nat
  nodes   : Nat
  idbase  : Nat
  entry   : Nat
  slot    : SlotRef
  /-- addresses of node 0's vector and list -/
  vaddr   : Nat
  aaddr   : Nat
  vstride : Nat
  astride : Nat
  /-- members, status, vcount, xcount once the shard is searched -/
  result  : Option (List Near × Nat × Nat × Nat)
deriving DecidableEq, Repr

/-- A query in flight (R183, R187). -/
structure Query where
  shards : List Shard
  mask   : Nat
  k      : Nat
  ef     : Nat
  etype  : BitVec 8
  metric : Nat
  dim    : Nat
  q      : List Nat
  rslot  : SlotRef
  raddr  : Nat
deriving DecidableEq, Repr

/-- A split product in flight (R193, R194). -/
structure Product where
  /-- the place of the map block, which follows a move of its slot -/
  map     : Nat
  half    : Nat
  hot     : List Nat
  etype   : BitVec 8
  rows    : Nat
  cols    : Nat
  hmax    : Nat
  rstride : Nat
  wslot   : SlotRef
  hslot   : SlotRef
  yslot   : SlotRef
  /-- addresses of row 0, of the hot rows of the half, and of y -/
  waddr   : Nat
  haddr   : Nat
  yaddr   : Nat
  x       : List Nat
deriving DecidableEq, Repr

inductive Work where
  | query (q : Query)
  | product (p : Product)
deriving DecidableEq, Repr

/-- A ticket (R176 to R180). -/
structure Ticket where
  ser  : BitVec 16
  wid  : BitVec 10
  core : BitVec 8
  num  : Nat
  kb   : BitVec 4
  cbit : Nat
  work : Work
  /-- everything that it writes has left for the slices, and it waits for what a forwarding entry holds of it (R318) -/
  sent : Bool
  /-- the issuing hart has exited: its set is discarded (R279) -/
  mute : Bool
deriving DecidableEq, Repr

/-- A piece of a block-transfer job (R243, R244). -/
structure Piece where
  src : Nat
  dst : Nat
  len : Nat
  bit : Nat
  /-- what it writes has left, and it waits for what a forwarding entry holds of it (R318) -/
  sent : Bool
deriving DecidableEq, Repr

/-- A block-transfer job; pieces done are dropped (R245). -/
structure Job where
  ser    : BitVec 16
  /-- the tick of its issue -/
  num    : Nat
  wid    : BitVec 10
  core   : BitVec 8
  kb     : BitVec 4
  pieces : List (Option Piece)
  src    : SlotRef
  dst    : SlotRef
  raw    : Bool
  mute   : Bool
deriving DecidableEq, Repr

/-- The background row copy of an `hcrank` (R195). -/
structure HotCopy where
  /-- the place of the map block, which follows a move of its slot -/
  map  : Nat
  ser  : BitVec 16
  wid  : BitVec 10
  core : BitVec 8
  rows : List Nat
  /-- addresses of row 0 and of the row area of the half -/
  waddr : Nat
  haddr : Nat
  rstride : Nat
  bytes : Nat
  wslot : SlotRef
  hslot : SlotRef
  /-- the rows have left, and it waits for what a forwarding entry holds of them (R318) -/
  sent : Bool
deriving DecidableEq, Repr

/-! ### Memory, fabric and device registers -/

/-- A write at a physical place, in plaintext, with what its line check needs (R331, R333). -/
structure MemWrite where
  key     : Nat
  data    : List Byte
  keyid   : BitVec 10
  version : BitVec 12
  off     : Nat
  /-- the world of the agent that writes -/
  world   : BitVec 10
  /-- a slice may hold the line (R205) -/
  cached  : Bool
  /-- a line that it covers is written whole, with no fill (R409) -/
  whole   : Bool
deriving DecidableEq, Repr

/-- The operations of R235. -/
inductive AmoOp where
  | add | min | max | and | or | xor | swap | cas
deriving DecidableEq, Repr

/-- The instruction that waits for an atomic: its hart and its address, and for a vector atomic the element at which it
stands (R318, R373). -/
structure AmoId where
  ser   : BitVec 16
  addr  : Word
  start : Option Nat
deriving DecidableEq, Repr

/-- An atomic on its way: operation, signedness, operand and compare value, and who waits for the old word: none for an
atomic of another device, or of a hart that has gone on elsewhere. -/
structure AmoReq where
  op      : AmoOp
  signed  : Bool
  operand : Nat
  compare : Nat
  who     : Option AmoId
deriving DecidableEq, Repr

/-- A fabric stream of this device (R221). -/
inductive FabricStream where
  | scalar (ser : BitVec 16)
  | vector (ser : BitVec 16)
  | job (ser : BitVec 16) (n : Nat)
  | ticket (ser : BitVec 16) (n : Nat)
  /-- of the units that spill a worklist of a gang (R287) -/
  | list (gid : BitVec 32) (w : Nat)
  /-- of another device, whose accesses arrive here -/
  | peer (dev : BitVec 8)
deriving DecidableEq, Repr

/-- A packet in flight to another device, with the writes it performs there (R221). -/
structure Packet where
  stream : FabricStream
  dev    : BitVec 8
  /-- the instruction or access that it carries: a whole vector instruction travels as one packet -/
  num    : Nat
  writes : List MemWrite
deriving DecidableEq, Repr

/-- A line written since its last write-back: what memory holds below the cached line (R386), and the worlds whose
agents have written it since (R401). -/
structure DirtyLine where
  line    : Nat
  keyid   : BitVec 10
  writers : List (BitVec 10)
  backing : List Byte
  mac     : BitVec 32
deriving DecidableEq, Repr

/-- A forwarding entry (R317). -/
structure FwdEntry where
  old  : BitVec 46
  new  : BitVec 46
  len  : BitVec 32
  mode : BitVec 2
deriving DecidableEq, Repr

/-- A write or an atomic held by a forwarding entry in MODE 1 (R318). -/
structure HeldWrite where
  entry  : Nat
  stream : FabricStream
  wr     : MemWrite
  amo    : Option AmoReq
deriving DecidableEq, Repr

/-- An asynchronous event (R362). -/
structure Event where
  cause  : Word
  detail : Word
  val    : Word
deriving DecidableEq, Repr

/-- A root-port entry (R399). -/
structure Extent where
  off   : BitVec 13
  units : BitVec 14
  state : BitVec 3
deriving DecidableEq, Repr

/-- A position of an anti-rollback counter: blown cells of its three fuses (R402). -/
structure FusePos where
  mark    : BitVec 2
  commit  : BitVec 2
  discard : BitVec 2
deriving DecidableEq, Repr

/-! ### Worlds and keys (20) -/

/-- A version of a world's key (R328, R349). -/
structure KeyVer where
  ver     : BitVec 12
  draw    : Nat
  pending : Bool
deriving DecidableEq, Repr

/-- An entry of the disclosure log (R339). -/
structure LogEntry where
  time : Word
  cls  : BitVec 8
  req  : BitVec 8
  seq  : BitVec 32
deriving DecidableEq, Repr

structure World where
  wid      : BitVec 10
  versions : List KeyVer
  devs     : List (BitVec 8)
  /-- devices whose key exchange with this one is complete (R342) -/
  ready    : List (BitVec 8)
  /-- worlds this world has granted its key to (R340) -/
  grants   : List (BitVec 10)
  /-- harts of this world whose REVOKE has removed a grant and waits (R340) -/
  revokes  : List (BitVec 16 × BitVec 10)
  allow    : Word
  log      : List LogEntry
  lost     : BitVec 32
  attempts : BitVec 32
  imgm     : BitVec 256
  /-- draw number of the report key pair -/
  report   : Option Nat
  lstat    : Word
  qaddr    : Nat
  qlen     : Nat
  qpos     : Nat
  qlost    : BitVec 32
  qseq     : BitVec 64
  faulted  : Bool
deriving DecidableEq, Repr

/-- An entry of the installed model store (R350). -/
structure StoreEntry where
  num      : Nat
  manifest : List Byte
  /-- K_o of the model, kept with the manifest -/
  owner    : BitVec 256
  /-- draw number of K_s -/
  draw     : Nat
  contents : List Byte
deriving DecidableEq, Repr

/-- A sealed load or installation accepted and not yet complete (R348, R350). -/
structure SealJob where
  install : Bool
  /-- the core whose scratchpad its addresses mean -/
  core    : BitVec 8
  wid     : BitVec 10
  kver    : BitVec 12
  srck    : Nat
  src     : Nat
  manifest : List Byte
  wrapped : List Byte
  dst     : Nat
  doff    : Nat
  len     : Nat
  /-- shards whose reads have ended in error, once for each time -/
  errors  : List Nat
deriving DecidableEq, Repr

/-! ### What leaves the module -/

inductive Outbound where
  /-- a packet of writes to the host: the stream and the number of the instruction that sends it, and the bytes at each
  bus address (R221, R396) -/
  | hostWrite (st : FabricStream) (num : Nat) (parts : List (Nat × List Byte))
  /-- a packet of reads or of atomics for the host: a bus address with the bytes, or with operand and compare value, for
  each -/
  | hostRead (ser : BitVec 16) (parts : List (Nat × Nat))
  | hostAtomic (ser : BitVec 16) (op : Nat) (parts : List (Nat × Word × Word))
  | msix (n : Nat)
  /-- BOOT refused (R366) -/
  | bootRefused
  /-- an error report that goes to the management interface (R367, R390) -/
  | report (e : Event)
  | counter (value : Word) (withheld : Bool)
  | fuses (value : Word)
  | errorLog (l : List Event)
  | retirement (l : List (BitVec 8 × BitVec 16))
  | firmware (accepted : Bool)
  /-- an acknowledgement, a negative acknowledgement or data flits of the fabric port (R392) -/
  | ack (g : BitVec 10)
  | nak (g : BitVec 10)
  /-- a ready window (R393) -/
  | ready (w : BitVec 10)
  /-- data flits sent again -/
  | replay (flits : List (List (BitVec 72)))
  /-- a data flit: its eight fabric words (R391) -/
  | flit (words : List (BitVec 72))
  /-- what the host reads from configuration space or from the mailbox of BAR0 (R395) -/
  | hostRegister (data : List Byte)
  /-- the attestation certificate chain (R328) -/
  | certificates (chain : List Byte)
  /-- a shootdown or release acknowledged to the expander of a root port (R400) -/
  | released (port : BitVec 3) (entry : BitVec 6)
deriving DecidableEq, Repr

/-- The fabric port's link state (R391 to R394). -/
structure Link where
  up       : Bool
  /-- data flits that wait for room in the retry buffer or in the ready window -/
  waiting  : Nat
  /-- sequence number of the next data flit to send -/
  next     : BitVec 10
  /-- flits sent and not acknowledged, oldest first -/
  retry    : List (BitVec 10 × BitVec 512)
  /-- highest sequence number the other end accepts -/
  window   : BitVec 10
  /-- sequence number expected next by the receiver -/
  expect   : BitVec 10
  /-- discarding until the expected flit arrives -/
  discard  : Bool
  /-- replays in a row that began with a flit not yet acknowledged (R394) -/
  replays  : List (BitVec 10 × Nat)
  /-- the 36 slice links retrain: nothing is sent or received meanwhile (R394) -/
  training : Bool
  /-- data flits that the receiver has room for (R393) -/
  room     : Nat
  /-- data flits delivered, oldest first -/
  delivered : List (BitVec 512)
deriving DecidableEq, Repr

/-- Boot (R366). -/
inductive Boot where
  | awaiting
  /-- the image is placed: its slot table, the boot hart's CSA, and the first gang descriptor with its first
  group -/
  | placed (table : Word) (csa : BitVec 52) (desc : List Byte)
  | running
deriving DecidableEq, Repr

/-- What another device of the domain does that this one sees (log entry 49). -/
inductive PeerAct where
  /-- it stores bytes in this device's memory, plaintext, through its own slot word -/
  | write (w : MemWrite)
  /-- it performs an atomic there, of as many bytes as the write holds (R235) -/
  | atomic (w : MemWrite) (q : AmoReq)
  /-- it reads a line there -/
  | read (a : Nat)
  /-- a member publishes a watermark (R247) -/
  | mark (gid : BitVec 32) (v : Word)
  /-- a member arrives at a barrier (R274) -/
  | arrive (gid : BitVec 32) (rank : Nat) (b : BitVec 4)
  /-- a member joins its next reduction (R277) -/
  | join (gid : BitVec 32) (j : Join)
  /-- a member pushes a task that the units of its device `dev` queue (R287, R292) -/
  | push (gid : BitVec 32) (w : BitVec 4) (dev : BitVec 8) (task : Word) (level : Nat)
  /-- a member pops task number `n` of those queued on its device (R285) -/
  | pop (gid : BitVec 32) (w : BitVec 4) (rank n : Nat)
  /-- a member retires a token (R291) -/
  | retire (gid : BitVec 32) (w : BitVec 4) (rank serial : Nat)
  /-- a blocking pop begins or ends to wait on a device (R300) -/
  | popWaits (gid : BitVec 32) (w : BitVec 4) (dev : BitVec 8) (on : Bool)
  /-- a member exits, or its context is quarantined (R279, R351) -/
  | exit (gid : BitVec 32) (rank : Nat) (bad : Bool)
  /-- every other member device is ready: the slice begins (R273) -/
  | sliceAgreed (gid : BitVec 32)
  /-- it launches a domain gang with members on this device (R261, R262) -/
  | launch (g : Gang)
  /-- a member opens a worklist, with what `wlopen` captures (R290, R294) -/
  | openList (gid : BitVec 32) (l : Worklist)
  /-- a spill record of its part fails its check and is dropped (R287) -/
  | dropRecord (gid : BitVec 32) (w : BitVec 4) (dev : BitVec 8) (n : Nat)
  /-- it holds `n` worklists of gangs that have no member on this device (R281) -/
  | holdsLists (dev : BitVec 8) (n : Nat)
  /-- a WATTEST or WBIND there reaches the controllers of this device: GRANT and REVOKE of a world to another, NEWVER
  with the key that it has drawn, CLOSE (R340, R343, R345) -/
  | grant (a b : BitVec 10)
  | revoke (a b : BitVec 10)
  | newVersion (a : BitVec 10) (ver : BitVec 12) (pending : Bool)
  | closeWorld (a : BitVec 10)
deriving DecidableEq, Repr

/-- What happens inside the device, or at its edge, that the opcode table names no row for (log entry 1). -/
inductive Inner where
  /-- a core's slot cache takes in the 16 bytes of a table at an address, as memory holds them or as it held them at a time
  since the last `slotsync`, or drops them; and what memory holds now stays in use for later (R307) -/
  | fillSlot (core : BitVec 8) (addr : Nat) (past : Option Nat)
  | noteSlot (addr : Nat)
  | dropSlot (core : BitVec 8) (addr : Nat)
  /-- the instruction cache of a hart's core takes in the line of code at an address, or drops a line (R21) -/
  | fillCode (ser : BitVec 16) (a : Nat)
  | dropCode (core : BitVec 8) (line : Nat)
  /-- from now on the stores of a hart's scalar side perform later than they execute, and its captures are
  made element by element; or no longer (R211, R253) -/
  | slow (ser : BitVec 16) (on : Bool)
  /-- the oldest pending store of a hart to memory, or to the device window, performs -/
  | performStore (ser : BitVec 16) (window : Bool)
  /-- element `i` of the capture in progress is read -/
  | captureElement (ser : BitVec 16) (i : Nat)
  /-- packing unit `u` of the element group that a core issues next is accessed before the rest of the group (R213) -/
  | issueUnit (core : BitVec 8) (u : Nat)
  /-- write `j` of packet `n` performs at the other device before the rest of it does (R213, R221) -/
  | packetWrite (n j : Nat)
  | peer (p : PeerAct)
  /-- a slice link loses lock (R394) -/
  | lockLost
  /-- the receiver of the fabric port has room for `n` flits and publishes its ready window (R393) -/
  | receiverRoom (n : Nat)
  /-- the host reads or writes configuration space or the mailbox (R395) -/
  | hostRegisterRead (mailbox : Bool) (off n : Nat)
  | hostRegisterWrite (mailbox : Bool) (off : Nat) (data : List Byte)
  /-- the management interface reads the certificate chain (R328) -/
  | certificateRead
  /-- a read of a shard of a sealed load or installation ends in error (R348) -/
  | shardReadError (n shard : Nat)
  /-- a reset cuts the advance of a counter off after `k` cells (R403) -/
  | advanceCut (counter : BitVec 4) (k : Nat)
deriving DecidableEq, Repr

/-- What comes next: a step of the device, a turn of a hart, or something without a row of its own. -/
inductive Cue where
  | occur (i : Instr)
  | run (ser : BitVec 16)
  | inner (e : Inner)
deriving DecidableEq, Repr

structure State where
  /-- the hart that acts -/
  hart   : Hart
  /-- every other hart -/
  others : List Hart
  gangs  : List Gang
  /-- worklists that another device holds of gangs with no member here (R281) -/
  farLists : List (BitVec 8 × Nat)
  handles : Nat
  /-- the world whose gang each launch queue admitted last, round-robin (R261) -/
  launchTurns : Vector Nat 4
  -- near-memory work and transfers
  tickets : List Ticket
  jobs    : List Job
  copies  : List HotCopy
  -- memory (R199, R200)
  mem    : Bytes
  /-- side-band MAC of each line written (R333) -/
  macs   : List (Nat × BitVec 32)
  dirty  : List DirtyLine
  /-- lines of memory with an error that cannot be corrected: every fill of them finds it (R335, R385) -/
  lost   : List Nat
  /-- owner of each scratchpad region, core × 256 + region; 0 where not listed (R326) -/
  owners : List (Nat × BitVec 10)
  /-- slot caches and instruction caches of the cores (R307, R21) -/
  slotCache : List CachedSlot
  /-- what 16 bytes of a table held at times since the last `slotsync`: a core may use it still (R307) -/
  slotPast : List (Nat × List Byte)
  icache : List CachedLine
  /-- scalar stores that have executed and not performed, oldest first (R211) -/
  stores : List PendingStore
  /-- harts whose scalar side performs late -/
  slow   : List (BitVec 16)
  held   : List HeldWrite
  /-- old words of atomics that a slice has held, for an instruction that has not taken them yet (R318, R373) -/
  owed   : List (AmoId × List Byte)
  packets : List Packet
  -- device registers
  pages  : List (Nat × BitVec 16)
  cthr   : Vector (BitVec 16) 12
  fwd    : Vector FwdEntry 64
  csafree : List (BitVec 52)
  schedcfg : Word
  hvec   : Word
  htab   : Word
  events : List Event
  eventLost : Bool
  /-- units out of service: class of R390 and unit index -/
  retired : List (BitVec 8 × BitVec 16)
  /-- corrected errors held back since the unit's last report, with the line that the last one affected (R390), and
  runs of self-test passed -/
  corrected : List (BitVec 8 × BitVec 16 × Nat × Word)
  tests  : List (BitVec 8 × BitVec 16 × Nat)
  /-- times of a unit's corrected errors within the last second (R387) -/
  recent : List (BitVec 8 × BitVec 16 × List Nat)
  extents : Vector Extent 512
  fuses  : Vector (List FusePos) 16
  clock  : BitVec 16
  /-- µs spent below 2,000 MHz before the present spell, and when that began (R404) -/
  thrus  : BitVec 32
  slowSince : Option Word
  powerLimit : BitVec 16
  tempLimit  : BitVec 16
  powerState : BitVec 8
  fwActive   : FirmwareImage
  fwInactive : Option FirmwareImage
  fwMinimum  : Nat
  errorLog : List Event
  -- the outside
  outbox : List Outbound
  hostUp : Bool
  link   : Link
  devIndex : BitVec 8
  domain : List (BitVec 8)
  boot   : Boot
  /-- configuration space and the mailbox of BAR0 (R395) -/
  pcie    : Bytes
  mailbox : Bytes
  -- worlds
  worlds : List World
  /-- draw number of the report key pair of world 0, which no record of `worlds` holds -/
  report0 : Option Nat
  /-- draws of the key generator so far -/
  draws  : Nat
  store  : List StoreEntry
  seals  : List SealJob
  /-- the gang whose domain slice runs, and gangs whose slice has been forfeited (R273) -/
  slice  : Option (BitVec 32)
  -- the model's own (log entry 1)
  agenda : List Cue
  tick   : Nat
deriving DecidableEq, Repr

/-- Nothing faults: no rule leaves a behaviour without an effect (R2), so this type is empty. -/
inductive Fault where
deriving DecidableEq, Repr

inductive Refusal where
  /-- Raised by an arm of `exec` whose instruction has no meaning yet. Safe: the run stops. -/
  | notModelled (mnemonic : String)
deriving DecidableEq, Repr

/-! ### Reset -/

def VReg.blank : VReg := ⟨64, []⟩

def Operand.zero : Operand := ⟨0, none⟩

def Stream.unbound : Stream := ⟨false, 0, .zero, 0, 0, 0, 0, [], false, none⟩

/-- VTYPE and TSHP at reset: bit 63 (VILL, TILL) set, all else 0 (R134, R160). -/
def vill : Word := 0x8000000000000000

/-- The registers of a hart that has not been launched (log entry 2), with the reset values the spec
gives. -/
def Hart.blank : Hart where
  dev := 0
  core := 0
  ser := 0
  gid := 0
  rank := 0
  wid := 0
  role := 0
  weight := 0
  life := .absent
  x := Vector.replicate 32 0
  tag := Vector.replicate 32 none
  pc := 0
  iw := 0
  half := false
  pairHeld := false
  loan := none
  last := none
  vl := 0
  vtype := vill
  vstart := 0
  vlff := 0
  tshp := vill
  fflags := 0
  frm := 0
  seed := 0
  wcons := 0
  btctl := 0
  xrSeq := 0
  xrLast := 0
  share := 0
  pend := 0
  pv := true
  cap := 4
  pfx := 0
  issue := 0
  slottab := 0
  ltab := 0
  code := 0
  hcode := 0
  tcause := 0
  tpc := 0
  tdetail := 0
  tval := 0
  tctx := 0
  ovf := false
  ie := false
  nest := false
  hm := false
  view := .own
  vreg := Vector.replicate 32 .blank
  kreg := Vector.replicate 12 []
  tile := Vector.replicate 8 []
  vloc := 0
  groups := []
  queue := []
  convoy := none
  convoys := 0
  convoyRun := 0
  streams := Vector.replicate 8 .unbound
  arrivals := 0
  sets := []
  ends := []
  event := false
  csa := 0
  holdReq := false
  preempt := false
  wait := none
  answer := none
  badLine := none
  capture := none
  quanta := 0

def FwdEntry.free : FwdEntry := ⟨0, 0, 0, 0⟩
def Extent.free : Extent := ⟨0, 0, 0⟩

/-- SCHEDCFG at reset: AGEMAX 4,096, LPGRACE 50, QUANTUM 2,000, IMODE 1, SGRACE 20 (R270). -/
def schedcfgReset : Word := 0x10000032007D0114

def Link.reset : Link := ⟨true, 0, 0, [], 511, 0, false, [], false, 512, []⟩

/-- The machine right after reset (R366): every register at its reset value, no hart, no world, no
gang, nothing listed in memory; it waits for a BOOT command. -/
def State.reset : State where
  hart := .blank
  others := []
  gangs := []
  farLists := []
  handles := 0
  launchTurns := Vector.replicate 4 0
  tickets := []
  jobs := []
  copies := []
  mem := []
  macs := []
  dirty := []
  lost := []
  owners := []
  slotCache := []
  slotPast := []
  icache := []
  stores := []
  slow := []
  held := []
  owed := []
  packets := []
  pages := []
  cthr := Vector.replicate 12 0
  fwd := Vector.replicate 64 .free
  csafree := []
  schedcfg := schedcfgReset
  hvec := 0
  htab := 0
  events := []
  eventLost := false
  retired := []
  corrected := []
  tests := []
  recent := []
  extents := Vector.replicate 512 .free
  fuses := Vector.replicate 16 []
  clock := 2000
  thrus := 0
  slowSince := none
  powerLimit := 3600
  tempLimit := 0
  powerState := 0
  fwActive := ⟨0, 0, true⟩
  fwInactive := none
  fwMinimum := 0
  errorLog := []
  outbox := []
  hostUp := true
  link := .reset
  devIndex := 0
  domain := [0]
  boot := .awaiting
  pcie := []
  mailbox := []
  worlds := []
  report0 := none
  draws := 0
  store := []
  seals := []
  slice := none
  agenda := []
  tick := 0

end Sys2Proof.Machine
end

