-- ==== Sys2Proof/Machine/Attr.lean ====
section
/-! DEFINITION. What the word of a vector or matrix instruction says before its meaning: the convoy
class (R28, R44 to R47), the c and m bits (R24), and the decoding of queue words (R370). -/

namespace Sys2Proof.Machine

/-- The convoy class of an instruction of format V, W or M; none for every other (R28). -/
def classOf (i : Instr) : Option Class :=
  match i with
  | .add _ _ _ => none
  | .sub _ _ _ => none
  | .and _ _ _ => none
  | .or _ _ _ => none
  | .xor _ _ _ => none
  | .sll _ _ _ => none
  | .srl _ _ _ => none
  | .sra _ _ _ => none
  | .slt _ _ _ => none
  | .sltu _ _ _ => none
  | .min _ _ _ => none
  | .max _ _ _ => none
  | .mul _ _ _ => none
  | .mulh _ _ _ => none
  | .mulhu _ _ _ => none
  | .div _ _ _ => none
  | .divu _ _ _ => none
  | .rem _ _ _ => none
  | .remu _ _ _ => none
  | .clz _ _ => none
  | .ctz _ _ => none
  | .popc _ _ => none
  | .sextb _ _ => none
  | .sexth _ _ => none
  | .sextw _ _ => none
  | .zexth _ _ => none
  | .zextw _ _ => none
  | .faddd _ _ _ => none
  | .fsubd _ _ _ => none
  | .fmuld _ _ _ => none
  | .fdivd _ _ _ => none
  | .fsqrtd _ _ => none
  | .fmad _ _ _ => none
  | .fmind _ _ _ => none
  | .fmaxd _ _ _ => none
  | .feqd _ _ _ => none
  | .fltd _ _ _ => none
  | .fled _ _ _ => none
  | .fadds _ _ _ => none
  | .fmuls _ _ _ => none
  | .fmas _ _ _ => none
  | .fcvtsd _ _ => none
  | .fcvtds _ _ => none
  | .fcvtld _ _ => none
  | .fcvtdl _ _ => none
  | .amoadd _ _ _ _ => none
  | .amomin _ _ _ _ => none
  | .amomax _ _ _ _ => none
  | .amoand _ _ _ _ => none
  | .amoor _ _ _ _ => none
  | .amoxor _ _ _ _ => none
  | .amoswap _ _ _ _ => none
  | .amocas _ _ _ _ => none
  | .addi _ _ _ => none
  | .andi _ _ _ => none
  | .ori _ _ _ => none
  | .slli _ _ _ => none
  | .srli _ _ _ => none
  | .srai _ _ _ => none
  | .jalr _ _ _ => none
  | .lb _ _ _ => none
  | .lbu _ _ _ => none
  | .lh _ _ _ => none
  | .lhu _ _ _ => none
  | .lw _ _ _ => none
  | .lwu _ _ _ => none
  | .ld _ _ _ => none
  | .sb _ _ _ => none
  | .sh _ _ _ => none
  | .sw _ _ _ => none
  | .sd _ _ _ => none
  | .lui _ _ => none
  | .auipc _ _ => none
  | .beq _ _ _ => none
  | .bne _ _ _ => none
  | .blt _ _ _ => none
  | .bge _ _ _ => none
  | .bltu _ _ _ => none
  | .bgeu _ _ _ => none
  | .bcnt _ _ => none
  | .j _ => none
  | .jal _ => none
  | .stir _ => none
  | .stirCopy _ _ => none
  | .cmov _ => none
  | .caddi _ _ => none
  | .csubi _ _ => none
  | .cslli _ _ => none
  | .csrli _ _ => none
  | .csrai _ _ => none
  | .candi _ _ => none
  | .cadd _ _ => none
  | .csub _ _ => none
  | .cand _ _ => none
  | .cor _ _ => none
  | .cxor _ _ => none
  | .vadd _ _ _ _ _ => some .arith
  | .vsub _ _ _ _ _ => some .arith
  | .vmul _ _ _ _ _ => some .arith
  | .vmulh _ _ _ _ _ => some .arith
  | .vmin _ _ _ _ _ => some .arith
  | .vmax _ _ _ _ _ => some .arith
  | .vand _ _ _ _ _ => some .arith
  | .vor _ _ _ _ _ => some .arith
  | .vxor _ _ _ _ _ => some .arith
  | .vsadd _ _ _ _ _ => some .arith
  | .vssub _ _ _ _ _ => some .arith
  | .vmacc _ _ _ _ _ => some .arith
  | .vaddx _ _ _ _ _ => some .arith
  | .vmulx _ _ _ _ _ => some .arith
  | .vaddi _ _ _ _ _ => some .arith
  | .vslli _ _ _ _ _ => some .arith
  | .vsrli _ _ _ _ _ => some .arith
  | .vsrai _ _ _ _ _ => some .arith
  | .vcmpeq _ _ _ _ _ => some .arith
  | .vcmplt _ _ _ _ _ => some .arith
  | .vcmple _ _ _ _ _ => some .arith
  | .vsel _ _ _ _ _ => some .arith
  | .vmvx _ _ _ _ => some .arith
  | .vfadd _ _ _ _ _ => some .arith
  | .vfsub _ _ _ _ _ => some .arith
  | .vfmul _ _ _ _ _ => some .arith
  | .vfdiv _ _ _ _ _ => some .arith
  | .vfsqrt _ _ _ _ => some .arith
  | .vfma _ _ _ _ _ => some .arith
  | .vfmin _ _ _ _ _ => some .arith
  | .vfmax _ _ _ _ _ => some .arith
  | .vfcmpeq _ _ _ _ _ => some .arith
  | .vfcmplt _ _ _ _ _ => some .arith
  | .vfcmple _ _ _ _ _ => some .arith
  | .vfmulx _ _ _ _ _ => some .arith
  | .vfsmul _ _ _ _ _ => some .arith
  | .vfsmacc _ _ _ _ _ => some .arith
  | .vfcvt _ _ _ _ => some .arith
  | .vfcvti _ _ _ _ => some .arith
  | .vicvtf _ _ _ _ => some .arith
  | .vicvt _ _ _ _ => some .arith
  | .vredsum _ _ _ _ => some .permute
  | .vredmax _ _ _ _ => some .permute
  | .vfredsum _ _ _ _ => some .permute
  | .vfredmax _ _ _ _ => some .permute
  | .vtopk _ _ _ _ _ => some .permute
  | .vperm _ _ _ _ _ => some .permute
  | .vslideup _ _ _ _ _ => some .permute
  | .vslidedn _ _ _ _ _ => some .permute
  | .vcompress _ _ _ _ => some .permute
  | .viota _ _ _ => some .permute
  | .vskv _ _ _ _ => some .permute
  | .kand _ _ _ _ _ => some .arith
  | .kor _ _ _ _ _ => some .arith
  | .kxor _ _ _ _ _ => some .arith
  | .kandn _ _ _ _ _ => some .arith
  | .knot _ _ _ _ => some .arith
  | .kbefore _ _ _ _ => some .arith
  | .kset _ _ _ => some .arith
  | .vld _ _ _ _ _ => some .load
  | .vlds _ _ _ _ _ _ => some .load
  | .vldx _ _ _ _ _ _ => some .load
  | .vldff _ _ _ _ _ => some .load
  | .vqrd _ _ _ _ _ => some .load
  | .vlr _ _ _ => some .load
  | .vlrPredicate _ _ _ => some .load
  | .vst _ _ _ _ _ => some .store
  | .vsts _ _ _ _ _ _ => some .store
  | .vstx _ _ _ _ _ _ => some .store
  | .vsr _ _ _ => some .store
  | .vsrPredicate _ _ _ => some .store
  | .vamoadd _ _ _ _ _ _ _ => some .store
  | .vamomin _ _ _ _ _ _ _ => some .store
  | .vamomax _ _ _ _ _ _ _ => some .store
  | .vamoand _ _ _ _ _ _ _ => some .store
  | .vamoor _ _ _ _ _ _ _ => some .store
  | .vamoxor _ _ _ _ _ _ _ => some .store
  | .vamoswap _ _ _ _ _ _ _ => some .store
  | .vamocas _ _ _ _ _ _ _ => some .store
  | .mmcpy _ _ _ _ _ => some .store
  | .mmadd _ _ _ _ _ _ => some .store
  | .mmsub _ _ _ _ _ _ => some .store
  | .mmmul _ _ _ _ _ _ => some .store
  | .mmmin _ _ _ _ _ _ => some .store
  | .mmmax _ _ _ _ _ _ => some .store
  | .tshp _ _ => some .feed
  | .mxacc _ _ _ _ _ => some .feed
  | .mopk _ _ _ _ _ => some .feed
  | .mxsub _ _ _ _ _ => some .feed
  | .mzero _ _ => some .feed
  | .mdrain _ _ _ _ => some .feed
  | .mrow _ _ _ _ => some .feed
  | .tsave _ _ _ => some .feed
  | .trest _ _ _ => some .feed
  | .qbind _ _ _ => none
  | .btcopy _ _ _ => none
  | .btgather _ _ _ => none
  | .qrd _ _ => none
  | .sbar _ => none
  | .kwait _ _ _ => none
  | .wmark _ => none
  | .chdemote _ => none
  | .pref _ _ => none
  | .nsq _ _ _ => none
  | .nsstat _ _ => none
  | .hcmv _ _ _ => none
  | .hcfire _ _ _ => none
  | .hcage _ => none
  | .hcrank _ _ => none
  | .hccommit _ => none
  | .wlopen _ _ => none
  | .wlpush _ _ => none
  | .wlpop _ _ => none
  | .wldone _ => none
  | .wlstat _ _ => none
  | .wlfloor _ _ => none
  | .glaunch _ _ => none
  | .gwait _ _ => none
  | .gbar _ => none
  | .xred _ _ => none
  | .lslot _ _ _ => none
  | .pchk _ _ _ => none
  | .ptag _ _ => none
  | .pstrip _ _ => none
  | .rpatchWrite _ _ => none
  | .rpatchMove _ _ => none
  | .wattestReport _ _ => none
  | .wattestAllow _ _ => none
  | .wattestLog _ _ => none
  | .wattestGrant _ _ => none
  | .wattestRevoke _ _ => none
  | .wbindOpen _ _ => none
  | .wbindNewver _ _ => none
  | .wbindPlace _ _ => none
  | .wbindSeal _ _ => none
  | .wbindInstall _ _ => none
  | .wbindErase _ _ => none
  | .wbindClose _ _ => none
  | .ecall _ _ _ => none
  | .ebreak _ => none
  | .mtcr _ _ => none
  | .mfcr _ _ => none
  | .svl _ _ => none
  | .svlW _ _ => none
  | .wfe _ _ => none
  | .csync _ _ => none
  | .vmvxs _ _ => none
  | .kpop _ _ => none
  | .kfirst _ _ => none
  | .hyield => none
  | .gexit => none
  | .slotsync => none
  | .eret => none
  | .fence => none
  | .fenceSv => none
  | .fenceVs => none
  | .fenceSvVs => none
  | .vtypeWrite _ => none
  | .tshpWrite _ => none
  | .frmWrite _ => none
  | .fflagsWrite _ => none
  | .fflagsRead _ => none
  | .vlffRead _ => none
  | .vlcapWrite _ => none
  | .schedcfgWrite _ => none
  | .vviewOwn => none
  | .vviewAddr _ => none
  | .vviewEvict => none
  | .vviewInstall => none
  | .fwdHold _ => none
  | .fwdForward _ => none
  | .fwdFree _ => none
  | .csafreePush _ => none
  | .hartHold _ => none
  | .hartRelease _ => none
  | .extentAccept _ _ => none
  | .extentDecline _ _ => none
  | .extentRelease _ _ => none
  | .extentFree _ _ => none
  | .msixRaise _ => none
  | .registerWrite _ _ => none
  | .reset => none
  | .boot _ => none
  | .bootHartStart => none
  | .microopIssue _ => none
  | .microopAged _ => none
  | .eventDelivery => none
  | .quantumExpiry _ => none
  | .lpgraceExpiry _ => none
  | .shareGrantChange _ _ => none
  | .preemption _ => none
  | .switchOut _ => none
  | .switchIn _ => none
  | .domainSliceStart _ => none
  | .sliceForfeit _ => none
  | .gangPlacement _ => none
  | .gangStart _ => none
  | .gwaitReturn _ => none
  | .gbarRelease _ _ => none
  | .gexitComplete _ => none
  | .xredComplete _ _ => none
  | .svlWPass _ => none
  | .kwaitReturn _ => none
  | .qrdReturn _ => none
  | .wmarkPublish _ => none
  | .fenceDrained _ => none
  | .slotsyncComplete _ => none
  | .streamFetch _ _ => none
  | .lineFill _ _ => none
  | .remotePacketArrival _ => none
  | .hostCompletion _ _ _ => none
  | .hostCompletionTimeout _ => none
  | .hostWriteFailure _ => none
  | .hostLinkDown => none
  | .shardSearchComplete _ _ _ => none
  | .searchComplete _ _ => none
  | .splitProductComplete _ _ => none
  | .hcrankCopyDone _ => none
  | .btPieceComplete _ _ => none
  | .wlpopReturn _ => none
  | .wlDetectionWave _ _ => none
  | .wlBalanceMove _ _ _ => none
  | .wlUnspill _ _ => none
  | .keyExchangeComplete _ _ => none
  | .sealedLoadComplete _ => none
  | .installComplete _ => none
  | .correctedError _ _ => none
  | .uncorrectableError _ => none
  | .selfTestComplete _ _ _ => none
  | .flitReceive _ _ _ => none
  | .nakReceive _ => none
  | .ackReceive _ => none
  | .readyWindowReceive _ => none
  | .replayTimeout => none
  | .portRetrain _ => none
  | .portUp => none
  | .extentOffered _ _ _ _ => none
  | .releaseRequest _ _ => none
  | .releaseComplete _ _ => none
  | .forcedRelease _ _ => none
  | .rootPortFailure _ => none
  | .clockStep _ => none
  | .thermalAlarm _ => none
  | .powerLimitSet _ _ => none
  | .firmwareUpdate _ => none
  | .mgmtCounterRead _ _ _ => none
  | .fuseRead _ => none
  | .errorLogRead => none
  | .retirementMapRead => none
  | .powerStateSet _ => none
  | .lineWriteBack _ => none
  | .wfeTimeout _ => none
  | .hostLinkUp => none
  | .correctedErrorReportDue _ _ => none

/-- The c bit: does the instruction open a convoy (R28)? -/
def opensConvoy (i : Instr) : Bool :=
  match i with
  | .vadd c _ _ _ _ => c == 1
  | .vsub c _ _ _ _ => c == 1
  | .vmul c _ _ _ _ => c == 1
  | .vmulh c _ _ _ _ => c == 1
  | .vmin c _ _ _ _ => c == 1
  | .vmax c _ _ _ _ => c == 1
  | .vand c _ _ _ _ => c == 1
  | .vor c _ _ _ _ => c == 1
  | .vxor c _ _ _ _ => c == 1
  | .vsadd c _ _ _ _ => c == 1
  | .vssub c _ _ _ _ => c == 1
  | .vmacc c _ _ _ _ => c == 1
  | .vaddx c _ _ _ _ => c == 1
  | .vmulx c _ _ _ _ => c == 1
  | .vaddi c _ _ _ _ => c == 1
  | .vslli c _ _ _ _ => c == 1
  | .vsrli c _ _ _ _ => c == 1
  | .vsrai c _ _ _ _ => c == 1
  | .vcmpeq c _ _ _ _ => c == 1
  | .vcmplt c _ _ _ _ => c == 1
  | .vcmple c _ _ _ _ => c == 1
  | .vsel c _ _ _ _ => c == 1
  | .vmvx c _ _ _ => c == 1
  | .vfadd c _ _ _ _ => c == 1
  | .vfsub c _ _ _ _ => c == 1
  | .vfmul c _ _ _ _ => c == 1
  | .vfdiv c _ _ _ _ => c == 1
  | .vfsqrt c _ _ _ => c == 1
  | .vfma c _ _ _ _ => c == 1
  | .vfmin c _ _ _ _ => c == 1
  | .vfmax c _ _ _ _ => c == 1
  | .vfcmpeq c _ _ _ _ => c == 1
  | .vfcmplt c _ _ _ _ => c == 1
  | .vfcmple c _ _ _ _ => c == 1
  | .vfmulx c _ _ _ _ => c == 1
  | .vfsmul c _ _ _ _ => c == 1
  | .vfsmacc c _ _ _ _ => c == 1
  | .vfcvt c _ _ _ => c == 1
  | .vfcvti c _ _ _ => c == 1
  | .vicvtf c _ _ _ => c == 1
  | .vicvt c _ _ _ => c == 1
  | .vredsum c _ _ _ => c == 1
  | .vredmax c _ _ _ => c == 1
  | .vfredsum c _ _ _ => c == 1
  | .vfredmax c _ _ _ => c == 1
  | .vtopk c _ _ _ _ => c == 1
  | .vperm c _ _ _ _ => c == 1
  | .vslideup c _ _ _ _ => c == 1
  | .vslidedn c _ _ _ _ => c == 1
  | .vcompress c _ _ _ => c == 1
  | .viota c _ _ => c == 1
  | .vskv c _ _ _ => c == 1
  | .kand c _ _ _ _ => c == 1
  | .kor c _ _ _ _ => c == 1
  | .kxor c _ _ _ _ => c == 1
  | .kandn c _ _ _ _ => c == 1
  | .knot c _ _ _ => c == 1
  | .kbefore c _ _ _ => c == 1
  | .kset c _ _ => c == 1
  | .vld c _ _ _ _ => c == 1
  | .vlds c _ _ _ _ _ => c == 1
  | .vldx c _ _ _ _ _ => c == 1
  | .vldff c _ _ _ _ => c == 1
  | .vqrd c _ _ _ _ => c == 1
  | .vlr c _ _ => c == 1
  | .vlrPredicate c _ _ => c == 1
  | .vst c _ _ _ _ => c == 1
  | .vsts c _ _ _ _ _ => c == 1
  | .vstx c _ _ _ _ _ => c == 1
  | .vsr c _ _ => c == 1
  | .vsrPredicate c _ _ => c == 1
  | .vamoadd c _ _ _ _ _ _ => c == 1
  | .vamomin c _ _ _ _ _ _ => c == 1
  | .vamomax c _ _ _ _ _ _ => c == 1
  | .vamoand c _ _ _ _ _ _ => c == 1
  | .vamoor c _ _ _ _ _ _ => c == 1
  | .vamoxor c _ _ _ _ _ _ => c == 1
  | .vamoswap c _ _ _ _ _ _ => c == 1
  | .vamocas c _ _ _ _ _ _ => c == 1
  | .mmcpy c _ _ _ _ => c == 1
  | .mmadd c _ _ _ _ _ => c == 1
  | .mmsub c _ _ _ _ _ => c == 1
  | .mmmul c _ _ _ _ _ => c == 1
  | .mmmin c _ _ _ _ _ => c == 1
  | .mmmax c _ _ _ _ _ => c == 1
  | .tshp c _ => c == 1
  | .mxacc c _ _ _ _ => c == 1
  | .mopk c _ _ _ _ => c == 1
  | .mxsub c _ _ _ _ => c == 1
  | .mzero c _ => c == 1
  | .mdrain c _ _ _ => c == 1
  | .mrow c _ _ _ => c == 1
  | .tsave c _ _ => c == 1
  | .trest c _ _ => c == 1
  | _ => false

/-- The m bit: is the instruction predicated (R25)? -/
def masked (i : Instr) : Bool :=
  match i with
  | .vadd _ m _ _ _ => m == 1
  | .vsub _ m _ _ _ => m == 1
  | .vmul _ m _ _ _ => m == 1
  | .vmulh _ m _ _ _ => m == 1
  | .vmin _ m _ _ _ => m == 1
  | .vmax _ m _ _ _ => m == 1
  | .vand _ m _ _ _ => m == 1
  | .vor _ m _ _ _ => m == 1
  | .vxor _ m _ _ _ => m == 1
  | .vsadd _ m _ _ _ => m == 1
  | .vssub _ m _ _ _ => m == 1
  | .vmacc _ m _ _ _ => m == 1
  | .vaddx _ m _ _ _ => m == 1
  | .vmulx _ m _ _ _ => m == 1
  | .vaddi _ m _ _ _ => m == 1
  | .vslli _ m _ _ _ => m == 1
  | .vsrli _ m _ _ _ => m == 1
  | .vsrai _ m _ _ _ => m == 1
  | .vcmpeq _ m _ _ _ => m == 1
  | .vcmplt _ m _ _ _ => m == 1
  | .vcmple _ m _ _ _ => m == 1
  | .vsel _ m _ _ _ => m == 1
  | .vmvx _ m _ _ => m == 1
  | .vfadd _ m _ _ _ => m == 1
  | .vfsub _ m _ _ _ => m == 1
  | .vfmul _ m _ _ _ => m == 1
  | .vfdiv _ m _ _ _ => m == 1
  | .vfsqrt _ m _ _ => m == 1
  | .vfma _ m _ _ _ => m == 1
  | .vfmin _ m _ _ _ => m == 1
  | .vfmax _ m _ _ _ => m == 1
  | .vfcmpeq _ m _ _ _ => m == 1
  | .vfcmplt _ m _ _ _ => m == 1
  | .vfcmple _ m _ _ _ => m == 1
  | .vfmulx _ m _ _ _ => m == 1
  | .vfsmul _ m _ _ _ => m == 1
  | .vfsmacc _ m _ _ _ => m == 1
  | .vfcvt _ m _ _ => m == 1
  | .vfcvti _ m _ _ => m == 1
  | .vicvtf _ m _ _ => m == 1
  | .vicvt _ m _ _ => m == 1
  | .vredsum _ m _ _ => m == 1
  | .vredmax _ m _ _ => m == 1
  | .vfredsum _ m _ _ => m == 1
  | .vfredmax _ m _ _ => m == 1
  | .vtopk _ m _ _ _ => m == 1
  | .vperm _ m _ _ _ => m == 1
  | .vslideup _ m _ _ _ => m == 1
  | .vslidedn _ m _ _ _ => m == 1
  | .vcompress _ m _ _ => m == 1
  | .viota _ m _ => m == 1
  | .vskv _ m _ _ => m == 1
  | .kand _ m _ _ _ => m == 1
  | .kor _ m _ _ _ => m == 1
  | .kxor _ m _ _ _ => m == 1
  | .kandn _ m _ _ _ => m == 1
  | .knot _ m _ _ => m == 1
  | .kbefore _ m _ _ => m == 1
  | .kset _ m _ => m == 1
  | .vld _ m _ _ _ => m == 1
  | .vlds _ m _ _ _ _ => m == 1
  | .vldx _ m _ _ _ _ => m == 1
  | .vldff _ m _ _ _ => m == 1
  | .vqrd _ m _ _ _ => m == 1
  | .vst _ m _ _ _ => m == 1
  | .vsts _ m _ _ _ _ => m == 1
  | .vstx _ m _ _ _ _ => m == 1
  | .vamoadd _ m _ _ _ _ _ => m == 1
  | .vamomin _ m _ _ _ _ _ => m == 1
  | .vamomax _ m _ _ _ _ _ => m == 1
  | .vamoand _ m _ _ _ _ _ => m == 1
  | .vamoor _ m _ _ _ _ _ => m == 1
  | .vamoxor _ m _ _ _ _ _ => m == 1
  | .vamoswap _ m _ _ _ _ _ => m == 1
  | .vamocas _ m _ _ _ _ _ => m == 1
  | .mmcpy _ m _ _ _ => m == 1
  | .mmadd _ m _ _ _ _ => m == 1
  | .mmsub _ m _ _ _ _ => m == 1
  | .mmmul _ m _ _ _ _ => m == 1
  | .mmmin _ m _ _ _ _ => m == 1
  | .mmmax _ m _ _ _ _ => m == 1
  | .mxacc _ m _ _ _ => m == 1
  | .mopk _ m _ _ _ => m == 1
  | .mxsub _ m _ _ _ => m == 1
  | .mdrain _ m _ _ => m == 1
  | .mrow _ m _ _ => m == 1
  | _ => false

/-- The V, W or M instruction of a word, as the queue image holds it (R370). -/
def decodeQueueWord (w : Nat) : Option Instr :=
  let r : Except Reject Instr :=
    match w / 2 ^ 26 % 64 with
    | 0x28 => decV28 (field 1 25 w) (field 1 24 w) (field 5 19 w) (field 5 14 w) (field 5 9 w) (w / 2 ^ 0 % 2 ^ 9)
    | 0x29 => decV29 (field 1 25 w) (field 1 24 w) (field 5 19 w) (field 5 14 w) (field 5 9 w) (w / 2 ^ 0 % 2 ^ 9)
    | 0x2a => decV2A (field 1 25 w) (field 1 24 w) (field 5 19 w) (field 5 14 w) (field 5 9 w) (w / 2 ^ 0 % 2 ^ 9)
    | 0x2b => decV2B (field 1 25 w) (field 1 24 w) (field 5 19 w) (field 5 14 w) (field 5 9 w) (w / 2 ^ 0 % 2 ^ 9)
    | 0x2c => decW2C (field 1 25 w) (field 1 24 w) (field 5 19 w) (field 5 14 w) (field 5 9 w) (field 2 7 w) (w / 2 ^ 0 % 2 ^ 7)
    | 0x2d => decW2D (field 1 25 w) (field 1 24 w) (field 5 19 w) (field 5 14 w) (field 5 9 w) (field 2 7 w) (w / 2 ^ 0 % 2 ^ 7)
    | 0x2e => decW2E (field 1 25 w) (field 1 24 w) (field 5 19 w) (field 5 14 w) (field 5 9 w) (field 2 7 w) (w / 2 ^ 0 % 2 ^ 7)
    | 0x2f => decM2F (field 1 25 w) (field 1 24 w) (field 3 21 w) (field 5 16 w) (field 5 11 w) (w / 2 ^ 0 % 2 ^ 11)
    | _ => .error .reservedMajor
  match r with
  | .ok i => some i
  | .error _ => none

end Sys2Proof.Machine
end

