-- ==== Sys2Proof/Config.lean ====
section
/-! DEFINITION. What the spec leaves open: free values, as constants without a body, applied to the
number of the step that uses them (`tick`) or to what they depend on. Nothing in Lean can evaluate
them or prove a value of them. Each names the log entry (notes/assumptions) that declares it. -/

namespace Sys2Proof.Config

/-- The AES-256 key of the `n`-th draw of the key generator (R328; log entry 7). -/
opaque drawnKey : Nat → BitVec 256

/-- The private scalar of the `n`-th report key pair (R328; log entry 7). -/
opaque reportScalar : Nat → BitVec 256

/-- The private scalar of the device attestation key pair, the nonce of the `n`-th signature under it, and the
certificate chain that vouches for it (R328, R337, R352; log entry 7). -/
opaque deviceKey : BitVec 256
opaque signNonce : Nat → BitVec 256
opaque certificateChain : List (BitVec 8)

/-- Microseconds since reset at a step (R339, R352; log entry 8). -/
opaque time : Nat → BitVec 64

/-- SHA-256 of the firmware image of a number as loaded, of the fuse configuration with the power and temperature
settings in force, and the serial number (R337, R406; log entry 8). -/
opaque firmwareMeasure : Nat → BitVec 256
opaque configMeasure : List (BitVec 8) → BitVec 256
opaque deviceSerial : BitVec 64

/-- The side-band MAC of a line that the device has never written (R409; log entry 4). -/
opaque staleMac : Nat → BitVec 32

/-- The scheduler's choice of a home core at a step (R262; log entry 10). -/
opaque pickCore : Nat → Nat

/-- Which hart of the run set takes over the slot of one that yields (R271; log entry 10). -/
opaque pickHart : Nat → Nat

/-- Which task of the window a pop takes (R285; log entry 10). -/
opaque pickTask : Nat → Nat

/-- By how much the elements of a scatter or of a vector atomic are rotated before they perform in turn
(R213, R236; log entry 10). -/
opaque pickOrder : Nat → Nat

/-- Does a `wfe` return although no event has occurred (R380; log entry 10)? -/
opaque wfeReturns : Nat → Bool

/-- Which of several failing shard descriptors the trap value names (R178; log entry 10). -/
opaque pickShard : Nat → Nat

/-- A byte that the device reads from memory where none is populated, or from an agent whose answer
the spec does not give (log entry 11). -/
opaque openByte : Nat → Nat → BitVec 8

/-- Does the host answer an engine's read at a step (R396; log entry 11)? -/
opaque hostAnswers : Nat → Bool

/-- Do the bytes at a place of memory make a slot table that nothing names (R348; log entry 65)? -/
opaque holdsTable : Nat → Nat → Bool

/-- A counter value that the management interface reports (R338, R397; log entry 12). -/
opaque counterValue : Nat → BitVec 64

/-- The slice, of the 192 of a compute die or the 768 of the device, that holds a line (log entry 18). -/
opaque sliceOf : Nat → Nat

/-- The compute die whose worklist unit holds a queued task, by the step and its place in the queue (log
entry 18). -/
opaque dieOfTask : Nat → Nat → Nat

/-- The CRC-64 of a data flit over its data bits and its sequence number; the spec gives no polynomial (R391; log
entry 98). -/
opaque crc64 : BitVec 512 → BitVec 10 → BitVec 64

/-- The contents of a data flit; the spec gives no packet format (log entry 18). -/
opaque flitData : Nat → BitVec 512

/-- The unit index of an error report where the spec does not say which unit (log entry 18). -/
opaque unitOf : Nat → Nat

end Sys2Proof.Config
end

