-- ==== Sys2Proof/Machine/Crypto.lean ====
section
/-! DEFINITION. The cryptographic algorithms that spec/20 names by their standards: AES-256 (FIPS 197),
GMAC and GCM (SP 800-38D), AES Key Wrap (SP 800-38F), SHA-256 and the curve P-256 with ECDSA
verification and ECDH. Their definitions are those of the standards, not of the spec (PRESUMED, log
entry 13). Byte strings are lists of bytes in the order of the standards. -/

namespace Sys2Proof.Machine.Crypto

/-! ### Byte strings and numbers -/

/-- Number of a byte string, first byte most significant. -/
def beNat (bs : List Byte) : Nat := bs.foldl (fun n b => n * 256 + b.toNat) 0

/-- The n-byte string of a number, most significant byte first. -/
def beBytes : Nat → Nat → List Byte
  | 0, _ => []
  | n + 1, v => BitVec.ofNat 8 (v / 256 ^ n) :: beBytes n v

/-- The n-byte string of a number, least significant byte first (R5). -/
def leBytes : Nat → Nat → List Byte
  | 0, _ => []
  | n + 1, v => BitVec.ofNat 8 v :: leBytes n (v / 256)

/-- Number of a byte string, first byte least significant (R5). -/
def leNat : List Byte → Nat
  | [] => 0
  | b :: t => b.toNat + 256 * leNat t

def xorBytes (a b : List Byte) : List Byte := List.zipWith (· ^^^ ·) a b

/-! ### AES-256 -/

def sbox : List Byte :=
  [0x63, 0x7c, 0x77, 0x7b, 0xf2, 0x6b, 0x6f, 0xc5, 0x30, 0x01, 0x67, 0x2b, 0xfe, 0xd7, 0xab, 0x76] ++
  [0xca, 0x82, 0xc9, 0x7d, 0xfa, 0x59, 0x47, 0xf0, 0xad, 0xd4, 0xa2, 0xaf, 0x9c, 0xa4, 0x72, 0xc0] ++
  [0xb7, 0xfd, 0x93, 0x26, 0x36, 0x3f, 0xf7, 0xcc, 0x34, 0xa5, 0xe5, 0xf1, 0x71, 0xd8, 0x31, 0x15] ++
  [0x04, 0xc7, 0x23, 0xc3, 0x18, 0x96, 0x05, 0x9a, 0x07, 0x12, 0x80, 0xe2, 0xeb, 0x27, 0xb2, 0x75] ++
  [0x09, 0x83, 0x2c, 0x1a, 0x1b, 0x6e, 0x5a, 0xa0, 0x52, 0x3b, 0xd6, 0xb3, 0x29, 0xe3, 0x2f, 0x84] ++
  [0x53, 0xd1, 0x00, 0xed, 0x20, 0xfc, 0xb1, 0x5b, 0x6a, 0xcb, 0xbe, 0x39, 0x4a, 0x4c, 0x58, 0xcf] ++
  [0xd0, 0xef, 0xaa, 0xfb, 0x43, 0x4d, 0x33, 0x85, 0x45, 0xf9, 0x02, 0x7f, 0x50, 0x3c, 0x9f, 0xa8] ++
  [0x51, 0xa3, 0x40, 0x8f, 0x92, 0x9d, 0x38, 0xf5, 0xbc, 0xb6, 0xda, 0x21, 0x10, 0xff, 0xf3, 0xd2] ++
  [0xcd, 0x0c, 0x13, 0xec, 0x5f, 0x97, 0x44, 0x17, 0xc4, 0xa7, 0x7e, 0x3d, 0x64, 0x5d, 0x19, 0x73] ++
  [0x60, 0x81, 0x4f, 0xdc, 0x22, 0x2a, 0x90, 0x88, 0x46, 0xee, 0xb8, 0x14, 0xde, 0x5e, 0x0b, 0xdb] ++
  [0xe0, 0x32, 0x3a, 0x0a, 0x49, 0x06, 0x24, 0x5c, 0xc2, 0xd3, 0xac, 0x62, 0x91, 0x95, 0xe4, 0x79] ++
  [0xe7, 0xc8, 0x37, 0x6d, 0x8d, 0xd5, 0x4e, 0xa9, 0x6c, 0x56, 0xf4, 0xea, 0x65, 0x7a, 0xae, 0x08] ++
  [0xba, 0x78, 0x25, 0x2e, 0x1c, 0xa6, 0xb4, 0xc6, 0xe8, 0xdd, 0x74, 0x1f, 0x4b, 0xbd, 0x8b, 0x8a] ++
  [0x70, 0x3e, 0xb5, 0x66, 0x48, 0x03, 0xf6, 0x0e, 0x61, 0x35, 0x57, 0xb9, 0x86, 0xc1, 0x1d, 0x9e] ++
  [0xe1, 0xf8, 0x98, 0x11, 0x69, 0xd9, 0x8e, 0x94, 0x9b, 0x1e, 0x87, 0xe9, 0xce, 0x55, 0x28, 0xdf] ++
  [0x8c, 0xa1, 0x89, 0x0d, 0xbf, 0xe6, 0x42, 0x68, 0x41, 0x99, 0x2d, 0x0f, 0xb0, 0x54, 0xbb, 0x16]

def subByte (b : Byte) : Byte := sbox.getD b.toNat 0
def invSubByte (b : Byte) : Byte := BitVec.ofNat 8 (sbox.idxOf b)

def xtime (b : Byte) : Byte := (b <<< 1) ^^^ (if b.msb then 0x1b else 0)

/-- Product in GF(2^8). -/
def gmul (a b : Byte) : Byte :=
  let step (acc : Byte × Byte) (i : Nat) : Byte × Byte :=
    (if b.getLsbD i then acc.1 ^^^ acc.2 else acc.1, xtime acc.2)
  ((List.range 8).foldl step (0, a)).1

def rotWord : List Byte → List Byte
  | a :: t => t ++ [a]
  | [] => []

/-- The expanded key, newest word first: `n` more words, the next being word number `i`. -/
def expandKey : Nat → Nat → Byte → List (List Byte) → List (List Byte)
  | 0, _, _, ws => ws
  | n + 1, i, rcon, ws =>
    let prev := ws.getD 0 []
    let old := ws.getD 7 []
    let t :=
      if i % 8 = 0 then xorBytes ((rotWord prev).map subByte) [rcon, 0, 0, 0]
      else if i % 8 = 4 then prev.map subByte
      else prev
    expandKey n (i + 1) (if i % 8 = 0 then xtime rcon else rcon) (xorBytes old t :: ws)

def chunks (k : Nat) : Nat → List Byte → List (List Byte)
  | 0, _ => []
  | n + 1, l => l.take k :: chunks k n (l.drop k)

/-- The fifteen round keys of a 256-bit key, each 16 bytes. -/
def roundKeys (key : BitVec 256) : List (List Byte) :=
  let ws := (expandKey 52 8 1 (chunks 4 8 (beBytes 32 key.toNat)).reverse).reverse
  chunks 16 15 ws.flatten

def shiftIdx : List Nat := [0, 5, 10, 15, 4, 9, 14, 3, 8, 13, 2, 7, 12, 1, 6, 11]
def invShiftIdx : List Nat := [0, 13, 10, 7, 4, 1, 14, 11, 8, 5, 2, 15, 12, 9, 6, 3]
def permute (idx : List Nat) (s : List Byte) : List Byte := idx.map fun i => s.getD i 0

def mixWith (c : List Byte) (col : List Byte) : List Byte :=
  (List.range 4).map fun r =>
    (List.range 4).foldl (fun acc k => acc ^^^ gmul (c.getD ((k + 4 - r) % 4) 0) (col.getD k 0)) 0

def mixColumns (s : List Byte) : List Byte := ((chunks 4 4 s).map (mixWith [2, 3, 1, 1])).flatten
def invMixColumns (s : List Byte) : List Byte := ((chunks 4 4 s).map (mixWith [14, 11, 13, 9])).flatten

/-- The cipher on one 16-byte block. -/
def aesEncrypt (key : BitVec 256) (blk : List Byte) : List Byte :=
  let ks := roundKeys key
  let s0 := xorBytes blk (ks.getD 0 [])
  let s13 := (List.range 13).foldl
    (fun s r => xorBytes (mixColumns (permute shiftIdx (s.map subByte))) (ks.getD (r + 1) [])) s0
  xorBytes (permute shiftIdx (s13.map subByte)) (ks.getD 14 [])

/-- The inverse cipher on one block. -/
def aesDecrypt (key : BitVec 256) (blk : List Byte) : List Byte :=
  let ks := roundKeys key
  let s0 := xorBytes blk (ks.getD 14 [])
  let s1 := (List.range 13).foldl
    (fun s r => invMixColumns
      (xorBytes ((permute invShiftIdx s).map invSubByte) (ks.getD (13 - r) []))) s0
  xorBytes ((permute invShiftIdx s1).map invSubByte) (ks.getD 0 [])

/-! ### GHASH, GMAC, GCM -/

/-- Product of GCM's field; bit 127 of the word is the first bit. -/
def ghashMul (x y : BitVec 128) : BitVec 128 :=
  let step (acc : BitVec 128 × BitVec 128) (i : Nat) : BitVec 128 × BitVec 128 :=
    (if x.getLsbD (127 - i) then acc.1 ^^^ acc.2 else acc.1,
     (acc.2 >>> 1) ^^^ (if acc.2.getLsbD 0 then 0xE1000000000000000000000000000000 else 0))
  ((List.range 128).foldl step (0, y)).1

/-- The blocks of a byte string, the last padded with zeros. -/
def blocks (bs : List Byte) : List (BitVec 128) :=
  let n := (bs.length + 15) / 16
  (chunks 16 n bs).map fun c => BitVec.ofNat 128 (beNat (c ++ List.replicate (16 - c.length) 0))

/-- GHASH over additional data and ciphertext. -/
def ghash (h : BitVec 128) (aad ct : List Byte) : BitVec 128 :=
  let len := BitVec.ofNat 128 (aad.length * 8 * 2 ^ 64 + ct.length * 8)
  (blocks aad ++ blocks ct ++ [len]).foldl (fun y b => ghashMul (y ^^^ b) h) 0

def aesBlock (key : BitVec 256) (n : Nat) : Nat := beNat (aesEncrypt key (beBytes 16 n))

/-- The 16-byte tag of GCM for a 12-byte IV. -/
def gcmTag (key : BitVec 256) (iv aad ct : List Byte) : List Byte :=
  let h := BitVec.ofNat 128 (aesBlock key 0)
  let j0 := beNat iv * 2 ^ 32 + 1
  beBytes 16 ((ghash h aad ct) ^^^ BitVec.ofNat 128 (aesBlock key j0)).toNat

/-- The key stream of GCM from counter 2 on, `n` blocks. -/
def gcmStream (key : BitVec 256) (iv : List Byte) (n : Nat) : List Byte :=
  ((List.range n).map fun i => aesEncrypt key (iv ++ beBytes 4 (i + 2))).flatten

/-- Ciphertext and tag. -/
def gcmSeal (key : BitVec 256) (iv pt : List Byte) : List Byte :=
  let ct := xorBytes pt (gcmStream key iv ((pt.length + 15) / 16))
  ct ++ gcmTag key iv [] ct

/-! ### AES Key Wrap -/

/-- One pass of unwrapping: A and the registers, for step t down to 1. -/
def unwrapSteps (kek : BitVec 256) : Nat → Nat → List Byte × List (List Byte) → List Byte × List (List Byte)
  | 0, _, st => st
  | t + 1, n, (a, rs) =>
    let i := t % n
    let b := aesDecrypt kek (beBytes 8 (beNat a ^^^ (t + 1)) ++ rs.getD i [])
    unwrapSteps kek t n (b.take 8, rs.set i (b.drop 8))

/-- The unwrapped key, when the integrity value is right. -/
def keyUnwrap (kek : BitVec 256) (c : List Byte) : Option (List Byte) :=
  let n := c.length / 8 - 1
  let (a, rs) := unwrapSteps kek (6 * n) n (c.take 8, chunks 8 n (c.drop 8))
  if a = List.replicate 8 0xA6 then some rs.flatten else none

/-! ### SHA-256 -/

def shaK : List (BitVec 32) :=
  [0x428a2f98, 0x71374491, 0xb5c0fbcf, 0xe9b5dba5, 0x3956c25b, 0x59f111f1, 0x923f82a4, 0xab1c5ed5] ++
  [0xd807aa98, 0x12835b01, 0x243185be, 0x550c7dc3, 0x72be5d74, 0x80deb1fe, 0x9bdc06a7, 0xc19bf174] ++
  [0xe49b69c1, 0xefbe4786, 0x0fc19dc6, 0x240ca1cc, 0x2de92c6f, 0x4a7484aa, 0x5cb0a9dc, 0x76f988da] ++
  [0x983e5152, 0xa831c66d, 0xb00327c8, 0xbf597fc7, 0xc6e00bf3, 0xd5a79147, 0x06ca6351, 0x14292967] ++
  [0x27b70a85, 0x2e1b2138, 0x4d2c6dfc, 0x53380d13, 0x650a7354, 0x766a0abb, 0x81c2c92e, 0x92722c85] ++
  [0xa2bfe8a1, 0xa81a664b, 0xc24b8b70, 0xc76c51a3, 0xd192e819, 0xd6990624, 0xf40e3585, 0x106aa070] ++
  [0x19a4c116, 0x1e376c08, 0x2748774c, 0x34b0bcb5, 0x391c0cb3, 0x4ed8aa4a, 0x5b9cca4f, 0x682e6ff3] ++
  [0x748f82ee, 0x78a5636f, 0x84c87814, 0x8cc70208, 0x90befffa, 0xa4506ceb, 0xbef9a3f7, 0xc67178f2]

def shaInit : List (BitVec 32) :=
  [0x6a09e667, 0xbb67ae85, 0x3c6ef372, 0xa54ff53a, 0x510e527f, 0x9b05688c, 0x1f83d9ab, 0x5be0cd19]

def rotr (x : BitVec 32) (n : Nat) : BitVec 32 := (x >>> n) ||| (x <<< (32 - n))

/-- The message schedule, newest word first. -/
def shaSchedule : Nat → List (BitVec 32) → List (BitVec 32)
  | 0, w => w
  | n + 1, w =>
    let g (i : Nat) : BitVec 32 := w.getD (i - 1) 0
    let s0 := rotr (g 15) 7 ^^^ rotr (g 15) 18 ^^^ (g 15 >>> 3)
    let s1 := rotr (g 2) 17 ^^^ rotr (g 2) 19 ^^^ (g 2 >>> 10)
    shaSchedule n ((g 16 + s0 + g 7 + s1) :: w)

def shaRound (v : List (BitVec 32)) (kw : BitVec 32 × BitVec 32) : List (BitVec 32) :=
  match v with
  | [a, b, c, d, e, f, g, h] =>
    let s1 := rotr e 6 ^^^ rotr e 11 ^^^ rotr e 25
    let ch := (e &&& f) ^^^ (~~~e &&& g)
    let t1 := h + s1 + ch + kw.1 + kw.2
    let s0 := rotr a 2 ^^^ rotr a 13 ^^^ rotr a 22
    let mj := (a &&& b) ^^^ (a &&& c) ^^^ (b &&& c)
    [t1 + s0 + mj, a, b, c, d + t1, e, f, g]
  | _ => v

def shaBlock (hs : List (BitVec 32)) (blk : List Byte) : List (BitVec 32) :=
  let ws := (chunks 4 16 blk).map fun c => BitVec.ofNat 32 (beNat c)
  let sched := (shaSchedule 48 ws.reverse).reverse
  List.zipWith (· + ·) hs ((List.zip shaK sched).foldl shaRound hs)

/-- SHA-256 of a byte string, as a 256-bit number. -/
def sha256 (m : List Byte) : BitVec 256 :=
  let n := m.length
  let padded := m ++ [0x80] ++ List.replicate ((119 - n % 64) % 64) 0 ++ beBytes 8 (n * 8)
  let hs := (chunks 64 (padded.length / 64) padded).foldl shaBlock shaInit
  BitVec.ofNat 256 (hs.foldl (fun a h => a * 2 ^ 32 + h.toNat) 0)

def shaBytes (m : List Byte) : List Byte := beBytes 32 (sha256 m).toNat

/-! ### P-256 -/

def p256 : Nat := 2 ^ 256 - 2 ^ 224 + 2 ^ 192 + 2 ^ 96 - 1
def pOrder : Nat := 0xffffffff00000000ffffffffffffffffbce6faada7179e84f3b9cac2fc632551
def pB : Nat := 0x5ac635d8aa3a93e7b3ebbd55769886bc651d06b0cc53b0f63bce3c3e27d2604b
def pGx : Nat := 0x6b17d1f2e12c4247f8bce6e563a440f277037d812deb33a0f4a13945d898c296
def pGy : Nat := 0x4fe342e2fe1a7f9b8ee7eb4a7c0f9e162bce33576b315ececbb6406837bf51f5

/-- Power modulo m, `n` bits of the exponent from the top. -/
def powMod (m b e : Nat) : Nat → Nat
  | 0 => 1 % m
  | n + 1 =>
    let r := powMod m b (e / 2) n
    let r2 := r * r % m
    if e % 2 = 1 then r2 * b % m else r2

/-- Inverse modulo a prime. -/
def invMod (m a : Nat) : Nat := powMod m (a % m) (m - 2) 256

/-- A point of the curve; none is the point at infinity. -/
abbrev Point := Option (Nat × Nat)

def onCurve : Point → Bool
  | none => false
  | some (x, y) => x < p256 && y < p256 && y * y % p256 = (x * x * x + (p256 - 3) * x + pB) % p256

def pointAdd : Point → Point → Point
  | none, q => q
  | q, none => q
  | some (x1, y1), some (x2, y2) =>
    if x1 = x2 ∧ (y1 + y2) % p256 = 0 then none
    else
      let l := if x1 = x2 then (3 * x1 * x1 + p256 - 3) * invMod p256 (2 * y1) % p256
               else (y2 + p256 - y1) * invMod p256 (x2 + p256 - x1) % p256
      let x3 := (l * l + 2 * p256 - x1 - x2) % p256
      some (x3, (l * (x1 + p256 - x3) + p256 - y1) % p256)

/-- Scalar multiple, `n` bits of the scalar. -/
def pointMul (k : Nat) (q : Point) : Nat → Point
  | 0 => none
  | n + 1 =>
    let r := pointMul (k / 2) q n
    let r2 := pointAdd r r
    if k % 2 = 1 then pointAdd r2 q else r2

def pointOf (xy : List Byte) : Point := some (beNat (xy.take 32), beNat (xy.drop 32))

def pointBytes : Point → List Byte
  | none => List.replicate 64 0
  | some (x, y) => beBytes 32 x ++ beBytes 32 y

/-- ECDSA verification of (r, s), 64 bytes, over a digest. -/
def ecdsaVerify (pub sig : List Byte) (digest : BitVec 256) : Bool :=
  let r := beNat (sig.take 32)
  let s := beNat (sig.drop 32)
  if r = 0 ∨ pOrder ≤ r ∨ s = 0 ∨ pOrder ≤ s ∨ ¬ onCurve (pointOf pub) then false
  else
    let w := invMod pOrder s
    let u1 := digest.toNat * w % pOrder
    let u2 := r * w % pOrder
    match pointAdd (pointMul u1 (some (pGx, pGy)) 256) (pointMul u2 (pointOf pub) 256) with
    | none => false
    | some (x, _) => x % pOrder = r

/-- A private scalar or a nonce from 256 bits: 1 up to the order less 1. -/
def scalarOf (d : BitVec 256) : Nat := d.toNat % (pOrder - 1) + 1

/-- The ECDSA signature (r, s), 64 bytes, over a digest, with a nonce. -/
def ecdsaSign (d nonce digest : BitVec 256) : List Byte :=
  let k := scalarOf nonce
  let r := match pointMul k (some (pGx, pGy)) 256 with
    | some (x, _) => x % pOrder
    | none => 0
  beBytes 32 r ++ beBytes 32 (invMod pOrder k * (digest.toNat + r * scalarOf d) % pOrder)

/-- Public half of a private scalar, reduced to 1 up to the order less 1. -/
def publicKey (d : BitVec 256) : List Byte :=
  pointBytes (pointMul (scalarOf d) (some (pGx, pGy)) 256)

/-- The ECDH shared X coordinate, when the other half is a point of the curve. -/
def ecdh (d : BitVec 256) (pub : List Byte) : Option (List Byte) :=
  if onCurve (pointOf pub) then
    match pointMul (scalarOf d) (pointOf pub) 256 with
    | some (x, _) => some (beBytes 32 x)
    | none => none
  else none

end Sys2Proof.Machine.Crypto
end

