-- ==== Sys2Proof/Machine/Bytes.lean ====
section
/-! DEFINITION. Sparse bytes: reading and writing memory and register images in their canonical form
(positions strictly rising, no byte 0), the remapping of an image when the share changes (R267), and
small list tables keyed by a number. -/

namespace Sys2Proof.Machine


/-- The byte at a position; 0 where none is listed. -/
def Bytes.get : Bytes → Nat → Byte
  | [], _ => 0
  | (k, v) :: t, a => if k = a then v else if a < k then 0 else Bytes.get t a

/-- The listed cells of a block of bytes from position `a`. -/
def Bytes.cells : Nat → List Byte → Bytes
  | _, [] => []
  | a, b :: t => if b = 0 then Bytes.cells (a + 1) t else (a, b) :: Bytes.cells (a + 1) t

/-- Writes a block of bytes from position `a`. -/
def Bytes.write (m : Bytes) (a : Nat) (bs : List Byte) : Bytes :=
  m.takeWhile (fun c => decide (c.1 < a)) ++ Bytes.cells a bs ++
    m.dropWhile (fun c => decide (c.1 < a + bs.length))

/-- Writes zero to `n` positions from `a`. -/
def Bytes.clear (m : Bytes) (a n : Nat) : Bytes :=
  m.takeWhile (fun c => decide (c.1 < a)) ++ m.dropWhile (fun c => decide (c.1 < a + n))

/-- `n` bytes from position `a`. -/
def Bytes.read (m : Bytes) (a n : Nat) : List Byte :=
  let t := m.dropWhile fun c => decide (c.1 < a)
  (List.range n).map fun i => Bytes.get t (a + i)

/-- `n` bytes from position `a`, 64 at a time. -/
def Bytes.readLong : Nat → Bytes → Nat → Nat → List Byte
  | 0, _, _, _ => []
  | k + 1, m, a, n =>
    let t := m.dropWhile fun c => decide (c.1 < a)
    Bytes.read t a (min n 64) ++ Bytes.readLong k t (a + 64) (n - 64)

/-- The cells from position `lo` up to `hi`, as positions from 0. -/
def Bytes.slice (m : Bytes) (lo hi : Nat) : Bytes :=
  ((m.dropWhile fun c => decide (c.1 < lo)).takeWhile fun c => decide (c.1 < hi)).map
    fun c => (c.1 - lo, c.2)

/-- The first `n` positions. -/
def Bytes.keep (m : Bytes) (n : Nat) : Bytes := m.takeWhile fun c => decide (c.1 < n)

/-- Number of `n` bytes from position `a`, little-endian (R5). -/
def Bytes.num (m : Bytes) (a n : Nat) : Nat := Crypto.leNat (Bytes.read m a n)

/-- Writes the low `n` bytes of a number, little-endian (R5). -/
def Bytes.setNum (m : Bytes) (a n v : Nat) : Bytes := Bytes.write m a (Crypto.leBytes n v)


/-- The canonical form: positions strictly rising, no byte 0. -/
def Memory.wf : Bytes → Bool
  | [] => true
  | [c] => c.2 != 0
  | c :: d :: t => c.2 != 0 && decide (c.1 < d.1) && Memory.wf (d :: t)

/-! ### Small tables -/

/-- The value of a key in a table with a value for keys not listed. -/
def tblGet {α : Type} (dflt : α) : List (Nat × α) → Nat → α
  | [], _ => dflt
  | (k, v) :: t, a => if k = a then v else tblGet dflt t a

/-- Sets the value of a key. -/
def tblSet {α : Type} : List (Nat × α) → Nat → α → List (Nat × α)
  | [], a, v => [(a, v)]
  | (k, w) :: t, a, v => if k = a then (a, v) :: t else (k, w) :: tblSet t a v

/-- Replaces the elements that satisfy `p`. -/
def mapIf {α : Type} (p : α → Bool) (f : α → α) (l : List α) : List α :=
  l.map fun x => if p x then f x else x

/-- Replaces the first element that satisfies `p`. -/
def mapFirst {α : Type} (p : α → Bool) (f : α → α) : List α → List α
  | [] => []
  | x :: t => if p x then f x :: t else x :: mapFirst p f t

/-- Removes the first element that satisfies `p`. -/
def dropFirst {α : Type} (p : α → Bool) : List α → List α
  | [] => []
  | x :: t => if p x then t else x :: dropFirst p t

/-- Cuts `n` bytes at address `a` at the multiples of 64: address and length of each part. -/
def lineParts : Nat → Nat → Nat → List (Nat × Nat)
  | 0, _, _ => []
  | fuel + 1, a, n =>
    if n = 0 then []
    else
      let k := min n (64 - a % 64)
      (a, k) :: lineParts fuel (a + k) (n - k)

/-- The line parts of an access. -/
def linesOf (a n : Nat) : List (Nat × Nat) := lineParts (n / 64 + 2) a n

/-- Least x such that `p x`, among lo to lo + n − 1. -/
def leastFrom (p : Nat → Bool) : Nat → Nat → Option Nat
  | _, 0 => none
  | lo, n + 1 => if p lo then some lo else leastFrom p (lo + 1) n

end Sys2Proof.Machine
end

