-- ==== Sys2Proof/Machine/Regs.lean ====
section
/-! DEFINITION. Registers and the parts of the state by name: x registers with their tags (R22, R112,
R113), the last-destination record (R35), harts by HARTID.SER, gangs by handle, worlds by number, and
the events and reports that the device posts (R362, R390). -/

namespace Sys2Proof.Machine

/-! ### One hart -/

/-- The value of an x register; x0 reads 0 (R112). -/
def Hart.xr (h : Hart) (r : BitVec 5) : Word := if r = 0 then 0 else h.x[r.toNat]

/-- The provenance tag of an x register; x0 has none (R113). -/
def Hart.tagOf (h : Hart) (r : BitVec 5) : Option (BitVec 16) :=
  if r = 0 then none else h.tag[r.toNat]

/-- An x register as an operand: value and tag. -/
def Hart.operand (h : Hart) (r : BitVec 5) : Operand := ⟨h.xr r, h.tagOf r⟩

/-- Writes an x register with a tag; a write to x0 is discarded (R22). -/
def Hart.setX (h : Hart) (r : BitVec 5) (v : Word) (t : Option (BitVec 16)) : Hart :=
  if r = 0 then h
  else { h with x := h.x.set r.toNat v r.isLt, tag := h.tag.set r.toNat t r.isLt }

/-- The instruction at pc is complete: pc moves to the next word, the record names what was written,
no loan and no half is pending (R32, R35). -/
def Hart.retire (h : Hart) (r : Option (BitVec 5)) : Hart :=
  { h with pc := h.pc + 4, last := r, loan := none, half := false, pairHeld := false, capture := none }

/-- Does every check treat the hart as one of world 0 (R363)? -/
def Hart.world0 (h : Hart) : Bool := h.wid = 0 || h.hm

/-- Bytes of a vector register image for a share (R133): n × 16 KiB. -/
def imageBytes (share : BitVec 3) : Nat := share.toNat * 16384

/-- C of the hart (R133). -/
def Hart.c (h : Hart) : Nat := imageBytes h.share

/-- VCP (R357). -/
def Hart.vcp (h : Hart) : Word :=
  match h.queue with
  | e :: _ => e.addr
  | [] => h.pc

/-- PFXSTATE as a trap entry or switch-out writes it (R33, R36, R37). K, DC and VDC without a loan, and LDN without a
valid record, are 0: the spec gives them no value (log entry 131). -/
def Hart.pfxNow (h : Hart) : Word :=
  let loan : Nat := match h.loan with
    | some l => 2 ^ 31 + l.k.toNat * 2 ^ 26 + (if l.dc then 2 ^ 25 else 0) + l.vdc.toNat * 2 ^ 20
    | none => 0
  let rec' : Nat := match h.last with
    | some r => 2 ^ 13 + r.toNat * 2 ^ 8
    | none => 0
  BitVec.ofNat 64 (loan + (if h.half then 2 ^ 30 else 0) + rec')

/-- Is a PFXSTATE value invalid (R37)? -/
def pfxBad (p : Word) : Bool :=
  (p.getLsbD 31 && p.getLsbD 30) || (p.getLsbD 31 && decide (11 < (p.toNat / 2 ^ 26) % 16))

/-- Loads the pending loan, half and record from a PFXSTATE value (R37). -/
def Hart.loadPfx (h : Hart) (p : Word) : Hart :=
  { h with
    loan := if p.getLsbD 31 then
      some ⟨BitVec.ofNat 4 (p.toNat / 2 ^ 26), p.getLsbD 25, BitVec.ofNat 5 (p.toNat / 2 ^ 20)⟩ else none
    half := p.getLsbD 30
    pairHeld := false
    last := if p.getLsbD 13 then some (BitVec.ofNat 5 (p.toNat / 2 ^ 8)) else none }

/-- HARTID (R260). -/
def Hart.hartid (h : Hart) : Word :=
  BitVec.ofNat 64 (h.dev.toNat * 2 ^ 24 + h.core.toNat * 2 ^ 16 + h.ser.toNat)

/-- A hart that exists and has not ended. -/
def Hart.alive (h : Hart) : Bool :=
  match h.life with
  | .absent | .exited | .quarantined => false
  | .running | .descheduled | .held => true

/-- Sets bit `n` of predicate `k` (R133); a bit at or beyond 8 × C is discarded (R179). -/
def Hart.setBit (h : Hart) (k : BitVec 4) (n : Nat) (v : Bool) : Hart :=
  if hk : k.toNat < 12 then
    if n < 8 * h.c then
      let img := h.kreg[k.toNat]
      let b := Bytes.get img (n / 8)
      let m : Byte := 1#8 <<< (n % 8)
      let b' := if v then b ||| m else b &&& ~~~m
      { h with kreg := h.kreg.set k.toNat (Bytes.write img (n / 8) [b']) hk, event := h.event || v }
    else h
  else h

/-- Bit `n` of predicate `k`. -/
def Hart.kbit (h : Hart) (k : Nat) (n : Nat) : Bool :=
  if hk : k < 12 then (Bytes.get h.kreg[k] (n / 8)).getLsbD (n % 8) else false

/-- Is the hart on a front-end slot, with its predicates in lanes? -/
def Hart.takesSets (h : Hart) : Bool := h.life == .running && (h.vloc == 1 || h.share == 0)

/-- Applies a completion set: at once to a hart that takes it, held for another (R179). -/
def Hart.complete (h : Hart) (k : BitVec 4) (n : Nat) : Hart :=
  if h.takesSets then h.setBit k n true else { h with sets := h.sets ++ [(k, n)] }

/-- XRSTAT after the end of a reduction (R278). -/
def Hart.endOne (h : Hart) (last : BitVec 2) : Hart := { h with xrSeq := h.xrSeq + 1, xrLast := last }

/-- The end of a reduction in XRSTAT: at once where the hart runs; kept where its context lies saved, since the return
to it brings XRSTAT back as it was saved (R278; log entry 30). -/
def Hart.endRed (h : Hart) (last : BitVec 2) : Hart :=
  let g := if h.life == .running then h.endOne last else h
  if h.life == .running && !h.hm then g else { g with ends := g.ends ++ [last] }

/-- Applies what was held, XRSTAT before the completion bits, before the hart's first instruction (R179,
R278). -/
def Hart.applySets (h : Hart) : Hart :=
  let h := if h.life == .running && !h.hm then { h.ends.foldl Hart.endOne h with ends := [] } else h
  if h.takesSets then { h.sets.foldl (fun g s => g.setBit s.1 s.2 true) h with sets := [] } else h

/-! ### The acting hart -/

/-- Applies a function to the acting hart. -/
def State.mapHart (s : State) (f : Hart → Hart) : State := { s with hart := f s.hart }

def State.setX (s : State) (r : BitVec 5) (v : Word) (t : Option (BitVec 16)) : State :=
  s.mapHart fun h => h.setX r v t

def State.retire (s : State) (r : Option (BitVec 5)) : State := s.mapHart fun h => h.retire r

/-- Writes one x register untagged and completes the instruction; the record names the register. -/
def State.writeBack (s : State) (r : BitVec 5) (v : Word) (t : Option (BitVec 16) := none) : State :=
  (s.setX r v t).retire (some r)

/-- The instruction at pc waits: pc stands, and the instruction restarts (R356). -/
def State.waitFor (s : State) (w : Wait) : State := s.mapHart fun h => { h with wait := some w }

/-! ### Harts by HARTID.SER -/

/-- The hart of a serial number that exists and has not ended. -/
def State.findHart (s : State) (ser : BitVec 16) : Option Hart :=
  if s.hart.alive && s.hart.ser == ser then some s.hart
  else s.others.find? fun h => h.alive && h.ser == ser

/-- Makes the hart the acting one; its place among the others goes to the former one. No two harts
share a serial number. -/
def State.focus (s : State) (ser : BitVec 16) : State :=
  if s.hart.ser == ser then s
  else
    match s.others.find? fun h => h.ser == ser with
    | none => s
    | some h => { s with hart := h, others := mapFirst (fun g => g.ser == ser) (fun _ => s.hart) s.others }

/-- Does something as another hart, and returns to the acting one. -/
def State.asHart (s : State) (ser : BitVec 16) (f : State → State) : State :=
  match s.findHart ser with
  | none => s
  | some _ => (f (s.focus ser)).focus s.hart.ser

/-- Changes the record of a hart wherever it stands. -/
def State.updHart (s : State) (ser : BitVec 16) (f : Hart → Hart) : State :=
  if s.hart.alive && s.hart.ser == ser then s.mapHart f
  else { s with others := mapFirst (fun h => h.alive && h.ser == ser) f s.others }

/-- The next hart on a front-end slot acts; the former one goes to the end. -/
def State.rotate (s : State) : State :=
  match s.others.find? fun h => h.life == .running with
  | none => s
  | some h => { s with
      hart := h
      others := (dropFirst (fun g => g.life == .running) s.others) ++ [s.hart] }

/-- Every hart. -/
def State.harts (s : State) : List Hart := s.hart :: s.others

/-- Sets the completion bit of a hart, if it lives. -/
def State.completeBit (s : State) (ser : BitVec 16) (k : BitVec 4) (n : Nat) : State :=
  s.updHart ser fun h => h.complete k n

/-! ### Gangs and worlds -/

def State.gang (s : State) (gid : BitVec 32) : Option Gang := s.gangs.find? fun g => g.gid == gid

def State.updGang (s : State) (gid : BitVec 32) (f : Gang → Gang) : State :=
  { s with gangs := mapFirst (fun g => g.gid == gid) f s.gangs }

/-- Does the hart run in a domain slice of its gang, which it does for the whole slice (R273)? -/
def State.midSlice (s : State) (h : Hart) : Bool := h.life == .running && (s.gang h.gid).any Gang.inSlice

def State.world (s : State) (w : BitVec 10) : Option World := s.worlds.find? fun x => x.wid == w

def State.updWorld (s : State) (w : BitVec 10) (f : World → World) : State :=
  { s with worlds := mapFirst (fun x => x.wid == w) f s.worlds }

/-- Is the world open (R324)? World 0 always exists. -/
def State.worldOpen (s : State) (w : BitVec 10) : Bool := w == 0 || (s.world w).isSome

/-! ### Events (R362) and error reports (R390) -/

/-- Posts an asynchronous event; a full queue drops it and remembers the loss. -/
def State.post (s : State) (cause : Nat) (detail val : Word) : State :=
  if s.events.length < 1024 then
    { s with events := s.events ++ [⟨0x8000000000000000 ||| BitVec.ofNat 64 cause, detail, val⟩] }
  else { s with eventLost := true }

/-- The detail word of an error report. -/
def reportDetail (cls kind unit count : Nat) : Word :=
  BitVec.ofNat 64 (cls * 2 ^ 56 + kind * 2 ^ 48 + unit % 65536 * 2 ^ 32 + min count (2 ^ 32 - 1))

/-- Posts the error-report event, cause 0x8007, and keeps it in the error log. -/
def State.report (s : State) (cls kind unit count : Nat) (addr : Word) : State :=
  let d := reportDetail cls kind unit count
  let t := s.post 0x8007 d addr
  { t with errorLog := t.errorLog ++ [⟨0x8000000000008007, d, addr⟩] }

def State.emit (s : State) (o : Outbound) : State := { s with outbox := s.outbox ++ [o] }

end Sys2Proof.Machine
end

