-- ==== Sys2Proof/Machine/Access.lean ====
section
/-! DEFINITION. Access to memory: the address map (R200, R201), slot words and the probe (R303 to R311),
pads and line checks (R330 to R333), scratchpad regions (R326), forwarding entries (R318), and the
reading and writing of bytes through a slot. Physical places are numbers: a local or remote address is
its own number, byte o of the scratchpad of core c is 2^52 + c × 2^20 + o. -/

namespace Sys2Proof.Machine

/-! ### The address map (R200) -/

/-- The region of a physical address. -/
inductive Region where
  | hbm (stack off : Nat)
  | tier (port off : Nat)
  | scratch (off : Nat)
  | window (off : Nat)
  | remote (dev off : Nat)
  | host (bus : Nat)
  | nowhere
deriving DecidableEq, Repr

def scratchBase : Nat := 3 * 2 ^ 48
def windowBase : Nat := 3 * 2 ^ 48 + 2 ^ 47

def regionOf (a : Nat) : Region :=
  if a < 12 * 2 ^ 37 then .hbm (a / 2 ^ 37) (a % 2 ^ 37)
  else if a < 2 ^ 44 then .nowhere
  else if a < 2 ^ 45 then .tier ((a - 2 ^ 44) / 2 ^ 41) ((a - 2 ^ 44) % 2 ^ 41)
  else if a < scratchBase then .nowhere
  else if a < scratchBase + 2 ^ 20 then .scratch (a - scratchBase)
  else if a < windowBase then .nowhere
  else if a < windowBase + 2 ^ 26 then .window (a - windowBase)
  else if a < 2 ^ 50 then .nowhere
  else if a < 2 ^ 51 then .remote ((a - 2 ^ 50) / 2 ^ 42) ((a - 2 ^ 50) % 2 ^ 42)
  else if a < 2 ^ 52 then .host (a - 2 ^ 51)
  else .nowhere

/-- A remote address of the device itself is the local address it names (R201). -/
def State.canon (s : State) (a : Nat) : Nat :=
  match regionOf a with
  | .remote d o => if d = s.devIndex.toNat then o else a
  | _ => a

/-- Bytes in the populated part of a stack (R200). -/
def stackBytes : Nat := 96 * 2 ^ 30

/-- Has the die of a stack left service (R388)? -/
def State.dieDown (s : State) (d : Nat) : Bool := s.retired.contains (11, BitVec.ofNat 16 d)

/-- The listed offsets of the device window (R200), as a start and a length. -/
def windowRanges : List (Nat × Nat) :=
  (List.range 12).map (fun k => (k * 2 ^ 22, 0x300000)) ++
  [(0x3000000, 96), (0x3010000, 2048), (0x3011000, 8), (0x3100000, 0x102060),
   (0x3220000, 8), (0x3220100, 8), (0x3400000, 128)]

def windowListed (off n : Nat) : Bool :=
  windowRanges.any (fun r => decide (r.1 ≤ off ∧ off + n ≤ r.1 + r.2)) ||
  (decide (0x3300000 ≤ off ∧ off < 0x3308000) &&
    (let o := (off - 0x3300000) % 0x1000
     decide (o < 0x800 ∧ o % 32 + n ≤ 24)))

/-- The first unit of a root-port entry's extent, in units of 256 MiB of the tier. -/
def State.extentAt (s : State) (i : Nat) : Extent := s.extents.toList.getD i .free

/-- Is the 256 MiB unit of the tier in an extent whose state is one of those given? -/
def State.unitIn (s : State) (states : List (BitVec 3)) (u : Nat) : Bool :=
  s.extents.toList.zipIdx.any fun (e, i) =>
    states.contains e.state &&
      (let lo := i / 64 * 8192 + e.off.toNat
       decide (lo ≤ u ∧ u < lo + e.units.toNat))

/-- The units of the tier that `n` bytes at `a` touch. -/
def unitsOf (a n : Nat) : List Nat :=
  let u := (a - 2 ^ 44) / 2 ^ 28
  (List.range ((a + n - 1 - 2 ^ 44) / 2 ^ 28 + 1 - u)).map fun i => u + i

/-- Are `n` bytes at `a` all populated (R200, R201)? -/
def State.populated (s : State) (a n : Nat) : Bool :=
  let a := s.canon a
  match regionOf a with
  | .hbm st off => decide (off + n ≤ stackBytes) && !s.dieDown (st / 3)
  | .tier _ _ => decide (a + n ≤ 2 ^ 45) && (unitsOf a n).all (s.unitIn [2, 3, 4])
  | .scratch off => decide (off + n ≤ 2 ^ 20)
  | .window off => windowListed off n
  | .remote d off =>
    s.domain.contains (BitVec.ofNat 8 d) && decide (d < 144) && s.link.up &&
      decide (off < 12 * 2 ^ 37 ∧ off % 2 ^ 37 + n ≤ stackBytes)
  | .host bus => s.hostUp && decide (bus + n ≤ 2 ^ 51)
  | .nowhere => false

/-- Does the access reach an extent that is being released or withdrawn (R400, R401)? -/
def State.gone (s : State) (a n : Nat) : Bool :=
  match regionOf (s.canon a) with
  | .tier _ _ => (unitsOf (s.canon a) n).any (s.unitIn [3, 4])
  | _ => false

/-- The number of a physical place, for an agent of a core. -/
def State.key (s : State) (core : BitVec 8) (a : Nat) : Nat :=
  let a := s.canon a
  match regionOf a with
  | .scratch off => 2 ^ 52 + core.toNat * 2 ^ 20 + off
  | _ => a

/-- Do bytes there lie encrypted when the slot has a key (R330)? -/
def encryptable (key : Nat) : Bool :=
  match regionOf key with
  | .hbm _ _ | .tier _ _ | .remote _ _ => true
  | _ => false

/-! ### Forwarding (R318) -/

/-- The forwarding entry in the given mode whose OLD extent holds the place. -/
def State.fwdAt (s : State) (mode : BitVec 2) (key : Nat) : Option (Nat × FwdEntry) :=
  (s.fwd.toList.zipIdx.find? fun (e, _) =>
    e.mode == mode && decide (e.old.toNat * 64 ≤ key ∧ key < e.old.toNat * 64 + e.len.toNat)).map
    fun (e, i) => (i, e)

/-- The place where an access is performed: at NEW while an entry forwards. -/
def State.forward (s : State) (key : Nat) : Nat :=
  match s.fwdAt 2 key with
  | some (_, e) => e.new.toNat * 64 + (key - e.old.toNat * 64)
  | none => key

/-- Does a held write overlap these places? -/
def State.heldOver (s : State) (key n : Nat) : Bool :=
  s.held.any fun h => decide (h.wr.key < key + n ∧ key < h.wr.key + h.wr.data.length)

/-! ### Slot words (R70, R304 to R307) -/

def SlotWord.ofNat (w : Nat) : SlotWord where
  keyid := BitVec.ofNat 10 (w / 2 ^ 118)
  version := BitVec.ofNat 12 (w / 2 ^ 106)
  gen := BitVec.ofNat 8 (w / 2 ^ 98)
  attr := BitVec.ofNat 2 (w / 2 ^ 96)
  len := BitVec.ofNat 32 (w / 2 ^ 64)
  chain := BitVec.ofNat 12 (w / 2 ^ 52)
  base := BitVec.ofNat 46 (w / 2 ^ 6)
  state := BitVec.ofNat 2 (w / 2 ^ 4)
  rights := BitVec.ofNat 4 w

def SlotWord.toNat (w : SlotWord) : Nat :=
  w.keyid.toNat * 2 ^ 118 + w.version.toNat * 2 ^ 106 + w.gen.toNat * 2 ^ 98 + w.attr.toNat * 2 ^ 96 +
    w.len.toNat * 2 ^ 64 + w.chain.toNat * 2 ^ 52 + w.base.toNat * 2 ^ 6 + w.state.toNat * 2 ^ 4 +
    w.rights.toNat

/-- First byte of the slot's extent. -/
def SlotWord.lo (w : SlotWord) : Nat := w.base.toNat * 64

/-- The table address that a SLOTTAB, LTAB or HTAB value names (R305). -/
def tabAddr (w : Word) : Nat := w.toNat / 64 % 2 ^ 46 * 64

/-- 16 bytes of a table as a core uses them: as its slot cache holds them, else as memory holds them, at NEW
while an entry forwards (R304, R307, R318). -/
def State.tableUnit (s : State) (core : BitVec 8) (a : Nat) : List Byte :=
  match s.slotCache.find? fun e => e.core == core && e.addr == a with
  | some e => e.data
  | none => Bytes.read s.mem (s.forward a) 16

/-- The line of 16 bytes of a table that a core would read from memory, where that line has an error that cannot be
corrected (R385). -/
def State.unitLost (s : State) (core : BitVec 8) (a : Nat) : Option Nat :=
  if s.slotCache.any fun e => e.core == core && e.addr == a then none
  else
    let l := s.forward a / 64 * 64
    if s.lost.contains l then some l else none

/-- A field of the head of a table, as the core of the acting hart uses it (R304). -/
def State.tabField (s : State) (core : BitVec 8) (table o n : Nat) : Nat :=
  Crypto.leNat (((s.tableUnit core (s.canon table)).drop o).take n)

/-- NEXT, LAST and CODE of a table (R304). The 48 reserved bytes of the header are not read: R304 names no fault for
other values there (log entry 128). -/
def State.tabNext (s : State) (table : Nat) : Nat := s.tabField s.hart.core table 0 8
def State.tabLast (s : State) (table : Nat) : Nat := s.tabField s.hart.core table 8 4
def State.tabCode (s : State) (table : Nat) : BitVec 32 := BitVec.ofNat 32 (s.tabField s.hart.core table 12 4)

/-- Slot word `i` of a table as a core uses it: until the `slotsync` after a write of the table, as its slot
cache may still hold it (R307). None when `i` exceeds LAST (R311). -/
def State.slotWordAt (s : State) (core : BitVec 8) (table i : Nat) : Option SlotWord :=
  if s.tabField core table 8 4 < i then none
  else some (.ofNat (Crypto.leNat (s.tableUnit core (s.canon table + 64 + 16 * i))))

/-- The line that keeps a core from reading slot word `i` of a table, if any: that of the header, or that of the word. -/
def State.slotLost (s : State) (core : BitVec 8) (table i : Nat) : Option Nat :=
  match s.unitLost core (s.canon table) with
  | some l => some l
  | none =>
    if s.tabField core table 8 4 < i then none else s.unitLost core (s.canon table + 64 + 16 * i)

/-- Slot word `i` of a table, for the core of the acting hart. -/
def State.slotWord (s : State) (table i : Nat) : Option SlotWord := s.slotWordAt s.hart.core table i

/-! ### Keys (R328, R329) -/

/-- Does version v of world k exist, and is it not pending (R349)? -/
def State.versionReady (s : State) (k : BitVec 10) (v : BitVec 12) : Bool :=
  match s.world k with
  | none => false
  | some w => w.versions.any fun x => x.ver == v && !x.pending

/-- K(k, v), while the version exists. -/
def State.aesKey (s : State) (k : BitVec 10) (v : BitVec 12) : Option (BitVec 256) :=
  match s.world k with
  | none => none
  | some w => (w.versions.find? fun x => x.ver == v).map fun x => Config.drawnKey x.draw

/-- Has the exchange of the world's keys with a device completed (R342)? -/
def State.exchanged (s : State) (w : BitVec 10) (dev : Nat) : Bool :=
  match s.world w with
  | none => false
  | some x => x.devs.contains (BitVec.ofNat 8 dev) && x.ready.contains (BitVec.ofNat 8 dev)

/-- The context of the acting hart; in handler mode it is one of world 0 with HTAB (R363). -/
def State.ctx (s : State) : Ctx where
  ser := s.hart.ser
  world := if s.hart.hm then 0 else s.hart.wid
  core := s.hart.core
  table := tabAddr (if s.hart.hm then s.htab else s.hart.slottab)
  view := none
  op := 64 * s.tick

/-- KeyAvailable (R309, R329, R377), with the further conditions of a remote address. -/
def State.keyAvailable (s : State) (c : Ctx) (sw : SlotWord) (a : Nat) : Bool :=
  let k := sw.keyid
  let base := match c.view with
    | some w => k == w && sw.version == 0 && s.versionReady k 0
    | none =>
      k == 0 ||
        (c.world != 0 && s.versionReady k sw.version &&
          (k == c.world || (match s.world k with
            | some w => w.grants.contains c.world
            | none => false)))
  let far := match regionOf (s.canon a) with
    | .remote d _ =>
      c.world == 0 || (s.exchanged c.world d && (k == 0 || k == c.world || s.exchanged k d))
    | _ => true
  base && far

/-! ### The probe (R227, R309) -/

/-- One access to check. `need` has the bit order of RIGHTS; `align` is 1 where no alignment is asked
for; `plain` is false for a vector access or an access of an engine; `hostOk` is false for an atomic
that no PCIe operation carries (R235); `raw` is the exception of R310. -/
structure Access where
  idx    : Nat
  a      : Nat
  n      : Nat
  align  : Nat
  need   : BitVec 4
  plain  : Bool
  hostOk : Bool
  raw    : Bool
deriving DecidableEq, Repr

def needRead : BitVec 4 := 1
def needWrite : BitVec 4 := 2
def needAtomic : BitVec 4 := 7
def needExec : BitVec 4 := 8

/-- Does R206 allow the access to the device window? -/
def windowAllowed (c : Ctx) (acc : Access) (off : Nat) : Bool :=
  c.world == 0 && acc.plain && acc.need != needAtomic &&
    (if off < 0x3000000 then acc.n == 2 else acc.n == 8)

/-- What a probe answers where a line of the slot table cannot be read: 16 more than the line's address, which no detail
reaches (R335, R385). -/
def lostTable (line : Nat) : Nat := 16 + line

/-- Probe (R309): the slot word, or the number of the first failing detail in the order of R227. -/
def State.probe (s : State) (c : Ctx) (acc : Access) : Except Nat SlotRef :=
  if acc.a % acc.align ≠ 0 then .error 1
  else if !s.populated acc.a acc.n then .error 2
  else
    match s.slotLost c.core c.table acc.idx with
    | some l => .error (lostTable l)
    | none =>
    match s.slotWordAt c.core c.table acc.idx with
    | none => .error 8
    | some sw =>
      if acc.a < sw.lo || sw.lo + sw.len.toNat < acc.a + acc.n then .error 3
      else if acc.need &&& sw.rights ≠ acc.need then .error 4
      else if !acc.hostOk && (match regionOf (s.canon acc.a) with | .host _ => true | _ => false) then .error 4
      else if sw.state = 1 || s.gone acc.a acc.n then .error 5
      else if !acc.raw && !s.keyAvailable c sw acc.a then .error 6
      else
        match regionOf (s.canon acc.a) with
        | .window off => if windowAllowed c acc off then .ok ⟨acc.idx, sw⟩ else .error 7
        | _ => .ok ⟨acc.idx, sw⟩

/-- The slot index of an access through a register (R308, R311). -/
def slotIndex (t : Option (BitVec 16)) : Nat :=
  match t with
  | some i => i.toNat
  | none => 0

/-! ### Pads and line checks (R331, R333) -/

/-- CB(u) (R331). -/
def counterBlock (k : BitVec 10) (v : BitVec 12) (u : Nat) : List Byte :=
  Crypto.leBytes 2 k.toNat ++ Crypto.leBytes 2 v.toNat ++ Crypto.leBytes 8 u ++ [0xFF, 0xFF, 0xFF, 0xFF]

/-- `n` bytes of pad from slot offset `o`. -/
def padBytes (key : BitVec 256) (k : BitVec 10) (v : BitVec 12) (o n : Nat) : List Byte :=
  let b := o / 16
  let m := (o + n + 15) / 16 - b
  (((List.range m).flatMap fun i => Crypto.aesEncrypt key (counterBlock k v (b + i))).drop (o % 16)).take n

/-- The line MAC over 64 stored bytes; `ctr` is o >> 6 (R333). -/
def lineMac (key : BitVec 256) (k : BitVec 10) (v : BitVec 12) (ctr : Nat) (stored : List Byte) : BitVec 32 :=
  let iv := Crypto.leBytes 2 k.toNat ++ Crypto.leBytes 2 v.toNat ++ Crypto.leBytes 8 ctr
  BitVec.ofNat 32 (Crypto.leNat ((Crypto.gcmTag key iv stored []).take 4))

/-- The stored MAC of a line; a free value where the device has written none (R409). -/
def State.macOf (s : State) (line : Nat) : BitVec 32 :=
  match s.macs.find? fun p => p.1 == line with
  | some (_, m) => m
  | none => Config.staleMac line

/-- Does the line at `line`, slot offset `o` (a multiple of 64), pass its check? -/
def State.lineOk (s : State) (key : BitVec 256) (k : BitVec 10) (v : BitVec 12) (line o : Nat) : Bool :=
  s.macOf line == lineMac key k v (o / 64) (Bytes.read s.mem line 64)

/-! ### Scratchpad regions (R326) -/

/-- Region number of a scratchpad place: core × 256 + region. -/
def regionNo (key : Nat) : Nat := (key - 2 ^ 52) / 4096

/-- Gives one region to a world, clearing it when the owner changes; what an instruction cache holds of it goes too. -/
def State.claim (s : State) (w : BitVec 10) (r : Nat) : State :=
  if tblGet 0 s.owners r = w then s
  else
    { s with
      mem := Bytes.clear s.mem (2 ^ 52 + r * 4096) 4096
      icache := s.icache.filter fun e => decide (e.line < 2 ^ 52) || regionNo e.line != r
      owners := tblSet s.owners r w }

/-- Claims every region that `n` bytes at a scratchpad place touch; other places need none. -/
def State.claimAll (s : State) (w : BitVec 10) (key n : Nat) : State :=
  if key < 2 ^ 52 then s
  else
    let r := regionNo key
    (List.range (regionNo (key + n - 1) + 1 - r)).foldl (fun t i => t.claim w (r + i)) s

/-! ### Reading and writing bytes -/

/-- The stored bytes of a part of a line in plaintext; none when the line fails its check, or has an error that cannot
be corrected (R335). -/
def State.readPart (s : State) (k : BitVec 10) (v : BitVec 12) (key o n : Nat) : Option (List Byte) :=
  let p := s.forward key
  if s.lost.contains (p / 64 * 64) then none
  else if k == 0 || !encryptable p then some (Bytes.read s.mem p n)
  else
    match s.aesKey k v with
    | none => none
    | some x =>
      if s.lineOk x k v (p / 64 * 64) (o / 64 * 64) then
        some (Crypto.xorBytes (Bytes.read s.mem p n) (padBytes x k v o n))
      else none

/-- `n` bytes at address `a` through a slot word. The slot offset of the first byte counts from the
slot's base. None when a line fails its check (R335). -/
def State.readBytes (s : State) (c : Ctx) (sw : SlotWord) (a n : Nat) : Option (List Byte) :=
  (linesOf a n).foldr (fun (b, m) acc =>
    match s.readPart sw.keyid sw.version (s.key c.core b) (b - sw.lo) m, acc with
    | some bs, some t => some (bs ++ t)
    | _, _ => none) (some [])

/-- The unit index of the slice that holds a line (R202, R390). -/
def sliceUnit (line : Nat) : Nat :=
  match regionOf line with
  | .hbm st off => st / 3 * 192 + 64 * (st % 3) + off / 256 % 64
  | _ => Config.sliceOf line % 768

/-- Remembers what memory holds below a line that a slice is about to hold dirty (R386). -/
def State.markDirty (s : State) (line : Nat) (k w : BitVec 10) : State :=
  let add (d : DirtyLine) : DirtyLine := if d.writers.contains w then d else { d with writers := w :: d.writers }
  match regionOf line with
  | .hbm _ _ | .tier _ _ =>
    if s.dirty.any fun d => d.line == line then { s with dirty := mapIf (fun d => d.line == line) add s.dirty }
    else { s with dirty := ⟨line, k, [w], Bytes.read s.mem line 64, s.macOf line⟩ :: s.dirty }
  | _ => s

/-- Writes stored bytes of one line and the line's MAC; the line is then whole again. -/
def State.putLine (s : State) (p : Nat) (stored : List Byte) (mac : BitVec 32) : State :=
  { s with
    mem := Bytes.write s.mem p stored
    lost := s.lost.filter fun l => l != p / 64 * 64
    macs := if p < 2 ^ 52 then tblSet s.macs (p / 64 * 64) mac else s.macs }

/-- Performs a write within one line, at NEW where an entry forwards. None when the line into which it is
merged fails its check (R333, R335); only a line written whole is not filled first (R409). -/
def State.commit (s : State) (w : MemWrite) : Option State :=
  let p := s.forward w.key
  let line := p / 64 * 64
  let t := if w.cached then s.markDirty line w.keyid w.world else s
  let whole := w.whole && w.data.length = 64
  if s.lost.contains line && !whole then none
  else if w.keyid == 0 || !encryptable p then some (t.putLine p w.data 0)
  else
    match s.aesKey w.keyid w.version with
    | none => none
    | some x =>
      if whole || s.lineOk x w.keyid w.version line (w.off / 64 * 64) then
        let stored := Crypto.xorBytes w.data (padBytes x w.keyid w.version w.off w.data.length)
        let all := Bytes.read (Bytes.write s.mem p stored) line 64
        some (t.putLine p stored (lineMac x w.keyid w.version (w.off / 64) all))
      else none

/-- The eight fabric words of a flit: 64 data bits and 8 check bits each (R391; log entry 98 for the layout). -/
def fabricWords (data : BitVec 512) (check : BitVec 64) : List (BitVec 72) :=
  (List.range 8).map fun k => check.extractLsb' (8 * k) 8 ++ data.extractLsb' (64 * k) 64

/-- The fabric words of a data flit, whose check bits are a CRC-64 over the data and the flit's sequence number,
which does not travel (R391). -/
def flitWords (n : BitVec 10) (d : BitVec 512) : List (BitVec 72) := fabricWords d (Config.crc64 d n)

/-- Sends the data flits that wait, while the retry buffer has room and the ready window admits them (R392,
R393). -/
def Link.pump (t : Nat) : Nat → Link → Link × List Outbound
  | 0, l => (l, [])
  | n + 1, l =>
    if !l.up || l.training || l.waiting = 0 || 512 ≤ l.retry.length || 512 ≤ (l.window - l.next).toNat then (l, [])
    else
      let d := Config.flitData (t * 1024 + l.next.toNat)
      let (m, o) := Link.pump t n { l with waiting := l.waiting - 1, next := l.next + 1, retry := l.retry ++ [(l.next, d)] }
      (m, .flit (flitWords l.next d) :: o)

/-- Lets the fabric port send what it may. -/
def State.pump (s : State) : State :=
  let (l, o) := Link.pump s.tick s.link.waiting s.link
  { s with link := l, outbox := s.outbox ++ o }

/-- A write leaves for another device: it is in flight until it performs there, and a data flit carries it over
the port. What one vector instruction writes to one device travels as one packet (R221). While the port is down nothing
leaves (R394). -/
def State.sendPacket (s : State) (st : FabricStream) (dev : BitVec 8) (op : Nat) (w : MemWrite) : State :=
  let mine (p : Packet) : Bool := p.stream == st && p.dev == dev && p.num == op
  let whole := match st with
    | .vector _ => true
    | .scalar _ | .job _ _ | .ticket _ _ | .list _ _ | .peer _ => false
  let ps :=
    if whole && s.packets.any mine then mapFirst mine (fun p => { p with writes := p.writes ++ [w] }) s.packets
    else s.packets ++ [⟨st, dev, op, [w]⟩]
  if !s.link.up then s else ({ s with packets := ps, link := { s.link with waiting := s.link.waiting + 1 } } : State).pump

/-- The forwarding entry that holds a write at a place, for an agent that is not of world 0 (R318). -/
def State.holder? (s : State) (c : Ctx) (key : Nat) : Option Nat :=
  if c.world == 0 then none else (s.fwdAt 1 key).map Prod.fst

/-- A write leaves for the host (R396). What one vector instruction writes there travels as one packet (R221). -/
def State.sendHost (s : State) (st : FabricStream) (num bus : Nat) (bs : List Byte) : State :=
  let mine (o : Outbound) : Bool := match o, st with
    | .hostWrite x n _, .vector _ => x == st && n == num
    | _, _ => false
  let more (o : Outbound) : Outbound := match o with
    | .hostWrite x n ps => .hostWrite x n (ps ++ [(bus, bs)])
    | _ => o
  if s.outbox.any mine then { s with outbox := mapFirst mine more s.outbox }
  else s.emit (.hostWrite st num [(bus, bs)])

/-- Sends a write where its place lies: a forwarding entry may hold it (R318), it travels as a packet to another
device (R221), leaves for the host (R396), or is performed. -/
def State.sendWrite (s : State) (c : Ctx) (st : FabricStream) (w : MemWrite) : Option State :=
  match regionOf w.key with
  | .remote d _ => some (s.sendPacket st (BitVec.ofNat 8 d) c.op w)
  | .host bus => some (s.sendHost st c.op bus w.data)
  | _ =>
    match s.holder? c w.key with
    | some i => some { s with held := s.held ++ [⟨i, st, w, none⟩] }
    | none => s.commit w

/-- Does the stream write a line that it covers whole, with no fill (R409)? -/
def FabricStream.wholeLines : FabricStream → Bool
  | .job _ _ => true
  | .scalar _ | .vector _ | .ticket _ _ | .list _ _ | .peer _ => false

/-- Writes bytes at address `a` through a slot word, line by line. -/
def State.writeBytes (s : State) (c : Ctx) (st : FabricStream) (sw : SlotWord) (a : Nat) (bs : List Byte) :
    Option State :=
  ((linesOf a bs.length).foldl (fun (acc : Option State × List Byte) (p : Nat × Nat) =>
    match acc.1 with
    | none => acc
    | some t =>
      (t.sendWrite c st ⟨s.key c.core p.1, acc.2.take p.2, sw.keyid, sw.version, p.1 - sw.lo,
        c.world, sw.attr.toNat < 2, st.wholeLines⟩, acc.2.drop p.2))
    (some (s.claimAll c.world (s.key c.core a) bs.length), bs)).1

/-- Does the address lie on another device? -/
def State.farDev (s : State) (a : Nat) : Option Nat :=
  match regionOf (s.canon a) with
  | .remote d _ => some d
  | _ => none

/-! ### Page counters (R206) -/

/-- Counts one line moved between a stack and an agent outside its base die; the count that reaches a
non-zero threshold posts the interrupt. -/
def State.countLine (s : State) (line : Nat) : State :=
  match regionOf line with
  | .hbm st off =>
    let p := off / 65536
    let k := st * 2 ^ 21 + p
    let n := tblGet 0 s.pages k
    let n' := if n = 0xFFFF then n else n + 1
    let thr := if h : st < 12 then s.cthr[st] else 0
    let t := { s with pages := tblSet s.pages k n' }
    if n ≠ 0xFFFF ∧ thr ≠ 0 ∧ n' = thr then t.post 0x8001 (BitVec.ofNat 64 (st * 2 ^ 32 + p)) 0 else t
  | _ => s

/-- Counts the lines of an access through a slot whose lines no slice holds, where they are performed: at NEW
while an entry forwards (R205, R318). -/
def State.countAccess (s : State) (sw : SlotWord) (a n : Nat) : State :=
  if sw.attr.toNat < 2 then s
  else (linesOf (s.canon a) n).foldl (fun t p => t.countLine (t.forward p.1 / 64 * 64)) s

/-- Counts the lines of a write likewise; one that a forwarding entry holds is counted when it performs. -/
def State.countWrite (s : State) (c : Ctx) (sw : SlotWord) (a n : Nat) : State :=
  if (s.holder? c (s.key c.core a)).isSome then s else s.countAccess sw a n

/-- The first line of an access that fails its check, as an address. -/
def State.badLine (s : State) (c : Ctx) (sw : SlotWord) (a n : Nat) : Nat :=
  match (linesOf a n).find? fun (b, m) =>
      (s.readPart sw.keyid sw.version (s.key c.core b) (b - sw.lo) m).isNone with
  | some (b, _) => b / 64 * 64
  | none => a / 64 * 64

/-! ### Fetching (R18, R306, R309) -/

/-- The index of the slot that fetches are checked against (R306, R363). -/
def Hart.codeIndex (h : Hart) : Nat := if h.hm then h.hcode.toNat else h.code.toNat

/-- The check of a fetch at an address: the execute right of the code slot alone. A code slot that is no entry
of the table fails every fetch with detail index, whatever the address (R306). -/
def State.fetchProbe (s : State) (a : Nat) : Except Nat SlotRef :=
  if (s.slotLost s.hart.core s.ctx.table s.hart.codeIndex).isNone && (s.slotWord s.ctx.table s.hart.codeIndex).isNone then
    .error 8
  else s.probe s.ctx ⟨s.hart.codeIndex, a, 4, 4, needExec, true, true, false⟩

/-- The slot offset that tells a cached line read under a key from others: it takes part in the pad (R331). -/
def SlotRef.codeOff (r : SlotRef) (a : Nat) : Nat := if r.word.keyid == 0 then 0 else a / 64 * 64 - r.word.lo

/-- The line at an address in the instruction cache of the acting hart's core, read under the slot's key, version and
offset (R21, R327). -/
def State.cachedLine (s : State) (r : SlotRef) (a : Nat) : Option CachedLine :=
  s.icache.find? fun e => e.core == s.hart.core && e.line == s.key s.hart.core a / 64 * 64 &&
    e.keyid == r.word.keyid && e.version == r.word.version && e.off == r.codeOff a

/-- The bytes of the word at an address as a fetch reads them: from the line that the core's instruction cache
holds, or else from memory (R21). None when the line fails its check. -/
def State.readCode (s : State) (r : SlotRef) (a : Nat) : Option (List Byte) :=
  match s.cachedLine r a with
  | some e => some ((e.data.drop (a % 64)).take 4)
  | none => s.readBytes s.ctx r.word a 4

/-- The word at an address as a fetch reads it, when it may be fetched and its line passes. -/
def State.peekWord (s : State) (a : Nat) : Option (BitVec 32) :=
  match s.fetchProbe a with
  | .error _ => none
  | .ok r => (s.readCode r a).map fun bs => BitVec.ofNat 32 (wordOfBytes bs)

end Sys2Proof.Machine
end

