-- ==== Sys2Proof/Machine/Context.lean ====
section
/-! DEFINITION. The context save area (R370, R371): the bytes that a trap entry and a switch-out write,
and the context that an `eret` and a switch-in read back. -/

namespace Sys2Proof.Machine

def csaBytes : Nat := 10496
def csaBodyAt : Nat := 4160
def csaBodyLen : Nat := 6272

/-! ### Writing -/

/-- A pointer entry: value, slot and LOC (R370). -/
structure PtrEntry where
  val  : Word
  slot : BitVec 16
  loc  : Nat
deriving DecidableEq, Repr

def ptrOf (loc : Nat) (v : Word) : Option (BitVec 16) → List PtrEntry
  | some t => [⟨v, t, loc⟩]
  | none => []

/-- The tagged items of a context: registers, captured operands, stream bases. -/
def Hart.pointers (h : Hart) : List PtrEntry :=
  (List.range 32).flatMap (fun i => ptrOf i (h.xr (BitVec.ofNat 5 i)) (h.tagOf (BitVec.ofNat 5 i))) ++
  h.queue.zipIdx.flatMap (fun (e, i) =>
    e.ops.toList.zipIdx.flatMap fun (o, j) => ptrOf (0x100 + 4 * i + j) o.val o.tag) ++
  h.streams.toList.zipIdx.flatMap (fun (q, i) => ptrOf (0x200 + i) q.base.val q.base.tag)

/-- The value where it has no tag, else 0. -/
def untaggedOr0 (o : Operand) : Nat := if o.tag.isSome then 0 else o.val.toNat

def loanBits (l : Option Loan) : Nat :=
  match l with
  | some l => 2 ^ 10 + l.k.toNat * 2 ^ 6 + (if l.dc then 2 ^ 5 else 0) + l.vdc.toNat
  | none => 0

/-- QUEUE[e] (R370). -/
def QEntry.csa (e : QEntry) : List Byte :=
  let le := Crypto.leBytes
  le 8 e.addr.toNat ++ le 4 ((encode e.instr).getD 0).toNat ++ le 2 (loanBits e.loan) ++
    le 1 (if e.tshp.msb then 1 else 0) ++ le 1 e.rm.toNat ++ le 4 e.vl ++ le 4 e.start ++
    le 4 e.vtype.toNat ++ le 4 e.tshp.toNat ++ le 8 e.seed.toNat ++
    e.ops.toList.flatMap fun o => le 8 (untaggedOr0 o)

/-- STREAM[s] (R370). -/
def Stream.csa (q : Stream) : List Byte :=
  let le := Crypto.leBytes
  if q.bound then
    le 8 (untaggedOr0 q.base) ++ le 8 q.stride.toNat ++ le 4 q.extent.toNat ++ le 1 q.et.toNat ++ le 1 1 ++
      le 2 0 ++ le 8 q.pos.toNat
  else List.replicate 32 0

def padTo (n : Nat) (l : List Byte) : List Byte := l.take n ++ List.replicate (n - l.length) 0

/-- START of the oldest queue entry; VSTART as it stands when the queue is empty (R357). -/
def Hart.vstartNow (h : Hart) : Nat :=
  match h.queue with
  | e :: _ => e.start
  | [] => h.vstart.toNat

/-- XRSTAT (R278). -/
def Hart.xrstat (h : Hart) : Nat := h.xrSeq.toNat * 2 ^ 32 + h.xrLast.toNat

/-- Bytes 0 to 4,159: the plaintext part (R370). -/
def Hart.csaHead (h : Hart) : List Byte :=
  let le := Crypto.leBytes
  let ps := h.pointers
  le 2 1 ++ le 2 h.wid.toNat ++ le 1 h.vloc.toNat ++ le 1 h.share.toNat ++ le 1 h.queue.length ++ le 1 0 ++
    le 8 h.pc.toNat ++ le 8 h.vcp.toNat ++ le 2 ps.length ++ le 6 0 ++ le 8 h.slottab.toNat ++
    List.replicate 24 0 ++
    padTo 4096 (ps.flatMap fun p => le 8 p.val.toNat ++ le 2 p.slot.toNat ++ le 2 p.loc ++ le 4 0)

/-- Bytes 4,160 to 10,431 before encryption: the body (R370). -/
def Hart.csaBody (h : Hart) : List Byte :=
  let le := Crypto.leBytes
  ((List.range 32).flatMap fun i => le 8 (untaggedOr0 (h.operand (BitVec.ofNat 5 i)))) ++
    (([h.vl.toNat, h.vtype.toNat, h.vstartNow, h.tshp.toNat, h.fflags.toNat, h.frm.toNat, h.seed.toNat,
      h.pfxNow.toNat, h.wcons.toNat, h.btctl.toNat, h.vlff.toNat, h.xrstat, h.issue.toNat,
      h.arrivals.toNat, 0, 0]).flatMap (le 8)) ++
    h.streams.toList.flatMap Stream.csa ++
    padTo 4096 (h.queue.flatMap QEntry.csa) ++
    padTo 1536 (h.queue.flatMap fun e => e.strides.toList.flatMap fun v => le 8 v.toNat)

/-- The body as it lies in memory: encrypted under K(w, 0) with the counters of R371. -/
def State.csaSeal (s : State) (w : BitVec 10) (csa : Nat) (body : List Byte) : List Byte :=
  if w == 0 then body
  else
    match s.aesKey w 0 with
    | none => body
    | some k => Crypto.xorBytes body (padBytes k w 0 (2 ^ 67 + csa + csaBodyAt) body.length)

/-- The line checks of the stored body (R371). -/
def State.csaMacs (s : State) (w : BitVec 10) (csa : Nat) (stored : List Byte) : List (Nat × BitVec 32) :=
  (List.range (csaBodyLen / 64)).map fun i =>
    let a := csa + csaBodyAt + 64 * i
    (a, match (if w == 0 then none else s.aesKey w 0) with
      | some k => lineMac k w 0 (2 ^ 63 + a / 64) ((stored.drop (64 * i)).take 64)
      | none => 0)

/-- A hart as a stop finds it: the elements that its streams have fetched are discarded (R240), and an instruction that
has completed as a whole before an older one has left the queue (R143, R357; log entry 70). -/
def Hart.atStop (h : Hart) : Hart :=
  { h with
    queue := h.queue.filter fun e => !(e.done && e.start == 0)
    streams := h.streams.map fun q => { q with ready := [], failed := false } }

/-- Writes the context of the acting hart to its CSA; VSTART becomes the START of the instruction that stops
(R137, R357). -/
def State.saveContext (s : State) : State :=
  let h := s.hart.atStop
  let csa := h.csa.toNat
  let stored := s.csaSeal h.wid csa h.csaBody
  { s with
    hart := { h with vstart := BitVec.ofNat 20 h.vstartNow }
    mem := Bytes.write s.mem csa (h.csaHead ++ stored ++ List.replicate 64 0)
    lost := s.lost.filter fun l => !decide (csa ≤ l ∧ l < csa + csaBytes)
    macs := (s.csaMacs h.wid csa stored).foldl (fun t p => tblSet t p.1 p.2)
      ((List.range 65 ++ [163]).foldl (fun t i => tblSet t (csa + 64 * i) 0) s.macs) }

/-! ### Reading -/

/-- Number of `n` bytes at an offset of a byte string. -/
def numAt (bs : List Byte) (o n : Nat) : Nat := Crypto.leNat ((bs.drop o).take n)

def loanOf (b : Nat) : Option Loan :=
  if b / 2 ^ 10 % 2 = 1 then some ⟨BitVec.ofNat 4 (b / 2 ^ 6), b / 2 ^ 5 % 2 = 1, BitVec.ofNat 5 b⟩ else none

/-- The pointer entries of a saved head. -/
def readPointers (head : List Byte) : List PtrEntry :=
  (List.range (min (numAt head 24 2) 256)).map fun i =>
    let o := 64 + 16 * i
    ⟨BitVec.ofNat 64 (numAt head o 8), BitVec.ofNat 16 (numAt head (o + 8) 2), numAt head (o + 10) 2⟩

/-- The item at a LOC: the pointer entry that names it, or the plain value. -/
def itemAt (ps : List PtrEntry) (loc plain : Nat) : Operand :=
  match ps.find? fun p => p.loc == loc with
  | some p => ⟨p.val, some p.slot⟩
  | none => ⟨BitVec.ofNat 64 plain, none⟩

/-- Entry `i` of a saved queue; none when its word is no V, W or M instruction: such an entry is dropped (log entry
129). -/
def readEntry (ps : List PtrEntry) (body : List Byte) (stamp i : Nat) : Option QEntry :=
  let o := 640 + 64 * i
  let m := 4736 + 24 * i
  match decodeQueueWord (numAt body (o + 8) 4) with
  | none => none
  | some instr =>
    match classOf instr with
    | none => none
    | some cls =>
      some
        { addr := BitVec.ofNat 64 (numAt body o 8)
          instr := instr
          cls := cls
          loan := loanOf (numAt body (o + 12) 2)
          vl := numAt body (o + 16) 4
          start := numAt body (o + 20) 4
          vtype := BitVec.ofNat 64 (numAt body (o + 24) 4)
          rm := BitVec.ofNat 3 (numAt body (o + 15) 1)
          tshp := BitVec.ofNat 64 (numAt body (o + 28) 4 + numAt body (o + 14) 1 % 2 * 2 ^ 63)
          seed := BitVec.ofNat 64 (numAt body (o + 32) 8)
          ops := Vector.ofFn fun j : Fin 3 =>
            itemAt ps (0x100 + 4 * i + j.val) (numAt body (o + 40 + 8 * j.val) 8)
          strides := Vector.ofFn fun j : Fin 3 => BitVec.ofNat 64 (numAt body (m + 8 * j.val) 8)
          mask := none
          probed := none
          limit := 0
          asked := false
          answer := none
          early := []
          convoy := 0
          done := false
          aged := false
          resumed := decide (numAt body (o + 20) 4 ≠ 0)
          stamp := stamp + i }

def readStream (wid : BitVec 10) (ps : List PtrEntry) (body : List Byte) (i : Nat) : Stream :=
  let o := 384 + 32 * i
  if numAt body (o + 21) 1 = 1 then
    { bound := true
      wid := wid
      base := itemAt ps (0x200 + i) (numAt body o 8)
      stride := BitVec.ofNat 64 (numAt body (o + 8) 8)
      extent := BitVec.ofNat 32 (numAt body (o + 16) 4)
      et := BitVec.ofNat 8 (numAt body (o + 20) 1)
      pos := BitVec.ofNat 64 (numAt body (o + 24) 8)
      ready := []
      failed := false
      slot := none }
  else .unbound

/-- The convoys of a refilled queue, counted from `n`: its first entry begins one (R374), and so does every later one
whose c bit says so, or whose class the convoy holds already, since its own convoy was begun by an instruction with no
entry (R28, R29). With the entries come the classes in the convoy that is left open, and its number. -/
def numberConvoys (n : Nat) (q : List QEntry) : List QEntry × Option (List Class) × Nat :=
  q.foldl (fun (l, open', k) e =>
    match open' with
    | none => (l ++ [{ e with convoy := k + 1 }], some [e.cls], k + 1)
    | some cs =>
      if opensConvoy e.instr || cs.contains e.cls then (l ++ [{ e with convoy := k + 1 }], some [e.cls], k + 1)
      else (l ++ [{ e with convoy := k }], some (e.cls :: cs), k)) ([], none, n)

/-- VTYPE, TSHP, WCONS and BTCTL as a restore brings them back: a reserved field reads zero, and so does every field below
VILL or TILL (R6, R134, R160). -/
def restoredType (mask v : Word) : Word := if v.msb then vill else v &&& mask

/-- The scalar context of a CSA, with its queue image; vector state, identity and share stay. CVER, WID and the zero
fields are not looked at (log entry 129). -/
def Hart.loadContext (h : Hart) (head body : List Byte) (stamp : Nat) : Hart :=
  let ps := readPointers head
  let cr (i : Nat) : Nat := numAt body (256 + 8 * i) 8
  let items := Vector.ofFn fun i : Fin 32 =>
    if i.val = 0 then Operand.zero else itemAt ps i.val (numAt body (8 * i.val) 8)
  let (q, open', n) := numberConvoys h.convoys ((List.range (min (numAt head 6 1) 64)).filterMap (readEntry ps body stamp))
  { h with
    x := items.map Operand.val
    tag := items.map Operand.tag
    pc := BitVec.ofNat 64 (numAt head 8 8)
    slottab := BitVec.ofNat 64 (numAt head 32 8 / 64 % 2 ^ 46 * 64)
    vl := BitVec.ofNat 20 (cr 0)
    vtype := restoredType 0xFF07E3FF (BitVec.ofNat 64 (cr 1))
    vstart := BitVec.ofNat 20 (cr 2)
    tshp := restoredType 0xFFFFFF7F (BitVec.ofNat 64 (cr 3))
    fflags := BitVec.ofNat 7 (cr 4)
    frm := BitVec.ofNat 3 (cr 5)
    seed := BitVec.ofNat 64 (cr 6)
    wcons := BitVec.ofNat 64 (cr 8) &&& 0xF000FFFFFFFFFFFF
    btctl := BitVec.ofNat 64 (cr 9) &&& 0xFFFFFFFFFFFFFF1F
    vlff := BitVec.ofNat 20 (cr 10)
    xrSeq := BitVec.ofNat 32 (cr 11 / 2 ^ 32)
    xrLast := BitVec.ofNat 2 (cr 11)
    issue := BitVec.ofNat 63 (cr 12)
    arrivals := BitVec.ofNat 16 (cr 13)
    streams := Vector.ofFn fun i : Fin 8 => readStream h.wid ps body i.val
    queue := q
    convoy := open'
    convoys := n
    wait := none
    answer := none
    pairHeld := false
    capture := none }

/-- PFXSTATE as a CSA holds it. -/
def savedPfx (body : List Byte) : Word := BitVec.ofNat 64 (numAt body (256 + 56) 8)

/-- The head and the decrypted body of the CSA at an address, for a context of world `w`. -/
def State.readCsa (s : State) (w : BitVec 10) (csa : Nat) : List Byte × List Byte :=
  let all := Bytes.readLong 164 s.mem csa csaBytes
  (all.take csaBodyAt, s.csaSeal w csa ((all.drop csaBodyAt).take csaBodyLen))

end Sys2Proof.Machine
end

