-- ==== Sys2Proof/Machine/Loss.lean ====
section
/-! DEFINITION. What ends a hart's work: lane groups (R375), leaving a gang (R279), quarantine and its record
(R351, R352), and the work that meets a line that fails its check (R335); and packets of the fabric (R221). -/

namespace Sys2Proof.Machine

/-- What a meaning answers. -/
abbrev Out := Host.Outcome State Fault Refusal

/-! ### Plain writes of the device -/

/-- Writes bytes at a physical place as the device's own plaintext, with the line MACs zero. A line with an error that
cannot be corrected is good again once it is written whole (R385). -/
def State.rawWrite (s : State) (a : Nat) (bs : List Byte) : State :=
  { s with
    mem := Bytes.write s.mem a bs
    lost := s.lost.filter fun l => !decide (a ≤ l ∧ l + 64 ≤ a + bs.length)
    macs := (linesOf a bs.length).foldl (fun t p => tblSet t (p.1 / 64 * 64) 0) s.macs }

/-! ### Lane groups (R375) -/

/-- The other context of a core whose vector state a lane group holds. -/
def State.holder (s : State) (core : BitVec 8) (ser : BitVec 16) (g : BitVec 2) : Option Hart :=
  s.harts.find? fun h => h.alive && h.core == core && h.ser != ser && h.vloc == 1 && h.groups.contains g

/-- Lane groups of a core in service (R389). -/
def State.goodGroups (s : State) (core : BitVec 8) : List (BitVec 2) :=
  ([0, 1, 2, 3] : List (BitVec 2)).filter fun g =>
    !s.retired.contains (1, BitVec.ofNat 16 (core.toNat * 4 + g.toNat))

/-- The lane groups that the scheduler assigns: those that nothing holds first (log entry 14). -/
def State.assign (s : State) (core : BitVec 8) (ser : BitVec 16) (n : Nat) : List (BitVec 2) :=
  let gs := s.goodGroups core
  let free := gs.filter fun g => (s.holder core ser g).isNone
  let busy := gs.filter fun g => (s.holder core ser g).isSome
  (free ++ busy).take n

/-- The CSA of the holder of the lowest of the lane groups that another context holds, or 0. -/
def State.blocker (s : State) (core : BitVec 8) (ser : BitVec 16) (gs : List (BitVec 2)) : Word :=
  match ([0, 1, 2, 3] : List (BitVec 2)).find? fun g => gs.contains g && (s.holder core ser g).isSome with
  | some g => match s.holder core ser g with
    | some h => h.csa.zeroExtend 64
    | none => 0
  | none => 0

/-- Vector state all zero in the given lane groups (R325, R375). -/
def Hart.freshVector (h : Hart) (gs : List (BitVec 2)) : Hart :=
  { h with
    vreg := Vector.replicate 32 .blank
    kreg := Vector.replicate 12 []
    tile := Vector.replicate 8 []
    vloc := 1
    groups := gs }

/-- Brings the acting hart's vector state into lanes, or gives the detail of the vector-switch trap
(R375). -/
def State.bringLanes (s : State) : Except Word State :=
  let h := s.hart
  if h.share = 0 || h.vloc = 1 then .ok s
  else
    let gs := s.assign h.core h.ser h.share.toNat
    if h.vloc = 0 && gs.length = h.share.toNat && gs.all fun g => (s.holder h.core h.ser g).isNone then
      .ok (s.mapHart fun h => (h.freshVector gs).applySets)
    else .error (s.blocker h.core h.ser gs)

/-! ### Leaving a gang (R279, R291, R351) -/

/-- F after a change of the queued tasks and tokens (R282). -/
def Worklist.refloor (l : Worklist) : Worklist :=
  match (l.tasks.map Task.level ++ l.tokens.map Token.level) with
  | [] => l
  | a :: t => { l with floor := t.foldl min a }

/-- Retires every token that a hart of a device popped and that is outstanding (R291, R299). -/
def Worklist.abandon (l : Worklist) (dev : BitVec 8) (ser : BitVec 16) : Worklist :=
  let mine (t : Token) : Bool := t.dev == dev && t.ser == ser
  let n := (l.tokens.filter mine).length
  if n = 0 then l
  else
    ({ l with
      tokens := l.tokens.filter fun t => !mine t
      retired := l.retired + BitVec.ofNat 64 n
      aband := true } : Worklist).refloor

/-- What names a member's hart among the tokens of its device: its serial number here, its rank elsewhere. -/
def Member.owner (m : Member) : BitVec 16 := m.ser.getD (BitVec.ofNat 16 m.rank)

/-- The member of a gang that is a given hart. -/
def Gang.memberOf (g : Gang) (ser : BitVec 16) : Option Member := g.members.find? fun m => m.ser == some ser

/-- A member exits, or its context is quarantined: it counts as an exit for every barrier and for every
reduction it has not joined (R274, R277, R279). -/
def Gang.leaveAs (g : Gang) (m : Member) (bad : Bool) : Gang :=
  { g with
    members := mapIf (fun x => x.rank == m.rank) (fun x => { x with live := false }) g.members
    lists := g.lists.map fun l => l.abandon m.dev m.owner
    cancel := some (match g.cancel with
      | some k => min k m.joins
      | none => m.joins)
    broken := g.broken || bad }

/-- The member that is a hart of this device leaves. -/
def Gang.leave (g : Gang) (ser : BitVec 16) (bad : Bool) : Gang :=
  match g.memberOf ser with
  | none => g
  | some m => g.leaveAs m bad

/-- Is a gang launched and not yet retired? -/
def Gang.alive (g : Gang) : Bool :=
  match g.phase with
  | .waiting | .placed | .started => true
  | .retired _ | .consumed => false

/-- When the last live member has left, started or not, the gang retires: the gang-retired event, and the CSAs
of its members go back to the free list (R279, R351, R372). Reductions that every live member has joined are
still carried out (R279). -/
def State.finishGang (s : State) (gid : BitVec 32) : State :=
  match s.gang gid with
  | none => s
  | some g =>
    if g.alive && !g.members.any Member.live then
      let csas := (s.harts.filter fun h => h.gid == gid && h.life == .exited).map Hart.csa
      let t := s.updGang gid fun g =>
        { g with phase := .retired (if g.broken then 1 else 0), lists := [] }
      { t with csafree := t.csafree ++ csas }.post 0x8003
        (BitVec.ofNat 64 (g.chain.toNat * 2 ^ 32 + gid.toNat)) 0
    else s

/-- Takes the hart's lanes, queue and waits away when it ends. -/
def Hart.stop (h : Hart) (l : Life) : Hart :=
  { h with
    life := l
    queue := []
    convoy := none
    streams := Vector.replicate 8 .unbound
    vloc := 0
    groups := []
    wait := none
    answer := none
    badLine := none
    loan := none
    half := false
    pairHeld := false
    capture := none
    holdReq := false
    preempt := false }

/-! ### Quarantine (R351, R352) -/

/-- The hart of this device for which a fabric stream acts. -/
def FabricStream.ser : FabricStream → Option (BitVec 16)
  | .scalar ser | .vector ser | .ticket ser _ | .job ser _ => some ser
  | .list _ _ | .peer _ => none

/-- The saved state of the acting hart in the layout of R370: what it saved when it is in handler
mode or does not run, else what it would save now. -/
def State.savedState (s : State) : List Byte :=
  let h := s.hart.atStop
  if h.hm || h.life != .running then
    let (head, body) := s.readCsa h.wid h.csa.toNat
    head ++ body ++ List.replicate 64 0
  else h.csaHead ++ h.csaBody ++ List.replicate 64 0

/-- The header of a quarantine record, bytes 0 to 95. -/
def recordHead (h : Hart) (cause : Nat) (detail time : Word) (seq : Nat) (body : List Byte) : List Byte :=
  let le := Crypto.leBytes
  le 2 1 ++ le 2 cause ++ le 2 h.wid.toNat ++ le 2 0 ++ le 4 h.gid.toNat ++ le 4 h.hartid.toNat ++
    le 8 (if h.hm then h.tpc else h.pc).toNat ++ le 8 detail.toNat ++ le 8 time.toNat ++ le 8 seq ++
    le 8 body.length ++ Crypto.shaBytes body ++ le 8 0

/-- The signature of the device attestation key over bytes, with a fresh nonce (R328, R337, R352). -/
def State.attest (s : State) (bs : List Byte) : List Byte :=
  Crypto.ecdsaSign Config.deviceKey (Config.signNonce s.tick) (Crypto.sha256 bs)

/-- Writes the record of the acting hart into its world's quarantine area (R352). -/
def State.writeRecord (s : State) (cause : Nat) (detail : Word) : State :=
  let h := s.hart
  match s.world h.wid with
  | none => s
  | some w =>
    let seq := w.qseq.toNat + 1
    let room := w.qlen - w.qpos
    let s := s.updWorld h.wid fun w => { w with qseq := w.qseq + 1 }
    if room < 160 then
      (s.updWorld h.wid fun w => { w with qlost := w.qlost + 1 }).post 0x8005 (h.wid.zeroExtend 64) 0
    else
      let iv := Crypto.leBytes 8 seq ++ [0, 0, 0, 0]
      let sealed' := match s.aesKey h.wid 0 with
        | some k => Crypto.gcmSeal k iv s.savedState
        | none => []
      let fits := decide (160 + sealed'.length ≤ room)
      let body := if fits then sealed' else []
      let head := recordHead h cause detail (Config.time s.tick) seq body
      let t := (s.rawWrite (w.qaddr + w.qpos) (head ++ s.attest head ++ body)).updWorld h.wid fun w =>
        { w with qpos := (w.qpos + 160 + body.length + 63) / 64 * 64 }
      if fits then t else t.post 0x8005 (h.wid.zeroExtend 64) 0

/-- Quarantines the context of the acting hart: it never runs again, its tickets and transfers and the atomics
that a slice holds for it are cancelled, its tokens retire, its record is written and its CSA returned (R180, R279, R351, R372). -/
def State.quarantine (s : State) (cause : Nat) (detail : Word) : State :=
  let h := s.hart
  let t := s.writeRecord cause detail
  let seq := match t.world h.wid with
    | some w => w.qseq.toNat
    | none => 0
  let t := t.mapHart fun h => h.stop .quarantined
  let t := { t with
    tickets := t.tickets.filter fun k => k.ser != h.ser
    jobs := t.jobs.filter fun j => j.ser != h.ser
    held := t.held.filter fun x => x.amo.isNone || x.stream.ser != some h.ser
    owed := t.owed.filter fun x => x.1.ser != h.ser
    csafree := t.csafree ++ [h.csa] }
  let t := (t.updGang h.gid fun g => g.leave h.ser true).finishGang h.gid
  t.post 0x8006 (BitVec.ofNat 64 (h.wid.toNat * 2 ^ 48 + cause * 2 ^ 40 + seq)) 0

/-! ### Work that meets a line that fails its check (R180, R335) -/

/-- The error report of a line that fails its check (R335, R390): class HBM line, or root port for a line
of the capacity tier. -/
def State.lineReport (s : State) (line : Nat) : State :=
  match regionOf (s.canon line) with
  | .tier p _ => s.report 13 1 p 1 (BitVec.ofNat 64 line)
  | .remote _ off => s.report 6 1 (off / 2 ^ 37) 1 (BitVec.ofNat 64 line)
  | _ => s.report 6 1 (s.canon line / 2 ^ 37) 1 (BitVec.ofNat 64 line)

/-- The cause of R351 for a line that fails its check: 2 for an error that cannot be corrected, where the line is filled
from, 1 for its MAC. -/
def State.lineCause (s : State) (line : Nat) : Nat :=
  if s.lost.contains (s.forward (s.canon line) / 64 * 64) then 2 else 1

/-- A line that work of a hart in flight fills for a world fails its check: the hart's context is quarantined, or, for an
agent of world 0, the hart takes the access fault before its next instruction (R335, R385; log entry 140). -/
def State.lineLoss (s : State) (w : BitVec 10) (ser : BitVec 16) (line : Nat) : State :=
  let t := s.lineReport line
  if w == 0 then t.updHart ser fun h => { h with badLine := some line }
  else t.asHart ser fun t => t.quarantine (t.lineCause line) (BitVec.ofNat 64 line)

/-- The agent of a stream meets a line that fails its check: the loss of its hart, and for a hart of another device, which
loses it there, and for the units of a worklist, the report alone. -/
def State.streamLoss (s : State) (st : FabricStream) (w : BitVec 10) (line : Nat) : State :=
  match st.ser with
  | some ser => s.lineLoss w ser line
  | none => s.lineReport line

/-- Performs a write on behalf of a stream. -/
def State.commitFor (s : State) (st : FabricStream) (w : MemWrite) : State :=
  match s.commit w with
  | some t => t
  | none => s.streamLoss st w.world (w.key / 64 * 64)

/-- A packet reaches the other device (R221): its writes are performed in that device's memory as this
device's reads see it. -/
def State.arrive (s : State) (pk : Packet) : State := pk.writes.foldl (fun t w => t.commitFor pk.stream w) s

/-- Performs every packet of a stream to a device, in order: a read of the same stream comes after
them (R221). -/
def State.flush (s : State) (st : FabricStream) (dev : Nat) : State :=
  let mine (p : Packet) : Bool := p.stream == st && p.dev == BitVec.ofNat 8 dev
  (s.packets.filter mine).foldl State.arrive { s with packets := s.packets.filter fun p => !mine p }

/-- Makes an address ready to be read: claims scratchpad regions, and orders a remote read after the
packets of its stream. -/
def State.beforeRead (s : State) (c : Ctx) (st : FabricStream) (a n : Nat) : State :=
  let s := s.claimAll c.world (s.key c.core a) n
  match s.farDev a with
  | some d => s.flush st d
  | none => s

end Sys2Proof.Machine
end

