-- ==== Sys2Proof/Machine/DeviceWindow.lean ====
section
/-! DEFINITION. The device window (R200): page counters and thresholds (R206), forwarding entries (R317,
R318), CSAFREE and the hart control entries (R372), the retirement map (R389), MSI-X (R397), root-port
entries (R399), anti-rollback counters (R402) and CLKSTAT (R404); and the steps of the table that are
writes of one field. -/

namespace Sys2Proof.Machine

/-! ### Forwarding entries (R317, R318) -/

def FwdEntry.meets (a an b bn : Nat) : Bool := decide (a < b + bn ∧ b < a + an)

/-- Is a move of MODE from 0 to 1 ignored? -/
def State.holdRefused (s : State) (e : Nat) (x : FwdEntry) : Bool :=
  let n := x.len.toNat
  let o := x.old.toNat * 64
  let w := x.new.toNat * 64
  n = 0 || FwdEntry.meets o n w n ||
    s.fwd.toList.zipIdx.any fun (y, i) =>
      i ≠ e && y.mode ≠ 0 &&
        (let m := y.len.toNat
         let p := y.old.toNat * 64
         let q := y.new.toNat * 64
         FwdEntry.meets o n p m || FwdEntry.meets o n q m || FwdEntry.meets w n p m || FwdEntry.meets w n q m)

/-! ### Atomic operations (R235) -/

def AmoOp.code : AmoOp → Nat
  | .add => 0 | .min => 1 | .max => 2 | .and => 3 | .or => 4 | .xor => 5 | .swap => 6 | .cas => 7

/-- The operations that PCIe carries (R235). -/
def AmoOp.onHost : AmoOp → Bool
  | .add | .swap | .cas => true
  | .min | .max | .and | .or | .xor => false

/-- The order of two `w`-bit words. -/
def wordBelow (w : Nat) (signed : Bool) (x y : Nat) : Bool :=
  if signed then decide (sintOf w x < sintOf w y) else decide (x < y)

/-- The new word, of `w` bits, from the old word M, b, and the compare value; none where nothing is
written (R235). -/
def AmoOp.apply (op : AmoOp) (w : Nat) (signed : Bool) (m b cmp : Nat) : Option Nat :=
  match op with
  | .add => some ((m + b) % 2 ^ w)
  | .min => some (if wordBelow w signed b m then b else m)
  | .max => some (if wordBelow w signed m b then b else m)
  | .and => some (m &&& b)
  | .or => some (m ||| b)
  | .xor => some (m ^^^ b)
  | .swap => some b
  | .cas => if m = cmp then some b else none

/-! ### Held writes and atomics (R318) -/

/-- One atomic on memory, as one read and at most one write, counted when it goes past the slices: the old word
and the state; none when the line fails its check (R235). -/
def State.performAmo (s : State) (w : MemWrite) (f : Nat → Option Nat) : Option (Nat × State) :=
  match s.readPart w.keyid w.version w.key w.off w.data.length with
  | none => none
  | some bs =>
    let m := Crypto.leNat bs
    match f m with
    | none => some (m, s)
    | some v => (s.commit { w with data := Crypto.leBytes w.data.length v }).map fun t => (m, t)

/-- The function of an atomic on words of `n` bytes. -/
def AmoReq.apply (q : AmoReq) (n m : Nat) : Option Nat := q.op.apply (8 * n) q.signed m q.operand q.compare

/-- The slice answers an atomic that it has held: the old word, for the instruction that waits for it, which may have been
stopped meanwhile (R318, R373; log entry 108). -/
def State.owe (s : State) (id : AmoId) (bs : List Byte) : State :=
  if s.owed.any fun p => p.1 == id then
    { s with owed := mapFirst (fun p => p.1 == id) (fun p => (id, p.2 ++ bs)) s.owed }
  else { s with owed := s.owed ++ [(id, bs)] }

/-- Counts the line of a held write that goes past the slices, where it is performed (R206). -/
def State.countHeld (s : State) (w : MemWrite) : State :=
  if w.cached then s else s.countLine (s.forward w.key / 64 * 64)

/-- Performs one held write or atomic. -/
def State.applyOne (s : State) (h : HeldWrite) : State :=
  let t := s.countHeld h.wr
  match h.amo with
  | none => t.commitFor h.stream h.wr
  | some q =>
    match t.performAmo h.wr (q.apply h.wr.data.length) with
    | none => t.streamLoss h.stream h.wr.world (h.wr.key / 64 * 64)
    | some (m, u) =>
      match q.who with
      | some id => u.owe id (Crypto.leBytes h.wr.data.length m)
      | none => u

/-- Applies the writes and atomics that an entry has held, at NEW, in the order in which they came (R318). -/
def State.applyHeld (s : State) (e : Nat) : State :=
  (s.held.filter fun h => h.entry == e).foldl State.applyOne
    { s with held := s.held.filter fun h => h.entry != e }

/-- A write of MODE (R317): only 0 to 1, 1 to 2 and 2 to 0. -/
def State.setMode (s : State) (e : Nat) (m : BitVec 2) : State :=
  if h : e < 64 then
    let x := s.fwd[e]
    let t := { s with fwd := s.fwd.set e { x with mode := m } h }
    if x.mode = 0 ∧ m = 1 then if s.holdRefused e x then s else t
    else if x.mode = 1 ∧ m = 2 then t.applyHeld e
    else if x.mode = 2 ∧ m = 0 then t
    else s
  else s

/-- A write of a word of a forwarding entry. -/
def State.writeFwd (s : State) (off : Nat) (v : Word) : State :=
  let e := off / 32
  let addr : BitVec 46 := BitVec.ofNat 46 (v.toNat / 64)
  if h : e < 64 then
    let x := s.fwd[e]
    let free := x.mode = 0
    match off % 32 with
    | 0 => if free then { s with fwd := s.fwd.set e { x with old := addr } h } else s
    | 8 => if free then { s with fwd := s.fwd.set e { x with new := addr } h } else s
    | 16 => if free then { s with fwd := s.fwd.set e { x with len := v.setWidth 32 } h } else s
    | _ => s.setMode e (v.setWidth 2)
  else s

def State.readFwd (s : State) (off : Nat) : Nat :=
  let x := s.fwd.toList.getD (off / 32) .free
  match off % 32 with
  | 0 => x.old.toNat * 64
  | 8 => x.new.toNat * 64
  | 16 => x.len.toNat
  | _ => x.mode.toNat

/-! ### CSAs and harts (R372) -/

/-- A write of CSAFREE. -/
def State.pushCsa (s : State) (v : Word) : State :=
  if s.csafree.length < 65536 ∧ v.toNat % 64 = 0 then { s with csafree := s.csafree ++ [v.setWidth 52] } else s

/-- A request to hold a hart: one on a front-end slot is held when it is pre-empted (R373); one whose
context lies saved is held at once. -/
def Hart.requestHold (h : Hart) : Hart :=
  match h.life with
  | .running => { h with holdReq := true }
  | .descheduled => { h with life := .held }
  | .absent | .held | .exited | .quarantined => h

/-- A release: a held hart may be scheduled again; a request not yet carried out is withdrawn. -/
def Hart.release (h : Hart) : Hart :=
  match h.life with
  | .held => { h with life := .descheduled, holdReq := false }
  | .running => { h with holdReq := false }
  | .descheduled | .absent | .exited | .quarantined => h

/-- Is a write of the units that spill a worklist of the hart's gang in flight (R299)? -/
def State.spilling (s : State) (ser : BitVec 16) : Bool :=
  let mine (st : FabricStream) : Bool := match st with
    | .list gid _ => s.gangs.any fun g => g.gid == gid && g.members.any fun m => m.ser == some ser
    | .scalar _ | .vector _ | .job _ _ | .ticket _ _ | .peer _ => false
  s.packets.any (fun p => mine p.stream) || s.held.any fun h => mine h.stream

/-- Is work of a hart in flight that holds slot words it captured: tickets, transfers, reductions, the spill writes of its
gang (R180, R299, R319)? -/
def State.inFlightOf (s : State) (ser : BitVec 16) : Bool :=
  s.spilling ser || s.tickets.any (fun t => t.ser == ser) || s.jobs.any (fun j => j.ser == ser) || s.copies.any (fun c => c.ser == ser) ||
    s.gangs.any fun g => g.reds.any fun r => r.joins.any fun j => g.members.any fun m => m.rank == j.rank && m.ser == some ser

/-- CTL as it reads. A held hart reads as held once it is at a safe point for every slot, when no work of its is
in flight (R180, R319, R373). -/
def State.readCtl (s : State) (ser : BitVec 16) : Nat :=
  match s.findHart ser with
  | none => 3
  | some h => if h.life = .held then (if s.inFlightOf ser then 1 else 2) else if h.holdReq then 1 else 0

def State.writeCtl (s : State) (ser : BitVec 16) (v : Word) : State :=
  match v.toNat % 4 with
  | 1 => s.updHart ser Hart.requestHold
  | 2 => s.updHart ser Hart.release
  | _ => s

/-! ### Root-port entries (R399, R400) -/

/-- Does the extent of entry `i` overlap another entry of its port in state 2 or 3? -/
def State.extentClash (s : State) (i : Nat) : Bool :=
  let x := s.extentAt i
  s.extents.toList.zipIdx.any fun (y, j) =>
    j ≠ i && j / 64 = i / 64 && (y.state == 2 || y.state == 3) &&
      decide (x.off.toNat < y.off.toNat + y.units.toNat ∧ y.off.toNat < x.off.toNat + x.units.toNat)

def State.setExtent (s : State) (i : Nat) (f : Extent → Extent) : State :=
  if h : i < 512 then { s with extents := s.extents.set i (f s.extents[i]) h } else s

/-- STATE 3 and its report: the release of a mapped extent begins (R400). -/
def State.startRelease (s : State) (i : Nat) : State :=
  (s.setExtent i fun x => { x with state := 3 }).report 13 7 (i / 64) 1 0

/-- A write of STATE by the manager. -/
def State.writeExtentState (s : State) (i : Nat) (v : BitVec 3) : State :=
  let old := (s.extentAt i).state
  if old = 1 ∧ v = 2 then if s.extentClash i then s else s.setExtent i fun x => { x with state := 2 }
  else if old = 1 ∧ v = 0 then s.setExtent i fun x => { x with state := 0 }
  else if old = 2 ∧ v = 3 then s.startRelease i
  else if old = 4 ∧ v = 0 then s.setExtent i fun x => { x with state := 0 }
  else s

/-- The entry number of a window offset, from 0x330_0000. -/
def extentIndex (off : Nat) : Nat := off / 0x1000 * 64 + off % 0x1000 / 32

def State.writeExtent (s : State) (off : Nat) (v : Word) : State :=
  let i := extentIndex off
  let free := (s.extentAt i).state = 0
  match off % 32 with
  | 0 => if free then s.setExtent i fun x => { x with off := BitVec.ofNat 13 (v.toNat / 2 ^ 28) } else s
  | 8 =>
    let u := v.toNat % 2 ^ 14
    if free ∧ u ≤ 8192 then s.setExtent i fun x => { x with units := BitVec.ofNat 14 u } else s
  | _ => s.writeExtentState i (v.setWidth 3)

def State.readExtent (s : State) (off : Nat) : Nat :=
  let x := s.extentAt (extentIndex off)
  match off % 32 with
  | 0 => x.off.toNat * 2 ^ 28
  | 8 => x.units.toNat
  | _ => x.state.toNat

/-! ### Read-only registers (R389, R402, R404) -/

/-- Does a core accept placement (R388, R389)? -/
def State.coreGood (s : State) (c : BitVec 8) : Bool :=
  !(s.goodGroups c).isEmpty && !s.dieDown (c.toNat / 64) &&
    !s.retired.any fun (cls, u) => (cls == 2 && u.toNat / 64 == c.toNat) || ((cls == 3 || cls == 4) && u.toNat == c.toNat)

def State.readCore (s : State) (c : Nat) : Nat :=
  let core := BitVec.ofNat 8 c
  let good := if s.dieDown (c / 64) then [] else s.goodGroups core
  (good.map fun g => 2 ^ g.toNat).sum + (if s.coreGood core then 16 else 0)

def State.readSlice (s : State) (i : Nat) : Nat :=
  if s.retired.contains (5, BitVec.ofNat 16 i) || s.dieDown (i / 192) then 0 else 1

def State.readStack (s : State) (k : Nat) : Nat :=
  (((List.range 8).filter fun j => !s.retired.contains (7, BitVec.ofNat 16 (k * 8 + j))).map fun j => 2 ^ j).sum +
    (if s.retired.contains (8, BitVec.ofNat 16 k) then 0 else 256)

/-- A position that is committed, and one that is discarded (R403). -/
def FusePos.committed (p : FusePos) : Bool := p.commit == 3 && p.discard == 0
def FusePos.discarded (p : FusePos) : Bool := p.discard == 3

/-- Counter(c): the committed positions. -/
def State.fuseValue (s : State) (c : Nat) : Nat :=
  ((s.fuses.toList.getD c []).filter FusePos.committed).length

def State.readFuse (s : State) (c : Nat) : Nat :=
  let l := s.fuses.toList.getD c []
  (l.filter FusePos.committed).length + (l.filter FusePos.discarded).length * 256 +
    (if 320 ≤ l.length then 65536 else 0)

/-- THRUS (R404): µs spent below 2,000 MHz since reset, saturating. -/
def State.thrusNow (s : State) : Nat :=
  min (2 ^ 32 - 1) (s.thrus.toNat + (match s.slowSince with
    | some t => (Config.time s.tick).toNat - t.toNat
    | none => 0))

/-! ### The window as a whole -/

/-- The value that a read of the window returns. -/
def State.readWindow (s : State) (off : Nat) : Nat :=
  if off < 0x3000000 then (tblGet 0 s.pages (off / 2 ^ 22 * 2 ^ 21 + off % 2 ^ 22 / 2)).toNat
  else if off < 0x3010000 then (s.cthr.toList.getD ((off - 0x3000000) / 8) 0).toNat
  else if off < 0x3011000 then s.readFwd (off - 0x3010000)
  else if off < 0x3100000 then s.csafree.length
  else if off < 0x3200000 then
    let ser := BitVec.ofNat 16 ((off - 0x3100000) / 16)
    if off % 16 = 0 then s.readCtl ser else ((s.findHart ser).map fun h => h.csa.toNat).getD 0
  else if off < 0x3200800 then s.readCore ((off - 0x3200000) / 8)
  else if off < 0x3202000 then s.readSlice ((off - 0x3200800) / 8)
  else if off < 0x3220000 then s.readStack ((off - 0x3202000) / 8)
  else if off < 0x3220100 then s.thrusNow * 2 ^ 32 + s.clock.toNat
  else if off < 0x3300000 then 0
  else if off < 0x3400000 then s.readExtent (off - 0x3300000)
  else s.readFuse ((off - 0x3400000) / 8)

/-- MSI-X vector `n`; a number above 63 is ignored (R397). -/
def State.raiseMsix (s : State) (v : Word) : State := if v.toNat < 64 then s.emit (.msix v.toNat) else s

/-- A write of the window; a write of a read-only register changes nothing. -/
def State.writeWindow (s : State) (off : Nat) (v : Word) : State :=
  if off < 0x3000000 then
    { s with pages := tblSet s.pages (off / 2 ^ 22 * 2 ^ 21 + off % 2 ^ 22 / 2) (v.setWidth 16) }
  else if off < 0x3010000 then
    let k := (off - 0x3000000) / 8
    if h : k < 12 then { s with cthr := s.cthr.set k (v.setWidth 16) h } else s
  else if off < 0x3011000 then s.writeFwd (off - 0x3010000) v
  else if off < 0x3100000 then s.pushCsa v
  else if off < 0x3200000 then
    if off % 16 = 0 then s.writeCtl (BitVec.ofNat 16 ((off - 0x3100000) / 16)) v else s
  else if off < 0x3220100 then s
  else if off < 0x3300000 then s.raiseMsix v
  else if off < 0x3400000 then s.writeExtent (off - 0x3300000) v
  else s

/-! ### Steps of the table that are one write of the window -/

/-- FWD_HOLD (R318): a write of MODE 1. -/
def execFwdHold (e : BitVec 6) (s : State) : Out := .next (s.setMode e.toNat 1)

/-- FWD_FORWARD (R318): a write of MODE 2. -/
def execFwdForward (e : BitVec 6) (s : State) : Out := .next (s.setMode e.toNat 2)

/-- FWD_FREE (R317): a write of MODE 0. -/
def execFwdFree (e : BitVec 6) (s : State) : Out := .next (s.setMode e.toNat 0)

/-- CSAFREE_PUSH (R372). -/
def execCsafreePush (a : BitVec 64) (s : State) : Out := .next (s.pushCsa a)

/-- HART_HOLD (R373): a write of CTL 1. -/
def execHartHold (ser : BitVec 16) (s : State) : Out := .next (s.writeCtl ser 1)

/-- HART_RELEASE (R372): a write of CTL 2. -/
def execHartRelease (ser : BitVec 16) (s : State) : Out := .next (s.writeCtl ser 2)

/-- The number of a root-port entry. -/
def entryOf (p : BitVec 3) (e : BitVec 6) : Nat := p.toNat * 64 + e.toNat

/-- EXTENT_ACCEPT (R399): a write of STATE 2. -/
def execExtentAccept (p : BitVec 3) (e : BitVec 6) (s : State) : Out :=
  .next (s.writeExtentState (entryOf p e) 2)

/-- EXTENT_DECLINE (R399): a write of STATE 0 to an offered entry. -/
def execExtentDecline (p : BitVec 3) (e : BitVec 6) (s : State) : Out :=
  .next (if (s.extentAt (entryOf p e)).state = 1 then s.writeExtentState (entryOf p e) 0 else s)

/-- EXTENT_RELEASE (R400): a write of STATE 3. -/
def execExtentRelease (p : BitVec 3) (e : BitVec 6) (s : State) : Out :=
  .next (s.writeExtentState (entryOf p e) 3)

/-- EXTENT_FREE (R399): a write of STATE 0 to a withdrawn entry. -/
def execExtentFree (p : BitVec 3) (e : BitVec 6) (s : State) : Out :=
  .next (if (s.extentAt (entryOf p e)).state = 4 then s.writeExtentState (entryOf p e) 0 else s)

/-- MSIX_RAISE (R397). -/
def execMsixRaise (n : BitVec 64) (s : State) : Out := .next (s.raiseMsix n)

end Sys2Proof.Machine
end

