-- ==== Sys2Proof/Machine/Ops.lean ====
section
/-! DEFINITION. Taking a trap (R363, R365, R367), returning from one (R379), and switching a hart out and in
(R373, R374); and what every stop does first with the hart's own stores and atomics (R211, R216, R318). -/

namespace Sys2Proof.Machine

/-! ### What a stop does first (R211, R216, R318) -/

/-- Is a pending store one of a hart? -/
def PendingStore.of (ser : BitVec 16) (p : PendingStore) : Bool := p.ctx.ser == ser

/-- Does a pending store go to the device window? -/
def State.toWindow (s : State) (p : PendingStore) : Bool :=
  match regionOf (s.canon p.addr) with
  | .window _ => true
  | _ => false

/-- Performs a scalar store whose probe has passed, in the window or in memory. -/
def State.performStore (s : State) (p : PendingStore) : State :=
  match regionOf (s.canon p.addr) with
  | .window off => s.writeWindow off (BitVec.ofNat 64 (Crypto.leNat p.data))
  | _ =>
    let u := s.countWrite p.ctx p.word p.addr p.data.length
    match u.writeBytes p.ctx (.scalar p.ctx.ser) p.word p.addr p.data with
    | none => u.lineLoss p.ctx.world p.ctx.ser (u.badLine p.ctx p.word p.addr p.data.length)
    | some v => v

/-- Performs every pending store of a hart, oldest first. -/
def State.drainStores (s : State) (ser : BitVec 16) : State :=
  (s.stores.filter (PendingStore.of ser)).foldl State.performStore
    { s with stores := s.stores.filter fun p => !p.of ser }

/-- Performs the pending stores and every packet of the acting hart's two sides: a trap entry, an `eret` and a
switch act as `fence.sv.vs` (R216). Writes that a forwarding entry holds count as performed (R373). -/
def State.settle (s : State) : State :=
  let s := s.drainStores s.hart.ser
  let mine (p : Packet) : Bool := p.stream == .scalar s.hart.ser || p.stream == .vector s.hart.ser
  (s.packets.filter mine).foldl State.arrive { s with packets := s.packets.filter fun p => !mine p }

/-- Does an atomic that a slice holds, or has answered, belong to the instruction at pc or to the oldest entry of the
queue, as the element at which it stands? -/
def Hart.waitsFor (h : Hart) (id : AmoId) : Bool :=
  id.ser == h.ser && (match id.start with
    | none => id.addr == h.pc
    | some n => (h.queue.head?.map fun e => e.addr == id.addr && e.start == n).getD false)

/-- What a slice holds or has answered for the acting hart, once its context is back: an atomic performs once, whoever
takes its old word, and one whose instruction the hart has left has nobody who does (R318, R373; log entry 108). -/
def State.keepOwed (s : State) : State :=
  let gone (id : AmoId) : Bool := id.ser == s.hart.ser && !s.hart.waitsFor id
  let leave (q : AmoReq) : AmoReq := if q.who.any gone then { q with who := none } else q
  { s with
    owed := s.owed.filter fun p => !gone p.1
    held := s.held.map fun x => { x with amo := x.amo.map leave } }

/-! ### Taking a trap -/

/-- Is it an access or fetch fault that quarantines a tenant at once (R361)? -/
def violation (cause : Nat) (detail : Word) : Bool :=
  (cause == 5 || cause == 6) && [3, 4, 6, 7, 8].contains (detail.toNat % 256)

/-- Writes the trap registers and PFXSTATE (step 3 of R363). -/
def Hart.trapRegs (h : Hart) (cause : Nat) (detail val : Word) : Hart :=
  { h with
    tcause := BitVec.ofNat 64 cause
    tdetail := detail
    tval := val
    tpc := h.pc
    pfx := h.pfxNow }

/-- Enters the handler (step 4 of R363). The handler's first V, W or M instruction begins a convoy, since none is open
(log entry 123). -/
def Hart.enterHandler (h : Hart) (hvec : Word) (hcode : BitVec 32) : Hart :=
  { h with
    hm := true
    nest := false
    x := Vector.replicate 32 0
    tag := Vector.replicate 32 none
    last := none
    loan := none
    half := false
    pairHeld := false
    capture := none
    vl := 1
    vtype := 0x0026
    view := .own
    queue := []
    convoy := none
    wait := none
    answer := none
    hcode := hcode
    pc := hvec }

/-- A trap taken in handler mode saves nothing (R365). The convoy that is open stays open, across it and its `eret` (log
entry 123). -/
def Hart.nestedTrap (h : Hart) (hvec : Word) : Hart :=
  { h with
    nest := true
    last := none
    loan := none
    half := false
    pairHeld := false
    capture := none
    wait := none
    answer := none
    pc := hvec }

/-- The code slot of the handler, read at handler entry (R306, R363); no slot where the header of HTAB cannot be read
(log entry 126). -/
def State.handlerCode (s : State) : BitVec 32 :=
  if (s.unitLost s.hart.core (s.canon (tabAddr s.htab))).isSome then 0xFFFFFFFF else s.tabCode (tabAddr s.htab)

/-- A trap of a hart that is not in handler mode, and is not quarantined for it: the context is saved
and the handler entered (R363), or, without a handler, the hart stops (R367). -/
def State.enterTrap (s : State) (cause : Nat) (detail val : Word) : State :=
  let t := s.saveContext
  let t := t.mapHart fun h => { h.trapRegs cause detail val with tctx := h.csa.zeroExtend 64 }
  if t.hvec = 0 then
    let t := t.emit (.report ⟨0x8000000000008007, reportDetail 15 1 t.hart.ser.toNat 1, 0⟩)
    if t.hart.wid = 0 then
      t.mapHart fun h => { h with life := .held, queue := [], wait := none, answer := none }
    else t.quarantine 2 detail
  else t.mapHart fun h => h.enterHandler t.hvec t.handlerCode

/-- Does the hart wait for a completion of the host (R396)? -/
def Hart.atHost (h : Hart) : Bool := h.wait == some .host || h.wait == some .hostFetch

/-- Does a queued instruction have accesses at the host, an answer that it has not used, or an element group that it has
performed in part? -/
def Hart.queueAsks (h : Hart) : Bool := h.queue.any fun e => e.asked || e.answer.isSome || !e.early.isEmpty

/-- Does an access to the host await its completion, is an answer not used yet, or an element group not complete? A stop
waits for it, since what has been performed is not performed again (R356, R358). -/
def Hart.hostBusy (h : Hart) : Bool := h.atHost || h.answer.isSome || h.queueAsks

/-- Takes a synchronous trap at the acting hart's pc (R361, R363, R365, R367). An instruction that goes on with the
host's answer, and then traps, loses the answer. -/
def State.takeTrap (s : State) (cause : Nat) (detail val : Word) : State :=
  let busy := s.hart.atHost || s.hart.queueAsks
  let s := if busy then s else s.settle
  if busy then (if s.hart.atHost then s else s.waitFor .retry)
  else if s.hart.life ≠ .running then s
  else if s.hart.hm then
    if s.hvec = 0 then
      (s.emit (.report ⟨0x8000000000008007, reportDetail 15 1 s.hart.ser.toNat 1, 0⟩)).quarantine 2 detail
    else s.mapHart fun h => (h.trapRegs cause detail val).nestedTrap s.hvec
  else if s.hart.wid != 0 && violation cause detail then s.quarantine 5 detail
  else s.enterTrap cause detail val

/-- The illegal-instruction trap, with the word at pc (R20, R360). -/
def State.illegal (s : State) : State := s.takeTrap 1 0 (s.hart.iw.zeroExtend 64)

/-- The privileged-instruction trap (R20, R360). -/
def State.privileged (s : State) (detail : Word := 0) : State :=
  s.takeTrap 2 detail (s.hart.iw.zeroExtend 64)

/-- The access fault with a detail, for element `elem` at an address (R360). -/
def State.faultAt (s : State) (detail elem addr : Nat) : State :=
  s.takeTrap 5 (BitVec.ofNat 64 (detail + 256 * elem)) (BitVec.ofNat 64 addr)

/-- A line that the acting hart's access of element `elem` at `addr` filled fails its check: quarantine, or detail 9
for an agent of world 0 (R335, R385). -/
def State.lineFault (s : State) (elem addr line : Nat) : State :=
  let t := s.lineReport line
  if s.hart.world0 then t.faultAt 9 elem addr
  else t.quarantine (t.lineCause line) (BitVec.ofNat 64 line)

/-- The access fault of a scalar access, or of element `elem` of a vector access, as its probe has failed (R360): with the
detail, or for the line of the slot table that cannot be read. -/
def State.accessFault (s : State) (detail elem addr : Nat) : State :=
  if detail < 16 then s.faultAt detail elem addr else s.lineFault elem addr (detail - 16)

/-- The malformed-structure fault (R178, R360). -/
def State.malformed (s : State) (reason addr : Nat) : State :=
  s.takeTrap 7 (BitVec.ofNat 64 reason) (BitVec.ofNat 64 addr)

/-- Runs `f` where every check treats the hart as one of world 0 (check 5 of R20). -/
def State.ifWorld0 (s : State) (f : State → State) : State := if s.hart.world0 then f s else s.privileged

/-- Does something that reads or writes the hart's vector state, once it is in lanes; else the
vector-switch trap (R375). -/
def State.withLanes (s : State) (f : State → State) : State :=
  match s.bringLanes with
  | .ok t => f t
  | .error d => s.takeTrap 12 d 0

/-! ### Returning (R379), switching (R373, R374) -/

/-- The first line of a CSA with an error that cannot be corrected, or else of its stored body that fails its check, if
any (R371, R385). -/
def State.csaBad (s : State) (w : BitVec 10) (csa : Nat) : Option Nat :=
  match ((linesOf csa csaBytes).map Prod.fst).find? fun l => s.lost.contains l with
  | some l => some l
  | none =>
  if w == 0 then none
  else
    ((s.csaMacs w csa (((Bytes.readLong 164 s.mem csa csaBytes).drop csaBodyAt).take csaBodyLen)).find?
      fun p => s.macOf p.1 != p.2).map Prod.fst

/-- A line of the acting hart's CSA fails its check: the report, and quarantine (R335, R352). -/
def State.csaLoss (s : State) (line : Nat) : State := (s.lineReport line).quarantine (s.lineCause line) (BitVec.ofNat 64 line)

/-- Reloads the acting hart's context from a CSA; the refilled entries take the next stamps. -/
def State.loadContext (s : State) (csa : Nat) : State :=
  let (head, body) := s.readCsa s.hart.wid csa
  s.mapHart fun h => h.loadContext head body (64 * s.tick)

/-- After a context is loaded, at a switch-in or at an `eret` with a queue image that is not empty: its vector
state must come into lanes, or the vector-switch trap is taken at its pc (R375). -/
def State.afterLoad (s : State) : State :=
  match s.bringLanes with
  | .ok t => t
  | .error d => s.takeTrap 12 d 0

/-- `eret` in handler mode (R379). -/
def State.returnFromTrap (s : State) : State :=
  let h := s.hart
  if pfxBad h.pfx then s.illegal
  else if h.nest then
    s.mapHart fun h => { (h.loadPfx h.pfx) with nest := false, pc := h.tpc }
  else
    match s.csaBad h.wid (h.tctx.toNat % 2 ^ 52) with
    | some line => s.csaLoss line
    | none =>
      let t := s.loadContext (h.tctx.toNat % 2 ^ 52)
      let t := t.mapHart fun g =>
        let g := { (g.loadPfx h.pfx) with hm := false, pc := h.tpc }
        let g := if h.tcause.toNat % 2 ^ 16 = 10 then g.setX (BitVec.ofNat 5 (h.tdetail.toNat / 256)) h.tval none else g
        g.applySets
      let t := t.keepOwed
      if t.hart.queue.isEmpty then t else t.afterLoad

/-- Saves the acting hart's context as a trap does, without a handler; its vector state stays where it
lies (R373, R374). -/
def State.switchOff (s : State) (l : Life) : State :=
  let t := s.settle
  if t.hart.life ≠ .running then t
  else t.saveContext.mapHart fun h =>
    { h with
      life := l
      queue := []
      convoy := none
      wait := none
      answer := none
      capture := none
      pairHeld := false
      pfx := h.pfxNow
      preempt := false }

/-- Puts the acting hart back on a front-end slot (R374). A PFXSTATE that `eret` would refuse is trapped at the saved pc,
with the queue image in the CSA as it was; PFXSTATE is then 0, for no loan, no half and no record (log entry 130). -/
def State.switchOn (s : State) : State :=
  let h := s.hart
  let csa := h.csa.toNat
  match s.csaBad h.wid csa with
  | some line => (s.mapHart fun h => { h with life := .running }).csaLoss line
  | none =>
    let (_, body) := s.readCsa h.wid csa
    let p := savedPfx body
    let t := ((s.loadContext csa).mapHart fun g => ({ g with life := .running }).applySets).keepOwed
    if pfxBad p then
      (t.mapHart fun g =>
        { g with
          loan := none
          half := false
          pairHeld := false
          last := none
          iw := (t.peekWord g.pc.toNat).getD 0 }).illegal
    else (t.mapHart fun g => g.loadPfx p).afterLoad

end Sys2Proof.Machine
end

