-- ==== Sys2Proof/Machine/Flags.lean ====
section
/-! DEFINITION. Flags and rounding of an instruction: the sticky bits of FFLAGS (R102), the effective
rounding mode (R98), the seed of stochastic rounding (R101). -/

namespace Sys2Proof.Machine

/-- Sets flag bits; they are sticky (R102). -/
def Hart.raise (h : Hart) (fl : Flags) : Hart := { h with fflags := h.fflags ||| fl }

def State.raise (s : State) (fl : Flags) : State := s.mapHart fun h => h.raise fl

/-- The mode of a scalar floating instruction: RM of FRM (R98). -/
def Hart.scalarMode (h : Hart) : RMode := .ofCode h.frm.toNat

/-- The rounding override of a VTYPE value: 0 for none, else 1 more than a mode code (R98, R134). -/
def rmOverride (vtype : Word) : Nat := vtype.toNat / 2 ^ 16 % 8

/-- SEED after an instruction of the given mode: one more under SR (R101). -/
def nextSeed (m : RMode) (seed : Word) : Word :=
  match m with
  | .sr => seed + 1
  | _ => seed

/-- One scalar floating instruction: rounds in RM with rnd(0) of SEED, raises its flags at once,
advances SEED under SR and writes its result untagged (R101, R126, R127). -/
def scalarFloat (d : BitVec 5) (f : RMode → Word → Nat × Flags) (s : State) : State :=
  let m := s.hart.scalarMode
  let r := f m (rndWord s.hart.seed 0)
  (s.mapHart fun h => { h.raise r.2 with seed := nextSeed m h.seed }).writeBack d (BitVec.ofNat 64 r.1)

end Sys2Proof.Machine
end

