-- ==== Sys2Proof/Machine/Operands.lean ====
section
/-! DEFINITION. Operand forms of the scalar formats (R22, R23, R114, R225): immediates, targets, tags of
results, and the address of a scalar access. -/

namespace Sys2Proof.Machine

/-- A sign-extended 16-bit immediate (R22). -/
def imm16 (i : BitVec 16) : Word := i.signExtend 64

/-- An upper immediate: imm21 × 2^16, sign-extended (R121). -/
def imm21 (i : BitVec 21) : Word := i.signExtend 64 <<< 16

/-- The target of a B-format instruction (R23). -/
def target16 (pc : Word) (o : BitVec 16) : Word := pc + (o.signExtend 64 <<< 2)

/-- The target of a J-format instruction (R23). -/
def target26 (pc : Word) (o : BitVec 26) : Word := pc + (o.signExtend 64 <<< 2)

/-- The tag of a sum (R114). -/
def addTag (a b : Option (BitVec 16)) : Option (BitVec 16) :=
  match a, b with
  | some t, none => some t
  | none, some t => some t
  | _, _ => none

/-- The tag of a difference (R114). -/
def subTag (a b : Option (BitVec 16)) : Option (BitVec 16) :=
  match b with
  | none => a
  | some _ => none

/-- The address of a scalar access (R225). -/
def scalarAddr (s : State) (a : BitVec 5) (i : BitVec 16) : Word := s.hart.xr a + imm16 i

end Sys2Proof.Machine
end

