-- ==== Sys2Proof/Machine/Elem.lean ====
section
/-! DEFINITION. Element types (R135), VTYPE by field (R134, R136), VLMAX (R110, R133), and the elements of
register images: byte-width elements, FP6, FP4 and bit-sliced planes (R83, R84, R110). A register group
is read and written in packing units. -/

namespace Sys2Proof.Machine

/-- An element type (R135). -/
inductive ETy where
  | uint (w : Nat)
  | sint (w : Nat)
  | flt (f : Fmt)
  | bipolar
  | bsint (n : Nat)
  | bsuint (n : Nat)
deriving DecidableEq, Repr

/-- The type of a code; none for a reserved code (R135). -/
def ETy.ofCode (c : Nat) : Option ETy :=
  if 0x82 ≤ c ∧ c ≤ 0x90 then some (.bsint (c - 0x80))
  else if 0xA1 ≤ c ∧ c ≤ 0xB0 then some (.bsuint (c - 0xA0))
  else
    match c with
    | 0x13 => some (.uint 8) | 0x14 => some (.uint 16) | 0x15 => some (.uint 32) | 0x16 => some (.uint 64)
    | 0x23 => some (.sint 8) | 0x24 => some (.sint 16) | 0x25 => some (.sint 32) | 0x26 => some (.sint 64)
    | 0x34 => some (.flt .fp16) | 0x35 => some (.flt .fp32) | 0x36 => some (.flt .fp64)
    | 0x44 => some (.flt .bf16)
    | 0x50 => some (.flt .e4m3) | 0x51 => some (.flt .e5m2)
    | 0x52 => some (.flt .e3m2) | 0x53 => some (.flt .e2m1)
    | 0x81 => some .bipolar
    | _ => none

/-- Element width in bits. -/
def ETy.width : ETy → Nat
  | .uint w | .sint w => w
  | .flt f => f.width
  | .bipolar => 1
  | .bsint n | .bsuint n => n

/-- Byte-width types: 8, 16, 32 or 64 bits in bytes of their own (R135). -/
def ETy.byteWidth : ETy → Bool
  | .uint _ | .sint _ => true
  | .flt f => f.width % 8 == 0
  | .bipolar | .bsint _ | .bsuint _ => false

def ETy.packedInt : ETy → Bool
  | .uint _ | .sint _ => true
  | .flt _ | .bipolar | .bsint _ | .bsuint _ => false

def ETy.isFloat : ETy → Bool
  | .flt _ => true
  | .uint _ | .sint _ | .bipolar | .bsint _ | .bsuint _ => false

def ETy.sliced : ETy → Bool
  | .bipolar | .bsint _ | .bsuint _ => true
  | .uint _ | .sint _ | .flt _ => false

/-- Is an integer of the type signed? -/
def ETy.signed : ETy → Bool
  | .sint _ | .bsint _ => true
  | .uint _ | .flt _ | .bipolar | .bsuint _ => false

/-- Elements and bytes of one packing unit (R83, R84, R231). -/
def ETy.unitElems (t : ETy) : Nat :=
  if t.sliced then 64 else if t.width = 6 then 4 else if t.width = 4 then 2 else 1

def ETy.unitBytes (t : ETy) : Nat :=
  if t.sliced then 8 * t.width else if t.width = 6 then 3 else if t.width = 4 then 1 else t.width / 8

/-- The value of an integer or bit-sliced encoding; a bipolar bit is +1 or −1 (R84, R93). -/
def ETy.intVal (t : ETy) (enc : Nat) : Int :=
  match t with
  | .uint w => (enc % 2 ^ w : Nat)
  | .bsuint n => (enc % 2 ^ n : Nat)
  | .sint w => sintOf w enc
  | .bsint n => sintOf n enc
  | .bipolar => if enc % 2 = 1 then 1 else -1
  | .flt _ => 0

/-- The encodings of the elements of one packing unit. -/
def ETy.decodeUnit (t : ETy) (bs : List Byte) : List Nat :=
  if t.sliced then
    let planes := (List.range t.width).map fun b => Crypto.leNat ((bs.drop (8 * b)).take 8)
    (List.range 64).map fun j => planes.foldr (fun p acc => 2 * acc + p / 2 ^ j % 2) 0
  else
    let n := Crypto.leNat bs
    (List.range t.unitElems).map fun j => n / 2 ^ (t.width * j) % 2 ^ t.width

/-- The bytes of one packing unit. -/
def ETy.encodeUnit (t : ETy) (es : List Nat) : List Byte :=
  if t.sliced then
    (List.range t.width).flatMap fun b =>
      Crypto.leBytes 8 ((es.zipIdx.map fun (e, j) => e / 2 ^ b % 2 * 2 ^ j).sum)
  else
    Crypto.leBytes t.unitBytes ((es.zipIdx.map fun (e, j) => e % 2 ^ t.width * 2 ^ (t.width * j)).sum)

/-! ### VTYPE (R134, R136) -/

def vtVill (v : Word) : Bool := v.msb
def vtCode (v : Word) : Nat := v.toNat % 256
def vtET (v : Word) : Option ETy := if vtVill v then none else ETy.ofCode (vtCode v)
def vtCT (v : Word) : Option ETy := ETy.ofCode (v.toNat / 2 ^ 24 % 256)
/-- G, registers to a group. -/
def vtG (v : Word) : Nat := 2 ^ (v.toNat / 2 ^ 8 % 4)
/-- Tail and mask policy: true for agnostic-zero. -/
def vtTP (v : Word) : Bool := v.getLsbD 13
def vtMP (v : Word) : Bool := v.getLsbD 14
/-- Scale format: true for E8M0. -/
def vtSF (v : Word) : Bool := v.getLsbD 15

/-- The bits that a write of VTYPE keeps. -/
def vtypeMask : Word := 0x00000000FF07E3FF

/-- The value that a write leaves in VTYPE (R136). -/
def vtypeWritten (v : Word) : Word :=
  let ct := v.toNat / 2 ^ 24 % 256
  if v.msb || (ETy.ofCode (vtCode v)).isNone || (ct ≠ 0 && (ETy.ofCode ct).isNone) || rmOverride v = 7 then vill
  else v &&& vtypeMask

/-- VLMAX of a type for grouping G and capacity C (R110, R133). -/
def vlmaxFor (t : ETy) (g c : Nat) : Nat :=
  min (t.unitElems * (g * c / t.unitBytes)) (8 * c)

/-- VLMAX under a VTYPE value; 0 while VILL is 1 (R139). -/
def vlmax (vtype : Word) (c : Nat) : Nat :=
  match vtET vtype with
  | some t => vlmaxFor t (vtG vtype) c
  | none => 0

/-- The effective mode of a V or W instruction (R98). -/
def vectorMode (vtype : Word) (rm : BitVec 3) : RMode :=
  .ofCode (if rmOverride vtype = 0 then rm.toNat else rmOverride vtype - 1)

/-! ### Images of register groups (R110) -/

/-- `n` bytes at a position of the group that starts at register `v`, each register C bytes. -/
def groupRead (regs : Vector VReg 32) (c v : Nat) (pos n : Nat) : List Byte :=
  if c = 0 then []
  else
    let r := v + pos / c
    let o := pos % c
    let k := min n (c - o)
    let first := Bytes.read (regs.toList.getD r .blank).img o k
    if k = n then first else first ++ Bytes.read (regs.toList.getD (r + 1) .blank).img 0 (n - k)

/-- Changes one register. -/
def setReg (regs : Vector VReg 32) (r : Nat) (f : VReg → VReg) : Vector VReg 32 :=
  if h : r < 32 then regs.set r (f regs[r]) h else regs

/-- Writes bytes at a position of a group (at most two registers are touched). -/
def groupWrite (regs : Vector VReg 32) (c v : Nat) (pos : Nat) (bs : List Byte) : Vector VReg 32 :=
  if c = 0 then regs
  else
    let r := v + pos / c
    let o := pos % c
    let k := min bs.length (c - o)
    let one := setReg regs r fun x => { x with img := Bytes.write x.img o (bs.take k) }
    if k = bs.length then one
    else setReg one (r + 1) fun x => { x with img := Bytes.write x.img 0 (bs.drop k) }

/-- The elements of `n` packing units from unit `u`. -/
def readUnits (regs : Vector VReg 32) (c v : Nat) (t : ETy) (u n : Nat) : List Nat :=
  (List.range n).flatMap fun i =>
    t.decodeUnit (groupRead regs c v ((u + i) * t.unitBytes) t.unitBytes)

/-- Element `i` of a group. -/
def readElem (regs : Vector VReg 32) (c v : Nat) (t : ETy) (i : Nat) : Nat :=
  (readUnits regs c v t (i / t.unitElems) 1).getD (i % t.unitElems) 0

/-- Elements `lo` to `lo + n − 1`. -/
def readElems (regs : Vector VReg 32) (c v : Nat) (t : ETy) (lo n : Nat) : List Nat :=
  let u := lo / t.unitElems
  ((readUnits regs c v t u ((lo + n + t.unitElems - 1) / t.unitElems - u)).drop (lo % t.unitElems)).take n

/-- Writes elements `lo`, `lo + 1`, … : a value where one is given, the old one elsewhere. Whole packing
units are read, changed and written back. -/
def writeElems (regs : Vector VReg 32) (c v : Nat) (t : ETy) (lo : Nat) (vals : List (Option Nat)) :
    Vector VReg 32 :=
  let e := t.unitElems
  let u := lo / e
  let n := (lo + vals.length + e - 1) / e - u
  let new := (List.range n).flatMap fun i =>
    let old := groupRead regs c v ((u + i) * t.unitBytes) t.unitBytes
    t.encodeUnit ((t.decodeUnit old).zipIdx.map fun (x, j) =>
      let k := (u + i) * e + j
      if k < lo then x else ((vals.getD (k - lo) none).getD x))
  let pos := u * t.unitBytes
  let cut := if c = 0 then 0 else c - pos % c
  groupWrite (groupWrite regs c v pos (new.take cut)) c v (pos + cut) (new.drop cut)

/-- Marks the registers of a group with the writer's width (R111). -/
def tagGroup (regs : Vector VReg 32) (v g w : Nat) : Vector VReg 32 :=
  (List.range g).foldl (fun rs i => setReg rs (v + i) fun x => { x with width := w }) regs

/-- Unsigned number of `n` bits of a predicate from bit `lo`, bit `lo` least significant. -/
def kbits (img : Bytes) (lo n : Nat) : Nat :=
  Crypto.leNat (Bytes.read img (lo / 8) ((lo + n + 7) / 8 - lo / 8)) / 2 ^ (lo % 8) % 2 ^ n

end Sys2Proof.Machine
end

