-- ==== Sys2Proof/Machine/Hazard.lean ====
section
/-! DEFINITION. What queued instructions read and write (R44 to R47, R141): destinations, source groups and
predicates, and which older entries of a queue a reader waits for (R30, R104, R156, R272). -/

namespace Sys2Proof.Machine

/-! ### Destinations -/

/-- What an instruction writes: a group at the captured G, a single register, a predicate, or none of
these. -/
inductive Dest where
  | nothing
  | group (r : BitVec 5)
  | single (r : BitVec 5)
  | pred (k : BitVec 5)
deriving DecidableEq, Repr

/-- The destination of a V, W or M instruction (R44 to R47, R151, R152, R173, R175). -/
def destOf (i : Instr) : Dest :=
  match i with
  | .vadd _ _ d _ _ => .group d
  | .vsub _ _ d _ _ => .group d
  | .vmul _ _ d _ _ => .group d
  | .vmulh _ _ d _ _ => .group d
  | .vmin _ _ d _ _ => .group d
  | .vmax _ _ d _ _ => .group d
  | .vand _ _ d _ _ => .group d
  | .vor _ _ d _ _ => .group d
  | .vxor _ _ d _ _ => .group d
  | .vsadd _ _ d _ _ => .group d
  | .vssub _ _ d _ _ => .group d
  | .vmacc _ _ d _ _ => .group d
  | .vaddx _ _ d _ _ => .group d
  | .vmulx _ _ d _ _ => .group d
  | .vaddi _ _ d _ _ => .group d
  | .vslli _ _ d _ _ => .group d
  | .vsrli _ _ d _ _ => .group d
  | .vsrai _ _ d _ _ => .group d
  | .vsel _ _ d _ _ => .group d
  | .vmvx _ _ d _ => .group d
  | .vfadd _ _ d _ _ => .group d
  | .vfsub _ _ d _ _ => .group d
  | .vfmul _ _ d _ _ => .group d
  | .vfdiv _ _ d _ _ => .group d
  | .vfsqrt _ _ d _ => .group d
  | .vfma _ _ d _ _ => .group d
  | .vfmin _ _ d _ _ => .group d
  | .vfmax _ _ d _ _ => .group d
  | .vfmulx _ _ d _ _ => .group d
  | .vfsmul _ _ d _ _ => .group d
  | .vfsmacc _ _ d _ _ => .group d
  | .vfcvt _ _ d _ => .group d
  | .vfcvti _ _ d _ => .group d
  | .vicvtf _ _ d _ => .group d
  | .vicvt _ _ d _ => .group d
  | .vperm _ _ d _ _ => .group d
  | .vslideup _ _ d _ _ => .group d
  | .vslidedn _ _ d _ _ => .group d
  | .vcompress _ _ d _ => .group d
  | .viota _ _ d => .group d
  | .vskv _ _ d _ => .group d
  | .vld _ _ v _ _ => .group v
  | .vlds _ _ v _ _ _ => .group v
  | .vldx _ _ v _ _ _ => .group v
  | .vldff _ _ v _ _ => .group v
  | .vqrd _ _ v _ _ => .group v
  | .vamoadd _ _ v _ _ _ _ => .group v
  | .vamomin _ _ v _ _ _ _ => .group v
  | .vamomax _ _ v _ _ _ _ => .group v
  | .vamoand _ _ v _ _ _ _ => .group v
  | .vamoor _ _ v _ _ _ _ => .group v
  | .vamoxor _ _ v _ _ _ _ => .group v
  | .vamoswap _ _ v _ _ _ _ => .group v
  | .vamocas _ _ v _ _ _ _ => .group v
  | .vredsum _ _ d _ => .single d
  | .vredmax _ _ d _ => .single d
  | .vfredsum _ _ d _ => .single d
  | .vfredmax _ _ d _ => .single d
  | .vtopk _ _ d _ _ => .single d
  | .vlr _ v _ => .single v
  | .mdrain _ _ _ a => .single a
  | .tsave _ _ a => .single a
  | .vcmpeq _ _ d _ _ => .pred d
  | .vcmplt _ _ d _ _ => .pred d
  | .vcmple _ _ d _ _ => .pred d
  | .vfcmpeq _ _ d _ _ => .pred d
  | .vfcmplt _ _ d _ _ => .pred d
  | .vfcmple _ _ d _ _ => .pred d
  | .kand _ _ d _ _ => .pred d
  | .kor _ _ d _ _ => .pred d
  | .kxor _ _ d _ _ => .pred d
  | .kandn _ _ d _ _ => .pred d
  | .knot _ _ d _ => .pred d
  | .kbefore _ _ d _ => .pred d
  | .kset _ _ d => .pred d
  | .vlrPredicate _ v _ => .pred v
  | _ => .nothing

/-- Does the instruction write a vector register destination (R32)? -/
def writesVector (i : Instr) : Bool :=
  match destOf i with
  | .group _ | .single _ => true
  | .nothing | .pred _ => false

/-! ### Sources -/

/-- How many registers a source takes: a group at the captured G, the group of a conversion, an index group, two
groups, or one register. -/
inductive SrcExtent where
  | group | convert | index | pair | one
deriving DecidableEq, Repr

/-- The vector registers that an instruction reads beside its destination (R44 to R47). -/
def vectorReads (i : Instr) : List (BitVec 5 × SrcExtent) :=
  match i with
  | .vadd _ _ _ a b => [(a, .group), (b, .group)]
  | .vsub _ _ _ a b => [(a, .group), (b, .group)]
  | .vmul _ _ _ a b => [(a, .group), (b, .group)]
  | .vmulh _ _ _ a b => [(a, .group), (b, .group)]
  | .vmin _ _ _ a b => [(a, .group), (b, .group)]
  | .vmax _ _ _ a b => [(a, .group), (b, .group)]
  | .vand _ _ _ a b => [(a, .group), (b, .group)]
  | .vor _ _ _ a b => [(a, .group), (b, .group)]
  | .vxor _ _ _ a b => [(a, .group), (b, .group)]
  | .vsadd _ _ _ a b => [(a, .group), (b, .group)]
  | .vssub _ _ _ a b => [(a, .group), (b, .group)]
  | .vmacc _ _ _ a b => [(a, .group), (b, .group)]
  | .vcmpeq _ _ _ a b => [(a, .group), (b, .group)]
  | .vcmplt _ _ _ a b => [(a, .group), (b, .group)]
  | .vcmple _ _ _ a b => [(a, .group), (b, .group)]
  | .vsel _ _ _ a b => [(a, .group), (b, .group)]
  | .vfadd _ _ _ a b => [(a, .group), (b, .group)]
  | .vfsub _ _ _ a b => [(a, .group), (b, .group)]
  | .vfmul _ _ _ a b => [(a, .group), (b, .group)]
  | .vfdiv _ _ _ a b => [(a, .group), (b, .group)]
  | .vfma _ _ _ a b => [(a, .group), (b, .group)]
  | .vfmin _ _ _ a b => [(a, .group), (b, .group)]
  | .vfmax _ _ _ a b => [(a, .group), (b, .group)]
  | .vfcmpeq _ _ _ a b => [(a, .group), (b, .group)]
  | .vfcmplt _ _ _ a b => [(a, .group), (b, .group)]
  | .vfcmple _ _ _ a b => [(a, .group), (b, .group)]
  | .vperm _ _ _ a b => [(a, .group), (b, .group)]
  | .vaddx _ _ _ a _ => [(a, .group)]
  | .vmulx _ _ _ a _ => [(a, .group)]
  | .vaddi _ _ _ a _ => [(a, .group)]
  | .vslli _ _ _ a _ => [(a, .group)]
  | .vsrli _ _ _ a _ => [(a, .group)]
  | .vsrai _ _ _ a _ => [(a, .group)]
  | .vfmulx _ _ _ a _ => [(a, .group)]
  | .vslideup _ _ _ a _ => [(a, .group)]
  | .vslidedn _ _ _ a _ => [(a, .group)]
  | .vtopk _ _ _ a _ => [(a, .group)]
  | .vfsmul _ _ _ a b => [(a, .group), (b, .group), (31, .one)]
  | .vfsmacc _ _ _ a b => [(a, .group), (b, .group), (31, .one)]
  | .vfsqrt _ _ _ a => [(a, .group)]
  | .vredsum _ _ _ a => [(a, .group)]
  | .vredmax _ _ _ a => [(a, .group)]
  | .vfredsum _ _ _ a => [(a, .group)]
  | .vfredmax _ _ _ a => [(a, .group)]
  | .vcompress _ _ _ a => [(a, .group)]
  | .vfcvt _ _ _ a => [(a, .convert)]
  | .vfcvti _ _ _ a => [(a, .convert)]
  | .vicvtf _ _ _ a => [(a, .convert)]
  | .vicvt _ _ _ a => [(a, .convert)]
  | .vskv _ _ _ a => [(a, .convert)]
  | .vldx _ _ _ _ x _ => [(x, .index)]
  | .vst _ _ v _ _ => [(v, .group)]
  | .vsts _ _ v _ _ _ => [(v, .group)]
  | .vstx _ _ v _ x _ => [(v, .group), (x, .index)]
  | .vamoadd _ _ v _ x _ _ => [(v, .group), (x, .index)]
  | .vamomin _ _ v _ x _ _ => [(v, .group), (x, .index)]
  | .vamomax _ _ v _ x _ _ => [(v, .group), (x, .index)]
  | .vamoand _ _ v _ x _ _ => [(v, .group), (x, .index)]
  | .vamoor _ _ v _ x _ _ => [(v, .group), (x, .index)]
  | .vamoxor _ _ v _ x _ _ => [(v, .group), (x, .index)]
  | .vamoswap _ _ v _ x _ _ => [(v, .group), (x, .index)]
  | .vamocas _ _ v _ x _ _ => [(v, .pair), (x, .index)]
  | .vsr _ v _ => [(v, .one)]
  | .mxacc _ _ _ a b => [(a, .group), (b, .group)]
  | .mopk _ _ _ a b => [(a, .group), (b, .group)]
  | .mxsub _ _ _ a b => [(a, .group), (b, .group)]
  | .mrow _ _ _ a => [(a, .one)]
  | .trest _ _ a => [(a, .one)]
  | _ => []

/-- The predicates that an instruction reads beside its mask. -/
def predReads (i : Instr) : List Nat :=
  match i with
  | .kand _ _ _ a b => [a.toNat, b.toNat]
  | .kor _ _ _ a b => [a.toNat, b.toNat]
  | .kxor _ _ _ a b => [a.toNat, b.toNat]
  | .kandn _ _ _ a b => [a.toNat, b.toNat]
  | .knot _ _ _ a => [a.toNat]
  | .kbefore _ _ _ a => [a.toNat]
  | .vsrPredicate _ v _ => [v.toNat]
  | _ => []

/-- The source group of a conversion: the smallest power of two that is at least 1 and at least
G × wCT ÷ wET; 16 where that exceeds 8. -/
def sourceGroup (g wc we : Nat) : Nat := (([1, 2, 4, 8] : List Nat).find? fun k => decide (g * wc ≤ k * we)).getD 16

/-- The predicate that masks an entry: the one lent, else k0. -/
def QEntry.maskReg (e : QEntry) : Nat :=
  match e.loan with
  | some l => l.k.toNat
  | none => 0

/-- The captured element type, where it is valid. -/
def QEntry.ety (e : QEntry) : ETy := (vtET e.vtype).getD (.uint 8)

/-- The destination registers: the instruction's own, and the copy register lent to it. -/
def QEntry.copies (e : QEntry) (r : BitVec 5) : List Nat :=
  match e.loan with
  | some l => if l.dc && l.vdc != r then [r.toNat, l.vdc.toNat] else [r.toNat]
  | none => [r.toNat]

/-- Registers that a source takes under a captured VTYPE. -/
def SrcExtent.count (x : SrcExtent) (e : QEntry) : Nat :=
  let g := vtG e.vtype
  match x with
  | .group => g
  | .convert => sourceGroup g ((vtCT e.vtype).getD (.uint 8)).width e.ety.width
  | .index => sourceGroup g 32 e.ety.width
  | .pair => 2 * g
  | .one => 1

/-- The ranges of registers that an entry reads, and those that it writes: first register and number. -/
def QEntry.reads (e : QEntry) : List (Nat × Nat) := (vectorReads e.instr).map fun p => (p.1.toNat, p.2.count e)

def QEntry.writes (e : QEntry) : List (Nat × Nat) :=
  match destOf e.instr with
  | .group r => (e.copies r).map fun d => (d, vtG e.vtype)
  | .single r => (e.copies r).map fun d => (d, 1)
  | .nothing | .pred _ => []

/-- Do two lists of ranges share a register? -/
def rangesShare (l m : List (Nat × Nat)) : Bool :=
  l.any fun x => m.any fun y => decide (x.1 < y.1 + y.2 ∧ y.1 < x.1 + x.2)

/-- The predicates that an entry reads, its mask among them, and the one that it writes. -/
def QEntry.predsRead (e : QEntry) : List Nat := (if masked e.instr then [e.maskReg] else []) ++ predReads e.instr

def QEntry.predWritten (e : QEntry) : Option Nat :=
  match destOf e.instr with
  | .pred k => some k.toNat
  | .nothing | .group _ | .single _ => none

/-- Does an entry perform one element group at a time, so that a reader may follow it (R30, R143)? -/
def QEntry.byGroups (e : QEntry) : Bool :=
  match e.instr with
  | .vld _ _ _ _ _ | .vlds _ _ _ _ _ _ | .vldx _ _ _ _ _ _ => true
  | .vst _ _ _ _ _ | .vsts _ _ _ _ _ _ | .vstx _ _ _ _ _ _ => true
  | i => e.cls == .arith && (match destOf i with
    | .group _ => true
    | .nothing | .single _ | .pred _ => false)

/-- Does an entry write its destination one element group at a time, from element 0 on, and no element again? -/
def QEntry.ascending (e : QEntry) : Bool :=
  e.byGroups ||
    match e.instr with
    | .vldff _ _ _ _ _ => true
    | .vamoadd _ _ _ _ _ _ _ | .vamomin _ _ _ _ _ _ _ | .vamomax _ _ _ _ _ _ _ | .vamoand _ _ _ _ _ _ _
    | .vamoor _ _ _ _ _ _ _ | .vamoxor _ _ _ _ _ _ _ | .vamoswap _ _ _ _ _ _ _ | .vamocas _ _ _ _ _ _ _ => true
    | _ => false

/-- Is the entry a memory-to-memory form? -/
def QEntry.memToMem (e : QEntry) : Bool :=
  match e.instr with
  | .mmcpy _ _ _ _ _ | .mmadd _ _ _ _ _ _ | .mmsub _ _ _ _ _ _ | .mmmul _ _ _ _ _ _
  | .mmmin _ _ _ _ _ _ | .mmmax _ _ _ _ _ _ => true
  | _ => false

/-- Does an entry perform part after part, so that a stop may find it part-way (R143)? -/
def QEntry.partwise (e : QEntry) : Bool := e.ascending || e.memToMem

/-- Has an entry completed before an older one, in this queue or in the one that a stop saved? -/
def QEntry.over (e : QEntry) : Bool := e.done || (e.partwise && decide (e.vl ≠ 0 ∧ e.vl ≤ e.start))

/-- Does an older queued instruction that has not completed write predicate `k`? -/
def Hart.predBusy (h : Hart) (k : Nat) : Bool := h.queue.any fun e => !e.over && e.predWritten == some k

/-- Does one write vector register `r`? -/
def Hart.regBusy (h : Hart) (r : Nat) : Bool := h.queue.any fun e => !e.over && rangesShare e.writes [(r, 1)]

/-- Has some older queued writer of vector register `r` yet to produce its element 0 (R156)? One whose group
begins at the register has produced it when its first element group is done. -/
def Hart.elemBusy (h : Hart) (r : Nat) : Bool :=
  h.queue.any fun e => !e.over && rangesShare e.writes [(r, 1)] &&
    !(e.ascending && decide (0 < e.start) && e.writes.any fun d => d.1 == r)

end Sys2Proof.Machine
end

