-- ==== Sys2Proof/Machine/LoadStore.lean ====
section
/-! DEFINITION. Scalar loads and stores (R225 to R228): majors 0x0B to 0x15. -/

namespace Sys2Proof.Machine

/-! ### Reaching a place -/

/-- What a scalar access meets once its probe has passed. -/
inductive Reach where
  /-- it traps, or waits; the state stands as it is left -/
  | ended (s : State)
  /-- an offset of the device window -/
  | window (off : Nat)
  /-- a host bus address -/
  | host (bus : Nat)
  /-- memory, through this slot word -/
  | memory (sw : SlotWord)

/-- The checks of a scalar access, and the wait for a held write that it overlaps (R227, R318). An access whose
answer has come passed its checks before it left. -/
def State.reach (s : State) (acc : Access) : Reach :=
  match (if s.hart.answer.isSome then .ok ⟨acc.idx, SlotWord.ofNat 0⟩ else s.probe s.ctx acc) with
  | .error d => .ended (s.accessFault d 0 acc.a)
  | .ok r =>
    match regionOf (s.canon acc.a) with
    | .window off => .window off
    | .host bus => .host bus
    | _ =>
      if s.hart.answer.isNone && s.ctx.world != 0 && acc.need != needWrite && acc.need != needAtomic && s.heldOver (s.key s.hart.core acc.a) acc.n then
        .ended (s.waitFor .retry)
      else .memory r.word

/-- The scalar fabric stream of the acting hart. -/
def State.scalarStream (s : State) : FabricStream := .scalar s.hart.ser

/-- One aligned access through a register: no host operation is refused. -/
def plainAccess (t : Option (BitVec 16)) (a n : Nat) (need : BitVec 4) : Access :=
  ⟨slotIndex t, a, n, n, need, true, true, false⟩

/-! ### The host (R396) -/

/-- The PCIe reads of `n` bytes at a host bus address, `size` bytes each (R228). -/
def hostReads (ser : BitVec 16) (bus n size : Nat) : List Outbound :=
  (List.range (n / size)).map fun i => .hostRead ser [(bus + i * size, size)]

/-- Completes accesses of `size` bytes to the host with the host's answer, or sends them out and waits; while a queued
instruction has accesses at the host it waits for those first. A failure, or an answer of another length, is the access
fault with detail 2 at the first access that the answer does not reach. -/
def State.hostAccess (s : State) (a n size : Nat) (os : List Outbound) (f : List Byte → State → State) : State :=
  match s.hart.answer with
  | some (ok, data) =>
    let t := s.mapHart fun h => { h with answer := none }
    if ok && data.length == n then f data t else t.accessFault 2 0 (a + data.length / size * size)
  | none => if s.hart.queueAsks then s.waitFor .retry else (os.foldl State.emit s).waitFor .host

/-! ### Reading and writing -/

/-- Performs the hart's pending stores where one of them overlaps `n` bytes at an address (R211: location order). -/
def State.seeStores (s : State) (a n : Nat) : State :=
  let meets (p : PendingStore) : Bool :=
    p.of s.hart.ser && decide (s.canon p.addr < s.canon a + n ∧ s.canon a < s.canon p.addr + p.data.length)
  if s.stores.any meets then s.drainStores s.hart.ser else s

/-- Reads `n` bytes at an address for the scalar side and goes on with them; nothing is done where the
access faults. -/
def State.scalarRead (s : State) (t : Option (BitVec 16)) (a n : Nat) (f : List Byte → State → State) : State :=
  let s := s.seeStores a n
  if s.hart.life ≠ .running then s
  else
  match s.reach (plainAccess t a n needRead) with
  | .ended u => u
  | .window off => f (Crypto.leBytes n (s.readWindow off)) s
  | .host bus => s.hostAccess a n n (hostReads s.hart.ser bus n n) f
  | .memory sw =>
    let u := (s.countAccess sw a n).beforeRead s.ctx s.scalarStream a n
    if u.hart.life ≠ .running then u
    else
      match u.readBytes u.ctx sw a n with
      | none => u.lineFault 0 a (u.badLine u.ctx sw a n)
      | some bs => f bs u

/-- Do the stores of the acting hart perform later than they execute (R211)? -/
def State.storesLate (s : State) : Bool := s.slow.contains s.hart.ser || s.stores.any (PendingStore.of s.hart.ser)

/-- A store has executed, and performs later. -/
def State.postpone (s : State) (sw : SlotWord) (a : Nat) (bs : List Byte) : State :=
  { s with stores := s.stores ++ [⟨s.ctx, sw, a, bs⟩] }

/-- Writes bytes at an address for the scalar side. -/
def State.scalarWrite (s : State) (t : Option (BitVec 16)) (a : Nat) (bs : List Byte) (f : State → State) : State :=
  match s.reach (plainAccess t a bs.length needWrite) with
  | .ended u => u
  | .window off =>
    f (if s.storesLate then s.postpone (SlotWord.ofNat 0) a bs else s.writeWindow off (BitVec.ofNat 64 (Crypto.leNat bs)))
  | .host bus => f (s.sendHost s.scalarStream s.ctx.op bus bs)
  | .memory sw =>
    if s.storesLate then f (s.postpone sw a bs)
    else
      let u := s.countWrite s.ctx sw a bs.length
      match u.writeBytes u.ctx u.scalarStream sw a bs with
      | none => u.lineFault 0 a (u.badLine u.ctx sw a bs.length)
      | some v => f v

/-- A loaded value extended to 64 bits (R228). -/
def extend (n : Nat) (signed : Bool) (bs : List Byte) : Word :=
  let v := Crypto.leNat bs
  if signed then BitVec.ofInt 64 (sintOf (8 * n) v) else BitVec.ofNat 64 v

/-- A scalar load of `n` bytes: the value is written untagged, and the record names xd (R228). -/
def load (n : Nat) (signed : Bool) (d a : BitVec 5) (i : BitVec 16) (s : State) : State :=
  s.scalarRead (s.hart.tagOf a) (scalarAddr s a i).toNat n fun bs t => t.writeBack d (extend n signed bs)

/-- A scalar store of the low `n` bytes of xd (R228). -/
def store (n : Nat) (d a : BitVec 5) (i : BitVec 16) (s : State) : State :=
  s.scalarWrite (s.hart.tagOf a) (scalarAddr s a i).toNat (Crypto.leBytes n (s.hart.xr d).toNat) fun t => t.retire none

/-! ### The instructions -/

/-- LB (R228). -/
def execLb (d a : BitVec 5) (i : BitVec 16) (s : State) : Out := .next (load 1 true d a i s)
/-- LBU (R228). -/
def execLbu (d a : BitVec 5) (i : BitVec 16) (s : State) : Out := .next (load 1 false d a i s)
/-- LH (R228). -/
def execLh (d a : BitVec 5) (i : BitVec 16) (s : State) : Out := .next (load 2 true d a i s)
/-- LHU (R228). -/
def execLhu (d a : BitVec 5) (i : BitVec 16) (s : State) : Out := .next (load 2 false d a i s)
/-- LW (R228). -/
def execLw (d a : BitVec 5) (i : BitVec 16) (s : State) : Out := .next (load 4 true d a i s)
/-- LWU (R228). -/
def execLwu (d a : BitVec 5) (i : BitVec 16) (s : State) : Out := .next (load 4 false d a i s)
/-- LD (R228). -/
def execLd (d a : BitVec 5) (i : BitVec 16) (s : State) : Out := .next (load 8 false d a i s)
/-- SB (R228). -/
def execSb (d a : BitVec 5) (i : BitVec 16) (s : State) : Out := .next (store 1 d a i s)
/-- SH (R228). -/
def execSh (d a : BitVec 5) (i : BitVec 16) (s : State) : Out := .next (store 2 d a i s)
/-- SW (R228). -/
def execSw (d a : BitVec 5) (i : BitVec 16) (s : State) : Out := .next (store 4 d a i s)
/-- SD (R228). -/
def execSd (d a : BitVec 5) (i : BitVec 16) (s : State) : Out := .next (store 8 d a i s)

end Sys2Proof.Machine
end

