-- ==== Sys2Proof/Machine/Atomics.lean ====
section
/-! DEFINITION. Atomics (R235): the atomic on one word of memory, shared with the vector atomics (R236), and
the scalar atomics of major 0x03. The scope of an atomic orders it (R222); it changes what the atomic does
only at a host window. -/

namespace Sys2Proof.Machine

/-- Does a host window take an atomic of `w` bits with this scope (R235, R236)? -/
def AmoOp.hostOk (op : AmoOp) (w : Nat) (scope : BitVec 3) : Bool := op.onHost && w == 64 && scope == 5

/-- One atomic on memory, as one read and at most one write (R235); none when the line fails its check.
A remote word is changed where it lies, after the earlier packets of the stream. -/
def State.atomicAt (s : State) (c : Ctx) (sw : SlotWord) (a n : Nat) (f : Nat → Option Nat) : Option (Nat × State) :=
  match s.readBytes c sw a n with
  | none => none
  | some bs =>
    let m := Crypto.leNat bs
    match f m with
    | none => some (m, s)
    | some v =>
      (s.commit ⟨s.key c.core a, Crypto.leBytes n v, sw.keyid, sw.version, a - sw.lo, c.world, sw.attr.toNat < 2,
        false⟩).map
        fun t => (m, t)

/-- Must an atomic wait because a held write overlaps its word only in part of it (R318)? -/
def State.holdsBack (s : State) (c : Ctx) (a n : Nat) : Bool :=
  c.world != 0 && (s.holder? c (s.key c.core a)).isNone && s.heldOver (s.key c.core a) n

/-- Has the slice that holds an atomic not answered it yet? -/
def State.amoHeld (s : State) (id : AmoId) : Bool := s.held.any fun h => h.amo.any fun q => q.who == some id

/-- The old word with which a slice has answered an atomic that it held. -/
def State.owedTo (s : State) (id : AmoId) : Option (List Byte) := (s.owed.find? fun p => p.1 == id).map Prod.snd

/-- The old word is taken. -/
def State.takeOwed (s : State) (id : AmoId) : State := { s with owed := s.owed.filter fun p => p.1 != id }

/-- What names the scalar atomic at pc. -/
def State.amoId (s : State) : AmoId := ⟨s.hart.ser, s.hart.pc, none⟩

/-- An atomic arrives at a slice that a forwarding entry in MODE 1 makes hold it (R318). -/
def State.holdAmo (s : State) (c : Ctx) (st : FabricStream) (sw : SlotWord) (e a n : Nat) (q : AmoReq) : State :=
  let w : MemWrite := ⟨s.key c.core a, List.replicate n 0, sw.keyid, sw.version, a - sw.lo, c.world, sw.attr.toNat < 2, false⟩
  { s with held := s.held ++ [⟨e, st, w, some q⟩] }

/-- A scalar atomic that no slice has taken yet. -/
def issueAtomic (op : AmoOp) (d a b : BitVec 5) (scope : BitVec 3) (s : State) : State :=
  let addr := (s.hart.xr a).toNat
  let x := (s.hart.xr b).toNat
  let y := (s.hart.xr d).toNat
  match s.reach ⟨slotIndex (s.hart.tagOf a), addr, 8, 8, needAtomic, true, op.hostOk 64 scope, false⟩ with
  | .ended u => u
  | .window _ => s.accessFault 7 0 addr
  | .host bus =>
    s.hostAccess addr 8 8 [.hostAtomic s.hart.ser op.code [(bus, BitVec.ofNat 64 x, BitVec.ofNat 64 y)]]
      fun bs t => t.writeBack d (extend 8 false bs)
  | .memory sw =>
    match s.holder? s.ctx (s.key s.hart.core addr) with
    | some e => (s.holdAmo s.ctx s.scalarStream sw e addr 8 ⟨op, true, x, y, some s.amoId⟩).waitFor .slice
    | none =>
    if s.holdsBack s.ctx addr 8 then s.waitFor .retry
    else
      let u := (s.countAccess sw addr 8).beforeRead s.ctx s.scalarStream addr 8
      if u.hart.life ≠ .running then u
      else
        match u.atomicAt u.ctx sw addr 8 (fun m => op.apply 64 true m x y) with
        | none => u.lineFault 0 addr (u.badLine u.ctx sw addr 8)
        | some (m, v) => v.writeBack d (BitVec.ofNat 64 m)

/-- A scalar atomic: x[xd] := the old word, untagged; the record names xd (R235). One that a forwarding entry holds waits
for its slice, which performs it once, and a stop does not recall it (R318, R373). -/
def atomic (op : AmoOp) (d a b : BitVec 5) (scope : BitVec 3) (s : State) : State :=
  match s.owedTo s.amoId with
  | some bs => (s.takeOwed s.amoId).writeBack d (extend 8 false bs)
  | none => if s.amoHeld s.amoId then s.waitFor .slice else issueAtomic op d a b scope s

/-- AMOADD (R235). -/
def execAmoadd (d a b : BitVec 5) (sc : BitVec 3) (s : State) : Out := .next (atomic .add d a b sc s)
/-- AMOMIN (R235). -/
def execAmomin (d a b : BitVec 5) (sc : BitVec 3) (s : State) : Out := .next (atomic .min d a b sc s)
/-- AMOMAX (R235). -/
def execAmomax (d a b : BitVec 5) (sc : BitVec 3) (s : State) : Out := .next (atomic .max d a b sc s)
/-- AMOAND (R235). -/
def execAmoand (d a b : BitVec 5) (sc : BitVec 3) (s : State) : Out := .next (atomic .and d a b sc s)
/-- AMOOR (R235). -/
def execAmoor (d a b : BitVec 5) (sc : BitVec 3) (s : State) : Out := .next (atomic .or d a b sc s)
/-- AMOXOR (R235). -/
def execAmoxor (d a b : BitVec 5) (sc : BitVec 3) (s : State) : Out := .next (atomic .xor d a b sc s)
/-- AMOSWAP (R235). -/
def execAmoswap (d a b : BitVec 5) (sc : BitVec 3) (s : State) : Out := .next (atomic .swap d a b sc s)
/-- AMOCAS (R235). -/
def execAmocas (d a b : BitVec 5) (sc : BitVec 3) (s : State) : Out := .next (atomic .cas d a b sc s)

end Sys2Proof.Machine
end

