-- ==== Sys2Proof/Machine/Slots.lean ====
section
/-! DEFINITION. The slot and pointer instructions (R312 to R316): major 0x34 but for its last two code
points. -/

namespace Sys2Proof.Machine

/-- LSLOT (R312): reads a slot word and forms a tagged pointer; only the index is checked. -/
def execLslot (d a : BitVec 5) (n : BitVec 6) (s : State) : Out :=
  let i := (s.hart.xr a + n.zeroExtend 64).toNat
  match s.slotLost s.hart.core s.ctx.table i with
  | some l => .next (s.accessFault (lostTable l) 0 i)
  | none =>
  match s.slotWord s.ctx.table i with
  | none => .next (s.accessFault 8 0 i)
  | some sw => .next (s.writeBack d (BitVec.ofNat 64 sw.lo) (some (BitVec.ofNat 16 i)))

/-- The answer of `pchk` (R313): 0 where the access would pass, else the failing detail. -/
def State.pchk (s : State) (t : Option (BitVec 16)) (a l : Nat) (need : BitVec 4) : Nat :=
  if l = 0 then 0
  else
    match s.probe s.ctx ⟨slotIndex t, a, l, 1, need, true, true, false⟩ with
    | .ok _ => 0
    | .error d => d

/-- PCHK (R313). A line of the slot table that cannot be read gives no answer but its fault (R385). -/
def execPchk (d a : BitVec 5) (n : BitVec 4) (s : State) : Out :=
  let r := s.pchk (s.hart.tagOf a) (s.hart.xr a).toNat (s.hart.xr d).toNat n
  .next (if r < 16 then s.writeBack d (BitVec.ofNat 64 r) else s.accessFault r 0 (s.hart.xr a).toNat)

/-- PTAG (R314). -/
def execPtag (d a : BitVec 5) (s : State) : Out :=
  .next (s.writeBack d
    (match s.hart.tagOf a with
     | some i => BitVec.ofNat 64 (2 ^ 16 + i.toNat)
     | none => 0))

/-- PSTRIP (R314). -/
def execPstrip (d a : BitVec 5) (s : State) : Out := .next (s.writeBack d (s.hart.xr a))

/-- One write of a slot word (R315): `f` gives the new word from the old one. A core whose slot cache holds the
old word may use it until the next `slotsync` (R307). `g` is what follows from the address and the old word. -/
def rpatch (d a : BitVec 5) (f : Nat → Nat) (g : Nat → Nat → State → State) (s : State) : State :=
  if !s.hart.world0 then s.privileged
  else if d.toNat % 2 = 1 || d = 0 then s.illegal
  else
    let addr := (s.hart.xr a).toNat
    match s.reach ⟨slotIndex (s.hart.tagOf a), addr, 16, 16, needAtomic, true, false, false⟩ with
    | .ended u => u
    | .window _ => s.accessFault 7 0 addr
    | .host _ => s.accessFault 4 0 addr
    | .memory sw =>
      let u := (s.countAccess sw addr 16).beforeRead s.ctx s.scalarStream addr 16
      if u.hart.life ≠ .running then u
      else
        match u.atomicAt u.ctx sw addr 16 (fun m => some (f m)) with
        | none => u.lineFault 0 addr (u.badLine u.ctx sw addr 16)
        | some (m, v) => (g addr m v).retire none

/-- The register after xd; xd is even and below 31. -/
def nextReg (d : BitVec 5) : BitVec 5 := d + 1

/-- RPATCH_WRITE (R315). -/
def execRpatchWrite (d a : BitVec 5) (s : State) : Out :=
  .next (rpatch d a (fun _ => (s.hart.xr d).toNat + (s.hart.xr (nextReg d)).toNat * 2 ^ 64) (fun _ _ t => t) s)

/-- The word that MOVE leaves: BASE and STATE from a register, GEN advanced (R315). -/
def movedWord (x : Word) (old : Nat) : Nat :=
  let w := SlotWord.ofNat old
  ({ w with
    base := BitVec.ofNat 46 (x.toNat / 64)
    state := BitVec.ofNat 2 (x.toNat / 16)
    gen := w.gen + 1 } : SlotWord).toNat

/-- The place to which a move of an extent takes a place. -/
def movedPlace (old : SlotWord) (lo k : Nat) : Nat :=
  if old.lo ≤ k ∧ k < old.lo + old.len.toNat then lo + (k - old.lo) else k

/-- What names a map by its place follows a move of the map's slot (R195, R320). -/
def State.moveMaps (s : State) (old : SlotWord) (lo : Nat) : State :=
  { s with
    copies := s.copies.map fun c => { c with map := movedPlace old lo c.map }
    tickets := s.tickets.map fun t =>
      match t.work with
      | .product p => { t with work := .product { p with map := movedPlace old lo p.map } }
      | .query _ => t }

/-- A captured slot word of a gang's table follows the move of the word that it was read from. -/
def State.moveRef (s : State) (table addr : Nat) (w : SlotWord) (r : SlotRef) : SlotRef :=
  if s.canon table + 64 + 16 * r.index = s.canon addr then { r with word := w } else r

/-- The spill slots and record slots of open worklists follow a move of their slots (R299; log entry 112). -/
def State.moveLists (s : State) (addr : Nat) (w : SlotWord) : State :=
  { s with
    gangs := s.gangs.map fun g =>
      let move := Option.map (s.moveRef (tabAddr g.table) addr w)
      { g with lists := g.lists.map fun l => { l with spill := move l.spill, rslot := move l.rslot } } }

/-- What the move of the slot word at an address takes along. -/
def moveCaptured (x : Word) (addr old : Nat) (s : State) : State :=
  let w := SlotWord.ofNat (movedWord x old)
  (s.moveMaps (SlotWord.ofNat old) w.lo).moveLists addr w

/-- RPATCH_MOVE (R315). -/
def execRpatchMove (d a : BitVec 5) (s : State) : Out :=
  .next (rpatch d a (movedWord (s.hart.xr d)) (moveCaptured (s.hart.xr d)) s)

/-- Every core lets its slot cache go, and no older word of a table stays in use (R307, R316). -/
def State.invalidateSlots (s : State) : State := { s with slotCache := [], slotPast := [] }

end Sys2Proof.Machine
end

