-- ==== Sys2Proof/Machine/System.lean ====
section
/-! DEFINITION. The system instructions of major 0x35 (R237, R316, R369, R378 to R381) and the control
registers (R368), each read and written under its own rule. -/

namespace Sys2Proof.Machine

/-! ### Matrix operand types and shapes (R160 to R162) -/

/-- The kind of a matrix operand type: true for floating, false for integer; none for every other. -/
def matrixKind (c : Nat) : Option Bool :=
  if [0x44, 0x34, 0x50, 0x51, 0x52, 0x53].contains c then some true
  else if [0x23, 0x13, 0x24, 0x14].contains c then some false
  else
    match ETy.ofCode c with
    | some (.bsint _) | some (.bsuint _) | some .bipolar => some false
    | _ => none

/-- Are two codes matrix operand types of one kind? -/
def sameKind (a b : Nat) : Bool := (matrixKind a).isSome && matrixKind a == matrixKind b

def shapeRows (v : Word) : Nat := v.toNat % 128
def shapeSteps (v : Word) : Nat := v.toNat / 2 ^ 8 % 256
def shapeB (v : Word) : Nat := v.toNat / 2 ^ 16 % 256
def shapeA (v : Word) : Nat := v.toNat / 2 ^ 24 % 256

/-- The value that a write leaves in TSHP (R161). -/
def shapeWritten (v : Word) : Word :=
  if v.msb || shapeRows v = 0 || 64 < shapeRows v || shapeSteps v = 0 || 128 < shapeSteps v ||
      !sameKind (shapeA v) (shapeB v) then vill
  else v &&& 0x00000000FFFFFF7F

/-! ### Values under a field layout -/

/-- SCHEDCFG after a write: a field outside its range keeps its old value (R270). -/
def schedWritten (old v : Word) : Word :=
  let pick (lo n a b : Nat) : Nat :=
    let x := v.toNat / 2 ^ lo % 2 ^ n
    (if a ≤ x ∧ x ≤ b then x else old.toNat / 2 ^ lo % 2 ^ n) * 2 ^ lo
  BitVec.ofNat 64 (pick 48 16 256 65535 + pick 32 16 1 65535 + pick 12 20 100 1000000 + pick 8 1 0 1 +
    pick 0 8 10 255)

def schedAgemax (v : Word) : Nat := v.toNat / 2 ^ 48 % 2 ^ 16
def schedImode (v : Word) : Nat := v.toNat / 2 ^ 8 % 2

/-- LPSHARE (R266). -/
def Hart.lpshare (h : Hart) : Nat := (if h.pv then 128 else 0) + h.pend.toNat * 16 + h.share.toNat

/-- A new CAP: the share pending is capped, and a CAP below SHARE makes a reduction pending (R266). -/
def Hart.setCap (h : Hart) (n : BitVec 3) : Hart :=
  if n = 1 ∨ n = 2 ∨ n = 4 then
    let h := { h with cap := n, pend := if h.pv ∧ n.toNat < h.pend.toNat then n else h.pend }
    if n.toNat < h.share.toNat ∧ ¬ (h.pv ∧ h.pend.toNat ≤ n.toNat) then { h with pv := true, pend := n } else h
  else h

def boolNat (b : Bool) : Nat := if b then 1 else 0

/-- TSTAT (R364). -/
def Hart.tstat (h : Hart) : Nat := boolNat h.ovf * 8 + boolNat h.ie * 4 + boolNat h.nest * 2 + boolNat h.hm

/-- VVIEW as it reads: the CSA of the viewed context (R376). -/
def Hart.vview (h : Hart) : Nat :=
  match h.view with
  | .own => if h.hm then h.csa.toNat / 64 * 64 else 0
  | .ctx a => a.toNat / 64 * 64

/-! ### The view of handler mode (R376) -/

/-- The context whose CSA is at an address. -/
def State.contextAt (s : State) (csa : BitVec 52) : Option Hart :=
  s.harts.find? fun h => h.alive && h.csa == csa

/-- Writes VLOC into a CSA as well as into the context (R370). -/
def State.putVloc (s : State) (csa : BitVec 52) (v : BitVec 8) : State :=
  { s with mem := Bytes.write s.mem (csa.toNat + 4) [v] }

/-- OP 1: views the context at ADDR, when its state is in lanes of this core and its hart does not run. -/
def State.viewAt (s : State) (a : BitVec 52) : State :=
  match s.contextAt a with
  | some h =>
    if h.core = s.hart.core ∧ h.vloc = 1 ∧ h.life ≠ .running then s.mapHart fun g => { g with view := .ctx a } else s
  | none => s

/-- OP 2: evicts the viewed context when it is not the trapping one. -/
def State.evict (s : State) : State :=
  match s.hart.view with
  | .own => s
  | .ctx a =>
    match s.contextAt a with
    | none => s
    | some h =>
      let t := s.updHart h.ser fun g => { (g.freshVector []) with vloc := 2 }
      (t.putVloc a 2).mapHart fun g => { g with view := .own }

/-- OP 3: installs the trapping context in free lane groups. -/
def State.install (s : State) : State :=
  let h := s.hart
  let gs := s.assign h.core h.ser h.share.toNat
  if h.vloc ≠ 1 ∧ gs.length = h.share.toNat ∧ gs.all (fun g => (s.holder h.core h.ser g).isNone) = true then
    (s.mapHart fun h => h.freshVector gs).putVloc h.csa 1
  else s

/-- A write of VVIEW; ignored outside handler mode. -/
def State.writeView (s : State) (v : Word) : State :=
  if !s.hart.hm then s
  else
    match v.toNat % 4 with
    | 0 => s.mapHart fun g => { g with view := .own }
    | 1 => s.viewAt (BitVec.ofNat 52 (v.toNat / 64 * 64))
    | 2 => s.evict
    | _ => s.install

/-! ### Reading and writing a control register (R368, R369) -/

/-- What the Access column allows. -/
inductive CrAccess where
  | none | zero | read | write
deriving DecidableEq, Repr

/-- The Access column of R368 for a hart that is, or is not, one of world 0. -/
def crAccess (c : Nat) (w0 : Bool) : CrAccess :=
  match c with
  | 0x001 | 0x004 | 0x008 | 0x009 | 0x010 | 0x011 | 0x012 => .write
  | 0x000 | 0x002 | 0x003 | 0x006 => if w0 then .write else .read
  | 0x005 | 0x007 | 0x00A | 0x020 | 0x021 | 0x022 | 0x023 => .read
  | 0x030 | 0x031 => if w0 then .write else .zero
  | 0x044 => if w0 then .read else .none
  | 0x013 | 0x032 | 0x040 | 0x041 | 0x042 | 0x043 | 0x045 | 0x046 | 0x047 | 0x048 => if w0 then .write else .none
  | _ => .none

/-- The value of a control register (R368). -/
def State.readCr (s : State) (c : Nat) : Word :=
  let h := s.hart
  match c with
  | 0x000 => h.vl.zeroExtend 64
  | 0x001 => h.vtype
  | 0x002 => h.vstart.zeroExtend 64
  | 0x003 => h.vlff.zeroExtend 64
  | 0x004 => h.tshp
  | 0x005 => BitVec.ofNat 64 h.lpshare
  | 0x006 => h.cap.zeroExtend 64
  | 0x007 => h.vcp
  | 0x008 => h.wcons
  | 0x009 => h.btctl
  | 0x00A => BitVec.ofNat 64 h.xrstat
  | 0x010 => h.fflags.zeroExtend 64
  | 0x011 => h.frm.zeroExtend 64
  | 0x012 => h.seed
  | 0x013 => h.pfx
  | 0x020 => h.hartid
  | 0x021 => h.gid.zeroExtend 64
  | 0x022 => h.rank.zeroExtend 64
  | 0x023 => h.wid.zeroExtend 64
  | 0x030 => h.slottab
  | 0x031 => h.ltab
  | 0x032 => s.schedcfg
  | 0x040 => h.tcause
  | 0x041 => h.tpc
  | 0x042 => h.tdetail
  | 0x043 => h.tval
  | 0x044 => h.tctx
  | 0x045 => BitVec.ofNat 64 h.tstat
  | 0x046 => s.hvec
  | 0x047 => s.htab
  | 0x048 => BitVec.ofNat 64 h.vview
  | _ => 0

/-- Address bits [51:6] of a table register. -/
def tabMask : Word := 0x000FFFFFFFFFFFC0

/-- Writes a control register under its own rule; reserved bits are ignored (R6). -/
def State.writeCr (s : State) (c : Nat) (v : Word) : State :=
  match c with
  | 0x000 => s.mapHart fun h => { h with vl := v.setWidth 20 }
  | 0x001 => s.mapHart fun h => { h with vtype := vtypeWritten v }
  | 0x002 => s.mapHart fun h => { h with vstart := v.setWidth 20 }
  | 0x003 => s.mapHart fun h => { h with vlff := v.setWidth 20 }
  | 0x004 => s.mapHart fun h => { h with tshp := shapeWritten v }
  | 0x006 => s.mapHart fun h => h.setCap (v.setWidth 3)
  | 0x008 => s.mapHart fun h => { h with wcons := v &&& 0xF000FFFFFFFFFFFF }
  | 0x009 => s.mapHart fun h => { h with btctl := v &&& 0xFFFFFFFFFFFFFF1F }
  | 0x010 => s.mapHart fun h => { h with fflags := v.setWidth 7 }
  | 0x011 => s.mapHart fun h => if v.toNat % 8 < 6 then { h with frm := v.setWidth 3 } else h
  | 0x012 => s.mapHart fun h => { h with seed := v }
  | 0x013 => s.mapHart fun h => { h with pfx := v &&& 0x00000000FFF03F00 }
  | 0x030 => s.mapHart fun h => { h with slottab := v &&& tabMask }
  | 0x031 => s.mapHart fun h => { h with ltab := v &&& tabMask }
  | 0x032 => { s with schedcfg := schedWritten s.schedcfg v }
  | 0x040 => s.mapHart fun h => { h with tcause := v &&& 0x800000000000FFFF }
  | 0x041 => s.mapHart fun h => { h with tpc := v }
  | 0x042 => s.mapHart fun h => { h with tdetail := v }
  | 0x043 => s.mapHart fun h => { h with tval := v }
  | 0x045 => s.mapHart fun h => { h with ie := v.getLsbD 2 }
  | 0x046 => { s with hvec := v &&& 0xFFFFFFFFFFFFFFFC }
  | 0x047 => { s with htab := v &&& tabMask }
  | 0x048 => s.writeView v
  | _ => s

/-- The instructions that write VLFF (R233). -/
def writesVlff (i : Instr) : Bool :=
  match i with
  | .vldff _ _ _ _ _ => true
  | .vqrd _ _ _ _ _ => true
  | _ => false

/-- Does a move of this register wait for older queued instructions (R104, R233)? -/
def Hart.moveWaits (h : Hart) (c : Nat) : Bool :=
  (c == 0x010 && !h.queue.isEmpty) || (c == 0x003 && h.queue.any fun e => writesVlff e.instr)

/-- `mfcr` (R369). -/
def readMove (x : BitVec 5) (c : BitVec 10) (s : State) : State :=
  match crAccess c.toNat s.hart.world0 with
  | .none => s.privileged (c.zeroExtend 64)
  | .zero => s.writeBack x 0
  | _ => if s.hart.moveWaits c.toNat then s.waitFor .retry else s.writeBack x (s.readCr c.toNat)

/-- `mtcr` (R369): a write that the Access column does not allow is privileged. -/
def writeMove (x : BitVec 5) (c : BitVec 10) (s : State) : State :=
  match crAccess c.toNat s.hart.world0 with
  | .write =>
    if s.hart.moveWaits c.toNat then s.waitFor .retry else (s.writeCr c.toNat (s.hart.xr x)).retire none
  | _ => s.privileged (c.zeroExtend 64)

/-- MTCR (R369). -/
def execMtcr (x : BitVec 5) (c : BitVec 10) (s : State) : Out := .next (writeMove x c s)

/-- MFCR (R369). -/
def execMfcr (x : BitVec 5) (c : BitVec 10) (s : State) : Out := .next (readMove x c s)

/-- VTYPE_WRITE (R136): `mtcr VTYPE, x`. -/
def execVtypeWrite (x : BitVec 5) (s : State) : Out := .next (writeMove x 0x001 s)

/-- TSHP_WRITE (R161): `mtcr TSHP, x`. -/
def execTshpWrite (x : BitVec 5) (s : State) : Out := .next (writeMove x 0x004 s)

/-- FRM_WRITE (R97): `mtcr FRM, x`. -/
def execFrmWrite (x : BitVec 5) (s : State) : Out := .next (writeMove x 0x011 s)

/-- FFLAGS_WRITE (R104): `mtcr FFLAGS, x`. -/
def execFflagsWrite (x : BitVec 5) (s : State) : Out := .next (writeMove x 0x010 s)

/-- FFLAGS_READ (R104): `mfcr x, FFLAGS`. -/
def execFflagsRead (x : BitVec 5) (s : State) : Out := .next (readMove x 0x010 s)

/-- VLFF_READ (R233): `mfcr x, VLFF`. -/
def execVlffRead (x : BitVec 5) (s : State) : Out := .next (readMove x 0x003 s)

/-- VLCAP_WRITE (R266): `mtcr VLCAP, x`. -/
def execVlcapWrite (x : BitVec 5) (s : State) : Out := .next (writeMove x 0x006 s)

/-- SCHEDCFG_WRITE (R270): `mtcr SCHEDCFG, x`. -/
def execSchedcfgWrite (x : BitVec 5) (s : State) : Out := .next (writeMove x 0x032 s)

/-- REGISTER_WRITE (R369): `mtcr` of a register that has no behaviour of its own. -/
def execRegisterWrite (x : BitVec 5) (c : BitVec 10) (s : State) : Out := .next (writeMove x c s)

/-- A write of VVIEW with an operation and an address, as `mtcr VVIEW` makes it: refused outside world 0,
ignored outside handler mode (R376). -/
def viewMove (v : Word) (s : State) : State :=
  if s.hart.world0 then (s.writeView v).retire none else s.privileged 0x048

/-- VVIEW_OWN (R376): OP 0. -/
def execVviewOwn (s : State) : Out := .next (viewMove 0 s)

/-- VVIEW_ADDR (R376): OP 1, with ADDR from a register. -/
def execVviewAddr (x : BitVec 5) (s : State) : Out :=
  .next (viewMove ((s.hart.xr x &&& tabMask) ||| 1) s)

/-- VVIEW_EVICT (R376): OP 2. -/
def execVviewEvict (s : State) : Out := .next (viewMove 2 s)

/-- VVIEW_INSTALL (R376): OP 3. -/
def execVviewInstall (s : State) : Out := .next (viewMove 3 s)

/-! ### Calls, returns and waits -/

/-- ECALL (R378): TPC is the next instruction, and the saved record names the register that `eret`
writes (R35). -/
def execEcall (d a : BitVec 5) (n : BitVec 6) (s : State) : Out :=
  .next
    (if s.hart.hostBusy then s.waitFor .retry
     else (s.retire (some d)).takeTrap 10 (BitVec.ofNat 64 (n.toNat + d.toNat * 256)) (s.hart.xr a))

/-- EBREAK (R378). -/
def execEbreak (n : BitVec 6) (s : State) : Out :=
  .next
    (if s.hart.hostBusy then s.waitFor .retry
     else (s.retire none).takeTrap 11 (BitVec.ofNat 64 n.toNat) 0)

/-- Is a pre-emption of a running hart due? A hold is carried out when the hart is pre-empted, which a domain slice of its
gang puts off (R273, R373). -/
def State.stopDue (s : State) (h : Hart) : Bool := h.preempt || (h.holdReq && !s.midSlice h)

/-- A hold or a pre-emption that was requested in handler mode takes effect at the `eret` that leaves it
(R363, R373). -/
def State.stopIfAsked (s : State) : State :=
  let h := s.hart
  if h.life = .running && !h.hm && s.stopDue h then s.switchOff (if h.holdReq then .held else .descheduled)
  else s

/-- ERET (R379). -/
def execEret (s : State) : Out :=
  .next
    (if !s.hart.world0 then s.privileged
     else if !s.hart.hm then s.illegal
     else if s.hart.hostBusy then s.waitFor .retry
     else
       let t := s.settle
       if t.hart.life ≠ .running then t else t.returnFromTrap.stopIfAsked)

/-- Has an event of R380 occurred for the hart? -/
def State.wakes (s : State) : Bool :=
  s.hart.event || (s.hart.wid == 0 && s.hart.ie && !s.events.isEmpty) || s.hart.preempt || s.hart.holdReq

/-- WFE (R380): 1 when an event has occurred since the last `wfe`, or where the device returns without one;
else the hart waits. -/
def execWfe (d a : BitVec 5) (s : State) : Out :=
  .next
    (if s.wakes || Config.wfeReturns s.tick then (s.mapHart fun h => { h with event := false }).writeBack d 1
     else s.waitFor (.wfe d a))

/-! ### Fences (R214, R237), `csync` (R381), `slotsync` (R316) -/

/-- Have the older events of the acting hart's scalar side performed, and, with `vs`, those of its vector
side? A store has performed when it is no longer pending, a remote write when its packet has; a held write has not
(R211, R214, R318). -/
def State.drained (s : State) (vs : Bool) : Bool :=
  let mine (st : FabricStream) : Bool := st == .scalar s.hart.ser || (vs && st == .vector s.hart.ser)
  !(s.packets.any fun p => mine p.stream) && !(s.held.any fun h => mine h.stream) &&
    !(s.stores.any (PendingStore.of s.hart.ser)) && (!vs || s.hart.queue.isEmpty)

/-- A fence: the hart waits until the before-set has performed. -/
def fence (vs : Bool) (s : State) : State := if s.drained vs then s.retire none else s.waitFor .fence

/-- FENCE (R237). -/
def execFence (s : State) : Out := .next (fence false s)

/-- FENCE_SV (R237). -/
def execFenceSv (s : State) : Out := .next (fence false s)

/-- FENCE_VS (R237). -/
def execFenceVs (s : State) : Out := .next (fence true s)

/-- FENCE_SV_VS (R237). -/
def execFenceSvVs (s : State) : Out := .next (fence true s)

/-- Does a line of an instruction cache overlap `l` bytes at an address? Every line does when `l` is 0 (R381). -/
def CachedLine.meets (e : CachedLine) (a l : Nat) : Bool := l == 0 || decide (e.line < a + l ∧ a < e.line + 64)

/-- Every core lets go of the lines of its instruction cache that a range of addresses overlaps (R381). -/
def State.dropCode (s : State) (a l : Nat) : State :=
  { s with icache := s.icache.filter fun e => !e.meets (s.key s.hart.core a) l }

/-- CSYNC (R381): as `fence.sv.vs`; then every instruction cache of the device lets go of the lines of x[xd] bytes
from x[xa], of every line where x[xd] is 0. -/
def execCsync (d a : BitVec 5) (s : State) : Out :=
  .next (if s.drained true then (s.dropCode (s.hart.xr a).toNat (s.hart.xr d).toNat).retire none else s.waitFor .retry)

/-- `slotsync` (R316). -/
def slotsync (s : State) : State :=
  if s.drained true then s.invalidateSlots.retire none else s.waitFor .slotsync

/-- SLOTSYNC (R316). -/
def execSlotsync (s : State) : Out := .next (s.ifWorld0 slotsync)

/-! ### Steps that end these waits -/

/-- Goes on as a hart on a front-end slot whose wait is of a given kind; nothing happens otherwise. -/
def State.resume (s : State) (ser : BitVec 16) (f : Wait → Option (State → State)) : State :=
  match s.findHart ser with
  | none => s
  | some h =>
    if h.life ≠ .running then s
    else
      match h.wait.bind f with
      | none => s
      | some g => s.asHart ser fun t => g (t.mapHart fun h => { h with wait := none })

/-- FENCE_DRAINED (R237); bit 1 of the fence's word is vs. -/
def execFenceDrained (ser : BitVec 16) (s : State) : Out :=
  .next (s.resume ser fun w =>
    match w with
    | .fence => some fun t => fence (t.hart.iw.getLsbD 1) t
    | _ => none)

/-- SLOTSYNC_COMPLETE (R316). -/
def execSlotsyncComplete (ser : BitVec 16) (s : State) : Out :=
  .next (s.resume ser fun w =>
    match w with
    | .slotsync => some slotsync
    | _ => none)

/-- WFE_TIMEOUT (R380): only for a `wfe` with a cycle count that is not 0. -/
def execWfeTimeout (ser : BitVec 16) (s : State) : Out :=
  .next (s.resume ser fun w =>
    match w with
    | .wfe d a => some fun t => if t.hart.xr a = 0 then t.waitFor (.wfe d a) else t.writeBack d 0
    | _ => none)

end Sys2Proof.Machine
end

