-- ==== Sys2Proof/Machine/Strip.lean ====
section
/-! DEFINITION. The strip and the lane share (R133, R139, R140, R265 to R267, R375): `svl` and `svl.w`. -/

namespace Sys2Proof.Machine

/-! ### Applying a pending share (R267, R375) -/

/-- The images of the hart at a new share (R159, R267). -/
def Hart.resize (h : Hart) (n : BitVec 3) : Hart :=
  let c := min h.c (imageBytes n)
  { h with
    vreg := h.vreg.map fun r => { r with img := Bytes.keep r.img c }
    kreg := h.kreg.map fun k => Bytes.keep k c
    tile := h.tile.map fun t => Bytes.keep t c
    share := n
    pv := false }

/-- Lane groups that a hart with state in lanes adds when its share grows: free ones first. -/
def State.growth (s : State) (k : Nat) : List (BitVec 2) :=
  ((s.assign s.hart.core s.hart.ser 4).filter fun g => !s.hart.groups.contains g).take k

/-- Applies the change of share that is pending, or gives the detail of the vector-switch trap with
nothing changed (R375). -/
def State.applyShare (s : State) : Except Word State :=
  let h := s.hart
  let n := h.pend
  if !h.pv then .ok s
  else if n = 0 then .ok (s.mapHart fun h => { h.resize 0 with vloc := 0, groups := [] })
  else if h.vloc = 1 then
    let add := s.growth (n.toNat - h.groups.length)
    if add.any fun g => (s.holder h.core h.ser g).isSome then .error (s.blocker h.core h.ser add)
    else .ok (s.mapHart fun h => { h.resize n with groups := (h.groups ++ add).take n.toNat })
  else
    let gs := s.assign h.core h.ser n.toNat
    if h.vloc = 0 && gs.length = n.toNat && gs.all fun g => (s.holder h.core h.ser g).isNone then
      .ok (s.mapHart fun h => { (h.freshVector gs) with share := n, pv := false })
    else .error (s.blocker h.core h.ser gs)

/-! ### `svl` (R139) -/

/-- Watermark `i` of the hart's gang (R247). -/
def State.watermark (s : State) (i : Nat) : Nat :=
  match s.gang s.hart.gid with
  | some g => (g.marks.toList.getD i 0).toNat
  | none => 0

/-- `svl` once no change is pending: VL and xd take the smaller of the request and VLMAX. -/
def setStrip (d a : BitVec 5) (s : State) : State :=
  let n := min (s.hart.xr a).toNat (vlmax s.hart.vtype s.hart.c)
  (s.mapHart fun h => { h with vl := BitVec.ofNat 20 n }).writeBack d (BitVec.ofNat 64 n)

def wconsWid (v : Word) : Nat := v.toNat / 2 ^ 60
def wconsPos (v : Word) : Nat := v.toNat % 2 ^ 48

/-- `svl.w` once no change is pending: it waits for the watermark, then advances WCONS. -/
def setStripWait (d a : BitVec 5) (s : State) : State :=
  let n := min (s.hart.xr a).toNat (vlmax s.hart.vtype s.hart.c)
  let bound := wconsPos s.hart.wcons + n
  if s.watermark (wconsWid s.hart.wcons) < bound then s.waitFor (.svlW d a)
  else
    setStrip d a (s.mapHart fun h =>
      { h with wcons := BitVec.ofNat 64 (wconsWid h.wcons * 2 ^ 60 + bound % 2 ^ 48) })

/-- Applies a pending share first. Older queued work runs on the old share, so the change waits for it. -/
def withShare (f : State → State) (s : State) : State :=
  if s.hart.pv && !s.hart.queue.isEmpty then s.waitFor .retry
  else
    match s.applyShare with
    | .error d => s.takeTrap 12 d 0
    | .ok t => f t

/-- SVL (R139). -/
def execSvl (d a : BitVec 5) (s : State) : Out := .next (withShare (setStrip d a) s)

/-- SVL_W (R139). -/
def execSvlW (d a : BitVec 5) (s : State) : Out := .next (withShare (setStripWait d a) s)

/-- SVL_W_PASS (R139): the watermark has reached the bound of a waiting `svl.w`. -/
def execSvlWPass (ser : BitVec 16) (s : State) : Out :=
  .next (s.resume ser fun w =>
    match w with
    | .svlW d a => some (withShare (setStripWait d a))
    | _ => none)

end Sys2Proof.Machine
end

