-- ==== Sys2Proof/Machine/Engine.lean ====
section
/-! DEFINITION. What the instructions that issue engine work share (R177 to R180): reading a structure,
probing an extent of a slot that a structure names, completion bits, and the reads and writes of an
engine. -/

namespace Sys2Proof.Machine

/-! ### Structures (step 2 of R177) -/

/-- Offsets of the 8-byte loads that read a structure. -/
def wordOffsets (n : Nat) : List Nat := (List.range ((n + 7) / 8)).map fun i => 8 * i

/-- What the instruction at pc has already read through a slot at an address. -/
def Hart.seenAt (h : Hart) (i a n : Nat) : Option (List Byte) :=
  (h.capture.bind fun c => c.seen.find? fun p => p.1 == (i, a) && p.2.length == n).map Prod.snd

/-- Keeps what the instruction at pc has read, so that a wait reads nothing twice. -/
def State.remember (s : State) (i a : Nat) (bs : List Byte) : State :=
  s.mapHart fun h => { h with capture := some (match h.capture with
    | some c => { c with seen := ((i, a), bs) :: c.seen }
    | none => ⟨[((i, a), bs)], none, none⟩) }

/-- Reads an `n`-byte structure at an address through a register, as aligned scalar loads of 8 bytes
(log entry 17), and goes on with its bytes. -/
def State.readStruct (s : State) (t : Option (BitVec 16)) (a n : Nat) (f : List Byte → State → State) : State :=
  match s.hart.seenAt (slotIndex t) a n with
  | some bs => f bs s
  | none =>
    let s := s.seeStores a n
    if s.hart.life ≠ .running then s
    else
    let probe (o : Nat) := s.probe s.ctx (plainAccess t (a + o) 8 needRead)
    match (if s.hart.answer.isSome then none else (wordOffsets n).find? fun o => (probe o).toOption.isNone) with
    | some o =>
      match probe o with
      | .error d => s.accessFault d 0 (a + o)
      | .ok _ => s
    | none =>
      match s.reach (plainAccess t a 8 needRead) with
      | .ended u => u
      | .window _ =>
        let bs := (wordOffsets n).flatMap fun o =>
          match regionOf (s.canon (a + o)) with
          | .window off => Crypto.leBytes 8 (s.readWindow off)
          | _ => []
        f bs (s.remember (slotIndex t) a bs)
      | .host bus => s.hostAccess a n 8 (hostReads s.hart.ser bus n 8) fun bs u => f bs (u.remember (slotIndex t) a bs)
      | .memory sw =>
        if s.ctx.world != 0 && s.heldOver (s.key s.hart.core a) n then s.waitFor .retry
        else
          let u := (s.countAccess sw a n).beforeRead s.ctx s.scalarStream a n
          if u.hart.life ≠ .running then u
          else
            match u.readBytes u.ctx sw a n with
            | none => u.lineFault 0 a (u.badLine u.ctx sw a n)
            | some bs => f bs (u.remember (slotIndex t) a bs)

/-- Number of `n` bytes at an offset of a structure. -/
def fieldAt (bs : List Byte) (o n : Nat) : Nat := numAt bs o n

/-- Are `n` bytes at an offset all zero? -/
def zeroAt (bs : List Byte) (o n : Nat) : Bool := ((bs.drop o).take n).all (· == 0)

/-- Reads a structure at an offset of a slot that another structure names. -/
def State.readNamed (s : State) (idx off n : Nat) (f : Nat → List Byte → State → State) : State :=
  match s.slotLost s.hart.core s.ctx.table idx with
  | some l => s.accessFault (lostTable l) 0 idx
  | none =>
  match s.slotWord s.ctx.table idx with
  | none => s.accessFault 8 0 idx
  | some sw => s.readStruct (some (BitVec.ofNat 16 idx)) (sw.lo + off) n (f (sw.lo + off))

/-! ### Extents (step 3 of R177) -/

/-- An extent of a slot named in a structure: slot, offset, bytes, size of its elements, alignment, need. -/
structure Span where
  idx  : Nat
  off  : Nat
  len  : Nat
  size : Nat
  align : Nat
  need : BitVec 4
deriving DecidableEq, Repr

/-- The failure of a probe: detail, element, value of TVAL. -/
structure ProbeFail where
  detail : Nat
  elem   : Nat
  val    : Nat
deriving DecidableEq, Repr

/-- The probe of `n` bytes at an address as the accesses of a vector of elements of `size` bytes, no plain
accesses: the slot word, or the least failing element with its own detail and address (R177, R229, R360). -/
def State.probeRange (s : State) (c : Ctx) (idx a n size align : Nat) (need : BitVec 4) (raw : Bool) :
    Except ProbeFail SlotRef :=
  let one (i : Nat) := s.probe c ⟨idx, a + i * size, size, align, need, false, true, raw⟩
  match s.probe c ⟨idx, a, n, align, need, false, true, raw⟩ with
  | .ok r => .ok r
  | .error d =>
    match leastFrom (fun i => (one i).toOption.isNone) 0 (n / size) with
    | none => .error ⟨d, 0, a⟩
    | some i =>
      match one i with
      | .error e => .error ⟨e, i, a + i * size⟩
      | .ok _ => .error ⟨d, 0, a⟩

/-- The probe of an extent: its slot word, read through the slot cache, and its address. An index
beyond LAST records the index (R311). -/
def State.probeExtent (s : State) (c : Ctx) (x : Span) : Except ProbeFail (SlotRef × Nat) :=
  match s.slotLost c.core c.table x.idx with
  | some l => .error ⟨lostTable l, 0, x.idx⟩
  | none =>
  match s.slotWordAt c.core c.table x.idx with
  | none => .error ⟨8, 0, x.idx⟩
  | some sw =>
    if x.len = 0 then .ok (⟨x.idx, sw⟩, sw.lo + x.off)
    else
      match s.probeRange c x.idx (sw.lo + x.off) x.len x.size x.align x.need false with
      | .ok r => .ok (r, sw.lo + x.off)
      | .error e => .error e

/-- Probes extents in order; the first that fails decides. -/
def State.probeAll (s : State) (c : Ctx) : List Span → Except ProbeFail (List (SlotRef × Nat))
  | [] => .ok []
  | x :: t =>
    match s.probeExtent c x, s.probeAll c t with
    | .error e, _ => .error e
    | .ok _, .error e => .error e
    | .ok r, .ok rs => .ok (r :: rs)

/-- The access fault of a failed probe. -/
def State.extentFault (s : State) (e : ProbeFail) : State := s.accessFault e.detail e.elem e.val

/-- Probes extents and goes on with their slot words and addresses. -/
def State.withExtents (s : State) (xs : List Span) (f : List (SlotRef × Nat) → State) : State :=
  match s.probeAll s.ctx xs with
  | .error e => s.extentFault e
  | .ok rs => f rs

/-- The lowest reason that holds, if any (R178). -/
def firstReason (l : List (Nat × Bool)) : Option Nat :=
  l.foldl (fun acc p => if p.2 then some (match acc with | some r => min r p.1 | none => p.1) else acc) none

/-- The malformed-structure fault when some reason holds; else goes on. -/
def State.checked (s : State) (addr : Nat) (l : List (Nat × Bool)) (f : State) : State :=
  match firstReason l with
  | some r => s.malformed r addr
  | none => f

/-- The elements of a vector in the order of their places, once every one has been read. -/
def VecCapture.bytes (v : VecCapture) : Option (List Byte) :=
  (List.range v.count).foldr (fun i acc =>
    match v.got.find? fun p => p.1 == i, acc with
    | some p, some t => some (p.2 ++ t)
    | _, _ => none) (some [])

/-- The acting hart begins to capture a vector element by element (R253). -/
def State.beginCapture (s : State) (r : SlotRef) (a n size : Nat) : State :=
  (s.mapHart fun h => { h with
    capture := some { (h.capture.getD ⟨[], none, none⟩) with vec := some ⟨r, a, size, n / size, []⟩ } }).waitFor .retry

/-- Reads elements of `size` bytes for the acting hart through a slot word whose probe has passed, as its scalar side
does; those at the host once their completions have come, one read for each (R228, R396). -/
def State.ownRead (s : State) (r : SlotRef) (a n size : Nat) (f : List Byte → State → State) : State :=
  if n = 0 then f [] s
  else
    match s.hart.seenAt r.index a n with
    | some bs => f bs s
    | none =>
      let s := s.seeStores a n
      if s.hart.life ≠ .running then s
      else
        match regionOf (s.canon a) with
        | .host bus => s.hostAccess a n size (hostReads s.hart.ser bus n size) fun bs t => f bs (t.remember r.index a bs)
        | _ =>
          if s.ctx.world != 0 && s.heldOver (s.key s.hart.core a) n then s.waitFor .retry
          else
            let u := (s.countAccess r.word a n).beforeRead s.ctx s.scalarStream a n
            if u.hart.life ≠ .running then u
            else
              match u.readBytes u.ctx r.word a n with
              | none => u.lineFault 0 a (u.badLine u.ctx r.word a n)
              | some bs => f bs u

/-- Does a hart capture a vector there element by element? -/
def State.slowCapture (s : State) (a : Nat) : Bool :=
  s.slow.contains s.hart.ser && (match regionOf (s.canon a) with
    | .host _ => false
    | _ => true)

/-- Captures a vector of elements of `size` bytes for the acting hart, through a slot word whose probe has passed:
scalar-side reads, one for each element and in no order (R177, R253). A hart whose captures are slow takes them
one at a time. -/
def State.captureVector (s : State) (r : SlotRef) (a n size : Nat) (f : List Byte → State → State) : State :=
  if n = 0 then f [] s
  else
    match s.hart.capture.bind Capture.vec with
    | some v =>
      match v.bytes with
      | some bs => if v.addr = a ∧ bs.length = n then f bs s else s.beginCapture r a n size
      | none => s.waitFor .retry
    | none =>
      if s.slowCapture a then
        let t := s.seeStores a n
        if t.hart.life ≠ .running then t else t.beginCapture r a n size
      else s.ownRead r a n size f

/-- One element of the vector that a hart is capturing is read. -/
def State.captureOne (s : State) (i : Nat) : State :=
  match s.hart.capture.bind Capture.vec with
  | none => s
  | some v =>
    let a := v.addr + i * v.size
    if v.count ≤ i || v.got.any (fun p => p.1 == i) || (s.ctx.world != 0 && s.heldOver (s.key s.hart.core a) v.size) then s
    else
      let u := (s.countAccess v.slot.word a v.size).beforeRead s.ctx s.scalarStream a v.size
      if u.hart.life ≠ .running then u
      else
        match u.readBytes u.ctx v.slot.word a v.size with
        | none => u.lineFault 0 a (u.badLine u.ctx v.slot.word a v.size)
        | some bs =>
          u.mapHart fun h => { h with capture := h.capture.map fun c => { c with vec := some { v with got := (i, bs) :: v.got } } }

/-- Writes bytes for the acting hart through a slot word whose probe has passed. -/
def State.ownWrite (s : State) (r : SlotRef) (a : Nat) (bs : List Byte) (f : State → State) : State :=
  let u := s.countWrite s.ctx r.word a bs.length
  match u.writeBytes u.ctx u.scalarStream r.word a bs with
  | none => u.lineFault 0 a (u.badLine u.ctx r.word a bs.length)
  | some v => f v

/-! ### Reads and writes of an engine (R181) -/

/-- Who an engine acts for: the issuing hart's world and core, with no table of its own. -/
def engineCtx (ser : BitVec 16) (wid : BitVec 10) (core : BitVec 8) : Ctx := ⟨ser, wid, core, 0, none, 0⟩

/-- Must a read of an engine wait: for a write that a forwarding entry holds (R318), or for an answer of the host, which it
asks again where one has failed (R396; log entry 11)? -/
def State.engineWaits (s : State) (c : Ctx) (a n : Nat) : Bool :=
  (c.world != 0 && s.heldOver (s.key c.core a) n) ||
    (match regionOf (s.canon a) with
      | .host _ => !Config.hostAnswers s.tick
      | _ => false)

/-- Does a forwarding entry hold a write of a stream (R318)? -/
def State.heldOf (s : State) (st : FabricStream) : Bool := s.held.any fun h => h.stream == st

/-- Does one hold a write of a stream to some of `n` bytes from an address? -/
def State.heldAt (s : State) (st : FabricStream) (c : Ctx) (a n : Nat) : Bool :=
  let k := s.key c.core a
  s.held.any fun h => h.stream == st && decide (h.wr.key < k + n ∧ k < h.wr.key + h.wr.data.length)

/-- Would a forwarding entry hold a write to some of the bytes, or does one hold a write that they overlap (R318)? -/
def State.wouldHold (s : State) (c : Ctx) (a n : Nat) : Bool :=
  let k := s.key c.core a
  c.world != 0 && (s.heldOver k n || s.fwd.toList.any fun e => e.mode == 1 &&
    decide (e.old.toNat * 64 < k + n ∧ k < e.old.toNat * 64 + e.len.toNat))

/-- Bytes that work in flight reads through a captured slot word, with the state as the reading leaves
it; none when a line fails its check. What the host answers to an engine is a free value. An awl unit or a search
engine reads so, since its reads are not counted (R206). -/
def State.nearRead (s : State) (c : Ctx) (st : FabricStream) (r : SlotRef) (a n : Nat) :
    Option (List Byte) × State :=
  if n = 0 then (some [], s)
  else
    match regionOf (s.canon a) with
    | .host bus =>
      (some ((List.range n).map fun i => Config.openByte s.tick (a + i)), s.emit (.hostRead c.ser [(bus, n)]))
    | _ =>
    let u := s.beforeRead c st a n
    (u.readBytes c r.word a n, u)

/-- The same from outside the base die, counted (R206). -/
def State.engineRead (s : State) (c : Ctx) (st : FabricStream) (r : SlotRef) (a n : Nat) :
    Option (List Byte) × State :=
  (s.countAccess r.word a n).nearRead c st r a n

/-- Bytes that work in flight writes through a captured slot word. -/
def State.engineWrite (s : State) (c : Ctx) (st : FabricStream) (r : SlotRef) (a : Nat) (bs : List Byte) :
    Option State :=
  (s.countWrite c r.word a bs.length).writeBytes c st r.word a bs

/-- What an engine has written to another device has performed before its completion is reported. -/
def State.arriveAt (s : State) (st : FabricStream) (a : Nat) : State :=
  match s.farDev a with
  | some d => s.flush st d
  | none => s

/-- The hart that a context names loses its work: a line of an engine access fails (R335). -/
def State.engineLoss (s : State) (c : Ctx) (r : SlotRef) (a n : Nat) : State :=
  s.lineLoss c.world c.ser (s.badLine c r.word a n)

/-! ### Predicates and the queue -/

/-- Waits for the older writers of a predicate (step 1 of R177). No event of R375 is among these instructions: the
predicate is where the context's vector state is, in lanes or not. -/
def State.afterPred (s : State) (k : BitVec 4) (f : State → State) : State :=
  if s.hart.predBusy k.toNat then s.waitFor .retry else f s

/-- Clears completion bits of a predicate (step 5 of R177). -/
def State.clearBits (s : State) (k : BitVec 4) (l : List Nat) : State :=
  s.mapHart fun h => l.foldl (fun g n => g.setBit k n false) h

/-- CBIT at or beyond 8 × C (reason 5). -/
def Hart.badBit (h : Hart) (n : Nat) : Bool := decide (8 * h.c ≤ n)

end Sys2Proof.Machine
end

