-- ==== Sys2Proof/Machine/Streams.lean ====
section
/-! DEFINITION. Streams, waits, watermarks, demotion and hints: `qbind`, `qrd`, `sbar`, `kwait`, `wmark`,
`chdemote` and `pref` (R238 to R241, R246 to R249), with the steps that end their waits. -/

namespace Sys2Proof.Machine

/-! ### Bindings (R238) -/

/-- Is an older `vqrd` of the stream in the queue? -/
def Hart.readsStream (h : Hart) (q : Nat) : Bool :=
  h.queue.any fun e =>
    match e.instr with
    | .vqrd _ _ _ x _ => x.toNat == q
    | _ => false

def Hart.stream (h : Hart) (q : BitVec 3) : Stream := h.streams[q.toNat]

def Hart.setStream (h : Hart) (q : BitVec 3) (v : Stream) : Hart :=
  { h with streams := h.streams.set q.toNat v q.isLt }

/-- Address of element `j` of a binding. -/
def elementAddr (base stride : Word) (j : Nat) : Nat := (base + stride * BitVec.ofNat 64 j).toNat

/-- The probe of the elements of a binding: the slot word, or the least element that fails. -/
def State.probeElements (s : State) (idx : Nat) (base stride : Word) (n e : Nat) : Except ProbeFail SlotRef :=
  let one (j : Nat) := s.probe s.ctx ⟨idx, elementAddr base stride j, e, 1, needRead, false, true, false⟩
  match leastFrom (fun j => (one j).toOption.isNone) 0 n with
  | some j =>
    match one j with
    | .error d => .error ⟨d, j, elementAddr base stride j⟩
    | .ok r => .ok r
  | none =>
    match one 0 with
    | .error d => .error ⟨d, 0, base.toNat⟩
    | .ok r => .ok r

/-- `qbind` once no older `vqrd` of the stream is queued. A misaligned stride is found before the elements are probed (log
entry 132). -/
def bindStream (q : BitVec 3) (a b : BitVec 5) (s : State) : State :=
  let base := s.hart.operand a
  let v := s.hart.xr b
  let n := v.toNat % 2 ^ 32
  let stride : Word := (v.extractLsb' 32 32).signExtend 64
  if n = 0 then (s.mapHart fun h => h.setStream q .unbound).retire none
  else
    match vtET s.hart.vtype with
    | none => s.illegal
    | some t =>
      if !t.byteWidth then s.illegal
      else
        let e := t.width / 8
        if base.val.toNat % e ≠ 0 then s.accessFault 1 0 base.val.toNat
        else if 2 ≤ n ∧ stride.toNat % e ≠ 0 then s.accessFault 1 1 (elementAddr base.val stride 1)
        else
          match s.probeElements (slotIndex base.tag) base.val stride n e with
          | .error f => s.extentFault f
          | .ok r =>
            (s.mapHart fun h => h.setStream q
              { bound := true
                wid := s.ctx.world
                base := base
                stride := stride
                extent := BitVec.ofNat 32 n
                et := BitVec.ofNat 8 (vtCode h.vtype)
                pos := 0
                ready := []
                failed := false
                slot := some r }).retire none

/-- QBIND (R238). -/
def execQbind (q : BitVec 3) (a b : BitVec 5) (s : State) : Out :=
  .next (if s.hart.readsStream q.toNat then s.waitFor .retry else bindStream q a b s)

/-! ### Fetching ahead -/

/-- Bytes that a stream may hold fetched (R238). -/
def Hart.staging (h : Hart) : Nat := if h.share = 0 then 1024 else h.c

/-- The element width of a binding, in bytes. -/
def Stream.size (q : Stream) : Nat :=
  match ETy.ofCode q.et.toNat with
  | some t => t.width / 8
  | none => 1

/-- The context for which a stream of a hart fetches. -/
def Hart.streamCtx (h : Hart) (q : Stream) : Ctx := ⟨h.ser, q.wid, h.core, tabAddr h.slottab, none, 0⟩

/-- The slot word for an element of a binding: the one that `qbind` captured, or, after a restore, the one that
the element's own probe finds in the hart's table (R240, R303). -/
def State.streamSlot (s : State) (c : Ctx) (q : Stream) (a : Nat) : Except Nat SlotRef :=
  match q.slot with
  | some r => .ok r
  | none => s.probe c ⟨slotIndex q.base.tag, a, q.size, 1, needRead, false, true, false⟩

/-- Fetches the next element of a stream of the acting hart, if there is room for it and its probe passes. -/
def fetchElement (q : BitVec 3) (s : State) : State :=
  let h := s.hart
  let b := h.stream q
  let e := b.size
  let j := b.pos.toNat + b.ready.length
  if !b.bound || b.extent.toNat ≤ j || h.staging < (b.ready.length + 1) * e then s
  else
    let a := elementAddr b.base.val b.stride j
    let c := h.streamCtx b
    match s.streamSlot c b a with
    | .error _ => s
    | .ok r =>
      if s.engineWaits c a e then
        (match regionOf (s.canon a) with
        | .host _ => s.mapHart fun g => g.setStream q { b with failed := b.ready.isEmpty }
        | _ => s)
      else
        match s.engineRead c (.vector h.ser) r a e with
        | (none, u) => u.engineLoss c r a e
        | (some bs, u) =>
          u.mapHart fun g => g.setStream q { b with ready := b.ready ++ [BitVec.ofNat 64 (Crypto.leNat bs)], failed := false }

/-- The failure, if any, of the element that a reader of a stream waits for, by its probe or at the host: the reader takes
the fault (R303, R322, R396; log entry 109). -/
def State.streamFail (s : State) (b : Stream) : Option (Nat × Nat × Nat) :=
  let a := elementAddr b.base.val b.stride b.pos.toNat
  match s.streamSlot (s.hart.streamCtx b) b a with
  | .error d => some (d, b.pos.toNat, a)
  | .ok _ => if b.failed then some (2, b.pos.toNat, a) else none

/-- The fault of a reader of a stream; the element is asked for again after it. -/
def State.streamElementFault (s : State) (q : BitVec 3) (f : Nat × Nat × Nat) : State :=
  (s.mapHart fun h => h.setStream q { (h.stream q) with failed := false }).accessFault f.1 f.2.1 f.2.2

/-- STREAM_FETCH (R238). -/
def execStreamFetch (ser : BitVec 16) (q : BitVec 3) (s : State) : Out :=
  .next (match s.findHart ser with
    | some h => if h.life = .running then s.asHart ser (fetchElement q) else s
    | none => s)

/-! ### Reading (R239) -/

/-- The stream-state fault (R360). -/
def State.streamFault (s : State) (q : Nat) : State := s.takeTrap 8 (BitVec.ofNat 64 q) 0

/-- An element as `qrd` writes it: extended by the signedness of the binding. -/
def extendElement (et : BitVec 8) (v : Word) : Word :=
  match ETy.ofCode et.toNat with
  | some (.sint w) => BitVec.ofInt 64 (sintOf w v.toNat)
  | _ => v

/-- `qrd` once no older `vqrd` of the stream is queued. -/
def readStream' (q : BitVec 3) (a : BitVec 5) (s : State) : State :=
  let b := s.hart.stream q
  if !b.bound || b.extent.toNat ≤ b.pos.toNat then s.streamFault q.toNat
  else
    match b.ready with
    | [] =>
      match s.streamFail b with
      | some f => s.streamElementFault q f
      | none => s.waitFor (.qrd q a)
    | v :: t =>
      (s.mapHart fun h => h.setStream q { b with pos := b.pos + 1, ready := t }).writeBack a
        (extendElement b.et v)

/-- QRD (R239). -/
def execQrd (q : BitVec 3) (a : BitVec 5) (s : State) : Out :=
  .next (if s.hart.readsStream q.toNat then s.waitFor .retry else readStream' q a s)

/-- QRD_RETURN (R239). -/
def execQrdReturn (ser : BitVec 16) (s : State) : Out :=
  .next (s.resume ser fun w =>
    match w with
    | .qrd q a => some (readStream' q a)
    | _ => none)

/-- SBAR (R241, R217): a read of this model performs as it starts, so what is left to wait for is the
hart's older writes. -/
def execSbar (a : BitVec 5) (s : State) : Out :=
  .next (if (s.hart.xr a).toNat % 512 = 0 || s.drained true then s.retire none else s.waitFor .retry)

/-! ### Waiting for completion bits (R246) -/

/-- Are `n` bits of a predicate from bit `lo` all 1? -/
def Hart.allSet (h : Hart) (k lo n : Nat) : Bool := (leastFrom (fun i => !h.kbit k i) lo n).isNone

/-- `kwait` once the older writers of the predicate have completed. -/
def awaitBits (a b : BitVec 5) (k : BitVec 4) (s : State) : State :=
  let lo := (s.hart.xr a).toNat
  let n := (s.hart.xr b).toNat
  if n = 0 then s.retire none
  else if 8 * s.hart.c < lo + n then s.malformed 5 0
  else if s.hart.allSet k.toNat lo n then s.retire none
  else s.waitFor (.kwait a b k)

/-- KWAIT (R246). -/
def execKwait (a b : BitVec 5) (k : BitVec 4) (s : State) : Out := .next (s.afterPred k (awaitBits a b k))

/-- KWAIT_RETURN (R246). -/
def execKwaitReturn (ser : BitVec 16) (s : State) : Out :=
  .next (s.resume ser fun w =>
    match w with
    | .kwait a b k => some fun t => t.afterPred k (awaitBits a b k)
    | _ => none)

/-! ### Watermarks (R247) -/

/-- Publishes a value to a watermark of a gang; it never decreases. The publication is an event of `wfe`
for every member (R380). -/
def State.publish (s : State) (gid : BitVec 32) (v : Word) : State :=
  let i := v.toNat / 2 ^ 60
  let n := v.setWidth 48
  let t := s.updGang gid fun g =>
    if h : i < 16 then { g with marks := g.marks.set i (if g.marks[i].ult n then n else g.marks[i]) h } else g
  let wake (h : Hart) : Hart := if h.gid = gid then { h with event := true } else h
  { t with hart := wake t.hart, others := t.others.map wake }

/-- `wmark`: waits until the hart's older events have performed. -/
def publishMark (a : BitVec 5) (s : State) : State :=
  if s.drained true then (s.publish s.hart.gid (s.hart.xr a)).retire none else s.waitFor (.wmark a)

/-- WMARK (R247). -/
def execWmark (a : BitVec 5) (s : State) : Out := .next (publishMark a s)

/-- WMARK_PUBLISH (R247). -/
def execWmarkPublish (ser : BitVec 16) (s : State) : Out :=
  .next (s.resume ser fun w =>
    match w with
    | .wmark a => some (publishMark a)
    | _ => none)

/-! ### Demotion and hints -/

/-- CHDEMOTE (R248): privileged; only time changes (R205). -/
def execChdemote (_a : BitVec 5) (s : State) : Out := .next (s.ifWorld0 fun t => t.retire none)

/-- PREF (R249): a hint; it never faults and changes no state. -/
def execPref (_a _b : BitVec 5) (s : State) : Out := .next (s.retire none)

end Sys2Proof.Machine
end

