-- ==== Sys2Proof/Machine/Transfers.lean ====
section
/-! DEFINITION. Block transfers (R242 to R245, R310): `btcopy`, `btgather` and the completion of a piece. -/

namespace Sys2Proof.Machine

def btRbytes (v : Word) : Nat := v.toNat / 2 ^ 32
def btBase (v : Word) : Nat := v.toNat / 2 ^ 12 % 2 ^ 20
def btChs (v : Word) : Nat := v.toNat / 2 ^ 8 % 16
def btIreg (v : Word) : Nat := v.toNat % 32

/-- The byte width of the ET of VTYPE, when it is a byte-width type. -/
def Hart.elemBytes (h : Hart) : Option Nat :=
  match vtET h.vtype with
  | some t => if t.byteWidth then some (t.width / 8) else none
  | none => none

/-- Do two ranges of `n` and `m` bytes share a byte where they lie? -/
def State.rangesMeet (s : State) (core : BitVec 8) (a n b m : Nat) : Bool :=
  let x := s.key core a
  let y := s.key core b
  decide (x < y + m ∧ y < x + n)

/-- Is some byte both a source and a destination byte (reason 9)? -/
def State.piecesMeet (s : State) (core : BitVec 8) (l : List Piece) : Bool :=
  l.any fun p => l.any fun q => s.rangesMeet core p.src p.len q.dst q.len

/-- Steps 4 to 6 of R177 for a job whose extents have passed: BASE, the overlap, the completion bits,
and the issue. `bits` is the number of pieces that report, `done` the bits set at issue. -/
def State.issueJob (s : State) (k : BitVec 4) (bits : Nat) (done : List Nat) (pieces : List Piece)
    (src dst : SlotRef) (raw : Bool) : State :=
  let h := s.hart
  let base := btBase h.btctl
  s.checked 0 [(5, decide (8 * h.c < base + bits)), (9, s.piecesMeet h.core pieces)]
    (let t := s.clearBits k ((List.range bits).map fun i => base + i)
     let t := t.mapHart fun g => done.foldl (fun g n => g.setBit k n true) g
     let t := if pieces.isEmpty then t else
       { t with jobs := t.jobs ++
          [{ ser := h.ser
             num := s.tick
             wid := s.ctx.world
             core := h.core
             kb := k
             pieces := pieces.map some
             src := src
             dst := dst
             raw := raw
             mute := false }] }
     t.retire none)

/-- The pieces of `n` bytes cut at `chunk` (R243). -/
def cutPieces (src dst chunk base n : Nat) : List Piece :=
  (List.range ((n + chunk - 1) / chunk)).map fun p =>
    ⟨src + p * chunk, dst + p * chunk, min chunk (n - p * chunk), base + p, false⟩

/-- Is a copy between two slots a raw copy (R310)? -/
def State.rawCopy (s : State) (i j : Nat) : Bool :=
  s.ctx.world == 0 &&
    (match s.slotWord s.ctx.table i, s.slotWord s.ctx.table j with
     | some x, some y => x.keyid == y.keyid && x.version == y.version
     | _, _ => false)

/-- The worse of two probes of one element range: the least failing element, the source first. -/
def firstFail (x y : Except ProbeFail SlotRef) : Except ProbeFail (SlotRef × SlotRef) :=
  match x, y with
  | .ok r, .ok w => .ok (r, w)
  | .error e, .ok _ => .error e
  | .ok _, .error e => .error e
  | .error e, .error f => .error (if f.elem < e.elem then f else e)

/-- `btcopy` once the older writers of kb have completed. -/
def copyBlock (a b : BitVec 5) (k : BitVec 4) (s : State) : State :=
  let h := s.hart
  let n := h.vl.toNat
  let chs := btChs h.btctl
  if n = 0 then s.retire none
  else
    match h.elemBytes with
    | none => s.malformed 1 0
    | some e =>
      if 9 < chs then s.malformed 1 0
      else
        let i := slotIndex (h.tagOf a)
        let j := slotIndex (h.tagOf b)
        let src := (h.xr a).toNat
        let dst := (h.xr b).toNat
        let raw := s.rawCopy i j
        match firstFail (s.probeRange s.ctx i src (n * e) e 1 needRead raw)
            (s.probeRange s.ctx j dst (n * e) e 1 needWrite raw) with
        | .error f => s.extentFault f
        | .ok (r, w) =>
          let pieces := cutPieces src dst (2 ^ (6 + chs)) (btBase h.btctl) (n * e)
          s.issueJob k pieces.length [] pieces r w raw

/-- BTCOPY (R243): L = 0 does nothing. -/
def execBtcopy (a b : BitVec 5) (k : BitVec 4) (s : State) : Out :=
  .next (if s.hart.vl = 0 then s.retire none else s.afterPred k (copyBlock a b k))

/-- The row requests of a `btgather` from its row numbers: the pieces, and the bits set at issue (R244). -/
def rowPieces (src dst : Word) (bytes base : Nat) : Nat → List Nat → List Piece × List Nat
  | _, [] => ([], [])
  | i, r :: t =>
    let (ps, ds) := rowPieces src dst bytes base (i + 1) t
    if r = 0xFFFFFFFF then (ps, (base + i) :: ds)
    else
      (⟨(src + BitVec.ofNat 64 (r * bytes)).toNat, (dst + BitVec.ofNat 64 (i * bytes)).toNat, bytes, base + i, false⟩ :: ps, ds)

/-- The probe of a row request: the source before the destination, at the element of its row. -/
def State.probePiece (s : State) (i j base : Nat) (p : Piece) : Except ProbeFail (SlotRef × SlotRef) :=
  let at' (f : ProbeFail) : ProbeFail := { f with elem := p.bit - base }
  match s.probeRange s.ctx i p.src p.len p.len 1 needRead false with
  | .error f => .error (at' f)
  | .ok r =>
    match s.probeRange s.ctx j p.dst p.len p.len 1 needWrite false with
    | .error f => .error (at' f)
    | .ok w => .ok (r, w)

/-- The probes of row requests in order of their elements. -/
def State.probePieces (s : State) (i j base : Nat) : List Piece → Except ProbeFail (Option (SlotRef × SlotRef))
  | [] => .ok none
  | p :: t =>
    match s.probePiece i j base p with
    | .error f => .error f
    | .ok r =>
      match s.probePieces i j base t with
      | .error f => .error f
      | .ok _ => .ok (some r)

/-- `btgather` once the older writers of kb and of IREG have completed. -/
def gatherRows (a b : BitVec 5) (k : BitVec 4) (s : State) : State :=
  let h := s.hart
  let n := h.vl.toNat
  let bytes := btRbytes h.btctl
  let base := btBase h.btctl
  if h.elemBytes.isNone || bytes % 8 ≠ 0 || bytes < 8 || 2 ^ 20 < bytes || h.c / 4 < n || 9 < btChs h.btctl then
    s.malformed 1 0
  else
    let rows := readElems h.vreg h.c (btIreg h.btctl) (.uint 32) 0 n
    let (pieces, done) := rowPieces (h.xr a) (h.xr b) bytes base 0 rows
    match s.probePieces (slotIndex (h.tagOf a)) (slotIndex (h.tagOf b)) base pieces with
    | .error f => s.extentFault f
    | .ok none => s.issueJob k n done [] ⟨0, .ofNat 0⟩ ⟨0, .ofNat 0⟩ false
    | .ok (some (r, w)) => s.issueJob k n done pieces r w false

/-- BTGATHER (R244): IREG is read once its older writers have completed. -/
def execBtgather (a b : BitVec 5) (k : BitVec 4) (s : State) : Out :=
  .next (if s.hart.regBusy (btIreg s.hart.btctl) then s.waitFor .retry else s.afterPred k (gatherRows a b k))

/-! ### Completing a piece (R245) -/

/-- Writes stored bytes of one line and a MAC as they are; a line with an error that cannot be corrected is good again
only once it is written whole (R385). -/
def State.putRaw (s : State) (p : Nat) (stored : List Byte) (mac : BitVec 32) : State :=
  { s.putLine p stored mac with lost := if stored.length = 64 then s.lost.filter fun l => l != p else s.lost }

/-- Copies stored bytes and line side-band from one place to another; a host window has no side-band (R310). A slice takes
lines of a destination that its slot lets it hold (R205). -/
def State.rawMove (s : State) (c : Ctx) (st : FabricStream) (cached : Bool) (src dst n : Nat) : State :=
  (linesOf dst n).foldl (fun t p =>
    let from' := t.forward (t.key c.core (src + (p.1 - dst)))
    let dest := t.forward (t.key c.core p.1)
    let t := (t.claimAll c.world from' p.2).claimAll c.world dest p.2
    let (bs, t) := match regionOf from' with
      | .host bus => ((List.range p.2).map fun i => Config.openByte t.tick (p.1 - dst + i), t.emit (.hostRead c.ser [(bus, p.2)]))
      | _ => (Bytes.read t.mem from' p.2, t)
    match regionOf dest with
    | .host bus => t.sendHost st 0 bus bs
    | _ =>
      let t := if cached && decide (dest < 2 ^ 52) then t.markDirty (dest / 64 * 64) 0 c.world else t
      t.putRaw dest bs (t.macOf (from' / 64 * 64))) s

/-- Has a line under `n` bytes at an address an error that cannot be corrected, where it is not written whole? -/
def State.lostPart (s : State) (c : Ctx) (whole : Bool) (a n : Nat) : Bool :=
  (linesOf a n).any fun b => !(whole && b.2 == 64) && s.lost.contains (s.forward (s.key c.core b.1) / 64 * 64)

/-- The stream of a job. -/
def Job.stream (j : Job) : FabricStream := .job j.ser j.num

/-- Carries out one piece for the context of its job; none when it must wait. -/
def State.movePiece (s : State) (j : Job) (p : Piece) : Option (Bool × State) :=
  let c := engineCtx j.ser j.wid j.core
  if s.engineWaits c p.src p.len then none
  else if j.raw && s.lostPart c false p.src p.len then some (false, s.engineLoss c j.src p.src p.len)
  else if j.raw && s.lostPart c true p.dst p.len then some (false, s.engineLoss c j.dst p.dst p.len)
  else if j.raw then
    some (true, ((s.countAccess j.src.word p.src p.len).countWrite c j.dst.word p.dst p.len).rawMove c j.stream
      (j.dst.word.attr.toNat < 2) p.src p.dst p.len)
  else
    match s.engineRead c j.stream j.src p.src p.len with
    | (none, u) => some (false, u.engineLoss c j.src p.src p.len)
    | (some bs, u) =>
      match u.engineWrite c j.stream j.dst p.dst bs with
      | none => some (false, u.engineLoss c j.dst p.dst p.len)
      | some v => some (true, v.arriveAt j.stream p.dst)

/-- Changes a job, or drops it. -/
def State.setJob (s : State) (j : Job) (f : Job → List Job) : State :=
  { s with jobs := s.jobs.flatMap fun x => if x.ser == j.ser && x.num == j.num then f x else [x] }

/-- What piece `k` of a job writes has left: its bit is set, unless the hart has exited (R279), once no forwarding entry
holds any of it (R245, R318). -/
def State.endPiece (s : State) (j : Job) (k : Nat) (p : Piece) : State :=
  if s.heldAt j.stream (engineCtx j.ser j.wid j.core) p.dst p.len then
    s.setJob j fun x => [{ x with pieces := x.pieces.set k (some { p with sent := true }) }]
  else
    let t := s.setJob j fun x =>
      let pieces := x.pieces.set k none
      if pieces.all Option.isNone then [] else [{ x with pieces := pieces }]
    if j.mute then t else t.completeBit j.ser j.kb p.bit

/-- BT_PIECE_COMPLETE (R245): piece `k` of the `n`-th job is copied. A job that meets a line that fails its check is
cancelled (R180; log entry 140). -/
def execBtPieceComplete (n k : Nat) (s : State) : Out :=
  .next (match s.jobs[n]? with
    | none => s
    | some j =>
      match j.pieces[k]? with
      | some (some p) =>
        if p.sent then s.endPiece j k p
        else
          match s.movePiece j p with
          | none => s
          | some (ok, t) => if ok then t.endPiece j k p else t.setJob j fun _ => []
      | _ => s)

end Sys2Proof.Machine
end

