-- ==== Sys2Proof/Machine/Search.lean ====
section
/-! DEFINITION. Stack search (R176 to R190): the reference search, the issue of a query, `nsstat`, and the
completion of shards and queries. -/

namespace Sys2Proof.Machine

/-! ### Elements, distances and their order (R184, R185) -/

/-- The exact value of an element of a type code. -/
def exactOf (et : Nat) (enc : Nat) : Ext :=
  match ETy.ofCode et with
  | some (.flt f) => f.decode enc
  | some t => .ofInt (t.intVal enc)
  | none => .nan

/-- Bytes of an element of a type code. -/
def codeBytes (et : Nat) : Nat :=
  match ETy.ofCode et with
  | some t => t.unitBytes
  | none => 1

/-- Encodings of `n`-byte elements. -/
def splitElems (n : Nat) (bs : List Byte) : List Nat :=
  (Crypto.chunks n (bs.length / n) bs).map Crypto.leNat

/-- Dist(q, x) (R184), an FP32 encoding; no flag is raised (R105). Each term keeps the sign of its zero, so that
a sum of zero terms alone may be −0 under METRIC 1 (log entry 110). -/
def distance (et metric : Nat) (q x : List Nat) : Nat :=
  (canonSum ((List.zip q x).map fun (a, b) =>
    let u := exactOf et a
    let v := exactOf et b
    let t := if metric = 0 then
        let d := (u.add .rne v.neg).1
        (d.mul d).1
      else (u.mul v).1.neg
    (t, true))).1

/-- Does the first precede the second in the order of R185? -/
def Near.before (a b : Near) : Bool :=
  let x := Fmt.fp32.decode a.1
  let y := Fmt.fp32.decode b.1
  if x.isNaN then y.isNaN && decide (a.2 < b.2)
  else
    match x.cmp y with
    | none => true
    | some .lt => true
    | some .eq => decide (a.2 < b.2)
    | some .gt => false

/-- Inserts into a list in the order of R185. -/
def Near.insert (a : Near) : List Near → List Near
  | [] => [a]
  | b :: t => if Near.before a b then a :: b :: t else b :: Near.insert a t

/-! ### The reference search (R186) -/

/-- A search in progress; `bad` is the first place whose line failed its check. -/
structure Searching where
  visited : List Nat
  cands   : List Near
  best    : List Near
  status  : Nat
  vcount  : Nat
  xcount  : Nat
  ended   : Bool
  bad     : Option (Nat × Nat)
deriving DecidableEq, Repr

/-- What a shard's engine reads: an address and a length give bytes. -/
abbrev Reader := Nat → Nat → Option (List Byte)

/-- The distance of a local node, as a member with its global identifier. -/
def Shard.member (h : Shard) (q : Query) (rd : Reader) (v : Nat) : Except (Nat × Nat) Near :=
  let n := q.dim * codeBytes q.etype.toNat
  let a := h.vaddr + v * h.vstride
  match rd a n with
  | none => .error (a, n)
  | some bs => .ok (distance q.etype.toNat q.metric q.q (splitElems (codeBytes q.etype.toNat) bs), h.idbase + v)

/-- One entry of a neighbour list. -/
def Shard.neighbour (h : Shard) (q : Query) (rd : Reader) (z : Searching) (v : Nat) : Searching :=
  if z.ended then z
  else if h.nodes ≤ v then { z with status := z.status ||| 2 }
  else if z.visited.contains v then z
  else if z.vcount = 16384 then { z with status := z.status ||| 1, ended := true }
  else
    match h.member q rd v with
    | .error e => { z with ended := true, bad := some e }
    | .ok p =>
      let z := { z with visited := v :: z.visited, vcount := z.vcount + 1 }
      let near := match z.best.getLast? with
        | some m => decide (z.best.length < q.ef) || Near.before p m
        | none => true
      if near then
        let best := Near.insert p z.best
        { z with
          cands := Near.insert p z.cands
          best := if q.ef < best.length then best.dropLast else best }
      else z

/-- The passes of the loop. -/
def Shard.passes (h : Shard) (q : Query) (rd : Reader) : Nat → Searching → Searching
  | 0, z => z
  | fuel + 1, z =>
    if z.ended then z
    else
      match z.cands with
      | [] => z
      | c :: rest =>
        let far := match z.best.getLast? with
          | some m => z.best.length == q.ef && Near.before m c
          | none => false
        if far then { z with cands := rest }
        else
          let z := { z with cands := rest, xcount := z.xcount + 1 }
          let a := h.aaddr + (c.2 - h.idbase) * h.astride
          match rd a 4 with
          | none => { z with ended := true, bad := some (a, 4) }
          | some nb =>
            let n := Crypto.leNat nb
            let z := if h.deg < n then { z with status := z.status ||| 2 } else z
            let n := min n h.deg
            match rd (a + 4) (4 * n) with
            | none => { z with ended := true, bad := some (a + 4, 4 * n) }
            | some l => h.passes q rd fuel ((splitElems 4 l).foldl (h.neighbour q rd) z)

/-- Search (R186): members, status, vcount and xcount; or the place whose line failed. -/
def Shard.search (h : Shard) (q : Query) (rd : Reader) : Except (Nat × Nat) (List Near × Nat × Nat × Nat) :=
  match h.member q rd h.entry with
  | .error e => .error e
  | .ok p =>
    let z := h.passes q rd 16400 ⟨[h.entry], [p], [p], 0, 1, 0, false, none⟩
    match z.bad with
    | some e => .error e
    | none => .ok (z.best.take q.k, z.status, z.vcount, z.xcount)

/-! ### The query packet and the shard descriptors (R182, R183) -/

/-- A shard descriptor with its stack and address. -/
structure Desc where
  stack : Nat
  addr  : Nat
  bytes : List Byte
deriving DecidableEq, Repr

def Desc.f (d : Desc) (o n : Nat) : Nat := fieldAt d.bytes o n
def Desc.et (d : Desc) : Nat := d.f 1 1
def Desc.dim (d : Desc) : Nat := d.f 4 2
def Desc.deg (d : Desc) : Nat := d.f 6 2
def Desc.nodes (d : Desc) : Nat := d.f 8 4
def Desc.idbase (d : Desc) : Nat := d.f 12 4

def searchTypes : List Nat := [0x35, 0x34, 0x44, 0x23]

/-- The fields of a descriptor from which extents are formed, or that must agree with the others. -/
def Desc.badExtent (d : Desc) (et dim : Nat) : Bool :=
  let w := codeBytes d.et
  zeroAt d.bytes 0 64 || !searchTypes.contains d.et || d.dim = 0 || 4096 < d.dim || d.deg = 0 || 256 < d.deg ||
    d.nodes = 0 || 2 ^ 24 < d.nodes || d.f 40 4 < d.dim * w || d.f 40 4 % w ≠ 0 ||
    d.f 44 4 < 4 * (d.deg + 1) || d.f 44 4 % 4 ≠ 0 || d.et ≠ et || d.dim ≠ dim

/-- The other fields of a descriptor (R182). -/
def Desc.badRest (d : Desc) (metric : Nat) : Bool :=
  d.f 0 1 ≠ 1 || 1 < d.f 2 1 || d.f 2 1 ≠ metric || d.f 3 1 ≠ 0 || d.nodes ≤ d.f 16 4 || !zeroAt d.bytes 48 16 ||
    0xFFFFFFFF < d.idbase + d.nodes

/-- Does an extent lie wholly in the populated part of a stack (R201)? -/
def State.inStack (s : State) (a n stack : Nat) : Bool :=
  match regionOf (s.canon a) with
  | .hbm k off => k == stack && decide (off + n ≤ stackBytes)
  | _ => false

/-- Does the identifier range of a descriptor reach too far, or overlap another's (reason 4)? -/
def Desc.badIds (d : Desc) (l : List Desc) : Bool :=
  decide (0xFFFFFFFF < d.idbase + d.nodes) ||
    l.any fun e => e.stack != d.stack && decide (d.idbase < e.idbase + e.nodes ∧ e.idbase < d.idbase + d.nodes)

/-- The malformed-structure fault of one of the descriptors that fail; which one is a free choice. -/
def State.badDesc (s : State) (reason : Nat) (l : List Desc) : State :=
  match l[Config.pickShard s.tick % max l.length 1]? with
  | some d => s.malformed reason d.addr
  | none => s.malformed reason 0

/-- Reads the descriptors of the selected shards, in order of their stacks. -/
def State.readDescs (s : State) (gslot : Nat) : List Nat → List Desc → (List Desc → State → State) → State
  | [], acc, f => f acc.reverse s
  | k :: t, acc, f =>
    s.readNamed gslot (64 * k) 64 fun a bs u => u.readDescs gslot t (⟨k, a, bs⟩ :: acc) f

/-- The shard of a descriptor in a query with the packet's entry. -/
def Desc.shard (d : Desc) (entry : Nat) (r : SlotRef) : Shard where
  stack := d.stack
  deg := d.deg
  nodes := d.nodes
  idbase := d.idbase
  entry := if d.idbase ≤ entry ∧ entry < d.idbase + d.nodes then entry - d.idbase else d.f 16 4
  slot := r
  vaddr := r.word.lo + d.f 24 8
  aaddr := r.word.lo + d.f 32 8
  vstride := d.f 40 4
  astride := d.f 44 4
  result := none

/-- Queries in flight in the engine of a stack: a query leaves it when its shard there is searched (R189; log
entry 111). -/
def State.engineLoad (s : State) (stack : Nat) : Nat :=
  (s.tickets.filter fun t => match t.work with
    | .query q => q.shards.any fun h => h.stack == stack && h.result.isNone
    | .product _ => false).length

/-- Step 7 of R177: the ticket is issued and its number written to xa. -/
def State.issueTicket (s : State) (a : BitVec 5) (k : BitVec 4) (cbit : Nat) (w : Work) : State :=
  let h := s.hart
  let n := h.issue + 1
  let t : Ticket :=
    { ser := h.ser, wid := s.ctx.world, core := h.core, num := n.toNat, kb := k, cbit := cbit, work := w, sent := false, mute := false }
  (({ s with tickets := s.tickets ++ [t] } : State).mapHart fun h => { h with issue := n }).writeBack a (n.zeroExtend 64)

/-- The extents of a query in the order in which they are probed: each shard's vectors and lists, the query vector,
the record (log entry 42). -/
def querySpans (p : List Byte) (ds : List Desc) (w dim : Nat) : List Span :=
  ds.flatMap (fun d =>
    [⟨d.f 20 4, d.f 24 8, (d.nodes - 1) * d.f 40 4 + dim * w, w, 1, needRead⟩,
     ⟨d.f 20 4, d.f 32 8, (d.nodes - 1) * d.f 44 4 + 4 * (d.deg + 1), 4, 1, needRead⟩]) ++
  (if fieldAt p 7 1 = 0 then [⟨fieldAt p 20 4, fieldAt p 24 8, dim * w, w, w, needRead⟩] else []) ++
  [⟨fieldAt p 32 4, fieldAt p 40 8, 32 + 8 * fieldAt p 6 1, 8, 1, needWrite⟩]

/-- Steps 5 to 7 of R177 for a query whose checks have passed. -/
def issueQuery (a : BitVec 5) (k : BitVec 4) (p : List Byte) (ds : List Desc) (rs : List (SlotRef × Nat))
    (s : State) : State :=
  let et := (ds.head?.map Desc.et).getD 0
  let dim := (ds.head?.map Desc.dim).getD 0
  let w := codeBytes et
  let cbit := fieldAt p 16 4
  let go (q : List Nat) (u : State) : State :=
    let u := u.clearBits k [cbit]
    if ds.any fun d => decide (512 ≤ u.engineLoad d.stack) then u.waitFor .retry
    else
      let shards := ds.zipIdx.map fun (d, i) => d.shard (fieldAt p 12 4) ((rs.getD (2 * i) (⟨0, .ofNat 0⟩, 0)).1)
      let (rslot, raddr) := rs.getLastD (⟨0, .ofNat 0⟩, 0)
      u.issueTicket a k cbit (.query
        { shards := shards
          mask := fieldAt p 4 2
          k := fieldAt p 6 1
          ef := fieldAt p 8 2
          etype := BitVec.ofNat 8 et
          metric := (ds.head?.map fun d => d.f 2 1).getD 0
          dim := dim
          q := q
          rslot := rslot
          raddr := raddr })
  if !s.drained false then s.waitFor .retry
  else if fieldAt p 7 1 = 1 then
    match ETy.ofCode et with
    | some t => go (readElems s.hart.vreg s.hart.c (fieldAt p 10 1) t 0 dim) s
    | none => s
  else
    let (qslot, qaddr) := rs.getD (2 * ds.length) (⟨0, .ofNat 0⟩, 0)
    s.captureVector qslot qaddr (dim * w) w fun bs u => go (splitElems w bs) u

/-- Steps 3 and 4 of R177 for a query, with its packet at an address. Descriptors that disagree are judged against
the first that is not empty, so that TVAL names one that differs from it (log entry 43). -/
def checkQuery (a : BitVec 5) (k : BitVec 4) (addr : Nat) (p : List Byte) (ds : List Desc) (s : State) : State :=
  let first := ds.find? fun d => !zeroAt d.bytes 0 64
  let et := (first.map Desc.et).getD 0x35
  let dim := (first.map Desc.dim).getD 0
  let metric := (first.map fun d => d.f 2 1).getD 0
  let w := codeBytes et
  let shards := fieldAt p 4 2
  let kk := fieldAt p 6 1
  let src := fieldAt p 7 1
  let ef := fieldAt p 8 2
  let entry := fieldAt p 12 4
  if 2 ^ 12 ≤ shards || shards = 0 || kk = 0 || 128 < kk || 1 < src || fieldAt p 40 8 % 8 ≠ 0 ||
      (src = 1 && decide (s.hart.c < dim * w)) then s.malformed 1 addr
  else if ds.any fun d => d.badExtent et dim then s.badDesc 2 (ds.filter fun d => d.badExtent et dim)
  else
    s.withExtents (querySpans p ds w dim) fun rs =>
      let outside := entry ≠ 0xFFFFFFFF && !ds.any fun d => decide (d.idbase ≤ entry ∧ entry < d.idbase + d.nodes)
      let astray := ds.zipIdx.filterMap fun (d, i) =>
        match rs[2 * i]? with
        | some (r, _) => if s.inStack r.word.lo r.word.len.toNat d.stack then none else some d
        | none => none
      if ef < kk || 512 < ef || (if src = 1 then decide (31 < fieldAt p 10 1) else fieldAt p 10 1 ≠ 0) ||
          fieldAt p 11 1 ≠ 0 || fieldAt p 36 4 ≠ 0 || !zeroAt p 48 16 || outside then s.malformed 1 addr
      else if ds.any fun d => d.badRest metric then s.badDesc 2 (ds.filter fun d => d.badRest metric)
      else if !astray.isEmpty then s.badDesc 3 astray
      else if ds.any fun d => d.badIds ds then s.badDesc 4 (ds.filter fun d => d.badIds ds)
      else if s.hart.badBit (fieldAt p 16 4) then s.malformed 5 addr
      else issueQuery a k p ds rs s

/-- `nsq` once the older writers of kb have completed: step 2 of R177. A query in a vector register waits
for its older writers. -/
def startQuery (a b : BitVec 5) (k : BitVec 4) (s : State) : State :=
  let addr := (s.hart.xr b).toNat
  if addr % 64 ≠ 0 then s.malformed 1 addr
  else
    s.readStruct (s.hart.tagOf b) addr 64 fun p u =>
      if fieldAt p 7 1 = 1 && u.hart.regBusy (fieldAt p 10 1) then u.waitFor .retry
      else
        let sel := (List.range 12).filter fun i => (fieldAt p 4 2).testBit i
        u.readDescs (fieldAt p 0 4) sel [] (checkQuery a k addr p)

/-- NSQ (R189). -/
def execNsq (a b : BitVec 5) (k : BitVec 4) (s : State) : Out := .next (s.afterPred k (startQuery a b k))

/-- NSSTAT (R190): 0 unknown, 1 in flight, 2 done or cancelled. -/
def execNsstat (a b : BitVec 5) (s : State) : Out :=
  let t := (s.hart.xr b).toNat
  let live := s.tickets.any fun k => k.ser == s.hart.ser && k.num == t && !k.mute
  .next (s.writeBack a (if t = 0 ∨ s.hart.issue.toNat < t then 0 else if live then 1 else 2))

/-! ### Completion (R180, R186 to R188) -/

/-- The context for which a ticket's engines act. -/
def Ticket.ctx (t : Ticket) : Ctx := engineCtx t.ser t.wid t.core

def Ticket.stream (t : Ticket) : FabricStream := .ticket t.ser t.num

/-- Replaces or drops one ticket. -/
def State.setTicket (s : State) (ser : BitVec 16) (n : Nat) (f : Ticket → List Ticket) : State :=
  { s with tickets := s.tickets.flatMap fun t => if t.ser == ser && t.num == n then f t else [t] }

/-- A line that a ticket reads or writes fails: its context is quarantined and it is cancelled (R180). -/
def State.loseTicket (s : State) (t : Ticket) (r : SlotRef) (a n : Nat) : State :=
  (s.engineLoss t.ctx r a n).setTicket t.ser t.num fun _ => []

/-- The ticket is done: its bit is set unless the hart has exited (R179, R279). -/
def State.finishTicket (s : State) (t : Ticket) : State :=
  let s := (s.arriveAt t.stream 0).setTicket t.ser t.num fun _ => []
  if t.mute then s else s.completeBit t.ser t.kb t.cbit

/-- What the ticket writes has left: it is done once no forwarding entry holds any of it (R318). -/
def State.endTicket (s : State) (t : Ticket) : State :=
  if s.heldOf t.stream then s.setTicket t.ser t.num fun t => [{ t with sent := true }] else s.finishTicket t

/-- Does a held write overlap what the shard's engine reads? -/
def State.shardHeld (s : State) (t : Ticket) (h : Shard) : Bool :=
  s.engineWaits t.ctx h.slot.word.lo h.slot.word.len.toNat

/-- Searches one shard of a query. -/
def State.searchShard (s : State) (t : Ticket) (q : Query) (k : Nat) : State :=
  match q.shards.find? fun h => h.stack == k && h.result.isNone with
  | none => s
  | some h =>
    if s.shardHeld t h then s
    else
      match h.search q (fun a n => if n = 0 then some [] else s.readBytes t.ctx h.slot.word a n) with
      | .error (a, n) => s.loseTicket t h.slot a n
      | .ok r =>
        s.setTicket t.ser t.num fun t =>
          [{ t with work := .query { q with shards := mapIf (fun h => h.stack == k) (fun h => { h with result := some r }) q.shards } }]

/-- SHARD_SEARCH_COMPLETE (R186). -/
def execShardSearchComplete (ser : BitVec 16) (t : Nat) (k : BitVec 4) (s : State) : Out :=
  .next (match s.tickets.find? fun x => x.ser == ser && x.num == t with
    | some x =>
      match x.work with
      | .query q => s.searchShard x q k.toNat
      | .product _ => s
    | none => s)

/-- The result record (R188). -/
def Query.record (q : Query) (ticket : Nat) : List Byte :=
  let rs := q.shards.filterMap fun h => h.result.map fun r => (h.stack, r)
  let all := rs.foldl (fun acc r => r.2.1.foldl (fun l p => Near.insert p l) acc) []
  let top := all.take q.k
  let le := Crypto.leBytes
  le 2 (rs.foldl (fun n r => n ||| r.2.2.1) 0) ++ le 2 top.length ++ le 2 q.mask ++
    le 2 ((rs.map fun r => if r.2.2.1 % 2 = 1 then 2 ^ r.1 else 0).sum) ++
    le 4 ((rs.map fun r => r.2.2.2.1).sum) ++ le 4 ((rs.map fun r => r.2.2.2.2).sum) ++ le 8 ticket ++ le 8 0 ++
    (List.range q.k).flatMap fun r =>
      match top[r]? with
      | some p => le 4 p.2 ++ le 4 p.1
      | none => le 4 0xFFFFFFFF ++ le 4 0x7FC00000

/-- Merges a query whose shards are all searched, writes its record and completes it (R187). -/
def State.mergeQuery (s : State) (t : Ticket) (q : Query) : State :=
  if q.shards.any fun h => h.result.isNone then s
  else if t.sent then s.endTicket t
  else
    let rec' := q.record t.num
    match s.engineWrite t.ctx t.stream q.rslot q.raddr rec' with
    | none => s.loseTicket t q.rslot q.raddr rec'.length
    | some u => (u.arriveAt t.stream q.raddr).endTicket t

/-- SEARCH_COMPLETE (R187). -/
def execSearchComplete (ser : BitVec 16) (t : Nat) (s : State) : Out :=
  .next (match s.tickets.find? fun x => x.ser == ser && x.num == t with
    | some x =>
      match x.work with
      | .query q => s.mergeQuery x q
      | .product _ => s
    | none => s)

end Sys2Proof.Machine
end

