-- ==== Sys2Proof/Machine/SplitProduct.lean ====
section
/-! DEFINITION. Split products (R191 to R197): the map block, `hcmv` and its completion, and the map
instructions `hcfire`, `hcage`, `hcrank` and `hccommit` with the background copy of hot rows. -/

namespace Sys2Proof.Machine

/-! ### The map block (R191, R192) -/

/-- A map block: its address, the slot it was reached through, its 64 bytes. -/
structure MapBlock where
  addr  : Nat
  idx   : Nat
  bytes : List Byte
deriving DecidableEq, Repr

def MapBlock.f (m : MapBlock) (o n : Nat) : Nat := fieldAt m.bytes o n
def MapBlock.et (m : MapBlock) : Nat := m.f 1 1
def MapBlock.cur (m : MapBlock) : Nat := m.f 2 1
def MapBlock.staged (m : MapBlock) : Nat := m.f 3 1
def MapBlock.rows (m : MapBlock) : Nat := m.f 4 4
def MapBlock.cols (m : MapBlock) : Nat := m.f 8 2
def MapBlock.hmax (m : MapBlock) : Nat := m.f 10 2
def MapBlock.rstride (m : MapBlock) : Nat := m.f 24 4
def MapBlock.gen (m : MapBlock) : Nat := m.f 28 4
/-- NHOT of a half. -/
def MapBlock.nhot (m : MapBlock) (g : Nat) : Nat := m.f (32 + 4 * g) 4
/-- Bytes of an element. -/
def MapBlock.w (m : MapBlock) : Nat := codeBytes m.et
/-- LB and HHALF (R192). -/
def MapBlock.lb (m : MapBlock) : Nat := 64 * ((4 * m.hmax + 63) / 64)
def MapBlock.hhalf (m : MapBlock) : Nat := m.lb + m.hmax * m.rstride

/-- Is a field from which extents are formed outside its range (step 3 of R177)? -/
def MapBlock.badExtent (m : MapBlock) : Bool :=
  !([0x44, 0x50, 0x51] : List Nat).contains m.et || m.rows = 0 || 2 ^ 20 < m.rows || m.cols = 0 || 16384 < m.cols ||
    m.rstride % 64 ≠ 0 || m.rstride < m.cols * m.w

/-- Is another field outside its range (step 4 of R177)? -/
def MapBlock.badRest (m : MapBlock) : Bool :=
  m.f 0 1 ≠ 1 || 1 < m.cur || 1 < m.staged || m.hmax < m.nhot 0 || m.hmax < m.nhot 1 || !zeroAt m.bytes 40 24

/-- The extents of a map: weights, counters, hot buffer. -/
def MapBlock.spans (m : MapBlock) : List Span :=
  [⟨m.f 12 4, 0, (m.rows - 1) * m.rstride + m.cols * m.w, m.w, 1, needRead⟩,
   ⟨m.f 16 4, 0, 2 * m.rows, 2, 1, 3⟩,
   ⟨m.f 20 4, 0, 2 * m.hhalf, 1, 1, 3⟩]

/-- The map block as its own extent, for the instructions that write it (R195). -/
def MapBlock.ownProbe (s : State) (m : MapBlock) : Except ProbeFail SlotRef :=
  s.probeRange s.ctx m.idx m.addr 64 8 1 3 false

/-- The slot and address at a place in a list of probed extents. -/
def spanAt (rs : List (SlotRef × Nat)) (i : Nat) : SlotRef × Nat := rs.getD i (⟨0, .ofNat 0⟩, 0)

/-- The place that names a map among the products and copies in flight. -/
def State.mapKey (s : State) (m : MapBlock) : Nat := s.key s.hart.core m.addr

/-- Do two places name one map, also while an entry forwards it (R318)? -/
def State.sameMap (s : State) (x y : Nat) : Bool := s.forward x == s.forward y

/-! ### The map order (R196) -/

/-- Is an event of the map under way that another hart has begun? -/
def State.mapTaken (s : State) (map : Nat) : Bool :=
  s.others.any fun h => h.alive && (h.capture.bind Capture.map).any fun k => s.sameMap k map

/-- An event of a map begins: from the reading of its block until the event has taken effect, events of other harts on that
map wait, so that it takes effect at one place of the map order (log entry 142). It ends with the instruction, or with a stop. -/
def State.beginMap (s : State) (map : Nat) (f : State → State) : State :=
  if s.mapTaken map then s.waitFor .retry
  else f (s.mapHart fun h => { h with capture := some { h.capture.getD ⟨[], none, none⟩ with map := some map } })

/-! ### `hcmv` (R193, R194) -/

/-- Products in flight on a map. -/
def State.products (s : State) (map : Nat) : List Product :=
  s.tickets.filterMap fun t => match t.work with
    | .product p => if s.sameMap p.map map then some p else none
    | .query _ => none

/-- Steps 5 to 7 of R177 for a product whose checks have passed. -/
def issueProduct (a : BitVec 5) (k : BitVec 4) (p : List Byte) (m : MapBlock) (rs : List (SlotRef × Nat))
    (s : State) : State :=
  let (wslot, waddr) := spanAt rs 0
  let (hslot, hbase) := spanAt rs 2
  let (xslot, xaddr) := spanAt rs 3
  let (yslot, yaddr) := spanAt rs 4
  let half := hbase + m.cur * m.hhalf
  if !s.drained false then s.waitFor .retry
  else
    s.ownRead hslot half (4 * m.nhot m.cur) 4 fun list s =>
      s.captureVector xslot xaddr (m.cols * m.w) m.w fun xs s =>
        let s := s.clearBits k [fieldAt p 12 4]
        if 64 ≤ (s.products (s.mapKey m)).length then s.waitFor .retry
        else
          s.issueTicket a k (fieldAt p 12 4) (.product
            { map := s.mapKey m
              half := m.cur
              hot := splitElems 4 list
              etype := BitVec.ofNat 8 m.et
              rows := m.rows
              cols := m.cols
              hmax := m.hmax
              rstride := m.rstride
              wslot := wslot
              hslot := hslot
              yslot := yslot
              waddr := waddr
              haddr := half + m.lb
              yaddr := yaddr
              x := splitElems m.w xs })

/-- Steps 3 and 4 of R177 for a product. -/
def checkProduct (a : BitVec 5) (k : BitVec 4) (addr : Nat) (p : List Byte) (m : MapBlock) (s : State) : State :=
  if fieldAt p 32 8 % 4 ≠ 0 then s.malformed 1 addr
  else if m.badExtent then s.malformed 6 m.addr
  else
    s.withExtents (m.spans ++
        [⟨fieldAt p 4 4, fieldAt p 24 8, m.cols * m.w, m.w, m.w, needRead⟩,
         ⟨fieldAt p 8 4, fieldAt p 32 8, 4 * m.rows, 4, 1, needWrite⟩]) fun rs =>
      if !zeroAt p 40 8 then s.malformed 1 addr
      else if s.hart.badBit (fieldAt p 12 4) then s.malformed 5 addr
      else if m.badRest then s.malformed 6 m.addr
      else issueProduct a k p m rs s

/-- Reads a map block that another structure names, after the check of its alignment. -/
def State.readMap (s : State) (idx off : Nat) (f : MapBlock → State → State) : State :=
  match s.slotLost s.hart.core s.ctx.table idx with
  | some l => s.accessFault (lostTable l) 0 idx
  | none =>
  match s.slotWord s.ctx.table idx with
  | none => s.accessFault 8 0 idx
  | some sw =>
    if (sw.lo + off) % 64 ≠ 0 then s.malformed 6 (sw.lo + off)
    else
      s.beginMap (s.key s.hart.core (sw.lo + off)) fun s =>
        s.readNamed idx off 64 fun a bs t => f ⟨a, idx, bs⟩ t

/-- `hcmv` once the older writers of kb have completed. -/
def startProduct (a b : BitVec 5) (k : BitVec 4) (s : State) : State :=
  let addr := (s.hart.xr b).toNat
  if addr % 16 ≠ 0 then s.malformed 1 addr
  else
    s.readStruct (s.hart.tagOf b) addr 48 fun p t =>
      t.readMap (fieldAt p 0 4) (fieldAt p 16 8) (checkProduct a k addr p)

/-- HCMV (R194). -/
def execHcmv (a b : BitVec 5) (k : BitVec 4) (s : State) : Out := .next (s.afterPred k (startProduct a b k))

/-! ### The map instructions (R195) -/

/-- Steps 2 to 4 of R177 for a map instruction: the map block through xa and its extents; the block itself
comes last in the list of the extents where the instruction writes it. -/
def withMap (a : BitVec 5) (write : Bool) (f : MapBlock → List (SlotRef × Nat) → State → State) (s : State) : State :=
  let addr := (s.hart.xr a).toNat
  if addr % 64 ≠ 0 then s.malformed 6 addr
  else
    s.beginMap (s.key s.hart.core addr) fun s =>
    s.readStruct (s.hart.tagOf a) addr 64 fun bs s =>
      let m : MapBlock := ⟨addr, slotIndex (s.hart.tagOf a), bs⟩
      if m.badExtent then s.malformed 6 addr
      else
        match (if write then (m.ownProbe s).map fun r => [(r, addr)] else .ok []) with
        | .error e => s.extentFault e
        | .ok own =>
          s.withExtents m.spans fun rs => if m.badRest then s.malformed 6 addr else f m (rs ++ own) s

/-- Do the bytes that a map instruction reads and writes wait for a forwarding entry (R318)? -/
def State.mapHeld (s : State) (a n : Nat) : Bool := n ≠ 0 && s.wouldHold s.ctx a n

/-- Reads 2-byte counters at addresses. -/
def State.readCounters (s : State) (r : SlotRef) : List Nat → List Nat → (List Nat → State → State) → State
  | [], acc, f => f acc.reverse s
  | a :: t, acc, f => s.ownRead r a 2 2 fun bs u => u.readCounters r t (Crypto.leNat bs :: acc) f

/-- Writes byte strings at addresses through one slot word, each complete before the next instruction. -/
def State.writeAll (s : State) (r : SlotRef) : List (Nat × List Byte) → (State → State) → State
  | [], f => f s
  | (a, bs) :: t, f => s.ownWrite r a bs fun u => (u.arriveAt u.scalarStream a).writeAll r t f

/-- The rows that `hcfire` names. -/
def Hart.firedRows (h : Hart) (b : BitVec 5) (k : BitVec 4) : List Nat :=
  ((List.range h.vl.toNat).filter fun i => h.kbit k.toNat i).map fun i => (h.xr b).toNat + i

/-- `hcfire` on a map: adds 1 to the counter of each row, saturating. -/
def fireRows (b : BitVec 5) (k : BitVec 4) (m : MapBlock) (rs : List (SlotRef × Nat)) (s : State) : State :=
  let rows := s.hart.firedRows b k
  let (cslot, base) := spanAt rs 1
  if rows.any fun r => decide (m.rows ≤ r) then s.malformed 7 0
  else if s.mapHeld base (2 * m.rows) then s.waitFor .retry
  else
    let places := rows.map fun r => base + 2 * r
    s.readCounters cslot places [] fun cs t =>
      t.writeAll cslot (places.zip (cs.map fun c => Crypto.leBytes 2 (min (c + 1) 0xFFFF))) fun u => u.retire none

/-- HCFIRE (R195). -/
def execHcfire (a b : BitVec 5) (k : BitVec 4) (s : State) : Out :=
  .next (s.afterPred k fun t => withMap a false (fireRows b k) t)

/-- `hcage` on a map: every counter is halved. -/
def ageRows (m : MapBlock) (rs : List (SlotRef × Nat)) (s : State) : State :=
  let (cslot, base) := spanAt rs 1
  if s.mapHeld base (2 * m.rows) then s.waitFor .retry
  else
    s.ownRead cslot base (2 * m.rows) 2 fun bs t =>
      t.writeAll cslot [(base, (splitElems 2 bs).flatMap fun c => Crypto.leBytes 2 (c / 2))] fun u => u.retire none

/-- HCAGE (R195). -/
def execHcage (a : BitVec 5) (s : State) : Out := .next (withMap a false ageRows s)

/-- Does row (counter, index) rank before another: the greater counter, then the lower index? -/
def ranksBefore (x y : Nat × Nat) : Bool := decide (y.1 < x.1 ∨ (x.1 = y.1 ∧ x.2 < y.2))

/-- The first `n` rows of the ranking of counters, in ascending order of their indices: a row is among
them when fewer than `n` rows rank before it. -/
def topRows (counters : List Nat) (n : Nat) : List Nat :=
  (counters.zipIdx.filter fun x =>
    decide ((counters.zipIdx.filter fun y => ranksBefore y x).length < n)).map Prod.snd

/-- Does a copy of hot rows run on a map? -/
def State.copying (s : State) (map : Nat) : Bool := s.copies.any fun c => s.sameMap c.map map

/-- `hcrank` on a map, once the counters are read: the list, NHOT and STAGED are written and the row copy
starts. -/
def stageRows (m : MapBlock) (rs : List (SlotRef × Nat)) (rows : List Nat) (s : State) : State :=
  let (wslot, waddr) := spanAt rs 0
  let (hslot, hbase) := spanAt rs 2
  let (mslot, addr) := spanAt rs 3
  let g := 1 - m.cur
  let half := hbase + g * m.hhalf
  s.writeAll hslot [(half, rows.flatMap (Crypto.leBytes 4))] fun t =>
    t.writeAll mslot [(addr + 32 + 4 * g, Crypto.leBytes 4 rows.length), (addr + 3, [1])] fun u =>
      let copy : HotCopy :=
        { map := u.mapKey m
          ser := u.hart.ser
          wid := u.ctx.world
          core := u.hart.core
          rows := rows
          waddr := waddr
          haddr := half + m.lb
          rstride := m.rstride
          bytes := m.cols * m.w
          wslot := wslot
          hslot := hslot
          sent := false }
      ({ u with copies := u.copies ++ [copy] } : State).retire none

/-- `hcrank` on a map. -/
def rankRows (b : BitVec 5) (m : MapBlock) (rs : List (SlotRef × Nat)) (s : State) : State :=
  let n := (s.hart.xr b).toNat
  let (cslot, base) := spanAt rs 1
  let g := 1 - m.cur
  let half := (spanAt rs 2).2 + g * m.hhalf
  if m.hmax < n || m.rows < n then s.malformed 8 0
  else if (s.products (s.mapKey m)).any (fun p => p.half == g) || s.copying (s.mapKey m) ||
      s.mapHeld base (2 * m.rows) || s.mapHeld half (4 * n) || s.mapHeld m.addr 64 then s.waitFor .retry
  else s.ownRead cslot base (2 * m.rows) 2 fun bs t => stageRows m rs (topRows (splitElems 2 bs) n) t

/-- HCRANK (R195). -/
def execHcrank (a b : BitVec 5) (s : State) : Out := .next (withMap a true (rankRows b) s)

/-- `hccommit` on a map. -/
def commitMap (m : MapBlock) (rs : List (SlotRef × Nat)) (s : State) : State :=
  let (mslot, addr) := spanAt rs 3
  if s.copying (s.mapKey m) || s.mapHeld addr 64 then s.waitFor .retry
  else if m.staged = 1 then
    s.writeAll mslot
      [(addr + 2, [BitVec.ofNat 8 (1 - m.cur), 0]), (addr + 28, Crypto.leBytes 4 (m.gen + 1))] fun t => t.retire none
  else s.retire none

/-- HCCOMMIT (R195). -/
def execHccommit (a : BitVec 5) (s : State) : Out := .next (withMap a true commitMap s)

/-! ### Completion -/

/-- Place of the bytes of row `i`: the hot copy where the captured list names the row. -/
def Product.rowAt (p : Product) (i : Nat) : SlotRef × Nat :=
  match p.hot.zipIdx.find? fun x => x.1 == i with
  | some (_, e) => (p.hslot, p.haddr + e * p.rstride)
  | none => (p.wslot, p.waddr + i * p.rstride)

/-- y[i] from the bytes of its row: the canonical sum of the exact products (R194). -/
def Product.dot (p : Product) (row : List Byte) : Nat :=
  let et := p.etype.toNat
  (canonSum ((List.zip (splitElems (codeBytes et) row) p.x).map fun (w, x) =>
    (((exactOf et w).mul (exactOf et x)).1, true))).1

/-- The bytes of y for the rows that are given, a cold row read by the awl unit of its stack and a hot one by a
compute die; or the slot and place whose line failed. -/
def State.computeRows (s : State) (t : Ticket) (p : Product) :
    List Nat → List Byte → Except (SlotRef × Nat × Nat) (List Byte) × State
  | [], ys => (.ok ys, s)
  | i :: l, ys =>
    let (r, a) := p.rowAt i
    let n := p.cols * codeBytes p.etype.toNat
    match (if p.hot.contains i then s.engineRead t.ctx t.stream r a n else s.nearRead t.ctx t.stream r a n) with
    | (none, u) => (.error (r, a, n), u)
    | (some row, u) => u.computeRows t p l (ys ++ Crypto.leBytes 4 (p.dot row))

/-- Must the product wait for what it reads? -/
def State.productHeld (s : State) (t : Ticket) (p : Product) : Bool :=
  s.engineWaits t.ctx p.wslot.word.lo p.wslot.word.len.toNat || s.engineWaits t.ctx p.hslot.word.lo p.hslot.word.len.toNat

/-- Computes and stores y, and completes the ticket. -/
def State.finishProduct (s : State) (t : Ticket) (p : Product) : State :=
  if t.sent then s.endTicket t
  else if s.productHeld t p then s
  else
    match s.computeRows t p (List.range p.rows) [] with
    | (.error (r, a, n), u) => u.loseTicket t r a n
    | (.ok ys, s) =>
      match s.engineWrite t.ctx t.stream p.yslot p.yaddr ys with
      | none => s.loseTicket t p.yslot p.yaddr ys.length
      | some u => (u.arriveAt t.stream p.yaddr).endTicket t

/-- SPLIT_PRODUCT_COMPLETE (R194). -/
def execSplitProductComplete (ser : BitVec 16) (t : Nat) (s : State) : Out :=
  .next (match s.tickets.find? fun x => x.ser == ser && x.num == t with
    | some x =>
      match x.work with
      | .product p => s.finishProduct x p
      | .query _ => s
    | none => s)

/-- The stream on which a background copy travels: an engine's, with a number that no ticket has (R176, R221). -/
def HotCopy.stream (c : HotCopy) : FabricStream := .ticket c.ser 0

def HotCopy.ctx (c : HotCopy) : Ctx := engineCtx c.ser c.wid c.core

/-- Copies hot rows from entry `e` on; a line that fails is lost to the hart that started the copy. -/
def State.copyRows (s : State) (c : HotCopy) : Nat → List Nat → State
  | _, [] => s
  | e, i :: t =>
    match s.engineRead c.ctx c.stream c.wslot (c.waddr + i * c.rstride) c.bytes with
    | (none, u) => u.engineLoss c.ctx c.wslot (c.waddr + i * c.rstride) c.bytes
    | (some bs, u) =>
      match u.engineWrite c.ctx c.stream c.hslot (c.haddr + e * c.rstride) bs with
      | none => u.engineLoss c.ctx c.hslot (c.haddr + e * c.rstride) c.bytes
      | some v => (v.arriveAt c.stream (c.haddr + e * c.rstride)).copyRows c (e + 1) t

/-- The rows of the `n`-th copy have left: it is finished once no forwarding entry holds any of them (R318). -/
def State.endCopy (s : State) (n : Nat) (c : HotCopy) : State :=
  if s.heldAt c.stream c.ctx c.haddr (c.rows.length * c.rstride) then
    { s with copies := s.copies.set n { c with sent := true } }
  else { s with copies := s.copies.eraseIdx n }

/-- HCRANK_COPY_DONE (R195): the `n`-th copy that runs is finished. -/
def execHcrankCopyDone (n : Nat) (s : State) : Out :=
  .next (match s.copies[n]? with
    | none => s
    | some c =>
      if c.sent then s.endCopy n c
      else if s.engineWaits c.ctx c.wslot.word.lo c.wslot.word.len.toNat then s
      else (s.copyRows c 0 c.rows).endCopy n c)

end Sys2Proof.Machine
end

