-- ==== Sys2Proof/Machine/Worklist.lean ====
section
/-! DEFINITION. Bucket worklists (R281 to R300): the six instructions of major 0x32, spilling, balancing
and the detection of DONE. -/

namespace Sys2Proof.Machine

/-! ### Finding and changing a worklist -/

def Gang.list (g : Gang) (w : Nat) : Option Worklist := g.lists.find? fun l => l.w == w

/-- Worklist `w` of a gang. -/
def State.listOf (s : State) (gid : BitVec 32) (w : Nat) : Option Worklist := (s.gang gid).bind fun g => g.list w

def State.updList (s : State) (gid : BitVec 32) (w : Nat) (f : Worklist → Worklist) : State :=
  s.updGang gid fun g => { g with lists := mapFirst (fun l => l.w == w) f g.lists }

/-- Goes on with worklist `w` of the acting hart's gang; reason 13 when it is not bound (R293). -/
def State.withList (s : State) (w addr : Nat) (f : Worklist → State → State) : State :=
  match s.listOf s.hart.gid w with
  | none => s.malformed 13 addr
  | some l => f l s

/-- The member index of this device in a gang. -/
def State.memberIdx (s : State) (g : Gang) : Nat := g.devs.findIdx (· == s.devIndex)

/-- F + Δ, the top of the window (R282). -/
def Worklist.top (l : Worklist) : Nat := l.floor + l.delta

/-- Is a task of a device inside the window? -/
def Worklist.inWindow (l : Worklist) (d : BitVec 8) (t : Task) : Bool := t.dev == d && decide (t.level ≤ l.top)

/-- Bytes of one member's spill part (R287). -/
def partBytes (slen devices : Nat) : Nat := slen / (64 * devices) * 64

/-! ### Opening (R283, R284, R294) -/

/-- Probes and reads the balancing record; a device worklist has none. -/
def State.readBalance (s : State) (desc : List Byte) (devices : Nat)
    (f : Nat → List Byte → List Word → State → State) : State :=
  if fieldAt desc 24 4 = 0xFFFFFFFF then f 0 [] [] s
  else
    s.readNamed (fieldAt desc 24 4) (fieldAt desc 32 8) 16 fun a head s =>
      let n := fieldAt head 4 4
      if fieldAt head 0 2 ≠ 2 || fieldAt head 2 2 ≠ devices || n = 0 || 4096 < n then s.malformed 12 a
      else
        s.readNamed (fieldAt desc 24 4) (fieldAt desc 32 8 + 16) (8 * n) fun _ bs s =>
          f a head ((splitElems 8 bs).map (BitVec.ofNat 64)) s

def stepFrom (v : Word) : Nat := v.toNat / 2 ^ 52 % 256
def stepTo (v : Word) : Nat := v.toNat / 2 ^ 44 % 256
def stepMax (v : Word) : Nat := v.toNat / 2 ^ 16 % 65536

/-- Does a step word break R284? -/
def badStep (devices : Nat) (v : Word) : Bool :=
  v.toNat / 2 ^ 60 ≠ 2 || devices ≤ stepFrom v || devices ≤ stepTo v || stepFrom v = stepTo v || stepMax v = 0 ||
    v.toNat / 2 ^ 32 % 2 ^ 12 ≠ 0 || v.toNat % 2 ^ 16 ≠ 0

/-- A slot word as `wlopen` captures it (R294). -/
def State.captureSlot (s : State) (i : Nat) : Option SlotRef := (s.slotWord s.ctx.table i).map fun w => ⟨i, w⟩

/-- Acts under R290 once every check has passed. -/
def openList (a : BitVec 5) (addr : Nat) (desc : List Byte) (spill : SlotRef) (record : List Word) (l : Worklist)
    (s : State) : State :=
  let w := l.w
  match l.state with
  | .closed =>
    (s.updList s.hart.gid w fun l =>
      { l with
        state := .opened
        desc := desc
        delta := fieldAt desc 1 1
        shift := fieldAt desc 2 1
        spill := some spill
        soff := fieldAt desc 8 8
        slen := fieldAt desc 16 8
        rslot := s.captureSlot (fieldAt desc 24 4)
        roff := fieldAt desc 32 8
        record := record
        floor := 0 }).writeBack a 0
  | .opened | .armed => if l.desc = desc then s.writeBack a 1 else s.malformed 14 addr
  | .done => if l.desc = desc then s.writeBack a 2 else s.malformed 14 addr

/-- The checks of `wlopen` on a descriptor that has been read, in the order of R294. Where a remaining field of the
descriptor and a step word both fail, TVAL names the descriptor (log entry 136). -/
def checkList (a : BitVec 5) (addr : Nat) (desc : List Byte) (g : Gang) (s : State) : State :=
  let n := g.devs.length
  let slot := fieldAt desc 4 4
  let soff := fieldAt desc 8 8
  let slen := fieldAt desc 16 8
  if soff % 64 ≠ 0 || slen % 64 ≠ 0 || slen < 64 * n || fieldAt desc 32 8 % 16 ≠ 0 ||
      (n ≤ 1 && fieldAt desc 24 4 ≠ 0xFFFFFFFF) then s.malformed 12 addr
  else
    let part := partBytes slen n
    s.withExtents ((List.range n).map fun m => ⟨slot, soff + m * part, part, 16, 1, 3⟩) fun rs =>
      s.readBalance desc n fun ra head record s =>
        if fieldAt desc 0 1 ≠ 1 || 63 < fieldAt desc 1 1 || 59 < fieldAt desc 2 1 || 15 < fieldAt desc 3 1 ||
            !zeroAt desc 28 4 || !zeroAt desc 40 24 then s.malformed 12 addr
        else if !zeroAt head 8 8 || record.any (badStep n) then s.malformed 12 ra
        else s.withList (fieldAt desc 3 1) addr (openList a addr desc (spanAt rs 0).1 record)

/-- WLOPEN (R294). A number of a worklist that the gang does not bind is refused before anything else (R293); one
above 15 names none and is a field of step 4. -/
def execWlopen (a b : BitVec 5) (s : State) : Out :=
  .next
    (let addr := (s.hart.xr b).toNat
     if addr % 64 ≠ 0 then s.malformed 12 addr
     else
       s.readStruct (s.hart.tagOf b) addr 64 fun desc s =>
         match s.gang s.hart.gid with
         | none => s.malformed 13 addr
         | some g =>
           if fieldAt desc 3 1 < 16 && (s.listOf s.hart.gid (fieldAt desc 3 1)).isNone then s.malformed 13 addr
           else checkList a addr desc g s)

/-! ### Spilling (R287) -/

/-- Task words that the units of the device hold. -/
def State.heldWords (s : State) : Nat :=
  (s.gangs.map fun g => (g.lists.map fun l =>
    (l.tasks.filter fun t => t.dev == s.devIndex && t.spilled.isNone).length).sum).sum

/-- Have the units room for one more task word? -/
def State.unitRoom (s : State) : Bool := decide (s.heldWords < 4 * 2 ^ 18)

/-- The bytes of a spill record: the layout is the device's own. -/
def Spill.bytes (r : Spill) : List Byte := (List.range 16).map fun i => Config.openByte r.key i

/-- Address of a place in this device's part of the spill region. -/
def State.spillAddr (s : State) (g : Gang) (l : Worklist) (slot : SlotRef) (place : Nat) : Nat :=
  slot.word.lo + l.soff + s.memberIdx g * partBytes l.slen g.devs.length + 16 * place

/-- The lowest free place of this device's part: the one that a spilled task takes (log entry 138). -/
def State.spillPlace (s : State) (g : Gang) (l : Worklist) : Option Nat :=
  let taken := l.tasks.filterMap fun t => if t.dev == s.devIndex then t.spilled.map Spill.place else none
  leastFrom (fun i => !taken.contains i) 0 (partBytes l.slen g.devs.length / 16)

/-- The context for which the device writes and reads the records of a gang's worklists. -/
def Gang.spillCtx (g : Gang) : Ctx := engineCtx 0 g.wid 0

/-- The fabric stream of a worklist's records. -/
def spillStream (g : Gang) (l : Worklist) : FabricStream := .list g.gid l.w

/-- Writes the record of a task: an error is the line that fails its check, or none when the part is full. -/
def State.spillTask (s : State) (g : Gang) (l : Worklist) : Except (Option Nat) (Spill × State) :=
  match l.spill, s.spillPlace g l with
  | some slot, some p =>
    let r : Spill := ⟨p, s.tick⟩
    let a := s.spillAddr g l slot p
    match s.engineWrite g.spillCtx (spillStream g l) slot a r.bytes with
    | some t => .ok (r, t)
    | none => .error (some (s.badLine g.spillCtx slot.word a 16))
  | _, _ => .error none

/-- Reads a record back, after what is on its way there: does it pass its check? None while a forwarding entry holds
its write (R318). -/
def State.readRecord (s : State) (g : Gang) (l : Worklist) (r : Spill) : Option (Bool × State) :=
  match l.spill with
  | none => some (false, s)
  | some slot =>
    let a := s.spillAddr g l slot r.place
    if s.engineWaits g.spillCtx a 16 then none
    else
      let u := s.beforeRead g.spillCtx (spillStream g l) a 16
      some (u.readBytes g.spillCtx slot.word a 16 == some r.bytes, u)

/-- Drops a task whose record fails its check: it counts as retired, and LOST is set. -/
def Worklist.dropTask (l : Worklist) (t : Task) : Worklist :=
  ({ l with tasks := l.tasks.erase t, retired := l.retired + 1, lost := true } : Worklist).refloor

/-- Queues a task on this device, in the units or as a spill record; an error is a failing line, or none when it must
wait for room. -/
def State.queueTask (s : State) (g : Gang) (l : Worklist) (word : Word) (level floor : Nat) :
    Except (Option Nat) (Task × State) :=
  if decide (floor + 64 ≤ level) || !s.unitRoom then
    (s.spillTask g l).map fun (r, t) => (⟨word, level, s.devIndex, some r⟩, t)
  else .ok (⟨word, level, s.devIndex, none⟩, s)

/-- A task that has come to lie 64 or more levels above F is spilled while the part has room; where the line of its
record fails its check, that is reported and it stays (log entry 113). -/
def State.spillFar (s : State) (gid : BitVec 32) (w : Nat) (t : Task) : State :=
  match s.gang gid, s.listOf gid w with
  | some g, some l =>
    if t.dev == s.devIndex && t.spilled.isNone && decide (l.floor + 64 ≤ t.level) then
      match s.spillTask g l with
      | .ok (r, u) =>
        u.updList gid w fun l => { l with tasks := mapFirst (· == t) (fun t => { t with spilled := some r }) l.tasks }
      | .error (some line) => s.lineReport line
      | .error none => s
    else s
  | _, _ => s

/-! ### Pushing (R295) -/

/-- The number of the worklist, and the priority, in an operand (R293). -/
def wlNum (v : Word) : Nat := v.toNat % 16
def wlPrio (v : Word) : Nat := v.toNat / 16

/-- F once a task of a level is queued (R282). -/
def Worklist.floorWith (l : Worklist) (level : Nat) : Nat :=
  if l.tasks.isEmpty && l.tokens.isEmpty then level else min l.floor level

/-- A task is queued: the worklist is armed, the push counts, and F falls to its level at most (R282, R289, R290). -/
def Worklist.queue (l : Worklist) (t : Task) : Worklist :=
  { l with state := .armed, tasks := l.tasks ++ [t], pushes := l.pushes + 1, floor := l.floorWith t.level }

/-- Queues the task, arms the worklist and lowers F (R282, R290). A spill record whose line fails its check is a line
that the pushing hart's access filled (R335). -/
def pushTask (a b : BitVec 5) (g : Gang) (l : Worklist) (s : State) : State :=
  let level := wlPrio (s.hart.xr b) / 2 ^ l.shift
  match s.queueTask g l (s.hart.xr a) level (l.floorWith level) with
  | .error none => (s.updList g.gid l.w fun l => { l with sfull := true }).waitFor .retry
  | .error (some line) => s.lineFault 0 line line
  | .ok (t, u) =>
    let v := u.updList g.gid l.w fun l => l.queue t
    (l.tasks.foldl (fun x t => x.spillFar g.gid l.w t) v).retire none

/-- `wlpush` on a bound worklist. -/
def pushList (a b : BitVec 5) (l : Worklist) (s : State) : State :=
  if !s.drained false then s.waitFor .retry
  else
    match l.state, s.gang s.hart.gid with
    | .closed, _ => s.waitFor .retry
    | .done, _ => s.malformed 16 0
    | _, some g => pushTask a b g l s
    | _, none => s

/-- WLPUSH (R295). -/
def execWlpush (a b : BitVec 5) (s : State) : Out :=
  .next (s.withList (wlNum (s.hart.xr b)) 0 (pushList a b))

/-! ### Popping (R296) -/

/-- A task is taken under a new token of a hart of its device (R282, R291). The serials of a worklist are 1, 2, 3 and so
on (log entry 135). -/
def Worklist.take (l : Worklist) (t : Task) (owner : BitVec 16) : Worklist :=
  { l with
    tasks := l.tasks.erase t
    tokens := l.tokens ++ [⟨l.serial + 1, t.level, owner, t.dev⟩]
    serial := l.serial + 1 }

/-- Gives a task of the window to the acting hart with a new token. -/
def State.takeTask (s : State) (a b : BitVec 5) (gid : BitVec 32) (l : Worklist) (t : Task) : State :=
  let n := l.serial + 1
  let u := s.updList gid l.w fun l => l.take t s.hart.ser
  ((u.setX a t.word none).setX b (BitVec.ofNat 64 (n * 16 + l.w)) none).retire none

/-- What a pop finds: a task, which it takes, or no task of the window that it can take. -/
inductive Popped where
  | taken | empty
deriving DecidableEq, Repr

/-- Takes a task of the window of this device; a spilled one whose record fails its check is dropped, and
another is taken; one whose record cannot be read yet is passed over. -/
def State.popTask (s : State) (a b : BitVec 5) (gid : BitVec 32) (w : Nat) : Nat → List Task → State × Popped
  | 0, _ => (s, .empty)
  | fuel + 1, passed =>
    match s.gang gid, s.listOf gid w with
    | some g, some l =>
      let window := l.tasks.filter fun t => l.inWindow s.devIndex t && !passed.contains t
      match window[Config.pickTask s.tick % max window.length 1]? with
      | none => (s, .empty)
      | some t =>
        match t.spilled with
        | none => (s.takeTask a b gid l t, .taken)
        | some r =>
          match s.readRecord g l r with
          | none => s.popTask a b gid w fuel (t :: passed)
          | some (true, u) => (u.takeTask a b gid l t, .taken)
          | some (false, u) => (u.updList gid w fun l => l.dropTask t).popTask a b gid w fuel passed
    | _, _ => (s, .empty)

/-- `wlpop` on a bound worklist. -/
def popList (a b : BitVec 5) (l : Worklist) (s : State) : State :=
  let two (st : Word) (s : State) : State := ((s.setX a 0 none).setX b st none).retire none
  let idle (s : State) : State := if (s.hart.xr b).getLsbD 4 then two 1 s else s.waitFor (.wlpop a b)
  match l.state with
  | .done => two 0 s
  | .closed | .opened => idle s
  | .armed =>
    match s.popTask a b s.hart.gid l.w (l.tasks.length + 1) [] with
    | (t, .taken) => t
    | (t, .empty) => idle t

/-- WLPOP (R296): xb = x0 and xa = xb are illegal (R293). -/
def execWlpop (a b : BitVec 5) (s : State) : Out :=
  .next (if b = 0 || a = b then s.illegal else s.withList (wlNum (s.hart.xr b)) 0 (popList a b))

/-- WLPOP_RETURN (R296): a waiting pop takes a task of the window, or DONE. -/
def execWlpopReturn (ser : BitVec 16) (s : State) : Out :=
  .next (s.resume ser fun w =>
    match w with
    | .wlpop a b => some fun t => t.withList (wlNum (t.hart.xr b)) 0 (popList a b)
    | _ => none)

/-! ### Retiring and reading -/

/-- A token is retired (R282, R289). -/
def Worklist.retireOne (l : Worklist) (serial : Nat) : Worklist :=
  ({ l with
    tokens := l.tokens.filter fun t => t.serial != serial
    retired := l.retired + 1 } : Worklist).refloor

/-- `wldone` on a bound worklist. -/
def retireToken (a : BitVec 5) (l : Worklist) (s : State) : State :=
  let v := (s.hart.xr a).toNat
  if !s.drained false then s.waitFor .retry
  else if !l.tokens.any (fun t => t.serial == v / 16) then s.malformed 15 0
  else
    (s.updList s.hart.gid l.w fun l => l.retireOne (v / 16)).retire none

/-- WLDONE (R297). -/
def execWldone (a : BitVec 5) (s : State) : Out := .next (s.withList (wlNum (s.hart.xr a)) 0 (retireToken a))

def WlState.code : WlState → Nat
  | .closed => 0 | .opened => 1 | .armed => 2 | .done => 3

/-- The status word (R298). -/
def Worklist.status (l : Worklist) (dev : BitVec 8) : Nat :=
  let mine := l.tasks.filter fun t => t.dev == dev
  min mine.length (2 ^ 32 - 1) * 2 ^ 32 +
    min (l.tokens.filter fun t => t.dev == dev).length 65535 * 2 ^ 16 +
    boolNat l.lost * 128 + boolNat l.aband * 64 + boolNat l.sfull * 32 +
    boolNat (mine.any fun t => t.spilled.isSome) * 16 + l.state.code

/-- WLSTAT (R298). -/
def execWlstat (a b : BitVec 5) (s : State) : Out :=
  .next (s.withList (wlNum (s.hart.xr b)) 0 fun l s => s.writeBack a (BitVec.ofNat 64 (l.status s.devIndex)))

/-- WLFLOOR (R298). -/
def execWlfloor (a b : BitVec 5) (s : State) : Out :=
  .next (s.withList (wlNum (s.hart.xr b)) 0 fun l s =>
    s.writeBack a (if l.state = .closed then BitVec.allOnes 64 else BitVec.ofNat 64 l.floor))

/-! ### What the device does with worklists -/

/-- Does a blocking `wlpop` of a hart of this device wait on the worklist? -/
def State.popWaits (s : State) (gid : BitVec 32) (w : Nat) : Bool :=
  s.harts.any fun h => h.alive && h.gid == gid &&
    (match h.wait with
     | some (.wlpop _ b) => wlNum (h.xr b) == w
     | _ => false)

/-- Does a blocking `wlpop` wait on a device, this one or another? -/
def State.waitsOn (s : State) (gid : BitVec 32) (l : Worklist) (d : BitVec 8) : Bool :=
  if d = s.devIndex then s.popWaits gid l.w else l.waiters.contains d

/-- Does a device start a detection: a pop waits on it, none of its tasks is queued and no token popped on it is
outstanding (R289)? -/
def State.starts (s : State) (gid : BitVec 32) (l : Worklist) (d : BitVec 8) : Bool :=
  s.waitsOn gid l d && !(l.tasks.any fun t => t.dev == d) && !(l.tokens.any fun t => t.dev == d)

/-- WL_DETECTION_WAVE (R289): one wave over the member devices. The first begins a detection that one of them has
started; the second decides. -/
def execWlDetectionWave (gid : BitVec 32) (w : BitVec 4) (s : State) : Out :=
  .next
    (match s.gang gid, s.listOf gid w.toNat with
     | some g, some l =>
       match l.state, l.wave with
       | .armed, none =>
         if g.devs.any (s.starts gid l) && l.pushes == l.retired then
           s.updList gid w.toNat fun l => { l with wave := some (l.pushes, l.retired) }
         else s
       | .armed, some (p, r) =>
         s.updList gid w.toNat fun l =>
           if l.pushes == p && l.retired == r then { l with wave := none, state := .done } else { l with wave := none }
       | _, _ => s
     | _, _ => s)

/-- The task of a device with the lowest level, the first in the list among equals (log entry 139). -/
def Worklist.lowest (l : Worklist) (d : BitVec 8) : Option Task :=
  (l.tasks.filter fun t => t.dev == d).foldl (fun acc t =>
    match acc with
    | none => some t
    | some u => if t.level < u.level then some t else some u) none

/-- Moves up to `n` tasks from a device to another, lowest levels first. A spilled task leaves its part,
and one whose record fails its check is dropped; on this device a moved task needs room. A record that cannot be
read or written yet ends the move, and so does one whose line fails its check, which is reported (log entry 137). -/
def State.moveTasks (s : State) (gid : BitVec 32) (w : Nat) (source dest : BitVec 8) : Nat → State
  | 0 => s
  | n + 1 =>
    match s.gang gid, s.listOf gid w with
    | some g, some l =>
      match l.lowest source with
      | none => s
      | some t =>
        match (match t.spilled with
          | some r => s.readRecord g l r
          | none => some (true, s)) with
        | none => s
        | some (false, u) => (u.updList gid w fun l => l.dropTask t).moveTasks gid w source dest n
        | some (true, s) =>
        if dest = s.devIndex then
          match s.queueTask g l t.word t.level l.floor with
          | .error none => s
          | .error (some line) => s.lineReport line
          | .ok (u, v) =>
            (v.updList gid w fun l => { l with tasks := l.tasks.erase t ++ [u] }).moveTasks gid w source dest n
        else
          (s.updList gid w fun l => { l with tasks := l.tasks.erase t ++ [{ t with dev := dest, spilled := none }] }).moveTasks
            gid w source dest n
    | _, _ => s

/-- Does a step of the record match: TO has no queued task in the window, and FROM has one (R288)? -/
def Worklist.matches (l : Worklist) (g : Gang) (v : Word) : Bool :=
  match g.devs[stepFrom v]?, g.devs[stepTo v]? with
  | some x, some y => !(l.tasks.any (l.inWindow y)) && l.tasks.any (l.inWindow x)
  | _, _ => false

/-- WL_BALANCE_MOVE (R288, R300): step `i` of the record, the first that matches for its device TO, while a pop
waits there. -/
def execWlBalanceMove (gid : BitVec 32) (w : BitVec 4) (i : Nat) (s : State) : Out :=
  .next
    (match s.gang gid, s.listOf gid w.toNat with
     | some g, some l =>
       match l.record[i]? with
       | none => s
       | some v =>
         let earlier := (l.record.take i).any fun u => stepTo u == stepTo v && l.matches g u
         let waits := s.waitsOn gid l (g.devs.getD (stepTo v) 0)
         if l.state = .armed && l.matches g v && !earlier && waits then
           s.moveTasks gid w.toNat (g.devs.getD (stepFrom v) 0) (g.devs.getD (stepTo v) 0) (stepMax v)
         else s
     | _, _ => s)

/-- Brings one spilled task back. -/
def State.unspillTask (s : State) (gid : BitVec 32) (w : Nat) (t : Task) : State :=
  match s.gang gid, s.listOf gid w with
  | some g, some l =>
    match t.spilled with
    | none => s
    | some r =>
      if t.dev != s.devIndex || decide (l.floor + 64 ≤ t.level) || !s.unitRoom then s
      else
        match s.readRecord g l r with
        | none => s
        | some (true, u) =>
          u.updList gid w fun l => { l with tasks := mapFirst (· == t) (fun t => { t with spilled := none }) l.tasks }
        | some (false, u) => u.updList gid w fun l => l.dropTask t
  | _, _ => s

/-- WL_UNSPILL (R287). -/
def execWlUnspill (gid : BitVec 32) (w : BitVec 4) (s : State) : Out :=
  .next (match s.listOf gid w.toNat with
    | none => s
    | some l => l.tasks.foldl (fun t x => t.unspillTask gid w.toNat x) s)

end Sys2Proof.Machine
end

