-- ==== Sys2Proof/Machine/Gang.lean ====
section
/-! DEFINITION. Gangs (R76, R261 to R279): launch, placement and start, `gwait`, barriers, reductions,
and `gexit`. What members on other devices do comes from the fabric (Peers.lean). -/

namespace Sys2Proof.Machine

/-! ### Launch (R76, R261, R306) -/

/-- The device list of a world, with the launcher's device first; that of world 0 goes on in ascending domain index
(R262). -/
def State.deviceList (s : State) (w : Nat) : List (BitVec 8) :=
  if w = 0 then
    s.devIndex :: ((List.range 256).map (BitVec.ofNat 8)).filter fun d => s.domain.contains d && d != s.devIndex
  else
    match s.world (BitVec.ofNat 10 w) with
    | some x => x.devs
    | none => []

/-- The line that keeps a core from reading the header of a table in the chain of NEXT, if any (R385). -/
def State.chainLost (s : State) : Nat → Nat → Option Nat
  | 0, _ => none
  | fuel + 1, t =>
    match s.unitLost s.hart.core (s.canon t) with
    | some l => some l
    | none =>
      let n := s.tabNext t / 64 % 2 ^ 46 * 64
      if n = 0 then none else s.chainLost fuel n

/-- Follows NEXT from a slot table to the newest, as the core reads the tables (R306, R307, R323). There are 2^46
places for a table, so that only a chain that closes on itself outlasts that many steps. -/
def State.newest (s : State) : Nat → Nat → Nat
  | 0, t => t
  | fuel + 1, t =>
    let n := s.tabNext t / 64 % 2 ^ 46 * 64
    if n = 0 then t else s.newest fuel n

/-- A group entry of a gang descriptor (R76). -/
structure Group where
  count  : Nat
  role   : Nat
  weight : Nat
  entry  : Nat
  clear  : Bool
deriving DecidableEq, Repr

def groupsOf (n : Nat) (bs : List Byte) : List Group :=
  (Crypto.chunks 16 n bs).map fun e => ⟨fieldAt e 0 2, fieldAt e 2 1, fieldAt e 3 1, fieldAt e 4 4, zeroAt e 8 8⟩

def Group.bad (g : Group) : Bool :=
  g.count = 0 || 2 < g.role || !([0, 1, 2, 4] : List Nat).contains g.weight || g.entry % 4 ≠ 0 || !g.clear

/-- The members of a gang in rank order on their devices (R262). -/
def membersOf (gs : List Group) (devs : List (BitVec 8)) : List Member :=
  let flat := gs.flatMap fun g => List.replicate g.count g
  flat.zipIdx.map fun (g, r) =>
    { rank := r
      dev := devs.getD (r * devs.length / flat.length) 0
      ser := none
      role := BitVec.ofNat 2 g.role
      weight := BitVec.ofNat 8 g.weight
      entry := BitVec.ofNat 32 g.entry
      live := true
      joins := 0
      arrived := 0 }

/-- Worklists that another device holds of gangs with no member here (R281). -/
def State.farCount (s : State) (d : BitVec 8) : Nat := ((s.farLists.find? fun p => p.1 == d).map Prod.snd).getD 0

/-- Worklists of live gangs on a device (R281). -/
def State.listsOn (s : State) (d : BitVec 8) : Nat :=
  ((s.gangs.filter fun g => g.alive && g.devs.contains d).map fun g => g.lists.length).sum + s.farCount d

/-- The worklists that a mask binds. -/
def maskLists (mask : Nat) : List Nat := (List.range 16).filter fun w => mask.testBit w

/-- Does a device of a domain gang hold more than 1,024 of its harts, or too much weight (R261)? -/
def overfull (ms : List Member) (d : BitVec 8) : Bool :=
  let mine := ms.filter fun m => m.dev == d
  decide (1024 < mine.length) || decide (1024 < (mine.map fun m => m.weight.toNat).sum)

/-- The code slot of the image whose slot table is given; none when CODE exceeds LAST (R306). -/
def State.codeSlot (s : State) (table : Nat) : Option SlotWord :=
  if (s.slotLost s.hart.core table (s.tabCode table).toNat).isSome then none
  else s.slotWord table (s.tabCode table).toNat

/-- Step 3 of R261 on a descriptor: does it break a rule? -/
def State.badGang (s : State) (head : List Byte) (gs : List Group) (table : Nat) : Bool :=
  let n := fieldAt head 2 1
  let w := fieldAt head 8 2
  let devs := (s.deviceList w).take n
  let ms := membersOf gs devs
  let lists := (maskLists (fieldAt head 10 2)).length
  fieldAt head 3 1 ≠ 0 || fieldAt head 0 2 = 0 || 4096 < fieldAt head 0 2 || n = 0 || 144 < n || 4096 ≤ fieldAt head 4 2 ||
    fieldAt head 12 4 ≠ 16 + 16 * fieldAt head 6 2 || gs.any Group.bad ||
    (gs.map Group.count).sum ≠ fieldAt head 0 2 || (w ≠ s.ctx.world.toNat && s.ctx.world != 0) ||
    1024 ≤ w || !s.worldOpen (BitVec.ofNat 10 w) || (s.deviceList w).length < n ||
    (match s.codeSlot table with
     | some sw => gs.any fun g => decide (sw.len.toNat ≤ g.entry)
     | none => false) ||
    (1 < n && devs.any (overfull ms)) || devs.any fun d => decide (16 < s.listsOn d + lists)

def Worklist.fresh (w : Nat) : Worklist where
  w := w
  state := .closed
  desc := []
  delta := 0
  shift := 0
  spill := none
  soff := 0
  slen := 0
  rslot := none
  roff := 0
  record := []
  tasks := []
  tokens := []
  serial := 0
  floor := 0
  pushes := 0
  retired := 0
  wave := none
  waiters := []
  lost := false
  aband := false
  sfull := false

/-- The handle after `n` launches: never 0, and not reused for 2^32 − 1 launches (R261). -/
def handleOf (n : Nat) : BitVec 32 := BitVec.ofNat 32 (n % (2 ^ 32 - 1) + 1)

/-- The first handle from the count of launches on that no gang known to this device has: a gang that another device has
launched may have one (R261). -/
def State.nextHandle (s : State) : Nat :=
  (leastFrom (fun n => !s.gangs.any fun g => g.gid == handleOf n) s.handles (s.gangs.length + 1)).getD s.handles

/-- Gangs in the launch queue of a compute die. -/
def State.queued (s : State) (die : Nat) : List Gang := s.gangs.filter fun g => g.phase == .waiting && g.die == die

/-- Is the world faulted (R386)? Its gangs retire at once with status 4. -/
def State.worldFaulted (s : State) (w : BitVec 10) : Bool :=
  match s.world w with
  | some x => x.faulted
  | none => false

/-- Steps 4 and 5 of R261. -/
def launchGang (a : BitVec 5) (head : List Byte) (gs : List Group) (table : Nat) (s : State) : State :=
  let die := s.hart.core.toNat / 64
  if 64 ≤ (s.queued die).length then s.waitFor .retry
  else
    let devs := (s.deviceList (fieldAt head 8 2)).take (fieldAt head 2 1)
    let n := s.nextHandle
    let gid := handleOf n
    let g : Gang :=
      { gid := gid
        wid := BitVec.ofNat 10 (fieldAt head 8 2)
        chain := BitVec.ofNat 16 (fieldAt head 4 2)
        devs := devs
        members := membersOf gs devs
        wlmask := BitVec.ofNat 16 (fieldAt head 10 2)
        table := BitVec.ofNat 64 table
        code := s.tabCode table
        phase := if s.worldFaulted (BitVec.ofNat 10 (fieldAt head 8 2)) then .retired 4 else .waiting
        die := die
        marks := Vector.replicate 16 0
        epochs := Vector.replicate 16 0
        reds := []
        cancel := none
        lists := (maskLists (fieldAt head 10 2)).map Worklist.fresh
        sliceReady := false
        inSlice := false
        broken := false }
    ({ s with gangs := s.gangs ++ [g], handles := n + 1 } : State).writeBack a (gid.zeroExtend 64)

/-- `glaunch` once the hart's older events have performed. -/
def startLaunch (a b : BitVec 5) (s : State) : State :=
  let addr := (s.hart.xr b).toNat
  if addr % 16 ≠ 0 then s.malformed 11 addr
  else
    s.readStruct (s.hart.tagOf b) addr 16 fun head s =>
      let n := fieldAt head 6 2
      if n = 0 || 4096 < n then s.malformed 11 addr
      else
        s.readStruct (s.hart.tagOf b) (addr + 16) (16 * n) fun bs s =>
          let gs := groupsOf n bs
          let first := if fieldAt head 8 2 = s.ctx.world.toNat then s.hart.slottab else s.hart.ltab
          let table := s.newest (2 ^ 46) (tabAddr first)
          match s.chainLost (2 ^ 46) (tabAddr first) with
          | some l => s.accessFault (lostTable l) 0 table
          | none =>
          if s.badGang head gs table then s.malformed 11 addr else launchGang a head gs table s

/-- GLAUNCH (R261). -/
def execGlaunch (a b : BitVec 5) (s : State) : Out :=
  .next (if s.drained true then startLaunch a b s else s.waitFor .retry)

/-! ### Placement and start (R259, R262, R263) -/

/-- Bytes whose values the spec does not give, as a word. -/
def openWord (n : Nat) : Word := BitVec.ofNat 64 (Crypto.leNat ((List.range 8).map (Config.openByte n)))

/-- CAP of a new hart: the largest share that its core can grant (R389). -/
def State.capOf (s : State) (core : BitVec 8) : BitVec 3 :=
  let n := (s.goodGroups core).length
  if 4 ≤ n then 4 else if 2 ≤ n then 2 else 1

/-- The time weight of a hart (R269). -/
def timeWeight (w : BitVec 8) : Nat := max w.toNat 1

/-- A hart at launch (R259), with its slot table, code slot and CSA. -/
def State.newHart (s : State) (g : Gang) (m : Member) (ser : BitVec 16) (core : BitVec 8) (csa : BitVec 52) : Hart :=
  let cap := s.capOf core
  { Hart.blank with
    dev := s.devIndex
    core := core
    ser := ser
    gid := g.gid
    rank := BitVec.ofNat 12 m.rank
    wid := g.wid
    role := m.role
    weight := m.weight
    life := .descheduled
    pc := match s.codeSlot g.table.toNat with
      | some sw => BitVec.ofNat 64 (sw.lo + m.entry.toNat)
      | none => openWord s.tick
    cap := cap
    pend := if m.weight.toNat < cap.toNat then m.weight.setWidth 3 else cap
    pv := true
    slottab := g.table
    code := g.code
    csa := csa
    quanta := timeWeight m.weight }

/-- Serial numbers that no new hart takes: those of live harts, of ended harts whose gang has not retired or
whose work is in flight, and of the acting hart. -/
def State.serTaken (s : State) (n : BitVec 16) : Bool :=
  s.hart.ser == n ||
    s.others.any (fun h => h.ser == n && (h.alive || (match s.gang h.gid with
      | some g => g.alive
      | none => false))) ||
    s.tickets.any (fun t => t.ser == n) || s.jobs.any (fun j => j.ser == n) || s.copies.any (fun c => c.ser == n) ||
    s.packets.any (fun p => p.stream.ser == some n) || s.stores.any (fun p => p.ctx.ser == n) || s.held.any (fun h => h.stream.ser == some n) ||
    s.gangs.any fun g => g.reds.any fun r => r.joins.any fun j => j.ser == n

/-- The lowest serial number that is free. -/
def State.freeSer (s : State) : Option (BitVec 16) :=
  (leastFrom (fun i => !s.serTaken (BitVec.ofNat 16 i)) 0 65536).map (BitVec.ofNat 16)

/-- A home core in service; which one is the scheduler's choice. -/
def State.homeCore (s : State) : Option (BitVec 8) :=
  let l := ((List.range 256).map (BitVec.ofNat 8)).filter s.coreGood
  l[Config.pickCore s.tick % max l.length 1]?

/-- Has a member of the gang been placed? -/
def Gang.admitted (g : Gang) : Bool := g.members.any fun m => m.ser.isSome

/-- May a gang be placed now: in the order of `glaunch` within its world, and round-robin between the
worlds of its launch queue (R261), upwards by their numbers and round (log entry 133)? -/
def State.mayPlace (s : State) (g : Gang) : Bool :=
  let q := s.queued g.die
  let first := (q.find? fun x => x.wid == g.wid).map Gang.gid
  let ws := (q.filter fun x => !x.admitted).map fun x => x.wid.toNat
  let later := ws.filter fun w => decide (s.launchTurns.toList.getD g.die 0 < w)
  let turn := if later.isEmpty then ws.foldl min (2 ^ 10) else later.foldl min (2 ^ 10)
  first == some g.gid && (g.admitted || g.wid.toNat == turn)

/-- Every member of this device has its hart. -/
def Gang.allPlaced (g : Gang) (dev : BitVec 8) : Bool := g.members.all fun m => m.dev != dev || m.ser.isSome

/-- Puts a new hart among the others, in place of an ended one with its serial number, and writes its
context to its CSA. -/
def State.addHart (s : State) (h : Hart) : State :=
  let t : State := { s with others := s.others.filter (fun g : Hart => g.ser != h.ser) ++ [h] }
  t.asHart h.ser State.saveContext

/-- The launch queue of a gang's die admits it: that queue's turn is its world's (R261). -/
def State.takeTurn (s : State) (g : Gang) : State :=
  if h : g.die < 4 then
    if g.admitted then s else { s with launchTurns := s.launchTurns.set g.die g.wid.toNat h }
  else s

/-- Places one member of a gang on this device, when a CSA is free. -/
def State.placeMember (s : State) (g : Gang) (m : Member) : State :=
  match s.csafree, s.freeSer, s.homeCore with
  | csa :: rest, some ser, some core =>
    let t := ({ s.takeTurn g with csafree := rest } : State).addHart (s.newHart g m ser core csa)
    t.updGang g.gid fun g =>
      { g with members := mapFirst (fun x => x.rank == m.rank) (fun x => { x with ser := some ser }) g.members }
  | _, _, _ => s

/-- GANG_PLACEMENT (R263): the next member of this device is placed. -/
def execGangPlacement (gid : BitVec 32) (s : State) : Out :=
  .next
    (match s.gang gid with
     | none => s
     | some g =>
       if g.phase ≠ .waiting || !s.mayPlace g then s
       else
         let t := match g.members.find? fun m => m.dev == s.devIndex && m.ser.isNone with
           | some m => s.placeMember g m
           | none => s
         t.updGang gid fun g => if g.allPlaced s.devIndex then { g with phase := .placed } else g)

/-- Can the start barrier complete: is every member device reachable? -/
def State.reachable (s : State) (g : Gang) : Bool :=
  g.devs.all fun d =>
    d == s.devIndex || (s.link.up && s.domain.contains d && (g.wid == 0 || s.exchanged g.wid d.toNat))

/-- A gang that does not start retires with status 4; its harts end and their CSAs go back. -/
def State.failStart (s : State) (g : Gang) : State :=
  let mine (h : Hart) : Bool := h.gid == g.gid && h.alive
  let csas := (s.harts.filter mine).map Hart.csa
  let t := s.updGang g.gid fun g => { g with phase := .retired 4, lists := [] }
  { t with
    hart := if mine t.hart then t.hart.stop .exited else t.hart
    others := mapIf mine (fun h => h.stop .exited) t.others
    csafree := t.csafree ++ csas }

/-- GANG_START (R263): the start barrier completes and every member becomes runnable. -/
def execGangStart (gid : BitVec 32) (s : State) : Out :=
  .next
    (match s.gang gid with
     | none => s
     | some g =>
       if !s.reachable g && (g.phase == .placed || g.phase == .waiting) then s.failStart g
       else if g.phase = .placed then s.updGang gid fun g => { g with phase := .started }
       else s)

/-! ### `gwait` (R264) -/

/-- `gwait`: the status of a retired gang of the hart's world, once; 3 for any other handle. -/
def awaitGang (a b : BitVec 5) (s : State) : State :=
  let gid : BitVec 32 := (s.hart.xr b).setWidth 32
  match s.gang gid with
  | none => s.writeBack a 3
  | some g =>
    if g.wid != s.ctx.world then s.writeBack a 3
    else
      match g.phase with
      | .retired n => (s.updGang gid fun g => { g with phase := .consumed }).writeBack a (BitVec.ofNat 64 n)
      | .consumed => s.writeBack a 3
      | .waiting | .placed | .started => s.waitFor (.gwait a b)

/-- GWAIT (R264). -/
def execGwait (a b : BitVec 5) (s : State) : Out := .next (awaitGang a b s)

/-- GWAIT_RETURN (R264). -/
def execGwaitReturn (ser : BitVec 16) (s : State) : Out :=
  .next (s.resume ser fun w =>
    match w with
    | .gwait a b => some (awaitGang a b)
    | _ => none)

/-! ### Barriers (R274) -/

/-- A bit of a 16-bit mask, set or cleared. -/
def maskSet (m : BitVec 16) (b : Nat) (v : Bool) : BitVec 16 :=
  let one := BitVec.ofNat 16 (2 ^ b)
  if v then m ||| one else m &&& ~~~one

/-- Has the acting hart's arrival at barrier `b` been released? -/
def State.released (s : State) (b : Nat) : Bool :=
  match (s.gang s.hart.gid).bind fun g => g.memberOf s.hart.ser with
  | some m => !m.arrived.getLsbD b
  | none => false

/-- `gbar`: arrives once, then waits until the barrier has moved on. -/
def arriveBar (a : BitVec 5) (s : State) : State :=
  let b := (s.hart.xr a).toNat % 16
  if s.hart.arrivals.getLsbD b then
    if s.released b then (s.mapHart fun h => { h with arrivals := maskSet h.arrivals b false }).retire none
    else s.waitFor (.gbar (BitVec.ofNat 4 b))
  else if !s.drained true then s.waitFor .retry
  else
    let come (m : Member) : Member := { m with arrived := maskSet m.arrived b true }
    let t := s.updGang s.hart.gid fun g =>
      { g with members := mapIf (fun m => m.ser == some s.hart.ser) come g.members }
    (t.mapHart fun h => { h with arrivals := maskSet h.arrivals b true }).waitFor (.gbar (BitVec.ofNat 4 b))

/-- GBAR (R274). -/
def execGbar (a : BitVec 5) (s : State) : Out := .next (arriveBar a s)

/-- Has every live member arrived at barrier `b`, and some member arrived at all? -/
def Gang.full (g : Gang) (b : Nat) : Bool :=
  g.members.any (fun m => m.arrived.getLsbD b) && g.members.all fun m => !m.live || m.arrived.getLsbD b

/-- GBAR_RELEASE (R274): the barrier moves to its next epoch; each arrived hart goes on at its next turn. A
domain gang meets only inside its slice (R273). -/
def execGbarRelease (gid : BitVec 32) (b : BitVec 4) (s : State) : Out :=
  .next (s.updGang gid fun g =>
    if g.full b.toNat && (g.devs.length ≤ 1 || g.inSlice) then
      { g with
        epochs := g.epochs.set b.toNat (g.epochs[b.toNat] + 1) b.isLt
        members := g.members.map fun m => { m with arrived := maskSet m.arrived b.toNat false } }
    else g)

/-! ### Reductions (R275 to R278) -/

/-- Levels and leaves of the tree over the ranks: w leaves, at least 16 (R276). -/
def treeNodes (harts : Nat) : List (Nat × Nat) :=
  (List.range (treeLevels harts)).flatMap fun l =>
    ((List.range ((harts + 2 ^ (l + 1) - 1) / 2 ^ (l + 1))).map fun i => (l, i * 2 ^ (l + 1)))

def stepLevel (v : Word) : Nat := v.toNat / 2 ^ 56 % 16
def stepLo (v : Word) : Nat := v.toNat / 2 ^ 44 % 4096

/-- Does the list of step words break R276? `seen` holds the nodes already named. -/
def badSchedule (harts devices : Nat) : List (Nat × Nat) → List Word → Bool
  | seen, [] => seen.length ≠ (treeNodes harts).length
  | seen, v :: t =>
    let n := (stepLevel v, stepLo v)
    let child (lo : Nat) : Bool := decide (harts ≤ lo) || seen.contains (n.1 - 1, lo)
    v.toNat / 2 ^ 60 ≠ 1 || !(treeNodes harts).contains n || seen.contains n || devices ≤ v.toNat / 2 ^ 24 % 256 ||
      v.toNat / 2 ^ 32 % 2 ^ 12 ≠ 0 || v.toNat % 2 ^ 24 ≠ 0 ||
      (n.1 ≠ 0 && !(child n.2 && child (n.2 + 2 ^ n.1))) ||
      badSchedule harts devices (n :: seen) t

/-- Reductions of a member in flight. -/
def Gang.inFlight (g : Gang) (rank : Nat) : Nat :=
  (g.reds.map fun r => (r.joins.filter fun j => j.rank == rank).length).sum

/-- Adds a member's part to reduction `k`. -/
def Gang.join (g : Gang) (k : Nat) (j : Join) : Gang :=
  let reds := if g.reds.any fun r => r.k == k then
      mapIf (fun r => r.k == k) (fun r => { r with joins := r.joins ++ [j] }) g.reds
    else g.reds ++ [⟨k, [j], false⟩]
  { g with
    reds := reds
    members := mapIf (fun m => m.rank == j.rank) (fun m => { m with joins := m.joins + 1 }) g.members }

/-- Steps 5 and 6 of R177 for `xred`, and the joining. -/
def joinReduction (k : BitVec 4) (p : List Byte) (g : Gang) (buf : SlotRef × Nat) (steps : List Word) (s : State) :
    State :=
  if !s.drained false then s.waitFor .retry
  else
    let s := s.clearBits k [fieldAt p 28 4]
    match g.memberOf s.hart.ser with
    | none => s
    | some m =>
      if 4 ≤ g.inFlight m.rank then s.waitFor .retry
      else
        let j : Join :=
          { rank := m.rank
            ser := s.hart.ser
            count := fieldAt p 24 4
            op := BitVec.ofNat 8 (fieldAt p 32 1)
            etype := BitVec.ofNat 8 (fieldAt p 33 1)
            steps := steps
            buf := buf.1
            boff := buf.2
            kb := k
            cbit := fieldAt p 28 4 }
        (s.updGang g.gid fun g => g.join m.joins j).retire none

/-- Steps 3 and 4 of R177 for `xred`. STEPS gives the extent of the step words, and is judged before an extent is probed;
KIND and DEVICES are fields of step 4, where the lowest reason is recorded (R178). TVAL names the packet where SOFF is no
multiple of 16 (log entry 134). -/
def checkReduction (k : BitVec 4) (addr : Nat) (p : List Byte) (g : Gang) (s : State) : State :=
  let et := fieldAt p 33 1
  let w := codeBytes et
  let count := fieldAt p 24 4
  if !([0x35, 0x25, 0x26] : List Nat).contains et || count = 0 || 2 ^ 20 < count || fieldAt p 8 8 % w ≠ 0 ||
      fieldAt p 16 8 % 16 ≠ 0 then s.malformed 10 addr
  else
    s.readNamed (fieldAt p 4 4) (fieldAt p 16 8) 16 fun ra head s =>
      if fieldAt head 4 4 ≠ (treeNodes g.members.length).length then s.malformed 10 ra
      else
        s.withExtents [⟨fieldAt p 0 4, fieldAt p 8 8, count * w, w, 1, 3⟩] fun rs =>
          s.readNamed (fieldAt p 4 4) (fieldAt p 16 8 + 16) (8 * fieldAt head 4 4) fun _ bs s =>
            let steps := (splitElems 8 bs).map (BitVec.ofNat 64)
            if s.hart.badBit (fieldAt p 28 4) then s.malformed 5 addr
            else if 2 < fieldAt p 32 1 || !zeroAt p 34 14 then s.malformed 10 addr
            else if fieldAt head 0 2 ≠ 1 || fieldAt head 2 2 ≠ g.devs.length || !zeroAt head 8 8 || badSchedule g.members.length g.devs.length [] steps then s.malformed 10 ra
            else joinReduction k p g (spanAt rs 0) steps s

/-- `xred` once the older writers of kb have completed. -/
def startReduction (a : BitVec 5) (k : BitVec 4) (s : State) : State :=
  let addr := (s.hart.xr a).toNat
  if addr % 16 ≠ 0 then s.malformed 10 addr
  else
    s.readStruct (s.hart.tagOf a) addr 48 fun p s =>
      match s.gang s.hart.gid with
      | some g => checkReduction k addr p g s
      | none => s

/-- XRED (R277). -/
def execXred (a : BitVec 5) (k : BitVec 4) (s : State) : Out := .next (s.afterPred k (startReduction a k))

/-- One element of a reduction from the contributions in rank order (R277). -/
def reduceElem (et op : Nat) (l : List Nat) : Nat :=
  match ETy.ofCode et with
  | some (.flt f) =>
    if op = 0 then (canonSum (l.map fun e => (f.decode e, true))).1
    else
      match l with
      | [] => 0
      | x :: t => t.foldl (fun acc y => (f.minmax (op == 1) acc y).1) (f.minmax (op == 1) x x).1
  | some t =>
    let v := l.map t.intVal
    if op = 0 then wrapNat t.width v.sum
    else
      match v with
      | [] => 0
      | x :: r => wrapNat t.width (r.foldl (fun acc y => if op = 1 then max acc y else min acc y) x)
  | none => 0

/-- Whose work a join is. -/
def Join.ctx (j : Join) (s : State) (g : Gang) : Ctx :=
  engineCtx j.ser g.wid ((s.harts.find? fun h => h.ser == j.ser).map Hart.core |>.getD 0)

def Join.bytes (j : Join) : Nat := j.count * codeBytes j.etype.toNat

/-- The fabric stream of a reduction's reads and writes: that of the member's vector side. -/
def Join.stream (j : Join) : FabricStream := .vector j.ser

/-- Is a join that of a hart of this device? -/
def Gang.joinedHere (g : Gang) (j : Join) : Bool := g.members.any fun m => m.rank == j.rank && m.ser == some j.ser

/-- Reads every buffer, in rank order; or the member whose line failed. -/
def State.gather (s : State) (g : Gang) : List Join → List (List Byte) → Except Join (List (List Byte)) × State
  | [], acc => (.ok acc.reverse, s)
  | j :: t, acc =>
    match s.engineRead (j.ctx s g) j.stream j.buf j.boff j.bytes with
    | (none, u) => (.error j, u)
    | (some bs, u) => u.gather g t (bs :: acc)

/-- A line of a member's buffer fails its check: the loss of a hart of this device, or else its report. -/
def State.bufferLoss (s : State) (g : Gang) (j : Join) : State :=
  if g.joinedHere j then s.engineLoss (j.ctx s g) j.buf j.boff j.bytes
  else s.lineReport (s.badLine (j.ctx s g) j.buf.word j.boff j.bytes)

/-- Writes the result to every buffer of this device's members; the other devices write theirs. -/
def State.scatter (s : State) (g : Gang) (out : List Byte) : List Join → State
  | [] => s
  | j :: t =>
    if !g.joinedHere j then s.scatter g out t
    else
    match s.engineWrite (j.ctx s g) j.stream j.buf j.boff out with
    | none => (s.engineLoss (j.ctx s g) j.buf j.boff j.bytes).scatter g out t
    | some u => (u.arriveAt j.stream j.boff).scatter g out t

/-- Reports the end of a reduction to every member that joined and has not ended. -/
def State.endReduction (s : State) (g : Gang) (r : Reduction) (last : BitVec 2) : State :=
  let t := s.updGang g.gid fun g => { g with reds := g.reds.filter fun x => x.k != r.k }
  (r.joins.filter g.joinedHere).foldl (fun u j => u.updHart j.ser fun h =>
    if h.gid = g.gid then (h.endRed last).complete j.kb j.cbit else h) t

/-- The joins of a reduction in rank order. -/
def Reduction.ranked (r : Reduction) (g : Gang) : List Join :=
  g.members.filterMap fun m => r.joins.find? fun j => j.rank == m.rank

/-- Do all the joins agree in COUNT, OP, ETYPE and schedule? -/
def agree (l : List Join) : Bool :=
  match l with
  | [] => true
  | j :: t => t.all fun i => i.count == j.count && i.op == j.op && i.etype == j.etype && i.steps == j.steps

/-- The results of a reduction have left: it is done once no forwarding entry holds any of them (R318). -/
def State.sendReduction (s : State) (g : Gang) (r : Reduction) (l : List Join) : State :=
  if l.any fun j => g.joinedHere j && s.heldAt j.stream (j.ctx s g) j.boff j.bytes then
    s.updGang g.gid fun g => { g with reds := mapIf (fun x => x.k == r.k) (fun x => { x with sent := true }) g.reds }
  else s.endReduction g r 0

/-- Carries out a reduction that every live member has joined. -/
def State.reduce (s : State) (g : Gang) (r : Reduction) : State :=
  let l := r.ranked g
  if r.sent then s.sendReduction g r l
  else if !agree l then s.endReduction g r 1
  else if l.any fun j => s.engineWaits (j.ctx s g) j.boff j.bytes then s
  else
    match s.gather g l [] with
    | (.error j, u) => (u.bufferLoss g j).endReduction g r 2
    | (.ok bufs, s) =>
      let j := l.headD ⟨0, 0, 0, 0, 0, [], ⟨0, .ofNat 0⟩, 0, 0, 0⟩
      let w := codeBytes j.etype.toNat
      let cols := bufs.map (splitElems w)
      let out := (List.range j.count).flatMap fun i =>
        Crypto.leBytes w (reduceElem j.etype.toNat j.op.toNat (cols.map fun c => c.getD i 0))
      (s.scatter g out l).sendReduction g r l

/-- May events of a gang happen now: a domain gang's happen inside its slice, and what is left of them once it has
retired (R273, R279)? -/
def Gang.open (g : Gang) : Bool := g.devs.length ≤ 1 || g.inSlice || !g.alive

/-- XRED_COMPLETE (R277): reduction `k` of a gang is done, mismatched or cancelled. -/
def execXredComplete (gid : BitVec 32) (k : Nat) (s : State) : Out :=
  .next
    (match s.gang gid with
     | none => s
     | some g =>
       match g.reds.find? fun r => r.k == k with
       | none => s
       | some r =>
         let cancelled := match g.cancel with
           | some c => decide (c ≤ k)
           | none => false
         if !g.open then s
         else if cancelled then s.endReduction g r 2
         else if g.members.all fun m => !m.live || r.joins.any fun j => j.rank == m.rank then s.reduce g r
         else s)

/-! ### `gexit` (R279) -/

/-- The acting hart ends (steps 2 to 4 of R279). -/
def State.exitHart (s : State) : State :=
  let h := s.hart
  let t := s.mapHart fun h => h.stop .exited
  let t := { t with
    tickets := mapIf (fun k => k.ser == h.ser) (fun k => { k with mute := true }) t.tickets
    jobs := mapIf (fun j => j.ser == h.ser) (fun j => { j with mute := true }) t.jobs }
  (t.updGang h.gid fun g => g.leave h.ser false).finishGang h.gid

/-- `gexit`: waits for the hart's older instructions and events, then ends it. -/
def leaveGang (s : State) : State := if s.drained true then s.exitHart else s.waitFor .gexit

/-- GEXIT (R279). -/
def execGexit (s : State) : Out := .next (leaveGang s)

/-- GEXIT_COMPLETE (R279). -/
def execGexitComplete (ser : BitVec 16) (s : State) : Out :=
  .next (s.resume ser fun w =>
    match w with
    | .gexit => some leaveGang
    | _ => none)

end Sys2Proof.Machine
end

