-- ==== Sys2Proof/Machine/Worlds.lean ====
section
/-! DEFINITION. Worlds, keys and sealed models (R336 to R350): `wattest`, `wbind`, the key exchange, and
the ends of a sealed load and of an installation. -/

namespace Sys2Proof.Machine

/-! ### Buffers of `wattest` -/

/-- Writes bytes at an address through a register, as 8-byte scalar stores; all are checked first. -/
def State.storeWords (s : State) (t : Option (BitVec 16)) (a : Nat) (bs : List Byte) (f : State → State) : State :=
  match s.reach (plainAccess t a 8 needWrite) with
  | .ended u => u
  | .window _ =>
    f ((wordOffsets bs.length).foldl (fun u o =>
      match regionOf (s.canon (a + o)) with
      | .window off => u.writeWindow off (BitVec.ofNat 64 (fieldAt bs o 8))
      | _ => u) s)
  | .host bus =>
    f ((wordOffsets bs.length).foldl (fun u o => u.sendHost u.scalarStream u.ctx.op (bus + o) ((bs.drop o).take 8)) s)
  | .memory sw => s.ownWrite ⟨slotIndex t, sw⟩ a bs f

/-- Checks an `n`-byte buffer, a multiple of 64, as stores (R336), and goes on where they pass. -/
def State.bufferOk (s : State) (t : Option (BitVec 16)) (a n : Nat) (f : State → State) : State :=
  if s.hart.answer.isSome then f s
  else if a % 64 ≠ 0 then s.accessFault 1 0 a
  else
    let one (o : Nat) := s.probe s.ctx (plainAccess t (a + o) 8 needWrite)
    match (wordOffsets n).find? fun o => (one o).toOption.isNone with
    | some o =>
      match one o with
      | .error d => s.accessFault d 0 (a + o)
      | .ok _ => s
    | none => f s

/-! ### REPORT (R337) -/

/-- The number under which a firmware image is measured: its version and its digest. -/
def imageNumber (f : FirmwareImage) : Nat := f.version * 2 ^ 256 + f.digest.toNat

/-- The fuse configuration and the management settings in force, as the bytes that CFGM measures (log entry 8). -/
def State.settings (s : State) : List Byte :=
  let le := Crypto.leBytes
  (s.fuses.toList.flatMap fun l => l.flatMap fun p =>
    [BitVec.ofNat 8 (p.mark.toNat + 4 * p.commit.toNat + 16 * p.discard.toNat)]) ++
    le 2 s.powerLimit.toNat ++ le 2 s.tempLimit.toNat ++ le 1 s.powerState.toNat

/-- The first 216 bytes of a report. -/
def State.reportHead (s : State) (w : BitVec 10) (nonce : List Byte) (draw : Nat) : List Byte :=
  let le := Crypto.leBytes
  let be := Crypto.beBytes
  let x := s.world w
  nonce ++ be 32 (Config.firmwareMeasure (imageNumber s.fwActive)).toNat ++ be 32 (Config.configMeasure s.settings).toNat ++
    be 32 ((x.map fun x => x.imgm.toNat).getD 0) ++ Crypto.publicKey (Config.reportScalar draw) ++
    le 8 Config.deviceSerial.toNat ++ le 2 w.toNat ++ le 2 1 ++
    le 4 ((x.map fun x => x.qlost.toNat).getD 0) ++ le 8 ((x.map fun x => x.lstat.toNat).getD 0)

/-- A new report key pair for a world; the previous one is destroyed. -/
def State.newReportKey (s : State) (w : BitVec 10) : State :=
  let t := { s with draws := s.draws + 1 }
  if w = 0 then { t with report0 := some s.draws }
  else t.updWorld w fun x => { x with report := some s.draws }

/-- REPORT: the nonce is read from the buffer, and the report written over it. -/
def report (d a : BitVec 5) (s : State) : State :=
  let addr := (s.hart.xr a).toNat
  let tag := s.hart.tagOf a
  s.bufferOk tag addr 280 fun s =>
    s.readStruct tag addr 32 fun nonce s =>
      let head := s.reportHead s.ctx.world nonce s.draws
      let w := s.ctx.world
      s.storeWords tag addr (head ++ s.attest head) fun t => (t.newReportKey w).writeBack d 0

/-- WATTEST_REPORT (R337). -/
def execWattestReport (d a : BitVec 5) (s : State) : Out := .next (report d a s)

/-! ### ALLOW, LOG, GRANT and REVOKE (R338 to R340) -/

/-- Runs an operation on the hart's own world; from world 0 it writes 1 and does nothing. -/
def ownWorld (d : BitVec 5) (f : World → State → State) (s : State) : State :=
  match (if s.ctx.world = 0 then none else s.world s.ctx.world) with
  | none => s.writeBack d 1
  | some w => f w s

/-- WATTEST_ALLOW (R338). -/
def execWattestAllow (d a : BitVec 5) (s : State) : Out :=
  .next (ownWorld d (fun w s =>
    (s.updWorld w.wid fun x => { x with allow := s.hart.xr a }).writeBack d w.allow) s)

/-- An entry of the log as `LOG` writes it (R339). -/
def LogEntry.bytes (e : LogEntry) : List Byte :=
  let le := Crypto.leBytes
  le 8 e.time.toNat ++ le 1 e.cls.toNat ++ le 1 e.req.toNat ++ le 2 0 ++ le 4 e.seq.toNat

/-- WATTEST_LOG (R339). -/
def execWattestLog (d a : BitVec 5) (s : State) : Out :=
  .next (ownWorld d (fun w s =>
    let addr := (s.hart.xr a).toNat
    s.bufferOk (s.hart.tagOf a) addr 4160 fun s =>
      let n := w.log.length
      let bs := Crypto.leBytes 4 n ++ Crypto.leBytes 4 w.lost.toNat ++ List.replicate 56 0 ++
        w.log.flatMap LogEntry.bytes
      s.storeWords (s.hart.tagOf a) addr bs fun t =>
        (t.updWorld w.wid fun x => { x with log := [], lost := 0 }).writeBack d (BitVec.ofNat 64 n)) s)

/-- A grant of one world to another is recorded in a controller (R340). -/
def State.addGrant (s : State) (a b : BitVec 10) : State :=
  s.updWorld a fun x => if x.grants.contains b then x else { x with grants := x.grants ++ [b] }

/-- A grant is removed from a controller (R340). -/
def State.dropGrant (s : State) (a b : BitVec 10) : State :=
  s.updWorld a fun x => { x with grants := x.grants.filter (· != b) }

/-- WATTEST_GRANT (R340). -/
def execWattestGrant (d a : BitVec 5) (s : State) : Out :=
  .next (ownWorld d (fun w s =>
    let b := (s.hart.xr a).toNat
    let wb := BitVec.ofNat 10 b
    if 8 ≤ w.grants.length || b = 0 || 1023 < b || wb = w.wid || (s.world wb).isNone || w.grants.contains wb then
      s.writeBack d 1
    else (s.addGrant w.wid wb).writeBack d 0) s)

/-- The slot words that the work of a ticket has captured. -/
def Work.slots (w : Work) : List SlotRef :=
  match w with
  | .query q => q.rslot :: q.shards.map Shard.slot
  | .product p => [p.wslot, p.hslot, p.yslot]

/-- The slot words that work in flight for harts of a world has captured (R180). -/
def State.capturedBy (s : State) (w : BitVec 10) : List SlotRef :=
  ((s.tickets.filter fun t => t.wid == w).flatMap fun t => t.work.slots) ++
    ((s.jobs.filter fun j => j.wid == w).flatMap fun j => [j.src, j.dst]) ++
    ((s.copies.filter fun c => c.wid == w).flatMap fun c => [c.wslot, c.hslot]) ++
    ((s.gangs.filter fun g => g.wid == w).flatMap fun g =>
      (g.reds.flatMap fun r => r.joins.map Join.buf) ++ g.lists.filterMap Worklist.spill) ++
    ((s.harts.filter fun h => h.alive && h.wid == w).flatMap fun h =>
      h.streams.toList.filterMap Stream.slot ++ h.queue.flatMap fun e => e.probed.getD [])

/-- Does a fabric stream act for a hart of a world, or for the worklists of a gang of it? -/
def State.streamOf (s : State) (st : FabricStream) (w : BitVec 10) : Bool :=
  (s.harts.any fun h => st.ser == some h.ser && h.wid == w) ||
    (match st with
      | .list gid _ => s.gangs.any fun g => g.gid == gid && g.wid == w
      | .scalar _ | .vector _ | .job _ _ | .ticket _ _ | .peer _ => false)

/-- Has an access of world `b` under a key of world `a` passed its check and not performed? -/
def State.usesKey (s : State) (b a : BitVec 10) : Bool :=
  (s.capturedBy b).any (fun r => r.word.keyid == a) ||
    s.packets.any (fun p => s.streamOf p.stream b && p.writes.any fun w => w.keyid == a) ||
    s.held.any (fun h => s.streamOf h.stream b && h.wr.keyid == a) ||
    s.stores.any fun p => p.ctx.world == b && p.word.keyid == a

/-- The grant is removed, and the hart waits until no access under it is outstanding; when the wait has restarted the
instruction, the record of its removal says so (log entry 114). -/
def revoke (d : BitVec 5) (wb : BitVec 10) (w : World) (s : State) : State :=
  let mine := (s.hart.ser, wb)
  if !w.grants.contains wb && !w.revokes.contains mine then s.writeBack d 1
  else
    let t := (s.dropGrant w.wid wb).updWorld w.wid fun x => { x with revokes := x.revokes.filter (· != mine) ++ [mine] }
    if t.usesKey wb w.wid then t.waitFor .retry
    else (t.updWorld w.wid fun x => { x with revokes := x.revokes.filter (· != mine) }).writeBack d 0

/-- WATTEST_REVOKE (R340). -/
def execWattestRevoke (d a : BitVec 5) (s : State) : Out :=
  .next (ownWorld d (fun w s =>
    let b := (s.hart.xr a).toNat
    if 1023 < b then s.writeBack d 1 else revoke d (BitVec.ofNat 10 b) w s) s)

/-! ### Blocks of `wbind` (R341) -/

/-- Reads an `n`-byte block, at a multiple of 64, for a hart of world 0. -/
def withBlock (a : BitVec 5) (n : Nat) (f : List Byte → State → State) (s : State) : State :=
  s.ifWorld0 fun s =>
    let addr := (s.hart.xr a).toNat
    if addr % 64 ≠ 0 then s.accessFault 1 0 addr else s.readStruct (s.hart.tagOf a) addr n f

/-- Writes a status code to xd. -/
def State.answers (s : State) (d : BitVec 5) (code : Nat) : State := s.writeBack d (BitVec.ofNat 64 code)

/-! ### OPEN (R342) -/

/-- A world at OPEN. -/
def newWorld (w : BitVec 10) (draw : Nat) (devs : List (BitVec 8)) (qaddr qlen : Nat) : World where
  wid := w
  versions := [⟨0, draw, false⟩]
  devs := devs
  ready := []
  grants := []
  revokes := []
  allow := 0
  log := []
  lost := 0
  attempts := 0
  imgm := 0
  report := none
  lstat := 0
  qaddr := qaddr
  qlen := qlen
  qpos := 0
  qlost := 0
  qseq := 0
  faulted := false

/-- Does an address lie in memory whose lines the device encrypts? -/
def State.inMemory (s : State) (a n : Nat) : Bool :=
  s.populated a n && encryptable (s.canon a)

/-- Is a quarantine area in populated HBM or capacity tier of this device (R342)? -/
def State.areaOk (s : State) (a n : Nat) : Bool :=
  s.populated a n && (match regionOf (s.canon a) with
    | .hbm _ _ | .tier _ _ => true
    | _ => false)

/-- Does an OPEN block break R342? -/
def State.badOpen (s : State) (b : List Byte) : Bool :=
  let w := fieldAt b 0 2
  let n := fieldAt b 2 1
  let qlen := fieldAt b 4 4
  let qaddr := fieldAt b 8 8
  let devs := ((b.drop 16).take n).map BitVec.toNat
  w = 0 || 1023 < w || n = 0 || 144 < n || fieldAt b 3 1 ≠ 0 || qlen % 64 ≠ 0 || qlen < 4096 || qaddr % 64 ≠ 0 ||
    !s.areaOk qaddr qlen || devs.head? ≠ some s.devIndex.toNat || devs.eraseDups.length ≠ n ||
    devs.any (fun d => decide (144 ≤ d)) || !zeroAt b (16 + n) (144 - n) || !zeroAt b 160 32

/-- `wbind` OPEN on a block. -/
def openWorld (d : BitVec 5) (b : List Byte) (s : State) : State :=
  let w := BitVec.ofNat 10 (fieldAt b 0 2)
  if s.badOpen b then s.answers d 2
  else if (s.world w).isSome then s.answers d 1
  else
    let x := newWorld w s.draws ((b.drop 16).take (fieldAt b 2 1)) (s.canon (fieldAt b 8 8)) (fieldAt b 4 4)
    ({ s with worlds := s.worlds ++ [x], draws := s.draws + 1 } : State).answers d 0

/-- WBIND_OPEN (R342). -/
def execWbindOpen (d a : BitVec 5) (s : State) : Out := .next (withBlock a 192 (openWorld d) s)

/-- KEY_EXCHANGE_COMPLETE (R342). -/
def execKeyExchangeComplete (wid : BitVec 10) (dev : BitVec 8) (s : State) : Out :=
  .next
    (if s.link.up && s.domain.contains dev && dev != s.devIndex then
      s.updWorld wid fun w =>
        if w.devs.contains dev && !w.ready.contains dev then { w with ready := w.ready ++ [dev] } else w
    else s)

/-! ### NEWVER (R343), CLOSE (R345) -/

/-- The world that a block names, when it is open. -/
def State.namedWorld (s : State) (b : List Byte) : Option World :=
  if 1023 < fieldAt b 0 2 then none else s.world (BitVec.ofNat 10 (fieldAt b 0 2))

/-- A version of a world with a key of a new draw, in a controller that does not hold it (R328, R343). -/
def State.addVersion (s : State) (w : BitVec 10) (v : BitVec 12) (pending : Bool) : State :=
  let t := s.updWorld w fun x => { x with versions := x.versions ++ [⟨v, s.draws, pending⟩] }
  { t with draws := s.draws + 1 }

/-- A version that another controller has created, or that a sealed load there has made pending (R343, R349). -/
def State.farVersion (s : State) (w : BitVec 10) (v : BitVec 12) (pending : Bool) : State :=
  if (s.world w).any fun x => x.versions.any fun y => y.ver == v then
    s.updWorld w fun x => { x with versions := mapIf (fun y => y.ver == v) (fun y => { y with pending := pending }) x.versions }
  else if (s.world w).isSome then s.addVersion w v pending
  else s

/-- `wbind` NEWVER on a block. -/
def newVersion (d : BitVec 5) (b : List Byte) (s : State) : State :=
  let v := fieldAt b 2 2
  if v = 0 || 4095 < v || !zeroAt b 4 60 then s.answers d 2
  else
    match s.namedWorld b with
    | none => s.answers d 1
    | some w =>
      if w.versions.any fun x => x.ver.toNat == v then s.answers d 3
      else
        (s.addVersion w.wid (BitVec.ofNat 12 v) false).answers d 0

/-- WBIND_NEWVER (R343). -/
def execWbindNewver (d a : BitVec 5) (s : State) : Out := .next (withBlock a 64 (newVersion d) s)

/-- Clears the scratchpad regions that a world owns. -/
def State.clearRegions (s : State) (w : BitVec 10) : State :=
  s.owners.foldl (fun t p => if p.2 = w then t.claim 0 p.1 else t) s

/-- Has a world a live hart or gang here (R341, R345)? -/
def State.worldLives (s : State) (w : BitVec 10) : Bool :=
  s.harts.any (fun h => h.alive && h.wid == w) || s.gangs.any fun g => g.alive && g.wid == w

/-- A world ends in a controller: its versions, its report key, its grants and those held from it, its allow-list and
its log; its regions are cleared (R345). -/
def State.endWorld (s : State) (w : BitVec 10) : State :=
  let t := s.clearRegions w
  { t with
    worlds := (t.worlds.filter fun x => x.wid != w).map fun x => { x with grants := x.grants.filter (· != w) }
    seals := t.seals.filter fun j => j.install || j.wid != w }

/-- A CLOSE on another device of the world's list reaches this controller; with a live hart or gang here the world holds
one, and CLOSE has no effect (R341, R345). -/
def State.farClose (s : State) (w : BitVec 10) : State := if s.worldLives w then s else s.endWorld w

/-- `wbind` CLOSE on a block; a byte that is not zero answers as for the other blocks (R6; log entry 63). -/
def closeWorld (d : BitVec 5) (b : List Byte) (s : State) : State :=
  if !zeroAt b 2 62 then s.answers d 2
  else
  match s.namedWorld b with
  | none => s.answers d 1
  | some w =>
    if s.worldLives w.wid then s.answers d 1 else (s.endWorld w.wid).answers d 0

/-- WBIND_CLOSE (R345). -/
def execWbindClose (d a : BitVec 5) (s : State) : Out := .next (withBlock a 64 (closeWorld d) s)

/-! ### PLACE (R344) -/

/-- Makes plaintext at a physical address ready to be read for world 0: its scratchpad regions are world 0's then
(R326), and the host is asked for what it holds (R396). -/
def State.beforePlain (s : State) (core : BitVec 8) (a n : Nat) : State :=
  if n = 0 || !s.populated a n then s
  else
    match regionOf (s.canon a) with
    | .host bus => s.emit (.hostRead s.hart.ser [(bus, n)])
    | _ => s.claimAll 0 (s.key core a) n

/-- Must a read of plaintext wait for the host, which it asks again where an answer has failed (R396; log entry 11)? -/
def State.plainWaits (s : State) (a n : Nat) : Bool :=
  n ≠ 0 && (match regionOf (s.canon a) with
    | .host _ => !Config.hostAnswers s.tick
    | _ => false)

/-- The first line of plaintext at a physical address with an error that cannot be corrected (R385). -/
def State.plainLost (s : State) (core : BitVec 8) (a n : Nat) : Option Nat :=
  ((linesOf a n).map fun p => s.forward (s.key core p.1) / 64 * 64).find? fun l => s.lost.contains l

/-- Plaintext bytes at a physical address, as a core sees it; what the host would answer is a free value. -/
def State.plainBytes (s : State) (core : BitVec 8) (a n : Nat) : List Byte :=
  match regionOf (s.canon a) with
  | .host _ => (List.range n).map fun i => Config.openByte s.tick (a + i)
  | _ => (linesOf a n).flatMap fun (p, m) => Bytes.read s.mem (s.forward (s.key core p)) m

/-- Stores plaintext at a physical address under a key of a world, from a slot offset on, in whole lines (R409). -/
def State.placeBytes (s : State) (w : BitVec 10) (v : BitVec 12) (dst doff : Nat) (bs : List Byte) : State :=
  ((linesOf dst bs.length).foldl (fun (acc : State × List Byte) p =>
    let t := (acc.1.commit ⟨acc.1.canon p.1, acc.2.take p.2, w, v, doff + (p.1 - dst), 0, false, true⟩).getD acc.1
    (t, acc.2.drop p.2)) (s, bs)).1

/-- Does a PLACE block break R344? -/
def State.badPlace (s : State) (b : List Byte) : Bool :=
  let src := fieldAt b 8 8
  let dst := fieldAt b 16 8
  let n := fieldAt b 32 8
  let z := fieldAt b 40 8
  4095 < fieldAt b 2 2 || fieldAt b 4 2 = 0 || 11 < fieldAt b 4 2 || fieldAt b 6 2 ≠ 0 || dst % 64 ≠ 0 ||
    fieldAt b 24 8 % 64 ≠ 0 || (n + z) % 64 ≠ 0 || !zeroAt b 48 16 ||
    (n ≠ 0 && (!s.populated src n || (match regionOf (s.canon src) with | .window _ => true | _ => false))) ||
    (n + z ≠ 0 && !s.inMemory dst (n + z))

/-- `wbind` PLACE on a block. -/
def placeSection (d : BitVec 5) (b : List Byte) (s : State) : State :=
  if s.badPlace b then s.answers d 2
  else
    match s.namedWorld b with
    | none => s.answers d 1
    | some w =>
      let v := BitVec.ofNat 12 (fieldAt b 2 2)
      if !s.versionReady w.wid v then s.answers d 3
      else
        let le := Crypto.leBytes
        let n := fieldAt b 32 8
        let z := fieldAt b 40 8
        let from' := fieldAt b 8 8
        if s.plainWaits from' n then s.waitFor .retry
        else
        let s := s.beforePlain s.hart.core from' n
        match s.plainLost s.hart.core from' n with
        | some l => s.lineFault 0 from' l
        | none =>
        let src := s.plainBytes s.hart.core from' n
        let t := s.placeBytes w.wid v (fieldAt b 16 8) (fieldAt b 24 8) (src ++ List.replicate z 0)
        let m := Crypto.sha256
          (Crypto.beBytes 32 w.imgm.toNat ++ le 2 (fieldAt b 4 2) ++ le 8 n ++ le 8 z ++ Crypto.shaBytes src)
        (t.updWorld w.wid fun x => { x with imgm := m }).answers d 0

/-- WBIND_PLACE (R344). -/
def execWbindPlace (d a : BitVec 5) (s : State) : Out := .next (withBlock a 64 (placeSection d) s)

/-! ### SEAL and INSTALL: acceptance (R346, R348, R350) -/

def shardBytes : Nat := 64 * 2 ^ 20

/-- Does a manifest break R346, or not fit the length of the `.rodata`, or ask for a counter value above
255 (R402)? -/
def badManifest (m : List Byte) (len : Nat) : Bool :=
  let n := fieldAt m 4 4
  fieldAt m 0 2 ≠ 1 || 15 < fieldAt m 2 1 || 1 < fieldAt m 3 1 || n = 0 || 2 ^ 20 < n || fieldAt m 12 4 ≠ 0 ||
    m.length ≠ 176 + 32 * n || n ≠ (len + shardBytes - 1) / shardBytes ||
    (fieldAt m 3 1 = 1 && decide (255 < fieldAt m 8 4))

/-- The manifest of a block: read from memory, or that of a store entry. -/
def State.manifestOf (s : State) (b : List Byte) : List Byte :=
  if fieldAt b 4 1 = 0 then
    if s.populated (fieldAt b 16 8) (fieldAt b 24 4) then s.plainBytes s.hart.core (fieldAt b 16 8) (fieldAt b 24 4)
    else []
  else ((s.store.find? fun e => e.num == fieldAt b 8 8).map StoreEntry.manifest).getD []

/-- Fields that SEAL and INSTALL share. -/
def State.badSealBlock (s : State) (b : List Byte) : Bool :=
  1 < fieldAt b 4 1 || !zeroAt b 5 3 || fieldAt b 28 4 ≠ 0 || fieldAt b 56 8 = 0 ||
    badManifest (s.manifestOf b) (fieldAt b 56 8) ||
    (fieldAt b 4 1 = 0 && !s.populated (fieldAt b 32 8) 104)

/-- A table and every newer one of its image, by NEXT (R304). -/
def State.chainFrom (s : State) : Nat → Nat → List Nat
  | 0, _ => []
  | fuel + 1, t => if t = 0 then [] else t :: s.chainFrom fuel (s.tabNext t / 64 % 2 ^ 46 * 64)

/-- The slot tables of the machine: those that its harts and gangs, a booted image and the handler name, and every
newer one of their images (log entry 65). -/
def State.knownTables (s : State) : List Nat :=
  let named := (s.harts.flatMap fun h => [tabAddr h.slottab, tabAddr h.ltab]) ++ (s.gangs.map fun g => g.table.toNat) ++
    [tabAddr s.htab] ++ (match s.boot with
      | .placed table _ _ => [tabAddr table]
      | .awaiting | .running => [])
  named.eraseDups.flatMap (s.chainFrom (2 ^ 46))

/-- Other places that hold slot tables: a table that nothing names yet, or no longer, is a table still, and which places
of memory hold one is a free value (log entry 65). -/
def State.otherTables (s : State) : List Nat :=
  (s.mem.map fun c => c.1 / 64 * 64).eraseDups.filter fun a => decide (a < scratchBase) && Config.holdsTable s.tick a

/-- Does a resident slot word of a table name a version of a world (R348)? -/
def State.versionUsed (s : State) (w : BitVec 10) (v : BitVec 12) : Bool :=
  (s.knownTables ++ s.otherTables).eraseDups.any fun t => t ≠ 0 &&
    (List.range (min (s.tabLast t) 65535 + 1)).any fun i =>
      let sw := SlotWord.ofNat (Crypto.leNat (Bytes.read s.mem (s.forward (s.canon t + 64 + 16 * i)) 16))
      sw.keyid == w && sw.version == v && sw.state == 0

/-- The job that a block describes. -/
def State.sealJob (s : State) (b : List Byte) (install : Bool) : SealJob where
  install := install
  core := s.hart.core
  wid := BitVec.ofNat 10 (fieldAt b 0 2)
  kver := BitVec.ofNat 12 (fieldAt b 2 2)
  srck := fieldAt b 4 1
  src := fieldAt b 8 8
  manifest := s.manifestOf b
  wrapped := if fieldAt b 4 1 = 0 then s.plainBytes s.hart.core (fieldAt b 32 8) 104 else []
  dst := fieldAt b 40 8
  doff := fieldAt b 48 8
  len := fieldAt b 56 8
  errors := []

/-- What SEAL and INSTALL read beside their block is made ready, the manifest and the wrapped key; they go on with it,
wait for the host, or take the fault for a line that cannot be read (R385, R396). -/
def withManifest (b : List Byte) (f : State → State) (s : State) : State :=
  if fieldAt b 4 1 ≠ 0 then f s
  else
    let m := fieldAt b 16 8
    let n := fieldAt b 24 4
    let k := fieldAt b 32 8
    if s.plainWaits m n || s.plainWaits k 104 then s.waitFor .retry
    else
      let u := (s.beforePlain s.hart.core m n).beforePlain s.hart.core k 104
      let bad (a l : Nat) : Option (Nat × Nat) :=
        if u.populated a l then (u.plainLost u.hart.core a l).map fun x => (a, x) else none
      match (bad m n).or (bad k 104) with
      | some (a, l) => u.lineFault 0 a l
      | none => f u

/-- SEAL on a block whose manifest can be read: the version is marked pending (R349). -/
def sealReady (d : BitVec 5) (b : List Byte) (s : State) : State :=
  let v := fieldAt b 2 2
  if v = 0 || 4095 < v || s.badSealBlock b || fieldAt b 40 8 % 64 ≠ 0 || fieldAt b 48 8 % 64 ≠ 0 ||
      !s.inMemory (fieldAt b 40 8) (fieldAt b 56 8) then s.answers d 2
  else
    match s.namedWorld b with
    | none => s.answers d 1
    | some w =>
      let ver := BitVec.ofNat 12 v
      if !s.versionReady w.wid ver || s.versionUsed w.wid ver then s.answers d 3
      else
        let t := s.updWorld w.wid fun x =>
          { x with versions := mapIf (fun y => y.ver == ver) (fun y => { y with pending := true }) x.versions }
        ({ t with seals := t.seals ++ [s.sealJob b false] } : State).answers d 0

/-- `wbind` SEAL on a block. -/
def sealModel (d : BitVec 5) (b : List Byte) (s : State) : State := withManifest b (sealReady d b) s

/-- WBIND_SEAL (R348). -/
def execWbindSeal (d a : BitVec 5) (s : State) : Out := .next (withBlock a 64 (sealModel d) s)

/-- Bytes that the store and the installations in progress take. -/
def State.storeUsed (s : State) : Nat :=
  (s.store.map fun e => e.contents.length).sum + ((s.seals.filter SealJob.install).map SealJob.len).sum

/-- INSTALL on a block whose manifest can be read. -/
def installReady (d : BitVec 5) (b : List Byte) (s : State) : State :=
  let e := fieldAt b 8 8
  if fieldAt b 4 1 ≠ 0 || s.badSealBlock b || (fieldAt b 0 2 ≠ 0 && (s.namedWorld b).isNone) then s.answers d 2
  else if 4095 < e || s.store.any (fun x => x.num == e) || s.seals.any (fun j => j.install && j.src == e) ||
      2 ^ 44 < s.storeUsed + fieldAt b 56 8 then s.answers d 8
  else ({ s with seals := s.seals ++ [s.sealJob b true] } : State).answers d 0

/-- `wbind` INSTALL on a block. -/
def installModel (d : BitVec 5) (b : List Byte) (s : State) : State := withManifest b (installReady d b) s

/-- WBIND_INSTALL (R350). -/
def execWbindInstall (d a : BitVec 5) (s : State) : Out := .next (withBlock a 64 (installModel d) s)

/-- `wbind` ERASE on a block; a byte that is not zero answers as for the other blocks (R6; log entry 63). -/
def eraseEntry (d : BitVec 5) (b : List Byte) (s : State) : State :=
  let e := fieldAt b 0 4
  if !zeroAt b 4 60 then s.answers d 2
  else if s.store.any fun x => x.num == e then
    ({ s with store := s.store.filter fun x => x.num != e } : State).answers d 0
  else s.answers d 8

/-- WBIND_ERASE (R350). -/
def execWbindErase (d a : BitVec 5) (s : State) : Out := .next (withBlock a 64 (eraseEntry d) s)

/-! ### The end of a load (R347 to R350, R403) -/

/-- The owner key unwrapped with a report key pair (R347). -/
def unwrapOwner (draw : Nat) (blob : List Byte) : Option (BitVec 256) :=
  let k := Config.reportScalar draw
  match Crypto.ecdh k (blob.take 64) with
  | none => none
  | some z =>
    (Crypto.keyUnwrap (Crypto.sha256 (z ++ Crypto.publicKey k)) (blob.drop 64)).map
      fun bs => BitVec.ofNat 256 (Crypto.beNat bs)

/-- Does the signature of a manifest verify (R346)? -/
def manifestSigned (m : List Byte) : Bool :=
  let n := 112 + 32 * fieldAt m 4 4
  Crypto.ecdsaVerify ((m.drop 16).take 64) ((m.drop n).take 64) (Crypto.sha256 (m.take n))

/-- The draw of the report key of a world. -/
def State.reportDraw (s : State) (w : BitVec 10) : Option Nat :=
  if w = 0 then s.report0 else (s.world w).bind World.report

def State.dropReport (s : State) (w : BitVec 10) : State :=
  if w = 0 then { s with report0 := none } else s.updWorld w fun x => { x with report := none }

/-- The owner's counter mode over stored bytes, from a byte offset that is a multiple of 16 (R346). -/
def ownerCrypt (k : BitVec 256) (o : Nat) (bs : List Byte) : List Byte :=
  Crypto.xorBytes bs (((List.range ((bs.length + 15) / 16)).flatMap fun i =>
    Crypto.aesEncrypt k (Crypto.leBytes 16 (o / 16 + i))).take bs.length)

/-- Shards in order: those that match their hash in one of four reads, in plaintext, and the index of the first that
does not. `errors` names a shard once for every read of it that ends in error, which counts as a mismatch; one that
cannot be read ends in error every time. -/
def goodShards (m : List Byte) (k : BitVec 256) (errors : List Nat) (stored : Nat → Nat → Option (List Byte)) (len : Nat) :
    Nat → Nat → List Byte × Option Nat
  | _, 0 => ([], none)
  | i, n + 1 =>
    let o := i * shardBytes
    match stored o (min shardBytes (len - o)) with
    | none => ([], some i)
    | some bs =>
      if errors.count i < 4 ∧ Crypto.shaBytes bs = (m.drop (112 + 32 * i)).take 32 then
        let r := goodShards m k errors stored len (i + 1) n
        (ownerCrypt k o bs ++ r.1, r.2)
      else ([], some i)

/-- Blows the next `n` free positions of a counter (R403). -/
def State.advance (s : State) (c n : Nat) : State :=
  if h : c < 16 then { s with fuses := s.fuses.set c (s.fuses[c] ++ List.replicate n ⟨3, 3, 0⟩) h } else s

/-- Free positions of a counter. -/
def State.freePositions (s : State) (c : Nat) : Nat := 320 - (s.fuses.toList.getD c []).length

/-- The status word of R341. -/
def sealStatus (kver shard code : Nat) : Word := BitVec.ofNat 64 (kver * 2 ^ 48 + shard * 2 ^ 16 + code)

/-- The end of a sealed load: on a failure its version is destroyed; LSTAT and the interrupt follow. -/
def State.endSeal (s : State) (j : SealJob) (code shard : Nat) : State :=
  let st := sealStatus j.kver.toNat shard code
  let t := s.updWorld j.wid fun w =>
    let vs := if code = 0 then
        mapIf (fun x => x.ver == j.kver) (fun x => { x with pending := false }) w.versions
      else w.versions.filter fun x => x.ver != j.kver
    { w with versions := vs, lstat := st }
  t.post 0x8004 st 0

/-- The stored `.rodata` of a job in memory; none where it is not populated, or a line of it cannot be read: a read
error, which counts as a mismatch (R348, R385). -/
def State.sealSource (s : State) (j : SealJob) (o n : Nat) : Option (List Byte) :=
  if s.populated (j.src + o) n && (s.plainLost j.core (j.src + o) n).isNone then some (s.plainBytes j.core (j.src + o) n)
  else none

/-- The error report of a line that keeps a shard from being read (R390). -/
def State.shardReport (s : State) (j : SealJob) (bad : Option Nat) : State :=
  match bad with
  | none => s
  | some i =>
    let o := i * shardBytes
    match s.plainLost j.core (j.src + o) (min shardBytes (j.len - o)) with
    | some l => s.lineReport l
    | none => s

/-- Stores the plaintext of a load, whole lines at its end. -/
def State.storeSealed (s : State) (j : SealJob) (bs : List Byte) : State :=
  let pad := (64 - bs.length % 64) % 64
  s.placeBytes j.wid j.kver j.dst j.doff (bs ++ (List.range pad).map (Config.openByte s.tick))

/-- The last checks and the shard loop of a load into a world, from the plaintext it yields. -/
def State.loadShards (s : State) (j : SealJob) (m plain : List Byte) (bad : Option Nat) : State :=
  let c := fieldAt m 2 1
  let ar := fieldAt m 8 4
  let imgm := ((s.world j.wid).map fun w => w.imgm).getD 0
  if !zeroAt m 80 32 && Crypto.beBytes 32 imgm.toNat ≠ (m.drop 80).take 32 then s.endSeal j 6 0
  else if ar < s.fuseValue c then s.endSeal j 5 0
  else
    let t := s.storeSealed j plain
    match bad with
    | some i => t.endSeal j 4 i
    | none =>
      let need := if fieldAt m 3 1 = 1 then ar - t.fuseValue c else 0
      if t.freePositions c < need then t.endSeal j 5 0 else (t.advance c need).endSeal j 0 0

/-- Bytes of a store entry as the owner's shards stand, from a byte offset that is a multiple of 16: decrypted with
K_s, in counter mode as the owner's, and encrypted with K_o, which is what the hashes of its manifest cover (log
entry 103). -/
def StoreEntry.stored (e : StoreEntry) (o n : Nat) : List Byte :=
  ownerCrypt e.owner o (ownerCrypt (Config.drawnKey e.draw) o ((e.contents.drop o).take n))

/-- The `n`-th job of the controller, a load, ends (R348). -/
def State.completeLoad (s : State) (n : Nat) : State :=
  match s.seals[n]? with
  | none => s
  | some j =>
    if j.install then s
    else
      let s := { s with seals := s.seals.eraseIdx n }
      let m := j.manifest
      if j.srck = 0 then
        match (if manifestSigned m then (s.reportDraw j.wid).bind fun r => unwrapOwner r j.wrapped else none) with
        | none => s.endSeal j 7 0
        | some k =>
          let s := s.dropReport j.wid
          let s := s.beforePlain j.core j.src j.len
          let r := goodShards m k j.errors (s.sealSource j) j.len 0 (fieldAt m 4 4)
          (s.shardReport j r.2).loadShards j m r.1 r.2
      else
        match s.store.find? fun e => e.num == j.src with
        | none => s.loadShards j m [] (some 0)
        | some e =>
          let r := goodShards m e.owner j.errors (fun o n => some (e.stored o n)) j.len 0 (fieldAt m 4 4)
          s.loadShards j m r.1 r.2

/-- SEALED_LOAD_COMPLETE (R348). -/
def execSealedLoadComplete (n : Nat) (s : State) : Out := .next (s.completeLoad n)

/-- The end of an installation: only the interrupt tells of it. -/
def State.endInstall (s : State) (code shard : Nat) : State := s.post 0x8004 (sealStatus 0 shard code) 0

/-- INSTALL_COMPLETE (R350): the `n`-th job of the controller, an installation, ends. Where the stored
shards lie is not said, so their bytes are free. -/
def execInstallComplete (n : Nat) (s : State) : Out :=
  .next
    (match s.seals[n]? with
     | none => s
     | some j =>
       if !j.install then s
       else
         let s := { s with seals := s.seals.eraseIdx n }
         let m := j.manifest
         match (if manifestSigned m then (s.reportDraw j.wid).bind fun r => unwrapOwner r j.wrapped else none) with
         | none => s.endInstall 7 0
         | some k =>
           let s := s.dropReport j.wid
           if fieldAt m 8 4 < s.fuseValue (fieldAt m 2 1) then s.endInstall 5 0
           else
             match goodShards m k j.errors (fun o n => some ((List.range n).map fun i => Config.openByte s.tick (o + i))) j.len
                 0 (fieldAt m 4 4) with
             | (_, some i) => s.endInstall 4 i
             | (plain, none) =>
               let e : StoreEntry :=
                 { num := j.src, manifest := m, owner := k, draw := s.draws
                   contents := ownerCrypt (Config.drawnKey s.draws) 0 plain }
               ({ s with store := s.store ++ [e], draws := s.draws + 1 } : State).endInstall 0 0)

end Sys2Proof.Machine
end

