-- ==== Sys2Proof/Machine/Boot.lean ====
section
/-! DEFINITION. Reset, the placing of the boot image and the start of the boot hart (R366), with the layout
of an image file (R67 to R80), the checks of the loader (R88) and the recovery of interrupted counter
advances (R403). -/

namespace Sys2Proof.Machine

/-! ### Reset (R366, R387, R403, R406) -/

/-- What the controller makes of a counter position at boot (R403). -/
def FusePos.recover (p : FusePos) : FusePos :=
  if p.discard = 1 ∨ p.discard = 2 then { p with discard := 3 }
  else if p.committed || p.discarded || p == ⟨0, 0, 0⟩ then p
  else if p.mark = 3 then { p with commit := 3 }
  else { p with discard := 3 }

/-- The machine after a reset. Memory other than the scratchpads is not cleared (R366); the retirement log,
the error log, the fuses, the installed model store, the firmware stores and the management settings are not
volatile, and a firmware image that waits takes effect (R406). -/
def State.deviceReset (s : State) : State :=
  { State.reset with
    mem := Bytes.keep s.mem (2 ^ 52)
    macs := s.macs
    lost := s.lost
    retired := s.retired
    errorLog := s.errorLog
    fuses := s.fuses.map fun l => l.map FusePos.recover
    powerLimit := s.powerLimit
    tempLimit := s.tempLimit
    powerState := s.powerState
    fwActive := s.fwInactive.getD s.fwActive
    fwMinimum := s.fwMinimum
    outbox := s.outbox
    hostUp := s.hostUp
    link := { Link.reset with up := s.link.up }
    devIndex := s.devIndex
    domain := s.domain
    farLists := s.farLists
    draws := s.draws
    store := s.store
    agenda := s.agenda
    tick := s.tick }

/-- RESET (R366). -/
def execReset (s : State) : Out := .next s.deviceReset

/-! ### An advance that a reset cuts off (R403) -/

/-- The positions of a counter after the first `k` cells of an advance: the two cells of a position's mark, then the
two of its commit. -/
def cutCells (k : Nat) : List FusePos :=
  List.replicate (k / 4) ⟨3, 3, 0⟩ ++
    (match k % 4 with
     | 0 => []
     | 1 => [⟨1, 0, 0⟩]
     | 2 => [⟨3, 0, 0⟩]
     | _ => [⟨3, 1, 0⟩])

/-- The positions of a counter. -/
def State.positions (s : State) (c : Nat) : List FusePos := s.fuses.toList.getD c []

/-- Would the end of the `n`-th job advance a counter by more than `k` cells? -/
def State.advances (s : State) (c k n : Nat) : Bool :=
  decide (k < 4 * (((s.completeLoad n).positions c).length - (s.positions c).length))

/-- A reset comes while a sealed load that ends advances a counter: `k` cells have been blown. -/
def State.cutAdvance (s : State) (c : BitVec 4) (k : Nat) : State :=
  match (List.range s.seals.length).find? (s.advances c.toNat k) with
  | none => s
  | some n =>
    ({ s.completeLoad n with fuses := s.fuses.set c.toNat (s.fuses[c.toNat] ++ cutCells k) c.isLt } : State).deviceReset

/-! ### The image file (R67 to R80) -/

/-- A section-table entry (R69) with its contents. -/
structure Section where
  type   : Nat
  flags  : Nat
  align  : Nat
  offset : Nat
  fsize  : Nat
  msize  : Nat
  slot   : Nat
  entSize : Nat
  spare  : Bool
  body   : List Byte
deriving DecidableEq, Repr

/-- Entry `i` of the section table. -/
def sectionAt (file : List Byte) (i : Nat) : Section :=
  let e := (file.drop (64 + 48 * i)).take 48
  { type := fieldAt e 0 2
    flags := fieldAt e 2 2
    align := fieldAt e 4 4
    offset := fieldAt e 8 8
    fsize := fieldAt e 16 8
    msize := fieldAt e 24 8
    slot := fieldAt e 32 4
    entSize := fieldAt e 36 4
    spare := zeroAt e 40 8
    body := (file.drop (fieldAt e 8 8)).take (fieldAt e 16 8) }

def sectionsOf (file : List Byte) : List Section := (List.range (fieldAt file 8 2)).map (sectionAt file)

/-- The section of a type, when the file has one. -/
def sectionOf (l : List Section) (type : Nat) : Option Section := l.find? fun x => x.type == type

/-- The contents of the section of a type; empty when the file has none. -/
def bodyOf (l : List Section) (type : Nat) : List Byte := ((sectionOf l type).map Section.body).getD []

/-- Are types strictly ascending? -/
def ascending : List Section → Bool
  | a :: b :: t => decide (a.type < b.type) && ascending (b :: t)
  | _ => true

/-- The FLAGS of a section type in an image that is not sealed (R69). -/
def flagsOf (type : Nat) : Nat := [0, 5, 1, 3, 3, 1, 0, 1, 1, 0, 0, 0].getD type 0

/-- The ENTSIZE of a section type (R69). -/
def entSizeOf (type : Nat) : Nat := if type = 5 then 16 else if type = 11 then 24 else 0

/-- Does a section entry of an image that is not sealed fit R69 and the file? -/
def Section.good (x : Section) (n : Nat) : Bool :=
  decide (1 ≤ x.type ∧ x.type ≤ 11) && x.flags == flagsOf x.type && x.entSize == entSizeOf x.type &&
    decide (6 ≤ x.align ∧ x.align ≤ 20) && x.spare && decide (x.offset % 64 = 0) && decide (x.offset + x.fsize ≤ n) &&
    (if x.type = 4 then x.offset == 0 && x.fsize == 0 else x.msize == x.fsize)

/-- The offsets of the records of a section in which each record gives its own length, from `o`. Where the length
is 0 no record begins: a gap of zero bytes between two contributions (R86) is passed over, `gap` bytes at a
time. -/
def recordsFrom (size : List Byte → Nat) (gap : Nat) : Nat → Nat → List Byte → List Nat
  | 0, _, _ => []
  | fuel + 1, o, bs =>
    let n := size (bs.drop o)
    if bs.length ≤ o then []
    else if n = 0 then recordsFrom size gap fuel (o + gap) bs
    else o :: recordsFrom size gap fuel (o + n) bs

/-- Gang descriptors of a `.gang` section, each at a multiple of 16 (R76). -/
def descriptors (bs : List Byte) : List Nat :=
  recordsFrom (fun b => (fieldAt b 12 4 + 15) / 16 * 16) 16 (bs.length / 16 + 1) 0 bs

/-- Are the reserved fields of a gang descriptor zero? -/
def descClear (bs : List Byte) (o : Nat) : Bool :=
  zeroAt bs (o + 3) 1 && (List.range (fieldAt bs (o + 6) 2)).all fun g => zeroAt bs (o + 16 + 16 * g + 8) 8

/-- Schedule records (R77), whose KIND is not 0, and tensor shape records (R78), whose RANK is not 0. -/
def schedRecords (bs : List Byte) : List Nat :=
  recordsFrom (fun b => if fieldAt b 0 2 = 0 then 0 else (16 + 8 * fieldAt b 4 4 + 15) / 16 * 16) 16
    (bs.length / 16 + 1) 0 bs

def shapeRecords (bs : List Byte) : List Nat :=
  recordsFrom (fun b => if fieldAt b 5 1 = 0 then 0 else 8 + 8 * fieldAt b 5 1) 8 (bs.length / 8 + 1) 0 bs

/-- Are the reserved bits of a schedule record zero: those of its header, and of its step words, [43:32] and [23:0]
in a reduction (R276), [43:32] and [15:0] in balancing (R284)? -/
def schedClear (bs : List Byte) (o : Nat) : Bool :=
  let low := if fieldAt bs o 2 = 1 then 2 ^ 24 else 2 ^ 16
  zeroAt bs (o + 8) 8 && (List.range (fieldAt bs (o + 4) 4)).all fun i =>
    let v := fieldAt bs (o + 16 + 8 * i) 8
    v / 2 ^ 32 % 2 ^ 12 == 0 && v % low == 0

/-- Are the reserved fields of the sections all zero (R73 to R80)? A section that is absent has none. -/
def reservedClear (l : List Section) : Bool :=
  let gang := bodyOf l 7
  let sched := bodyOf l 8
  let shape := bodyOf l 9
  let sealed := bodyOf l 10
  zeroAt (bodyOf l 6) 8 8 && zeroAt (bodyOf l 11) 8 8 && (descriptors gang).all (descClear gang) &&
    (schedRecords sched).all (schedClear sched) &&
    (shapeRecords shape).all (fun o => zeroAt shape (o + 6) 2) && zeroAt sealed 2 2 && zeroAt sealed 12 4 &&
    (List.range (fieldAt sealed 4 4)).all fun i => zeroAt sealed (48 + 56 * i + 2) 2

/-- The checks of BOOT (R366, R88): KIND 2, WORLD 0, STACK at most 1 MiB, and a `.gang` that begins with a
descriptor of HARTS 1. Of the other fields of that descriptor, none of which a rule has BOOT check, WEIGHT must be 0, 1,
2 or 4, since no share is another number (R14, R265; log entry 118). -/
def imageGood (file : List Byte) : Bool :=
  let l := sectionsOf file
  fieldAt file 0 4 == 0x1A464F41 && fieldAt file 4 2 == 1 && fieldAt file 6 2 == 2 &&
    decide (1 ≤ fieldAt file 8 2 ∧ fieldAt file 8 2 ≤ 11) && fieldAt file 10 2 == 0 && fieldAt file 16 8 == 64 &&
    decide (fieldAt file 24 8 ≤ 2 ^ 20) && decide (fieldAt file 24 8 % 64 = 0) && zeroAt file 32 32 &&
    ascending l && l.all (fun x => x.good file.length) && reservedClear l &&
    decide (32 ≤ (bodyOf l 7).length) && fieldAt (bodyOf l 7) 0 2 == 1 &&
    ([0, 1, 2, 4] : List Nat).contains (fieldAt (bodyOf l 7) 19 1) &&
    decide (1 ≤ (bodyOf l 5).length / 16 ∧ (bodyOf l 5).length / 16 ≤ 65536)

/-! ### Placing the image (R366, R71) -/

/-- The least multiple of `n` that is not below `a`. -/
def roundUp (a n : Nat) : Nat := (a + n - 1) / n * n

/-- The LOAD sections with their addresses, in ascending type order from address `a`, each at the next multiple of
2^ALIGN, and the first address after them. `.bss` comes next after `.data` (R71; log entry 119). -/
def layout : Nat → List Section → List (Section × Nat) × Nat
  | a, [] => ([], a)
  | a, x :: t =>
    if x.flags % 2 = 0 then layout a t
    else
      let b := roundUp a (2 ^ x.align)
      let (l, e) := layout (b + x.msize) t
      ((x, b) :: l, e)

/-- The address of the section of a type; 0 for one that is not placed. -/
def placeOf (l : List (Section × Nat)) (type : Nat) : Nat :=
  match l.find? fun p => p.1.type == type with
  | some (_, a) => a
  | none => 0

/-- Symbol `i`: section type and section offset (R80). -/
def symbolAt (sym : List Byte) (i : Nat) : Nat × Nat := (fieldAt sym (16 + 24 * i + 4) 2, fieldAt sym (16 + 24 * i + 8) 8)

/-- The address of a symbol. -/
def symbolPlace (l : List (Section × Nat)) (sym : List Byte) (i : Nat) : Nat :=
  let (sect, v) := symbolAt sym i
  placeOf l sect + v

/-- The address of slot `i` of the image: slot 0 is the scratchpad, a section slot its section, and any other
the tensor that its slot record names (R71, R73). An index with neither a section nor a record has BASE 0 (log entry
120). -/
def slotPlace (l : List (Section × Nat)) (sym reloc : List Byte) (i : Nat) : Nat :=
  if i = 0 then scratchBase
  else
    match l.find? fun p => p.1.slot == i with
    | some (_, a) => a
    | none =>
      match (List.range (fieldAt reloc 0 4)).find? fun r => fieldAt reloc (16 + 32 * r) 4 == i with
      | some r => symbolPlace l sym (fieldAt reloc (16 + 32 * r + 4) 4)
      | none => 0

/-- Slot word `i` of an image as its file gives it; slot 0 has rights read and write, chain 0, ATTR 0 and LEN equal
to STACK, whatever the file says (R71, R366). -/
def fileWord (stack : Nat) (slots : List Byte) (i : Nat) : SlotWord :=
  let w := SlotWord.ofNat (fieldAt slots (16 * i) 16)
  if i = 0 then { w with attr := 0, len := BitVec.ofNat 32 stack, chain := 0, rights := 3 } else w

/-- Slot word `i` as placed: resident, KEYID, VERSION and GEN 0 (R366). -/
def placedWord (stack : Nat) (l : List (Section × Nat)) (sym reloc slots : List Byte) (i : Nat) : SlotWord :=
  { fileWord stack slots i with
    keyid := 0
    version := 0
    gen := 0
    state := 0
    base := BitVec.ofNat 46 (slotPlace l sym reloc i / 64) }

/-- The slot table (R304): NEXT 0, LAST, CODE, and the slot words. An image without a placed `.text` has CODE
0xFFFF_FFFF, above every LAST (log entry 120). -/
def tableBytes (stack : Nat) (l : List (Section × Nat)) (sym reloc slots : List Byte) : List Byte :=
  let n := slots.length / 16
  let code := ((l.find? fun p => p.1.type == 1).map fun p => p.1.slot).getD 0xFFFFFFFF
  Crypto.leBytes 8 0 ++ Crypto.leBytes 4 (n - 1) ++ Crypto.leBytes 4 code ++ List.replicate 48 0 ++
    (List.range n).flatMap fun i => Crypto.leBytes 16 (placedWord stack l sym reloc slots i).toNat

/-- The PHYS64 entries of `.reloc`, as a place and a value (R74, KIND 6). -/
def physEntries (l : List (Section × Nat)) (sym reloc : List Byte) : List (Nat × Nat) :=
  let base := 16 + 32 * fieldAt reloc 0 4
  (List.range (fieldAt reloc 4 4)).filterMap fun i =>
    let o := base + 24 * i
    if fieldAt reloc o 2 = 6 then
      some (placeOf l (fieldAt reloc (o + 2) 2) + fieldAt reloc (o + 8) 8,
        (symbolPlace l sym (fieldAt reloc (o + 4) 4) + fieldAt reloc (o + 16) 8) % 2 ^ 64)
    else none

/-- Places a checked image in stack 0. -/
def State.placeImage (s : State) (file : List Byte) : State :=
  let sections := sectionsOf file
  let (l, e) := layout 0 sections
  let sym := bodyOf sections 11
  let reloc := bodyOf sections 6
  let gang := bodyOf sections 7
  let slots := bodyOf sections 5
  let table := roundUp e 64
  let words := tableBytes (fieldAt file 24 8) l sym reloc slots
  let csa := roundUp (table + words.length) 64
  let s := l.foldl (fun t p => t.rawWrite p.2 (padTo p.1.msize p.1.body)) s
  let s := s.rawWrite table words
  let s := (physEntries l sym reloc).foldl (fun t p => t.rawWrite p.1 (Crypto.leBytes 8 p.2)) s
  let s := (descriptors gang).foldl (fun t o => t.rawWrite (placeOf l 7 + o + 8) [0, 0]) s
  { s with boot := .placed (BitVec.ofNat 64 table) (BitVec.ofNat 52 csa) (gang.take 32) }

/-- BOOT (R366), with the bytes that the controller reads over the host link. -/
def execBoot (image : List Byte) (s : State) : Out :=
  .next
    (match s.boot with
     | .awaiting => if s.hostUp && imageGood image then s.placeImage image else s.emit .bootRefused
     | .placed _ _ _ | .running => s)

/-! ### The boot hart (R366, step 5) -/

/-- The gang of the boot hart: handle 1, world 0, one member on this device, with ROLE, WEIGHT and ENTRY as the
descriptor has them (log entry 118). -/
def bootGang (dev : BitVec 8) (table : Word) (code : BitVec 32) (desc : List Byte) : Gang where
  gid := 1
  wid := 0
  chain := BitVec.ofNat 16 (fieldAt desc 4 2)
  devs := [dev]
  members :=
    [{ rank := 0
       dev := dev
       ser := some 0
       role := BitVec.ofNat 2 (fieldAt desc 18 1)
       weight := BitVec.ofNat 8 (fieldAt desc 19 1)
       entry := BitVec.ofNat 32 (fieldAt desc 20 4)
       live := true
       joins := 0
       arrived := 0 }]
  wlmask := BitVec.ofNat 16 (fieldAt desc 10 2)
  table := table
  code := code
  phase := .started
  die := 0
  marks := Vector.replicate 16 0
  epochs := Vector.replicate 16 0
  reds := []
  cancel := none
  lists := (maskLists (fieldAt desc 10 2)).map Worklist.fresh
  sliceReady := false
  inSlice := false
  broken := false

/-- BOOT_HART_START (R366). -/
def execBootHartStart (s : State) : Out :=
  .next
    (match s.boot with
     | .placed table csa desc =>
       let g := bootGang s.devIndex table (s.tabCode table.toNat) desc
       match g.members with
       | m :: _ =>
         let t : State := { s with boot := .running, gangs := [g], handles := 1, htab := table, hvec := 0 }
         ({ t with hart := { t.newHart g m 0 0 csa with life := .running } } : State).saveContext
       | [] => s
     | .awaiting | .running => s)

end Sys2Proof.Machine
end

