-- ==== Sys2Proof/Machine/Lines.lean ====
section
/-! DEFINITION. What the memory side does on its own: line fills and write-backs of the slices (R206, R333,
R335) and the arrival of fabric packets (R221); and the host link (R396). -/

namespace Sys2Proof.Machine

/-! ### Slices (R206, R333) -/

/-- Does a slot word's extent cover a byte of the line? -/
def SlotWord.covers (w : SlotWord) (line : Nat) : Bool :=
  decide (w.lo < line + 64 ∧ line < w.lo + w.len.toNat) && w.state != 1

/-- The first slot of the acting hart's table, with a key available to it, that covers a line and satisfies a
condition. -/
def State.coveringSlot (s : State) (line : Nat) (p : SlotWord → Bool) : Option SlotWord :=
  let t := s.ctx.table
  let fits (i : Nat) : Bool := (s.slotLost s.hart.core t i).isNone && match s.slotWord t i with
    | some w => w.covers line && s.keyAvailable s.ctx w line && p w
    | none => false
  (leastFrom fits 0 (s.tabLast t + 1)).bind (s.slotWord t)

/-- A slice fills a line for the acting hart: the move is counted where the line is performed, at NEW while an entry
forwards (R318), and the line is checked under the slot that covers
it. A line that a slot with ATTR uncached or device covers is never allocated (R205), and one that no slot of the hart
covers is not filled for it (log entry 92). -/
def State.checkFill (s : State) (line : Nat) : State :=
  match s.coveringSlot line (fun w => 2 ≤ w.attr.toNat), s.coveringSlot line fun w => w.attr.toNat < 2 with
  | none, some w =>
    let t := s.countLine (s.forward line / 64 * 64)
    if (t.readBytes t.ctx w line 64).isSome then t else t.lineFault 0 line line
  | _, _ => s

/-- Is it a line of populated local memory? -/
def State.localLine (s : State) (line : Nat) : Bool :=
  match regionOf line with
  | .hbm _ _ | .tier _ _ => s.populated line 64
  | _ => false

/-- LINE_FILL (R333, R335): a slice fills a line for a hart. A line that a slice holds dirty is not filled. -/
def execLineFill (ser : BitVec 16) (a : BitVec 52) (s : State) : Out :=
  let line := a.toNat / 64 * 64
  .next
    (if !s.localLine line || s.dirty.any (fun d => d.line == s.forward line / 64 * 64) then s
     else s.asHart ser fun t => t.checkFill line)

/-- LINE_WRITE_BACK (R206, R333): a slice writes a dirty line back; memory and the line's MAC are then what the
line holds, and the move is counted. -/
def execLineWriteBack (a : BitVec 52) (s : State) : Out :=
  let line := a.toNat / 64 * 64
  .next
    (if s.dirty.any fun d => d.line == line then
      ({ s with dirty := s.dirty.filter fun d => d.line != line } : State).countLine line
    else s)

/-- The dirty lines that one slice holds at most: 512 KiB (R15). -/
def sliceLines : Nat := 8192

/-- The dirty lines that the slices have room for, those last made dirty first. -/
def keptLines (l : List DirtyLine) : List DirtyLine :=
  l.foldl (fun kept d =>
    if (kept.filter fun x => sliceUnit x.line == sliceUnit d.line).length < sliceLines then kept ++ [d] else kept) []

/-- A slice that holds more dirty lines than it has room for writes the others back, those that have been dirty for
longest (log entry 141). -/
def State.trimSlices (s : State) : State :=
  if s.dirty.length ≤ sliceLines then s
  else
    let kept := keptLines s.dirty
    (s.dirty.filter fun d => !kept.contains d).foldl (fun t d => t.countLine d.line) { s with dirty := kept }

/-! ### Packets (R221) -/

/-- Is the vector instruction that a packet carries still queued, so that the packet has not left (R221)? -/
def State.unsent (s : State) (pk : Packet) : Bool :=
  match pk.stream with
  | .vector ser => s.harts.any fun h => h.alive && h.ser == ser && h.queue.any fun e => e.stamp == pk.num
  | .scalar _ | .job _ _ | .ticket _ _ | .list _ _ | .peer _ => false

/-- The packet of a number, when it is complete and no earlier packet of its stream to its device is in flight. -/
def State.arriving (s : State) (n : Nat) : Option Packet :=
  match s.packets[n]? with
  | none => none
  | some pk =>
    if ((s.packets.take n).any fun q => q.stream == pk.stream && q.dev == pk.dev) || s.unsent pk then none else some pk

/-- REMOTE_PACKET_ARRIVAL (R221): a packet arrives, and what is left of it performs. -/
def execRemotePacketArrival (n : Nat) (s : State) : Out :=
  .next
    (match s.arriving n with
     | none => s
     | some pk => ({ s with packets := s.packets.eraseIdx n } : State).arrive pk)

/-- One write of a packet that arrives performs before the others: the elements of one instruction perform in no fixed
order (R213). -/
def State.packetWrite (s : State) (n j : Nat) : State :=
  match s.arriving n with
  | none => s
  | some pk =>
    match pk.writes[j]? with
    | none => s
    | some w =>
      ({ s with packets := s.packets.mapIdx fun i p => if i = n then { p with writes := p.writes.eraseIdx j } else p } :
        State).commitFor pk.stream w

/-! ### The host link (R396) -/

/-- Gives an answer to the first access of the hart that waits for the host: a scalar one or a fetch, else that of the
oldest queued instruction. The completions of the reads that one access sends out make one answer (log entry 11). -/
def Hart.answered (h : Hart) (ok : Bool) (data : List Byte) : Hart :=
  if h.atHost && h.answer.isNone then { h with answer := some (ok, data) }
  else
    { h with
      queue := mapFirst (fun e => e.asked && e.answer.isNone) (fun e => { e with answer := some (ok, data) }) h.queue }

/-- HOST_COMPLETION (R396): a completion arrives; `ok` is false for an error status or a poisoned one. -/
def execHostCompletion (ser : BitVec 16) (ok : Bool) (data : List Byte) (s : State) : Out :=
  .next (s.updHart ser fun h => h.answered ok data)

/-- HOST_COMPLETION_TIMEOUT (R396): as a completion with an error. -/
def execHostCompletionTimeout (ser : BitVec 16) (s : State) : Out :=
  .next (s.updHart ser fun h => h.answered false [])

/-- HOST_WRITE_FAILURE (R396): an error report of CLASS 12 with the bus address. -/
def execHostWriteFailure (a : BitVec 64) (s : State) : Out := .next (s.report 12 1 0 1 a)

/-- HOST_LINK_DOWN (R396). -/
def execHostLinkDown (s : State) : Out := .next { s with hostUp := false }

/-- HOST_LINK_UP (R396). -/
def execHostLinkUp (s : State) : Out := .next { s with hostUp := true }

end Sys2Proof.Machine
end

