-- ==== Sys2Proof/Machine/VectorEntry.lean ====
section
/-! DEFINITION. The entry of a V, W or M instruction into its hart's queue: what it writes (R45, R141), the
checks of queue entry in their order (R14, R20, R32, R136, R138, R365, R375), the convoy it joins (R28,
R29), and what is captured with it (R101, R138, R357). The stirrup word lends to it (R31, R32). -/

namespace Sys2Proof.Machine

/-! ### The stirrup word (R31, R32) -/

/-- A stirrup loan that its follower cannot take: the trap is taken at the stirrup word, and neither
word has an effect. -/
def State.badStirrup (s : State) : State :=
  match s.hart.loan with
  | none => s.illegal
  | some l =>
    let w := (encode (if l.dc then .stirCopy l.k l.vdc else .stir l.k)).getD 0
    (s.mapHart fun h => { h with loan := none, pc := h.pc - 4, iw := w }).illegal

/-- The conditions of R32 on a follower in format V, W or M that the two words decide alone: a lent mask asks
for m = 1, a copy for a vector register destination. -/
def Hart.loanFits (h : Hart) (i : Instr) : Bool :=
  match h.loan with
  | some l => (l.k == 0 || masked i) && (!l.dc || writesVector i)
  | none => true

/-- STIR without a copy register: lends a mask; the last-destination record stays (R31). -/
def execStir (k : BitVec 4) (s : State) : Out :=
  .next (s.mapHart fun h => { h with loan := some ⟨k, false, 0⟩, pc := h.pc + 4 })

/-- STIR with a copy register (R31). -/
def execStirCopy (k : BitVec 4) (v : BitVec 5) (s : State) : Out :=
  .next (s.mapHart fun h => { h with loan := some ⟨k, true, v⟩, pc := h.pc + 4 })

/-! ### Groups (R141) -/

/-- A source group: first register, size, and whether it must be disjoint from the destination. -/
structure Src where
  reg   : BitVec 5
  size  : Nat
  apart : Bool
deriving DecidableEq, Repr

/-- Are a destination of `n` registers at `d` and a source disjoint, or equal where that is allowed? -/
def Src.fits (x : Src) (d n : Nat) : Bool :=
  decide (d + n ≤ x.reg.toNat ∨ x.reg.toNat + x.size ≤ d) || (!x.apart && d == x.reg.toNat && n == x.size)

/-- Is a destination aligned, and does it fit every source? -/
def destFits (srcs : List Src) (d n : Nat) : Bool := decide (d % n = 0) && srcs.all fun x => x.fits d n

/-- The registers of a destination: its size, by its kind. -/
def Dest.size (x : Dest) (g : Nat) : Nat :=
  match x with
  | .group _ => g
  | .single _ | .nothing | .pred _ => 1

/-- Does the instruction's own destination meet R141? -/
def ownFits (x : Dest) (g : Nat) (srcs : List Src) : Bool :=
  srcs.all (fun s => decide (s.reg.toNat % s.size = 0)) &&
    (match x with
      | .group r | .single r => destFits srcs r.toNat (x.size g)
      | .nothing | .pred _ => true)

/-! ### Convoys (R28, R29) -/

/-- The classes of the convoy once an instruction has joined it, or begun one; none when the convoy
holds its class already. -/
def Hart.joinConvoy (h : Hart) (i : Instr) (c : Class) : Option (List Class) :=
  match h.convoy with
  | none => some [c]
  | some l => if opensConvoy i then some [c] else if l.contains c then none else some (c :: l)

/-- The number of the convoy that an instruction joins, or begins (R28). -/
def Hart.convoyOf (h : Hart) (i : Instr) : Nat :=
  if h.convoy.isNone || opensConvoy i then h.convoys + 1 else h.convoys

/-- An instruction has joined its convoy, which is then open with the given classes. -/
def Hart.joined (h : Hart) (i : Instr) (cv : List Class) : Hart := { h with convoy := some cv, convoys := h.convoyOf i }

/-! ### Entry -/

/-- What check 6 asks of an instruction beside its VTYPE and VL: its source groups, its own conditions,
and the condition on a copy register lent to it. -/
structure Form where
  srcs : List Src
  ok   : Bool
  copy : Nat → Bool := fun _ => true

/-- The context whose vector state `vsr`, `vlr`, `tsave` and `trest` act on (R376). -/
def State.viewed (s : State) : Hart :=
  match s.hart.view with
  | .own => s.hart
  | .ctx a => if s.hart.hm then (s.contextAt a).getD s.hart else s.hart

/-- The entry that captures the acting hart's values (R138, R357). A seed is captured under SR only. -/
def Hart.entryOf (h : Hart) (i : Instr) (c : Class) (ops : Vector Operand 3) (strides : Vector Word 3)
    (seed : Word) (stamp : Nat) : QEntry where
  addr := h.pc
  instr := i
  cls := c
  loan := h.loan
  vl := h.vl.toNat
  start := 0
  vtype := h.vtype
  rm := h.frm
  tshp := h.tshp
  seed := seed
  ops := ops
  strides := strides
  mask := none
  probed := none
  limit := 0
  asked := false
  answer := none
  early := []
  convoy := h.convoyOf i
  done := false
  aged := false
  resumed := false
  stamp := stamp

/-- Three captured operands, in the order of the written form. -/
def Hart.operands (h : Hart) (l : List (BitVec 5)) : Vector Operand 3 :=
  Vector.ofFn fun j : Fin 3 => match l[j.val]? with
    | some r => h.operand r
    | none => .zero

def noStrides : Vector Word 3 := Vector.replicate 3 0

/-- Pushes an entry; the front end waits while the queue is full (R212). -/
def State.push (s : State) (e : QEntry) (after : Hart → Hart) : State :=
  if 64 ≤ s.hart.queue.length then s.waitFor .retry
  else (s.mapHart fun h => after { h with queue := h.queue ++ [e] }).retire none

/-- The stamp of an entry made at this step. -/
def State.stamp (s : State) : Nat := 64 * s.tick

/-- Is the effective mode of a V or W instruction SR (R98, R101)? -/
def Hart.drawsSeed (h : Hart) (c : Class) : Bool :=
  c != .feed && decide (vectorMode h.vtype h.frm = .sr)

/-- Check 7: the stirrup rule, then the convoy rule; goes on with the convoy that the instruction leaves open. -/
def State.joining (s : State) (i : Instr) (c : Class) (f : List Class → State) : State :=
  if !s.hart.loanFits i then s.badStirrup
  else
    match s.hart.joinConvoy i c with
    | none => s.illegal
    | some cv => f cv

/-- Checks 6 and 7, and then the entry itself: SEED advances under SR, and an instruction whose captured
VL is 0 retires at once (R101, R138). -/
def State.enqueue (s : State) (i : Instr) (c : Class) (ops : List (BitVec 5)) (strides : Vector Word 3)
    (f : Form) : State :=
  let h := s.hart
  let g := vtG h.vtype
  let d := destOf i
  if vtVill h.vtype || vlmax h.vtype s.viewed.c < h.vl.toNat then s.illegal
  else if !f.ok || !ownFits d g f.srcs then s.illegal
  else if (match h.loan with
      | some l => l.dc && writesVector i && !(destFits f.srcs l.vdc.toNat (d.size g) && f.copy l.vdc.toNat)
      | none => false) then s.badStirrup
  else
    s.joining i c fun cv =>
      let sr := h.drawsSeed c
      let after := fun h : Hart => { h.joined i cv with seed := if sr then h.seed + 1 else h.seed }
      if h.vl = 0 then (s.mapHart after).retire none
      else s.push (h.entryOf i c (h.operands ops) strides (if sr then h.seed else 0) s.stamp) after

/-- Goes on with the hart's vector state in lanes; a hart without a share takes its trap (R14, R20, R375). -/
def State.inLanes (s : State) (f : State → State) : State :=
  s.withLanes fun t => if t.hart.share = 0 then t.takeTrap 9 0 (t.hart.iw.zeroExtend 64) else f t

/-- The entry of an instruction: in handler mode it is illegal; then the state must come into lanes, a
hart without a share takes its trap, and checks 6 and 7 follow (R14, R20, R365, R375). The form is taken
with the VTYPE captured. -/
def enter (i : Instr) (ops : List (BitVec 5)) (f : State → Form) (strides : Hart → Vector Word 3 := fun _ => noStrides)
    (s : State) : State :=
  match classOf i with
  | none => s.illegal
  | some c =>
    if s.hart.hm then s.illegal
    else s.inLanes fun t => t.enqueue i c ops (strides t.hart) (f t)

/-! ### Forms -/

/-- The type of VTYPE, where one of a kind is required. -/
def State.etIs (s : State) (p : ETy → Bool) : Bool :=
  match vtET s.hart.vtype with
  | some t => p t
  | none => false

/-- An integer type, not bipolar (R145). -/
def ETy.plainInt (t : ETy) : Bool := !t.isFloat && t != .bipolar

/-- FP64, FP32, FP16 or BF16 (R147). -/
def ETy.wideFloat (t : ETy) : Bool := [ETy.flt .fp64, .flt .fp32, .flt .fp16, .flt .bf16].contains t

/-- Source groups of the captured G. -/
def State.groups (s : State) (apart : Bool) (l : List (BitVec 5)) : List Src :=
  l.map fun r => ⟨r, vtG s.hart.vtype, apart⟩

/-- A form whose sources are groups that may equal the destination. -/
def plainForm (l : List (BitVec 5)) (p : ETy → Bool) (s : State) : Form := ⟨s.groups false l, s.etIs p, fun _ => true⟩

/-- A form whose sources must be disjoint from the destination. -/
def apartForm (l : List (BitVec 5)) (p : ETy → Bool) (s : State) : Form := ⟨s.groups true l, s.etIs p, fun _ => true⟩

def anyType (_ : ETy) : Bool := true

end Sys2Proof.Machine
end

