-- ==== Sys2Proof/Machine/VectorWrite.lean ====
section
/-! DEFINITION. How a queued instruction writes its destination: active elements, mask and tail policy
(R25, R142), element groups (R143, R358), a lent copy register (R32), predicates bit by bit. -/

namespace Sys2Proof.Machine

/-- Is element `i` active (R25)? The mask is captured when the instruction starts. -/
def QEntry.active (e : QEntry) (i : Nat) : Bool :=
  match e.mask with
  | none => true
  | some k => (Bytes.get k (i / 8)).getLsbD (i % 8)

/-- Elements in one element group, 1 KiB of register data, in whole packing units; a conversion counts them at the
type that it writes (R143; log entry 115). -/
def ETy.perGroup (t : ETy) : Nat := t.unitElems * (1024 / t.unitBytes)

/-- Where the element group that holds element `lo` ends, at most at `hi`. -/
def ETy.groupEnd (t : ETy) (lo hi : Nat) : Nat := min hi (lo / t.perGroup * t.perGroup + t.perGroup)

/-- Writes many elements, an element group at a time. -/
def putLong (regs : Vector VReg 32) (c v : Nat) (t : ETy) (lo : Nat) (vals : List (Option Nat)) :
    Vector VReg 32 :=
  (List.range ((vals.length + t.perGroup - 1) / t.perGroup)).foldl (fun rs k =>
    writeElems rs c v t (lo + k * t.perGroup) ((vals.drop (k * t.perGroup)).take t.perGroup)) regs

/-- Clears `n` bytes of a group image from a position. -/
def clearBytes (regs : Vector VReg 32) (c v pos n : Nat) : Vector VReg 32 :=
  (List.range 8).foldl (fun rs j =>
    let lo := max pos (j * c)
    let hi := min (pos + n) ((j + 1) * c)
    if lo < hi then setReg rs (v + j) fun x => { x with img := Bytes.clear x.img (lo - j * c) (hi - lo) }
    else rs) regs

/-- Writes zero to elements `lo` to `hi` − 1; `hi` stands at a packing-unit boundary. -/
def clearElems (regs : Vector VReg 32) (c v : Nat) (t : ETy) (lo hi : Nat) : Vector VReg 32 :=
  if hi ≤ lo then regs
  else
    let u := (lo + t.unitElems - 1) / t.unitElems
    let part := min (u * t.unitElems) hi - lo
    let rs := if part = 0 then regs else writeElems regs c v t lo (List.replicate part (some 0))
    clearBytes rs c v (u * t.unitBytes) (hi / t.unitElems * t.unitBytes - u * t.unitBytes)

/-- Writes elements of the destination group of `g` registers, and marks its width (R111). -/
def Hart.put (h : Hart) (e : QEntry) (r : BitVec 5) (g : Nat) (t : ETy) (lo : Nat) (vals : List (Option Nat)) :
    Hart :=
  { h with vreg := (e.copies r).foldl (fun rs v => tagGroup (putLong rs h.c v t lo vals) v g t.width) h.vreg }

/-- The tail policy from element `lo` on (R142). -/
def Hart.tail (h : Hart) (e : QEntry) (r : BitVec 5) (g : Nat) (t : ETy) (lo : Nat) : Hart :=
  if vtTP e.vtype then
    { h with vreg := (e.copies r).foldl (fun rs v => clearElems rs h.c v t lo (vlmaxFor t g h.c)) h.vreg }
  else h

/-- An element-wise instruction: the type it writes, its destination group, whether the mask leaves
every element active, and each element's result and flags. No result leaves the element unchanged. -/
structure Lane where
  t   : ETy
  d   : BitVec 5
  all : Bool
  f   : Nat → Option Nat × Flags

/-- The elements from START up to `hi`: results of the active ones, the mask policy for the others; flags
come from active elements only (R103, R142). -/
def Lane.run (x : Lane) (e : QEntry) (hi : Nat) (h : Hart) : Hart :=
  let rs := (List.range (hi - e.start)).map fun j =>
    if x.all || e.active (e.start + j) then x.f (e.start + j)
    else (if vtMP e.vtype then some 0 else none, Flags.none)
  (h.put e x.d (vtG e.vtype) x.t e.start (rs.map Prod.fst)).raise (rs.foldl (fun fl r => fl ||| r.2) .none)

/-- How an instruction stands after a micro-operation: complete, or to go on at an element. -/
inductive Went where
  | done
  | more (start : Nat)
deriving DecidableEq, Repr

/-- One element group of an element-wise instruction of class A (R143). -/
def Lane.group (x : Lane) (e : QEntry) (h : Hart) : Hart × Went :=
  let hi := x.t.groupEnd e.start e.vl
  let g := x.run e hi h
  if hi < e.vl then (g, .more hi) else (g.tail e x.d (vtG e.vtype) x.t e.vl, .done)

/-- A whole element-wise instruction of class P. -/
def Lane.whole (x : Lane) (e : QEntry) (h : Hart) : Hart × Went :=
  ((x.run e e.vl h).tail e x.d (vtG e.vtype) x.t e.vl, .done)

/-- Bit `i` of predicate `k` as a number of the instruction's own image. -/
def predBit (img : Bytes) (i : Nat) : Bool := (Bytes.get img (i / 8)).getLsbD (i % 8)

/-- A byte from eight bits, the first least significant. -/
def byteOf (f : Nat → Bool) : Byte :=
  BitVec.ofNat 8 ((List.range 8).foldr (fun j acc => 2 * acc + (if f j then 1 else 0)) 0)

/-- A predicate destination, written bit by bit (R142). -/
def Hart.putPred (h : Hart) (e : QEntry) (k : BitVec 5) (f : Nat → Bool) : Hart :=
  if hk : k.toNat < 12 then
    let img := h.kreg[k.toNat]
    let n := if vtTP e.vtype then vlmax e.vtype h.c else e.vl
    let new (i : Nat) : Bool :=
      if i < e.vl then
        if e.active i then f i else if vtMP e.vtype then false else predBit img i
      else if i < n then false else predBit img i
    let bs := (List.range ((n + 7) / 8)).map fun j => byteOf fun b => new (8 * j + b)
    { h with kreg := h.kreg.set k.toNat (Bytes.write img 0 bs) hk }
  else h

end Sys2Proof.Machine
end

