-- ==== Sys2Proof/Machine/VectorInt.lean ====
section
/-! DEFINITION. Vector integer instructions, major 0x28 (R145, R146), and the predicate instructions, major
0x2B (R155): what each does with an element, and its entry into the queue. -/

namespace Sys2Proof.Machine

/-- The encoding of an exact value in an integer type: Wrap, or a bipolar bit. -/
def ETy.encInt (t : ETy) (v : Int) : Nat :=
  match t with
  | .bipolar => if 0 < v then 1 else 0
  | _ => wrapNat t.width v

/-- Sat to an integer type (R93). -/
def ETy.encSat (t : ETy) (v : Int) : Nat × Flags :=
  let r := satInt t.width t.signed v
  (t.encInt r.1, if r.2 then .sat else .none)

/-- Element `i` of a source group at the captured type. -/
def Hart.elem (h : Hart) (e : QEntry) (r : BitVec 5) (i : Nat) : Nat := readElem h.vreg h.c r.toNat e.ety i

/-- Element `i` as an integer. -/
def Hart.intElem (h : Hart) (e : QEntry) (r : BitVec 5) (i : Nat) : Int := e.ety.intVal (h.elem e r i)

/-- The value of the first captured scalar operand. -/
def QEntry.scalar (e : QEntry) : Nat := (e.ops[0]).val.toNat

/-! ### What an element becomes -/

/-- `f` of two source elements, wrapped. -/
def intLane (d a b : BitVec 5) (f : Int → Int → Int) (e : QEntry) (h : Hart) : Lane :=
  ⟨e.ety, d, false, fun i => (some (e.ety.encInt (f (h.intElem e a i) (h.intElem e b i))), .none)⟩

/-- `f` of a source element and one value for all, wrapped. -/
def intLaneWith (d a : BitVec 5) (b : Int) (f : Int → Int → Int) (e : QEntry) (h : Hart) : Lane :=
  ⟨e.ety, d, false, fun i => (some (e.ety.encInt (f (h.intElem e a i) b)), .none)⟩

/-- `f` of two source elements, saturated. -/
def satLane (d a b : BitVec 5) (f : Int → Int → Int) (e : QEntry) (h : Hart) : Lane :=
  ⟨e.ety, d, false, fun i =>
    let r := e.ety.encSat (f (h.intElem e a i) (h.intElem e b i))
    (some r.1, r.2)⟩

/-- A bitwise operation on encodings. -/
def bitLane (d a b : BitVec 5) (f : Nat → Nat → Nat) (e : QEntry) (h : Hart) : Lane :=
  ⟨e.ety, d, false, fun i => (some (f (h.elem e a i) (h.elem e b i)), .none)⟩

def vmaccLane (d a b : BitVec 5) (e : QEntry) (h : Hart) : Lane :=
  ⟨e.ety, d, false, fun i =>
    (some (e.ety.encInt (h.intElem e d i + h.intElem e a i * h.intElem e b i)), .none)⟩

/-- A logical right shift reads the encoding as unsigned, an arithmetic one as signed. -/
def vsrliLane (d a : BitVec 5) (sh : Nat) (e : QEntry) (h : Hart) : Lane :=
  ⟨e.ety, d, false, fun i => (some (h.elem e a i / 2 ^ sh), .none)⟩

def vsraiLane (d a : BitVec 5) (sh : Nat) (e : QEntry) (h : Hart) : Lane :=
  ⟨e.ety, d, false, fun i =>
    (some (wrapNat e.ety.width (sintOf e.ety.width (h.elem e a i) / 2 ^ sh)), .none)⟩

/-- `vsel` writes every element; the mask chooses the source (R146). -/
def vselLane (d a b : BitVec 5) (e : QEntry) (h : Hart) : Lane :=
  ⟨e.ety, d, true, fun i => (some (if e.active i then h.elem e a i else h.elem e b i), .none)⟩

/-- The low W bits of the captured operand. -/
def QEntry.scalarEnc (e : QEntry) : Nat := e.scalar % 2 ^ e.ety.width

def vmvxLane (d : BitVec 5) (e : QEntry) (_ : Hart) : Lane :=
  ⟨e.ety, d, false, fun _ => (some e.scalarEnc, .none)⟩

/-- A compare of two source elements into a predicate. -/
def intCompare (d a b : BitVec 5) (f : Int → Int → Bool) (e : QEntry) (h : Hart) : Hart × Went :=
  (h.putPred e d fun i => f (h.intElem e a i) (h.intElem e b i), .done)

/-! ### Predicates (R155) -/

def predLane (d : BitVec 5) (f : Nat → Bool) (e : QEntry) (h : Hart) : Hart × Went :=
  (h.putPred e d f, .done)

/-- The least active index below VL whose bit of `a` is 1, or VL. -/
def QEntry.firstSet (e : QEntry) (h : Hart) (a : BitVec 5) : Nat :=
  (leastFrom (fun i => e.active i && h.kbit a.toNat i) 0 e.vl).getD e.vl

/-! ### Entry -/

/-- A shift by an immediate: negative amounts are illegal (R145). -/
def shiftForm (a i : BitVec 5) (s : State) : Form := ⟨s.groups false [a], s.etIs ETy.plainInt && !i.msb, fun _ => true⟩

def vmulType (t : ETy) : Bool := !t.isFloat
def intType (t : ETy) : Bool := !t.isFloat

/-- VADD (R145). -/
def execVadd (c m : BitVec 1) (d a b : BitVec 5) (s : State) : Out :=
  .next (enter (.vadd c m d a b) [] (plainForm [a, b] ETy.plainInt) (s := s))
/-- VSUB (R145). -/
def execVsub (c m : BitVec 1) (d a b : BitVec 5) (s : State) : Out :=
  .next (enter (.vsub c m d a b) [] (plainForm [a, b] ETy.plainInt) (s := s))
/-- VMUL (R145). -/
def execVmul (c m : BitVec 1) (d a b : BitVec 5) (s : State) : Out :=
  .next (enter (.vmul c m d a b) [] (plainForm [a, b] vmulType) (s := s))
/-- VMULH (R145). -/
def execVmulh (c m : BitVec 1) (d a b : BitVec 5) (s : State) : Out :=
  .next (enter (.vmulh c m d a b) [] (plainForm [a, b] ETy.plainInt) (s := s))
/-- VMIN (R145). -/
def execVmin (c m : BitVec 1) (d a b : BitVec 5) (s : State) : Out :=
  .next (enter (.vmin c m d a b) [] (plainForm [a, b] ETy.plainInt) (s := s))
/-- VMAX (R145). -/
def execVmax (c m : BitVec 1) (d a b : BitVec 5) (s : State) : Out :=
  .next (enter (.vmax c m d a b) [] (plainForm [a, b] ETy.plainInt) (s := s))
/-- VAND (R145). -/
def execVand (c m : BitVec 1) (d a b : BitVec 5) (s : State) : Out :=
  .next (enter (.vand c m d a b) [] (plainForm [a, b] ETy.plainInt) (s := s))
/-- VOR (R145). -/
def execVor (c m : BitVec 1) (d a b : BitVec 5) (s : State) : Out :=
  .next (enter (.vor c m d a b) [] (plainForm [a, b] ETy.plainInt) (s := s))
/-- VXOR (R145). -/
def execVxor (c m : BitVec 1) (d a b : BitVec 5) (s : State) : Out :=
  .next (enter (.vxor c m d a b) [] (plainForm [a, b] ETy.plainInt) (s := s))
/-- VSADD (R145). -/
def execVsadd (c m : BitVec 1) (d a b : BitVec 5) (s : State) : Out :=
  .next (enter (.vsadd c m d a b) [] (plainForm [a, b] ETy.plainInt) (s := s))
/-- VSSUB (R145). -/
def execVssub (c m : BitVec 1) (d a b : BitVec 5) (s : State) : Out :=
  .next (enter (.vssub c m d a b) [] (plainForm [a, b] ETy.plainInt) (s := s))
/-- VMACC (R145). -/
def execVmacc (c m : BitVec 1) (d a b : BitVec 5) (s : State) : Out :=
  .next (enter (.vmacc c m d a b) [] (plainForm [a, b] ETy.plainInt) (s := s))
/-- VADDX (R145). -/
def execVaddx (c m : BitVec 1) (d a b : BitVec 5) (s : State) : Out :=
  .next (enter (.vaddx c m d a b) [b] (plainForm [a] ETy.plainInt) (s := s))
/-- VMULX (R145). -/
def execVmulx (c m : BitVec 1) (d a b : BitVec 5) (s : State) : Out :=
  .next (enter (.vmulx c m d a b) [b] (plainForm [a] ETy.plainInt) (s := s))
/-- VADDI (R145). -/
def execVaddi (c m : BitVec 1) (d a i : BitVec 5) (s : State) : Out :=
  .next (enter (.vaddi c m d a i) [] (plainForm [a] ETy.plainInt) (s := s))
/-- VCMPEQ (R146). -/
def execVcmpeq (c m : BitVec 1) (d a b : BitVec 5) (s : State) : Out :=
  .next (enter (.vcmpeq c m d a b) [] (plainForm [a, b] intType) (s := s))
/-- VCMPLT (R146). -/
def execVcmplt (c m : BitVec 1) (d a b : BitVec 5) (s : State) : Out :=
  .next (enter (.vcmplt c m d a b) [] (plainForm [a, b] intType) (s := s))
/-- VCMPLE (R146). -/
def execVcmple (c m : BitVec 1) (d a b : BitVec 5) (s : State) : Out :=
  .next (enter (.vcmple c m d a b) [] (plainForm [a, b] intType) (s := s))
/-- VMVX (R146). -/
def execVmvx (c m : BitVec 1) (d b : BitVec 5) (s : State) : Out :=
  .next (enter (.vmvx c m d b) [b] (plainForm [] anyType) (s := s))
/-- KAND (R155). -/
def execKand (c m : BitVec 1) (d a b : BitVec 5) (s : State) : Out :=
  .next (enter (.kand c m d a b) [] (plainForm [] anyType) (s := s))
/-- KOR (R155). -/
def execKor (c m : BitVec 1) (d a b : BitVec 5) (s : State) : Out :=
  .next (enter (.kor c m d a b) [] (plainForm [] anyType) (s := s))
/-- KXOR (R155). -/
def execKxor (c m : BitVec 1) (d a b : BitVec 5) (s : State) : Out :=
  .next (enter (.kxor c m d a b) [] (plainForm [] anyType) (s := s))
/-- KANDN (R155). -/
def execKandn (c m : BitVec 1) (d a b : BitVec 5) (s : State) : Out :=
  .next (enter (.kandn c m d a b) [] (plainForm [] anyType) (s := s))
/-- KNOT (R155). -/
def execKnot (c m : BitVec 1) (d a : BitVec 5) (s : State) : Out :=
  .next (enter (.knot c m d a) [] (plainForm [] anyType) (s := s))
/-- KBEFORE (R155). -/
def execKbefore (c m : BitVec 1) (d a : BitVec 5) (s : State) : Out :=
  .next (enter (.kbefore c m d a) [] (plainForm [] anyType) (s := s))
/-- KSET (R155). -/
def execKset (c m : BitVec 1) (d : BitVec 5) (s : State) : Out :=
  .next (enter (.kset c m d) [] (plainForm [] anyType) (s := s))

/-- VSLLI (R145). -/
def execVslli (c m : BitVec 1) (d a i : BitVec 5) (s : State) : Out :=
  .next (enter (.vslli c m d a i) [] (shiftForm a i) (s := s))
/-- VSRLI (R145). -/
def execVsrli (c m : BitVec 1) (d a i : BitVec 5) (s : State) : Out :=
  .next (enter (.vsrli c m d a i) [] (shiftForm a i) (s := s))
/-- VSRAI (R145). -/
def execVsrai (c m : BitVec 1) (d a i : BitVec 5) (s : State) : Out :=
  .next (enter (.vsrai c m d a i) [] (shiftForm a i) (s := s))
/-- VSEL: every type, and m = 1 (R146). -/
def execVsel (c m : BitVec 1) (d a b : BitVec 5) (s : State) : Out :=
  .next (enter (.vsel c m d a b) [] (plainForm [a, b] fun _ => m == 1) (s := s))

end Sys2Proof.Machine
end

