-- ==== Sys2Proof/Machine/VectorFloat.lean ====
section
/-! DEFINITION. Vector floating instructions and the scaled pair, major 0x29 (R95, R147, R148), and the
conversions of major 0x2A (R100, R149, R150): what each does with an element, and its entry. -/

namespace Sys2Proof.Machine

/-- The captured type as a floating format. -/
def ETy.fmt (t : ETy) : Fmt :=
  match t with
  | .flt f => f
  | _ => .fp32

/-- The effective mode of an entry (R98). -/
def QEntry.mode (e : QEntry) : RMode := vectorMode e.vtype e.rm

/-- rnd(i) of R101. -/
def QEntry.rnd (e : QEntry) (i : Nat) : Word := rndWord e.seed i

def some' (r : Nat × Flags) : Option Nat × Flags := (some r.1, r.2)

/-! ### What an element becomes -/

/-- A rounding operation on two source elements. -/
def fltLane (d a b : BitVec 5) (f : Fmt → RMode → Word → Nat → Nat → Nat × Flags) (e : QEntry) (h : Hart) : Lane :=
  ⟨e.ety, d, false, fun i => some' (f e.ety.fmt e.mode (e.rnd i) (h.elem e a i) (h.elem e b i))⟩

def vfsqrtLane (d a : BitVec 5) (e : QEntry) (h : Hart) : Lane :=
  ⟨e.ety, d, false, fun i => some' (e.ety.fmt.sqrt e.mode (e.rnd i) (h.elem e a i))⟩

def vfmaLane (d a b : BitVec 5) (e : QEntry) (h : Hart) : Lane :=
  ⟨e.ety, d, false, fun i => some' (e.ety.fmt.fma e.mode (e.rnd i) (h.elem e a i) (h.elem e b i) (h.elem e d i))⟩

def vfminmaxLane (mx : Bool) (d a b : BitVec 5) (e : QEntry) (h : Hart) : Lane :=
  ⟨e.ety, d, false, fun i => some' (e.ety.fmt.minmax mx (h.elem e a i) (h.elem e b i))⟩

def vfmulxLane (d a : BitVec 5) (e : QEntry) (h : Hart) : Lane :=
  ⟨e.ety, d, false, fun i => some' (e.ety.fmt.mul e.mode (e.rnd i) (h.elem e a i) e.scalarEnc)⟩

/-- A compare into a predicate, with the flags of its active elements (R130, R147). -/
def fltCompare (d a b : BitVec 5) (op : FCmp) (e : QEntry) (h : Hart) : Hart × Went :=
  let one (i : Nat) := e.ety.fmt.compare op (h.elem e a i) (h.elem e b i)
  let fl := (List.range e.vl).foldl (fun acc i => if e.active i then acc ||| (one i).2 else acc) Flags.none
  ((h.putPred e d fun i => (one i).1).raise fl, .done)

/-! ### The scaled pair (R95, R148) -/

/-- Scale `i`: element `i` of v31, FP32 or E8M0 by SF. -/
def Hart.scale (h : Hart) (e : QEntry) (i : Nat) : Ext :=
  if vtSF e.vtype then
    let b := readElem h.vreg h.c 31 (.uint 8) i
    if b = 255 then .nan else .num false 1 ((b : Int) - 127)
  else Fmt.fp32.decode (readElem h.vreg h.c 31 (.flt .fp32) i)

/-- Product of two elements and a scale, exact; a NaN scale raises NV (R95). -/
def scaledProduct (a b : Nat) (s : Ext) : Ext × Flags :=
  let p := (Fmt.fp32.decode a).mul (Fmt.fp32.decode b)
  let q := p.1.mul s
  (q.1, invalidFlag p.2 ||| invalidFlag q.2 ||| invalidFlag s.isNaN ||| Fmt.fp32.snanFlag a ||| Fmt.fp32.snanFlag b)

def vfsmulLane (d a b : BitVec 5) (e : QEntry) (h : Hart) : Lane :=
  ⟨e.ety, d, false, fun i =>
    let p := scaledProduct (h.elem e a i) (h.elem e b i) (h.scale e i)
    let r := Fmt.fp32.roundTo e.mode (e.rnd i) p.1
    (some r.1, p.2 ||| r.2)⟩

def vfsmaccLane (d a b : BitVec 5) (e : QEntry) (h : Hart) : Lane :=
  ⟨e.ety, d, false, fun i =>
    let c := h.elem e d i
    let p := scaledProduct (h.elem e a i) (h.elem e b i) (h.scale e i)
    let v := (Fmt.fp32.decode c).add e.mode p.1
    let r := Fmt.fp32.roundTo e.mode (e.rnd i) v.1
    (some r.1, p.2 ||| invalidFlag v.2 ||| Fmt.fp32.snanFlag c ||| r.2)⟩

/-! ### Conversions (R149, R150) -/

/-- CT of a VTYPE value, for a conversion that has passed its checks. -/
def QEntry.cty (e : QEntry) : ETy := (vtCT e.vtype).getD (.uint 8)

/-- A conversion, element by element: `f` from the source encoding. -/
def convertLane (d a : BitVec 5) (f : ETy → ETy → QEntry → Nat → Nat → Nat × Flags) (e : QEntry) (h : Hart) : Lane :=
  ⟨e.ety, d, false, fun i => some' (f e.cty e.ety e i (readElem h.vreg h.c a.toNat e.cty i))⟩

def cvtFloat (ct et : ETy) (e : QEntry) (i a : Nat) : Nat × Flags := ct.fmt.convert et.fmt e.mode (e.rnd i) a

def cvtToInt (ct et : ETy) (e : QEntry) (i a : Nat) : Nat × Flags :=
  match et with
  | .bipolar => ct.fmt.toBipolar a
  | _ =>
    let r := ct.fmt.toInt e.mode (e.rnd i) (intLo et.width et.signed) (intHi et.width et.signed) a
    (et.encInt r.1, r.2)

def cvtFromInt (ct et : ETy) (e : QEntry) (i a : Nat) : Nat × Flags := et.fmt.ofInt e.mode (e.rnd i) (ct.intVal a)

def cvtInt (ct et : ETy) (_ : QEntry) (_ a : Nat) : Nat × Flags :=
  match et with
  | .bipolar => (if 0 ≤ ct.intVal a then 1 else 0, .none)
  | _ => et.encSat (ct.intVal a)

/-- Transposition between packed and sliced elements, without a flag. -/
def cvtSkiver (ct et : ETy) (_ : QEntry) (_ a : Nat) : Nat × Flags :=
  (if et.packedInt then wrapNat et.width (ct.intVal a) else a % 2 ^ et.width, .none)

/-! ### Entry -/

/-- The scaled pair: FP32, scales enough in v31, and no group that holds v31 (R148). -/
def scaledForm (d a b : BitVec 5) (s : State) : Form :=
  let g := vtG s.hart.vtype
  let scales := if vtSF s.hart.vtype then s.viewed.c else s.viewed.c / 4
  let clear (r : Nat) : Bool := decide (r + g ≤ 31)
  { srcs := s.groups false [a, b]
    ok := s.etIs (· == .flt .fp32) && decide (s.hart.vl.toNat ≤ scales) && clear d.toNat && clear a.toNat && clear b.toNat
    copy := clear }

/-- A conversion whose pair of kinds `p` allows (R149). -/
def convertForm (a : BitVec 5) (p : ETy → ETy → Bool) (apart : Bool) (s : State) : Form :=
  match vtCT s.hart.vtype, vtET s.hart.vtype with
  | some ct, some et =>
    let gs := sourceGroup (vtG s.hart.vtype) ct.width et.width
    ⟨[⟨a, gs, apart || ct.width != et.width⟩],
      p ct et && decide (gs ≤ 8) && decide (s.hart.vl.toNat ≤ vlmaxFor ct gs s.viewed.c), fun _ => true⟩
  | _, _ => ⟨[], false, fun _ => true⟩

def floatPair (ct et : ETy) : Bool := ct.isFloat && et.isFloat
def toIntPair (ct et : ETy) : Bool := ct.isFloat && !et.isFloat
def fromIntPair (ct et : ETy) : Bool := !ct.isFloat && et.isFloat
def intPair (ct et : ETy) : Bool := !ct.isFloat && !et.isFloat
/-- One packed type of width W, the other sliced of width N ≤ W (R150). -/
def skiverPair (ct et : ETy) : Bool :=
  (ct.packedInt && et.sliced && decide (et.width ≤ ct.width)) ||
    (ct.sliced && et.packedInt && decide (ct.width ≤ et.width))

/-- VFADD (R147). -/
def execVfadd (c m : BitVec 1) (d a b : BitVec 5) (s : State) : Out :=
  .next (enter (.vfadd c m d a b) [] (plainForm [a, b] ETy.wideFloat) (s := s))
/-- VFSUB (R147). -/
def execVfsub (c m : BitVec 1) (d a b : BitVec 5) (s : State) : Out :=
  .next (enter (.vfsub c m d a b) [] (plainForm [a, b] ETy.wideFloat) (s := s))
/-- VFMUL (R147). -/
def execVfmul (c m : BitVec 1) (d a b : BitVec 5) (s : State) : Out :=
  .next (enter (.vfmul c m d a b) [] (plainForm [a, b] ETy.wideFloat) (s := s))
/-- VFDIV (R147). -/
def execVfdiv (c m : BitVec 1) (d a b : BitVec 5) (s : State) : Out :=
  .next (enter (.vfdiv c m d a b) [] (plainForm [a, b] ETy.wideFloat) (s := s))
/-- VFSQRT (R147). -/
def execVfsqrt (c m : BitVec 1) (d a : BitVec 5) (s : State) : Out :=
  .next (enter (.vfsqrt c m d a) [] (plainForm [a] ETy.wideFloat) (s := s))
/-- VFMA (R147). -/
def execVfma (c m : BitVec 1) (d a b : BitVec 5) (s : State) : Out :=
  .next (enter (.vfma c m d a b) [] (plainForm [a, b] ETy.wideFloat) (s := s))
/-- VFMIN (R147). -/
def execVfmin (c m : BitVec 1) (d a b : BitVec 5) (s : State) : Out :=
  .next (enter (.vfmin c m d a b) [] (plainForm [a, b] ETy.wideFloat) (s := s))
/-- VFMAX (R147). -/
def execVfmax (c m : BitVec 1) (d a b : BitVec 5) (s : State) : Out :=
  .next (enter (.vfmax c m d a b) [] (plainForm [a, b] ETy.wideFloat) (s := s))
/-- VFCMPEQ (R147). -/
def execVfcmpeq (c m : BitVec 1) (d a b : BitVec 5) (s : State) : Out :=
  .next (enter (.vfcmpeq c m d a b) [] (plainForm [a, b] ETy.wideFloat) (s := s))
/-- VFCMPLT (R147). -/
def execVfcmplt (c m : BitVec 1) (d a b : BitVec 5) (s : State) : Out :=
  .next (enter (.vfcmplt c m d a b) [] (plainForm [a, b] ETy.wideFloat) (s := s))
/-- VFCMPLE (R147). -/
def execVfcmple (c m : BitVec 1) (d a b : BitVec 5) (s : State) : Out :=
  .next (enter (.vfcmple c m d a b) [] (plainForm [a, b] ETy.wideFloat) (s := s))
/-- VFMULX (R147). -/
def execVfmulx (c m : BitVec 1) (d a b : BitVec 5) (s : State) : Out :=
  .next (enter (.vfmulx c m d a b) [b] (plainForm [a] ETy.wideFloat) (s := s))
/-- VFSMUL (R148). -/
def execVfsmul (c m : BitVec 1) (d a b : BitVec 5) (s : State) : Out :=
  .next (enter (.vfsmul c m d a b) [] (scaledForm d a b) (s := s))
/-- VFSMACC (R148). -/
def execVfsmacc (c m : BitVec 1) (d a b : BitVec 5) (s : State) : Out :=
  .next (enter (.vfsmacc c m d a b) [] (scaledForm d a b) (s := s))
/-- VFCVT (R149). -/
def execVfcvt (c m : BitVec 1) (d a : BitVec 5) (s : State) : Out :=
  .next (enter (.vfcvt c m d a) [] (convertForm a floatPair false) (s := s))
/-- VFCVTI (R149). -/
def execVfcvti (c m : BitVec 1) (d a : BitVec 5) (s : State) : Out :=
  .next (enter (.vfcvti c m d a) [] (convertForm a toIntPair false) (s := s))
/-- VICVTF (R149). -/
def execVicvtf (c m : BitVec 1) (d a : BitVec 5) (s : State) : Out :=
  .next (enter (.vicvtf c m d a) [] (convertForm a fromIntPair false) (s := s))
/-- VICVT (R149). -/
def execVicvt (c m : BitVec 1) (d a : BitVec 5) (s : State) : Out :=
  .next (enter (.vicvt c m d a) [] (convertForm a intPair false) (s := s))
/-- VSKV (R150). -/
def execVskv (c m : BitVec 1) (d a : BitVec 5) (s : State) : Out :=
  .next (enter (.vskv c m d a) [] (convertForm a skiverPair true) (s := s))

end Sys2Proof.Machine
end

