-- ==== Sys2Proof/Machine/VectorMove.lean ====
section
/-! DEFINITION. Reductions, selection and rearrangement, major 0x2A class P (R151 to R154), and the
scalar readers of vector state (R156). -/

namespace Sys2Proof.Machine

/-- The elements 0 to VL − 1 of a source with their indices, the active ones only. -/
def Hart.activeElems (h : Hart) (e : QEntry) (a : BitVec 5) : List (Nat × Nat) :=
  ((readElems h.vreg h.c a.toNat e.ety 0 e.vl).zipIdx.filter fun p => e.active p.2).map fun p => (p.2, p.1)

/-- Writes elements of a single register from element 0 at a width, and the tail after them. -/
def Hart.putSingle (h : Hart) (e : QEntry) (d : BitVec 5) (t : ETy) (vals : List Nat) (fl : Flags) : Hart × Went :=
  (((h.put e d 1 t 0 (vals.map some)).tail e d 1 t vals.length).raise fl, .done)

/-! ### Reductions (R151) -/

def vredsum (d a : BitVec 5) (e : QEntry) (h : Hart) : Hart × Went :=
  h.putSingle e d e.ety [wrapNat e.ety.width ((h.activeElems e a).map fun p => e.ety.intVal p.2).sum] .none

def vredmax (d a : BitVec 5) (e : QEntry) (h : Hart) : Hart × Went :=
  let m := (h.activeElems e a).foldl (fun acc p => max acc (e.ety.intVal p.2)) (intLo e.ety.width e.ety.signed)
  h.putSingle e d e.ety [wrapNat e.ety.width m] .none

def vfredsum (d a : BitVec 5) (e : QEntry) (h : Hart) : Hart × Went :=
  let f := e.ety.fmt
  let l := (readElems h.vreg h.c a.toNat e.ety 0 e.vl).zipIdx
  let r := canonSum (l.map fun p => (f.decode p.1, e.active p.2))
  let sn := l.foldl (fun acc p => if e.active p.2 then acc ||| f.snanFlag p.1 else acc) Flags.none
  h.putSingle e d (.flt .fp32) [r.1] (r.2 ||| sn)

/-- The first active element is taken against itself, so that NaN elements alone give the canonical
NaN. -/
def vfredmax (d a : BitVec 5) (e : QEntry) (h : Hart) : Hart × Went :=
  let f := e.ety.fmt
  match h.activeElems e a with
  | [] => h.putSingle e d e.ety [f.signed true f.infEnc] .none
  | p :: l =>
    let step (acc : Nat × Flags) (q : Nat × Nat) : Nat × Flags :=
      let r := f.minmax true acc.1 q.2
      (r.1, acc.2 ||| r.2)
    let r := (p :: l).foldl step (p.2, Flags.none)
    h.putSingle e d e.ety [r.1] r.2

/-! ### Selection (R152) -/

/-- Does the value of one encoding rank above another's? Equal values and NaNs do not. -/
def ranksAbove (t : ETy) (x y : Nat) : Bool :=
  match t with
  | .flt f =>
    match f.decode x, f.decode y with
    | .nan, _ => false
    | _, .nan => true
    | a, b => a.cmp b == some .gt
  | _ => decide (t.intVal y < t.intVal x)

/-- Inserts an element after every one that it does not rank above; indices come in ascending order. -/
def rankInsert (t : ETy) (p : Nat × Nat) : List (Nat × Nat) → List (Nat × Nat)
  | [] => [p]
  | q :: l => if ranksAbove t p.2 q.2 then p :: q :: l else q :: rankInsert t p l

def vtopk (d a : BitVec 5) (e : QEntry) (h : Hart) : Hart × Went :=
  let ranked := (h.activeElems e a).foldl (fun l p => rankInsert e.ety p l) []
  let out := (List.range e.scalar).map fun r => match ranked[r]? with
    | some p => p.1 * 2 ^ 32 + p.2
    | none => 0xFFFFFFFF00000000
  h.putSingle e d (.uint 64) out .none

/-! ### Rearrangement (R153, R154) -/

def vpermLane (d a b : BitVec 5) (e : QEntry) (h : Hart) : Lane :=
  ⟨e.ety, d, false, fun i =>
    let j := h.elem e b i
    (some (if j < vlmax e.vtype h.c then h.elem e a j else 0), .none)⟩

def vslideupLane (d a : BitVec 5) (e : QEntry) (h : Hart) : Lane :=
  ⟨e.ety, d, false, fun i => (if e.scalar ≤ i then some (h.elem e a (i - e.scalar)) else none, .none)⟩

def vslidednLane (d a : BitVec 5) (e : QEntry) (h : Hart) : Lane :=
  ⟨e.ety, d, false, fun i =>
    (some (if i + e.scalar < vlmax e.vtype h.c then h.elem e a (i + e.scalar) else 0), .none)⟩

def vcompress (d a : BitVec 5) (e : QEntry) (h : Hart) : Hart × Went :=
  let vals := (h.activeElems e a).map fun p => some p.2
  ((h.put e d (vtG e.vtype) e.ety 0 vals).tail e d (vtG e.vtype) e.ety vals.length, .done)

/-- The number of active elements below `i`; `i` itself where no mask applies. -/
def QEntry.countBelow (e : QEntry) (i : Nat) : Nat := ((List.range i).filter e.active).length

def viotaLane (d : BitVec 5) (e : QEntry) (_ : Hart) : Lane :=
  ⟨e.ety, d, false, fun i => (some (e.ety.encInt (e.countBelow i)), .none)⟩

/-! ### Entry -/

def topkType (t : ETy) : Bool :=
  [ETy.flt .fp32, ETy.flt .fp16, ETy.flt .bf16].contains t || (t.packedInt && decide (t.width ≤ 32))

def sumType (t : ETy) : Bool := [ETy.flt .fp32, ETy.flt .fp16, ETy.flt .bf16].contains t

/-- VREDSUM (R151). -/
def execVredsum (c m : BitVec 1) (d a : BitVec 5) (s : State) : Out :=
  .next (enter (.vredsum c m d a) [] (plainForm [a] ETy.plainInt) (s := s))
/-- VREDMAX (R151). -/
def execVredmax (c m : BitVec 1) (d a : BitVec 5) (s : State) : Out :=
  .next (enter (.vredmax c m d a) [] (plainForm [a] ETy.plainInt) (s := s))
/-- VFREDSUM (R151). -/
def execVfredsum (c m : BitVec 1) (d a : BitVec 5) (s : State) : Out :=
  .next (enter (.vfredsum c m d a) [] (plainForm [a] sumType) (s := s))
/-- VFREDMAX (R151). -/
def execVfredmax (c m : BitVec 1) (d a : BitVec 5) (s : State) : Out :=
  .next (enter (.vfredmax c m d a) [] (plainForm [a] ETy.wideFloat) (s := s))
/-- VPERM (R153). -/
def execVperm (c m : BitVec 1) (d a b : BitVec 5) (s : State) : Out :=
  .next (enter (.vperm c m d a b) [] (apartForm [a, b] anyType) (s := s))
/-- VSLIDEUP (R153). -/
def execVslideup (c m : BitVec 1) (d a b : BitVec 5) (s : State) : Out :=
  .next (enter (.vslideup c m d a b) [b] (apartForm [a] anyType) (s := s))
/-- VSLIDEDN (R153). -/
def execVslidedn (c m : BitVec 1) (d a b : BitVec 5) (s : State) : Out :=
  .next (enter (.vslidedn c m d a b) [b] (apartForm [a] anyType) (s := s))
/-- VCOMPRESS (R154). -/
def execVcompress (c m : BitVec 1) (d a : BitVec 5) (s : State) : Out :=
  .next (enter (.vcompress c m d a) [] (apartForm [a] anyType) (s := s))
/-- VIOTA (R154). -/
def execViota (c m : BitVec 1) (d : BitVec 5) (s : State) : Out :=
  .next (enter (.viota c m d) [] (plainForm [] ETy.plainInt) (s := s))

/-- VTOPK: k is at most C ÷ 8 (R152). -/
def execVtopk (c m : BitVec 1) (d a b : BitVec 5) (s : State) : Out :=
  .next (enter (.vtopk c m d a b) [b] (fun t =>
    ⟨t.groups true [a], t.etIs topkType && decide ((t.hart.xr b).toNat ≤ t.viewed.c / 8), fun _ => true⟩) (s := s))

/-! ### Scalar readers (R156) -/

/-- The checks of the scalar readers of a predicate, and the wait until its older writers have produced it. -/
def State.readVector (s : State) (k : BitVec 5) (f : State → State) : State :=
  s.inLanes fun t => if t.hart.predBusy k.toNat then t.waitFor .retry else f t

/-- VMVXS (R136, R156): waits until element 0 of its source has been produced. -/
def execVmvxs (d a : BitVec 5) (s : State) : Out :=
  .next (s.inLanes fun t =>
    match vtET t.hart.vtype with
    | none => t.illegal
    | some ty =>
      if t.hart.elemBusy a.toNat then t.waitFor .retry
      else
        let v := readElem t.hart.vreg t.hart.c a.toNat ty 0
        t.writeBack d (if ty.isFloat then BitVec.ofNat 64 v else BitVec.ofInt 64 (ty.intVal v)))

/-- The indices below VL whose bit of a predicate is 1. -/
def Hart.setBits (h : Hart) (k : BitVec 5) : List Nat := (List.range h.vl.toNat).filter fun i => h.kbit k.toNat i

/-- KPOP (R156). -/
def execKpop (d a : BitVec 5) (s : State) : Out :=
  .next (s.readVector a fun t => t.writeBack d (BitVec.ofNat 64 (t.hart.setBits a).length))

/-- KFIRST (R156). -/
def execKfirst (d a : BitVec 5) (s : State) : Out :=
  .next (s.readVector a fun t => t.writeBack d (match t.hart.setBits a with
    | i :: _ => BitVec.ofNat 64 i
    | [] => BitVec.allOnes 64))

end Sys2Proof.Machine
end

