-- ==== Sys2Proof/Machine/VectorMemory.lean ====
section
/-! DEFINITION. Vector memory instructions (R229 to R236, R239, R382): entry, the probe of the whole
range, one element group of a load, a store or an atomic, stream reads, and whole registers. -/

namespace Sys2Proof.Machine

/-- How the oldest entry of a queue stands after a micro-operation. -/
inductive Moved where
  /-- complete -/
  | done (s : State)
  /-- goes on at an element -/
  | more (start : Nat) (s : State)
  /-- nothing could be done yet -/
  | wait
  /-- reads or atomics have left for the host -/
  | ask (s : State)
  /-- an access fault, with nothing performed -/
  | fault (detail elem addr : Nat)
  /-- a line fails its check -/
  | bad (elem addr line : Nat) (s : State)
  /-- the hart has ended meanwhile -/
  | lost (s : State)
  /-- the stream-state fault -/
  | stream (q : Nat)
  /-- the illegal-instruction trap (R143) -/
  | illegal

/-! ### Addresses and probes (R225 to R231) -/

/-- What an instruction accesses: the address of each packing unit, the right it needs, and whether a
host window takes it. -/
structure Reached where
  t      : ETy
  addr   : Nat → Nat
  need   : BitVec 4
  hostOk : Bool

/-- The context of the accesses of an entry: all that it writes to one device leaves in one packet (R221). -/
def QEntry.ctx (e : QEntry) (s : State) : Ctx := { s.ctx with op := e.stamp }

/-- Base and unit stride. -/
def QEntry.unitAddr (e : QEntry) (u : Nat) : Nat :=
  ((e.ops[0]).val + BitVec.ofNat 64 (u * e.ety.unitBytes)).toNat

/-- Base and a captured byte stride. -/
def QEntry.strideAddr (e : QEntry) (u : Nat) : Nat := ((e.ops[0]).val + BitVec.ofNat 64 u * (e.ops[1]).val).toNat

/-- Base and an unsigned 32-bit offset of the index group. -/
def QEntry.indexAddr (e : QEntry) (h : Hart) (x : BitVec 5) (i : Nat) : Nat :=
  ((e.ops[0]).val + BitVec.ofNat 64 (readElem h.vreg h.c x.toNat (.uint 32) i)).toNat

/-- The active elements of packing unit `u` from START to VL − 1. -/
def QEntry.unitActive (e : QEntry) (t : ETy) (u : Nat) : List Nat :=
  ((List.range t.unitElems).map fun j => u * t.unitElems + j).filter fun i =>
    decide (e.start ≤ i ∧ i < e.vl) && e.active i

/-- The packing units of elements `lo` to `hi` − 1 that hold an active element. -/
def QEntry.units (e : QEntry) (t : ETy) (lo hi : Nat) : List Nat :=
  let u := lo / t.unitElems
  ((List.range ((hi + t.unitElems - 1) / t.unitElems - u)).map (u + ·)).filter fun k => !(e.unitActive t k).isEmpty

/-- The probe of one packing unit, all of whose bytes an element narrower than 8 bits accesses (log entry 116). Elements
of 8 bits or more are aligned to their size (R226). -/
def State.probeUnit (s : State) (e : QEntry) (x : Reached) (u : Nat) : Except Nat SlotRef :=
  s.probe s.ctx ⟨slotIndex (e.ops[0]).tag, x.addr u, x.t.unitBytes,
    if x.t.byteWidth then x.t.unitBytes else 1, x.need, false, x.hostOk, false⟩

/-- The least active element whose access fails, with the detail and the address; else the slot word. -/
def State.probeRange' (s : State) (e : QEntry) (x : Reached) : Except (Nat × Nat × Nat) (List SlotRef) :=
  match e.units x.t e.start e.vl with
  | [] => .ok []
  | u0 :: us =>
    match (u0 :: us).find? fun u => (s.probeUnit e x u).toOption.isNone with
    | some u => match s.probeUnit e x u with
      | .error d => .error (d, (e.unitActive x.t u).headD 0, x.addr u)
      | .ok r => .ok [r]
    | none => match s.probeUnit e x u0 with
      | .error d => .error (d, 0, x.addr u0)
      | .ok r => .ok [r]

/-- Changes the oldest entry of the acting hart's queue. -/
def State.updHead (s : State) (f : QEntry → QEntry) : State :=
  s.mapHart fun h => { h with queue := match h.queue with
    | e :: t => f e :: t
    | [] => [] }

/-- Probes at the first micro-operation, and goes on with the entry as the probe leaves it. A first-fault
load whose least active element passes loads the elements below the first failure (R229, R232). -/
def State.probedThen (s : State) (e : QEntry) (x : Reached) (ff : Bool) (k : QEntry → State → Moved) : Moved :=
  match e.probed with
  | some _ => k e s
  | none =>
    match s.probeRange' e x with
    | .ok rs =>
      let e := { e with probed := some rs, limit := e.vl }
      k e (s.updHead fun _ => e)
    | .error (d, i, a) =>
      if ff && decide ((leastFrom e.active e.start (e.vl - e.start)).getD i < i) then
        let e := { e with probed := some [], limit := i }
        match s.probeRange' { e with vl := i } x with
        | .ok rs =>
          let e := { e with probed := some rs }
          k e (s.updHead fun _ => e)
        | .error _ => .fault d i a
      else .fault d i a

/-! ### The host (R396) -/

/-- Is the address in a host window? -/
def State.atHost (s : State) (a : Nat) : Option Nat :=
  match regionOf (s.canon a) with
  | .host b => some b
  | _ => none

/-- The reads of `n` bytes that a vector instruction has at the host, which leave in one packet (R221). -/
def State.hostLoad (s : State) (n : Nat) (parts : List (Nat × Nat)) : Outbound :=
  .hostRead s.hart.ser (parts.map fun p => ((s.atHost p.2).getD 0, n))

/-- Sends the host part of an instruction out once, waits for the answer, and goes on with it, cut into
parts of `n` bytes; nothing is asked where no part is at the host. A failure names the least element
that the answer does not reach. -/
def State.withHost (s : State) (e : QEntry) (n : Nat) (parts : List (Nat × Nat)) (o : Outbound)
    (k : List (List Byte) → Moved) : Moved :=
  if parts.isEmpty then k []
  else
    match e.asked, e.answer with
    | false, _ => .ask (s.emit o)
    | true, none => .wait
    | true, some (ok, data) =>
      if ok && data.length == n * parts.length then
        k ((List.range parts.length).map fun i => (data.drop (n * i)).take n)
      else
        let p := parts.getD (data.length / n) (parts.headD (0, 0))
        .fault 2 p.1 p.2

/-! ### Reading units -/

/-- What reading a list of places gives. -/
inductive Gathered where
  | ok (l : List (List Byte)) (s : State)
  | bad (a line : Nat) (s : State)
  | lost (s : State)

/-- Reads `n` bytes at each address for the vector side; the parts at the host come from its answer. -/
def gather (c : Ctx) (r : SlotRef) (n : Nat) : List Nat → List (List Byte) → State → Gathered
  | [], _, s => .ok [] s
  | a :: t, host, s =>
    match s.atHost a with
    | some _ =>
      match gather c r n t (host.drop 1) s with
      | .ok l u => .ok (host.headD [] :: l) u
      | .bad b l u => .bad b l u
      | .lost u => .lost u
    | none =>
      let u := (s.countAccess r.word a n).beforeRead c (.vector s.hart.ser) a n
      if u.hart.life ≠ .running then .lost u
      else
        match u.readBytes c r.word a n with
        | none => .bad a (u.badLine c r.word a n) u
        | some bs =>
          match gather c r n t host u with
          | .ok l v => .ok (bs :: l) v
          | .bad b l v => .bad b l v
          | .lost v => .lost v

/-- Writes bytes at each address in turn for the vector side. -/
def scatter (c : Ctx) (r : SlotRef) : List (Nat × List Byte) → State → Gathered
  | [], s => .ok [] s
  | (a, bs) :: t, s =>
    match (s.countWrite c r.word a bs.length).writeBytes c (.vector s.hart.ser) r.word a bs with
    | none => .bad a (s.badLine c r.word a bs.length) s
    | some u => scatter c r t u

/-- Must any of the places wait for a held write (R318)? -/
def State.heldAny (s : State) (n : Nat) (l : List Nat) : Bool :=
  s.ctx.world != 0 && l.any fun a => s.heldOver (s.key s.hart.core a) n

/-- The slot word of the probe, where one was made. -/
def QEntry.slot (e : QEntry) : SlotRef :=
  match e.probed with
  | some (r :: _) => r
  | _ => ⟨0, SlotWord.ofNat 0⟩

/-- The least active element of a packing unit. -/
def QEntry.firstOf (e : QEntry) (t : ETy) (u : Nat) : Nat := (e.unitActive t u).headD (u * t.unitElems)

/-- The active element of an address that failed, the least of the given units. -/
def elemAt (e : QEntry) (x : Reached) (us : List Nat) (a : Nat) : Nat :=
  match us.find? fun u => x.addr u == a with
  | some u => e.firstOf x.t u
  | none => 0

/-- The elements that units hold, by index. -/
def unitValues (t : ETy) (us : List Nat) (data : List (List Byte)) : List (Nat × Nat) :=
  (us.zip data).flatMap fun p => (t.decodeUnit p.2).zipIdx.map fun q => (p.1 * t.unitElems + q.2, q.1)

/-- What a load writes to elements `lo` to `hi` − 1 (R142). -/
def QEntry.loaded (e : QEntry) (vals : List (Nat × Nat)) (lo hi : Nat) : List (Option Nat) :=
  (List.range (hi - lo)).map fun j =>
    if e.active (lo + j) then some (tblGet 0 vals (lo + j)) else if vtMP e.vtype then some 0 else none

/-! ### Loads and stores -/

/-- The units at the host, with the least active element of each (R396). -/
def State.hostParts (s : State) (e : QEntry) (x : Reached) (us : List Nat) : List (Nat × Nat) :=
  (us.filter fun u => (s.atHost (x.addr u)).isSome).map fun u => (e.firstOf x.t u, x.addr u)

/-- Of a list of packing units, those that have not been accessed before the rest of their element group (R213). -/
def QEntry.fresh (e : QEntry) (us : List Nat) : List Nat := us.filter fun u => !e.early.any fun p => p.1 == u

/-- Packing unit `u` has been accessed before the rest of its element group, with what was read there. -/
def State.keepEarly (s : State) (e : QEntry) (u : Nat) (bs : List Byte) : Moved :=
  .more e.start (s.updHead fun e => { e with early := e.early ++ [(u, bs)] })

/-- One element group of a load, or the whole of one that reaches the host. -/
def loadStep (v : BitVec 5) (x : Reached) (ff : Bool) (e : QEntry) (s : State) : Moved :=
  s.probedThen e x ff fun e s =>
    let n := x.t.unitBytes
    let parts := s.hostParts e x (e.units x.t e.start e.limit)
    let hi := if parts.isEmpty then x.t.groupEnd e.start e.limit else e.limit
    let us := e.units x.t e.start hi
    let new := e.fresh us
    s.withHost e n parts (s.hostLoad n parts) fun host =>
      if s.heldAny n (new.map x.addr) then .wait
      else
        match gather (e.ctx s) e.slot n (new.map x.addr) host s with
        | .bad a l u => .bad (elemAt e x us a) a l u
        | .lost u => .lost u
        | .ok data u =>
          let all := us.map fun k => tblGet [] (e.early ++ new.zip data) k
          let w := u.mapHart fun h =>
            h.put e v (vtG e.vtype) x.t e.start (e.loaded (unitValues x.t us all) e.start hi)
          if hi < e.limit then .more hi w
          else .done (w.mapHart fun h =>
            let h := h.tail e v (vtG e.vtype) x.t e.limit
            if ff then { h with vlff := BitVec.ofNat 20 e.limit } else h)

/-- A list begun at another of its elements. -/
def rotated {α : Type} (k : Nat) (l : List α) : List α := l.drop (k % l.length) ++ l.take (k % l.length)

/-- One packing unit of the next element group of a load, before the rest of it (R213). -/
def loadUnit (x : Reached) (ff : Bool) (i : Nat) (e : QEntry) (s : State) : Moved :=
  s.probedThen e x ff fun e s =>
    let n := x.t.unitBytes
    match (e.fresh (e.units x.t e.start (x.t.groupEnd e.start e.limit)))[i]? with
    | none => .wait
    | some k =>
      if !(s.hostParts e x (e.units x.t e.start e.limit)).isEmpty || s.heldAny n [x.addr k] then .wait
      else
        match gather (e.ctx s) e.slot n [x.addr k] [] s with
        | .bad a l u => .bad (e.firstOf x.t k) a l u
        | .lost u => .lost u
        | .ok data u => u.keepEarly e k (data.headD [])

/-- What a store writes at packing unit `u`: its place and its bytes. -/
def State.storeUnitOf (s : State) (v : BitVec 5) (x : Reached) (u : Nat) : Nat × List Byte :=
  (x.addr u, groupRead s.hart.vreg s.hart.c v.toNat (u * x.t.unitBytes) x.t.unitBytes)

/-- One packing unit of the next element group of a store, before the rest of it (R213). -/
def storeUnit (v : BitVec 5) (x : Reached) (i : Nat) (e : QEntry) (s : State) : Moved :=
  s.probedThen e x false fun e s =>
    match (e.fresh (e.units x.t e.start (x.t.groupEnd e.start e.vl)))[i]? with
    | none => .wait
    | some k =>
      match scatter (e.ctx s) e.slot [s.storeUnitOf v x k] s with
      | .bad a l u => .bad (e.firstOf x.t k) a l u
      | .lost u => .lost u
      | .ok _ u => u.keepEarly e k []

/-- One element group of a store. The elements of one store perform in no fixed order (R213): the order
is the ascending one, begun anywhere, of those that have not performed before the rest. -/
def storeStep (v : BitVec 5) (x : Reached) (e : QEntry) (s : State) : Moved :=
  s.probedThen e x false fun e s =>
    let hi := x.t.groupEnd e.start e.vl
    let us := e.units x.t e.start hi
    let ws := (e.fresh us).map (s.storeUnitOf v x)
    match scatter (e.ctx s) e.slot (rotated (Config.pickOrder s.tick) ws) s with
    | .bad a l u => .bad (elemAt e x us a) a l u
    | .lost u => .lost u
    | .ok _ u => if hi < e.vl then .more hi u else .done u

/-! ### Atomics (R236) -/

/-- Performs the atomics of a list of elements in turn: the old words by index. -/
def atomics (c : Ctx) (r : SlotRef) (n : Nat) (addr : Nat → Nat) (f : Nat → Nat → Option Nat) :
    List Nat → State → Except (Nat × State) (List (Nat × Nat) × State)
  | [], s => .ok ([], s)
  | i :: t, s =>
    let u := (s.countAccess r.word (addr i) n).beforeRead c (.vector s.hart.ser) (addr i) n
    match u.atomicAt c r.word (addr i) n (f i) with
    | none => .error (i, u)
    | some (m, w) =>
      match atomics c r n addr f t w with
      | .error p => .error p
      | .ok (l, z) => .ok ((i, m) :: l, z)

/-- What names the vector atomic of an entry, as it stands at an element. -/
def Hart.amoId (h : Hart) (e : QEntry) : AmoId := ⟨h.ser, e.addr, some e.start⟩

/-- The atomic of element `i`: its operand is v[i]; `vamocas` compares with v[i] and writes element i of the group
after v. -/
def State.amoReq (s : State) (op : AmoOp) (v : BitVec 5) (e : QEntry) (i : Nat) : AmoReq :=
  let own := readElem s.hart.vreg s.hart.c v.toNat e.ety i
  let other := readElem s.hart.vreg s.hart.c (v.toNat + vtG e.vtype) e.ety i
  ⟨op, e.ety.signed, if op = .cas then other else own, if op = .cas then own else 0, some (s.hart.amoId e)⟩

/-- Writes the old words of elements up to `hi`, and goes on there (R142). -/
def amoDone (v : BitVec 5) (e : QEntry) (vals : List (Nat × Nat)) (hi : Nat) (s : State) : Moved :=
  let t := e.ety
  let w := s.mapHart fun h => h.put e v (vtG e.vtype) t e.start (e.loaded vals e.start hi)
  if hi < e.vl then .more hi w else .done (w.mapHart fun h => h.tail e v (vtG e.vtype) t e.vl)

/-- Performs the atomics of elements on memory, in some order. -/
def amoHere (v : BitVec 5) (e : QEntry) (addr : Nat → Nat) (req : Nat → AmoReq) (here : List Nat)
    (others : List (Nat × Nat)) (hi : Nat) (s : State) : Moved :=
  let n := e.ety.unitBytes
  if here.any fun u => s.holdsBack s.ctx (addr u) n then .wait
  else
    match atomics (e.ctx s) e.slot n addr (fun i => (req i).apply n) (rotated (Config.pickOrder s.tick) here) s with
    | .error (i, u) => .bad i (addr i) (u.badLine (e.ctx s) e.slot.word (addr i) n) u
    | .ok (l, u) => if u.hart.life ≠ .running then .lost u else amoDone v e (l ++ others) hi u

/-- The first element of a list that the slices treat otherwise than the first: not held by the same forwarding
entry (R318). -/
def State.otherHolder (s : State) (addr : Nat → Nat) (here : List Nat) : Option Nat :=
  let holder (i : Nat) := s.holder? s.ctx (s.key s.hart.core (addr i))
  match here with
  | [] => none
  | i :: l => l.find? fun j => holder j != holder i

/-- The old words of the atomics that have performed before the rest of their element group. -/
def QEntry.earlyWords (e : QEntry) : List (Nat × Nat) := e.early.map fun p => (p.1, Crypto.leNat p.2)

/-- One element group of a vector atomic with no element at the host. Elements that a forwarding entry holds wait at
the slice and are answered together when it forwards (R318); the group ends where the holder changes. -/
def amoGroup (v : BitVec 5) (e : QEntry) (addr : Nat → Nat) (req : Nat → AmoReq) (s : State) : Moved :=
  let t := e.ety
  let n := t.unitBytes
  let hi := t.groupEnd e.start e.vl
  let here := e.fresh (e.units t e.start hi)
  let id := s.hart.amoId e
  match s.owedTo id with
  | some bs =>
    let k := bs.length / n
    amoDone v e (e.earlyWords ++ (here.take k).zip ((Crypto.chunks n k bs).map Crypto.leNat)) ((here[k]?).getD hi)
      (s.takeOwed id)
  | none =>
    if s.amoHeld id then .wait
    else
      let stop := (s.otherHolder addr here).getD hi
      let part := here.filter fun i => decide (i < stop)
      match part.head?.bind fun i => s.holder? s.ctx (s.key s.hart.core (addr i)) with
      | none => amoHere v e addr req part e.earlyWords stop s
      | some h =>
        .more e.start (part.foldl (fun u i =>
          u.holdAmo (e.ctx u) (.vector u.hart.ser) e.slot.word h (addr i) n (req i)) s)

/-- One atomic of the next element group of a vector atomic, before the rest of it (R213). -/
def amoUnit (op : AmoOp) (v x : BitVec 5) (sc : BitVec 3) (i : Nat) (e : QEntry) (s : State) : Moved :=
  let t := e.ety
  let n := t.unitBytes
  let addr := fun i => e.indexAddr s.hart x i
  let rc : Reached := ⟨t, addr, needAtomic, op.hostOk t.width sc⟩
  s.probedThen e rc false fun e s =>
    let id := s.hart.amoId e
    match (e.fresh (e.units t e.start (t.groupEnd e.start e.vl)))[i]? with
    | none => .wait
    | some k =>
      if !(s.hostParts e rc (e.units t e.start e.vl)).isEmpty || (s.holder? s.ctx (s.key s.hart.core (addr k))).isSome ||
          s.holdsBack s.ctx (addr k) n || s.amoHeld id || (s.owedTo id).isSome then .wait
      else
        match atomics (e.ctx s) e.slot n addr (fun i => (s.amoReq op v e i).apply n) [k] s with
        | .error (i, u) => .bad i (addr i) (u.badLine (e.ctx s) e.slot.word (addr i) n) u
        | .ok (l, u) =>
          if u.hart.life ≠ .running then .lost u
          else u.keepEarly e k (Crypto.leBytes n (tblGet 0 l k))

/-- One element group of a vector atomic, or the whole of one that reaches the host (R236, R396). -/
def amoStep (op : AmoOp) (v x : BitVec 5) (sc : BitVec 3) (e : QEntry) (s : State) : Moved :=
  let t := e.ety
  let n := t.unitBytes
  let addr := fun i => e.indexAddr s.hart x i
  let rc : Reached := ⟨t, addr, needAtomic, op.hostOk t.width sc⟩
  s.probedThen e rc false fun e s =>
    let req := s.amoReq op v e
    let parts := s.hostParts e rc (e.units t e.start e.vl)
    if parts.isEmpty then amoGroup v e addr req s
    else
      let here := (e.units t e.start e.vl).filter fun u => (s.atHost (addr u)).isNone
      let o := Outbound.hostAtomic s.hart.ser op.code (parts.map fun p =>
        ((s.atHost p.2).getD 0, BitVec.ofNat 64 (req p.1).operand, BitVec.ofNat 64 (req p.1).compare))
      if here.any fun u => (s.holder? s.ctx (s.key s.hart.core (addr u))).isSome then .wait
      else
        s.withHost e n parts o fun host =>
          amoHere v e addr req here ((parts.zip host).map fun p => (p.1.1, Crypto.leNat p.2)) e.vl s

/-! ### Stream reads (R239) -/

/-- `vqrd`: it waits while nothing has arrived and something is left; where the element it waits for cannot be fetched,
it takes the fault (log entry 109). -/
def vqrdStep (v q : BitVec 5) (e : QEntry) (s : State) : Moved :=
  let qn : BitVec 3 := BitVec.ofNat 3 q.toNat
  let b := s.hart.streams[qn.toNat]
  if e.start ≠ 0 then .illegal
  else if !b.bound then .stream qn.toNat
  else if (match ETy.ofCode b.et.toNat with
      | some t => t.width != e.ety.width
      | none => true) then .stream qn.toNat
  else
    let left := b.extent.toNat - b.pos.toNat
    if b.ready.isEmpty && decide (0 < left) then
      match s.streamFail b with
      | some (d, i, a) => .fault d i a
      | none => .wait
    else
      let k := min e.vl (min b.ready.length left)
      let vals := (List.range k).map fun i =>
        if e.active i then some (b.ready.getD i 0).toNat else if vtMP e.vtype then some 0 else none
      .done (s.mapHart fun h =>
        let h := (h.put e v (vtG e.vtype) e.ety 0 vals).tail e v (vtG e.vtype) e.ety k
        let b' := { b with pos := b.pos + BitVec.ofNat 64 k, ready := b.ready.drop k }
        { h with streams := h.streams.set qn.toNat b' qn.isLt, vlff := BitVec.ofNat 20 k })

/-! ### Whole registers (R377, R382) -/

/-- The context of the access: in the view of a context of another world only that world's key passes. -/
def State.wholeCtx (s : State) : Ctx :=
  { s.ctx with view := if s.hart.hm && s.viewed.wid != 0 then some s.viewed.wid else none }

/-- The probe of a whole register, its address a multiple of 64. -/
def State.wholeProbe (s : State) (a : Operand) (need : BitVec 4) : Except Nat SlotRef :=
  s.probe s.wholeCtx ⟨slotIndex a.tag, a.val.toNat, s.viewed.c, 64, need, false, true, false⟩

/-- The image of a vector register or of a predicate. -/
def Hart.image (h : Hart) (pred : Bool) (v : BitVec 5) : Bytes :=
  if pred then (h.kreg.toList.getD v.toNat []) else h.vreg[v.toNat].img

/-- Stores a whole image. -/
def wholeStore (pred : Bool) (v : BitVec 5) (a : Operand) (s : State) : Moved :=
  let n := s.viewed.c
  if n = 0 then .done s
  else
    match s.wholeProbe a needWrite with
    | .error d => .fault d 0 a.val.toNat
    | .ok r =>
      let bs := Bytes.readLong (n / 64) (s.viewed.image pred v) 0 n
      match (s.countWrite s.wholeCtx r.word a.val.toNat n).writeBytes s.wholeCtx (.vector s.hart.ser) r.word a.val.toNat bs with
      | none => .bad 0 a.val.toNat (s.badLine s.wholeCtx r.word a.val.toNat n) s
      | some u => .done u

/-- Sets a whole image: the width tag of a vector register becomes 64 bits. -/
def Hart.setImage (h : Hart) (pred : Bool) (vs : List Nat) (bs : List Byte) : Hart :=
  let img := Bytes.cells 0 bs
  if pred then { h with kreg := vs.foldl (fun ks v => if hv : v < 12 then ks.set v img hv else ks) h.kreg }
  else { h with vreg := vs.foldl (fun rs v => setReg rs v fun _ => ⟨64, img⟩) h.vreg }

/-- Loads a whole image into the registers named, from memory or from the host's answer. -/
def wholeLoad (pred : Bool) (vs : List Nat) (a : Operand) (asked : Bool) (answer : Option (Bool × List Byte))
    (s : State) : Moved :=
  let n := s.viewed.c
  let put (bs : List Byte) (t : State) : Moved := .done (t.updHart t.viewed.ser fun h => h.setImage pred vs bs)
  if n = 0 then .done s
  else
    match s.wholeProbe a needRead with
    | .error d => .fault d 0 a.val.toNat
    | .ok r =>
      match s.atHost a.val.toNat with
      | some bus =>
        match asked, answer with
        | false, _ => .ask (s.emit (.hostRead s.hart.ser [(bus, n)]))
        | true, none => .wait
        | true, some (ok, data) => if ok && data.length == n then put data s else .fault 2 0 a.val.toNat
      | none =>
        if s.heldAny n [a.val.toNat] then .wait
        else
          let u := (s.countAccess r.word a.val.toNat n).beforeRead s.wholeCtx (.vector s.hart.ser) a.val.toNat n
          if u.hart.life ≠ .running then .lost u
          else
            match u.readBytes u.wholeCtx r.word a.val.toNat n with
            | none => .bad 0 a.val.toNat (u.badLine u.wholeCtx r.word a.val.toNat n) u
            | some bs => put bs u

/-! ### Entry -/

/-- A unit-stride form: a narrow type asks for an aligned base, whole packing units and, for a store,
no mask (R231). -/
def unitForm (data : List (BitVec 5)) (x : BitVec 5) (store : Bool) (m : BitVec 1) (s : State) : Form :=
  ⟨s.groups false data, s.etIs fun t => t.byteWidth ||
    (decide ((s.hart.xr x).toNat % 8 = 0) && decide (s.hart.vl.toNat % t.unitElems = 0) && (!store || m == 0)),
    fun _ => true⟩

/-- An indexed form: the index group is disjoint from the data group (R230). -/
def indexForm (data : List (BitVec 5)) (v x : BitVec 5) (p : ETy → Bool) (s : State) : Form :=
  let g := vtG s.hart.vtype
  let w := match vtET s.hart.vtype with
    | some t => t.width
    | none => 8
  let gi := sourceGroup g 32 w
  let idx : Src := ⟨x, gi, true⟩
  ⟨idx :: s.groups false data, s.etIs p && decide (gi ≤ 8) &&
    decide (s.hart.vl.toNat ≤ vlmaxFor (.uint 32) gi s.viewed.c) && idx.fits v.toNat g, fun _ => true⟩

def amoType (t : ETy) : Bool := t.packedInt && decide (32 ≤ t.width)

/-- `vamocas` reads a second group, after v (R236). -/
def casForm (v x : BitVec 5) (s : State) : Form :=
  let g := vtG s.hart.vtype
  let f := indexForm [] v x amoType s
  { f with ok := f.ok && decide (v.toNat + g ≤ 31) && f.srcs.all fun i => i.fits (v.toNat + g) g }

/-- VLD (R230, R231). -/
def execVld (c m : BitVec 1) (v x : BitVec 5) (p : BitVec 2) (s : State) : Out :=
  .next (enter (.vld c m v x p) [x] (unitForm [] x false m) (s := s))
/-- VLDS (R230). -/
def execVlds (c m : BitVec 1) (v x sc : BitVec 5) (p : BitVec 2) (s : State) : Out :=
  .next (enter (.vlds c m v x sc p) [x, sc] (plainForm [] ETy.byteWidth) (s := s))
/-- VLDX (R230). -/
def execVldx (c m : BitVec 1) (v x sc : BitVec 5) (p : BitVec 2) (s : State) : Out :=
  .next (enter (.vldx c m v x sc p) [x] (indexForm [] v sc ETy.byteWidth) (s := s))
/-- VLDFF (R232). -/
def execVldff (c m : BitVec 1) (v x : BitVec 5) (p : BitVec 2) (s : State) : Out :=
  .next (enter (.vldff c m v x p) [x] (plainForm [] ETy.byteWidth) (s := s))
/-- VQRD (R239). -/
def execVqrd (c m : BitVec 1) (v x : BitVec 5) (p : BitVec 2) (s : State) : Out :=
  .next (enter (.vqrd c m v x p) [] (plainForm [] ETy.byteWidth) (s := s))
/-- VST (R230, R231). -/
def execVst (c m : BitVec 1) (v x : BitVec 5) (p : BitVec 2) (s : State) : Out :=
  .next (enter (.vst c m v x p) [x] (unitForm [v] x true m) (s := s))
/-- VSTS (R230). -/
def execVsts (c m : BitVec 1) (v x sc : BitVec 5) (p : BitVec 2) (s : State) : Out :=
  .next (enter (.vsts c m v x sc p) [x, sc] (plainForm [v] ETy.byteWidth) (s := s))
/-- VSTX (R230). -/
def execVstx (c m : BitVec 1) (v x sc : BitVec 5) (p : BitVec 2) (s : State) : Out :=
  .next (enter (.vstx c m v x sc p) [x] (indexForm [v] v sc ETy.byteWidth) (s := s))
/-- VAMOADD (R236). -/
def execVamoadd (c m : BitVec 1) (v x i : BitVec 5) (p : BitVec 2) (sc : BitVec 3) (s : State) : Out :=
  .next (enter (.vamoadd c m v x i p sc) [x] (indexForm [] v i amoType) (s := s))
/-- VAMOMIN (R236). -/
def execVamomin (c m : BitVec 1) (v x i : BitVec 5) (p : BitVec 2) (sc : BitVec 3) (s : State) : Out :=
  .next (enter (.vamomin c m v x i p sc) [x] (indexForm [] v i amoType) (s := s))
/-- VAMOMAX (R236). -/
def execVamomax (c m : BitVec 1) (v x i : BitVec 5) (p : BitVec 2) (sc : BitVec 3) (s : State) : Out :=
  .next (enter (.vamomax c m v x i p sc) [x] (indexForm [] v i amoType) (s := s))
/-- VAMOAND (R236). -/
def execVamoand (c m : BitVec 1) (v x i : BitVec 5) (p : BitVec 2) (sc : BitVec 3) (s : State) : Out :=
  .next (enter (.vamoand c m v x i p sc) [x] (indexForm [] v i amoType) (s := s))
/-- VAMOOR (R236). -/
def execVamoor (c m : BitVec 1) (v x i : BitVec 5) (p : BitVec 2) (sc : BitVec 3) (s : State) : Out :=
  .next (enter (.vamoor c m v x i p sc) [x] (indexForm [] v i amoType) (s := s))
/-- VAMOXOR (R236). -/
def execVamoxor (c m : BitVec 1) (v x i : BitVec 5) (p : BitVec 2) (sc : BitVec 3) (s : State) : Out :=
  .next (enter (.vamoxor c m v x i p sc) [x] (indexForm [] v i amoType) (s := s))
/-- VAMOSWAP (R236). -/
def execVamoswap (c m : BitVec 1) (v x i : BitVec 5) (p : BitVec 2) (sc : BitVec 3) (s : State) : Out :=
  .next (enter (.vamoswap c m v x i p sc) [x] (indexForm [] v i amoType) (s := s))
/-- VAMOCAS (R236). -/
def execVamocas (c m : BitVec 1) (v x i : BitVec 5) (p : BitVec 2) (sc : BitVec 3) (s : State) : Out :=
  .next (enter (.vamocas c m v x i p sc) [x] (casForm v i) (s := s))

end Sys2Proof.Machine
end

