-- ==== Sys2Proof/Machine/MemToMem.lean ====
section
/-! DEFINITION. Memory-to-memory forms (R157): entry with three bases and three strides, the probe of every
access, and one element at a time. -/

namespace Sys2Proof.Machine

/-- Address of element `i` of operand `j` (0 destination, 1 and 2 sources). -/
def QEntry.mmAddr (e : QEntry) (j : Fin 3) (i : Nat) : Nat :=
  ((e.ops[j]).val + BitVec.ofNat 64 i * e.strides[j]).toNat

/-- The accesses of an element in their order: the sources, then the destination. -/
def mmParts (copy : Bool) : List (Fin 3) := if copy then [1, 0] else [1, 2, 0]

/-- The probe of one access. -/
def State.mmProbe (s : State) (e : QEntry) (i : Nat) (j : Fin 3) : Except Nat SlotRef :=
  let n := e.ety.unitBytes
  s.probe s.ctx ⟨slotIndex (e.ops[j]).tag, e.mmAddr j i, n, n, if j = 0 then needWrite else needRead, false, true, false⟩

/-- The first access that fails, by ascending active element: its element, operand and detail. -/
def State.mmFailure (s : State) (copy : Bool) (e : QEntry) : Option (Nat × Nat × Nat) :=
  ((List.range (e.vl - e.start)).map (e.start + ·)).findSome? fun i =>
    if e.active i then
      (mmParts copy).findSome? fun j => match s.mmProbe e i j with
        | .error d => some (d, i, e.mmAddr j i)
        | .ok _ => none
    else none

/-- The slot words of destination and sources, as the probe of the first active element found them. -/
def State.mmSlots (s : State) (copy : Bool) (e : QEntry) : List SlotRef :=
  let i := (leastFrom e.active e.start (e.vl - e.start)).getD e.start
  ((0 : Fin 3) :: (mmParts copy).filter fun j => j != 0).filterMap fun j => (s.mmProbe e i j).toOption

/-- The operation of a form on two encodings, with its flags. -/
inductive MmOp where
  | cpy | add | sub | mul | min | max
deriving DecidableEq, Repr

def MmOp.apply (op : MmOp) (e : QEntry) (i a b : Nat) : Nat × Flags :=
  match e.ety with
  | .flt f =>
    match op with
    | .cpy => (a, .none)
    | .add => f.add e.mode (e.rnd i) a b
    | .sub => f.sub e.mode (e.rnd i) a b
    | .mul => f.mul e.mode (e.rnd i) a b
    | .min => f.minmax false a b
    | .max => f.minmax true a b
  | t =>
    let x := t.intVal a
    let y := t.intVal b
    match op with
    | .cpy => (a, .none)
    | .add => (t.encInt (x + y), .none)
    | .sub => (t.encInt (x - y), .none)
    | .mul => (t.encInt (x * y), .none)
    | .min => (t.encInt (if x ≤ y then x else y), .none)
    | .max => (t.encInt (if x ≤ y then y else x), .none)

/-- Performs active element `i`: reads its sources, stores its result. -/
def mmElement (op : MmOp) (e : QEntry) (i : Nat) (s : State) : Moved :=
  let n := e.ety.unitBytes
  let reads := (mmParts (op = .cpy)).filter fun j => j != 0
  let places := reads.map fun j => (j, e.mmAddr j i)
  let parts := (places.filter fun p => (s.atHost p.2).isSome).map fun p => (i, p.2)
  let slot (j : Fin 3) : SlotRef := ((e.probed.getD [])[j.val]?).getD ⟨0, SlotWord.ofNat 0⟩
  s.withHost e n parts (s.hostLoad n parts) fun host =>
    if s.heldAny n (places.map Prod.snd) then .wait
    else
      match gather (e.ctx s) (slot 1) n [e.mmAddr 1 i] host s with
      | .bad a l u => .bad i a l u
      | .lost u => .lost u
      | .ok xs u =>
        let rest := if (s.atHost (e.mmAddr 1 i)).isSome then host.drop 1 else host
        match gather (e.ctx s) (slot 2) n (if op = .cpy then [] else [e.mmAddr 2 i]) rest u with
        | .bad a l v => .bad i a l v
        | .lost v => .lost v
        | .ok ys v =>
          let r := op.apply e i (Crypto.leNat (xs.headD [])) (Crypto.leNat (ys.headD []))
          match scatter (e.ctx s) (slot 0) [(e.mmAddr 0 i, Crypto.leBytes n r.1)] v with
          | .bad a l w => .bad i a l w
          | .lost w => .lost w
          | .ok _ w => .more (i + 1) (w.mapHart fun h => h.raise r.2)

/-- One element of a form. The whole range is probed before any element performs; an entry that finds no
active element left completes. -/
def mmStep (op : MmOp) (e : QEntry) (s : State) : Moved :=
  match (if e.probed.isSome then none else s.mmFailure (op = .cpy) e) with
  | some (d, i, a) => .fault d i a
  | none =>
    let e' := { e with probed := some (e.probed.getD (s.mmSlots (op = .cpy) e)) }
    match leastFrom e.active e.start (e.vl - e.start) with
    | none => .done s
    | some i => mmElement op e' i (s.updHead fun _ => e')

/-! ### Entry -/

/-- Register n + 1, which holds the stride of the operand based at register n. -/
def strideOf (h : Hart) (r : BitVec 5) : Word := h.xr (r + 1)

def mmStrides (l : List (BitVec 5)) (h : Hart) : Vector Word 3 :=
  Vector.ofFn fun j : Fin 3 => match l[j.val]? with
    | some r => strideOf h r
    | none => 0

/-- x0 and x31 are no bases, and the type is one that the form takes. That a base or a stride is no multiple of the
element's size is a misaligned access, which the probe finds (R157, R226). -/
def mmForm (l : List (BitVec 5)) (p : ETy → Bool) (s : State) : Form :=
  ⟨[], l.all (fun r => r != 0 && r != 31) && s.etIs p, fun _ => true⟩

def mmType (t : ETy) : Bool := t.packedInt || t.wideFloat
def mmcpyType (t : ETy) : Bool := mmType t || t == .flt .e4m3 || t == .flt .e5m2

/-- MMCPY (R157). -/
def execMmcpy (c m : BitVec 1) (d a : BitVec 5) (p : BitVec 2) (s : State) : Out :=
  .next (enter (.mmcpy c m d a p) [d, a] (mmForm [d, a] mmcpyType) (mmStrides [d, a]) s)
/-- MMADD (R157). -/
def execMmadd (c m : BitVec 1) (d a b : BitVec 5) (p : BitVec 2) (s : State) : Out :=
  .next (enter (.mmadd c m d a b p) [d, a, b] (mmForm [d, a, b] mmType) (mmStrides [d, a, b]) s)
/-- MMSUB (R157). -/
def execMmsub (c m : BitVec 1) (d a b : BitVec 5) (p : BitVec 2) (s : State) : Out :=
  .next (enter (.mmsub c m d a b p) [d, a, b] (mmForm [d, a, b] mmType) (mmStrides [d, a, b]) s)
/-- MMMUL (R157). -/
def execMmmul (c m : BitVec 1) (d a b : BitVec 5) (p : BitVec 2) (s : State) : Out :=
  .next (enter (.mmmul c m d a b p) [d, a, b] (mmForm [d, a, b] mmType) (mmStrides [d, a, b]) s)
/-- MMMIN (R157). -/
def execMmmin (c m : BitVec 1) (d a b : BitVec 5) (p : BitVec 2) (s : State) : Out :=
  .next (enter (.mmmin c m d a b p) [d, a, b] (mmForm [d, a, b] mmType) (mmStrides [d, a, b]) s)
/-- MMMAX (R157). -/
def execMmmax (c m : BitVec 1) (d a b : BitVec 5) (p : BitVec 2) (s : State) : Out :=
  .next (enter (.mmmax c m d a b p) [d, a, b] (mmForm [d, a, b] mmType) (mmStrides [d, a, b]) s)

end Sys2Proof.Machine
end

