-- ==== Sys2Proof/Machine/Matrix.lean ====
section
/-! DEFINITION. Matrix instructions, major 0x2F (R158 to R175): entry, the shape, feeds, drains, and the
moves between tiles and registers. -/

namespace Sys2Proof.Machine

/-! ### Tiles (R158) -/

/-- Accumulator (r, c) of a tile of `rows` rows: a word. -/
def accGet (img : Bytes) (rows r c : Nat) : Nat := Bytes.num img (4 * (c * rows + r)) 4

def accSet (img : Bytes) (rows r c v : Nat) : Bytes := Bytes.setNum img (4 * (c * rows + r)) 4 v

def Hart.setTile (h : Hart) (t : BitVec 3) (img : Bytes) : Hart := { h with tile := h.tile.set t.toNat img t.isLt }

def QEntry.rows (e : QEntry) : Nat := shapeRows e.tshp
def QEntry.steps (e : QEntry) : Nat := shapeSteps e.tshp
/-- Types of the row operand and of the column operand. -/
def QEntry.rowTy (e : QEntry) : ETy := (ETy.ofCode (shapeA e.tshp)).getD (.uint 8)
def QEntry.colTy (e : QEntry) : ETy := (ETy.ofCode (shapeB e.tshp)).getD (.uint 8)
def QEntry.floating (e : QEntry) : Bool := matrixKind (shapeA e.tshp) == some true

/-! ### Feeds (R169 to R171) -/

/-- One k-step on one accumulator: the exact product enters once (R107, R108). -/
def feedAcc (e : QEntry) (neg : Bool) (acc a b : Nat) : Nat × Flags :=
  if e.floating then
    let fa := e.rowTy.fmt
    let fb := e.colTy.fmt
    let p := (fa.decode a).mul (fb.decode b)
    let v := (Fmt.fp32.decode acc).add .rne (if neg then p.1.neg else p.1)
    let r := Fmt.fp32.roundTo .rne 0 v.1
    (r.1, r.2 ||| invalidFlag p.2 ||| invalidFlag v.2 ||| fa.snanFlag a ||| fb.snanFlag b ||| Fmt.fp32.snanFlag acc)
  else
    let p := e.rowTy.intVal a * e.colTy.intVal b
    let r := satInt 32 true (sintOf 32 acc + (if neg then -p else p))
    (wrapNat 32 r.1, if r.2 then .asat else .none)

/-- `n` k-steps over the active columns. -/
def feed (t : BitVec 3) (a b : BitVec 5) (neg : Bool) (n : Nat) (e : QEntry) (h : Hart) : Hart × Went :=
  let rows := e.rows
  let va := readElems h.vreg h.c a.toNat e.rowTy 0 (n * rows)
  let vb := readElems h.vreg h.c b.toNat e.colTy 0 (n * e.vl)
  let cells := ((List.range e.vl).filter e.active).flatMap fun c => (List.range rows).map fun r => (r, c)
  let one (st : Bytes × Flags) (p : Nat × Nat) : Bytes × Flags :=
    let acc := (List.range n).foldl (fun (v : Nat × Flags) k =>
      let x := feedAcc e neg v.1 (va.getD (k * rows + p.1) 0) (vb.getD (k * e.vl + p.2) 0)
      (x.1, v.2 ||| x.2)) (accGet st.1 rows p.1 p.2, st.2)
    (accSet st.1 rows p.1 p.2 acc.1, acc.2)
  let r := cells.foldl one (h.tile[t.toNat], Flags.none)
  ((h.setTile t r.1).raise r.2, .done)

def mzero (t : BitVec 3) (h : Hart) : Hart × Went := (h.setTile t [], .done)

/-- `mdrain`: active accumulators go to the register in FP32 and become zero (R109, R173). -/
def mdrain (t : BitVec 3) (a : BitVec 5) (e : QEntry) (h : Hart) : Hart × Went :=
  let l := e.rows * e.vl
  let one (v : Nat) : Nat × Flags := if e.floating then (v, .none) else Fmt.fp32.ofInt .rne 0 (sintOf 32 v)
  let img := h.tile[t.toNat]
  let rs := (List.range l).map fun i =>
    if e.active i then some' (one (Bytes.num img (4 * i) 4)) else (if vtMP e.vtype then some 0 else none, Flags.none)
  let left := ((List.range l).filter e.active).foldl (fun g i => Bytes.clear g (4 * i) 4) img
  let g := (h.put e a 1 (.flt .fp32) 0 (rs.map Prod.fst)).tail e a 1 (.flt .fp32) l
  ((g.setTile t left).raise (rs.foldl (fun fl r => fl ||| r.2) .none), .done)

/-- `mrow`: element c of the register to every row of column c, bits unchanged (R174). -/
def mrow (t : BitVec 3) (a : BitVec 5) (e : QEntry) (h : Hart) : Hart × Went :=
  let cells := ((List.range e.vl).filter e.active).flatMap fun c => (List.range e.rows).map fun r => (r, c)
  (h.setTile t (cells.foldl (fun g p =>
    accSet g e.rows p.1 p.2 (Bytes.num h.vreg[a.toNat].img (4 * p.2) 4)) h.tile[t.toNat]), .done)

/-- `tsave`: the whole image of a tile, into the register and a copy register, at width tag 32 (R175). -/
def tsaveWhole (t : BitVec 3) (vs : List Nat) (h : Hart) : Hart :=
  { h with vreg := vs.foldl (fun rs v => setReg rs v fun _ => ⟨32, h.tile[t.toNat]⟩) h.vreg }

/-- `trest`: the whole image of a register into a tile. -/
def trestWhole (t : BitVec 3) (a : BitVec 5) (h : Hart) : Hart := h.setTile t h.vreg[a.toNat].img

/-! ### Entry -/

/-- TCOLMAX for a share and a number of rows (R163). -/
def tcolmax (c rows : Nat) : Nat := if rows = 0 then 0 else min 256 (c / 4 / rows)

/-- The checks of R163 with the fits of a feed of `n` k-steps at most (R169, R170). -/
def feedForm (l : List (BitVec 5)) (n : Hart → Nat) (s : State) : Form :=
  let h := s.hart
  let g := vtG h.vtype
  let rows := shapeRows h.tshp
  let fits (code k : Nat) : Bool := match ETy.ofCode code with
    | some t => decide (k ≤ vlmaxFor t g s.viewed.c)
    | none => false
  ⟨s.groups false l, !h.tshp.msb && decide (h.vl.toNat ≤ tcolmax s.viewed.c rows) &&
    fits (shapeA h.tshp) (n h * rows) && fits (shapeB h.tshp) (n h * h.vl.toNat), fun _ => true⟩

/-- The checks of R163 alone, for `mdrain` and `mrow`, whose register is a single one. -/
def tileForm (s : State) : Form :=
  let h := s.hart
  ⟨[], !h.tshp.msb && decide (h.vl.toNat ≤ tcolmax s.viewed.c (shapeRows h.tshp)), fun _ => true⟩

/-- MXACC (R169). -/
def execMxacc (c m : BitVec 1) (t : BitVec 3) (a b : BitVec 5) (s : State) : Out :=
  .next (enter (.mxacc c m t a b) [] (feedForm [a, b] fun _ => 1) (s := s))
/-- MXSUB (R169). -/
def execMxsub (c m : BitVec 1) (t : BitVec 3) (a b : BitVec 5) (s : State) : Out :=
  .next (enter (.mxsub c m t a b) [] (feedForm [a, b] fun _ => 1) (s := s))
/-- MOPK (R170). -/
def execMopk (c m : BitVec 1) (t : BitVec 3) (a b : BitVec 5) (s : State) : Out :=
  .next (enter (.mopk c m t a b) [] (feedForm [a, b] fun h => shapeSteps h.tshp) (s := s))
/-- MZERO (R168). -/
def execMzero (c : BitVec 1) (t : BitVec 3) (s : State) : Out :=
  .next (enter (.mzero c t) [] (fun _ => ⟨[], true, fun _ => true⟩) (s := s))
/-- MDRAIN (R173). -/
def execMdrain (c m : BitVec 1) (t : BitVec 3) (a : BitVec 5) (s : State) : Out :=
  .next (enter (.mdrain c m t a) [] tileForm (s := s))
/-- MROW (R174). -/
def execMrow (c m : BitVec 1) (t : BitVec 3) (a : BitVec 5) (s : State) : Out :=
  .next (enter (.mrow c m t a) [] tileForm (s := s))

/-! ### The shape (R166) -/

/-- TSHP after `tshp` with k-step field `b`. -/
def shapeSet (vtype : Word) (b : BitVec 5) : Word :=
  let et := vtCode vtype
  let ct := vtype.toNat / 2 ^ 24 % 256
  BitVec.ofNat 64 ((if ct = 0 then et else ct) * 2 ^ 24 + et * 2 ^ 16 + 4 * (b.toNat + 1) * 2 ^ 8 + 16 * vtG vtype)

/-- May VTYPE be made a shape? -/
def shapeOk (vtype : Word) : Bool :=
  let et := vtCode vtype
  let ct := vtype.toNat / 2 ^ 24 % 256
  decide (vtG vtype ≤ 4) && sameKind (if ct = 0 then et else ct) et

/-- `tshp` acts when it enters the queue, and occupies no entry. -/
def setShape (i : Instr) (b : BitVec 5) (s : State) : State :=
  let h := s.hart
  if vtVill h.vtype || vlmax h.vtype s.viewed.c < h.vl.toNat then s.illegal
  else if !shapeOk h.vtype then s.illegal
  else
    s.joining i .feed fun cv =>
      (s.mapHart fun h => { h.joined i cv with
        tshp := if h.vl = 0 then h.tshp else shapeSet h.vtype b }).retire none

/-- TSHP (R166). -/
def execTshp (c : BitVec 1) (k : BitVec 5) (s : State) : Out :=
  .next (if s.hart.hm then s.illegal else s.inLanes (setShape (.tshp c k) k))

/-! ### Instructions that run in handler mode too (R365, R376) -/

/-- The checks of R14 and R375 in handler mode: on the hart's own state they hold as elsewhere, and a viewed context
has its state in lanes. -/
def State.viewInLanes (s : State) (f : State → State) : State :=
  match s.hart.view with
  | .own => s.inLanes f
  | .ctx _ => f s

/-- Performs something at once on the viewed context, once the convoy rule allows it. -/
def State.inView (s : State) (i : Instr) (c : Class) (f : State → State) : State :=
  s.joining i c fun cv => f (s.mapHart fun h => h.joined i cv)

/-- The copy registers of an instruction that performs at once. -/
def Hart.loanCopies (h : Hart) (r : BitVec 5) : List Nat :=
  match h.loan with
  | some l => if l.dc && l.vdc != r then [r.toNat, l.vdc.toNat] else [r.toNat]
  | none => [r.toNat]

/-- `tsave` and `trest` in handler mode: VILL and VL are judged for the viewed context. -/
def moveTile (i : Instr) (f : Hart → Hart) (s : State) : State :=
  s.viewInLanes fun s =>
    let h := s.hart
    if vtVill h.vtype || vlmax h.vtype s.viewed.c < h.vl.toNat then s.illegal
    else s.inView i .feed fun t =>
      (if t.hart.vl = 0 then t else t.updHart t.viewed.ser f).retire none

/-- TSAVE (R175). -/
def execTsave (c : BitVec 1) (t : BitVec 3) (a : BitVec 5) (s : State) : Out :=
  .next (if s.hart.hm then moveTile (.tsave c t a) (tsaveWhole t (s.hart.loanCopies a)) s
    else enter (.tsave c t a) [] (fun _ => ⟨[], true, fun _ => true⟩) (s := s))
/-- TREST (R175). -/
def execTrest (c : BitVec 1) (t : BitVec 3) (a : BitVec 5) (s : State) : Out :=
  .next (if s.hart.hm then moveTile (.trest c t a) (trestWhole t a) s
    else enter (.trest c t a) [] (fun _ => ⟨[], true, fun _ => true⟩) (s := s))

/-- What a whole-register move that performs at once leaves; when it completes it joins its convoy, and SEED advances
under SR (R101). -/
def State.moved (s : State) (i : Instr) (cv : List Class) (sr : Bool) (m : Moved) : State :=
  match m with
  | .done t => (t.mapHart fun h => { h.joined i cv with seed := if sr then h.seed + 1 else h.seed }).retire none
  | .more _ t => t
  | .wait => s.waitFor .retry
  | .ask t => t.waitFor .host
  | .fault d i a => s.accessFault d i a
  | .bad i a l t => t.lineFault i a l
  | .lost t => t
  | .stream q => s.takeTrap 8 (BitVec.ofNat 64 q) 0
  | .illegal => s.illegal

/-- `vsr` and `vlr` are subject to neither R136 nor R138; they read no VL, and always occupy an entry
(R382). In handler mode they perform at once. As instructions in format W they draw from SEED under SR (R101). -/
def enterWhole (i : Instr) (c : Class) (x : BitVec 5) (f : Operand → State → Moved) (s : State) : State :=
  if s.hart.hm then
    s.viewInLanes fun s =>
      s.joining i c fun cv =>
        let t := s.mapHart fun h => { h with answer := none }
        t.moved i cv (s.hart.drawsSeed c) (f (s.hart.operand x) t)
  else
    s.inLanes fun t =>
      let h := t.hart
      let sr := h.drawsSeed c
      t.joining i c fun cv =>
        t.push (h.entryOf i c (h.operands [x]) noStrides (if sr then h.seed else 0) t.stamp) fun h =>
          { h.joined i cv with seed := if sr then h.seed + 1 else h.seed }

/-- A load of a whole register in handler mode takes the host's answer from the hart. -/
def loadInView (pred : Bool) (vs : List Nat) (s : State) (a : Operand) (t : State) : Moved :=
  wholeLoad pred vs a s.hart.answer.isSome s.hart.answer t

/-- VSR of a vector register (R382). -/
def execVsr (c : BitVec 1) (v x : BitVec 5) (s : State) : Out :=
  .next (enterWhole (.vsr c v x) .store x (wholeStore false v) s)
/-- VSR of a predicate (R382). -/
def execVsrPredicate (c : BitVec 1) (v x : BitVec 5) (s : State) : Out :=
  .next (enterWhole (.vsrPredicate c v x) .store x (wholeStore true v) s)
/-- VLR of a vector register (R382). -/
def execVlr (c : BitVec 1) (v x : BitVec 5) (s : State) : Out :=
  .next (enterWhole (.vlr c v x) .load x (loadInView false (s.hart.loanCopies v) s) s)
/-- VLR of a predicate (R382). -/
def execVlrPredicate (c : BitVec 1) (v x : BitVec 5) (s : State) : Out :=
  .next (enterWhole (.vlrPredicate c v x) .load x (loadInView true [v.toNat] s) s)

end Sys2Proof.Machine
end

