-- ==== Sys2Proof/Machine/Issue.lean ====
section
/-! DEFINITION. What a queued instruction does when a micro-operation of it issues (R143, R163), and which
entry of which hart the sequencer of a core issues (R30, R272). -/

namespace Sys2Proof.Machine

/-! ### Performing -/

/-- Leaves the state with the acting hart as a micro-operation leaves it. -/
def State.went (s : State) (r : Hart × Went) : Moved :=
  match r.2 with
  | .done => .done { s with hart := r.1 }
  | .more n => .more n { s with hart := r.1 }

/-- Class A with a vector destination: one element group. -/
def byGroup (e : QEntry) (s : State) (f : QEntry → Hart → Lane) : Moved := s.went ((f e s.hart).group e s.hart)

/-- An instruction that completes once started: its own START must be 0 (R143, R163). -/
def atOnce (e : QEntry) (s : State) (f : QEntry → Hart → Hart × Went) : Moved :=
  if e.start ≠ 0 then .illegal else s.went (f e s.hart)

/-- Class P, element-wise. -/
def wholeLane (e : QEntry) (s : State) (f : QEntry → Hart → Lane) : Moved :=
  atOnce e s fun e h => (f e h).whole e h

/-- The immediate of a vector instruction. -/
def vecImm (i : BitVec 5) : Int := i.toInt

/-- The operand b of `vaddx` and `vmulx` (R145). -/
def QEntry.scalarInt (e : QEntry) : Int := e.ety.intVal e.scalar

/-- One micro-operation of the oldest entry of the acting hart's queue. -/
def performHead (e : QEntry) (s : State) : Moved :=
  match e.instr with
  | .vadd _ _ d a b => byGroup e s (intLane d a b fun x y => x + y)
  | .vsub _ _ d a b => byGroup e s (intLane d a b fun x y => x - y)
  | .vmul _ _ d a b => byGroup e s (intLane d a b fun x y => x * y)
  | .vmulh _ _ d a b => byGroup e s (intLane d a b fun x y => x * y / 2 ^ e.ety.width)
  | .vmin _ _ d a b => byGroup e s (intLane d a b fun x y => if x ≤ y then x else y)
  | .vmax _ _ d a b => byGroup e s (intLane d a b fun x y => if x ≤ y then y else x)
  | .vand _ _ d a b => byGroup e s (bitLane d a b fun x y => x &&& y)
  | .vor _ _ d a b => byGroup e s (bitLane d a b fun x y => x ||| y)
  | .vxor _ _ d a b => byGroup e s (bitLane d a b fun x y => x ^^^ y)
  | .vsadd _ _ d a b => byGroup e s (satLane d a b fun x y => x + y)
  | .vssub _ _ d a b => byGroup e s (satLane d a b fun x y => x - y)
  | .vmacc _ _ d a b => byGroup e s (vmaccLane d a b)
  | .vaddx _ _ d a _ => byGroup e s (intLaneWith d a e.scalarInt fun x y => x + y)
  | .vmulx _ _ d a _ => byGroup e s (intLaneWith d a e.scalarInt fun x y => x * y)
  | .vaddi _ _ d a i => byGroup e s (intLaneWith d a (vecImm i) fun x y => x + y)
  | .vslli _ _ d a i => byGroup e s (intLaneWith d a (2 ^ i.toNat) fun x y => x * y)
  | .vsrli _ _ d a i => byGroup e s (vsrliLane d a i.toNat)
  | .vsrai _ _ d a i => byGroup e s (vsraiLane d a i.toNat)
  | .vcmpeq _ _ d a b => atOnce e s (intCompare d a b fun x y => decide (x = y))
  | .vcmplt _ _ d a b => atOnce e s (intCompare d a b fun x y => decide (x < y))
  | .vcmple _ _ d a b => atOnce e s (intCompare d a b fun x y => decide (x ≤ y))
  | .vsel _ _ d a b => byGroup e s (vselLane d a b)
  | .vmvx _ _ d _ => byGroup e s (vmvxLane d)
  | .vfadd _ _ d a b => byGroup e s (fltLane d a b Fmt.add)
  | .vfsub _ _ d a b => byGroup e s (fltLane d a b Fmt.sub)
  | .vfmul _ _ d a b => byGroup e s (fltLane d a b Fmt.mul)
  | .vfdiv _ _ d a b => byGroup e s (fltLane d a b Fmt.div)
  | .vfsqrt _ _ d a => byGroup e s (vfsqrtLane d a)
  | .vfma _ _ d a b => byGroup e s (vfmaLane d a b)
  | .vfmin _ _ d a b => byGroup e s (vfminmaxLane false d a b)
  | .vfmax _ _ d a b => byGroup e s (vfminmaxLane true d a b)
  | .vfcmpeq _ _ d a b => atOnce e s (fltCompare d a b .eq)
  | .vfcmplt _ _ d a b => atOnce e s (fltCompare d a b .lt)
  | .vfcmple _ _ d a b => atOnce e s (fltCompare d a b .le)
  | .vfmulx _ _ d a _ => byGroup e s (vfmulxLane d a)
  | .vfsmul _ _ d a b => byGroup e s (vfsmulLane d a b)
  | .vfsmacc _ _ d a b => byGroup e s (vfsmaccLane d a b)
  | .vfcvt _ _ d a => byGroup e s (convertLane d a cvtFloat)
  | .vfcvti _ _ d a => byGroup e s (convertLane d a cvtToInt)
  | .vicvtf _ _ d a => byGroup e s (convertLane d a cvtFromInt)
  | .vicvt _ _ d a => byGroup e s (convertLane d a cvtInt)
  | .vskv _ _ d a => wholeLane e s (convertLane d a cvtSkiver)
  | .vredsum _ _ d a => atOnce e s (vredsum d a)
  | .vredmax _ _ d a => atOnce e s (vredmax d a)
  | .vfredsum _ _ d a => atOnce e s (vfredsum d a)
  | .vfredmax _ _ d a => atOnce e s (vfredmax d a)
  | .vtopk _ _ d a _ => atOnce e s (vtopk d a)
  | .vperm _ _ d a b => wholeLane e s (vpermLane d a b)
  | .vslideup _ _ d a _ => wholeLane e s (vslideupLane d a)
  | .vslidedn _ _ d a _ => wholeLane e s (vslidednLane d a)
  | .vcompress _ _ d a => atOnce e s (vcompress d a)
  | .viota _ _ d => wholeLane e s (viotaLane d)
  | .kand _ _ d a b => atOnce e s fun e h => predLane d (fun i => h.kbit a.toNat i && h.kbit b.toNat i) e h
  | .kor _ _ d a b => atOnce e s fun e h => predLane d (fun i => h.kbit a.toNat i || h.kbit b.toNat i) e h
  | .kxor _ _ d a b => atOnce e s fun e h => predLane d (fun i => h.kbit a.toNat i != h.kbit b.toNat i) e h
  | .kandn _ _ d a b => atOnce e s fun e h => predLane d (fun i => h.kbit a.toNat i && !h.kbit b.toNat i) e h
  | .knot _ _ d a => atOnce e s fun e h => predLane d (fun i => !h.kbit a.toNat i) e h
  | .kbefore _ _ d a => atOnce e s fun e h => predLane d (fun i => decide (i < e.firstSet h a)) e h
  | .kset _ _ d => atOnce e s (predLane d fun _ => true)
  | .vld _ _ v _ _ => loadStep v ⟨e.ety, e.unitAddr, needRead, true⟩ false e s
  | .vlds _ _ v _ _ _ => loadStep v ⟨e.ety, e.strideAddr, needRead, true⟩ false e s
  | .vldx _ _ v _ x _ => loadStep v ⟨e.ety, e.indexAddr s.hart x, needRead, true⟩ false e s
  | .vldff _ _ v _ _ => loadStep v ⟨e.ety, e.unitAddr, needRead, true⟩ true e s
  | .vqrd _ _ v q _ => vqrdStep v q e s
  | .vlr _ v _ => if e.start ≠ 0 then .illegal else wholeLoad false (e.copies v) e.ops[0] e.asked e.answer s
  | .vlrPredicate _ v _ => if e.start ≠ 0 then .illegal else wholeLoad true [v.toNat] e.ops[0] e.asked e.answer s
  | .vst _ _ v _ _ => storeStep v ⟨e.ety, e.unitAddr, needWrite, true⟩ e s
  | .vsts _ _ v _ _ _ => storeStep v ⟨e.ety, e.strideAddr, needWrite, true⟩ e s
  | .vstx _ _ v _ x _ => storeStep v ⟨e.ety, e.indexAddr s.hart x, needWrite, true⟩ e s
  | .vsr _ v _ => if e.start ≠ 0 then .illegal else wholeStore false v e.ops[0] s
  | .vsrPredicate _ v _ => if e.start ≠ 0 then .illegal else wholeStore true v e.ops[0] s
  | .vamoadd _ _ v _ x _ sc => amoStep .add v x sc e s
  | .vamomin _ _ v _ x _ sc => amoStep .min v x sc e s
  | .vamomax _ _ v _ x _ sc => amoStep .max v x sc e s
  | .vamoand _ _ v _ x _ sc => amoStep .and v x sc e s
  | .vamoor _ _ v _ x _ sc => amoStep .or v x sc e s
  | .vamoxor _ _ v _ x _ sc => amoStep .xor v x sc e s
  | .vamoswap _ _ v _ x _ sc => amoStep .swap v x sc e s
  | .vamocas _ _ v _ x _ sc => amoStep .cas v x sc e s
  | .mmcpy _ _ _ _ _ => mmStep .cpy e s
  | .mmadd _ _ _ _ _ _ => mmStep .add e s
  | .mmsub _ _ _ _ _ _ => mmStep .sub e s
  | .mmmul _ _ _ _ _ _ => mmStep .mul e s
  | .mmmin _ _ _ _ _ _ => mmStep .min e s
  | .mmmax _ _ _ _ _ _ => mmStep .max e s
  | .mxacc _ _ t a b => atOnce e s (feed t a b false 1)
  | .mopk _ _ t a b => atOnce e s (feed t a b false e.steps)
  | .mxsub _ _ t a b => atOnce e s (feed t a b true 1)
  | .mzero _ t => atOnce e s fun _ h => mzero t h
  | .mdrain _ _ t a => atOnce e s (mdrain t a)
  | .mrow _ _ t a => atOnce e s (mrow t a)
  | .tsave _ t a => atOnce e s fun e h => (tsaveWhole t (e.copies a) h, .done)
  | .trest _ t a => atOnce e s fun _ h => (trestWhole t a h, .done)
  | _ => .illegal

/-! ### One micro-operation of a hart -/

/-- Does a held write of the hart's vector side keep the convoy of an entry from starting (R30, R318)? -/
def State.convoyHeld (s : State) (e : QEntry) : Bool :=
  e.convoy != s.hart.convoyRun && s.heldOf (.vector s.hart.ser)

/-- The entry with its mask captured: it is read when the instruction starts (R25). -/
def QEntry.withMask (e : QEntry) (h : Hart) : QEntry :=
  if masked e.instr && e.mask.isNone then { e with mask := some (h.kreg.toList.getD e.maskReg []) } else e

/-- Does an entry go on after a stop: has it been stopped part-way, and not completed (R137)? -/
def QEntry.goesOn (e : QEntry) : Bool := e.resumed && !e.over

/-- The oldest entry leaves the queue, and with it those after it that have completed before it. VSTART is then the first
element not yet performed of the instruction at VCP, where that was stopped part-way; the completion of one that was
clears it otherwise (R137). -/
def Hart.popHead (h : Hart) : Hart :=
  let rest := h.queue.tail.dropWhile QEntry.over
  let was := (h.queue.take (h.queue.length - rest.length)).any QEntry.resumed
  { h with
    queue := rest
    vstart := match rest.head? with
      | some e => if e.goesOn then BitVec.ofNat 20 e.start else if was then 0 else h.vstart
      | none => if was then 0 else h.vstart }

def State.popHead (s : State) : State := s.mapHart Hart.popHead

/-- The oldest entry goes on at an element; VSTART follows it where it was stopped part-way (R137). -/
def Hart.advance (h : Hart) (n : Nat) : Hart :=
  let was := (h.queue.head?.map QEntry.resumed).getD false
  { h with vstart := if was then BitVec.ofNat 20 n else h.vstart }

/-- The word of an entry, which the illegal-instruction trap reports. -/
def QEntry.word (e : QEntry) : Word := ((encode e.instr).getD 0).zeroExtend 64

/-- An entry that has used, or has no longer to use, what the host answered. -/
def QEntry.settled (e : QEntry) : QEntry := { e with asked := false, answer := none }

/-- An entry that goes on at element `n`, with what it has accessed there ahead of its element group. -/
def QEntry.goOn (e : QEntry) (n : Nat) : QEntry :=
  { e.settled with
    start := n
    aged := false
    early := e.early.filter fun p => decide (n ≤ p.1 * e.ety.unitElems) }

/-- An entry begins its micro-operation: its mask is captured, and its convoy is the one that runs (R25, R30). -/
def State.started (s : State) (e : QEntry) : State :=
  (s.updHead fun _ => e).mapHart fun h => { h with convoyRun := e.convoy }

/-- One micro-operation of the oldest entry of the acting hart; none where nothing can be done yet. It asks the host
for nothing while the scalar side waits for the host (log entry 23). An entry that has completed before an older one has
nothing left to do. -/
def issueHead (s : State) : Option State :=
  match s.hart.queue with
  | [] => none
  | e0 :: _ =>
    if e0.over then some s.popHead
    else if s.convoyHeld e0 then none
    else
      let e := e0.withMask s.hart
      let t := s.started e
      match performHead e t with
      | .wait => none
      | .done u => some u.popHead
      | .more n u => some ((u.mapHart fun h => h.advance n).updHead fun e => e.goOn n)
      | .ask u => if s.hart.atHost then none else some (u.updHead fun e => { e with asked := true })
      | .fault d i a => some ((t.updHead QEntry.settled).accessFault d i a)
      | .bad i a l u => some ((u.updHead QEntry.settled).lineFault i a l)
      | .lost u => some u
      | .stream q => some (t.streamFault q)
      | .illegal => some (t.takeTrap 1 0 e.word)

/-- One packing unit of the oldest entry, before the rest of its element group (R213); `.wait` for an entry that accesses
no memory one element group at a time. -/
def unitOf (i : Nat) (e : QEntry) (s : State) : Moved :=
  match e.instr with
  | .vld _ _ _ _ _ => loadUnit ⟨e.ety, e.unitAddr, needRead, true⟩ false i e s
  | .vlds _ _ _ _ _ _ => loadUnit ⟨e.ety, e.strideAddr, needRead, true⟩ false i e s
  | .vldx _ _ _ _ x _ => loadUnit ⟨e.ety, e.indexAddr s.hart x, needRead, true⟩ false i e s
  | .vldff _ _ _ _ _ => loadUnit ⟨e.ety, e.unitAddr, needRead, true⟩ true i e s
  | .vst _ _ v _ _ => storeUnit v ⟨e.ety, e.unitAddr, needWrite, true⟩ i e s
  | .vsts _ _ v _ _ _ => storeUnit v ⟨e.ety, e.strideAddr, needWrite, true⟩ i e s
  | .vstx _ _ v _ x _ => storeUnit v ⟨e.ety, e.indexAddr s.hart x, needWrite, true⟩ i e s
  | .vamoadd _ _ v _ x _ sc => amoUnit .add v x sc i e s
  | .vamomin _ _ v _ x _ sc => amoUnit .min v x sc i e s
  | .vamomax _ _ v _ x _ sc => amoUnit .max v x sc i e s
  | .vamoand _ _ v _ x _ sc => amoUnit .and v x sc i e s
  | .vamoor _ _ v _ x _ sc => amoUnit .or v x sc i e s
  | .vamoxor _ _ v _ x _ sc => amoUnit .xor v x sc i e s
  | .vamoswap _ _ v _ x _ sc => amoUnit .swap v x sc i e s
  | .vamocas _ _ v _ x _ sc => amoUnit .cas v x sc i e s
  | _ => .wait

/-- One packing unit of the acting hart's oldest entry, where nothing is in its way. -/
def issueHeadUnit (i : Nat) (s : State) : Option State :=
  match s.hart.queue with
  | [] => none
  | e0 :: _ =>
    if e0.over || s.convoyHeld e0 then none
    else
      let e := e0.withMask s.hart
      match unitOf i e (s.started e) with
      | .more _ u => some (u.updHead fun e => { e with aged := false })
      | .done _ | .wait | .ask _ | .fault _ _ _ | .bad _ _ _ _ | .lost _ | .stream _ | .illegal => none

/-! ### Younger entries (R30, R272, R358) -/

/-- The places and the size of the packing units that a vector load or store has yet to access, those below
element `hi`; none for every other instruction. -/
def QEntry.places (e : QEntry) (h : Hart) (hi : Nat) : Option (List Nat × Nat) :=
  let t := e.ety
  let at' (addr : Nat → Nat) : Option (List Nat × Nat) := some ((e.units t e.start hi).map addr, t.unitBytes)
  match e.instr with
  | .vld _ _ _ _ _ | .vst _ _ _ _ _ => at' e.unitAddr
  | .vlds _ _ _ _ _ _ | .vsts _ _ _ _ _ _ => at' e.strideAddr
  | .vldx _ _ _ _ x _ | .vstx _ _ _ _ x _ => at' (e.indexAddr h x)
  | _ => none

/-- Are the addresses of an entry read from a register group? -/
def QEntry.indexed (e : QEntry) : Bool :=
  match e.instr with
  | .vldx _ _ _ _ _ _ | .vstx _ _ _ _ _ _ => true
  | _ => false

/-- Does an entry access memory or a stream? -/
def QEntry.accesses (e : QEntry) : Bool := e.cls == .load || e.cls == .store || e.memToMem

/-- Does an entry read or write a tile? The matrix queue of a lane group serves these in program order (R165). -/
def QEntry.usesTile (e : QEntry) : Bool :=
  match e.instr with
  | .mxacc _ _ _ _ _ | .mopk _ _ _ _ _ | .mxsub _ _ _ _ _ | .mzero _ _ | .mdrain _ _ _ _ | .mrow _ _ _ _
  | .tsave _ _ _ | .trest _ _ _ => true
  | _ => false

/-- Do two lists of places share a byte of memory, seen from a core? -/
def State.placesMeet (s : State) (core : BitVec 8) (x y : List Nat × Nat) : Bool :=
  x.1.any fun a => y.1.any fun b => decide (s.key core a < s.key core b + y.2 ∧ s.key core b < s.key core a + x.2)

/-- Where the element group ends that an entry performs next. -/
def QEntry.nextEnd (e : QEntry) : Nat := e.ety.groupEnd e.start e.vl

/-- The element type at which an entry reads a source, where it reads one element for each of its own. -/
def SrcExtent.readType (x : SrcExtent) (e : QEntry) : Option ETy :=
  match x with
  | .group => some e.ety
  | .convert => some ((vtCT e.vtype).getD (.uint 8))
  | .index => some (.uint 32)
  | .pair | .one => none

/-- Are elements of one type laid out as those of another? -/
def ETy.sameLayout (t u : ETy) : Bool := t.width == u.width && t.unitElems == u.unitElems && t.unitBytes == u.unitBytes

/-- Where the elements of a source end that the next micro-operation of an entry reads: the first of an indexed access
probes every address (R229). -/
def QEntry.readEnd (e : QEntry) (x : SrcExtent) : Nat := if x == .index && e.probed.isNone then e.vl else e.nextEnd

/-- Has an older entry `p` produced what the next element group of `e` reads in one of its sources (R30)? -/
def produced (e p : QEntry) (r : BitVec 5 × SrcExtent) : Bool :=
  !rangesShare [(r.1.toNat, r.2.count e)] p.writes ||
    (e.byGroups && p.ascending && decide (e.readEnd r.2 ≤ p.start) && p.writes.any (fun d => d.1 == r.1.toNat) &&
      (r.2.readType e).any p.ety.sameLayout)

/-- Does an older entry `p` that has not completed let the next micro-operation of `e` issue, as far as registers go? It
consumes an element group of `p` only once that group has been produced, and writes nothing that `p` has yet to read or
write. -/
def regsAllow (e p : QEntry) : Bool :=
  !rangesShare e.writes (p.reads ++ p.writes) &&
    !(e.predWritten.any fun k => p.predsRead.contains k || p.predWritten == some k) &&
    !(p.predWritten.any fun k => (predReads e.instr).contains k || (e.mask.isNone && e.predsRead.contains k)) &&
    !(e.usesTile && p.usesTile) && (vectorReads e.instr).all (produced e p)

/-- Does it as far as memory goes? Accesses of one hart to one place keep their order (R211); where the places of one of
the two are not known yet, or it accesses memory otherwise than one element group at a time, the older goes first. -/
def State.placesAllow (s : State) (e p : QEntry) (head : Bool) : Bool :=
  !e.accesses || !p.accesses ||
    match e.places s.hart e.nextEnd, p.places s.hart p.vl with
    | some x, some y => (!p.indexed || head || p.probed.isSome) && !s.placesMeet s.hart.core x y
    | _, _ => false

/-- Has an entry places at the host? -/
def State.hasHostPlaces (s : State) (e : QEntry) : Bool :=
  (e.places s.hart e.vl).any fun x => x.1.any fun a => (s.atHost a).isSome

/-- May entry `n` of the acting hart's queue, not the oldest, issue its next micro-operation: it stands in the convoy of
the oldest entry, and no older entry that has not completed forbids it (log entry 70)? -/
def State.mayOvertake (s : State) (n : Nat) : Bool :=
  let q := s.hart.queue
  match q.head?, q[n]? with
  | some h, some e =>
    n ≠ 0 && !e.over && e.convoy == h.convoy && !s.convoyHeld h && !s.hasHostPlaces e &&
      (q.take n).zipIdx.all fun p => p.1.over || (regsAllow e p.1 && s.placesAllow e p.1 (p.2 == 0))
  | _, _ => false

/-- Moves entry `n` to the front of the queue. -/
def Hart.bringForward (h : Hart) (n : Nat) : Hart :=
  match h.queue[n]? with
  | some e => { h with queue := e :: h.queue.eraseIdx n }
  | none => h

/-- Moves the front entry back to place `n`, changed. -/
def Hart.putBack (h : Hart) (n : Nat) (f : QEntry → QEntry) : Hart :=
  match h.queue with
  | e :: t => { h with queue := t.insertIdx n (f e) }
  | [] => h

/-- An entry that has completed before an older one; one that performs by element groups has performed every element. -/
def QEntry.complete (e : QEntry) : QEntry :=
  { e.settled with start := if e.partwise then e.vl else e.start, done := true, aged := false, early := [] }

/-- One micro-operation of a younger entry. What is more than its own results waits until the entry is the oldest: a
fault, and an answer of the host. -/
def issueYounger (n : Nat) (s : State) : Option State :=
  if !s.mayOvertake n then none
  else
    let t := s.mapHart fun h => h.bringForward n
    match t.hart.queue with
    | [] => none
    | e0 :: _ =>
      let e := e0.withMask s.hart
      match performHead e (t.started e) with
      | .done u => some (u.mapHart fun h => h.putBack n QEntry.complete)
      | .more k u => some (u.mapHart fun h => h.putBack n fun e => e.goOn k)
      | .wait | .ask _ | .fault _ _ _ | .bad _ _ _ _ | .lost _ | .stream _ | .illegal => none

/-- One micro-operation of entry `n` of the acting hart's queue, if one can issue. -/
def issueEntry (n : Nat) (s : State) : Option State := if n = 0 then issueHead s else issueYounger n s

/-! ### The order of issue (R272) -/

/-- A candidate for issue: an entry of a hart's queue, with its place there. -/
structure Candidate where
  hart  : Hart
  place : Nat
  entry : QEntry

/-- Does the sequencer issue candidate `x` before `y` (R272)? -/
def issuesBefore (imode : Nat) (x y : Candidate) : Bool :=
  let older := decide (x.entry.stamp < y.entry.stamp)
  if x.entry.aged != y.entry.aged then x.entry.aged
  else if x.entry.aged then older
  else if imode = 0 then
    let a := x.entry.vl - x.entry.start
    let b := y.entry.vl - y.entry.start
    decide (a < b) || (decide (a = b) && older)
  else decide (x.hart.role.toNat < y.hart.role.toNat) || (decide (x.hart.role = y.hart.role) && older)

/-- Inserts into a list in the order of issue. -/
def issueInsert (imode : Nat) (x : Candidate) : List Candidate → List Candidate
  | [] => [x]
  | y :: l => if issuesBefore imode x y then x :: y :: l else y :: issueInsert imode x l

/-- The entries of a hart's queue as candidates. -/
def Hart.candidates (h : Hart) : List Candidate := h.queue.zipIdx.map fun p => ⟨h, p.2, p.1⟩

/-- The entries of the core's harts in the order of issue. -/
def State.issueOrder (s : State) (core : BitVec 8) : List Candidate :=
  ((s.harts.filter fun h => h.life == .running && h.core == core).flatMap Hart.candidates).foldl
    (fun l x => issueInsert (schedImode s.schedcfg) x l) []

/-- A micro-operation of an entry of a hart issues, if one can; the acting hart stays the acting one. -/
def State.issueOf (s : State) (ser : BitVec 16) (n : Nat) : Option State :=
  (issueEntry n (s.focus ser)).map fun t => t.focus s.hart.ser

/-- MICROOP_ISSUE (R272): the first micro-operation that can issue does. -/
def execMicroopIssue (core : BitVec 8) (s : State) : Out :=
  .next (((s.issueOrder core).findSome? fun x => s.issueOf x.hart.ser x.place).getD s)

/-- The first entry of a hart's queue that is ready, and not aged. -/
def State.readyEntry (s : State) (h : Hart) : Option Nat :=
  (List.range h.queue.length).find? fun n =>
    (h.queue[n]?).any (fun e => !e.aged) && (s.issueOf h.ser n).isSome

/-- MICROOP_AGED (R272): the oldest micro-operation of a hart that is ready, and not aged, has been ready for AGEMAX
cycles. -/
def execMicroopAged (ser : BitVec 16) (s : State) : Out :=
  .next
    (match s.findHart ser with
     | none => s
     | some h =>
       if h.life ≠ .running then s
       else
         match s.readyEntry h with
         | none => s
         | some n => s.updHart ser fun h => { h with queue := h.queue.modify n fun e => { e with aged := true } })

/-- One packing unit is accessed of the element group that a core issues next, before the rest of the group (R213). -/
def State.issueUnit (s : State) (core : BitVec 8) (u : Nat) : State :=
  match (s.issueOrder core).find? fun x => (s.issueOf x.hart.ser x.place).isSome with
  | none => s
  | some x =>
    if x.place ≠ 0 then s
    else ((issueHeadUnit u (s.focus x.hart.ser)).map fun t => t.focus s.hart.ser).getD s

end Sys2Proof.Machine
end

