-- ==== Sys2Proof/Machine/Errors.lean ====
section
/-! DEFINITION. Errors, self-test and retirement (R384 to R390), the loss of a fabric port (R394) and of a
capacity extent (R401). -/

namespace Sys2Proof.Machine

/-! ### Work in flight to a range of memory -/

/-- A range of physical places: first and length. -/
abbrev Range := Nat × Nat

/-- A list of ranges less the places from `o` on, `m` of them. -/
def cutOut (o m : Nat) (l : List Range) : List Range :=
  (l.flatMap fun (a, n) => [(a, min n (o - a)), (max a (o + m), a + n - max a (o + m))]).filter fun r => r.2 != 0

/-- The places at which an access is performed in a range: those of the range itself that no entry forwards elsewhere, and
those that an entry forwards into it (R318). -/
def State.originsOf (s : State) (r : Range) : List Range :=
  let es := s.fwd.toList.filter fun e => e.mode == 2
  es.foldl (fun l e => cutOut (e.old.toNat * 64) e.len.toNat l) [r] ++
    es.filterMap fun e =>
      let lo := max (e.new.toNat * 64) r.1
      let hi := min (e.new.toNat * 64 + e.len.toNat) (r.1 + r.2)
      if lo < hi then some (e.old.toNat * 64 + (lo - e.new.toNat * 64), hi - lo) else none

def Range.meets (r : Range) (a n : Nat) : Bool := decide (a < r.1 + r.2 ∧ r.1 < a + n)

/-- Does one of `count` places of `n` bytes meet the range, the first at `a` and each `step` after the one before? -/
def Range.meetsEvery (r : Range) (a step count n : Nat) : Bool :=
  let j := if r.1 < a + n then 0 else (r.1 - (a + n)) / max step 1 + 1
  decide (0 < count) && (if step = 0 then r.meets a n else decide (j < count) && r.meets (a + step * j) n)

/-- Has a ticket yet to read or write places in the range: the nodes of the shards not yet searched and the record, or
the rows and y? -/
def State.workMeets (s : State) (r : Range) : Work → Bool
  | .query q =>
    r.meets (s.canon q.raddr) (32 + 8 * q.k) || q.shards.any fun h =>
      h.result.isNone && (r.meetsEvery (s.canon h.vaddr) h.vstride h.nodes (q.dim * codeBytes q.etype.toNat) ||
        r.meetsEvery (s.canon h.aaddr) h.astride h.nodes (4 + 4 * h.deg))
  | .product p =>
    r.meets (s.canon p.yaddr) (4 * p.rows) ||
      (List.range p.rows).any fun i => r.meets (s.canon (p.rowAt i).2) (p.cols * codeBytes p.etype.toNat)

/-- The places that a queued instruction has yet to access, once its probe has passed: an address and a length of
each. -/
def QEntry.pending (e : QEntry) (h : Hart) : List (Nat × Nat) :=
  let t := e.ety
  let units (hi : Nat) (addr : Nat → Nat) := (e.units t e.start hi).map fun u => (addr u, t.unitBytes)
  let rows (js : List (Fin 3)) :=
    ((List.range e.vl).filter fun i => decide (e.start ≤ i) && e.active i).flatMap fun i =>
      js.map fun j => (e.mmAddr j i, t.unitBytes)
  if e.probed.isNone then []
  else
    match e.instr with
    | .vld _ _ _ _ _ | .vst _ _ _ _ _ => units e.vl e.unitAddr
    | .vldff _ _ _ _ _ => units e.limit e.unitAddr
    | .vlds _ _ _ _ _ _ | .vsts _ _ _ _ _ _ => units e.vl e.strideAddr
    | .vldx _ _ _ _ x _ | .vstx _ _ _ _ x _ | .vamoadd _ _ _ _ x _ _ | .vamomin _ _ _ _ x _ _ | .vamomax _ _ _ _ x _ _
    | .vamoand _ _ _ _ x _ _ | .vamoor _ _ _ _ x _ _ | .vamoxor _ _ _ _ x _ _ | .vamoswap _ _ _ _ x _ _
    | .vamocas _ _ _ _ x _ _ => units e.vl (e.indexAddr h x)
    | .mmcpy _ _ _ _ _ => rows (mmParts true)
    | .mmadd _ _ _ _ _ _ | .mmsub _ _ _ _ _ _ | .mmmul _ _ _ _ _ _ | .mmmin _ _ _ _ _ _ | .mmmax _ _ _ _ _ _ =>
      rows (mmParts false)
    | _ => []

/-- Does a stream, under the slot word that `qbind` captured, have elements in the range that it has yet to fetch? -/
def State.streamMeets (s : State) (r : Range) (q : Stream) : Bool :=
  let j := q.pos.toNat + q.ready.length
  let n := q.extent.toNat - j
  let first := elementAddr q.base.val q.stride j
  let last := elementAddr q.base.val q.stride (j + n - 1)
  q.bound && q.slot.isSome && r.meetsEvery (s.canon (min first last)) q.stride.toInt.natAbs n q.size

/-- Has the hart an access that has passed its probe, or a stream, that reaches the range? -/
def State.reaches (s : State) (h : Hart) (r : Range) : Bool :=
  h.queue.any (fun e => (e.pending h).any fun p => r.meets (s.canon p.1) p.2) || h.streams.any (s.streamMeets r) ||
    (match h.capture.bind Capture.vec with
     | some v => v.bytes.isNone && r.meets (s.canon v.addr) (v.count * v.size)
     | none => false)

/-- Is an access, ticket, transfer, reduction or stream of a hart that satisfies a condition in flight to places of a
range? Work goes on for harts that have exited (R279). -/
def State.busyIn (s : State) (mine : BitVec 16 → Bool) (r : Range) : Bool :=
  s.harts.any (fun h => h.alive && mine h.ser && s.reaches h r) ||
    s.stores.any (fun p => mine p.ctx.ser && r.meets (s.canon p.addr) p.data.length) ||
    s.tickets.any (fun t => mine t.ser && s.workMeets r t.work) ||
    s.jobs.any (fun j => mine j.ser && j.pieces.any fun p => match p with
      | some p => r.meets (s.canon p.src) p.len || r.meets (s.canon p.dst) p.len
      | none => false) ||
    s.copies.any (fun c => mine c.ser && (c.rows.any (fun i => r.meets (s.canon (c.waddr + i * c.rstride)) c.bytes) ||
      r.meets (s.canon c.haddr) (c.rows.length * c.rstride))) ||
    s.held.any (fun w => w.stream.ser.any mine && r.meets w.wr.key w.wr.data.length) ||
    s.gangs.any fun g => g.reds.any fun x => x.joins.any fun j =>
      g.joinedHere j && mine j.ser && r.meets (s.canon j.boff) j.bytes

/-- Is such work in flight to the range, wherever forwarding entries take it (R318, R388, R400, R401)? -/
def State.busyAt (s : State) (mine : BitVec 16 → Bool) (r : Range) : Bool := (s.originsOf r).any (s.busyIn mine)

/-- Has the hart work in flight to the range? -/
def State.inFlight (s : State) (h : Hart) (r : Range) : Bool := s.busyAt (fun ser => ser == h.ser) r

/-- Quarantines the contexts that satisfy a condition, each decided before the first is stopped. -/
def State.quarantineAll (s : State) (p : Hart → Bool) (cause : Nat) (detail : Word) : State :=
  ((s.harts.filter fun h => h.alive && p h).map Hart.ser).foldl
    (fun t ser => t.asHart ser fun u => u.quarantine cause detail) s

/-- The detail of a quarantine for which the spec names none: a free value. -/
def State.openDetail (s : State) : Word := openWord s.tick

/-! ### Dirty lines (R386, R401) -/

/-- The line's value is lost: memory keeps what was last written back. -/
def State.dropDirty (s : State) (d : DirtyLine) : State :=
  { s with
    mem := Bytes.write s.mem d.line d.backing
    macs := tblSet s.macs d.line d.mac
    dirty := s.dirty.filter fun x => x.line != d.line }

def State.dirtyIn (s : State) (r : Range) : List DirtyLine := s.dirty.filter fun d => r.meets d.line 64

/-- The worlds that own a dirty line: the one whose key it is written under, and those whose agents have written it
(log entry 97). -/
def DirtyLine.owners (d : DirtyLine) : List (BitVec 10) := if d.keyid = 0 then d.writers else d.keyid :: d.writers

/-! ### Lost port (R394) -/

/-- Is the gang a domain gang with a member on another device? -/
def State.farGang (s : State) (g : Gang) : Bool := g.alive && g.devs.any fun d => d != s.devIndex

/-- The places of other devices. -/
def farRange : Range := (2 ^ 50, 2 ^ 50)

/-- The work of harts that have ended stops where it reaches across the lost port (log entry 99). -/
def State.dropFar (s : State) : State :=
  let dead (ser : BitVec 16) : Bool := (s.findHart ser).isNone
  { s with
    tickets := s.tickets.filter fun t => !(dead t.ser && s.workMeets farRange t.work)
    jobs := s.jobs.filter fun j => !(dead j.ser && j.pieces.any fun p => match p with
      | some p => farRange.meets (s.canon p.src) p.len || farRange.meets (s.canon p.dst) p.len
      | none => false) }

/-- The port is down: domain gangs that have not started retire with status 4; contexts with packets in flight, or with
work that has passed its probe and reaches across the port (log entry 99), and contexts of domain gangs are quarantined;
the far members of those gangs have left. -/
def State.portDown (s : State) : State :=
  let s := { s with link := { s.link with up := false, training := false, waiting := 0, retry := [], replays := [] } }
  let far := s.gangs.filter s.farGang
  let t := (far.filter fun g => g.phase != .started).foldl State.failStart s
  let gone := (far.filter fun g => g.phase == .started).map Gang.gid
  let t := gone.foldl (fun u gid => u.updGang gid fun g =>
    { g with
      members := mapIf (fun m => m.dev != u.devIndex) (fun m => { m with live := false }) g.members
      broken := true }) t
  let sent := t.packets.filterMap fun p => p.stream.ser
  let hit (h : Hart) : Bool := sent.contains h.ser || gone.contains h.gid || t.inFlight h farRange
  let t := (({ t with packets := [] } : State).quarantineAll hit 2 t.openDetail).dropFar
  let t := gone.foldl State.finishGang t
  t.report 10 4 (Config.unitOf t.tick % 36) 1 0

/-! ### Withdrawn extents (R401) -/

/-- The range of a root-port entry's extent. -/
def State.extentRange (s : State) (i : Nat) : Range :=
  let x := s.extentAt i
  (2 ^ 44 + i / 64 * 2 ^ 41 + x.off.toNat * 2 ^ 28, x.units.toNat * 2 ^ 28)

/-- Withdraws the extent of an entry that is mapped or releasing. -/
def State.withdraw (s : State) (i : Nat) : State :=
  let x := (s.extentAt i).state
  if x ≠ 2 ∧ x ≠ 3 then s
  else
    let r := s.extentRange i
    let lost := s.dirtyIn r
    let owners := lost.flatMap DirtyLine.owners
    let hit (h : Hart) : Bool := owners.contains h.wid || s.inFlight h r
    let t := (lost.foldl State.dropDirty s).quarantineAll hit 4 s.openDetail
    (t.setExtent i fun x => { x with state := 4 }).report 13 8 (i / 64) 1 0

/-! ### Retirement (R387, R388) -/

/-- The number of units of a class that has self-tests: lane groups, scratchpad banks, caches, slices, awl
arrays, search engines, worklist units, slice links, die-to-die ports, root ports. -/
def unitCount (cls : Nat) : Nat :=
  match cls with
  | 1 => 1024
  | 2 => 16384
  | 3 | 4 => 256
  | 5 => 768
  | 7 => 96
  | 8 => 12
  | 9 | 11 => 4
  | 10 => 36
  | 13 => 8
  | _ => 0

/-- A lane group leaves service: its owner is held, and CAP of the harts of the core falls (R388). -/
def State.retireGroup (s : State) (u : Nat) : State :=
  let core := BitVec.ofNat 8 (u / 4)
  let cap := s.capOf core
  let g := BitVec.ofNat 2 u
  let hold (h : Hart) : Hart := if h.vloc == 1 && h.groups.contains g then h.requestHold else h
  let lower (h : Hart) : Hart := if cap.toNat < h.cap.toNat then h.setCap cap else h
  let here (h : Hart) : Bool := h.alive && h.core == core
  { s with
    hart := if here s.hart then lower (hold s.hart) else s.hart
    others := mapIf here (fun h => lower (hold h)) s.others }

/-- The stacks of a compute die as a range. -/
def dieRange (d : Nat) : Range := (3 * d * 2 ^ 37, 3 * 2 ^ 37)

/-- Tasks that a die's worklist unit holds count as retired, with LOST set (R298, R388). -/
def Worklist.loseDie (l : Worklist) (tick d : Nat) (dev : BitVec 8) : Worklist :=
  let gone (p : Task × Nat) : Bool := p.1.dev == dev && p.1.spilled.isNone && Config.dieOfTask tick p.2 % 4 == d
  let ts := l.tasks.zipIdx
  let n := (ts.filter gone).length
  if n = 0 then l
  else
    ({ l with
      tasks := (ts.filter fun p => !gone p).map Prod.fst
      retired := l.retired + BitVec.ofNat 64 n
      lost := true } : Worklist).refloor

/-- Compute die `d` leaves service (R388): what its slices hold dirty is lost, lines of its stacks and of the
capacity tier alike. -/
def State.retireDie (s : State) (d : Nat) : State :=
  let r := dieRange d
  let lost := s.dirty.filter fun x => sliceUnit x.line / 192 == d
  let owners := lost.flatMap DirtyLine.owners
  let hit (h : Hart) : Bool := h.core.toNat / 64 == d || owners.contains h.wid || s.inFlight h r
  let t : State := { lost.foldl State.dropDirty s with
    gangs := s.gangs.map fun g => { g with lists := g.lists.map fun l => l.loseDie s.tick d s.devIndex } }
  t.quarantineAll hit 2 s.openDetail

/-- Retires a unit: the retirement is logged and reported, and takes its effect (R387, R388, R390). -/
def State.retireUnit (s : State) (cls : BitVec 8) (unit : BitVec 16) : State :=
  if s.retired.contains (cls, unit) then s
  else
    let rest := s.tests.filter fun (x : BitVec 8 × BitVec 16 × Nat) => !(x.1 == cls && x.2.1 == unit)
    let t := ({ s with retired := s.retired ++ [(cls, unit)], tests := rest } : State).report cls.toNat 3 unit.toNat 1 0
    match cls.toNat with
    | 1 => t.retireGroup unit.toNat
    | 10 => if t.link.up then t.portDown else t
    | 11 => t.retireDie unit.toNat
    | 13 => (List.range 64).foldl (fun u e => u.withdraw (unit.toNat * 64 + e)) t
    | _ => t

/-! ### Corrected errors (R384, R387, R390) -/

/-- Times of the last second, with the present one. -/
def State.lastSecond (s : State) (cls : BitVec 8) (unit : BitVec 16) : List Nat :=
  let now := (Config.time s.tick).toNat
  let old := match s.recent.find? fun x => x.1 == cls && x.2.1 == unit with
    | some (_, _, l) => l
    | none => []
  (old.filter fun t => decide (now < t + 1000000)) ++ [now]

/-- What is held back of a unit's corrected errors. -/
abbrev Held := BitVec 8 × BitVec 16 × Nat × Word

/-- A corrected error, with the line that it affects or 0: it is reported at once, or held back until the unit's
millisecond ends; the eighth within one second retires the unit. -/
def State.correct (s : State) (cls : BitVec 8) (unit : BitVec 16) (line : Word) : State :=
  let mine (x : Held) : Bool := x.1 == cls && x.2.1 == unit
  let l := s.lastSecond cls unit
  let others := s.recent.filter fun (x : BitVec 8 × BitVec 16 × List Nat) => !(x.1 == cls && x.2.1 == unit)
  let t := { s with recent := others ++ [(cls, unit, l)] }
  let t := if t.corrected.any mine then
      { t with corrected := mapFirst mine (fun x => (x.1, x.2.1, x.2.2.1 + 1, line)) t.corrected }
    else ({ t with corrected := t.corrected ++ [(cls, unit, 0, 0)] } : State).report cls.toNat 0 unit.toNat 1 line
  if 8 ≤ l.length ∧ unit.toNat < unitCount cls.toNat then t.retireUnit cls unit else t

/-- CORRECTED_ERROR (R384), with the line that it affects, when there is one. -/
def execCorrectedError (cls : BitVec 8) (unit : CorrectedUnit) (s : State) : Out :=
  .next (s.correct cls unit.unit (match unit.line with
    | some a => BitVec.ofNat 64 (a.toNat / 64 * 64)
    | none => 0))

/-- CORRECTED_ERROR_REPORT_DUE (R390): the errors held back are posted in one report, which names the line that the
last of them affected (log entry 94), and another millisecond begins; with none, the interval ends. -/
def execCorrectedErrorReportDue (cls : BitVec 8) (unit : BitVec 16) (s : State) : Out :=
  let mine (x : Held) : Bool := x.1 == cls && x.2.1 == unit
  .next
    (match s.corrected.find? mine with
     | none => s
     | some (_, _, n, a) =>
       if n = 0 then { s with corrected := dropFirst mine s.corrected }
       else
         ({ s with corrected := mapFirst mine (fun x => (x.1, x.2.1, 0, 0)) s.corrected } : State).report cls.toNat 0
           unit.toNat n a)

/-- SELF_TEST_COMPLETE (R387): a failed run retires the unit; three passed runs in a row make the fault
transient. -/
def execSelfTestComplete (cls : BitVec 8) (unit : BitVec 16) (passed : Bool) (s : State) : Out :=
  let mine (x : BitVec 8 × BitVec 16 × Nat) : Bool := x.1 == cls && x.2.1 == unit
  .next
    (if unitCount cls.toNat ≤ unit.toNat || s.retired.contains (cls, unit) then s
     else if !passed then s.retireUnit cls unit
     else
       let n := match s.tests.find? mine with
         | some (_, _, k) => k + 1
         | none => 1
       let rest := s.tests.filter fun x => !mine x
       if 3 ≤ n then ({ s with tests := rest } : State).report cls.toNat 2 unit.toNat 1 0
       else { s with tests := rest ++ [(cls, unit, n)] })

/-! ### Uncorrectable errors (R385, R386) -/

/-- A line of memory is uncorrectable: every fill of it meets the check of R335, until it is written whole. A line that
a slice holds dirty is not filled. -/
def State.loseLine (s : State) (line : Nat) : State :=
  if !s.localLine line || s.lost.contains line || s.dirty.any (fun d => d.line == line) then s
  else { s with lost := line :: s.lost }

/-- The registers of the acting hart are lost: the unit is one of the lane groups that hold them. -/
def State.registersLost (s : State) : State :=
  let gs := s.hart.groups
  let g := (gs[Config.unitOf s.tick % max gs.length 1]?).getD 0
  (s.report 1 1 (s.hart.core.toNat * 4 + g.toNat) 1 0).quarantine 2 s.openDetail

/-- A scratchpad region is lost by an error in line `i` of the scratchpad, in one of its eight banks (R203): the contexts of
its owner on the core are quarantined and it is cleared. -/
def State.regionLost (s : State) (core : BitVec 8) (i : Nat) : State :=
  let n := core.toNat * 256 + i / 64
  let w := tblGet 0 s.owners n
  let t := s.report 2 1 (core.toNat * 64 + (8 * (i % 8) + Config.unitOf s.tick % 8)) 1 (BitVec.ofNat 64 (scratchBase + 64 * i))
  let t := t.quarantineAll (fun h => h.wid == w && h.core == core) 2 s.openDetail
  { t with mem := Bytes.clear t.mem (2 ^ 52 + n * 4096) 4096 }

/-- A queued task word is lost: the task counts as retired (R298). -/
def Worklist.loseTask (l : Worklist) (n : Nat) : Worklist :=
  if n < l.tasks.length then
    ({ l with tasks := l.tasks.eraseIdx n, retired := l.retired + 1, lost := true } : Worklist).refloor
  else l

/-- The `n`-th queued task of a worklist is lost, when there is one. -/
def State.taskLost (s : State) (gid : BitVec 32) (w n : Nat) : State :=
  match (s.gang gid).bind fun g => g.lists.find? fun l => l.w == w with
  | none => s
  | some l =>
    if n < l.tasks.length then
      (s.updGang gid fun g =>
        { g with lists := mapIf (fun l => l.w == w) (fun l => l.loseTask n) g.lists }).report 9 1
          (Config.unitOf s.tick % 4) 1 0
    else s

/-- CLASS and UNIT of an error in a line that a slice holds, or the scalar data cache of a core (R390). -/
def cacheUnit (cache : Option (BitVec 8)) (line : Nat) : BitVec 8 × Nat :=
  match cache with
  | some core => (3, core.toNat)
  | none => (5, sliceUnit line)

/-- A dirty line is lost (R386). -/
def State.dirtyLost (s : State) (cache : Option (BitVec 8)) (line : Nat) (k : BitVec 10) : State :=
  match s.dirty.find? fun d => d.line == line && d.keyid == k with
  | none => s
  | some d =>
    let (cls, u) := cacheUnit cache line
    let t := (s.dropDirty d).report cls.toNat 1 u 1 (BitVec.ofNat 64 line)
    if k = 0 then t
    else (t.quarantineAll (fun h => h.wid == k) 2 (BitVec.ofNat 64 line)).updWorld k fun w => { w with faulted := true }

/-- UNCORRECTABLE_ERROR (R385). -/
def execUncorrectableError (site : ErrorSite) (s : State) : Out :=
  .next
    (match site with
     | .line a => s.loseLine (s.canon a.toNat / 64 * 64)
     | .hart ser => s.asHart ser State.registersLost
     | .scratch core n => s.regionLost core n.toNat
     | .task gid w n => s.taskLost gid w.toNat n
     | .clean cache a =>
       let (cls, u) := cacheUnit cache (s.canon a.toNat / 64 * 64)
       s.correct cls (BitVec.ofNat 16 u) (BitVec.ofNat 64 (a.toNat / 64 * 64))
     | .dirty cache a k => s.dirtyLost cache (s.canon a.toNat / 64 * 64) k)

end Sys2Proof.Machine
end

