-- ==== Sys2Proof/Machine/Links.lean ====
section
/-! DEFINITION. The fabric port: reception and replay of flits (R391 to R393), and the loss and return of the
port (R394). -/

namespace Sys2Proof.Machine

/-- Does something to the link while the port is up and not retraining. -/
def State.onLink (s : State) (f : State → State) : State := if s.link.up && !s.link.training then f s else s

/-- The 512 data bits of eight fabric words, word k holding bits 64k to 64k + 63. -/
def wordsData (l : List (BitVec 72)) : BitVec 512 := BitVec.ofNat 512 ((l.zipIdx.map fun (w, k) => w.toNat % 2 ^ 64 * 2 ^ (64 * k)).sum)

/-- Do eight fabric words carry the check bits of their data under a sequence number, and under no other (R391)? The check
tells one number from another, since two numbers differ in fewer than 64 bits (R384). -/
def flitOk (n : BitVec 10) (l : List (BitVec 72)) : Bool :=
  l == flitWords n (wordsData l) &&
    (List.range 1024).all fun m => BitVec.ofNat 10 m == n || Config.crc64 (wordsData l) (BitVec.ofNat 10 m) != Config.crc64 (wordsData l) n

/-- Delivers the flit that is expected, and acknowledges it. -/
def deliverFlit (data : BitVec 512) (s : State) : State :=
  ({ s with link := { s.link with
      expect := s.link.expect + 1
      discard := false
      room := s.link.room - 1
      delivered := s.link.delivered ++ [data] } } : State).emit (.ack s.link.expect)

/-- The eight fabric words of a flit as they arrive: word `k` differs from what was sent in the bits set in word `k` of
`damage`, of which slice link `l` carries bits 2l and 2l + 1 (R391). -/
def arriving (data : BitVec 512) (check : BitVec 64) (damage : List (BitVec 72)) : List (BitVec 72) :=
  (fabricWords data check).zipIdx.map fun (w, k) => w ^^^ damage.getD k 0

/-- The bits in which a flit has been changed on its way, as slice links, one for each. -/
def damagedLinks (damage : List (BitVec 72)) : List Nat :=
  (damage.take 8).flatMap fun d => ((List.range 72).filter d.getLsbD).map fun i => i / 2

/-- Does the CRC find the change? It finds every one of up to 64 bits (R384). -/
def crcFinds (damage : List (BitVec 72)) : Bool := decide (1 ≤ (damagedLinks damage).length ∧ (damagedLinks damage).length ≤ 64)

/-- A flit that has been changed on its way fails its CRC: a corrected error of a slice link that changed it (R384,
R390). -/
def State.flitError (s : State) (damage : List (BitVec 72)) : State :=
  match (damagedLinks damage).head? with
  | some l => s.correct 10 (BitVec.ofNat 16 l) 0
  | none => s

/-- A flit is not delivered: the first one is answered by a NAK naming the last good flit. -/
def dropFlit (s : State) : State :=
  if s.link.discard then s
  else ({ s with link := { s.link with discard := true } } : State).emit (.nak (s.link.expect - 1))

/-- FLIT_RECEIVE (R391, R392, R393): the eight words of a flit arrive over the 36 links. The receiver counts sequence
numbers itself: a flit whose CRC passes under the number it expects is delivered, while it has room; the first one
whose CRC fails, which one out of sequence does too, is answered by a NAK naming the last good flit, and every later one
is discarded until the expected one comes. -/
def execFlitReceive (data : BitVec 512) (check : BitVec 64) (damage : List (BitVec 72)) (s : State) : Out :=
  .next (s.onLink fun s =>
    let words := arriving data check damage
    if !crcFinds damage && flitOk s.link.expect words then (if s.link.room = 0 then s else deliverFlit (wordsData words) s)
    else (s.flitError damage).onLink dropFlit)

/-- The receiver has room for `n` flits: it publishes the highest sequence number that it can accept (R393). -/
def State.setRoom (s : State) (n : Nat) : State :=
  s.onLink fun s =>
    let m := min n 512
    ({ s with link := { s.link with room := m } } : State).emit (.ready (s.link.expect + BitVec.ofNat 10 m - 1))

/-- The flits of the retry buffer that follow flit `g`, when `g + 1` is in the buffer. -/
def Link.after (l : Link) (g : BitVec 10) : List (BitVec 10 × BitVec 512) := l.retry.dropWhile fun p => p.1 != g + 1

/-- Sends flits of the retry buffer again, in order. -/
def State.sendAgain (s : State) (l : List (BitVec 10 × BitVec 512)) : State :=
  if l.isEmpty then s else s.emit (.replay (l.map fun p => flitWords p.1 p.2))

/-- Replays in a row that have begun with a flit. -/
def Link.replaysOf (l : Link) (n : BitVec 10) : Nat := ((l.replays.find? fun p => p.1 == n).map Prod.snd).getD 0

/-- Only flits that are retained, and that the other end has not got, count further. -/
def Link.keepReplays (l : Link) (after : List (BitVec 10 × BitVec 512)) : Link :=
  { l with replays := l.replays.filter fun p => after.any fun q => q.1 == p.1 }

/-- A replay counts towards the flit with which it begins, the one that the other end lacks; when 16 in a row have failed
for a flit, the port retrains instead (R394). -/
def State.replayFlits (s : State) (l : List (BitVec 10 × BitVec 512)) : State :=
  match l with
  | [] => s
  | p :: _ =>
    let k := s.link.keepReplays l
    if 16 ≤ k.replaysOf p.1 then { s with link := { k with training := true } }
    else
      ({ s with link := { k with replays := (p.1, k.replaysOf p.1 + 1) :: k.replays.filter fun q => q.1 != p.1 } } :
        State).sendAgain l

/-- NAK_RECEIVE (R392): flits g + 1 onward are sent again, in order. -/
def execNakReceive (g : BitVec 10) (s : State) : Out := .next (s.onLink fun s => s.replayFlits (s.link.after g))

/-- ACK_RECEIVE (R392): a cumulative acknowledgement frees the flits up to g. -/
def execAckReceive (g : BitVec 10) (s : State) : Out :=
  .next (s.onLink fun s =>
    if s.link.retry.any fun p => p.1 == g then
      let left := (s.link.retry.dropWhile fun p => p.1 != g).drop 1
      ({ s with link := { s.link.keepReplays left with retry := left } } : State).pump
    else s)

/-- READY_WINDOW_RECEIVE (R393). -/
def execReadyWindowReceive (w : BitVec 10) (s : State) : Out :=
  .next (s.onLink fun s => ({ s with link := { s.link with window := w } } : State).pump)

/-- REPLAY_TIMEOUT (R392): the sender replays from the oldest flit that it retains. -/
def execReplayTimeout (s : State) : Out := .next (s.onLink fun s => s.replayFlits s.link.retry)

/-- A slice link loses lock: the port retrains (R394). -/
def State.loseLock (s : State) : State := s.onLink fun s => { s with link := { s.link with training := true } }

/-- Do all 36 slice links work: is none retired? There is no degraded width (R394). -/
def State.linksWork (s : State) : Bool := !s.retired.any fun p => p.1 == 10

/-- PORT_RETRAIN (R394): the 36 links that retrain together come back, and the flits retained are sent again; when a
link does not work the port is down. -/
def execPortRetrain (ok : Bool) (s : State) : Out :=
  .next
    (if !s.link.up || !s.link.training then s
     else if ok && s.linksWork then
       let t := { s with link := { s.link with training := false, replays := [] } }
       (t.sendAgain t.link.retry).pump
     else s.portDown)

/-- PORT_UP (R394): management retrains a port that is down, which needs all its links; KIND 5 is reported, and the key
exchange of every world with the devices across the port runs again. -/
def execPortUp (s : State) : Out :=
  .next
    (if s.link.up || !s.linksWork then s
     else
       ({ s with
         link := { Link.reset with delivered := s.link.delivered }
         worlds := s.worlds.map fun w => { w with ready := w.ready.filter fun d => d == s.devIndex } } : State).report
         10 5 (Config.unitOf s.tick % 36) 1 0)

end Sys2Proof.Machine
end

