-- ==== Sys2Proof/Machine/Management.lean ====
section
/-! DEFINITION. The management interface (R397): the compute clock, power and temperature (R404, R405),
firmware (R406), counters of a world (R338, R339), fuses, the error log, the retirement map and the power
state. -/

namespace Sys2Proof.Machine

/-! ### What the host sees over PCIe (R328, R395) -/

/-- Bytes of configuration space, with the DVSEC registers, and of the mailbox of BAR0. -/
def hostSpace (mailbox : Bool) : Nat := if mailbox then 65536 else 4096

/-- The host reads configuration space or the mailbox; what a register holds, and whether a write changes it, the
standards say and the spec does not (log entry 121). -/
def State.hostRegisterRead (s : State) (mailbox : Bool) (off n : Nat) : State :=
  if hostSpace mailbox < off + n || !s.hostUp then s
  else s.emit (.hostRegister (Bytes.read (if mailbox then s.mailbox else s.pcie) off n))

/-- The host writes configuration space or the mailbox. -/
def State.hostRegisterWrite (s : State) (mailbox : Bool) (off : Nat) (data : List Byte) : State :=
  if hostSpace mailbox < off + data.length || !s.hostUp then s
  else if mailbox then { s with mailbox := Bytes.write s.mailbox off data }
  else { s with pcie := Bytes.write s.pcie off data }

/-- The management interface reads the certificate chain of the device attestation key (R328). -/
def State.certificateRead (s : State) : State := s.emit (.certificates Config.certificateChain)

/-! ### Clock and temperature (R404, R405) -/

/-- The clock takes a value; time below 2,000 MHz is counted. -/
def State.setClock (s : State) (c : BitVec 16) : State :=
  if c = 2000 then { s with clock := c, thrus := BitVec.ofNat 32 s.thrusNow, slowSince := none }
  else
    { s with
      clock := c
      slowSince := match s.slowSince with
        | some t => some t
        | none => some (Config.time s.tick) }

/-- CLOCK_STEP (R405): one step of 100 MHz, within 800 to 2,000 MHz. -/
def execClockStep (up : Bool) (s : State) : Out :=
  .next
    (if up then (if s.clock.toNat < 2000 then s.setClock (s.clock + 100) else s)
     else if 800 < s.clock.toNat then s.setClock (s.clock - 100)
     else s)

/-- THERMAL_ALARM (R405): at 800 MHz, cause 3 of R351 for every context with a hart on the die. -/
def execThermalAlarm (die : BitVec 2) (s : State) : Out :=
  .next
    (if s.clock = 800 then s.quarantineAll (fun h => h.core.toNat / 64 == die.toNat) 3 s.openDetail else s)

/-- POWER_LIMIT_SET (R405): a power limit outside 1,200 W to 3,600 W is not taken. -/
def execPowerLimitSet (watts temp : BitVec 16) (s : State) : Out :=
  .next
    (if 1200 ≤ watts.toNat ∧ watts.toNat ≤ 3600 then { s with powerLimit := watts, tempLimit := temp } else s)

/-! ### Firmware (R406) -/

/-- FIRMWARE_UPDATE (R406). -/
def execFirmwareUpdate (image : FirmwareImage) (s : State) : Out :=
  .next
    (if image.signed && decide (s.fwMinimum ≤ image.version) then
      ({ s with fwInactive := some image } : State).emit (.firmware true)
    else s.emit (.firmware false))

/-! ### Counters (R338, R339) -/

/-- Enters a withheld read in the disclosure log; a full log loses its oldest entry. -/
def World.withhold (w : World) (time : Word) (cls req : BitVec 8) : World :=
  let e : LogEntry := ⟨time, cls, req, w.attempts + 1⟩
  let full := decide (256 ≤ w.log.length)
  { w with
    attempts := w.attempts + 1
    log := (if full then w.log.drop 1 else w.log) ++ [e]
    lost := if full then w.lost + 1 else w.lost }

/-- MGMT_COUNTER_READ (R338): the allow-list in force decides; a class that it does not permit, or that does not
exist, is withheld. -/
def execMgmtCounterRead (wid : BitVec 10) (cls : BitVec 6) (host : Bool) (s : State) : Out :=
  .next
    (match s.world wid with
     | none => s.emit (.counter 0 true)
     | some w =>
       if cls.toNat ≤ 6 && w.allow.getLsbD cls.toNat then s.emit (.counter (Config.counterValue s.tick) false)
       else
         (s.updWorld wid fun w =>
           w.withhold (Config.time s.tick) (cls.zeroExtend 8) (if host then 1 else 2)).emit (.counter 0 true))

/-! ### What management reads and sets (R397) -/

/-- FUSE_READ (R397, R402). -/
def execFuseRead (n : BitVec 4) (s : State) : Out := .next (s.emit (.fuses (BitVec.ofNat 64 (s.readFuse n.toNat))))

/-- ERROR_LOG_READ (R397). -/
def execErrorLogRead (s : State) : Out := .next (s.emit (.errorLog s.errorLog))

/-- RETIREMENT_MAP_READ (R397). -/
def execRetirementMapRead (s : State) : Out := .next (s.emit (.retirement s.retired))

/-- POWER_STATE_SET (R397). -/
def execPowerStateSet (n : BitVec 8) (s : State) : Out := .next { s with powerState := n }

end Sys2Proof.Machine
end

