-- ==== Sys2Proof/Machine/Peers.lean ====
section
/-! DEFINITION. What the other devices of the domain do that this one sees (log entry 49): their accesses to its
memory (R206, R221, R318), and what the members of a domain gang on them do (R247, R261 to R300). -/

namespace Sys2Proof.Machine

/-! ### Memory -/

/-- A write or an atomic of another device arrives at this one's memory: a forwarding entry may hold it, else it performs,
and its line moves over the fabric (R206, R318). -/
def State.peerWrite (s : State) (w : MemWrite) (q : Option AmoReq) : State :=
  let h (e : Nat) : HeldWrite := ⟨e, .peer 0, { w with cached := false }, q⟩
  match regionOf w.key with
  | .hbm _ _ | .tier _ _ =>
    match (if w.world == 0 then none else (s.fwdAt 1 w.key).map Prod.fst) with
    | some e => { s with held := s.held ++ [h e] }
    | none => s.applyOne (h 64)
  | _ => s

/-- A read of another device moves a line of this one's memory over the fabric (R206). -/
def State.peerRead (s : State) (a : Nat) : State :=
  match regionOf a with
  | .hbm _ _ => s.countLine (s.forward a / 64 * 64)
  | _ => s

/-! ### Gangs -/

/-- The member of a rank, when it lies on another device and has not left. -/
def State.farMember (s : State) (g : Gang) (rank : Nat) : Option Member :=
  g.members.find? fun m => m.rank == rank && m.dev != s.devIndex && m.live

/-- May a member on another device act now? Its gang has started, and is inside its slice, outside which no gang event
happens on any member (R273). -/
def Gang.active (g : Gang) : Bool := g.phase == .started && g.inSlice

/-- Does something with a gang and a member of it on another device; a quarantine there waits for no slice. -/
def State.asMember (s : State) (gid : BitVec 32) (rank : Nat) (f : Gang → Member → State → State) (always : Bool := false) :
    State :=
  match s.gang gid with
  | none => s
  | some g =>
    if !g.active && !(always && g.phase == .started) then s
    else
      match s.farMember g rank with
      | none => s
      | some m => f g m s

/-- A member on another device arrives at a barrier (R274). -/
def peerArrive (b : BitVec 4) (g : Gang) (m : Member) (s : State) : State :=
  if m.arrived.getLsbD b.toNat then s
  else
    s.updGang g.gid fun g =>
      { g with members := mapIf (fun x => x.rank == m.rank) (fun x => { x with arrived := maskSet x.arrived b.toNat true }) g.members }

/-- A member on another device joins its next reduction (R277). -/
def peerJoin (j : Join) (g : Gang) (m : Member) (s : State) : State :=
  if 4 ≤ g.inFlight m.rank then s else s.updGang g.gid fun g => g.join m.joins j

/-- A member on another device exits or is quarantined (R279, R351). -/
def peerExit (bad : Bool) (g : Gang) (m : Member) (s : State) : State :=
  (s.updGang g.gid fun g => g.leaveAs m bad).finishGang g.gid

/-- A gang that another device launches waits here for its members' places (R261, R263). -/
def State.peerLaunch (s : State) (g : Gang) : State :=
  if g.phase == .waiting && g.devs.contains s.devIndex && decide (2 ≤ g.devs.length) && (s.gang g.gid).isNone &&
      g.members.all (fun m => m.ser.isNone) then { s with gangs := s.gangs ++ [g] }
  else s

/-- Every member device is ready: the slice that this device has made itself ready for begins (R273). -/
def State.beginSlice (s : State) (gid : BitVec 32) : State :=
  if s.slice = some gid then s.updGang gid fun g => if g.sliceReady then { g with inSlice := true } else g else s

/-! ### Worklists (R282 to R300) -/

/-- A member on another device publishes a watermark (R247). -/
def State.peerMark (s : State) (gid : BitVec 32) (v : Word) : State :=
  if (s.gang gid).any fun g => g.active && g.members.any fun m => m.live && m.dev != s.devIndex then s.publish gid v else s

/-- Changes a worklist of a started gang that satisfies a condition. -/
def State.onList (s : State) (gid : BitVec 32) (w : Nat) (p : Gang → Worklist → Bool) (f : Worklist → Worklist) : State :=
  match s.gang gid, s.listOf gid w with
  | some g, some l => if g.phase == .started && p g l then s.updList gid w f else s
  | _, _ => s

/-- A member opens a worklist that is closed (R290). -/
def State.peerOpen (s : State) (gid : BitVec 32) (l : Worklist) : State :=
  s.onList gid l.w (fun g x => g.inSlice && x.state == .closed) fun x =>
    { x with
      state := .opened
      desc := l.desc
      delta := l.delta
      shift := l.shift
      spill := l.spill
      soff := l.soff
      slen := l.slen
      rslot := l.rslot
      roff := l.roff
      record := l.record
      floor := 0 }

/-- A member pushes a task that is queued on its device; this device's tasks that then lie 64 levels or more above F are
spilled (R287, R295). -/
def State.peerPush (s : State) (gid : BitVec 32) (w : Nat) (dev : BitVec 8) (task : Word) (level : Nat) : State :=
  let t := s.onList gid w (fun g l =>
      g.inSlice && g.devs.contains dev && dev != s.devIndex && (l.state == .opened || l.state == .armed))
    fun l => l.queue ⟨task, level, dev, none⟩
  match t.listOf gid w with
  | none => t
  | some l => l.tasks.foldl (fun x k => x.spillFar gid w k) t

/-- The record of the `n`-th task queued on another device fails its check there: the task is dropped (R287). -/
def State.peerDrop (s : State) (gid : BitVec 32) (w : Nat) (dev : BitVec 8) (n : Nat) : State :=
  s.onList gid w (fun g _ => g.devs.contains dev && dev != s.devIndex) fun l =>
    match (l.tasks.filter fun t => t.dev == dev)[n]? with
    | none => l
    | some t => l.dropTask t

/-- Another device holds `n` worklists of gangs that have no member here (R281). -/
def State.peerLists (s : State) (dev : BitVec 8) (n : Nat) : State :=
  if dev = s.devIndex then s else { s with farLists := (dev, n) :: s.farLists.filter fun p => p.1 != dev }

/-- A member takes task `n` of the window of its device (R285, R296). -/
def peerPop (w n : Nat) (g : Gang) (m : Member) (s : State) : State :=
  match s.listOf g.gid w with
  | none => s
  | some l =>
    match (l.tasks.filter (l.inWindow m.dev))[n]? with
    | none => s
    | some t => if l.state == .armed then s.updList g.gid w fun l => l.take t m.owner else s

/-- A member retires a token (R297). -/
def peerRetire (w serial : Nat) (g : Gang) (_m : Member) (s : State) : State :=
  s.onList g.gid w (fun _ l => l.tokens.any fun t => t.serial == serial) fun l => l.retireOne serial

/-- A blocking pop begins, inside the slice, or ends to wait on another device (R300). -/
def State.peerWaits (s : State) (gid : BitVec 32) (w : Nat) (dev : BitVec 8) (on : Bool) : State :=
  s.onList gid w (fun g _ => (g.inSlice || !on) && g.devs.contains dev && dev != s.devIndex) fun l =>
    { l with waiters := if on then dev :: l.waiters.filter (· != dev) else l.waiters.filter (· != dev) }

/-- One act of another device. -/
def State.peer (s : State) (p : PeerAct) : State :=
  match p with
  | .write w => s.peerWrite w none
  | .atomic w q => s.peerWrite w (some { q with who := none })
  | .read a => s.peerRead a
  | .mark gid v => s.peerMark gid v
  | .arrive gid rank b => s.asMember gid rank (peerArrive b)
  | .join gid j => s.asMember gid j.rank (peerJoin j)
  | .push gid w dev task level => s.peerPush gid w.toNat dev task level
  | .pop gid w rank n => s.asMember gid rank (peerPop w.toNat n)
  | .retire gid w rank serial => s.asMember gid rank (peerRetire w.toNat serial)
  | .popWaits gid w dev on => s.peerWaits gid w.toNat dev on
  | .exit gid rank bad => s.asMember gid rank (peerExit bad) bad
  | .sliceAgreed gid => s.beginSlice gid
  | .launch g => s.peerLaunch g
  | .openList gid l => s.peerOpen gid l
  | .dropRecord gid w dev n => s.peerDrop gid w.toNat dev n
  | .holdsLists dev n => s.peerLists dev n
  | .grant a b => s.addGrant a b
  | .revoke a b => s.dropGrant a b
  | .newVersion a ver pending => s.farVersion a ver pending
  | .closeWorld a => s.farClose a

end Sys2Proof.Machine
end

