-- ==== Sys2Proof/Machine/Cues.lean ====
section
/-! DEFINITION. What happens inside the device, or at its edge, that the opcode table names no row for (log entry 1):
the slot caches and instruction caches (R21, R307), stores that perform later than they execute and captures made
element by element (R211, R253), single micro-operations (R272), and what comes from outside. -/

namespace Sys2Proof.Machine

/-! ### Caches -/

/-- Slot words, and heads of tables, that a core's slot cache holds at most (R13), and lines that its instruction cache
holds. -/
def slotCacheSize : Nat := 256
def codeCacheSize : Nat := 1024

/-- The first `n` of a core's entries in a list, the newest first; those of other cores all. -/
def firstOf {α : Type} (core : α → Bool) : Nat → List α → List α
  | _, [] => []
  | n, x :: l =>
    if core x then (match n with
      | 0 => firstOf core 0 l
      | m + 1 => x :: firstOf core m l)
    else x :: firstOf core n l

/-- A core's slot cache takes in 16 bytes of a table. -/
def State.takeSlot (s : State) (core : BitVec 8) (a : Nat) (bs : List Byte) : State :=
  let rest := s.slotCache.filter fun e => !(e.core == core && e.addr == a)
  { s with slotCache := firstOf (fun e => e.core == core) slotCacheSize (⟨core, a, bs⟩ :: rest) }

/-- What 16 bytes of a table hold now, while their line can be read. -/
def State.tableNow (s : State) (a : Nat) : Option (List Byte) :=
  if s.lost.contains (s.forward a / 64 * 64) then none else some (Bytes.read s.mem (s.forward a) 16)

/-- A core's slot cache takes in 16 bytes of a table, as memory holds them now or as it held them at the `past`-th time
that is remembered since the last `slotsync`; it may drop them at any time (R307). -/
def State.fillSlot (s : State) (core : BitVec 8) (addr : Nat) (past : Option Nat) : State :=
  let a := s.canon (addr / 16 * 16)
  let bs := match past with
    | none => s.tableNow a
    | some n => ((s.slotPast.filter fun p => p.1 == a)[n]?).map Prod.snd
  match bs with
  | none => s
  | some bs => s.takeSlot core a bs

/-- What 16 bytes of a table hold now may be used until the next `slotsync`, whatever is written there (R307). -/
def State.noteSlot (s : State) (addr : Nat) : State :=
  let a := s.canon (addr / 16 * 16)
  match s.tableNow a with
  | none => s
  | some bs => { s with slotPast := (a, bs) :: s.slotPast }

def State.dropSlot (s : State) (core : BitVec 8) (addr : Nat) : State :=
  { s with slotCache := s.slotCache.filter fun e => !(e.core == core && e.addr == s.canon (addr / 16 * 16)) }

/-- The instruction cache of the acting hart's core takes in the line of code at an address that the hart may fetch
(R21), under the slot's key, version and offset (R327); a scratchpad region is claimed first (R326), and a line that
fails its check is not taken. -/
def State.fillCode (s : State) (a : Nat) : State :=
  let line := a / 64 * 64
  match s.fetchProbe line with
  | .error _ => s
  | .ok r =>
    match regionOf (s.canon line) with
    | .host _ | .window _ => s
    | _ =>
    let s := s.claimAll s.ctx.world (s.key s.hart.core line) 64
    match s.readBytes s.ctx r.word line 64 with
    | none => s
    | some bs =>
      let e : CachedLine :=
        ⟨s.hart.core, s.key s.hart.core line, r.word.keyid, r.word.version, r.codeOff line, bs⟩
      let rest := s.icache.filter fun x =>
        !(x.core == e.core && x.line == e.line && x.keyid == e.keyid && x.version == e.version && x.off == e.off)
      { s with icache := firstOf (fun x => x.core == e.core) codeCacheSize (e :: rest) }

def State.dropCodeLine (s : State) (core : BitVec 8) (line : Nat) : State :=
  { s with icache := s.icache.filter fun e => !(e.core == core && e.line == line) }

/-! ### Late stores (R211) -/

/-- From now on a hart's stores are late, or no longer. -/
def State.setSlow (s : State) (ser : BitVec 16) (on : Bool) : State :=
  let rest := s.slow.filter fun x => x != ser
  { s with slow := if on then ser :: rest else rest }

/-- The oldest pending store of a hart to memory, or to the device window, performs. -/
def State.performOldest (s : State) (ser : BitVec 16) (window : Bool) : State :=
  let mine (p : PendingStore) : Bool := p.of ser && s.toWindow p == window
  match s.stores.find? mine with
  | none => s
  | some p => ({ s with stores := dropFirst mine s.stores } : State).performStore p

/-- Does something as a hart on a front-end slot. -/
def State.whileRunning (s : State) (ser : BitVec 16) (f : State → State) : State :=
  match s.findHart ser with
  | some h => if h.life = .running then s.asHart ser f else s
  | none => s

/-! ### Sealed loads (R348) -/

/-- A read of a shard of the `n`-th job ends in error. -/
def State.shardError (s : State) (n shard : Nat) : State :=
  { s with seals := s.seals.mapIdx fun i j => if i = n then { j with errors := shard :: j.errors } else j }

/-- One such happening. -/
def State.inner (s : State) (e : Inner) : State :=
  match e with
  | .fillSlot core addr past => s.fillSlot core addr past
  | .noteSlot addr => s.noteSlot addr
  | .dropSlot core addr => s.dropSlot core addr
  | .fillCode ser a => s.whileRunning ser fun t => t.fillCode a
  | .dropCode core line => s.dropCodeLine core line
  | .slow ser on => s.setSlow ser on
  | .performStore ser window => s.performOldest ser window
  | .captureElement ser i => s.whileRunning ser fun t => t.captureOne i
  | .issueUnit core u => s.issueUnit core u
  | .packetWrite n j => s.packetWrite n j
  | .peer p => s.peer p
  | .lockLost => s.loseLock
  | .receiverRoom n => s.setRoom n
  | .hostRegisterRead mailbox off n => s.hostRegisterRead mailbox off n
  | .hostRegisterWrite mailbox off data => s.hostRegisterWrite mailbox off data
  | .certificateRead => s.certificateRead
  | .shardReadError n shard => s.shardError n shard
  | .advanceCut counter k => s.cutAdvance counter k

end Sys2Proof.Machine
end

