-- ==== Sys2Proof/Machine/Capacity.lean ====
section
/-! DEFINITION. The capacity tier as the fabric manager and the root ports drive it (R398 to R401). -/

namespace Sys2Proof.Machine

/-- EXTENT_OFFERED (R399): a free entry takes the offer, and KIND 6 is reported. -/
def execExtentOffered (p : BitVec 3) (e : BitVec 6) (off : BitVec 13) (units : BitVec 14) (s : State) : Out :=
  let i := entryOf p e
  .next
    (if (s.extentAt i).state = 0 ∧ 0 < units.toNat ∧ off.toNat + units.toNat ≤ 8192 then
      (s.setExtent i fun _ => ⟨off, units, 1⟩).report 13 6 p.toNat 1 0
    else s)

/-- RELEASE_REQUEST (R400): a mapped extent is to be released. -/
def execReleaseRequest (p : BitVec 3) (e : BitVec 6) (s : State) : Out :=
  let i := entryOf p e
  .next (if (s.extentAt i).state = 2 then s.startRelease i else s)

/-- Does a sealed load or an installation read or write the range? -/
def SealJob.meets (j : SealJob) (s : State) (r : Range) : Bool :=
  (s.originsOf r).any fun r => r.meets (s.canon j.dst) j.len || (j.srck == 0 && r.meets (s.canon j.src) j.len)

/-- RELEASE_COMPLETE (R400): once no work is in flight to the extent, that of harts that have exited included, its dirty
lines are written back, the release is acknowledged and the entry is free. -/
def execReleaseComplete (p : BitVec 3) (e : BitVec 6) (s : State) : Out :=
  let i := entryOf p e
  let r := s.extentRange i
  .next
    (if (s.extentAt i).state ≠ 3 || s.busyAt (fun _ => true) r || s.seals.any (fun j => j.meets s r) then s
     else
       (({ s with dirty := s.dirty.filter fun d => !r.meets d.line 64 } : State).setExtent i fun x =>
         { x with state := 0 }).emit (.released p e))

/-- FORCED_RELEASE (R401). -/
def execForcedRelease (p : BitVec 3) (e : BitVec 6) (s : State) : Out := .next (s.withdraw (entryOf p e))

/-- ROOT_PORT_FAILURE (R401): every extent of the port is withdrawn. -/
def execRootPortFailure (p : BitVec 3) (s : State) : Out :=
  .next ((List.range 64).foldl (fun t e => t.withdraw (p.toNat * 64 + e)) s)

end Sys2Proof.Machine
end

