-- ==== Sys2Proof/Machine/Compact.lean ====
section
/-! DEFINITION. The compact operations of the pair word (R34 to R36, R50). Each meaning acts as h0, or as h1 when h0 of the word at pc has executed. -/

namespace Sys2Proof.Machine


/-- One compact operation: `f` gives the value and the tag from the carried source. Without a valid
record it is illegal. h0 leaves pc at the word with h1 pending, which executes from the word as it has been fetched;
h1 completes the word (R35, R36). -/
def compact (d : BitVec 5) (f : Operand → Operand) (s : State) : Out :=
  match s.hart.last with
  | none => .next s.illegal
  | some r =>
    let v := f (s.hart.operand r)
    .next
      (if s.hart.half then s.writeBack d v.val v.tag
       else (s.setX d v.val v.tag).mapHart fun h => { h with half := true, pairHeld := true, last := some d, loan := none })

/-- The e field as a register x0 to x7 (R34). -/
def regOf (e : BitVec 3) : BitVec 5 := e.zeroExtend 5

/-- CMOV (R50): as addi with 0. -/
def execCmov (d : BitVec 5) (s : State) : Out := compact d id s

/-- CADDI (R50). -/
def execCaddi (d : BitVec 5) (e : BitVec 3) (s : State) : Out :=
  compact d (fun l => ⟨l.val + e.zeroExtend 64, l.tag⟩) s

/-- CSUBI (R50): as addi with −e. -/
def execCsubi (d : BitVec 5) (e : BitVec 3) (s : State) : Out :=
  compact d (fun l => ⟨l.val - e.zeroExtend 64, l.tag⟩) s

/-- CSLLI (R50). -/
def execCslli (d : BitVec 5) (e : BitVec 3) (s : State) : Out :=
  compact d (fun l => ⟨l.val <<< e.toNat, none⟩) s

/-- CSRLI (R50). -/
def execCsrli (d : BitVec 5) (e : BitVec 3) (s : State) : Out :=
  compact d (fun l => ⟨l.val >>> e.toNat, none⟩) s

/-- CSRAI (R50). -/
def execCsrai (d : BitVec 5) (e : BitVec 3) (s : State) : Out :=
  compact d (fun l => ⟨l.val.sshiftRight e.toNat, none⟩) s

/-- CANDI (R50). -/
def execCandi (d : BitVec 5) (e : BitVec 3) (s : State) : Out :=
  compact d (fun l => ⟨l.val &&& e.zeroExtend 64, none⟩) s

/-- CADD (R50): the tag of a sum (R114). -/
def execCadd (d : BitVec 5) (e : BitVec 3) (s : State) : Out :=
  compact d (fun l => ⟨l.val + s.hart.xr (regOf e), addTag l.tag (s.hart.tagOf (regOf e))⟩) s

/-- CSUB (R50): the tag of a difference (R114). -/
def execCsub (d : BitVec 5) (e : BitVec 3) (s : State) : Out :=
  compact d (fun l => ⟨l.val - s.hart.xr (regOf e), subTag l.tag (s.hart.tagOf (regOf e))⟩) s

/-- CAND (R50). -/
def execCand (d : BitVec 5) (e : BitVec 3) (s : State) : Out :=
  compact d (fun l => ⟨l.val &&& s.hart.xr (regOf e), none⟩) s

/-- COR (R50). -/
def execCor (d : BitVec 5) (e : BitVec 3) (s : State) : Out :=
  compact d (fun l => ⟨l.val ||| s.hart.xr (regOf e), none⟩) s

/-- CXOR (R50). -/
def execCxor (d : BitVec 5) (e : BitVec 3) (s : State) : Out :=
  compact d (fun l => ⟨l.val ^^^ s.hart.xr (regOf e), none⟩) s

end Sys2Proof.Machine
end

