-- ==== Sys2Proof/Machine/ControlFlow.lean ====
section
/-! DEFINITION. Control flow (R122 to R125): branches, the counted loop, jumps. -/

namespace Sys2Proof.Machine


/-- Continues at an address; the record is invalid (R122). -/
def State.goto (s : State) (t : Word) : State :=
  s.mapHart fun h => { h.retire none with pc := t }

/-- A compare-and-branch (R122). -/
def branch (taken : Bool) (o : BitVec 16) (s : State) : Out :=
  .next (s.goto (if taken then target16 s.hart.pc o else s.hart.pc + 4))

/-- BEQ (R122). -/
def execBeq (a b : BitVec 5) (o : BitVec 16) (s : State) : Out :=
  let x := s.hart.xr a
  let y := s.hart.xr b
  branch (x == y) o s

/-- BNE (R122). -/
def execBne (a b : BitVec 5) (o : BitVec 16) (s : State) : Out :=
  let x := s.hart.xr a
  let y := s.hart.xr b
  branch (x != y) o s

/-- BLT (R122). -/
def execBlt (a b : BitVec 5) (o : BitVec 16) (s : State) : Out :=
  let x := s.hart.xr a
  let y := s.hart.xr b
  branch (x.slt y) o s

/-- BGE (R122). -/
def execBge (a b : BitVec 5) (o : BitVec 16) (s : State) : Out :=
  let x := s.hart.xr a
  let y := s.hart.xr b
  branch (!x.slt y) o s

/-- BLTU (R122). -/
def execBltu (a b : BitVec 5) (o : BitVec 16) (s : State) : Out :=
  let x := s.hart.xr a
  let y := s.hart.xr b
  branch (x.ult y) o s

/-- BGEU (R122). -/
def execBgeu (a b : BitVec 5) (o : BitVec 16) (s : State) : Out :=
  let x := s.hart.xr a
  let y := s.hart.xr b
  branch (!x.ult y) o s

/-- BCNT (R123): the count keeps its tag, and the record names xa; x0 is illegal. -/
def execBcnt (a : BitVec 5) (o : BitVec 16) (s : State) : Out :=
  if a = 0 then .next s.illegal
  else
    let n := s.hart.xr a - 1
    let t := s.writeBack a n (s.hart.tagOf a)
    .next (if n = 0 then t else t.mapHart fun h => { h with pc := target16 s.hart.pc o })

/-- J (R124). -/
def execJ (o : BitVec 26) (s : State) : Out := .next (s.goto (target26 s.hart.pc o))

/-- JAL (R124): x1 is the link, and the record names it. -/
def execJal (o : BitVec 26) (s : State) : Out :=
  .next ((s.writeBack 1 (s.hart.pc + 4)).mapHart fun h => { h with pc := target26 s.hart.pc o })

/-- JALR (R125): a misaligned target traps at the `jalr` with nothing written (R18). -/
def execJalr (d a : BitVec 5) (i : BitVec 16) (s : State) : Out :=
  let t := s.hart.xr a + imm16 i
  if t.toNat % 4 ≠ 0 then .next (s.takeTrap 3 0 t)
  else .next ((s.writeBack d (s.hart.pc + 4)).mapHart fun h => { h with pc := t })

end Sys2Proof.Machine
end

