-- ==== Sys2Proof/Machine/ScalarFloat.lean ====
section
/-! DEFINITION. The scalar floating-point instructions of major 0x02 (R126 to R131). -/

namespace Sys2Proof.Machine


/-- An FP64 operand: the whole register (R126). -/
def f64 (s : State) (r : BitVec 5) : Nat := (s.hart.xr r).toNat

/-- An FP32 operand: bits 31 to 0 (R126). -/
def f32 (s : State) (r : BitVec 5) : Nat := (s.hart.xr r).toNat % 2 ^ 32

/-- FADDD (R128). -/
def execFaddd (d a b : BitVec 5) (s : State) : Out :=
  .next (scalarFloat d (fun m r => Fmt.fp64.add m r (f64 s a) (f64 s b)) s)

/-- FSUBD (R128). -/
def execFsubd (d a b : BitVec 5) (s : State) : Out :=
  .next (scalarFloat d (fun m r => Fmt.fp64.sub m r (f64 s a) (f64 s b)) s)

/-- FMULD (R128). -/
def execFmuld (d a b : BitVec 5) (s : State) : Out :=
  .next (scalarFloat d (fun m r => Fmt.fp64.mul m r (f64 s a) (f64 s b)) s)

/-- FDIVD (R128). -/
def execFdivd (d a b : BitVec 5) (s : State) : Out :=
  .next (scalarFloat d (fun m r => Fmt.fp64.div m r (f64 s a) (f64 s b)) s)

/-- FSQRTD (R128). -/
def execFsqrtd (d a : BitVec 5) (s : State) : Out :=
  .next (scalarFloat d (fun m r => Fmt.fp64.sqrt m r (f64 s a)) s)

/-- FMAD (R128). -/
def execFmad (d a b : BitVec 5) (s : State) : Out :=
  .next (scalarFloat d (fun m r => Fmt.fp64.fma m r (f64 s a) (f64 s b) (f64 s d)) s)

/-- FMIND (R129). -/
def execFmind (d a b : BitVec 5) (s : State) : Out :=
  .next (scalarFloat d (fun _ _ => Fmt.fp64.minmax false (f64 s a) (f64 s b)) s)

/-- FMAXD (R129). -/
def execFmaxd (d a b : BitVec 5) (s : State) : Out :=
  .next (scalarFloat d (fun _ _ => Fmt.fp64.minmax true (f64 s a) (f64 s b)) s)

/-- A comparison of two FP64 operands as 1 or 0 (R130). -/
def compare64 (op : FCmp) (x y : Nat) : Nat × Flags :=
  let r := Fmt.fp64.compare op x y
  (if r.1 then 1 else 0, r.2)

/-- FEQD (R130). -/
def execFeqd (d a b : BitVec 5) (s : State) : Out :=
  .next (scalarFloat d (fun _ _ => compare64 .eq (f64 s a) (f64 s b)) s)

/-- FLTD (R130). -/
def execFltd (d a b : BitVec 5) (s : State) : Out :=
  .next (scalarFloat d (fun _ _ => compare64 .lt (f64 s a) (f64 s b)) s)

/-- FLED (R130). -/
def execFled (d a b : BitVec 5) (s : State) : Out :=
  .next (scalarFloat d (fun _ _ => compare64 .le (f64 s a) (f64 s b)) s)

/-- FADDS (R128). -/
def execFadds (d a b : BitVec 5) (s : State) : Out :=
  .next (scalarFloat d (fun m r => Fmt.fp32.add m r (f32 s a) (f32 s b)) s)

/-- FMULS (R128). -/
def execFmuls (d a b : BitVec 5) (s : State) : Out :=
  .next (scalarFloat d (fun m r => Fmt.fp32.mul m r (f32 s a) (f32 s b)) s)

/-- FMAS (R128). -/
def execFmas (d a b : BitVec 5) (s : State) : Out :=
  .next (scalarFloat d (fun m r => Fmt.fp32.fma m r (f32 s a) (f32 s b) (f32 s d)) s)

/-- FCVTSD (R131). -/
def execFcvtsd (d a : BitVec 5) (s : State) : Out :=
  .next (scalarFloat d (fun m r => Fmt.fp64.convert .fp32 m r (f64 s a)) s)

/-- FCVTDS (R131). -/
def execFcvtds (d a : BitVec 5) (s : State) : Out :=
  .next (scalarFloat d (fun m r => Fmt.fp32.convert .fp64 m r (f32 s a)) s)

/-- An FP64 encoding rounded to a signed 64-bit integer, as a 64-bit word (R100, R131). -/
def toInt64 (m : RMode) (r : Word) (x : Nat) : Nat × Flags :=
  let v := Fmt.fp64.toInt m r (intLo 64 true) (intHi 64 true) x
  (wrapNat 64 v.1, v.2)

/-- FCVTLD (R131). -/
def execFcvtld (d a : BitVec 5) (s : State) : Out :=
  .next (scalarFloat d (fun m r => toInt64 m r (f64 s a)) s)

/-- FCVTDL (R131). -/
def execFcvtdl (d a : BitVec 5) (s : State) : Out :=
  .next (scalarFloat d (fun m r => Fmt.fp64.ofInt m r (s.hart.xr a).toInt) s)

end Sys2Proof.Machine
end

