-- ==== Sys2Proof/Machine/ScalarInt.lean ====
section
/-! DEFINITION. The scalar integer instructions (R118 to R121): majors 0x01, 0x04 to 0x09, 0x16 and 0x17. -/

namespace Sys2Proof.Machine


/-- One result of an integer instruction, untagged (R114). -/
def alu (d : BitVec 5) (v : Word) (s : State) : Out := .next (s.writeBack d v)

/-- The number of leading zero bits; 64 for 0. -/
def clz64 (a : Word) : Nat := if a = 0 then 64 else 63 - Nat.log2 a.toNat

/-- The number of trailing zero bits; 64 for 0. -/
def ctz64 (a : Word) : Nat := (leastFrom a.getLsbD 0 64).getD 64

/-- The number of one bits. -/
def popc64 (a : Word) : Nat := ((List.range 64).filter a.getLsbD).length

def boolWord (b : Bool) : Word := if b then 1 else 0

/-- ADD (R118); the tag of a pointer stays with it (R114). -/
def execAdd (d a b : BitVec 5) (s : State) : Out :=
  .next (s.writeBack d (s.hart.xr a + s.hart.xr b) (addTag (s.hart.tagOf a) (s.hart.tagOf b)))

/-- SUB (R118); the tag of a pointer stays with it (R114). -/
def execSub (d a b : BitVec 5) (s : State) : Out :=
  .next (s.writeBack d (s.hart.xr a - s.hart.xr b) (subTag (s.hart.tagOf a) (s.hart.tagOf b)))

/-- AND (R118). -/
def execAnd (d a b : BitVec 5) (s : State) : Out :=
  let x := s.hart.xr a
  let y := s.hart.xr b
  alu d (x &&& y) s

/-- OR (R118). -/
def execOr (d a b : BitVec 5) (s : State) : Out :=
  let x := s.hart.xr a
  let y := s.hart.xr b
  alu d (x ||| y) s

/-- XOR (R118). -/
def execXor (d a b : BitVec 5) (s : State) : Out :=
  let x := s.hart.xr a
  let y := s.hart.xr b
  alu d (x ^^^ y) s

/-- SLL (R118). -/
def execSll (d a b : BitVec 5) (s : State) : Out :=
  let x := s.hart.xr a
  let y := s.hart.xr b
  alu d (x <<< (y.toNat % 64)) s

/-- SRL (R118). -/
def execSrl (d a b : BitVec 5) (s : State) : Out :=
  let x := s.hart.xr a
  let y := s.hart.xr b
  alu d (x >>> (y.toNat % 64)) s

/-- SRA (R118). -/
def execSra (d a b : BitVec 5) (s : State) : Out :=
  let x := s.hart.xr a
  let y := s.hart.xr b
  alu d (x.sshiftRight (y.toNat % 64)) s

/-- SLT (R118). -/
def execSlt (d a b : BitVec 5) (s : State) : Out :=
  let x := s.hart.xr a
  let y := s.hart.xr b
  alu d (boolWord (x.slt y)) s

/-- SLTU (R118). -/
def execSltu (d a b : BitVec 5) (s : State) : Out :=
  let x := s.hart.xr a
  let y := s.hart.xr b
  alu d (boolWord (x.ult y)) s

/-- MIN (R118). -/
def execMin (d a b : BitVec 5) (s : State) : Out :=
  let x := s.hart.xr a
  let y := s.hart.xr b
  alu d (if y.slt x then y else x) s

/-- MAX (R118). -/
def execMax (d a b : BitVec 5) (s : State) : Out :=
  let x := s.hart.xr a
  let y := s.hart.xr b
  alu d (if x.slt y then y else x) s

/-- MUL (R118). -/
def execMul (d a b : BitVec 5) (s : State) : Out :=
  let x := s.hart.xr a
  let y := s.hart.xr b
  alu d (x * y) s

/-- MULH (R118). -/
def execMulh (d a b : BitVec 5) (s : State) : Out :=
  let x := s.hart.xr a
  let y := s.hart.xr b
  alu d (BitVec.ofInt 64 (x.toInt * y.toInt / 2 ^ 64)) s

/-- MULHU (R118). -/
def execMulhu (d a b : BitVec 5) (s : State) : Out :=
  let x := s.hart.xr a
  let y := s.hart.xr b
  alu d (BitVec.ofNat 64 (x.toNat * y.toNat / 2 ^ 64)) s

/-- DIV (R119). -/
def execDiv (d a b : BitVec 5) (s : State) : Out :=
  let x := s.hart.xr a
  let y := s.hart.xr b
  alu d (if y = 0 then BitVec.allOnes 64 else x.sdiv y) s

/-- DIVU (R119). -/
def execDivu (d a b : BitVec 5) (s : State) : Out :=
  let x := s.hart.xr a
  let y := s.hart.xr b
  alu d (if y = 0 then BitVec.allOnes 64 else x / y) s

/-- REM (R119). -/
def execRem (d a b : BitVec 5) (s : State) : Out :=
  let x := s.hart.xr a
  let y := s.hart.xr b
  alu d (if y = 0 then x else x.srem y) s

/-- REMU (R119). -/
def execRemu (d a b : BitVec 5) (s : State) : Out :=
  let x := s.hart.xr a
  let y := s.hart.xr b
  alu d (if y = 0 then x else x % y) s

/-- CLZ (R118). -/
def execClz (d a : BitVec 5) (s : State) : Out :=
  let x := s.hart.xr a
  alu d (BitVec.ofNat 64 (clz64 x)) s

/-- CTZ (R118). -/
def execCtz (d a : BitVec 5) (s : State) : Out :=
  let x := s.hart.xr a
  alu d (BitVec.ofNat 64 (ctz64 x)) s

/-- POPC (R118). -/
def execPopc (d a : BitVec 5) (s : State) : Out :=
  let x := s.hart.xr a
  alu d (BitVec.ofNat 64 (popc64 x)) s

/-- SEXTB (R118). -/
def execSextb (d a : BitVec 5) (s : State) : Out :=
  let x := s.hart.xr a
  alu d ((x.truncate 8).signExtend 64) s

/-- SEXTH (R118). -/
def execSexth (d a : BitVec 5) (s : State) : Out :=
  let x := s.hart.xr a
  alu d ((x.truncate 16).signExtend 64) s

/-- SEXTW (R118). -/
def execSextw (d a : BitVec 5) (s : State) : Out :=
  let x := s.hart.xr a
  alu d ((x.truncate 32).signExtend 64) s

/-- ZEXTH (R118). -/
def execZexth (d a : BitVec 5) (s : State) : Out :=
  let x := s.hart.xr a
  alu d ((x.truncate 16).zeroExtend 64) s

/-- ZEXTW (R118). -/
def execZextw (d a : BitVec 5) (s : State) : Out :=
  let x := s.hart.xr a
  alu d ((x.truncate 32).zeroExtend 64) s

/-- ADDI (R120); the tag of xa stays (R114). -/
def execAddi (d a : BitVec 5) (i : BitVec 16) (s : State) : Out :=
  .next (s.writeBack d (s.hart.xr a + imm16 i) (s.hart.tagOf a))

/-- ANDI (R120). -/
def execAndi (d a : BitVec 5) (i : BitVec 16) (s : State) : Out := alu d (s.hart.xr a &&& imm16 i) s

/-- ORI (R120). -/
def execOri (d a : BitVec 5) (i : BitVec 16) (s : State) : Out := alu d (s.hart.xr a ||| imm16 i) s

/-- SLLI (R120). -/
def execSlli (d a : BitVec 5) (sh : BitVec 6) (s : State) : Out := alu d (s.hart.xr a <<< sh.toNat) s

/-- SRLI (R120). -/
def execSrli (d a : BitVec 5) (sh : BitVec 6) (s : State) : Out := alu d (s.hart.xr a >>> sh.toNat) s

/-- SRAI (R120). -/
def execSrai (d a : BitVec 5) (sh : BitVec 6) (s : State) : Out := alu d ((s.hart.xr a).sshiftRight sh.toNat) s

/-- LUI (R121). -/
def execLui (d : BitVec 5) (i : BitVec 21) (s : State) : Out := alu d (imm21 i) s

/-- AUIPC (R121). -/
def execAuipc (d : BitVec 5) (i : BitVec 21) (s : State) : Out := alu d (s.hart.pc + imm21 i) s

end Sys2Proof.Machine
end

