-- ==== Sys2Proof/Machine/Sched.lean ====
section
/-! DEFINITION. The scheduler's steps: delivery of asynchronous events (R362), the end of a quantum (R269),
`hyield` (R271), changes of a lane share (R265, R268), pre-emption and switching (R373, R374), and domain slices
(R273). -/

namespace Sys2Proof.Machine

/-! ### Asynchronous events (R362) -/

/-- The hart that takes the next event: of the harts of world 0 on a front-end slot that accept events and are
not in handler mode, the one with the lowest serial number. -/
def State.listener (s : State) : Option Hart :=
  (s.harts.filter fun h => h.life == .running && h.wid == 0 && h.ie && !h.hm).foldl (fun acc h =>
    match acc with
    | none => some h
    | some g => if h.ser.toNat < g.ser.toNat then some h else acc) none

/-- The acting hart takes the oldest event as an asynchronous trap; OVF says whether one was lost. -/
def State.takeEvent (s : State) : State :=
  let t := s.settle
  if t.hart.life ≠ .running then t
  else
    match t.events with
    | [] => t
    | e :: rest =>
      (({ t with events := rest, eventLost := false } : State).mapHart fun h => { h with ovf := t.eventLost }).enterTrap
        e.cause.toNat e.detail e.val

/-- EVENT_DELIVERY (R362): while HVEC is 0 every event waits (R367). -/
def execEventDelivery (s : State) : Out :=
  .next
    (if s.hvec = 0 || s.events.isEmpty then s
     else
       match s.listener with
       | none => s
       | some h => if h.hostBusy then s else s.asHart h.ser State.takeEvent)

/-! ### Stopping and resuming a hart (R373, R374) -/

/-- May the hart be switched out now? In handler mode it waits for `eret` (R363); while the host owes it a
completion it waits for that. -/
def Hart.mayStop (h : Hart) : Bool := h.life == .running && !h.hm && !h.hostBusy

/-- Switches a hart out, to be held when a hold has been requested. -/
def State.stopHart (s : State) (ser : BitVec 16) : State :=
  match s.findHart ser with
  | none => s
  | some h => if h.mayStop then s.asHart ser fun t => t.switchOff (if h.holdReq then .held else .descheduled) else s

/-- Requests a pre-emption of a hart on a front-end slot. -/
def Hart.requestStop (h : Hart) : Hart := if h.life = .running then { h with preempt := true } else h

/-- Pre-empts a hart now where it may stop, and requests it elsewhere. -/
def State.stopOrAsk (s : State) (ser : BitVec 16) : State := (s.updHart ser Hart.requestStop).stopHart ser

/-- PREEMPTION (R373): a requested pre-emption or hold is carried out. -/
def execPreemption (ser : BitVec 16) (s : State) : Out :=
  .next
    (match s.findHart ser with
     | none => s
     | some h => if s.stopDue h then s.stopHart ser else s)

/-- SWITCH_OUT (R374): a hart of a gang in its domain slice runs for the whole of it (R273). -/
def execSwitchOut (ser : BitVec 16) (s : State) : Out :=
  .next
    (match s.findHart ser with
     | none => s
     | some h => if s.midSlice h then s else s.stopHart ser)

/-- Lane groups granted to a hart: its share, or the share pending when that is larger (R265). -/
def Hart.grant (h : Hart) : Nat := if h.pv then max h.share.toNat h.pend.toNat else h.share.toNat

/-- The other harts on the front-end slots of a core. -/
def State.onCore (s : State) (core : BitVec 8) (ser : BitVec 16) : List Hart :=
  s.harts.filter fun h => h.life == .running && h.core == core && h.ser != ser

/-- Harts of a gang homed on a core. -/
def State.gangOn (s : State) (gid : BitVec 32) (core : BitVec 8) : List Hart :=
  s.harts.filter fun h => h.alive && h.gid == gid && h.core == core

/-- Does the core have a front-end slot for the hart: four at most (R14), less those that a domain slice
needs for other harts (R273)? -/
def State.slotFree (s : State) (h : Hart) : Bool :=
  let others := s.onCore h.core h.ser
  match s.slice with
  | none => decide (others.length < 4)
  | some gid =>
    if h.gid = gid then decide (others.length < 4)
    else decide ((others.filter fun o => o.gid != gid).length + (s.gangOn gid h.core).length < 4)

/-- The harts whose grants a hart must leave room for on its core: those on its slots, and those of the gang whose domain
slice runs (R265, R273). -/
def State.grantees (s : State) (h : Hart) : List Hart :=
  let others := s.onCore h.core h.ser
  match s.slice with
  | none => others
  | some gid => if h.gid = gid then others else (others.filter fun o => o.gid != gid) ++ s.gangOn gid h.core

/-- Can the lane groups that hold, or are to hold, the hart's state be assigned to it (R375, R388)? -/
def State.groupsFit (s : State) (h : Hart) : Bool :=
  if h.vloc == 1 then h.groups.all fun g => (s.goodGroups h.core).contains g
  else decide (h.share.toNat ≤ (s.goodGroups h.core).length)

/-- Can the hart's share be granted on its core (R265, R268, R375)? -/
def State.shareFits (s : State) (h : Hart) : Bool :=
  decide (((s.grantees h).map Hart.grant).sum + h.grant ≤ 4) && s.groupsFit h

/-- May the hart's gang run now: started, and in its slice when it is a domain gang? -/
def State.gangRuns (s : State) (h : Hart) : Bool :=
  match s.gang h.gid with
  | none => false
  | some g => (g.phase == .started) && (g.devs.length ≤ 1 || g.inSlice)

/-- The runnable harts of the run set of a core that take their time in quanta (R269). -/
def State.runSet (s : State) (core : BitVec 8) : List Hart :=
  s.harts.filter fun h => (h.life == .running || h.life == .descheduled) && h.core == core && s.gangRuns h &&
    (match s.gang h.gid with
     | some g => decide (g.devs.length ≤ 1)
     | none => false)

/-- Once every runnable hart of a core has had the quanta of its time weight, a round begins (R269). -/
def State.newRound (s : State) (core : BitVec 8) : State :=
  if (s.runSet core).any fun h => h.quanta ≠ 0 then s
  else (s.runSet core).foldl (fun t h => t.updHart h.ser fun g => { g with quanta := timeWeight g.weight }) s

/-- Has the hart quanta left, or does none of its run set wait with quanta of this round? A hart has no more than
its time weight while another lacks its own (R269). -/
def State.mayRun (s : State) (h : Hart) : Bool :=
  h.quanta ≠ 0 || !(s.runSet h.core).any fun g => g.life == .descheduled && g.quanta ≠ 0

/-- SWITCH_IN (R374). -/
def execSwitchIn (ser : BitVec 16) (s : State) : Out :=
  .next
    (match s.findHart ser with
     | none => s
     | some h =>
       if h.life = .descheduled && s.gangRuns h && s.slotFree h && s.shareFits h && s.mayRun h then
         s.asHart ser State.switchOn
       else s)

/-- The harts to which a yielding hart may pass its slot: runnable ones of its run set, in a domain slice those of
its gang on its core (R271). -/
def State.heirs (s : State) : List Hart :=
  let h := s.hart
  s.others.filter fun g => g.life == .descheduled && g.core == h.core && s.gangRuns g && s.shareFits g &&
    (if s.slice = some h.gid then g.gid == h.gid else (s.runSet h.core).any fun r => r.ser == g.ser)

/-- HYIELD (R271): the quantum ends, and another hart of the run set has the slot; where there is none, or where the
hart may not stop, it goes on. -/
def execHyield (s : State) : Out :=
  .next
    (let t := s.retire none
     if !t.hart.mayStop then t
     else
       let u := (t.switchOff (if t.hart.holdReq then .held else .descheduled)).mapHart fun h => { h with quanta := h.quanta - 1 }
       match u.heirs[Config.pickHart s.tick % max u.heirs.length 1]? with
       | none => t
       | some h => (u.newRound h.core).asHart h.ser State.switchOn)

/-! ### Shares (R265, R268) -/

/-- SHARE_GRANT_CHANGE (R265): a change of a running hart's share becomes pending. -/
def execShareGrantChange (ser : BitVec 16) (n : BitVec 3) (s : State) : Out :=
  .next
    (match s.findHart ser with
     | none => s
     | some h =>
       let least := min h.weight.toNat h.cap.toNat
       let others := ((s.onCore h.core ser).map Hart.grant).sum
       if h.life = .running && (n == 1 || n == 2 || n == 4) && h.weight != 0 && decide (least ≤ n.toNat) &&
           decide (n.toNat ≤ h.cap.toNat) && decide (others + max n.toNat h.share.toNat ≤ 4) then
         s.updHart ser fun h => { h with pv := n != h.share, pend := n }
       else s)

/-- Is a reduction of the hart's share pending? -/
def Hart.shrinks (h : Hart) : Bool := h.pv && decide (h.pend.toNat < h.share.toNat)

/-- LPGRACE_EXPIRY (R268): the reduction is dropped and the hart is descheduled whole, at its `eret` when it is
in handler mode. -/
def execLpgraceExpiry (ser : BitVec 16) (s : State) : Out :=
  .next
    (match s.findHart ser with
     | none => s
     | some h =>
       if h.life = .running && h.shrinks then
         (s.updHart ser fun h => { h with pv := false, pend := h.share }).stopOrAsk ser
       else s)

/-! ### Quanta and domain slices (R269, R273) -/

/-- The slice in progress ends: its gang leaves the front-end slots. -/
def State.endSlice (s : State) : State :=
  match s.slice with
  | none => s
  | some gid =>
    let mine := (s.harts.filter fun h => h.life == .running && h.gid == gid).map Hart.ser
    mine.foldl State.stopOrAsk (({ s with slice := none } : State).updGang gid fun g => { g with sliceReady := false, inSlice := false })

/-- QUANTUM_EXPIRY (R269): the end of a quantum of a running hart requests a pre-emption; the end of the quantum of a
domain slice ends the slice. -/
def execQuantumExpiry (ser : BitVec 16) (s : State) : Out :=
  .next
    (match s.findHart ser with
     | none => s
     | some h =>
       if s.slice = some h.gid then s.endSlice
       else if h.life ≠ .running then s
       else (s.updHart ser fun h => { h.requestStop with quanta := h.quanta - 1 }).newRound h.core)

/-- The harts that must leave a core so that a domain gang's members have their slots and their shares there: as few of
the others, in their order, as are in the way. -/
def State.inTheWay (s : State) (gid : BitVec 32) (core : BitVec 8) : List Hart :=
  let others := s.harts.filter fun h => h.life == .running && h.core == core && h.gid != gid
  let mine := s.gangOn gid core
  let fits (l : List Hart) : Bool :=
    decide (l.length + mine.length ≤ 4) && decide (((l ++ mine).map Hart.grant).sum ≤ 4)
  others.take ((leastFrom (fun n => fits (others.drop n)) 0 others.length).getD others.length)

/-- Every core that homes a member of a gang. -/
def State.coresOf (s : State) (gid : BitVec 32) : List (BitVec 8) :=
  ((s.harts.filter fun h => h.alive && h.gid == gid).map Hart.core).eraseDups

/-- Pre-empts the harts that occupy the slots the gang needs; when all have left, this device is ready. -/
def State.startSlice (s : State) (gid : BitVec 32) : State :=
  let t := { s with slice := some gid }
  let out := (t.coresOf gid).flatMap fun c => (t.inTheWay gid c).map Hart.ser
  let t := out.foldl State.stopOrAsk t
  if (t.coresOf gid).all fun c => (t.inTheWay gid c).isEmpty then t.updGang gid fun g => { g with sliceReady := true }
  else t

/-- DOMAIN_SLICE_START (R273): this device makes itself ready for the slice, which begins when every member device
is (Inner.peer, sliceAgreed). -/
def execDomainSliceStart (gid : BitVec 32) (s : State) : Out :=
  .next
    (match s.gang gid with
     | none => s
     | some g =>
       if g.phase ≠ .started || g.devs.length ≤ 1 || !s.reachable g || g.sliceReady then s
       else (if s.slice = some gid then s else s.endSlice).startSlice gid)

/-- SLICE_FORFEIT (R273): a slice that has not begun is given up. A device that is late posts the slice-late
interrupt; one that was ready waited in vain for another. -/
def execSliceForfeit (gid : BitVec 32) (s : State) : Out :=
  .next
    (match s.gang gid with
     | none => s
     | some g =>
       if s.slice ≠ some gid || g.inSlice then s
       else
         let t := ({ s with slice := none } : State).updGang gid fun g => { g with sliceReady := false }
         if g.sliceReady then t else t.post 0x8002 (gid.zeroExtend 64) 0)

end Sys2Proof.Machine
end

