-- ==== Sys2Proof/Machine/Dispatch.lean ====
section
/-! DEFINITION. One arm per constructor of Instr: its meaning. -/

namespace Sys2Proof.Machine

def exec (i : Instr) (s : State) : Host.Outcome State Fault Refusal :=
  match i with
  | .add d a b => Sys2Proof.Machine.execAdd d a b s
  | .sub d a b => Sys2Proof.Machine.execSub d a b s
  | .and d a b => Sys2Proof.Machine.execAnd d a b s
  | .or d a b => Sys2Proof.Machine.execOr d a b s
  | .xor d a b => Sys2Proof.Machine.execXor d a b s
  | .sll d a b => Sys2Proof.Machine.execSll d a b s
  | .srl d a b => Sys2Proof.Machine.execSrl d a b s
  | .sra d a b => Sys2Proof.Machine.execSra d a b s
  | .slt d a b => Sys2Proof.Machine.execSlt d a b s
  | .sltu d a b => Sys2Proof.Machine.execSltu d a b s
  | .min d a b => Sys2Proof.Machine.execMin d a b s
  | .max d a b => Sys2Proof.Machine.execMax d a b s
  | .mul d a b => Sys2Proof.Machine.execMul d a b s
  | .mulh d a b => Sys2Proof.Machine.execMulh d a b s
  | .mulhu d a b => Sys2Proof.Machine.execMulhu d a b s
  | .div d a b => Sys2Proof.Machine.execDiv d a b s
  | .divu d a b => Sys2Proof.Machine.execDivu d a b s
  | .rem d a b => Sys2Proof.Machine.execRem d a b s
  | .remu d a b => Sys2Proof.Machine.execRemu d a b s
  | .clz d a => Sys2Proof.Machine.execClz d a s
  | .ctz d a => Sys2Proof.Machine.execCtz d a s
  | .popc d a => Sys2Proof.Machine.execPopc d a s
  | .sextb d a => Sys2Proof.Machine.execSextb d a s
  | .sexth d a => Sys2Proof.Machine.execSexth d a s
  | .sextw d a => Sys2Proof.Machine.execSextw d a s
  | .zexth d a => Sys2Proof.Machine.execZexth d a s
  | .zextw d a => Sys2Proof.Machine.execZextw d a s
  | .faddd d a b => Sys2Proof.Machine.execFaddd d a b s
  | .fsubd d a b => Sys2Proof.Machine.execFsubd d a b s
  | .fmuld d a b => Sys2Proof.Machine.execFmuld d a b s
  | .fdivd d a b => Sys2Proof.Machine.execFdivd d a b s
  | .fsqrtd d a => Sys2Proof.Machine.execFsqrtd d a s
  | .fmad d a b => Sys2Proof.Machine.execFmad d a b s
  | .fmind d a b => Sys2Proof.Machine.execFmind d a b s
  | .fmaxd d a b => Sys2Proof.Machine.execFmaxd d a b s
  | .feqd d a b => Sys2Proof.Machine.execFeqd d a b s
  | .fltd d a b => Sys2Proof.Machine.execFltd d a b s
  | .fled d a b => Sys2Proof.Machine.execFled d a b s
  | .fadds d a b => Sys2Proof.Machine.execFadds d a b s
  | .fmuls d a b => Sys2Proof.Machine.execFmuls d a b s
  | .fmas d a b => Sys2Proof.Machine.execFmas d a b s
  | .fcvtsd d a => Sys2Proof.Machine.execFcvtsd d a s
  | .fcvtds d a => Sys2Proof.Machine.execFcvtds d a s
  | .fcvtld d a => Sys2Proof.Machine.execFcvtld d a s
  | .fcvtdl d a => Sys2Proof.Machine.execFcvtdl d a s
  | .amoadd d a b sc => Sys2Proof.Machine.execAmoadd d a b sc s
  | .amomin d a b sc => Sys2Proof.Machine.execAmomin d a b sc s
  | .amomax d a b sc => Sys2Proof.Machine.execAmomax d a b sc s
  | .amoand d a b sc => Sys2Proof.Machine.execAmoand d a b sc s
  | .amoor d a b sc => Sys2Proof.Machine.execAmoor d a b sc s
  | .amoxor d a b sc => Sys2Proof.Machine.execAmoxor d a b sc s
  | .amoswap d a b sc => Sys2Proof.Machine.execAmoswap d a b sc s
  | .amocas d a b sc => Sys2Proof.Machine.execAmocas d a b sc s
  | .addi d a im => Sys2Proof.Machine.execAddi d a im s
  | .andi d a im => Sys2Proof.Machine.execAndi d a im s
  | .ori d a im => Sys2Proof.Machine.execOri d a im s
  | .slli d a sc => Sys2Proof.Machine.execSlli d a sc s
  | .srli d a sc => Sys2Proof.Machine.execSrli d a sc s
  | .srai d a sc => Sys2Proof.Machine.execSrai d a sc s
  | .jalr d a im => Sys2Proof.Machine.execJalr d a im s
  | .lb d a im => Sys2Proof.Machine.execLb d a im s
  | .lbu d a im => Sys2Proof.Machine.execLbu d a im s
  | .lh d a im => Sys2Proof.Machine.execLh d a im s
  | .lhu d a im => Sys2Proof.Machine.execLhu d a im s
  | .lw d a im => Sys2Proof.Machine.execLw d a im s
  | .lwu d a im => Sys2Proof.Machine.execLwu d a im s
  | .ld d a im => Sys2Proof.Machine.execLd d a im s
  | .sb d a im => Sys2Proof.Machine.execSb d a im s
  | .sh d a im => Sys2Proof.Machine.execSh d a im s
  | .sw d a im => Sys2Proof.Machine.execSw d a im s
  | .sd d a im => Sys2Proof.Machine.execSd d a im s
  | .lui d im => Sys2Proof.Machine.execLui d im s
  | .auipc d im => Sys2Proof.Machine.execAuipc d im s
  | .beq a b o => Sys2Proof.Machine.execBeq a b o s
  | .bne a b o => Sys2Proof.Machine.execBne a b o s
  | .blt a b o => Sys2Proof.Machine.execBlt a b o s
  | .bge a b o => Sys2Proof.Machine.execBge a b o s
  | .bltu a b o => Sys2Proof.Machine.execBltu a b o s
  | .bgeu a b o => Sys2Proof.Machine.execBgeu a b o s
  | .bcnt a o => Sys2Proof.Machine.execBcnt a o s
  | .j o => Sys2Proof.Machine.execJ o s
  | .jal o => Sys2Proof.Machine.execJal o s
  | .stir k => Sys2Proof.Machine.execStir k s
  | .stirCopy k v => Sys2Proof.Machine.execStirCopy k v s
  | .cmov d => Sys2Proof.Machine.execCmov d s
  | .caddi d e => Sys2Proof.Machine.execCaddi d e s
  | .csubi d e => Sys2Proof.Machine.execCsubi d e s
  | .cslli d e => Sys2Proof.Machine.execCslli d e s
  | .csrli d e => Sys2Proof.Machine.execCsrli d e s
  | .csrai d e => Sys2Proof.Machine.execCsrai d e s
  | .candi d e => Sys2Proof.Machine.execCandi d e s
  | .cadd d e => Sys2Proof.Machine.execCadd d e s
  | .csub d e => Sys2Proof.Machine.execCsub d e s
  | .cand d e => Sys2Proof.Machine.execCand d e s
  | .cor d e => Sys2Proof.Machine.execCor d e s
  | .cxor d e => Sys2Proof.Machine.execCxor d e s
  | .vadd c m d a b => Sys2Proof.Machine.execVadd c m d a b s
  | .vsub c m d a b => Sys2Proof.Machine.execVsub c m d a b s
  | .vmul c m d a b => Sys2Proof.Machine.execVmul c m d a b s
  | .vmulh c m d a b => Sys2Proof.Machine.execVmulh c m d a b s
  | .vmin c m d a b => Sys2Proof.Machine.execVmin c m d a b s
  | .vmax c m d a b => Sys2Proof.Machine.execVmax c m d a b s
  | .vand c m d a b => Sys2Proof.Machine.execVand c m d a b s
  | .vor c m d a b => Sys2Proof.Machine.execVor c m d a b s
  | .vxor c m d a b => Sys2Proof.Machine.execVxor c m d a b s
  | .vsadd c m d a b => Sys2Proof.Machine.execVsadd c m d a b s
  | .vssub c m d a b => Sys2Proof.Machine.execVssub c m d a b s
  | .vmacc c m d a b => Sys2Proof.Machine.execVmacc c m d a b s
  | .vaddx c m d a b => Sys2Proof.Machine.execVaddx c m d a b s
  | .vmulx c m d a b => Sys2Proof.Machine.execVmulx c m d a b s
  | .vaddi c m d a im => Sys2Proof.Machine.execVaddi c m d a im s
  | .vslli c m d a im => Sys2Proof.Machine.execVslli c m d a im s
  | .vsrli c m d a im => Sys2Proof.Machine.execVsrli c m d a im s
  | .vsrai c m d a im => Sys2Proof.Machine.execVsrai c m d a im s
  | .vcmpeq c m d a b => Sys2Proof.Machine.execVcmpeq c m d a b s
  | .vcmplt c m d a b => Sys2Proof.Machine.execVcmplt c m d a b s
  | .vcmple c m d a b => Sys2Proof.Machine.execVcmple c m d a b s
  | .vsel c m d a b => Sys2Proof.Machine.execVsel c m d a b s
  | .vmvx c m d b => Sys2Proof.Machine.execVmvx c m d b s
  | .vfadd c m d a b => Sys2Proof.Machine.execVfadd c m d a b s
  | .vfsub c m d a b => Sys2Proof.Machine.execVfsub c m d a b s
  | .vfmul c m d a b => Sys2Proof.Machine.execVfmul c m d a b s
  | .vfdiv c m d a b => Sys2Proof.Machine.execVfdiv c m d a b s
  | .vfsqrt c m d a => Sys2Proof.Machine.execVfsqrt c m d a s
  | .vfma c m d a b => Sys2Proof.Machine.execVfma c m d a b s
  | .vfmin c m d a b => Sys2Proof.Machine.execVfmin c m d a b s
  | .vfmax c m d a b => Sys2Proof.Machine.execVfmax c m d a b s
  | .vfcmpeq c m d a b => Sys2Proof.Machine.execVfcmpeq c m d a b s
  | .vfcmplt c m d a b => Sys2Proof.Machine.execVfcmplt c m d a b s
  | .vfcmple c m d a b => Sys2Proof.Machine.execVfcmple c m d a b s
  | .vfmulx c m d a b => Sys2Proof.Machine.execVfmulx c m d a b s
  | .vfsmul c m d a b => Sys2Proof.Machine.execVfsmul c m d a b s
  | .vfsmacc c m d a b => Sys2Proof.Machine.execVfsmacc c m d a b s
  | .vfcvt c m d a => Sys2Proof.Machine.execVfcvt c m d a s
  | .vfcvti c m d a => Sys2Proof.Machine.execVfcvti c m d a s
  | .vicvtf c m d a => Sys2Proof.Machine.execVicvtf c m d a s
  | .vicvt c m d a => Sys2Proof.Machine.execVicvt c m d a s
  | .vredsum c m d a => Sys2Proof.Machine.execVredsum c m d a s
  | .vredmax c m d a => Sys2Proof.Machine.execVredmax c m d a s
  | .vfredsum c m d a => Sys2Proof.Machine.execVfredsum c m d a s
  | .vfredmax c m d a => Sys2Proof.Machine.execVfredmax c m d a s
  | .vtopk c m d a b => Sys2Proof.Machine.execVtopk c m d a b s
  | .vperm c m d a b => Sys2Proof.Machine.execVperm c m d a b s
  | .vslideup c m d a b => Sys2Proof.Machine.execVslideup c m d a b s
  | .vslidedn c m d a b => Sys2Proof.Machine.execVslidedn c m d a b s
  | .vcompress c m d a => Sys2Proof.Machine.execVcompress c m d a s
  | .viota c m d => Sys2Proof.Machine.execViota c m d s
  | .vskv c m d a => Sys2Proof.Machine.execVskv c m d a s
  | .kand c m d a b => Sys2Proof.Machine.execKand c m d a b s
  | .kor c m d a b => Sys2Proof.Machine.execKor c m d a b s
  | .kxor c m d a b => Sys2Proof.Machine.execKxor c m d a b s
  | .kandn c m d a b => Sys2Proof.Machine.execKandn c m d a b s
  | .knot c m d a => Sys2Proof.Machine.execKnot c m d a s
  | .kbefore c m d a => Sys2Proof.Machine.execKbefore c m d a s
  | .kset c m d => Sys2Proof.Machine.execKset c m d s
  | .vld c m v x p => Sys2Proof.Machine.execVld c m v x p s
  | .vlds c m v x sc p => Sys2Proof.Machine.execVlds c m v x sc p s
  | .vldx c m v x sc p => Sys2Proof.Machine.execVldx c m v x sc p s
  | .vldff c m v x p => Sys2Proof.Machine.execVldff c m v x p s
  | .vqrd c m v x p => Sys2Proof.Machine.execVqrd c m v x p s
  | .vlr c v x => Sys2Proof.Machine.execVlr c v x s
  | .vlrPredicate c v x => Sys2Proof.Machine.execVlrPredicate c v x s
  | .vst c m v x p => Sys2Proof.Machine.execVst c m v x p s
  | .vsts c m v x sc p => Sys2Proof.Machine.execVsts c m v x sc p s
  | .vstx c m v x sc p => Sys2Proof.Machine.execVstx c m v x sc p s
  | .vsr c v x => Sys2Proof.Machine.execVsr c v x s
  | .vsrPredicate c v x => Sys2Proof.Machine.execVsrPredicate c v x s
  | .vamoadd c m v x im p sc => Sys2Proof.Machine.execVamoadd c m v x im p sc s
  | .vamomin c m v x im p sc => Sys2Proof.Machine.execVamomin c m v x im p sc s
  | .vamomax c m v x im p sc => Sys2Proof.Machine.execVamomax c m v x im p sc s
  | .vamoand c m v x im p sc => Sys2Proof.Machine.execVamoand c m v x im p sc s
  | .vamoor c m v x im p sc => Sys2Proof.Machine.execVamoor c m v x im p sc s
  | .vamoxor c m v x im p sc => Sys2Proof.Machine.execVamoxor c m v x im p sc s
  | .vamoswap c m v x im p sc => Sys2Proof.Machine.execVamoswap c m v x im p sc s
  | .vamocas c m v x im p sc => Sys2Proof.Machine.execVamocas c m v x im p sc s
  | .mmcpy c m d a p => Sys2Proof.Machine.execMmcpy c m d a p s
  | .mmadd c m d a b p => Sys2Proof.Machine.execMmadd c m d a b p s
  | .mmsub c m d a b p => Sys2Proof.Machine.execMmsub c m d a b p s
  | .mmmul c m d a b p => Sys2Proof.Machine.execMmmul c m d a b p s
  | .mmmin c m d a b p => Sys2Proof.Machine.execMmmin c m d a b p s
  | .mmmax c m d a b p => Sys2Proof.Machine.execMmmax c m d a b p s
  | .tshp c k => Sys2Proof.Machine.execTshp c k s
  | .mxacc c m t a b => Sys2Proof.Machine.execMxacc c m t a b s
  | .mopk c m t a b => Sys2Proof.Machine.execMopk c m t a b s
  | .mxsub c m t a b => Sys2Proof.Machine.execMxsub c m t a b s
  | .mzero c t => Sys2Proof.Machine.execMzero c t s
  | .mdrain c m t a => Sys2Proof.Machine.execMdrain c m t a s
  | .mrow c m t a => Sys2Proof.Machine.execMrow c m t a s
  | .tsave c t a => Sys2Proof.Machine.execTsave c t a s
  | .trest c t a => Sys2Proof.Machine.execTrest c t a s
  | .qbind q a b => Sys2Proof.Machine.execQbind q a b s
  | .btcopy a b k => Sys2Proof.Machine.execBtcopy a b k s
  | .btgather a b k => Sys2Proof.Machine.execBtgather a b k s
  | .qrd q a => Sys2Proof.Machine.execQrd q a s
  | .sbar a => Sys2Proof.Machine.execSbar a s
  | .kwait a b k => Sys2Proof.Machine.execKwait a b k s
  | .wmark a => Sys2Proof.Machine.execWmark a s
  | .chdemote a => Sys2Proof.Machine.execChdemote a s
  | .pref a b => Sys2Proof.Machine.execPref a b s
  | .nsq a b k => Sys2Proof.Machine.execNsq a b k s
  | .nsstat a b => Sys2Proof.Machine.execNsstat a b s
  | .hcmv a b k => Sys2Proof.Machine.execHcmv a b k s
  | .hcfire a b k => Sys2Proof.Machine.execHcfire a b k s
  | .hcage a => Sys2Proof.Machine.execHcage a s
  | .hcrank a b => Sys2Proof.Machine.execHcrank a b s
  | .hccommit a => Sys2Proof.Machine.execHccommit a s
  | .wlopen a b => Sys2Proof.Machine.execWlopen a b s
  | .wlpush a b => Sys2Proof.Machine.execWlpush a b s
  | .wlpop a b => Sys2Proof.Machine.execWlpop a b s
  | .wldone a => Sys2Proof.Machine.execWldone a s
  | .wlstat a b => Sys2Proof.Machine.execWlstat a b s
  | .wlfloor a b => Sys2Proof.Machine.execWlfloor a b s
  | .glaunch a b => Sys2Proof.Machine.execGlaunch a b s
  | .gwait a b => Sys2Proof.Machine.execGwait a b s
  | .gbar a => Sys2Proof.Machine.execGbar a s
  | .xred a k => Sys2Proof.Machine.execXred a k s
  | .lslot d a n => Sys2Proof.Machine.execLslot d a n s
  | .pchk d a n => Sys2Proof.Machine.execPchk d a n s
  | .ptag d a => Sys2Proof.Machine.execPtag d a s
  | .pstrip d a => Sys2Proof.Machine.execPstrip d a s
  | .rpatchWrite d a => Sys2Proof.Machine.execRpatchWrite d a s
  | .rpatchMove d a => Sys2Proof.Machine.execRpatchMove d a s
  | .wattestReport d a => Sys2Proof.Machine.execWattestReport d a s
  | .wattestAllow d a => Sys2Proof.Machine.execWattestAllow d a s
  | .wattestLog d a => Sys2Proof.Machine.execWattestLog d a s
  | .wattestGrant d a => Sys2Proof.Machine.execWattestGrant d a s
  | .wattestRevoke d a => Sys2Proof.Machine.execWattestRevoke d a s
  | .wbindOpen d a => Sys2Proof.Machine.execWbindOpen d a s
  | .wbindNewver d a => Sys2Proof.Machine.execWbindNewver d a s
  | .wbindPlace d a => Sys2Proof.Machine.execWbindPlace d a s
  | .wbindSeal d a => Sys2Proof.Machine.execWbindSeal d a s
  | .wbindInstall d a => Sys2Proof.Machine.execWbindInstall d a s
  | .wbindErase d a => Sys2Proof.Machine.execWbindErase d a s
  | .wbindClose d a => Sys2Proof.Machine.execWbindClose d a s
  | .ecall d a n => Sys2Proof.Machine.execEcall d a n s
  | .ebreak n => Sys2Proof.Machine.execEbreak n s
  | .mtcr x c => Sys2Proof.Machine.execMtcr x c s
  | .mfcr x c => Sys2Proof.Machine.execMfcr x c s
  | .svl d a => Sys2Proof.Machine.execSvl d a s
  | .svlW d a => Sys2Proof.Machine.execSvlW d a s
  | .wfe d a => Sys2Proof.Machine.execWfe d a s
  | .csync d a => Sys2Proof.Machine.execCsync d a s
  | .vmvxs d a => Sys2Proof.Machine.execVmvxs d a s
  | .kpop d a => Sys2Proof.Machine.execKpop d a s
  | .kfirst d a => Sys2Proof.Machine.execKfirst d a s
  | .hyield => Sys2Proof.Machine.execHyield s
  | .gexit => Sys2Proof.Machine.execGexit s
  | .slotsync => Sys2Proof.Machine.execSlotsync s
  | .eret => Sys2Proof.Machine.execEret s
  | .fence => Sys2Proof.Machine.execFence s
  | .fenceSv => Sys2Proof.Machine.execFenceSv s
  | .fenceVs => Sys2Proof.Machine.execFenceVs s
  | .fenceSvVs => Sys2Proof.Machine.execFenceSvVs s
  | .vtypeWrite x => Sys2Proof.Machine.execVtypeWrite x s
  | .tshpWrite x => Sys2Proof.Machine.execTshpWrite x s
  | .frmWrite x => Sys2Proof.Machine.execFrmWrite x s
  | .fflagsWrite x => Sys2Proof.Machine.execFflagsWrite x s
  | .fflagsRead x => Sys2Proof.Machine.execFflagsRead x s
  | .vlffRead x => Sys2Proof.Machine.execVlffRead x s
  | .vlcapWrite x => Sys2Proof.Machine.execVlcapWrite x s
  | .schedcfgWrite x => Sys2Proof.Machine.execSchedcfgWrite x s
  | .vviewOwn => Sys2Proof.Machine.execVviewOwn s
  | .vviewAddr x => Sys2Proof.Machine.execVviewAddr x s
  | .vviewEvict => Sys2Proof.Machine.execVviewEvict s
  | .vviewInstall => Sys2Proof.Machine.execVviewInstall s
  | .fwdHold e => Sys2Proof.Machine.execFwdHold e s
  | .fwdForward e => Sys2Proof.Machine.execFwdForward e s
  | .fwdFree e => Sys2Proof.Machine.execFwdFree e s
  | .csafreePush a => Sys2Proof.Machine.execCsafreePush a s
  | .hartHold ser => Sys2Proof.Machine.execHartHold ser s
  | .hartRelease ser => Sys2Proof.Machine.execHartRelease ser s
  | .extentAccept p e => Sys2Proof.Machine.execExtentAccept p e s
  | .extentDecline p e => Sys2Proof.Machine.execExtentDecline p e s
  | .extentRelease p e => Sys2Proof.Machine.execExtentRelease p e s
  | .extentFree p e => Sys2Proof.Machine.execExtentFree p e s
  | .msixRaise n => Sys2Proof.Machine.execMsixRaise n s
  | .registerWrite x c => Sys2Proof.Machine.execRegisterWrite x c s
  | .reset => Sys2Proof.Machine.execReset s
  | .boot image => Sys2Proof.Machine.execBoot image s
  | .bootHartStart => Sys2Proof.Machine.execBootHartStart s
  | .microopIssue core => Sys2Proof.Machine.execMicroopIssue core s
  | .microopAged ser => Sys2Proof.Machine.execMicroopAged ser s
  | .eventDelivery => Sys2Proof.Machine.execEventDelivery s
  | .quantumExpiry ser => Sys2Proof.Machine.execQuantumExpiry ser s
  | .lpgraceExpiry ser => Sys2Proof.Machine.execLpgraceExpiry ser s
  | .shareGrantChange ser n => Sys2Proof.Machine.execShareGrantChange ser n s
  | .preemption ser => Sys2Proof.Machine.execPreemption ser s
  | .switchOut ser => Sys2Proof.Machine.execSwitchOut ser s
  | .switchIn ser => Sys2Proof.Machine.execSwitchIn ser s
  | .domainSliceStart gid => Sys2Proof.Machine.execDomainSliceStart gid s
  | .sliceForfeit gid => Sys2Proof.Machine.execSliceForfeit gid s
  | .gangPlacement gid => Sys2Proof.Machine.execGangPlacement gid s
  | .gangStart gid => Sys2Proof.Machine.execGangStart gid s
  | .gwaitReturn ser => Sys2Proof.Machine.execGwaitReturn ser s
  | .gbarRelease gid b => Sys2Proof.Machine.execGbarRelease gid b s
  | .gexitComplete ser => Sys2Proof.Machine.execGexitComplete ser s
  | .xredComplete gid k => Sys2Proof.Machine.execXredComplete gid k s
  | .svlWPass ser => Sys2Proof.Machine.execSvlWPass ser s
  | .kwaitReturn ser => Sys2Proof.Machine.execKwaitReturn ser s
  | .qrdReturn ser => Sys2Proof.Machine.execQrdReturn ser s
  | .wmarkPublish ser => Sys2Proof.Machine.execWmarkPublish ser s
  | .fenceDrained ser => Sys2Proof.Machine.execFenceDrained ser s
  | .slotsyncComplete ser => Sys2Proof.Machine.execSlotsyncComplete ser s
  | .streamFetch ser q => Sys2Proof.Machine.execStreamFetch ser q s
  | .lineFill ser a => Sys2Proof.Machine.execLineFill ser a s
  | .remotePacketArrival n => Sys2Proof.Machine.execRemotePacketArrival n s
  | .hostCompletion ser ok data => Sys2Proof.Machine.execHostCompletion ser ok data s
  | .hostCompletionTimeout ser => Sys2Proof.Machine.execHostCompletionTimeout ser s
  | .hostWriteFailure a => Sys2Proof.Machine.execHostWriteFailure a s
  | .hostLinkDown => Sys2Proof.Machine.execHostLinkDown s
  | .shardSearchComplete ser t k => Sys2Proof.Machine.execShardSearchComplete ser t k s
  | .searchComplete ser t => Sys2Proof.Machine.execSearchComplete ser t s
  | .splitProductComplete ser t => Sys2Proof.Machine.execSplitProductComplete ser t s
  | .hcrankCopyDone n => Sys2Proof.Machine.execHcrankCopyDone n s
  | .btPieceComplete n k => Sys2Proof.Machine.execBtPieceComplete n k s
  | .wlpopReturn ser => Sys2Proof.Machine.execWlpopReturn ser s
  | .wlDetectionWave gid w => Sys2Proof.Machine.execWlDetectionWave gid w s
  | .wlBalanceMove gid w im => Sys2Proof.Machine.execWlBalanceMove gid w im s
  | .wlUnspill gid w => Sys2Proof.Machine.execWlUnspill gid w s
  | .keyExchangeComplete wid dev => Sys2Proof.Machine.execKeyExchangeComplete wid dev s
  | .sealedLoadComplete n => Sys2Proof.Machine.execSealedLoadComplete n s
  | .installComplete n => Sys2Proof.Machine.execInstallComplete n s
  | .correctedError cls unit => Sys2Proof.Machine.execCorrectedError cls unit s
  | .uncorrectableError site => Sys2Proof.Machine.execUncorrectableError site s
  | .selfTestComplete cls unit passed => Sys2Proof.Machine.execSelfTestComplete cls unit passed s
  | .flitReceive data check damage => Sys2Proof.Machine.execFlitReceive data check damage s
  | .nakReceive g => Sys2Proof.Machine.execNakReceive g s
  | .ackReceive g => Sys2Proof.Machine.execAckReceive g s
  | .readyWindowReceive w => Sys2Proof.Machine.execReadyWindowReceive w s
  | .replayTimeout => Sys2Proof.Machine.execReplayTimeout s
  | .portRetrain ok => Sys2Proof.Machine.execPortRetrain ok s
  | .portUp => Sys2Proof.Machine.execPortUp s
  | .extentOffered p e off units => Sys2Proof.Machine.execExtentOffered p e off units s
  | .releaseRequest p e => Sys2Proof.Machine.execReleaseRequest p e s
  | .releaseComplete p e => Sys2Proof.Machine.execReleaseComplete p e s
  | .forcedRelease p e => Sys2Proof.Machine.execForcedRelease p e s
  | .rootPortFailure p => Sys2Proof.Machine.execRootPortFailure p s
  | .clockStep up => Sys2Proof.Machine.execClockStep up s
  | .thermalAlarm die => Sys2Proof.Machine.execThermalAlarm die s
  | .powerLimitSet watts temp => Sys2Proof.Machine.execPowerLimitSet watts temp s
  | .firmwareUpdate image => Sys2Proof.Machine.execFirmwareUpdate image s
  | .mgmtCounterRead wid cls host => Sys2Proof.Machine.execMgmtCounterRead wid cls host s
  | .fuseRead n => Sys2Proof.Machine.execFuseRead n s
  | .errorLogRead => Sys2Proof.Machine.execErrorLogRead s
  | .retirementMapRead => Sys2Proof.Machine.execRetirementMapRead s
  | .powerStateSet n => Sys2Proof.Machine.execPowerStateSet n s
  | .lineWriteBack a => Sys2Proof.Machine.execLineWriteBack a s
  | .wfeTimeout ser => Sys2Proof.Machine.execWfeTimeout ser s
  | .hostLinkUp => Sys2Proof.Machine.execHostLinkUp s
  | .correctedErrorReportDue cls unit => Sys2Proof.Machine.execCorrectedErrorReportDue cls unit s

end Sys2Proof.Machine
end

