-- ==== Sys2Proof/Machine/Fetch.lean ====
section
/-! DEFINITION. Fetching and the order of turns: the word at pc and its checks (R18, R20, R33, R306), the
turn of the acting hart, and the placing of a word where the next step fetches it. -/

namespace Sys2Proof.Machine

/-- What a fetch finds: an instruction, or a trap already taken. -/
inductive Fetched where
  | instr (i : Instr) (s : State)
  | trapped (s : State)

/-- A word that is no instruction (R20, R38): check 5 comes before check 6. -/
def State.rejected (s : State) (e : Reject) : State :=
  match e with
  | .operandPrivileged => s.ifWorld0 State.illegal
  | _ => s.illegal

/-- The trap that `vmvxs`, `kpop` or `kfirst` takes before check 7 (R20, R136, R375). -/
def State.readTrap (s : State) (typed : Bool) : Option State :=
  match s.bringLanes with
  | .error d => some (s.takeTrap 12 d 0)
  | .ok t =>
    if t.hart.share = 0 then some (t.takeTrap 9 0 (t.hart.iw.zeroExtend 64))
    else if typed && (vtET t.hart.vtype).isNone then some t.illegal
    else none

/-- The trap that an instruction in no format V, W or M takes under checks 5 and 6 of R20, which come before the
stirrup rule. -/
def State.earlierTrap (s : State) (i : Instr) : Option State :=
  let w0 := s.hart.world0
  let need (b : Bool) (t : State) : Option State := if b then none else some t
  match i with
  | .bcnt a _ => need (a != 0) s.illegal
  | .wlpop a b => need (b != 0 && a != b) s.illegal
  | .rpatchWrite d _ | .rpatchMove d _ =>
    if !w0 then some s.privileged else need (d.toNat % 2 = 0 && d != 0) s.illegal
  | .chdemote _ | .slotsync | .eret | .wbindOpen _ _ | .wbindNewver _ _ | .wbindPlace _ _ | .wbindSeal _ _
  | .wbindInstall _ _ | .wbindErase _ _ | .wbindClose _ _ => need w0 s.privileged
  | .mfcr _ c => need (crAccess c.toNat w0 != .none) (s.privileged (c.zeroExtend 64))
  | .mtcr _ c => need (crAccess c.toNat w0 == .write) (s.privileged (c.zeroExtend 64))
  | .qbind _ _ b =>
    need ((s.hart.xr b).toNat % 2 ^ 32 = 0 || (match vtET s.hart.vtype with
      | some t => t.byteWidth
      | none => false)) s.illegal
  | .vmvxs _ _ => s.readTrap true
  | .kpop _ _ | .kfirst _ _ => s.readTrap false
  | _ => none

/-- A word that follows a stirrup word and is no follower breaks the stirrup rule, unless it takes a trap of its
own first (R20, R32). Where both are illegal-instruction traps of check 6, and the spec numbers neither before the other,
the choice is the model's (log entry 122): before a pair word without a valid record, and before an `eret` outside
handler mode in world 0, the stirrup's; for a V, W or M word that is illegal in handler mode (R365), the word's own. -/
def State.nonFollower (s : State) (i : Instr) : State :=
  match s.earlierTrap i with
  | some t => t
  | none => s.badStirrup

/-- The word that the acting hart has fetched, decoded and held against the stirrup rule. -/
noncomputable def decodeFetched (t : State) : Fetched :=
  match decode t.hart.half t.hart.iw with
  | .error e => .trapped (t.rejected e)
  | .ok i => if t.hart.loan.isSome && (classOf i).isNone then .trapped (t.nonFollower i) else .instr i t

/-- The word at pc is in the instruction cache of the hart's core, for the slot that the fetch is checked against. -/
def State.codeCached (s : State) (r : SlotRef) : Bool := (s.cachedLine r s.hart.pc.toNat).isSome

/-- Makes the word at pc ready to be read: a scratchpad region is claimed (R326), which drops what an instruction cache
holds of a region of another world. A word that must be read from memory is counted (R206) and comes after the packets of
the hart's stores (R221). -/
def State.codeReady (s : State) (r : SlotRef) : State :=
  let s := s.claimAll s.ctx.world (s.key s.hart.core s.hart.pc.toNat) 4
  if s.codeCached r then s
  else (s.countAccess r.word s.hart.pc.toNat 4).beforeRead s.ctx (.scalar s.hart.ser) s.hart.pc.toNat 4

/-- A line that a fetch reads, of code or of the slot table, fails its check (R335, R385). -/
def State.codeFault (s : State) (line : Nat) : State :=
  let t := s.lineReport line
  if s.hart.world0 then t.takeTrap 6 9 s.hart.pc else t.quarantine (t.lineCause line) (BitVec.ofNat 64 line)

/-- The line of the word at pc fails its check. -/
def State.codeLoss (s : State) (r : SlotRef) : State := s.codeFault (s.badLine s.ctx r.word s.hart.pc.toNat 4)

/-- The fetch asks the host for the word at pc, once the accesses of queued instructions have their answers; the hart
waits for the completion (R396). -/
def State.askCode (s : State) (bus : Nat) : State :=
  if s.hart.queueAsks then s.waitFor .retry else (s.emit (.hostRead s.hart.ser [(bus, 4)])).waitFor .hostFetch

/-- Fetches the word at pc through the slot that has passed the check. -/
noncomputable def fetchThrough (r : SlotRef) (s : State) : Fetched :=
  let pc := s.hart.pc
  match regionOf (s.canon pc.toNat) with
  | .host bus => .trapped (s.askCode bus)
  | _ =>
    if !s.codeCached r && s.ctx.world != 0 && s.heldOver (s.key s.hart.core pc.toNat) 4 then .trapped (s.waitFor .retry)
    else
      let u := s.codeReady r
      if u.hart.life ≠ .running then .trapped u
      else
        match u.readCode r pc.toNat with
        | none => .trapped (u.codeLoss r)
        | some bs => decodeFetched (u.mapHart fun h => { h with iw := BitVec.ofNat 32 (wordOfBytes bs) })

/-- A hart of world 0 meets the line that its work in flight has found failing: the access fault with detail 9 at the
line, before its next instruction (R385; log entry 140). -/
def State.meetBadLine (s : State) (line : Nat) : State :=
  if s.hart.queueAsks then s.waitFor .retry else (s.mapHart fun h => { h with badLine := none }).faultAt 9 0 line

/-- Fetches at pc and decodes. A pc that is no multiple of 4 is found before any fetch (R18). The second operation of a
pair word executes from the word as it was fetched for the first (R34, R36). -/
noncomputable def fetch (s : State) : Fetched :=
  let pc := s.hart.pc
  match s.hart.badLine with
  | some line => .trapped (s.meetBadLine line)
  | none =>
  if s.hart.half && s.hart.pairHeld then decodeFetched s
  else if pc.toNat % 4 ≠ 0 then .trapped (s.takeTrap 3 0 pc)
  else
    match s.fetchProbe pc.toNat with
    | .error d => .trapped (if d < 16 then s.takeTrap 6 (BitVec.ofNat 64 d) pc else s.codeFault (d - 16))
    | .ok r => fetchThrough r s

/-- An instruction that waited for the host goes on with the answer, and is not fetched again; or the answer is the word
at pc, or a failure, which is the fetch fault with detail 2 (R396). -/
noncomputable def resumed (s : State) : Fetched :=
  let t := s.mapHart fun h => { h with wait := none }
  if s.hart.wait == some .hostFetch then
    let u := t.mapHart fun h => { h with answer := none }
    match s.hart.answer with
    | some (true, bs) =>
      if bs.length = 4 then decodeFetched (u.mapHart fun h => { h with iw := BitVec.ofNat 32 (wordOfBytes bs) })
      else .trapped (u.takeTrap 6 2 u.hart.pc)
    | _ => .trapped (u.takeTrap 6 2 u.hart.pc)
  else decodeFetched t

/-- May an instruction execute while older stores of its hart have not performed, since nothing orders them before it
(R211, R217, R218)? Every other one comes after them. -/
def storesMayWait (i : Instr) : Bool :=
  (classOf i).isSome ||
    match i with
    | .add _ _ _ | .sub _ _ _ | .and _ _ _ | .or _ _ _ | .xor _ _ _ | .sll _ _ _ | .srl _ _ _ | .sra _ _ _
    | .slt _ _ _ | .sltu _ _ _ | .min _ _ _ | .max _ _ _ | .mul _ _ _ | .mulh _ _ _ | .mulhu _ _ _ | .div _ _ _
    | .divu _ _ _ | .rem _ _ _ | .remu _ _ _ | .clz _ _ | .ctz _ _ | .popc _ _ | .sextb _ _ | .sexth _ _
    | .sextw _ _ | .zexth _ _ | .zextw _ _ | .faddd _ _ _ | .fsubd _ _ _ | .fmuld _ _ _ | .fdivd _ _ _
    | .fsqrtd _ _ | .fmad _ _ _ | .fmind _ _ _ | .fmaxd _ _ _ | .feqd _ _ _ | .fltd _ _ _ | .fled _ _ _
    | .fadds _ _ _ | .fmuls _ _ _ | .fmas _ _ _ | .fcvtsd _ _ | .fcvtds _ _ | .fcvtld _ _ | .fcvtdl _ _
    | .addi _ _ _ | .andi _ _ _ | .ori _ _ _ | .slli _ _ _ | .srli _ _ _ | .srai _ _ _ | .jalr _ _ _ | .lb _ _ _
    | .lbu _ _ _ | .lh _ _ _ | .lhu _ _ _ | .lw _ _ _ | .lwu _ _ _ | .ld _ _ _ | .sb _ _ _ | .sh _ _ _
    | .sw _ _ _ | .sd _ _ _ | .lui _ _ | .auipc _ _ | .beq _ _ _ | .bne _ _ _ | .blt _ _ _ | .bge _ _ _
    | .bltu _ _ _ | .bgeu _ _ _ | .bcnt _ _ | .j _ | .jal _ | .cmov _ | .caddi _ _ | .csubi _ _ | .cslli _ _
    | .csrli _ _ | .csrai _ _ | .candi _ _ | .cadd _ _ | .csub _ _ | .cand _ _ | .cor _ _ | .cxor _ _
    | .qbind _ _ _ | .btcopy _ _ _ | .btgather _ _ _ | .qrd _ _ | .pref _ _ | .ptag _ _ | .pstrip _ _
    | .mtcr _ _ | .mfcr _ _ | .svl _ _ | .stir _ | .stirCopy _ _ => true
    | _ => false

/-- The acting hart executes the instruction that it has fetched, after its pending stores where it must come after
them. -/
noncomputable def runFetched (f : Fetched) : Host.Outcome State Fault Refusal :=
  match f with
  | .trapped t => .next t
  | .instr i t =>
    if storesMayWait i then exec i t
    else
      let u := t.drainStores t.hart.ser
      if u.hart.life ≠ .running then .next u else exec i u

/-- The acting hart fetches and executes one instruction. -/
noncomputable def fetchExec (s : State) : Host.Outcome State Fault Refusal := runFetched (fetch s)

/-- After an instruction that waits, another hart has its turn. -/
def passOn (o : Host.Outcome State Fault Refusal) : Host.Outcome State Fault Refusal :=
  match o with
  | .next t => .next (if t.hart.wait.isSome then t.rotate else t)
  | .fault f => .fault f
  | .refused r => .refused r

/-- Does the acting hart wait for an answer, of the host or of the slice that holds its atomic? -/
def State.awaits (s : State) : Bool := s.hart.atHost || (s.hart.wait == some .slice && s.amoHeld s.amoId)

/-- The turn of a waiting hart whose queue holds work: a micro-operation of its core issues, and another hart has its
turn. In the hart's next turn the wait is tried again, unless it is for an answer. -/
noncomputable def queueTurn (s : State) : Host.Outcome State Fault Refusal :=
  match Sys2Proof.Machine.execMicroopIssue s.hart.core s with
  | .next t =>
    .next (if t.hart.wait.isNone then t
      else if t.awaits then t.rotate
      else (t.mapHart fun h => { h with wait := none }).rotate)
  | .fault f => .fault f
  | .refused r => .refused r

/-- The turn of the acting hart. A hart that does not run passes its turn; one whose access or fetch has its answer goes on
with it; one that waits while its queue holds work lets a micro-operation issue, one that waits for an answer passes its
turn, and every other restarts its instruction. -/
noncomputable def turn (s : State) : Host.Outcome State Fault Refusal :=
  if s.hart.life ≠ .running then .next s.rotate
  else if s.hart.wait.isSome then
    if s.hart.answer.isSome then passOn (runFetched (resumed s))
    else if !s.hart.queue.isEmpty then queueTurn s
    else if s.awaits then .next s.rotate
    else passOn (fetchExec (s.mapHart fun h => { h with wait := none }))
  else fetchExec s

/-- The machine as a step begins: the tick that keys the free values advances, and no slice holds more dirty lines than it
has room for. -/
def State.begin (s : State) : State := ({ s with tick := s.tick + 1 } : State).trimSlices

/-- Addresses that `placeWord` uses: a slot table and a page of code in stack 0. -/
def placedTable : Nat := 0x8000
def placedCode : Nat := 0x10000

/-- The slot word of the placed code: 64 KiB, execute and read, resident, KEYID 0. -/
def placedSlot : SlotWord := ⟨0, 0, 0, 0, 0x10000, 0, BitVec.ofNat 46 (placedCode / 64), 0, 9⟩

/-- Makes the acting hart one of world 0 that runs at the start of a page of code, with a slot table
whose slot 1 is that page, and stores a word there (log entry 15). -/
def placeWord (s : State) (w : Nat) : State :=
  { s with
    agenda := []
    hart := { s.hart with
      life := .running, wid := 0, hm := false, half := false, pairHeld := false, loan := none, wait := none, answer := none
      capture := none
      badLine := none
      pc := BitVec.ofNat 64 placedCode
      slottab := BitVec.ofNat 64 placedTable
      code := 1 }
    mem := Bytes.write
      (Bytes.write s.mem placedTable
        (Crypto.leBytes 8 0 ++ Crypto.leBytes 4 1 ++ Crypto.leBytes 4 1 ++ List.replicate 48 0 ++
          Crypto.leBytes 16 0 ++ Crypto.leBytes 16 placedSlot.toNat))
      placedCode (Crypto.leBytes 4 w)
    slotCache := []
    icache := []
    stores := []
    lost := [] }

end Sys2Proof.Machine
end

