-- ==== Sys2Proof/Machine/Step.lean ====
section
/-! DEFINITION. One step of the machine: the next cue of the agenda, or else the turn of the acting
hart. -/

namespace Sys2Proof.Machine

/-- One step. -/
noncomputable def step (s : State) : Host.Outcome State Fault Refusal :=
  match s.agenda with
  | [] => turn s.begin
  | .occur i :: t => exec i ({ s with agenda := t } : State).begin
  | .run ser :: t => .next (({ s with agenda := t } : State).begin.focus ser)
  | .inner e :: t => .next (({ s with agenda := t } : State).begin.inner e)

/-- The state with a word of the opcode table where `step` fetches its next instruction. -/
def State.withFetchWord (s : State) (nbits w : Nat) : State := placeWord s (w % 2 ^ nbits % 2 ^ 32)

end Sys2Proof.Machine
end

