-- ==== Sys2Proof/Safety.lean ====
section
/-! DEFINITION. What a good state and a safe run are, and the frames and results of instructions, in the terms of
the claims. -/

namespace Sys2Proof.Machine

/-- Memory is in its canonical form. -/
def State.memOk (s : State) : Bool := Memory.wf s.mem

/-- The instruction answers a next state, of which `P` holds. -/
def Yields (i : Instr) (s : State) (P : State → Prop) : Prop := ∃ t, exec i s = .next t ∧ P t

/-- Every byte of memory reads as before. -/
def SameMemory (s t : State) : Prop := ∀ a, Bytes.get t.mem a = Bytes.get s.mem a

/-- Nothing but the acting hart differs: no memory, no other hart, no gang, no device register. -/
def OnlyHart (s t : State) : Prop := t = { s with hart := t.hart } ∧ SameMemory s t

/-- The instruction at pc is complete: pc is at the next word, the record is as given, and no loan, no half of a pair
word and no captured word is pending (R32, R35, R36). -/
def Hart.completed (h : Hart) (r : Option (BitVec 5)) : Hart :=
  { h with pc := h.pc + 4, last := r, loan := none, half := false, pairHeld := false, capture := none }

/-- The frame of an instruction whose one register result is x[d]: every other register and tag, every flag, every
control, trap and vector register of the hart is as before, the record names d, and pc may have changed. -/
def OnlyX (d : BitVec 5) (s t : State) : Prop :=
  OnlyHart s t ∧
  t.hart = { s.hart.completed (some d) with x := t.hart.x, tag := t.hart.tag, pc := t.hart.pc } ∧
  ∀ r, r ≠ d → t.hart.xr r = s.hart.xr r ∧ t.hart.tagOf r = s.hart.tagOf r

/-- x[d] holds the value and the tag; where d is x0 the write is discarded. -/
def HoldsX (h : Hart) (d : BitVec 5) (v : Word) (tag : Option (BitVec 16)) : Prop :=
  if d = 0 then h.xr 0 = 0 ∧ h.tagOf 0 = none else h.xr d = v ∧ h.tagOf d = tag

/-- The one result of an instruction is in x[d], and execution goes on at the next word. -/
def WritesX (d : BitVec 5) (v : Word) (tag : Option (BitVec 16)) (s t : State) : Prop :=
  OnlyX d s t ∧ HoldsX t.hart d v tag ∧ t.hart.pc = s.hart.pc + 4

/-- The instruction is complete and wrote no register: the record is invalid, and nothing else of the scalar state
of the hart differs but pc. -/
def OnlyPc (s t : State) : Prop :=
  OnlyHart s t ∧ t.hart = { s.hart.completed none with pc := t.hart.pc }

/-- The instruction waits: it has done nothing, and pc stands. -/
def Waits (w : Wait) (s t : State) : Prop := t = { s with hart := { s.hart with wait := some w } }

/-! ### Traps -/

/-- Every store of the hart has performed, and none of its packets is in flight. -/
def Settled (s : State) : Prop :=
  (∀ p ∈ s.stores, p.ctx.ser ≠ s.hart.ser) ∧
    ∀ p ∈ s.packets, p.stream ≠ .scalar s.hart.ser ∧ p.stream ≠ .vector s.hart.ser

/-- The hart can take a trap into the handler at once: it runs, out of handler mode, a handler is set, the host owes
it nothing, and what it has stored has performed. -/
def CanTrap (s : State) : Prop :=
  s.hart.life = .running ∧ s.hart.hm = false ∧ s.hart.hostBusy = false ∧ s.hvec ≠ 0 ∧ Settled s

/-- Bytes of a CSA (R370). -/
def contextBytes : Nat := 10496

/-- PFXSTATE for a pending loan, a pending h1 and a record (R37). -/
def prefixState (loan : Option Loan) (half : Bool) (last : Option (BitVec 5)) : Nat :=
  (match loan with
    | some l => 2 ^ 31 + l.k.toNat * 2 ^ 26 + l.dc.toNat * 2 ^ 25 + l.vdc.toNat * 2 ^ 20
    | none => 0) +
  half.toNat * 2 ^ 30 +
  (match last with
    | some r => 2 ^ 13 + r.toNat * 2 ^ 8
    | none => 0)

/-- The hart has entered the handler from a state in which its pc, record, loan and pending half were as given
(R363): the trap registers and PFXSTATE are written, HM is set, x1 to x31 are zero and untagged, the record is
invalid, VL is 1, VTYPE is 0x0026, and pc is HVEC. Beside the hart, only the bytes of its CSA have changed. -/
def EntersHandler (cause : Nat) (detail val pc : Word) (pfx : Nat) (s t : State) : Prop :=
  t = { s with hart := t.hart, mem := t.mem, macs := t.macs, lost := t.lost } ∧
  (Memory.wf s.mem = true → ∀ a, a < s.hart.csa.toNat ∨ s.hart.csa.toNat + contextBytes ≤ a →
    Bytes.get t.mem a = Bytes.get s.mem a) ∧
  t.hart.tcause = BitVec.ofNat 64 cause ∧ t.hart.tdetail = detail ∧ t.hart.tval = val ∧ t.hart.tpc = pc ∧
  t.hart.tctx = s.hart.csa.zeroExtend 64 ∧ t.hart.pfx = BitVec.ofNat 64 pfx ∧
  t.hart.hm = true ∧ (∀ r, t.hart.xr r = 0 ∧ t.hart.tagOf r = none) ∧ t.hart.last = none ∧ t.hart.loan = none ∧
  t.hart.half = false ∧ t.hart.vl = 1 ∧ t.hart.vtype = 0x0026 ∧ t.hart.pc = s.hvec ∧ t.hart.queue = [] ∧
  t.hart.fflags = s.hart.fflags ∧ t.hart.frm = s.hart.frm ∧ t.hart.seed = s.hart.seed ∧
  t.hart.ie = s.hart.ie ∧ t.hart.vreg = s.hart.vreg ∧ t.hart.kreg = s.hart.kreg ∧ t.hart.tile = s.hart.tile ∧
  t.hart.share = s.hart.share ∧ t.hart.vloc = s.hart.vloc ∧ t.hart.slottab = s.hart.slottab

/-- The hart takes a trap at the instruction itself. -/
def TrapsHere (cause : Nat) (detail val : Word) (s t : State) : Prop :=
  EntersHandler cause detail val s.hart.pc (prefixState s.hart.loan s.hart.half s.hart.last) s t

/-- The illegal-instruction trap (R20, R360): TVAL is the word at pc. -/
def TrapsIllegal (s t : State) : Prop := TrapsHere 1 0 (s.hart.iw.zeroExtend 64) s t

/-- The privileged-instruction trap (R20, R360). -/
def TrapsPrivileged (detail : Word) (s t : State) : Prop := TrapsHere 2 detail (s.hart.iw.zeroExtend 64) s t

/-! ### Scalar access to memory -/

/-- The address names memory of this device: HBM or the capacity tier (R200). -/
def LocalMemory (s : State) (a : Nat) : Prop :=
  (∃ st off, regionOf (s.canon a) = .hbm st off) ∨ (∃ p off, regionOf (s.canon a) = .tier p off)

/-- The hart acts at once: it runs, no answer to an access of it is due, and its stores perform as they execute, with
none pending (R211). -/
def Prompt (s : State) : Prop :=
  s.hart.life = .running ∧ s.hart.answer = none ∧ s.slow.contains s.hart.ser = false ∧
    ∀ p ∈ s.stores, p.ctx.ser ≠ s.hart.ser

/-- A scalar access of `n` bytes at an address through a register passes its probe with this slot (R225, R309). -/
def Passes (s : State) (r : BitVec 5) (a n : Nat) (need : BitVec 4) (ref : SlotRef) : Prop :=
  s.probe s.ctx ⟨slotIndex (s.hart.tagOf r), a, n, n, need, true, true, false⟩ = .ok ref

/-- No write that a forwarding entry holds overlaps the bytes, as far as it concerns the hart (R318). -/
def NoHeldWrite (s : State) (a n : Nat) : Prop := s.ctx.world = 0 ∨ s.heldOver (s.key s.hart.core a) n = false

/-- No forwarding entry is in MODE 1 over the address, as far as it concerns the hart (R318). -/
def NotHeldBack (s : State) (a : Nat) : Prop := s.ctx.world = 0 ∨ s.fwdAt 1 (s.key s.hart.core a) = none

/-- The place where the first byte of an access is performed: at NEW while an entry forwards (R318). -/
def performedAt (s : State) (a : Nat) : Nat := s.forward (s.key s.hart.core a)

/-- The number that bytes stand for, the least significant first (R5). -/
def littleEndian : List Byte → Nat
  | [] => 0
  | b :: t => b.toNat + 256 * littleEndian t

/-- Beside the hart, a load of local memory changes only the page counters of R206 and the event they post. -/
def CountsOnly (s t : State) : Prop :=
  t = { s with hart := t.hart, pages := t.pages, events := t.events, eventLost := t.eventLost } ∧ SameMemory s t

/-- Beside the hart, a store to local memory changes the bytes stored, their line MACs, the lines that a slice holds
dirty, and the page counters with their event. -/
def StoresOnly (p n : Nat) (s t : State) : Prop :=
  t = { s with hart := t.hart, mem := t.mem, macs := t.macs, lost := t.lost, dirty := t.dirty, pages := t.pages,
               events := t.events, eventLost := t.eventLost } ∧
  ∀ a, a < p ∨ p + n ≤ a → Bytes.get t.mem a = Bytes.get s.mem a

end Sys2Proof.Machine
end

