-- ==== Sys2Proof/Certificates/Slice0/Obligations.lean ====
section
/-! DEFINITION. The statements about the machine, in the order of the parts of the spec: what each speaks of first,
then the statements. -/

namespace Sys2Proof.Claims
open Sys2Proof Sys2Proof.Machine

/-! ### Scalar results, from the tables of R118 to R121 -/

/-- Wrap(64, v) (R93). -/
def wrap64 (v : Int) : Word := BitVec.ofInt 64 v

/-- The tag of a sum in the table of R114. -/
def sumTag (x y : Option (BitVec 16)) : Option (BitVec 16) :=
  if y = none then x else if x = none then y else none

/-- The tag of a difference in the table of R114. -/
def differenceTag (x y : Option (BitVec 16)) : Option (BitVec 16) := if y = none then x else none

/-- Destination, value and tag of a register-register instruction of major 0x01 with a value given by a formula of
R118. -/
def binaryResult (i : Instr) (h : Hart) : Option (BitVec 5 × Word × Option (BitVec 16)) :=
  let sg (r : BitVec 5) : Int := (h.xr r).toInt
  let un (r : BitVec 5) : Int := ((h.xr r).toNat : Int)
  let sh (r : BitVec 5) : Nat := (h.xr r).toNat % 64
  match i with
  | .add d a b => some (d, wrap64 (sg a + sg b), sumTag (h.tagOf a) (h.tagOf b))
  | .sub d a b => some (d, wrap64 (sg a - sg b), differenceTag (h.tagOf a) (h.tagOf b))
  | .and d a b => some (d, h.xr a &&& h.xr b, none)
  | .or d a b => some (d, h.xr a ||| h.xr b, none)
  | .xor d a b => some (d, h.xr a ^^^ h.xr b, none)
  | .sll d a b => some (d, wrap64 (un a * 2 ^ sh b), none)
  | .srl d a b => some (d, wrap64 (un a / 2 ^ sh b), none)
  | .sra d a b => some (d, wrap64 (sg a / 2 ^ sh b), none)
  | .slt d a b => some (d, if sg a < sg b then 1 else 0, none)
  | .sltu d a b => some (d, if un a < un b then 1 else 0, none)
  | .min d a b => some (d, wrap64 (min (sg a) (sg b)), none)
  | .max d a b => some (d, wrap64 (max (sg a) (sg b)), none)
  | .mul d a b => some (d, wrap64 (sg a * sg b), none)
  | .mulh d a b => some (d, wrap64 (sg a * sg b / 2 ^ 64), none)
  | .mulhu d a b => some (d, wrap64 (un a * un b / 2 ^ 64), none)
  | .sextb d a => some (d, wrap64 (((h.xr a).setWidth 8).toInt), none)
  | .sexth d a => some (d, wrap64 (((h.xr a).setWidth 16).toInt), none)
  | .sextw d a => some (d, wrap64 (((h.xr a).setWidth 32).toInt), none)
  | .zexth d a => some (d, wrap64 (un a % 2 ^ 16), none)
  | .zextw d a => some (d, wrap64 (un a % 2 ^ 32), none)
  | _ => none

/-- Destination and value of a division (R119). -/
def divisionResult (i : Instr) (h : Hart) : Option (BitVec 5 × Word) :=
  let sg (r : BitVec 5) : Int := (h.xr r).toInt
  let un (r : BitVec 5) : Int := ((h.xr r).toNat : Int)
  match i with
  | .div d a b => some (d, if sg b = 0 then 0xFFFFFFFFFFFFFFFF
      else if sg a = -2 ^ 63 ∧ sg b = -1 then wrap64 (-2 ^ 63) else wrap64 ((sg a).tdiv (sg b)))
  | .divu d a b => some (d, if un b = 0 then 0xFFFFFFFFFFFFFFFF else wrap64 (un a / un b))
  | .rem d a b => some (d, if sg b = 0 then h.xr a
      else if sg a = -2 ^ 63 ∧ sg b = -1 then 0 else wrap64 (sg a - sg b * (sg a).tdiv (sg b)))
  | .remu d a b => some (d, if un b = 0 then h.xr a else wrap64 (un a - un b * (un a / un b)))
  | _ => none

/-- Destination, value and tag of an immediate instruction (R120, R121). -/
def immediateResult (i : Instr) (h : Hart) : Option (BitVec 5 × Word × Option (BitVec 16)) :=
  let sg (r : BitVec 5) : Int := (h.xr r).toInt
  let un (r : BitVec 5) : Int := ((h.xr r).toNat : Int)
  match i with
  | .addi d a n => some (d, wrap64 (sg a + n.toInt), h.tagOf a)
  | .andi d a n => some (d, h.xr a &&& wrap64 n.toInt, none)
  | .ori d a n => some (d, h.xr a ||| wrap64 n.toInt, none)
  | .slli d a n => some (d, wrap64 (un a * 2 ^ n.toNat), none)
  | .srli d a n => some (d, wrap64 (un a / 2 ^ n.toNat), none)
  | .srai d a n => some (d, wrap64 (sg a / 2 ^ n.toNat), none)
  | .lui d n => some (d, wrap64 (n.toInt * 2 ^ 16), none)
  | .auipc d n => some (d, wrap64 ((h.pc.toNat : Int) + n.toInt * 2 ^ 16), none)
  | _ => none

/-- Destination and operand of a bit count (R118). -/
def countOperand (i : Instr) (h : Hart) : Option (BitVec 5 × Word) :=
  match i with
  | .clz d a | .ctz d a | .popc d a => some (d, h.xr a)
  | _ => none

/-- Is n the count that R118 gives? -/
def isCount (i : Instr) (a : Word) (n : Nat) : Prop :=
  match i with
  | .clz _ _ => n ≤ 64 ∧ (∀ k, k < n → a.getLsbD (63 - k) = false) ∧ (n < 64 → a.getLsbD (63 - n) = true)
  | .ctz _ _ => n ≤ 64 ∧ (∀ k, k < n → a.getLsbD k = false) ∧ (n < 64 → a.getLsbD n = true)
  | _ => n = ((List.range 64).map fun k => (a.getLsbD k).toNat).sum

/-- R118: add, sub, and, or, xor, the shifts, slt, sltu, min, max, the multiplies and the extensions write their one
result, with the tag of R114, and change nothing else. -/
def ScalarRegisterResults : Prop :=
  ∀ (i : Instr) (s : State) (d : BitVec 5) (v : Word) (tag : Option (BitVec 16)),
    binaryResult i s.hart = some (d, v, tag) → Yields i s (WritesX d v tag s)

/-- R119: division never traps, gives the stated results for every divisor, and changes nothing else. -/
def DivisionResults : Prop :=
  ∀ (i : Instr) (s : State) (d : BitVec 5) (v : Word),
    divisionResult i s.hart = some (d, v) → Yields i s (WritesX d v none s)

/-- R119: for every divisor, q × b + r equals a modulo 2^64. -/
def DivisionIdentity : Prop :=
  ∀ (s t u : State) (d e a b : BitVec 5), d ≠ 0 → e ≠ 0 →
    (exec (.div d a b) s = .next t → exec (.rem e a b) s = .next u →
      t.hart.xr d * s.hart.xr b + u.hart.xr e = s.hart.xr a) ∧
    (exec (.divu d a b) s = .next t → exec (.remu e a b) s = .next u →
      t.hart.xr d * s.hart.xr b + u.hart.xr e = s.hart.xr a)

/-- R118: clz, ctz and popc. -/
def BitCounts : Prop :=
  ∀ (i : Instr) (s : State) (d : BitVec 5) (a : Word), countOperand i s.hart = some (d, a) →
    ∃ n, isCount i a n ∧ Yields i s (WritesX d (BitVec.ofNat 64 n) none s)

/-! ### Scalar floating point (R126 to R131) -/

/-- Destination, value and flags of an instruction of major 0x02: each is computed in the mode of FRM with rnd(0) of
SEED, from operands that are whole registers for FP64 and bits [31:0] for FP32. -/
def floatResult (i : Instr) (h : Hart) : Option (BitVec 5 × Nat × Flags) :=
  let m := RMode.ofCode h.frm.toNat
  let r := rndWord h.seed 0
  let d64 (x : BitVec 5) : Nat := (h.xr x).toNat
  let d32 (x : BitVec 5) : Nat := (h.xr x).toNat % 2 ^ 32
  let bool (p : Bool × Flags) : Nat × Flags := (if p.1 then 1 else 0, p.2)
  match i with
  | .faddd d a b => some (d, Fmt.fp64.add m r (d64 a) (d64 b))
  | .fsubd d a b => some (d, Fmt.fp64.sub m r (d64 a) (d64 b))
  | .fmuld d a b => some (d, Fmt.fp64.mul m r (d64 a) (d64 b))
  | .fdivd d a b => some (d, Fmt.fp64.div m r (d64 a) (d64 b))
  | .fsqrtd d a => some (d, Fmt.fp64.sqrt m r (d64 a))
  | .fmad d a b => some (d, Fmt.fp64.fma m r (d64 a) (d64 b) (d64 d))
  | .fmind d a b => some (d, Fmt.fp64.minmax false (d64 a) (d64 b))
  | .fmaxd d a b => some (d, Fmt.fp64.minmax true (d64 a) (d64 b))
  | .feqd d a b => some (d, bool (Fmt.fp64.compare .eq (d64 a) (d64 b)))
  | .fltd d a b => some (d, bool (Fmt.fp64.compare .lt (d64 a) (d64 b)))
  | .fled d a b => some (d, bool (Fmt.fp64.compare .le (d64 a) (d64 b)))
  | .fadds d a b => some (d, Fmt.fp32.add m r (d32 a) (d32 b))
  | .fmuls d a b => some (d, Fmt.fp32.mul m r (d32 a) (d32 b))
  | .fmas d a b => some (d, Fmt.fp32.fma m r (d32 a) (d32 b) (d32 d))
  | .fcvtsd d a => some (d, Fmt.fp64.convert .fp32 m r (d64 a))
  | .fcvtds d a => some (d, Fmt.fp32.convert .fp64 m r (d32 a))
  | .fcvtld d a =>
    let v := Fmt.fp64.toInt m r (-2 ^ 63) (2 ^ 63 - 1) (d64 a)
    some (d, (v.1 % 2 ^ 64).toNat, v.2)
  | .fcvtdl d a => some (d, Fmt.fp64.ofInt m r (h.xr a).toInt)
  | _ => none

/-- One floating result: x[d], untagged; the flags are sticky; SEED advances by one under SR alone; nothing else
changes but pc and the record. -/
def FloatWrites (d : BitVec 5) (v : Nat) (fl : Flags) (s t : State) : Prop :=
  OnlyHart s t ∧
  t.hart = { s.hart.completed (some d) with
    x := t.hart.x, tag := t.hart.tag
    fflags := s.hart.fflags ||| fl, seed := if s.hart.frm = 5 then s.hart.seed + 1 else s.hart.seed } ∧
  (∀ r, r ≠ d → t.hart.xr r = s.hart.xr r ∧ t.hart.tagOf r = s.hart.tagOf r) ∧
  HoldsX t.hart d (BitVec.ofNat 64 v) none

/-- Is an FP64 encoding a NaN, and is it signalling? -/
def nan64 (x : Word) : Bool := decide (x.toNat / 2 ^ 52 % 2 ^ 11 = 2047 ∧ x.toNat % 2 ^ 52 ≠ 0)

def snan64 (x : Word) : Bool := nan64 x && decide (x.toNat / 2 ^ 51 % 2 = 0)

/-- A number that orders the FP64 encodings that are no NaN as their values, −0 and +0 alike. -/
def order64 (x : Word) : Int :=
  if x.toNat < 2 ^ 63 then (x.toNat : Int) else -((x.toNat : Int) - 2 ^ 63)

/-- The same, with −0 below +0. -/
def strict64 (x : Word) : Int :=
  if x.toNat < 2 ^ 63 then (x.toNat : Int) else -((x.toNat : Int) - 2 ^ 63) - 1

/-! ### Control flow (R122 to R125) -/

/-- Condition and offset of a compare-and-branch instruction. -/
def branchOf (i : Instr) (h : Hart) : Option (Bool × BitVec 16) :=
  let sg (r : BitVec 5) : Int := (h.xr r).toInt
  let un (r : BitVec 5) : Nat := (h.xr r).toNat
  match i with
  | .beq a b o => some (decide (h.xr a = h.xr b), o)
  | .bne a b o => some (decide (h.xr a ≠ h.xr b), o)
  | .blt a b o => some (decide (sg a < sg b), o)
  | .bge a b o => some (decide (sg a ≥ sg b), o)
  | .bltu a b o => some (decide (un a < un b), o)
  | .bgeu a b o => some (decide (un a ≥ un b), o)
  | _ => none

/-- The target of R23: the address of the instruction plus four times the signed offset. -/
def target (pc : Word) (o : Int) : Word := BitVec.ofInt 64 ((pc.toNat : Int) + 4 * o)

/-! ### Compact operations (R34, R35, R50) -/

/-- Destination, value and tag of a compact operation whose carried source is an operand. -/
def compactResult (i : Instr) (h : Hart) (l : Operand) : Option (BitVec 5 × Word × Option (BitVec 16)) :=
  let n (e : BitVec 3) : Int := (e.toNat : Int)
  let x (e : BitVec 3) : Word := h.xr (BitVec.ofNat 5 e.toNat)
  let tg (e : BitVec 3) : Option (BitVec 16) := h.tagOf (BitVec.ofNat 5 e.toNat)
  match i with
  | .cmov d => some (d, l.val, l.tag)
  | .caddi d e => some (d, BitVec.ofInt 64 (l.val.toInt + n e), l.tag)
  | .csubi d e => some (d, BitVec.ofInt 64 (l.val.toInt - n e), l.tag)
  | .cslli d e => some (d, l.val <<< e.toNat, none)
  | .csrli d e => some (d, l.val >>> e.toNat, none)
  | .csrai d e => some (d, BitVec.ofInt 64 (l.val.toInt / 2 ^ e.toNat), none)
  | .candi d e => some (d, l.val &&& BitVec.ofNat 64 e.toNat, none)
  | .cadd d e => some (d, l.val + x e, if tg e = none then l.tag else if l.tag = none then tg e else none)
  | .csub d e => some (d, l.val - x e, if tg e = none then l.tag else none)
  | .cand d e => some (d, l.val &&& x e, none)
  | .cor d e => some (d, l.val ||| x e, none)
  | .cxor d e => some (d, l.val ^^^ x e, none)
  | _ => none

/-- Is the instruction a compact operation? -/
def isCompact (i : Instr) : Bool := (encodeHalf i).isSome

/-- The state at the stirrup word that stands before pc, whose word is `w`, with no loan (R32). -/
def atStirrup (s : State) (w : BitVec 32) : State :=
  { s with hart := { s.hart with loan := none, pc := s.hart.pc - 4, iw := w } }

/-- R130: feqd, fltd and fled compare the FP64 values; −0 equals +0; a NaN compares false; feqd raises NV for a
signalling NaN, fltd and fled for any NaN. -/
def FloatCompares : Prop :=
  ∀ (s : State) (d a b : BitVec 5),
    let x := s.hart.xr a
    let y := s.hart.xr b
    let nan := nan64 x || nan64 y
    let quiet : Flags := if snan64 x || snan64 y then Flags.nv else 0
    let loud : Flags := if nan then Flags.nv else 0
    Yields (.feqd d a b) s (FloatWrites d (if !nan ∧ order64 x = order64 y then 1 else 0) quiet s) ∧
    Yields (.fltd d a b) s (FloatWrites d (if !nan ∧ order64 x < order64 y then 1 else 0) loud s) ∧
    Yields (.fled d a b) s (FloatWrites d (if !nan ∧ order64 x ≤ order64 y then 1 else 0) loud s)

/-- R129: fmind and fmaxd. -/
def FloatMinMax : Prop :=
  ∀ (s : State) (d a b : BitVec 5),
    let x := s.hart.xr a
    let y := s.hart.xr b
    let fl : Flags := if snan64 x || snan64 y then Flags.nv else 0
    let pick (low : Bool) : Word :=
      if nan64 x ∧ nan64 y then 0x7FF8000000000000
      else if nan64 x then y
      else if nan64 y then x
      else if decide (strict64 x < strict64 y) = low then x else y
    Yields (.fmind d a b) s (FloatWrites d (pick true).toNat fl s) ∧
    Yields (.fmaxd d a b) s (FloatWrites d (pick false).toNat fl s)

/-- R122: a branch goes to its target when its condition holds, else to the next word; it writes no register. -/
def Branches : Prop :=
  ∀ (i : Instr) (s : State) (c : Bool) (o : BitVec 16), branchOf i s.hart = some (c, o) →
    Yields i s fun t => OnlyPc s t ∧ t.hart.pc = if c then target s.hart.pc o.toInt else s.hart.pc + 4

/-- R123: bcnt writes x[xa] − 1 with the tag of xa kept, and branches while it is not 0; with xa = 0 it takes the
illegal-instruction trap. -/
def CountedLoop : Prop :=
  ∀ (a : BitVec 5) (o : BitVec 16) (s : State),
    (a ≠ 0 → Yields (.bcnt a o) s fun t => OnlyX a s t ∧ HoldsX t.hart a (s.hart.xr a - 1) (s.hart.tagOf a) ∧
      t.hart.pc = if s.hart.xr a - 1 ≠ 0 then target s.hart.pc o.toInt else s.hart.pc + 4) ∧
    (a = 0 → CanTrap s → Yields (.bcnt a o) s (TrapsIllegal s))

/-- R31, R33: the stirrup word lends its mask and copy register to the next word; it writes no register and leaves
the record. -/
def StirrupLends : Prop :=
  ∀ (s : State) (k : BitVec 4) (v : BitVec 5),
    (Yields (.stir k) s fun t => OnlyHart s t ∧
      t.hart = { s.hart with pc := s.hart.pc + 4, loan := some ⟨k, false, 0⟩ }) ∧
    (Yields (.stirCopy k v) s fun t => OnlyHart s t ∧
      t.hart = { s.hart with pc := s.hart.pc + 4, loan := some ⟨k, true, v⟩ })

/-- R35, R36, R50: a compact operation reads the register that the record names. As h0 it leaves pc with h1 pending,
which executes from the word as fetched; as h1 it completes the word. Both set the record to d. Without a valid record it is illegal. -/
def CompactOperations : Prop :=
  ∀ (i : Instr) (s : State), isCompact i = true →
    (∀ (l d : BitVec 5) (v : Word) (tag : Option (BitVec 16)), s.hart.last = some l →
      compactResult i s.hart (s.hart.operand l) = some (d, v, tag) →
      Yields i s fun t => OnlyHart s t ∧
        t.hart = { (if s.hart.half then s.hart.completed (some d)
            else { s.hart with last := some d, loan := none, half := true, pairHeld := true }) with
          x := t.hart.x, tag := t.hart.tag } ∧
        (∀ r, r ≠ d → t.hart.xr r = s.hart.xr r ∧ t.hart.tagOf r = s.hart.tagOf r) ∧
        HoldsX t.hart d v tag) ∧
    (s.hart.last = none → CanTrap s → Yields i s (TrapsIllegal s))

/-! ### Scalar loads, stores and atomics (R225 to R228, R235) -/

/-- Bytes, signedness, destination, base and offset of a scalar load. -/
def loadOf (i : Instr) : Option (Nat × Bool × BitVec 5 × BitVec 5 × BitVec 16) :=
  match i with
  | .lb d a o => some (1, true, d, a, o)
  | .lbu d a o => some (1, false, d, a, o)
  | .lh d a o => some (2, true, d, a, o)
  | .lhu d a o => some (2, false, d, a, o)
  | .lw d a o => some (4, true, d, a, o)
  | .lwu d a o => some (4, false, d, a, o)
  | .ld d a o => some (8, false, d, a, o)
  | _ => none

/-- Bytes, source, base and offset of a scalar store. -/
def storeOf (i : Instr) : Option (Nat × BitVec 5 × BitVec 5 × BitVec 16) :=
  match i with
  | .sb d a o => some (1, d, a, o)
  | .sh d a o => some (2, d, a, o)
  | .sw d a o => some (4, d, a, o)
  | .sd d a o => some (8, d, a, o)
  | _ => none

/-- Wrap(64, x[xa] + sext(imm16)) (R225). -/
def accessAddress (h : Hart) (a : BitVec 5) (o : BitVec 16) : Nat :=
  (BitVec.ofInt 64 ((h.xr a).toInt + o.toInt)).toNat

/-- The value that a load writes. -/
def loadedValue (n : Nat) (signed : Bool) (bs : List Byte) : Word :=
  let v := littleEndian bs
  if signed ∧ 2 ^ (8 * n - 1) ≤ v then BitVec.ofInt 64 ((v : Int) - 2 ^ (8 * n)) else BitVec.ofNat 64 v

/-- Destination, base, operand, scope, and new word of a scalar atomic from the old word M; none where nothing is
written. -/
def atomicOf (i : Instr) (h : Hart) : Option (BitVec 5 × BitVec 5 × (Word → Option Word)) :=
  let x (r : BitVec 5) : Word := h.xr r
  match i with
  | .amoadd d a b _ => some (d, a, fun m => some (m + x b))
  | .amomin d a b _ => some (d, a, fun m => some (BitVec.ofInt 64 (min m.toInt (x b).toInt)))
  | .amomax d a b _ => some (d, a, fun m => some (BitVec.ofInt 64 (max m.toInt (x b).toInt)))
  | .amoand d a b _ => some (d, a, fun m => some (m &&& x b))
  | .amoor d a b _ => some (d, a, fun m => some (m ||| x b))
  | .amoxor d a b _ => some (d, a, fun m => some (m ^^^ x b))
  | .amoswap d a b _ => some (d, a, fun _ => some (x b))
  | .amocas d a b _ => some (d, a, fun m => if m = x d then some (x b) else none)
  | _ => none

/-- R225, R228: a scalar load of local memory that passes its probe, and whose lines pass their check, writes the
bytes read, extended as its row says, to xd untagged; nothing is stored. Where the hart has pending stores,
ScalarLoadsSeeStores says what happens first. -/
def ScalarLoads : Prop :=
  ∀ (i : Instr) (s : State) (n : Nat) (signed : Bool) (d a : BitVec 5) (o : BitVec 16) (ref : SlotRef)
    (bs : List Byte),
    loadOf i = some (n, signed, d, a, o) →
    s.hart.life = .running → s.hart.answer = none → (∀ p ∈ s.stores, p.ctx.ser ≠ s.hart.ser) →
    Passes s a (accessAddress s.hart a o) n needRead ref →
    LocalMemory s (accessAddress s.hart a o) →
    NoHeldWrite s (accessAddress s.hart a o) n →
    s.readBytes s.ctx ref.word (accessAddress s.hart a o) n = some bs →
    Yields i s fun t => CountsOnly s t ∧
      t.hart = { s.hart.completed (some d) with x := t.hart.x, tag := t.hart.tag } ∧
      (∀ r, r ≠ d → t.hart.xr r = s.hart.xr r ∧ t.hart.tagOf r = s.hart.tagOf r) ∧
      HoldsX t.hart d (loadedValue n signed bs) none

/-- R211: while a pending store of the hart overlaps the bytes of a scalar load, the load is as one of the state in which
every pending store of the hart has performed, oldest first; where none overlaps, it does not wait for them. That an overlap
makes all of them perform is the model's (log entry 19). -/
def ScalarLoadsSeeStores : Prop :=
  ∀ (i : Instr) (s : State) (n : Nat) (signed : Bool) (d a : BitVec 5) (o : BitVec 16),
    loadOf i = some (n, signed, d, a, o) →
    let b := accessAddress s.hart a o
    ((∃ p ∈ s.stores, p.ctx.ser = s.hart.ser ∧ s.canon p.addr < s.canon b + n ∧ s.canon b < s.canon p.addr + p.data.length) →
      let u := (s.stores.filter fun p => p.ctx.ser == s.hart.ser).foldl State.performStore
        { s with stores := s.stores.filter fun p => !(p.ctx.ser == s.hart.ser) }
      u.hart.life = .running → u.hart.x = s.hart.x → u.hart.tag = s.hart.tag → u.hart.ser = s.hart.ser →
      (∀ p ∈ u.stores, p.ctx.ser ≠ u.hart.ser) → exec i s = exec i u) ∧
    (∀ (ref : SlotRef) (bs : List Byte), s.hart.life = .running → s.hart.answer = none →
      (∀ p ∈ s.stores, p.ctx.ser = s.hart.ser →
        s.canon p.addr + p.data.length ≤ s.canon b ∨ s.canon b + n ≤ s.canon p.addr) →
      Passes s a b n needRead ref → LocalMemory s b → NoHeldWrite s b n →
      s.readBytes s.ctx ref.word b n = some bs →
      Yields i s fun t => CountsOnly s t ∧ HoldsX t.hart d (loadedValue n signed bs) none)

/-- R225, R228: a scalar store to local memory that passes its probe writes the low bytes of xd at the place of its
address and no other byte; it writes no register. Through a slot of KEYID 0 the bytes stand in memory as written. The
hart is one whose stores perform as they execute, and the line passes its check. -/
def ScalarStores : Prop :=
  ∀ (i : Instr) (s : State) (n : Nat) (d a : BitVec 5) (o : BitVec 16) (ref : SlotRef),
    storeOf i = some (n, d, a, o) →
    Prompt s →
    Memory.wf s.mem = true →
    Passes s a (accessAddress s.hart a o) n needWrite ref →
    LocalMemory s (accessAddress s.hart a o) →
    NotHeldBack s (accessAddress s.hart a o) →
    (s.readBytes s.ctx ref.word (accessAddress s.hart a o) n).isSome = true →
    Yields i s fun t => StoresOnly (performedAt s (accessAddress s.hart a o)) n s t ∧
      t.hart = s.hart.completed none ∧
      (ref.word.keyid = 0 → ∀ k, k < n →
        Bytes.get t.mem (performedAt s (accessAddress s.hart a o) + k) =
          BitVec.ofNat 8 ((s.hart.xr d).toNat / 256 ^ k))

/-- R211, R214: a scalar store of a hart whose stores perform later than they execute (log entry 19), or that has a store
pending, changes no byte of memory: it becomes the youngest pending store, with its slot word, address and bytes, and
the hart goes on. A fence then waits until no store is pending. -/
def PendingStores : Prop :=
  (∀ (i : Instr) (s : State) (n : Nat) (d a : BitVec 5) (o : BitVec 16) (ref : SlotRef),
    storeOf i = some (n, d, a, o) → s.hart.answer = none →
    (s.slow.contains s.hart.ser = true ∨ ∃ p ∈ s.stores, p.ctx.ser = s.hart.ser) →
    Passes s a (accessAddress s.hart a o) n needWrite ref →
    LocalMemory s (accessAddress s.hart a o) →
    Yields i s fun t => t.hart = s.hart.completed none ∧ ∃ bs : List Byte,
      bs.length = n ∧ (∀ k, k < n → bs.getD k 0 = BitVec.ofNat 8 ((s.hart.xr d).toNat / 256 ^ k)) ∧
      t = { s with hart := t.hart, stores := s.stores ++ [⟨s.ctx, ref.word, accessAddress s.hart a o, bs⟩] }) ∧
  (∀ (i : Instr) (s : State), i ∈ [Instr.fence, .fenceSv, .fenceVs, .fenceSvVs] →
    (∃ p ∈ s.stores, p.ctx.ser = s.hart.ser) → Yields i s (Waits .fence s))

/-- R318: while a forwarding entry is in MODE 1 over its address, a store of a tenant to local memory is held: no byte
of memory changes, and the hart goes on. -/
def HeldStores : Prop :=
  ∀ (i : Instr) (s : State) (n : Nat) (d a : BitVec 5) (o : BitVec 16) (ref : SlotRef) (e : Nat) (f : FwdEntry),
    storeOf i = some (n, d, a, o) →
    Prompt s →
    Passes s a (accessAddress s.hart a o) n needWrite ref →
    LocalMemory s (accessAddress s.hart a o) →
    s.ctx.world ≠ 0 → s.fwdAt 1 (s.key s.hart.core (accessAddress s.hart a o)) = some (e, f) →
    Yields i s fun t => SameMemory s t ∧
      t = { s with hart := t.hart, held := t.held } ∧
      t.hart = s.hart.completed none ∧
      ∃ w, t.held = s.held ++ [⟨e, .scalar s.hart.ser, w, none⟩] ∧ w.data.length = n ∧
        w.key = s.key s.hart.core (accessAddress s.hart a o)

/-- R318: a tenant's scalar atomic on a word that a forwarding entry in MODE 1 covers is held at the slice with its
operands: nothing is written, and the hart waits for the slice; when the slice has answered with the old word, the
instruction completes and writes it to xd, untagged. That the hart waits until the slice has answered, and that the answer
keeps for the instruction through a stop, is the model's reading (log entries 38 and 108). -/
def HeldAtomics : Prop :=
  ∀ (i : Instr) (s : State) (d a : BitVec 5) (f : Word → Option Word) (ref : SlotRef) (e : Nat) (x : FwdEntry),
    atomicOf i s.hart = some (d, a, f) →
    let id : AmoId := ⟨s.hart.ser, s.hart.pc, none⟩
    (Passes s a (s.hart.xr a).toNat 8 needAtomic ref → LocalMemory s (s.hart.xr a).toNat →
      s.hart.answer = none → s.ctx.world ≠ 0 → s.fwdAt 1 (s.key s.hart.core (s.hart.xr a).toNat) = some (e, x) →
      s.amoHeld id = false → s.owedTo id = none →
      Yields i s fun t => t = { s with hart := { s.hart with wait := some .slice }, held := t.held } ∧
        ∃ w q, t.held = s.held ++ [⟨e, .scalar s.hart.ser, w, some q⟩] ∧ w.data.length = 8 ∧
          w.key = s.key s.hart.core (s.hart.xr a).toNat ∧ q.who = some id ∧
          ∀ m : Word, q.apply 8 m.toNat = (f m).map BitVec.toNat) ∧
    (s.amoHeld id = true → s.owedTo id = none → Yields i s (Waits .slice s)) ∧
    (∀ bs, s.owedTo id = some bs → bs.length = 8 →
      Yields i s fun t => t = { s with hart := t.hart, owed := s.owed.filter fun p => p.1 != id } ∧
        t.hart = { s.hart.completed (some d) with x := t.hart.x, tag := t.hart.tag } ∧
        (∀ r, r ≠ d → t.hart.xr r = s.hart.xr r ∧ t.hart.tagOf r = s.hart.tagOf r) ∧
        HoldsX t.hart d (BitVec.ofNat 64 (littleEndian bs)) none)

/-- R225, R235: a scalar atomic on local memory that passes its probe writes the old word to xd untagged, and the new
word, if any, at the place of its address and nowhere else. -/
def ScalarAtomics : Prop :=
  ∀ (i : Instr) (s : State) (d a : BitVec 5) (f : Word → Option Word) (ref : SlotRef) (bs : List Byte),
    atomicOf i s.hart = some (d, a, f) →
    s.hart.life = .running → s.hart.answer = none →
    Memory.wf s.mem = true →
    s.amoHeld ⟨s.hart.ser, s.hart.pc, none⟩ = false → s.owedTo ⟨s.hart.ser, s.hart.pc, none⟩ = none →
    Passes s a (s.hart.xr a).toNat 8 needAtomic ref →
    LocalMemory s (s.hart.xr a).toNat →
    NoHeldWrite s (s.hart.xr a).toNat 8 → NotHeldBack s (s.hart.xr a).toNat →
    s.readBytes s.ctx ref.word (s.hart.xr a).toNat 8 = some bs →
    let m : Word := BitVec.ofNat 64 (littleEndian bs)
    Yields i s fun t => StoresOnly (performedAt s (s.hart.xr a).toNat) 8 s t ∧
      t.hart = { s.hart.completed (some d) with x := t.hart.x, tag := t.hart.tag } ∧
      (∀ r, r ≠ d → t.hart.xr r = s.hart.xr r ∧ t.hart.tagOf r = s.hart.tagOf r) ∧
      HoldsX t.hart d m none ∧
      (f m = none → SameMemory s t) ∧
      (∀ v, f m = some v → ref.word.keyid = 0 → ∀ k, k < 8 →
        Bytes.get t.mem (performedAt s (s.hart.xr a).toNat + k) = BitVec.ofNat 8 (v.toNat / 256 ^ k))

/-- R227, R361: a scalar load or store whose probe fails with a detail takes the access fault with that detail and
its address, with no register and no byte of memory written but the CSA; a hart of a tenant traps so for the details
that do not quarantine it. -/
def ScalarAccessFaults : Prop :=
  ∀ (i : Instr) (s : State) (n : Nat) (a : BitVec 5) (o : BitVec 16) (need : BitVec 4) (detail : Nat),
    ((∃ sg d, loadOf i = some (n, sg, d, a, o) ∧ need = needRead) ∨
      (∃ d, storeOf i = some (n, d, a, o) ∧ need = needWrite)) →
    CanTrap s →
    s.probe s.ctx ⟨slotIndex (s.hart.tagOf a), accessAddress s.hart a o, n, n, need, true, true, false⟩ =
      .error detail →
    (s.hart.wid = 0 ∧ detail < 16 ∨ detail = 1 ∨ detail = 2 ∨ detail = 5) →
    Yields i s (TrapsHere 5 (BitVec.ofNat 64 detail) (BitVec.ofNat 64 (accessAddress s.hart a o)) s)

/-- R361: a scalar access of a tenant that fails for bounds, rights, key, window or index quarantines its context
at once; no register is written, and the hart is not in handler mode. -/
def TenantViolations : Prop :=
  ∀ (i : Instr) (s : State) (n : Nat) (a : BitVec 5) (o : BitVec 16) (need : BitVec 4) (detail : Nat),
    ((∃ sg d, loadOf i = some (n, sg, d, a, o) ∧ need = needRead) ∨
      (∃ d, storeOf i = some (n, d, a, o) ∧ need = needWrite)) →
    CanTrap s → s.hart.wid ≠ 0 →
    s.probe s.ctx ⟨slotIndex (s.hart.tagOf a), accessAddress s.hart a o, n, n, need, true, true, false⟩ =
      .error detail →
    detail ∈ [3, 4, 6, 7, 8] →
    Yields i s fun t => t.hart.life = .quarantined ∧ t.hart.hm = false ∧ t.hart.x = s.hart.x ∧
      t.hart.ser = s.hart.ser ∧ t.others = s.others

/-- R309, R227: the probe answers the first detail of the table that fails, in the order misaligned, unpopulated, index,
bounds, rights, absent, key, window, and passes with the slot word where none fails. The model adds two answers in their
places: a line of the slot table that cannot be read has its own answer before index (log entry 126), and a place at the
host that the access may not reach fails as rights (R228, R235, R315). -/
def ProbeOrder : Prop :=
  ∀ (s : State) (c : Ctx) (acc : Access),
    let misaligned := acc.a % acc.align ≠ 0
    let unpopulated := s.populated acc.a acc.n = false
    let lost := s.slotLost c.core c.table acc.idx
    let word := s.slotWordAt c.core c.table acc.idx
    let found := ¬ misaligned ∧ ¬ unpopulated ∧ lost = none
    (s.probe c acc = .error 1 ↔ misaligned) ∧
    (s.probe c acc = .error 2 ↔ ¬ misaligned ∧ unpopulated) ∧
    (∀ l, s.probe c acc = .error (16 + l) ↔ ¬ misaligned ∧ ¬ unpopulated ∧ lost = some l) ∧
    (s.probe c acc = .error 8 ↔ found ∧ word = none) ∧
    (∀ ref, s.probe c acc = .ok ref → word = some ref.word ∧ ref.index = acc.idx) ∧
    ∀ w, word = some w →
      let beyond := acc.a < w.lo ∨ w.lo + w.len.toNat < acc.a + acc.n
      let lacks := (∃ b, acc.need.getLsbD b = true ∧ w.rights.getLsbD b = false) ∨
        acc.hostOk = false ∧ ∃ bus, regionOf (s.canon acc.a) = .host bus
      let absent := w.state = 1 ∨ s.gone acc.a acc.n = true
      let locked := acc.raw = false ∧ s.keyAvailable c w acc.a = false
      let closed := ∃ off, regionOf (s.canon acc.a) = .window off ∧ windowAllowed c acc off = false
      (s.probe c acc = .error 3 ↔ found ∧ beyond) ∧
      (s.probe c acc = .error 4 ↔ found ∧ ¬ beyond ∧ lacks) ∧
      (s.probe c acc = .error 5 ↔ found ∧ ¬ beyond ∧ ¬ lacks ∧ absent) ∧
      (s.probe c acc = .error 6 ↔ found ∧ ¬ beyond ∧ ¬ lacks ∧ ¬ absent ∧ locked) ∧
      (s.probe c acc = .error 7 ↔ found ∧ ¬ beyond ∧ ¬ lacks ∧ ¬ absent ∧ ¬ locked ∧ closed) ∧
      (s.probe c acc = .ok ⟨acc.idx, w⟩ ↔ found ∧ ¬ beyond ∧ ¬ lacks ∧ ¬ absent ∧ ¬ locked ∧ ¬ closed)

/-- R312, R313, R314: the slot and pointer instructions that write a register, where the line of the slot word can be
read. -/
def PointerInstructions : Prop :=
  ∀ (s : State) (d a : BitVec 5) (n : BitVec 6) (need : BitVec 4) (w : SlotWord),
    let i := (s.hart.xr a + n.zeroExtend 64).toNat
    (s.slotLost s.hart.core s.ctx.table i = none → s.slotWord s.ctx.table i = some w →
      Yields (.lslot d a n) s (WritesX d (BitVec.ofNat 64 (w.base.toNat * 64)) (some (BitVec.ofNat 16 i)) s)) ∧
    (s.slotLost s.hart.core s.ctx.table (slotIndex (s.hart.tagOf a)) = none → Yields (.pchk d a need) s
      (WritesX d (if s.hart.xr d = 0 then 0
        else match s.probe s.ctx ⟨slotIndex (s.hart.tagOf a), (s.hart.xr a).toNat, (s.hart.xr d).toNat, 1, need,
            true, true, false⟩ with
          | .ok _ => 0
          | .error e => BitVec.ofNat 64 e) none s)) ∧
    Yields (.ptag d a) s
      (WritesX d (match s.hart.tagOf a with
        | some j => BitVec.ofNat 64 (2 ^ 16 + j.toNat)
        | none => 0) none s) ∧
    Yields (.pstrip d a) s (WritesX d (s.hart.xr a) none s)

/-- R312: an index above LAST is the access fault with detail index, and xd is not written. -/
def SlotIndexFault : Prop :=
  ∀ (s : State) (d a : BitVec 5) (n : BitVec 6),
    let i := (s.hart.xr a + n.zeroExtend 64).toNat
    s.slotLost s.hart.core s.ctx.table i = none → s.tabLast s.ctx.table < i → CanTrap s → s.hart.wid = 0 →
    Yields (.lslot d a n) s (TrapsHere 5 8 (BitVec.ofNat 64 i) s)

/-- R315: rpatch writes one slot word through a slot of KEYID 0, WRITE from two registers, MOVE the base, the state
and the next generation; it writes no register, and every byte outside the word stays. No core's slot cache changes: it
may hold the old word until slotsync (R307). What captured the moved word, or names a map by its place, follows a MOVE
(the model's moveCaptured, for R195, R299 and R320; log entry 112). -/
def SlotPatches : Prop :=
  ∀ (s : State) (d a : BitVec 5) (ref : SlotRef),
    let addr := (s.hart.xr a).toNat
    let old := littleEndian (Bytes.read s.mem (performedAt s addr) 16)
    let written (u : State) (v : Nat) (t : State) : Prop := StoresOnly (performedAt s addr) 16 u t ∧
      t.hart = s.hart.completed none ∧
      ∀ k, k < 16 → Bytes.get t.mem (performedAt s addr + k) = BitVec.ofNat 8 (v / 256 ^ k)
    s.hart.world0 = true → s.hart.life = .running → s.hart.answer = none → Memory.wf s.mem = true →
    d.toNat % 2 = 0 → d ≠ 0 →
    s.probe s.ctx ⟨slotIndex (s.hart.tagOf a), addr, 16, 16, needAtomic, true, false, false⟩ = .ok ref →
    ref.word.keyid = 0 → LocalMemory s addr → (s.readBytes s.ctx ref.word addr 16).isSome = true →
    Yields (.rpatchWrite d a) s (written s ((s.hart.xr d).toNat + 2 ^ 64 * (s.hart.xr (d + 1)).toNat)) ∧
    Yields (.rpatchMove d a) s
      (written (moveCaptured (s.hart.xr d) addr old s) (let x := (s.hart.xr d).toNat
        let field (lo n v : Nat) : Nat := v / 2 ^ lo % 2 ^ n
        old + field 6 46 x * 2 ^ 6 + field 4 2 x * 2 ^ 4 + (field 98 8 old + 1) % 2 ^ 8 * 2 ^ 98 -
          (field 6 46 old * 2 ^ 6 + field 4 2 old * 2 ^ 4 + field 98 8 old * 2 ^ 98)))

/-- R315, R20: rpatch from a hart that is not of world 0 takes the privileged-instruction trap. -/
def SlotPatchPrivileged : Prop :=
  ∀ (s : State) (d a : BitVec 5), s.hart.world0 = false → CanTrap s →
    Yields (.rpatchWrite d a) s (TrapsPrivileged 0 s) ∧ Yields (.rpatchMove d a) s (TrapsPrivileged 0 s)

/-! ### The context save area (R370, R371) -/

/-- A field of a byte string: `n` bytes at an offset, little-endian. -/
def fieldAt (b : List Byte) (o n : Nat) : Nat := littleEndian ((b.drop o).take n)

/-- The queue that a stop saves: entries that completed as a whole before an older one are in it no more. -/
def queueAtStop (h : Hart) : List QEntry := h.queue.filter fun e => !(e.done && e.start == 0)

/-- What a CSA holds of an item that may be tagged, beside its pointer entry. -/
def plainPart (o : Operand) : Nat := if o.tag = none then o.val.toNat else 0

/-- The loan field of a queue entry: PEND, K, DC and VDC. -/
def loanField (l : Option Loan) : Nat :=
  match l with
  | some l => 2 ^ 10 + l.k.toNat * 2 ^ 6 + l.dc.toNat * 2 ^ 5 + l.vdc.toNat
  | none => 0

/-- The CR words of a CSA, in their order. -/
def controlWords (h : Hart) : List Nat :=
  [h.vl.toNat, h.vtype.toNat,
    (match queueAtStop h with
      | e :: _ => e.start
      | [] => h.vstart.toNat),
    h.tshp.toNat, h.fflags.toNat, h.frm.toNat, h.seed.toNat, prefixState h.loan h.half h.last, h.wcons.toNat,
    h.btctl.toNat, h.vlff.toNat, h.xrSeq.toNat * 2 ^ 32 + h.xrLast.toNat, h.issue.toNat, h.arrivals.toNat, 0, 0]

/-- Offset, size and value of the fields of queue entry `i` in the body. -/
def entryFields (i : Nat) (e : QEntry) : List (Nat × Nat × Nat) :=
  let o := 640 + 64 * i
  let m := 4736 + 24 * i
  [(o, 8, e.addr.toNat), (o + 8, 4, ((encode e.instr).getD 0).toNat), (o + 12, 2, loanField e.loan),
    (o + 14, 1, e.tshp.msb.toNat), (o + 15, 1, e.rm.toNat), (o + 16, 4, e.vl), (o + 20, 4, e.start),
    (o + 24, 4, e.vtype.toNat), (o + 28, 4, e.tshp.toNat), (o + 32, 8, e.seed.toNat), (o + 40, 8, plainPart e.ops[0]),
    (o + 48, 8, plainPart e.ops[1]), (o + 56, 8, plainPart e.ops[2]), (m, 8, e.strides[0].toNat),
    (m + 8, 8, e.strides[1].toNat), (m + 16, 8, e.strides[2].toNat)]

/-- Offset, size and value of the fields of stream `i` in the body. -/
def streamFields (i : Nat) (q : Machine.Stream) : List (Nat × Nat × Nat) :=
  let o := 384 + 32 * i
  if q.bound then
    [(o, 8, plainPart q.base), (o + 8, 8, q.stride.toNat), (o + 16, 4, q.extent.toNat), (o + 20, 1, q.et.toNat),
      (o + 21, 1, 1), (o + 22, 2, 0), (o + 24, 8, q.pos.toNat)]
  else [(o, 8, 0), (o + 8, 8, 0), (o + 16, 8, 0), (o + 24, 8, 0)]

/-- Memory `m` holds the context of a hart that stopped as `h`, in its CSA (R370): the head in plaintext, every tagged item
in a pointer entry of its own, and a body that stands encrypted for a tenant (the model's csaSeal, R371). -/
def SavesContext (s : State) (h : Hart) (m : Bytes) : Prop :=
  let c := h.csa.toNat
  let at' (o n : Nat) : Nat := littleEndian (Bytes.read m (c + o) n)
  let points (loc : Nat) (o : Operand) : Prop := ∀ t, o.tag = some t → ∃ i, i < at' 24 2 ∧
    at' (64 + 16 * i) 8 = o.val.toNat ∧ at' (72 + 16 * i) 2 = t.toNat ∧ at' (74 + 16 * i) 2 = loc
  (∀ f ∈ [(0, 2, 1), (2, 2, h.wid.toNat), (4, 1, h.vloc.toNat), (5, 1, h.share.toNat), (6, 1, (queueAtStop h).length),
      (8, 8, h.pc.toNat),
      (16, 8, (match queueAtStop h with
        | e :: _ => e.addr
        | [] => h.pc).toNat), (32, 8, h.slottab.toNat)], at' f.1 f.2.1 = f.2.2) ∧
  (∀ r : BitVec 5, points r.toNat ⟨h.xr r, h.tagOf r⟩) ∧
  (∀ i e, (queueAtStop h)[i]? = some e → ∀ j : Fin 3, points (0x100 + 4 * i + j.val) e.ops[j]) ∧
  (∀ i : Fin 8, points (0x200 + i.val) h.streams[i].base) ∧
  ∃ body : List Byte, body.length = 6272 ∧ Bytes.read m (c + 4160) 6272 = s.csaSeal h.wid c body ∧
    (∀ r : BitVec 5, fieldAt body (8 * r.toNat) 8 = plainPart ⟨h.xr r, h.tagOf r⟩) ∧
    (∀ i, i < 16 → fieldAt body (256 + 8 * i) 8 = (controlWords h).getD i 0) ∧
    (∀ i : Fin 8, ∀ f ∈ streamFields i.val h.streams[i], fieldAt body f.1 f.2.1 = f.2.2 % 2 ^ (8 * f.2.1)) ∧
    ∀ i e, (queueAtStop h)[i]? = some e → ∀ f ∈ entryFields i e, fieldAt body f.1 f.2.1 = f.2.2 % 2 ^ (8 * f.2.1)

/-! ### Traps taken in handler mode, and without a handler (R365, R367) -/

/-- The hart runs in handler mode, a handler is set, it waits for nothing, and what it has stored has performed. -/
def CanNest (s : State) : Prop :=
  s.hart.life = .running ∧ s.hart.hm = true ∧ s.hart.hostBusy = false ∧ s.hvec ≠ 0 ∧ Settled s

/-- A nested trap: TCAUSE, TDETAIL, TVAL, TPC and PFXSTATE are overwritten, NEST is set, the record, the loan and
the half are invalid, and pc is HVEC. Nothing else changes. -/
def NestsTrap (cause : Nat) (detail val pc : Word) (pfx : Nat) (s t : State) : Prop :=
  t = { s with hart := { s.hart with
    tcause := BitVec.ofNat 64 cause, tdetail := detail, tval := val, tpc := pc, pfx := BitVec.ofNat 64 pfx
    nest := true, last := none, loan := none, half := false, pairHeld := false
    capture := none, wait := none, answer := none, pc := s.hvec } }

/-- A nested illegal-instruction trap at the instruction. -/
def NestsIllegal (s t : State) : Prop :=
  NestsTrap 1 0 (s.hart.iw.zeroExtend 64) s.hart.pc (prefixState s.hart.loan s.hart.half s.hart.last) s t

/-- The V, W and M instructions that a hart in handler mode may execute (R365). -/
def handlerMayRun (i : Instr) : Bool :=
  match i with
  | .vsr _ _ _ | .vsrPredicate _ _ _ | .vlr _ _ _ | .vlrPredicate _ _ _ | .tsave _ _ _ | .trest _ _ _ => true
  | _ => false

/-- Is a PFXSTATE value invalid (R37): a loan beside a half, or a loan of a register that is no predicate? -/
def badPrefix (p : Word) : Bool :=
  p.getLsbD 31 && (p.getLsbD 30 || decide (11 < p.toNat / 2 ^ 26 % 16))

/-- The hart after loan, half and record are taken from a PFXSTATE value (R37). -/
def LoadsPrefix (p : Word) (h : Hart) : Prop :=
  (h.half = p.getLsbD 30) ∧
  (h.last = if p.getLsbD 13 then some (p.extractLsb' 8 5) else none) ∧
  h.loan = if p.getLsbD 31 then some ⟨p.extractLsb' 26 4, p.getLsbD 25, p.extractLsb' 20 5⟩ else none

/-- The privileged instructions whose trap has detail 0 (R20, R315, R316, R324, R379). -/
def isPrivileged (i : Instr) : Bool :=
  match i with
  | .eret | .slotsync | .chdemote _ | .rpatchWrite _ _ | .rpatchMove _ _ | .wbindOpen _ _ | .wbindNewver _ _
  | .wbindPlace _ _ | .wbindSeal _ _ | .wbindInstall _ _ | .wbindErase _ _ | .wbindClose _ _ => true
  | _ => false

/-! ### Control registers (R368, R369) -/

/-- Register and number of a move from a control register. -/
def readMoveOf (i : Instr) : Option (BitVec 5 × BitVec 10) :=
  match i with
  | .mfcr x c => some (x, c)
  | .fflagsRead x => some (x, 0x010)
  | .vlffRead x => some (x, 0x003)
  | _ => none

/-- Register and number of a move to a control register. -/
def writeMoveOf (i : Instr) : Option (BitVec 5 × BitVec 10) :=
  match i with
  | .mtcr x c => some (x, c)
  | .registerWrite x c => some (x, c)
  | .vtypeWrite x => some (x, 0x001)
  | .tshpWrite x => some (x, 0x004)
  | .frmWrite x => some (x, 0x011)
  | .fflagsWrite x => some (x, 0x010)
  | .vlcapWrite x => some (x, 0x006)
  | .schedcfgWrite x => some (x, 0x032)
  | _ => none

/-- Numbers of the registers that every hart reads (R368). -/
def readByAll : List (BitVec 10) :=
  [0x000, 0x001, 0x002, 0x003, 0x004, 0x005, 0x006, 0x007, 0x008, 0x009, 0x00A, 0x010, 0x011, 0x012,
   0x020, 0x021, 0x022, 0x023]

/-- Numbers of the registers that only world 0 reads. -/
def readByWorld0 : List (BitVec 10) :=
  [0x013, 0x032, 0x040, 0x041, 0x042, 0x043, 0x044, 0x045, 0x046, 0x047, 0x048]

/-- Numbers of the registers that every hart writes. -/
def writtenByAll : List (BitVec 10) := [0x001, 0x004, 0x008, 0x009, 0x010, 0x011, 0x012]

/-- Numbers of the registers that only world 0 writes. -/
def writtenByWorld0 : List (BitVec 10) :=
  [0x000, 0x002, 0x003, 0x006, 0x013, 0x030, 0x031, 0x032, 0x040, 0x041, 0x042, 0x043, 0x045, 0x046, 0x047, 0x048]

/-- SLOTTAB and LTAB, which read as zero outside world 0. -/
def hiddenTables : List (BitVec 10) := [0x030, 0x031]

/-- The value of a control register under its layout. -/
def controlValue (c : BitVec 10) (s : State) : Nat :=
  let h := s.hart
  match c.toNat with
  | 0x000 => h.vl.toNat
  | 0x001 => h.vtype.toNat
  | 0x002 => h.vstart.toNat
  | 0x003 => h.vlff.toNat
  | 0x004 => h.tshp.toNat
  | 0x005 => h.pv.toNat * 2 ^ 7 + h.pend.toNat * 2 ^ 4 + h.share.toNat
  | 0x006 => h.cap.toNat
  | 0x007 => (match h.queue with
    | e :: _ => e.addr.toNat
    | [] => h.pc.toNat)
  | 0x008 => h.wcons.toNat
  | 0x009 => h.btctl.toNat
  | 0x00A => h.xrSeq.toNat * 2 ^ 32 + h.xrLast.toNat
  | 0x010 => h.fflags.toNat
  | 0x011 => h.frm.toNat
  | 0x012 => h.seed.toNat
  | 0x013 => h.pfx.toNat
  | 0x020 => h.dev.toNat * 2 ^ 24 + h.core.toNat * 2 ^ 16 + h.ser.toNat
  | 0x021 => h.gid.toNat
  | 0x022 => h.rank.toNat
  | 0x023 => h.wid.toNat
  | 0x030 => h.slottab.toNat
  | 0x031 => h.ltab.toNat
  | 0x032 => s.schedcfg.toNat
  | 0x040 => h.tcause.toNat
  | 0x041 => h.tpc.toNat
  | 0x042 => h.tdetail.toNat
  | 0x043 => h.tval.toNat
  | 0x044 => h.tctx.toNat
  | 0x045 => h.ovf.toNat * 2 ^ 3 + h.ie.toNat * 2 ^ 2 + h.nest.toNat * 2 + h.hm.toNat
  | 0x046 => s.hvec.toNat
  | 0x047 => s.htab.toNat
  | _ => (match h.view with
    | .own => if h.hm then h.csa.toNat / 64 * 64 else 0
    | .ctx a => a.toNat / 64 * 64)

/-- Does the move wait: of FFLAGS for the queue (R104), of VLFF for a queued instruction that writes it (R233)? -/
def MoveIsReady (c : BitVec 10) (h : Hart) : Prop :=
  (c = 0x010 → h.queue = []) ∧
  (c = 0x003 → ∀ e ∈ h.queue, match e.instr with
    | .vldff _ _ _ _ _ | .vqrd _ _ _ _ _ => False
    | _ => True)

/-- The value kept of a word by a register of which the given bits are writable. -/
def kept (v mask : Word) : Word := v &&& mask

/-- The state after a write of a control register with plain fields: every field takes its bits of the value, and
reserved bits are ignored. -/
def plainWrite (c : BitVec 10) (v : Word) (s : State) : Option State :=
  let h := s.hart
  match c.toNat with
  | 0x000 => some { s with hart := { h with vl := v.extractLsb' 0 20 } }
  | 0x002 => some { s with hart := { h with vstart := v.extractLsb' 0 20 } }
  | 0x003 => some { s with hart := { h with vlff := v.extractLsb' 0 20 } }
  | 0x008 => some { s with hart := { h with wcons := kept v 0xF000FFFFFFFFFFFF } }
  | 0x009 => some { s with hart := { h with btctl := kept v 0xFFFFFFFFFFFFFF1F } }
  | 0x010 => some { s with hart := { h with fflags := v.extractLsb' 0 7 } }
  | 0x011 => some { s with hart := { h with
      frm := if (v.extractLsb' 0 3 : BitVec 3) = 6 ∨ (v.extractLsb' 0 3 : BitVec 3) = 7 then h.frm
        else v.extractLsb' 0 3 } }
  | 0x012 => some { s with hart := { h with seed := v } }
  | 0x013 => some { s with hart := { h with pfx := kept v 0xFFF03F00 } }
  | 0x030 => some { s with hart := { h with slottab := kept v 0x000FFFFFFFFFFFC0 } }
  | 0x031 => some { s with hart := { h with ltab := kept v 0x000FFFFFFFFFFFC0 } }
  | 0x040 => some { s with hart := { h with tcause := kept v 0x800000000000FFFF } }
  | 0x041 => some { s with hart := { h with tpc := v } }
  | 0x042 => some { s with hart := { h with tdetail := v } }
  | 0x043 => some { s with hart := { h with tval := v } }
  | 0x045 => some { s with hart := { h with ie := v.getLsbD 2 } }
  | 0x046 => some { s with hvec := kept v 0xFFFFFFFFFFFFFFFC }
  | 0x047 => some { s with htab := kept v 0x000FFFFFFFFFFFC0 }
  | _ => none

/-- The state after the instruction has completed with no register written. -/
def finished (s : State) : State :=
  { s with hart := s.hart.completed none }

/-- Codes of element types (R135). -/
def typeCodes : List Nat :=
  [0x13, 0x14, 0x15, 0x16, 0x23, 0x24, 0x25, 0x26, 0x34, 0x35, 0x36, 0x44, 0x50, 0x51, 0x52, 0x53, 0x81] ++
    (List.range 15).map (0x82 + ·) ++ (List.range 16).map (0xA1 + ·)

/-- A bit field of a word. -/
def fieldOf (v : Word) (lo n : Nat) : Nat := v.toNat / 2 ^ lo % 2 ^ n

/-- VTYPE after a write of a value (R134, R136). -/
def typeAfter (v : Word) : Word :=
  if v.getLsbD 63 = true ∨ fieldOf v 0 8 ∉ typeCodes ∨ (fieldOf v 24 8 ≠ 0 ∧ fieldOf v 24 8 ∉ typeCodes) ∨ fieldOf v 16 3 = 7
  then 0x8000000000000000
  else v &&& 0xFF07E3FF

/-- Matrix operand types of the floating and of the integer kind (R162). -/
def floatOperands : List Nat := [0x34, 0x44, 0x50, 0x51, 0x52, 0x53]

def integerOperands : List Nat :=
  [0x13, 0x14, 0x23, 0x24, 0x81] ++ (List.range 15).map (0x82 + ·) ++ (List.range 16).map (0xA1 + ·)

/-- TSHP after a write of a value (R160, R161). -/
def shapeAfter (v : Word) : Word :=
  let rows := fieldOf v 0 7
  let steps := fieldOf v 8 8
  let both (l : List Nat) : Prop := fieldOf v 24 8 ∈ l ∧ fieldOf v 16 8 ∈ l
  if v.getLsbD 63 = true ∨ rows = 0 ∨ 64 < rows ∨ steps = 0 ∨ 128 < steps ∨
      ¬ (both floatOperands ∨ both integerOperands)
  then 0x8000000000000000
  else v &&& 0xFFFFFF7F

/-- SCHEDCFG after a write (R270): each field in its range, else as it was. -/
def scheduleAfter (old v : Word) : Word :=
  let part (lo n a b : Nat) : Nat :=
    (if a ≤ fieldOf v lo n ∧ fieldOf v lo n ≤ b then fieldOf v lo n else fieldOf old lo n) * 2 ^ lo
  BitVec.ofNat 64 (part 48 16 256 65535 + part 32 16 1 65535 + part 12 20 100 1000000 + part 8 1 0 1 + part 0 8 10 255)

/-- Operation and address of a write of VVIEW. -/
def viewWriteOf (i : Instr) (h : Hart) : Option (Nat × BitVec 52) :=
  match i with
  | .vviewOwn => some (0, 0)
  | .vviewAddr x => some (1, (h.xr x).extractLsb' 0 52 &&& 0xFFFFFFFFFFFC0)
  | .vviewEvict => some (2, 0)
  | .vviewInstall => some (3, 0)
  | .mtcr x c => if c = 0x048 then some ((h.xr x).toNat % 4, (h.xr x).extractLsb' 0 52 &&& 0xFFFFFFFFFFFC0) else none
  | .registerWrite x c =>
    if c = 0x048 then some ((h.xr x).toNat % 4, (h.xr x).extractLsb' 0 52 &&& 0xFFFFFFFFFFFC0) else none
  | _ => none

/-! ### The strip (R139) -/

/-- The strip is set: VL and xd take the smaller of the request and VLMAX. -/
def SetsStrip (d a : BitVec 5) (wcons : Word) (s t : State) : Prop :=
  let n := min (s.hart.xr a).toNat (vlmax s.hart.vtype s.hart.c)
  OnlyHart s t ∧
  t.hart = { s.hart.completed (some d) with
    x := t.hart.x, tag := t.hart.tag
    vl := BitVec.ofNat 20 n, wcons := wcons } ∧
  (∀ r, r ≠ d → t.hart.xr r = s.hart.xr r ∧ t.hart.tagOf r = s.hart.tagOf r) ∧
  HoldsX t.hart d (BitVec.ofNat 64 n) none

/-- The images of a hart whose share becomes `n`: the first bytes and bits that both sizes hold stay, and zero
follows; the width tags stay (R159, R267). -/
def Resized (n : BitVec 3) (h g : Hart) : Prop :=
  g.share = n ∧
  (∀ r : Fin 32, g.vreg[r].width = h.vreg[r].width ∧ ∀ p,
    Bytes.get g.vreg[r].img p = if p < min (imageBytes h.share) (imageBytes n) then Bytes.get h.vreg[r].img p else 0) ∧
  (∀ r : Fin 12, ∀ p,
    Bytes.get g.kreg[r] p = if p < min (imageBytes h.share) (imageBytes n) then Bytes.get h.kreg[r] p else 0) ∧
  (∀ r : Fin 8, ∀ p,
    Bytes.get g.tile[r] p = if p < min (imageBytes h.share) (imageBytes n) then Bytes.get h.tile[r] p else 0)

/-- Images whose listed bytes are in canonical form. -/
def ImagesOk (h : Hart) : Prop :=
  (∀ r : Fin 32, Memory.wf h.vreg[r].img = true) ∧ (∀ r : Fin 12, Memory.wf h.kreg[r] = true) ∧
  ∀ r : Fin 8, Memory.wf h.tile[r] = true

/-- R365: in handler mode a call, a breakpoint, and every V, W and M instruction but the four that move vector and
tile state, take a nested trap, which saves nothing and keeps x1 to x31. -/
def NestedTraps : Prop :=
  ∀ (s : State) (d a : BitVec 5) (n : BitVec 6) (i : Instr), CanNest s →
    Yields (.ecall d a n) s (NestsTrap 10 (BitVec.ofNat 64 (n.toNat + 256 * d.toNat)) (s.hart.xr a)
      (s.hart.pc + 4) (prefixState none false (some d)) s) ∧
    Yields (.ebreak n) s (NestsTrap 11 (n.zeroExtend 64) 0 (s.hart.pc + 4) (prefixState none false none) s) ∧
    ((classOf i).isSome = true → handlerMayRun i = false → Yields i s (NestsIllegal s))

/-- The report of a trap that finds no handler (R367): CLASS 15, KIND 1, the hart's SER, one error. -/
def unhandledReport (ser : BitVec 16) : Outbound :=
  .report ⟨0x8000000000008007, BitVec.ofNat 64 (15 * 2 ^ 56 + 2 ^ 48 + ser.toNat * 2 ^ 32 + 1), 0⟩

/-- Cause, detail and value of a trap that an instruction takes, and the hart that it saves (R360, R378): a breakpoint, a
call, an illegal instruction, a scalar access that fails its probe, and a malformed structure. -/
def trapOf (i : Instr) (s : State) : Option (Nat × Word × Word × Hart) :=
  let access (n : Nat) (a : BitVec 5) (o : BitVec 16) (need : BitVec 4) : Option (Nat × Word × Word × Hart) :=
    let at' := accessAddress s.hart a o
    match s.probe s.ctx ⟨slotIndex (s.hart.tagOf a), at', n, n, need, true, true, false⟩ with
    | .ok _ => none
    | .error d =>
      if s.hart.wid = 0 ∧ d < 16 ∨ d = 1 ∨ d = 2 ∨ d = 5 then some (5, BitVec.ofNat 64 d, BitVec.ofNat 64 at', s.hart)
      else none
  match i with
  | .ebreak n => some (11, n.zeroExtend 64, 0, s.hart.completed none)
  | .ecall d a n => some (10, BitVec.ofNat 64 (n.toNat + 256 * d.toNat), s.hart.xr a, s.hart.completed (some d))
  | .bcnt a _ => if a = 0 then some (1, 0, s.hart.iw.zeroExtend 64, s.hart) else none
  | .kwait a b k =>
    let n := (s.hart.xr b).toNat
    if n ≠ 0 ∧ 8 * s.hart.c < (s.hart.xr a).toNat + n ∧ ∀ e ∈ s.hart.queue, e.predWritten ≠ some k.toNat then
      some (7, 5, 0, s.hart)
    else none
  | i =>
    match loadOf i with
    | some (n, _, _, a, o) => access n a o needRead
    | none =>
      match storeOf i with
      | some (n, _, a, o) => access n a o needWrite
      | none => none

/-- R367: where HVEC is 0, a trap outside handler mode saves the context, writes the trap registers, reports and stops the
hart without setting HM: one of world 0 is held, one of a tenant is quarantined, with cause 2. A trap in handler mode
reports and quarantines the context. Breakpoints, calls, illegal instructions, access faults and malformed structures are
named; the saved bytes are those of SavesContext. -/
def TrapsWithoutHandler : Prop :=
  ∀ (s : State) (i : Instr) (cause : Nat) (detail val : Word) (h : Hart), s.hart.life = .running →
    s.hart.hostBusy = false → s.hvec = 0 → Settled s → trapOf i s = some (cause, detail, val, h) →
    let report := s.outbox ++ [unhandledReport s.hart.ser]
    (s.hart.hm = false → Yields i s fun t => t.hart.hm = false ∧ t.outbox = report ∧
      t.hart.tcause = BitVec.ofNat 64 cause ∧ t.hart.tdetail = detail ∧ t.hart.tval = val ∧ t.hart.tpc = h.pc ∧
      t.hart.tctx = s.hart.csa.zeroExtend 64 ∧
      t.hart.pfx = BitVec.ofNat 64 (prefixState h.loan h.half h.last) ∧ t.hart.queue = [] ∧
      t.hart.life = (if s.hart.wid = 0 then .held else .quarantined) ∧
      (s.hart.wid = 0 → t = { s with hart := t.hart, mem := t.mem, macs := t.macs, lost := t.lost, outbox := report } ∧
        (Memory.wf s.mem = true → h.queue.length ≤ 64 → SavesContext s h t.mem))) ∧
    (s.hart.hm = true → Yields i s fun t => t.hart.life = .quarantined ∧ t.outbox = report)

/-- R20: a privileged instruction of a hart that is not of world 0, or a move of a control register that the Access
column of R368 does not allow it, takes the privileged-instruction trap. -/
def PrivilegedTraps : Prop :=
  ∀ (s : State) (i : Instr) (x : BitVec 5) (c : BitVec 10), s.hart.world0 = false → CanTrap s →
    (isPrivileged i = true → Yields i s (TrapsPrivileged 0 s)) ∧
    (readMoveOf i = some (x, c) → c ∉ readByAll → c ∉ hiddenTables →
      Yields i s (TrapsPrivileged (c.zeroExtend 64) s)) ∧
    (writeMoveOf i = some (x, c) → c ∉ writtenByAll → Yields i s (TrapsPrivileged (c.zeroExtend 64) s))

/-- R368: a move to a register that has no write access takes the privileged-instruction trap in world 0 too. -/
def ReadOnlyRegisters : Prop :=
  ∀ (s : State) (i : Instr) (x : BitVec 5) (c : BitVec 10), writeMoveOf i = some (x, c) →
    c ∉ writtenByAll → c ∉ writtenByWorld0 →
    (s.hart.hm = false → CanTrap s → Yields i s (TrapsPrivileged (c.zeroExtend 64) s)) ∧
    (CanNest s → Yields i s (NestsTrap 2 (c.zeroExtend 64) (s.hart.iw.zeroExtend 64) s.hart.pc
      (prefixState s.hart.loan s.hart.half s.hart.last) s))

/-- VTYPE, TSHP, WCONS or BTCTL as it comes back: bit 63 alone where it is set in a VTYPE or TSHP, else the fields that the
register has (R6, R134, R160). -/
def typeBack (mask : Word) (v : Nat) : Word :=
  if (BitVec.ofNat 64 v).getLsbD 63 then 0x8000000000000000 else BitVec.ofNat 64 v &&& mask

/-- Hart `g` has the control registers, the streams and the queue image of a CSA with this head and body, to which the ends
of reductions that `h` holds are added (R240, R278, R370, R374): a stream has nothing fetched, and each queue word is a V,
W or M instruction; a word that is none drops its entry, which is the model's (log entry 129). -/
def LoadsContext (head body : List Byte) (h g : Hart) : Prop :=
  let ps := readPointers head
  let cr (i : Nat) : Nat := fieldAt body (256 + 8 * i) 8
  let n := fieldAt head 6 1
  g.slottab = BitVec.ofNat 64 (fieldAt head 32 8 % 2 ^ 52 / 64 * 64) ∧
  g.vl = BitVec.ofNat 20 (cr 0) ∧ g.vtype = typeBack 0xFF07E3FF (cr 1) ∧ g.vstart = BitVec.ofNat 20 (cr 2) ∧
  g.tshp = typeBack 0xFFFFFF7F (cr 3) ∧ g.fflags = BitVec.ofNat 7 (cr 4) ∧ g.frm = BitVec.ofNat 3 (cr 5) ∧
  g.seed = BitVec.ofNat 64 (cr 6) ∧ g.wcons = BitVec.ofNat 64 (cr 8) &&& 0xF000FFFFFFFFFFFF ∧
  g.btctl = BitVec.ofNat 64 (cr 9) &&& 0xFFFFFFFFFFFFFF1F ∧ g.vlff = BitVec.ofNat 20 (cr 10) ∧
  (g.xrSeq, g.xrLast) =
    h.ends.foldl (fun x e => (x.1 + 1, e)) (BitVec.ofNat 32 (cr 11 / 2 ^ 32), BitVec.ofNat 2 (cr 11)) ∧ g.ends = [] ∧
  g.issue = BitVec.ofNat 63 (cr 12) ∧ g.arrivals = BitVec.ofNat 16 (cr 13) ∧
  (∀ i : Fin 8, let o := 384 + 32 * i.val
    g.streams[i] = if fieldAt body (o + 21) 1 = 1 then
      ⟨true, h.wid, itemAt ps (0x200 + i.val) (fieldAt body o 8), BitVec.ofNat 64 (fieldAt body (o + 8) 8),
        BitVec.ofNat 32 (fieldAt body (o + 16) 4), BitVec.ofNat 8 (fieldAt body (o + 20) 1),
        BitVec.ofNat 64 (fieldAt body (o + 24) 8), [], false, none⟩
    else ⟨false, 0, ⟨0, none⟩, 0, 0, 0, 0, [], false, none⟩) ∧
  (n ≤ 64 →
    (∀ i, i < n → ∃ x c, decodeQueueWord (fieldAt body (648 + 64 * i) 4) = some x ∧ classOf x = some c) →
    g.queue.length = n ∧ ∀ i e, g.queue[i]? = some e →
      let o := 640 + 64 * i
      let num (k w : Nat) : Nat := fieldAt body (o + k) w
      let loan := num 12 2
      decodeQueueWord (num 8 4) = some e.instr ∧ classOf e.instr = some e.cls ∧ e.addr = BitVec.ofNat 64 (num 0 8) ∧
      e.loan = (if loan.testBit 10 then
        some ⟨BitVec.ofNat 4 (loan / 2 ^ 6), loan.testBit 5, BitVec.ofNat 5 loan⟩ else none) ∧
      e.vl = num 16 4 ∧ e.start = num 20 4 ∧ e.vtype = BitVec.ofNat 64 (num 24 4) ∧ e.rm = BitVec.ofNat 3 (num 15 1) ∧
      e.tshp = BitVec.ofNat 64 (num 28 4 + num 14 1 % 2 * 2 ^ 63) ∧ e.seed = BitVec.ofNat 64 (num 32 8) ∧
      ∀ j : Fin 3, e.ops[j] = itemAt ps (0x100 + 4 * i + j.val) (num (40 + 8 * j.val) 8) ∧
        e.strides[j] = BitVec.ofNat 64 (fieldAt body (4736 + 24 * i + 8 * j.val) 8))

/-- R369, and the layouts that R368 names: mtcr writes the fields of a plain register from the value, ignores
reserved bits, and changes nothing else but pc and the record; a code of FRM above 5 is ignored (R97). -/
def PlainRegisterWrites : Prop :=
  ∀ (s u : State) (i : Instr) (x : BitVec 5) (c : BitVec 10), writeMoveOf i = some (x, c) →
    (c ∈ writtenByAll ∨ s.hart.world0 = true) → MoveIsReady c s.hart →
    plainWrite c (s.hart.xr x) s = some u → Yields i s fun t => t = finished u

/-- R134 to R136, R160, R161, R266, R270: writes of VTYPE, TSHP, VLCAP and SCHEDCFG. A CAP below SHARE makes a
reduction pending. -/
def RuledRegisterWrites : Prop :=
  ∀ (s : State) (i : Instr) (x : BitVec 5) (c : BitVec 10), writeMoveOf i = some (x, c) →
    let v := s.hart.xr x
    (c = 0x001 → Yields i s fun t => t = finished { s with hart := { s.hart with vtype := typeAfter v } }) ∧
    (c = 0x004 → Yields i s fun t => t = finished { s with hart := { s.hart with tshp := shapeAfter v } }) ∧
    (c = 0x032 → s.hart.world0 = true →
      Yields i s fun t => t = finished { s with schedcfg := scheduleAfter s.schedcfg v }) ∧
    (c = 0x006 → s.hart.world0 = true →
      Yields i s fun t => OnlyHart s t ∧
        t.hart = { s.hart.completed none with cap := t.hart.cap, pv := t.hart.pv, pend := t.hart.pend } ∧
        (fieldOf v 0 3 ∉ [1, 2, 4] → t.hart.cap = s.hart.cap ∧ t.hart.pv = s.hart.pv ∧ t.hart.pend = s.hart.pend) ∧
        (fieldOf v 0 3 ∈ [1, 2, 4] → t.hart.cap.toNat = fieldOf v 0 3 ∧
          (fieldOf v 0 3 < s.hart.share.toNat → t.hart.pv = true ∧ t.hart.pend.toNat ≤ fieldOf v 0 3)))

/-- R139: with no change of share pending, svl sets VL and xd to the smaller of the request and VLMAX; svl.w does so
once the watermark has reached WCONS.POS plus that number, and WCONS.POS advances; until then it waits with nothing
changed. -/
def StripSetting : Prop :=
  ∀ (s : State) (d a : BitVec 5), s.hart.pv = false →
    let n := min (s.hart.xr a).toNat (vlmax s.hart.vtype s.hart.c)
    let i := s.hart.wcons.toNat / 2 ^ 60
    let pos := s.hart.wcons.toNat % 2 ^ 48
    let mark := match s.gang s.hart.gid with
      | some g => (g.marks.toList.getD i 0).toNat
      | none => 0
    Yields (.svl d a) s (SetsStrip d a s.hart.wcons s) ∧
    (pos + n ≤ mark →
      Yields (.svlW d a) s (SetsStrip d a (BitVec.ofNat 64 (i * 2 ^ 60 + (pos + n) % 2 ^ 48)) s)) ∧
    (mark < pos + n → Yields (.svlW d a) s (Waits (.svlW d a) s))

/-- R133, R265 to R267: svl first applies a change of share that is pending, where the lanes it needs are free; the
images keep what both sizes hold, and VLMAX is that of the new share. State that lies nowhere comes into free lanes
with images of zeros. Which groups a grown or a new share takes is the scheduler's choice (R375): the model takes the
lowest free ones first (State.growth and State.assign; log entry 14). -/
def ShareApplied : Prop :=
  ∀ (s : State) (d a : BitVec 5), s.hart.pv = true → s.hart.queue = [] →
    let n := min (s.hart.xr a).toNat (vlmax s.hart.vtype (imageBytes s.hart.pend))
    let strip (t : State) : Prop := OnlyHart s t ∧ t.hart.pv = false ∧ t.hart.vl = BitVec.ofNat 20 n ∧
      HoldsX t.hart d (BitVec.ofNat 64 n) none ∧
      (∀ r, r ≠ d → t.hart.xr r = s.hart.xr r ∧ t.hart.tagOf r = s.hart.tagOf r) ∧ t.hart.pc = s.hart.pc + 4
    (s.hart.vloc = 1 → ImagesOk s.hart →
      (s.hart.pend ≠ 0 →
        ∀ g ∈ s.growth (s.hart.pend.toNat - s.hart.groups.length), s.holder s.hart.core s.hart.ser g = none) →
      Yields (.svl d a) s fun t => strip t ∧ Resized s.hart.pend s.hart t.hart) ∧
    (s.hart.vloc = 0 → s.hart.pend ≠ 0 →
      let gs := s.assign s.hart.core s.hart.ser s.hart.pend.toNat
      gs.length = s.hart.pend.toNat → (∀ g ∈ gs, s.holder s.hart.core s.hart.ser g = none) →
      Yields (.svl d a) s fun t => strip t ∧ t.hart.share = s.hart.pend ∧ t.hart.vloc = 1 ∧ t.hart.groups = gs ∧
        t.hart.vreg = Vector.replicate 32 ⟨64, []⟩ ∧ t.hart.kreg = Vector.replicate 12 [] ∧
        t.hart.tile = Vector.replicate 8 [])

/-- R237, R214, R316, R381: fence and fence.sv complete when the scalar side of the hart has performed, fence.vs,
fence.sv.vs, csync and slotsync when both sides have: no store of it is pending, held or in a packet, and, for the
vector side, its queue is empty. They write no register. slotsync empties every core's slot cache, and what may still come
into one of the words that a table held before, so that every slot word is used as memory holds it; csync drops every line of an instruction cache that its range overlaps, and every line
where the length is 0. Until then they wait. -/
def Fences : Prop :=
  ∀ (s : State) (d a : BitVec 5),
    let scalar := (∀ p ∈ s.packets, p.stream ≠ .scalar s.hart.ser) ∧ (∀ w ∈ s.held, w.stream ≠ .scalar s.hart.ser) ∧
      ∀ p ∈ s.stores, p.ctx.ser ≠ s.hart.ser
    let from' := s.key s.hart.core (s.hart.xr a).toNat
    let len := (s.hart.xr d).toNat
    let dropped : List CachedLine :=
      s.icache.filter fun e => !(len = 0 || decide (e.line < from' + len ∧ from' < e.line + 64))
    let vector := s.hart.queue = [] ∧ (∀ p ∈ s.packets, p.stream ≠ .vector s.hart.ser) ∧
      ∀ w ∈ s.held, w.stream ≠ .vector s.hart.ser
    (scalar → Yields .fence s (fun t => t = finished s) ∧ Yields .fenceSv s fun t => t = finished s) ∧
    (scalar → vector → Yields .fenceVs s (fun t => t = finished s) ∧
      Yields .fenceSvVs s (fun t => t = finished s) ∧ Yields (.csync d a) s (fun t => t = finished { s with icache := dropped }) ∧
      (s.hart.world0 = true → Yields .slotsync s fun t => t = finished { s with slotCache := [], slotPast := [] })) ∧
    (¬ scalar → Yields .fence s (Waits .fence s) ∧ Yields .fenceSv s (Waits .fence s)) ∧
    (¬ (scalar ∧ vector) → Yields .fenceVs s (Waits .fence s) ∧ Yields .fenceSvVs s (Waits .fence s) ∧
      Yields (.csync d a) s (Waits .retry s) ∧ (s.hart.world0 = true → Yields .slotsync s (Waits .slotsync s)))

/-- R380: wfe writes 1 when an event has occurred; otherwise it may return 1 (log entry 10 leaves that free), or it
waits. -/
def WaitForEvent : Prop :=
  ∀ (s : State) (d a : BitVec 5),
    let done (t : State) : Prop := OnlyHart s t ∧ HoldsX t.hart d 1 none ∧
      t.hart = { s.hart.completed (some d) with x := t.hart.x, tag := t.hart.tag, event := false } ∧
      ∀ r, r ≠ d → t.hart.xr r = s.hart.xr r ∧ t.hart.tagOf r = s.hart.tagOf r
    ((s.hart.event = true ∨ (s.hart.wid = 0 ∧ s.hart.ie = true ∧ s.events ≠ []) ∨ s.hart.preempt = true ∨
      s.hart.holdReq = true) → Yields (.wfe d a) s done) ∧
    Yields (.wfe d a) s fun t => done t ∨ Waits (.wfe d a) s t

/-! ### Entry of the V, W and M instructions (R136, R138, R141, and the checks of each row) -/

/-- Codes of types by kind (R135). -/
def packedCodes : List Nat := [0x13, 0x14, 0x15, 0x16, 0x23, 0x24, 0x25, 0x26]

def slicedCodes : List Nat := (List.range 15).map (0x82 + ·) ++ (List.range 16).map (0xA1 + ·)

def integerCodes : List Nat := packedCodes ++ slicedCodes

def wideFloatCodes : List Nat := [0x34, 0x35, 0x36, 0x44]

def floatCodes : List Nat := wideFloatCodes ++ [0x50, 0x51, 0x52, 0x53]

def validCodes : List Nat := integerCodes ++ [0x81] ++ floatCodes

def byteCodes : List Nat := packedCodes ++ wideFloatCodes ++ [0x50, 0x51]

/-- Element width of a code (R135). -/
def widthOf (c : Nat) : Nat :=
  if c = 0x13 ∨ c = 0x23 ∨ c = 0x50 ∨ c = 0x51 then 8
  else if c = 0x14 ∨ c = 0x24 ∨ c = 0x34 ∨ c = 0x44 then 16
  else if c = 0x15 ∨ c = 0x25 ∨ c = 0x35 then 32
  else if c = 0x16 ∨ c = 0x26 ∨ c = 0x36 then 64
  else if c = 0x52 then 6
  else if c = 0x53 then 4
  else if c = 0x81 then 1
  else if c < 0xA0 then c - 0x80
  else c - 0xA0

/-- Elements to a packing unit of a narrow type (R231). -/
def unitOfCode (c : Nat) : Nat := if c = 0x52 then 4 else if c = 0x53 then 2 else 64

/-- The smallest of 1, 2, 4 and 8 that is at least G × wCT ÷ wET; 16 where none is (R149). -/
def groupFor (g wc we : Nat) : Nat :=
  if g * wc ≤ we then 1 else if g * wc ≤ 2 * we then 2 else if g * wc ≤ 4 * we then 4
  else if g * wc ≤ 8 * we then 8 else 16

/-- VLMAX of a type code at a grouping and a capacity (R110, R133). -/
def limitOf (code g c : Nat) : Nat :=
  match ETy.ofCode code with
  | some t => vlmaxFor t g c
  | none => 0

/-- What the row of an instruction asks of its operands: the scalar operands captured, the strides captured, its own
conditions, its source groups with their sizes and whether they must be disjoint from the destination, and the
condition on a copy register. -/
structure Asked where
  ops     : List (BitVec 5)
  strides : List Word
  ok      : Prop
  srcs    : List (BitVec 5 × Nat × Bool)
  copy    : Nat → Prop

/-- Sources that are groups of G registers. -/
def groupList (g : Nat) (apart : Bool) (l : List (BitVec 5)) : List (BitVec 5 × Nat × Bool) := l.map fun r => (r, g, apart)

/-- The operand conditions of each V, W and M instruction that takes an entry of the queue, for a hart; none for every
other instruction, for `tshp`, and for the whole-register moves. -/
def askedOf (i : Instr) (h : Hart) : Option Asked :=
  let et := fieldOf h.vtype 0 8
  let ct := fieldOf h.vtype 24 8
  let g := 2 ^ fieldOf h.vtype 8 2
  let vl := h.vl.toNat
  let x (r : BitVec 5) : Nat := (h.xr r).toNat
  let plain (l : List (BitVec 5)) (types : List Nat) (ops : List (BitVec 5)) : Option Asked :=
    some ⟨ops, [], et ∈ types, groupList g false l, fun _ => True⟩
  let apart (l : List (BitVec 5)) (types : List Nat) (ops : List (BitVec 5)) : Option Asked :=
    some ⟨ops, [], et ∈ types, groupList g true l, fun _ => True⟩
  let shift (a n : BitVec 5) : Option Asked :=
    some ⟨[], [], et ∈ integerCodes ∧ 0 ≤ n.toInt, groupList g false [a], fun _ => True⟩
  let scaled (d a b : BitVec 5) : Option Asked :=
    some ⟨[], [], et = 0x35 ∧ vl ≤ (if h.vtype.getLsbD 15 then h.c else h.c / 4) ∧
      d.toNat + g ≤ 31 ∧ a.toNat + g ≤ 31 ∧ b.toNat + g ≤ 31, groupList g false [a, b], fun r => r + g ≤ 31⟩
  let convert (a : BitVec 5) (p : Prop) (far : Bool) : Option Asked :=
    let gs := groupFor g (widthOf ct) (widthOf et)
    some ⟨[], [], ct ∈ validCodes ∧ et ∈ validCodes ∧ p ∧ gs ≤ 8 ∧ vl ≤ limitOf ct gs h.c,
      [(a, gs, far || decide (widthOf ct ≠ widthOf et))], fun _ => True⟩
  let unit (data : List (BitVec 5)) (b : BitVec 5) (m : BitVec 1) (store : Bool) : Option Asked :=
    some ⟨[b], [], et ∈ byteCodes ∨ (et ∈ validCodes ∧ x b % 8 = 0 ∧ vl % unitOfCode et = 0 ∧ (store = true → m = 0)),
      groupList g false data, fun _ => True⟩
  let indexed (data : List (BitVec 5)) (v b n : BitVec 5) (types : List Nat) (more : Prop)
      (copy : Nat → Prop) : Option Asked :=
    let gi := groupFor g 32 (widthOf et)
    some ⟨[b], [], et ∈ types ∧ gi ≤ 8 ∧ vl ≤ limitOf 0x15 gi h.c ∧
      (v.toNat + g ≤ n.toNat ∨ n.toNat + gi ≤ v.toNat) ∧ more, (n, gi, true) :: groupList g false data, copy⟩
  let amo (v b n : BitVec 5) : Option Asked := indexed [] v b n [0x15, 0x16, 0x25, 0x26] True fun _ => True
  let feed (a b : BitVec 5) (k : Nat) : Option Asked :=
    let rows := fieldOf h.tshp 0 7
    some ⟨[], [], h.tshp.getLsbD 63 = false ∧ 0 < rows ∧ vl ≤ min 256 (h.c / 4 / rows) ∧
      ETy.ofCode (fieldOf h.tshp 24 8) ≠ none ∧ ETy.ofCode (fieldOf h.tshp 16 8) ≠ none ∧
      k * rows ≤ limitOf (fieldOf h.tshp 24 8) g h.c ∧ k * vl ≤ limitOf (fieldOf h.tshp 16 8) g h.c,
      groupList g false [a, b], fun _ => True⟩
  let tile : Option Asked :=
    let rows := fieldOf h.tshp 0 7
    some ⟨[], [], h.tshp.getLsbD 63 = false ∧ 0 < rows ∧ vl ≤ min 256 (h.c / 4 / rows), [], fun _ => True⟩
  let free : Option Asked := some ⟨[], [], True, [], fun _ => True⟩
  let mm (l : List (BitVec 5)) (types : List Nat) : Option Asked :=
    some ⟨l, l.map fun r => h.xr (r + 1), et ∈ types ∧ ∀ r ∈ l, r ≠ 0 ∧ r ≠ 31, [], fun _ => True⟩
  match i with
  | .vadd _ _ _ a b => plain [a, b] integerCodes []
  | .vsub _ _ _ a b => plain [a, b] integerCodes []
  | .vmul _ _ _ a b => plain [a, b] (integerCodes ++ [0x81]) []
  | .vmulh _ _ _ a b => plain [a, b] integerCodes []
  | .vmin _ _ _ a b => plain [a, b] integerCodes []
  | .vmax _ _ _ a b => plain [a, b] integerCodes []
  | .vand _ _ _ a b => plain [a, b] integerCodes []
  | .vor _ _ _ a b => plain [a, b] integerCodes []
  | .vxor _ _ _ a b => plain [a, b] integerCodes []
  | .vsadd _ _ _ a b => plain [a, b] integerCodes []
  | .vssub _ _ _ a b => plain [a, b] integerCodes []
  | .vmacc _ _ _ a b => plain [a, b] integerCodes []
  | .vaddx _ _ _ a b => plain [a] integerCodes [b]
  | .vmulx _ _ _ a b => plain [a] integerCodes [b]
  | .vaddi _ _ _ a _ => plain [a] integerCodes []
  | .vslli _ _ _ a n => shift a n
  | .vsrli _ _ _ a n => shift a n
  | .vsrai _ _ _ a n => shift a n
  | .vcmpeq _ _ _ a b => plain [a, b] (integerCodes ++ [0x81]) []
  | .vcmplt _ _ _ a b => plain [a, b] (integerCodes ++ [0x81]) []
  | .vcmple _ _ _ a b => plain [a, b] (integerCodes ++ [0x81]) []
  | .vsel _ m _ a b => if m = 1 then plain [a, b] validCodes [] else none
  | .vmvx _ _ _ b => plain [] validCodes [b]
  | .vfadd _ _ _ a b => plain [a, b] wideFloatCodes []
  | .vfsub _ _ _ a b => plain [a, b] wideFloatCodes []
  | .vfmul _ _ _ a b => plain [a, b] wideFloatCodes []
  | .vfdiv _ _ _ a b => plain [a, b] wideFloatCodes []
  | .vfsqrt _ _ _ a => plain [a] wideFloatCodes []
  | .vfma _ _ _ a b => plain [a, b] wideFloatCodes []
  | .vfmin _ _ _ a b => plain [a, b] wideFloatCodes []
  | .vfmax _ _ _ a b => plain [a, b] wideFloatCodes []
  | .vfcmpeq _ _ _ a b => plain [a, b] wideFloatCodes []
  | .vfcmplt _ _ _ a b => plain [a, b] wideFloatCodes []
  | .vfcmple _ _ _ a b => plain [a, b] wideFloatCodes []
  | .vfmulx _ _ _ a b => plain [a] wideFloatCodes [b]
  | .vfsmul _ _ d a b => scaled d a b
  | .vfsmacc _ _ d a b => scaled d a b
  | .vfcvt _ _ _ a => convert a (ct ∈ floatCodes ∧ et ∈ floatCodes) false
  | .vfcvti _ _ _ a => convert a (ct ∈ floatCodes ∧ et ∉ floatCodes) false
  | .vicvtf _ _ _ a => convert a (ct ∉ floatCodes ∧ et ∈ floatCodes) false
  | .vicvt _ _ _ a => convert a (ct ∉ floatCodes ∧ et ∉ floatCodes) false
  | .vskv _ _ _ a => convert a
      ((ct ∈ packedCodes ∧ et ∈ 0x81 :: slicedCodes ∧ widthOf et ≤ widthOf ct) ∨
        (et ∈ packedCodes ∧ ct ∈ 0x81 :: slicedCodes ∧ widthOf ct ≤ widthOf et)) true
  | .vredsum _ _ _ a => plain [a] integerCodes []
  | .vredmax _ _ _ a => plain [a] integerCodes []
  | .vfredsum _ _ _ a => plain [a] [0x34, 0x35, 0x44] []
  | .vfredmax _ _ _ a => plain [a] wideFloatCodes []
  | .vtopk _ _ _ a b =>
    some ⟨[b], [], et ∈ [0x35, 0x34, 0x44, 0x13, 0x14, 0x15, 0x23, 0x24, 0x25] ∧ x b ≤ h.c / 8, groupList g true [a],
      fun _ => True⟩
  | .vperm _ _ _ a b => apart [a, b] validCodes []
  | .vslideup _ _ _ a b => apart [a] validCodes [b]
  | .vslidedn _ _ _ a b => apart [a] validCodes [b]
  | .vcompress _ _ _ a => apart [a] validCodes []
  | .viota _ _ _ => plain [] integerCodes []
  | .kand _ _ _ _ _ => plain [] validCodes []
  | .kor _ _ _ _ _ => plain [] validCodes []
  | .kxor _ _ _ _ _ => plain [] validCodes []
  | .kandn _ _ _ _ _ => plain [] validCodes []
  | .knot _ _ _ _ => plain [] validCodes []
  | .kbefore _ _ _ _ => plain [] validCodes []
  | .kset _ _ _ => plain [] validCodes []
  | .vld _ m _ b _ => unit [] b m false
  | .vst _ m v b _ => unit [v] b m true
  | .vlds _ _ _ b n _ => plain [] byteCodes [b, n]
  | .vsts _ _ v b n _ => plain [v] byteCodes [b, n]
  | .vldff _ _ _ b _ => plain [] byteCodes [b]
  | .vqrd _ _ _ _ _ => plain [] byteCodes []
  | .vldx _ _ v b n _ => indexed [] v b n byteCodes True fun _ => True
  | .vstx _ _ v b n _ => indexed [v] v b n byteCodes True fun _ => True
  | .vamoadd _ _ v b n _ _ => amo v b n
  | .vamomin _ _ v b n _ _ => amo v b n
  | .vamomax _ _ v b n _ _ => amo v b n
  | .vamoand _ _ v b n _ _ => amo v b n
  | .vamoor _ _ v b n _ _ => amo v b n
  | .vamoxor _ _ v b n _ _ => amo v b n
  | .vamoswap _ _ v b n _ _ => amo v b n
  | .vamocas _ _ v b n _ _ =>
    let gi := groupFor g 32 (widthOf et)
    indexed [] v b n [0x15, 0x16, 0x25, 0x26]
      (v.toNat + g ≤ 31 ∧ (v.toNat + 2 * g ≤ n.toNat ∨ n.toNat + gi ≤ v.toNat + g)) fun _ => True
  | .mmcpy _ _ d a _ => mm [d, a] (byteCodes)
  | .mmadd _ _ d a b _ => mm [d, a, b] (packedCodes ++ wideFloatCodes)
  | .mmsub _ _ d a b _ => mm [d, a, b] (packedCodes ++ wideFloatCodes)
  | .mmmul _ _ d a b _ => mm [d, a, b] (packedCodes ++ wideFloatCodes)
  | .mmmin _ _ d a b _ => mm [d, a, b] (packedCodes ++ wideFloatCodes)
  | .mmmax _ _ d a b _ => mm [d, a, b] (packedCodes ++ wideFloatCodes)
  | .mxacc _ _ _ a b => feed a b 1
  | .mxsub _ _ _ a b => feed a b 1
  | .mopk _ _ _ a b => feed a b (fieldOf h.tshp 8 8)
  | .mzero _ _ => free
  | .mdrain _ _ _ _ => tile
  | .mrow _ _ _ _ => tile
  | .tsave _ _ _ => free
  | .trest _ _ _ => free
  | _ => none

/-- A destination of `n` registers from `d` fits its sources (R141). -/
def DestFits (srcs : List (BitVec 5 × Nat × Bool)) (d n : Nat) : Prop :=
  d % n = 0 ∧ ∀ x ∈ srcs, d + n ≤ x.1.toNat ∨ x.1.toNat + x.2.1 ≤ d ∨ (x.2.2 = false ∧ x.1.toNat = d ∧ x.2.1 = n)

/-- The group rules of R141 and, for a lent copy register, of R32. -/
def GroupsFit (i : Instr) (h : Hart) (x : Asked) : Prop :=
  let g := 2 ^ fieldOf h.vtype 8 2
  (∀ y ∈ x.srcs, y.1.toNat % y.2.1 = 0) ∧
  match destOf i with
  | .group d => DestFits x.srcs d.toNat g ∧
    ∀ l, h.loan = some l → l.dc = true → DestFits x.srcs l.vdc.toNat g ∧ x.copy l.vdc.toNat
  | .single d => DestFits x.srcs d.toNat 1 ∧
    ∀ l, h.loan = some l → l.dc = true → DestFits x.srcs l.vdc.toNat 1 ∧ x.copy l.vdc.toNat
  | .pred _ | .nothing => ∀ l, h.loan = some l → l.dc = false

/-- The mask rule of R32: a lent mask register asks for m = 1. -/
def LoanFits (i : Instr) (h : Hart) : Prop := ∀ l, h.loan = some l → l.k ≠ 0 → masked i = true

/-- The convoy that an instruction of a class joins or begins (R28, R29): the classes it then holds. -/
def JoinsConvoy (i : Instr) (c : Machine.Class) (h : Hart) (cv : List Machine.Class) : Prop :=
  match h.convoy with
  | none => cv = [c]
  | some l => if opensConvoy i = true then cv = [c] else c ∉ l ∧ cv = c :: l

/-- The number of that convoy among those of the hart: the next one where none is open or the instruction begins one. -/
def convoyNumber (i : Instr) (h : Hart) : Nat :=
  if h.convoy = none ∨ opensConvoy i = true then h.convoys + 1 else h.convoys

/-- The hart may let a V, W or M instruction enter: out of handler mode, its vector state in lanes. -/
def InLanes (h : Hart) : Prop := h.hm = false ∧ h.vloc = 1 ∧ h.share ≠ 0

/-- The captured entry (R138, R357): the scalar operands in the order of the written form (log entry 74), and a seed that is
0 outside SR (log entry 72). -/
def entryFor (i : Instr) (c : Machine.Class) (x : Asked) (h : Hart) (stamp : Nat) : QEntry where
  addr := h.pc
  instr := i
  cls := c
  loan := h.loan
  vl := h.vl.toNat
  start := 0
  vtype := h.vtype
  rm := h.frm
  tshp := h.tshp
  seed := if c ≠ .feed ∧ vectorMode h.vtype h.frm = .sr then h.seed else 0
  ops := Vector.ofFn fun j : Fin 3 => match x.ops[j.val]? with
    | some r => ⟨h.xr r, h.tagOf r⟩
    | none => ⟨0, none⟩
  strides := Vector.ofFn fun j : Fin 3 => x.strides.getD j.val 0
  mask := none
  probed := none
  limit := 0
  asked := false
  answer := none
  early := []
  convoy := convoyNumber i h
  done := false
  aged := false
  resumed := false
  stamp := stamp

/-- The instruction has passed the checks of entry: it has left the front end with the convoy it joined, and under SR
SEED has advanced. -/
def LeavesFrontEnd (i : Instr) (c : Machine.Class) (cv : List Machine.Class) (q : List QEntry) (s t : State) : Prop :=
  OnlyHart s t ∧
  t.hart = { s.hart.completed none with
    queue := q, convoy := some cv, convoys := convoyNumber i s.hart
    seed := if c ≠ .feed ∧ vectorMode s.hart.vtype s.hart.frm = .sr then s.hart.seed + 1 else s.hart.seed }

/-- Whole-register moves: class and base register. -/
def wholeMoveOf (i : Instr) : Option (Machine.Class × BitVec 5) :=
  match i with
  | .vsr _ _ x => some (.store, x)
  | .vsrPredicate _ _ x => some (.store, x)
  | .vlr _ _ x => some (.load, x)
  | .vlrPredicate _ _ x => some (.load, x)
  | _ => none

/-- Bit `i` of a predicate image. -/
def bitOf (img : Bytes) (i : Nat) : Bool := (Bytes.get img (i / 8)).getLsbD (i % 8)

/-! ### Element results (R142, R145, R146, R153 to R155) -/

/-- The hart acts, the given entry is its oldest, has not completed, and no younger one may go before it, and no other hart
of the core has queued work; no vector-side write of the hart is held. -/
def SoleIssuer (core : BitVec 8) (s : State) (e : QEntry) : Prop :=
  s.hart.life = .running ∧ s.hart.core = core ∧ s.hart.queue.head? = some e ∧ e.done = false ∧ (∀ n, s.mayOvertake (n + 1) = false) ∧
  (∀ h ∈ s.others, h.life = .running → h.core = core → h.queue = []) ∧
  ∀ w ∈ s.held, w.stream ≠ .vector s.hart.ser

/-- Is element `i` active: m = 0, or the bit of the mask register (R25, R32)? A mask already captured stands. -/
def isActive (e : QEntry) (h : Hart) (i : Nat) : Bool :=
  match e.mask with
  | some img => bitOf img i
  | none => !masked e.instr || h.kbit (match e.loan with
      | some l => l.k.toNat
      | none => 0) i

/-- Destination and result of an integer instruction of major 0x28: encoding, and whether it saturates (R145). -/
def integerLane (e : QEntry) (t : ETy) (h : Hart) : Option (BitVec 5 × (Nat → Nat × Bool)) :=
  let w := t.width
  let enc (r : BitVec 5) (i : Nat) : Nat := readElem h.vreg h.c r.toNat t i
  let val (r : BitVec 5) (i : Nat) : Int := t.intVal (enc r i)
  let wrap (v : Int) : Nat × Bool := (if t = .bipolar then (if 0 < v then 1 else 0) else (v % 2 ^ w).toNat, false)
  let lo : Int := if t.signed then -2 ^ (w - 1) else 0
  let hi : Int := if t.signed then 2 ^ (w - 1) - 1 else 2 ^ w - 1
  let sat (v : Int) : Nat × Bool := ((min (max v lo) hi % 2 ^ w).toNat, decide (v < lo ∨ hi < v))
  let x : Int := t.intVal (e.ops[0]).val.toNat
  let signed (v : Nat) : Int := if v < 2 ^ (w - 1) then (v : Int) else (v : Int) - 2 ^ w
  match e.instr with
  | .vadd _ _ d a b => some (d, fun i => wrap (val a i + val b i))
  | .vsub _ _ d a b => some (d, fun i => wrap (val a i - val b i))
  | .vmul _ _ d a b => some (d, fun i => wrap (val a i * val b i))
  | .vmulh _ _ d a b => some (d, fun i => wrap (val a i * val b i / 2 ^ w))
  | .vmin _ _ d a b => some (d, fun i => wrap (min (val a i) (val b i)))
  | .vmax _ _ d a b => some (d, fun i => wrap (max (val a i) (val b i)))
  | .vand _ _ d a b => some (d, fun i => (enc a i &&& enc b i, false))
  | .vor _ _ d a b => some (d, fun i => (enc a i ||| enc b i, false))
  | .vxor _ _ d a b => some (d, fun i => (enc a i ^^^ enc b i, false))
  | .vsadd _ _ d a b => some (d, fun i => sat (val a i + val b i))
  | .vssub _ _ d a b => some (d, fun i => sat (val a i - val b i))
  | .vmacc _ _ d a b => some (d, fun i => wrap (val d i + val a i * val b i))
  | .vaddx _ _ d a _ => some (d, fun i => wrap (val a i + x))
  | .vmulx _ _ d a _ => some (d, fun i => wrap (val a i * x))
  | .vaddi _ _ d a n => some (d, fun i => wrap (val a i + n.toInt))
  | .vslli _ _ d a n => some (d, fun i => wrap (val a i * 2 ^ n.toNat))
  | .vsrli _ _ d a n => some (d, fun i => (enc a i / 2 ^ n.toNat, false))
  | .vsrai _ _ d a n => some (d, fun i => wrap (signed (enc a i) / 2 ^ n.toNat))
  | .vmvx _ _ d _ => some (d, fun _ => ((e.ops[0]).val.toNat % 2 ^ w, false))
  | _ => none

/-- The types that the rows of R145 and `vmvx` take (R146). -/
def RowTakes (e : QEntry) (t : ETy) : Prop :=
  match e.instr with
  | .vmvx _ _ _ _ => True
  | .vmul _ _ _ _ _ => t.isFloat = false
  | _ => t.isFloat = false ∧ t ≠ .bipolar

/-- Destination and bits of a compare or a predicate instruction (R146, R155). -/
def predicateLane (e : QEntry) (t : ETy) (h : Hart) : Option (BitVec 5 × (Nat → Bool)) :=
  let val (r : BitVec 5) (i : Nat) : Int := t.intVal (readElem h.vreg h.c r.toNat t i)
  let k (r : BitVec 5) (i : Nat) : Bool := h.kbit r.toNat i
  match e.instr with
  | .vcmpeq _ _ d a b => some (d, fun i => decide (val a i = val b i))
  | .vcmplt _ _ d a b => some (d, fun i => decide (val a i < val b i))
  | .vcmple _ _ d a b => some (d, fun i => decide (val a i ≤ val b i))
  | .kand _ _ d a b => some (d, fun i => k a i && k b i)
  | .kor _ _ d a b => some (d, fun i => k a i || k b i)
  | .kxor _ _ d a b => some (d, fun i => k a i != k b i)
  | .kandn _ _ d a b => some (d, fun i => k a i && !k b i)
  | .knot _ _ d a => some (d, fun i => !k a i)
  | .kbefore _ _ d a => some (d, fun i => (List.range (i + 1)).all fun j => !(isActive e h j && k a j))
  | .kset _ _ d => some (d, fun _ => true)
  | _ => none

/-- The oldest entry has completed: it has left the queue, and with it those after it that had completed before. VSTART
is then the START of the entry now oldest, where that was stopped part-way; where it was not, and one of those that left
was, VSTART is 0 (R137). -/
def Completes (s t : State) : Prop :=
  let rest := s.hart.queue.tail.dropWhile QEntry.over
  let left := s.hart.queue.take (s.hart.queue.length - rest.length)
  let otherwise : BitVec 20 := if left.any QEntry.resumed then 0 else s.hart.vstart
  t.hart.queue = rest ∧ t.hart.vstart = (match rest.head? with
    | some x => if x.resumed && !x.over then BitVec.ofNat 20 x.start else otherwise
    | none => otherwise)

/-- The oldest entry goes on at element `hi`: its mask stands as captured, it is no longer aged, and it asks nothing. Where
it was stopped part-way, VSTART follows it (R137). -/
def GoesOn (e : QEntry) (hi : Nat) (s t : State) : Prop :=
  ∃ e', t.hart.queue = e' :: s.hart.queue.tail ∧ (∀ i, isActive e' s.hart i = isActive e s.hart i) ∧
    e' = { e with
      start := hi, aged := false, asked := false, answer := none, mask := e'.mask, probed := e'.probed
      limit := e'.limit, early := e.early.filter fun p => decide (hi ≤ p.1 * e.ety.unitElems) } ∧
    t.hart.vstart = (if e.resumed then BitVec.ofNat 20 hi else s.hart.vstart) ∧ t.hart.convoyRun = e.convoy

/-- A micro-operation has performed the elements below `hi` of those below `n`: the entry goes on there, or it has
completed. -/
def Advances (e : QEntry) (hi n : Nat) (s t : State) : Prop := if hi < n then GoesOn e hi s t else Completes s t

/-- Where the element group that holds element `lo` ends, at most at `n`: 1 KiB of register data in whole packing units,
counted at the type written (R143; log entry 115). -/
def groupEndOf (t : ETy) (lo n : Nat) : Nat :=
  min n (lo / (t.unitElems * (1024 / t.unitBytes)) * (t.unitElems * (1024 / t.unitBytes)) +
    t.unitElems * (1024 / t.unitBytes))

/-- The destinations of an entry: its own, and the copy register that a stirrup word lent it (R31, R32). -/
def destinations (e : QEntry) (d : BitVec 5) : List (BitVec 5) :=
  match e.loan with
  | some l => if l.dc then [d, l.vdc] else [d]
  | none => [d]

/-- Destination groups of `g` registers are aligned (R141). -/
def Aligned (e : QEntry) (d : BitVec 5) (g : Nat) : Prop := ∀ r ∈ destinations e d, r.toNat % g = 0

/-- Every destination of the entry holds `f i` in its elements from START to `hi` − 1; the elements from `n` on follow TP
once `hi` reaches `n`; all others are as before. Where `f` gives nothing the element is as before (R142). -/
def WritesEach (e : QEntry) (t : ETy) (d : BitVec 5) (g hi n : Nat) (f : Nat → Option Nat) (s u : State) : Prop :=
  (∀ r ∈ destinations e d, ∀ i, i < vlmaxFor t g s.hart.c →
    let old := readElem s.hart.vreg s.hart.c r.toNat t i
    readElem u.hart.vreg s.hart.c r.toNat t i =
      if i < e.start then old
      else if i < hi then (f i).getD old
      else if n ≤ i ∧ n ≤ hi ∧ e.vtype.getLsbD 13 = true then 0 else old) ∧
  (∀ q : Fin 32, (∀ r ∈ destinations e d, q.val < r.toNat ∨ r.toNat + g ≤ q.val) → u.hart.vreg[q] = s.hart.vreg[q]) ∧
  ∀ q : Fin 32, (∃ r ∈ destinations e d, r.toNat ≤ q.val ∧ q.val < r.toNat + g) → u.hart.vreg[q].width = t.width

/-- Under the mask: the result of an active element, and MP for the others. -/
def underMask (e : QEntry) (h : Hart) (f : Nat → Option Nat) (i : Nat) : Option Nat :=
  if isActive e h i = true then f i else if e.vtype.getLsbD 14 then some 0 else none

/-- The same of an element-wise instruction: the inactive elements are 0 or as before, as MP says. -/
def WritesLanes (e : QEntry) (t : ETy) (d : BitVec 5) (g hi n : Nat) (f : Nat → Option Nat) (s u : State) : Prop :=
  WritesEach e t d g hi n (underMask e s.hart f) s u

/-- The predicate holds `f i` in its active bits below VL, and 0 or the old bit in the inactive ones as MP says; the
tail up to VLMAX follows TP; every other predicate is as before (R142). -/
def WritesPred (e : QEntry) (d : BitVec 5) (f : Nat → Bool) (s u : State) : Prop :=
  (∀ i, i < vlmax e.vtype s.hart.c → u.hart.kbit d.toNat i =
    if i < e.vl ∧ isActive e s.hart i = true then f i
    else if i < e.vl then (if e.vtype.getLsbD 14 then false else s.hart.kbit d.toNat i)
    else (if e.vtype.getLsbD 13 then false else s.hart.kbit d.toNat i)) ∧
  ∀ r, r ≠ d.toNat → ∀ i, u.hart.kbit r i = s.hart.kbit r i

/-- Images whose listed bytes are in canonical form. -/
def RegistersOk (h : Hart) : Prop := ∀ r : Fin 32, Memory.wf h.vreg[r].img = true

/-! ### Places in memory -/

/-- `n` bytes at an address, read through a register as aligned loads of 8 bytes, pass their probes and their line
checks, and are these. -/
def StructAt (s : State) (tag : Option (BitVec 16)) (a n : Nat) (bs : List Byte) : Prop :=
  bs.length = n ∧
  ∃ ref, (∀ o, o < n → o % 8 = 0 →
      s.probe s.ctx ⟨slotIndex tag, a + o, 8, 8, needRead, true, true, false⟩ = .ok ref) ∧
    LocalMemory s a ∧ NoHeldWrite s a n ∧ s.readBytes s.ctx ref.word a n = some bs

/-- Bytes of a probed extent in local memory that pass their line checks. -/
def ReadsAs (s : State) (p : SlotRef × Nat) (n : Nat) (bs : List Byte) : Prop :=
  bs.length = n ∧ LocalMemory s p.2 ∧ NoHeldWrite s p.2 n ∧ s.readBytes s.ctx p.1.word p.2 n = some bs

/-- The bytes that the hart's memory holds for `n` bytes at an address, in another state of memory. -/
def seen (s u : State) (a n : Nat) : List Byte := (List.range n).map fun i => Bytes.get u.mem (performedAt s (a + i))

/-- No byte of memory differs but those where `n` bytes at an address are performed. -/
def OnlyBytes (a n : Nat) (s u : State) : Prop :=
  ∀ x, (∀ o, o < n → x ≠ performedAt s (a + o)) → Bytes.get u.mem x = Bytes.get s.mem x

/-- Every forwarding entry covers whole lines (R317). -/
def WholeLines (s : State) : Prop := ∀ e ∈ s.fwd.toList, e.len.toNat % 64 = 0

/-- A place of `n` bytes that writes of this hart reach as plain bytes: through a slot word of KEYID 0, in local
memory, each byte at a place of its own, where nothing is
held and no line is lost. -/
def PlainPlace (s : State) (p : SlotRef × Nat) (n : Nat) : Prop :=
  p.1.word.keyid = 0 ∧ WholeLines s ∧ LocalMemory s p.2 ∧ (∀ o, o < n → LocalMemory s (p.2 + o) ∧ NotHeldBack s (p.2 + o)) ∧
  (∀ o q, o < n → q < n → performedAt s (p.2 + o) = performedAt s (p.2 + q) → o = q) ∧
  (∀ o, o < n → performedAt s (p.2 + o) / 64 * 64 ∉ s.lost)

/-! ### Vector loads, stores and atomics (R229 to R232, R236) -/

/-- Data register and element addresses of a load, for a byte-width type of `n` bytes. -/
def vectorLoadOf (e : QEntry) (h : Hart) (n : Nat) : Option (BitVec 5 × (Nat → Word)) :=
  let base : Word := (e.ops[0]).val
  match e.instr with
  | .vld _ _ v _ _ => some (v, fun i => base + BitVec.ofNat 64 (i * n))
  | .vlds _ _ v _ _ _ => some (v, fun i => base + BitVec.ofNat 64 i * (e.ops[1]).val)
  | .vldx _ _ v _ x _ => some (v, fun i => base + BitVec.ofNat 64 (readElem h.vreg h.c x.toNat (.uint 32) i))
  | _ => none

/-- The same of a store. -/
def vectorStoreOf (e : QEntry) (h : Hart) (n : Nat) : Option (BitVec 5 × (Nat → Word)) :=
  let base : Word := (e.ops[0]).val
  match e.instr with
  | .vst _ _ v _ _ => some (v, fun i => base + BitVec.ofNat 64 (i * n))
  | .vsts _ _ v _ _ _ => some (v, fun i => base + BitVec.ofNat 64 i * (e.ops[1]).val)
  | .vstx _ _ v _ x _ => some (v, fun i => base + BitVec.ofNat 64 (readElem h.vreg h.c x.toNat (.uint 32) i))
  | _ => none

/-- Data register, index register, and new word of element `i` of a vector atomic from the old word M; none where nothing
is written. -/
def vectorAtomicOf (e : QEntry) (t : ETy) (h : Hart) : Option (BitVec 5 × BitVec 5 × (Nat → Nat → Option Nat)) :=
  let own (v : BitVec 5) (i : Nat) : Nat := readElem h.vreg h.c v.toNat t i
  let above (v : BitVec 5) (i : Nat) : Nat := readElem h.vreg h.c (v.toNat + 2 ^ fieldOf e.vtype 8 2) t i
  match e.instr with
  | .vamoadd _ _ v _ x _ _ => some (v, x, fun i m => some ((m + own v i) % 2 ^ t.width))
  | .vamomin _ _ v _ x _ _ => some (v, x, fun i m =>
      some (if t.intVal (own v i) < t.intVal m then own v i else m))
  | .vamomax _ _ v _ x _ _ => some (v, x, fun i m =>
      some (if t.intVal m < t.intVal (own v i) then own v i else m))
  | .vamoand _ _ v _ x _ _ => some (v, x, fun i m => some (m &&& own v i))
  | .vamoor _ _ v _ x _ _ => some (v, x, fun i m => some (m ||| own v i))
  | .vamoxor _ _ v _ x _ _ => some (v, x, fun i m => some (m ^^^ own v i))
  | .vamoswap _ _ v _ x _ _ => some (v, x, fun i _ => some (own v i))
  | .vamocas _ _ v _ x _ _ => some (v, x, fun i m => if m = own v i then some (above v i) else none)
  | _ => none

/-- Operands of a memory-to-memory form: the number of its sources, and its operation on two encodings (R157). -/
def memoryFormOf (e : QEntry) (t : ETy) : Option (Nat × (Nat → Nat → Nat → Nat × Flags)) :=
  let int (f : Int → Int → Int) (a b : Nat) : Nat × Flags := ((f (t.intVal a) (t.intVal b) % 2 ^ t.width).toNat, 0)
  let arith (g : Fmt → RMode → Word → Nat → Nat → Nat × Flags) (f : Int → Int → Int) (i a b : Nat) : Nat × Flags :=
    match t with
    | .flt x => g x (vectorMode e.vtype e.rm) (rndWord e.seed i) a b
    | _ => int f a b
  match e.instr with
  | .mmcpy _ _ _ _ _ => some (1, fun _ a _ => (a, 0))
  | .mmadd _ _ _ _ _ _ => some (2, arith Fmt.add (· + ·))
  | .mmsub _ _ _ _ _ _ => some (2, arith Fmt.sub (· - ·))
  | .mmmul _ _ _ _ _ _ => some (2, arith Fmt.mul (· * ·))
  | .mmmin _ _ _ _ _ _ => some (2, arith (fun x _ _ => x.minmax false) min)
  | .mmmax _ _ _ _ _ _ => some (2, arith (fun x _ _ => x.minmax true) max)
  | _ => none

/-- Element `i` is one that the instruction accesses. -/
def Accessed (e : QEntry) (h : Hart) (i : Nat) : Prop := e.start ≤ i ∧ i < e.vl ∧ isActive e h i = true

/-- The whole range has passed its probe, now or at an earlier micro-operation, with this slot word, every element left
lies in local memory, and none of them has been accessed before the rest of its element group. -/
def RangePasses (s : State) (e : QEntry) (n : Nat) (need : BitVec 4) (addr : Nat → Word) (ref : SlotRef) : Prop :=
  e.vl ≤ vlmax e.vtype s.hart.c ∧ e.start < e.vl ∧ e.early = [] ∧ (∀ i, Accessed e s.hart i → LocalMemory s (addr i).toNat) ∧
  (e.probed = some [ref] ∧ e.limit = e.vl ∨
    e.probed = none ∧ ∀ i, Accessed e s.hart i → ∀ window : Bool,
      s.probe s.ctx ⟨slotIndex (e.ops[0]).tag, (addr i).toNat, n, n, need, false, window, false⟩ = .ok ref)

/-- No two elements that the entry accesses reach one line by different slot offsets; where lines are encrypted, each
offset has a pad and a check of its own (R331, R333). -/
def OneOffset (s : State) (e : QEntry) (addr : Nat → Word) : Prop :=
  ∀ i j, Accessed e s.hart i → Accessed e s.hart j →
    performedAt s (addr i).toNat / 64 = performedAt s (addr j).toNat / 64 → (addr i).toNat / 64 = (addr j).toNat / 64

/-- Beside the hart, a vector write to local memory changes bytes, their line MACs, the lines lost or held dirty, and the
page counters with their event. -/
def VectorWrites (s u : State) : Prop :=
  u = { s with
    hart := u.hart, mem := u.mem, macs := u.macs, lost := u.lost, dirty := u.dirty, pages := u.pages
    events := u.events, eventLost := u.eventLost }

/-- R138, R141, R357: a V, W or M instruction that meets the checks of its row enters the queue with the values it
captures, joins its convoy, and pc goes on; with a captured VL of 0 it retires at once. No register, no byte of
memory and no flag changes, and the record becomes invalid. The entry holds a seed of 0 outside SR (log entry 72) and
its operands in the order of the written form (log entry 74): both are the model's. -/
def VectorEntry : Prop :=
  ∀ (i : Instr) (c : Machine.Class) (x : Asked) (cv : List Machine.Class) (s : State),
    askedOf i s.hart = some x → classOf i = some c → InLanes s.hart → s.hart.vtype.getLsbD 63 = false →
    s.hart.vl.toNat ≤ vlmax s.hart.vtype s.hart.c → s.hart.view = .own →
    x.ok → GroupsFit i s.hart x → LoanFits i s.hart → JoinsConvoy i c s.hart cv →
    (s.hart.vl = 0 → Yields i s (LeavesFrontEnd i c cv s.hart.queue s)) ∧
    (s.hart.vl ≠ 0 → s.hart.queue.length < 64 →
      Yields i s (LeavesFrontEnd i c cv (s.hart.queue ++ [entryFor i c x s.hart (64 * s.tick)]) s)) ∧
    (s.hart.vl ≠ 0 → 64 ≤ s.hart.queue.length → Yields i s (Waits .retry s))

/-- R14, R136, R138, R29: a V, W or M instruction of a hart without a share takes the trap of R14; while VILL is 1,
with a VL above VLMAX, or as the second of its class in a convoy, it is illegal. -/
def VectorEntryTraps : Prop :=
  ∀ (i : Instr) (c : Machine.Class) (s : State), classOf i = some c → CanTrap s → s.hart.loan = none →
    (s.hart.share = 0 → Yields i s (TrapsHere 9 0 (s.hart.iw.zeroExtend 64) s)) ∧
    (InLanes s.hart → s.hart.view = .own → wholeMoveOf i = none →
      s.hart.vtype.getLsbD 63 = true ∨ vlmax s.hart.vtype s.hart.c < s.hart.vl.toNat → Yields i s (TrapsIllegal s)) ∧
    (InLanes s.hart → s.hart.view = .own → opensConvoy i = false → (∃ l, s.hart.convoy = some l ∧ c ∈ l) →
      Yields i s (TrapsIllegal s))

/-- R32: a pair whose follower lacks the mask bit while a mask register is lent, or cannot have its result copied to the
lent register, is illegal; the trap is reported at the stirrup word, with that word, and PEND is 0. That the other checks
of the follower come first is the rule of R20. -/
def StirrupFailures : Prop :=
  ∀ (i : Instr) (c : Machine.Class) (l : Loan) (w : BitVec 32) (s : State),
    let fails := Yields i s (TrapsIllegal (atStirrup s w))
    classOf i = some c → InLanes s.hart → s.hart.view = .own → CanTrap s → s.hart.loan = some l →
    encode (if l.dc then .stirCopy l.k l.vdc else .stir l.k) = some w →
    (∀ x, askedOf i s.hart = some x → s.hart.vtype.getLsbD 63 = false →
      s.hart.vl.toNat ≤ vlmax s.hart.vtype s.hart.c → x.ok → GroupsFit i { s.hart with loan := none } x →
      ¬(LoanFits i s.hart ∧ GroupsFit i s.hart x) → fails) ∧
    (wholeMoveOf i ≠ none → ¬(LoanFits i s.hart ∧ (l.dc = true → writesVector i = true)) → fails)

/-- R166: tshp sets TSHP from VTYPE when it enters, joins its convoy and takes no entry; with VL = 0 it leaves TSHP. -/
def TileShape : Prop :=
  ∀ (c : BitVec 1) (k : BitVec 5) (cv : List Machine.Class) (s : State),
    let et := fieldOf s.hart.vtype 0 8
    let at' := if fieldOf s.hart.vtype 24 8 = 0 then et else fieldOf s.hart.vtype 24 8
    let floats := [0x34, 0x44, 0x50, 0x51, 0x52, 0x53]
    let ints := [0x13, 0x14, 0x23, 0x24, 0x81] ++ slicedCodes
    InLanes s.hart → s.hart.view = .own → s.hart.vtype.getLsbD 63 = false →
    s.hart.vl.toNat ≤ vlmax s.hart.vtype s.hart.c → fieldOf s.hart.vtype 8 2 ≤ 2 →
    (et ∈ floats ∧ at' ∈ floats ∨ et ∈ ints ∧ at' ∈ ints) → s.hart.loan = none →
    JoinsConvoy (.tshp c k) .feed s.hart cv →
    Yields (.tshp c k) s fun t => OnlyHart s t ∧ t.hart = { s.hart.completed none with
      convoy := some cv, convoys := convoyNumber (.tshp c k) s.hart
      tshp := if s.hart.vl = 0 then s.hart.tshp
        else BitVec.ofNat 64 (at' * 2 ^ 24 + et * 2 ^ 16 + 4 * (k.toNat + 1) * 2 ^ 8 + 16 * 2 ^ fieldOf s.hart.vtype 8 2) }

/-- R382, R101: vsr and vlr enter the queue whatever VTYPE and VL hold; in mode SR they capture SEED and advance it. -/
def WholeRegisterMoves : Prop :=
  ∀ (i : Instr) (c : Machine.Class) (b : BitVec 5) (cv : List Machine.Class) (s : State),
    wholeMoveOf i = some (c, b) → InLanes s.hart → LoanFits i s.hart →
    (∀ l, s.hart.loan = some l → l.dc = true → writesVector i = true) → JoinsConvoy i c s.hart cv →
    s.hart.queue.length < 64 →
    Yields i s (LeavesFrontEnd i c cv
      (s.hart.queue ++ [entryFor i c ⟨[b], [], True, [], fun _ => True⟩ s.hart (64 * s.tick)]) s)

/-- R382: as the oldest entry, vsr stores the C bytes of its register or predicate at its address and no other byte,
whatever VTYPE and VL hold, and vlr loads them into its register, at width tag 64, and into a lent copy register, or
into its predicate; an unaligned address is the misaligned fault, at element 0 (log entry 81, an inference). -/
def WholeRegisterEffects : Prop :=
  ∀ (s : State) (core : BitVec 8) (e : QEntry) (ref : SlotRef),
    let c := s.hart.c
    let a := (e.ops[0]).val.toNat
    let passes (need : BitVec 4) : Prop :=
      s.probe s.ctx ⟨slotIndex (e.ops[0]).tag, a, c, 64, need, false, true, false⟩ = .ok ref
    let stores (img : Bytes) : Prop := Yields (.microopIssue core) s fun u => Completes s u ∧ VectorWrites s u ∧
      u.hart = { s.hart with queue := u.hart.queue, vstart := u.hart.vstart, convoyRun := u.hart.convoyRun } ∧ OnlyBytes a c s u ∧
      ∀ o, o < c → Bytes.get u.mem (performedAt s (a + o)) = Bytes.get img o
    let image (bs : List Byte) (img : Bytes) : Prop := ∀ o, Bytes.get img o = bs.getD o 0
    SoleIssuer core s e → e.start = 0 → s.hart.view = .own → s.hart.hm = false → s.hart.share ≠ 0 → s.hart.share.toNat ≤ 4 →
    (passes needWrite → Memory.wf s.mem = true → PlainPlace s (ref, a) c →
      (∀ x v b, e.instr = .vsr x v b → stores s.hart.vreg[v.toNat].img) ∧
      (∀ x v b, e.instr = .vsrPredicate x v b → stores (s.hart.kreg.toList.getD v.toNat []))) ∧
    (∀ bs, passes needRead → ReadsAs s (ref, a) c bs →
      (∀ x v b, e.instr = .vlr x v b → Yields (.microopIssue core) s fun u => Completes s u ∧ CountsOnly s u ∧
        u.hart = { s.hart with queue := u.hart.queue, vstart := u.hart.vstart, convoyRun := u.hart.convoyRun, vreg := u.hart.vreg } ∧
        (∀ r ∈ destinations e v, (u.hart.vreg[r.toNat]).width = 64 ∧ image bs (u.hart.vreg[r.toNat]).img) ∧
        ∀ q : BitVec 5, q ∉ destinations e v → u.hart.vreg[q.toNat] = s.hart.vreg[q.toNat]) ∧
      (∀ x v b, e.instr = .vlrPredicate x v b → v.toNat < 12 → Yields (.microopIssue core) s fun u =>
        Completes s u ∧ CountsOnly s u ∧
        u.hart = { s.hart with queue := u.hart.queue, vstart := u.hart.vstart, convoyRun := u.hart.convoyRun, kreg := u.hart.kreg } ∧
        image bs (u.hart.kreg.toList.getD v.toNat []) ∧
        ∀ q : Fin 12, q.val ≠ v.toNat → u.hart.kreg[q] = s.hart.kreg[q])) ∧
    (wholeMoveOf e.instr ≠ none → a % 64 ≠ 0 → CanTrap s → Yields (.microopIssue core) s (TrapsHere 5 1 (e.ops[0]).val s))

/-- R142, R143, R145, R31, R32: a micro-operation of an integer instruction performs one element group from START: it
writes the result of every active element to its destination and to a lent copy register, 0 or nothing to the inactive
ones as MP says, and, with the last group, 0 or nothing to the tail as TP says; SAT is raised for a saturated active
element; every register outside the destinations stays. -/
def VectorIntegerElements : Prop :=
  ∀ (s : State) (core : BitVec 8) (e : QEntry) (t : ETy) (d : BitVec 5) (f : Nat → Nat × Bool),
    let g := 2 ^ fieldOf e.vtype 8 2
    let hi := groupEndOf t e.start e.vl
    let saturates := ∃ i, e.start ≤ i ∧ i < hi ∧ isActive e s.hart i = true ∧ (f i).2 = true
    SoleIssuer core s e → e.vtype.getLsbD 63 = false → ETy.ofCode (fieldOf e.vtype 0 8) = some t → RowTakes e t →
    integerLane e t s.hart = some (d, f) → RegistersOk s.hart → e.start < e.vl → e.vl ≤ vlmax e.vtype s.hart.c →
    Aligned e d g →
    Yields (.microopIssue core) s fun u => Advances e hi e.vl s u ∧ SameMemory s u ∧ u.others = s.others ∧
      u.hart = { s.hart with
        vreg := u.hart.vreg, fflags := u.hart.fflags, queue := u.hart.queue, vstart := u.hart.vstart, convoyRun := u.hart.convoyRun } ∧
      WritesLanes e t d g hi e.vl (fun i => some (f i).1) s u ∧
      (saturates → u.hart.fflags = s.hart.fflags ||| Flags.sat) ∧ (¬ saturates → u.hart.fflags = s.hart.fflags)

/-- R142, R146, R155: a compare or a predicate instruction writes the bits of its destination at once: the result of
every active element, and the policies for the others; every other register stays. -/
def PredicateResults : Prop :=
  ∀ (s : State) (core : BitVec 8) (e : QEntry) (t : ETy) (d : BitVec 5) (f : Nat → Bool),
    SoleIssuer core s e → e.vtype.getLsbD 63 = false → ETy.ofCode (fieldOf e.vtype 0 8) = some t →
    predicateLane e t s.hart = some (d, f) → e.start = 0 → e.vl ≤ vlmax e.vtype s.hart.c → d.toNat < 12 →
    Memory.wf (s.hart.kreg.toList.getD d.toNat []) = true →
    Yields (.microopIssue core) s fun u => Completes s u ∧ SameMemory s u ∧ u.others = s.others ∧
      u.hart = { s.hart with kreg := u.hart.kreg, queue := u.hart.queue, vstart := u.hart.vstart, convoyRun := u.hart.convoyRun } ∧
      WritesPred e d f s u

/-- R229, R230, R142, R143: a micro-operation of a vector load of local memory of a byte-width type whose active elements
pass probe and line check writes one element group to its destination, and to a lent copy register, under the policies for
the others; it stores nothing. -/
def VectorLoads : Prop :=
  ∀ (s : State) (core : BitVec 8) (e : QEntry) (t : ETy) (v : BitVec 5) (addr : Nat → Word) (ref : SlotRef)
    (bs : Nat → List Byte),
    let n := t.width / 8
    let g := 2 ^ fieldOf e.vtype 8 2
    let hi := groupEndOf t e.start e.vl
    SoleIssuer core s e → e.vtype.getLsbD 63 = false → ETy.ofCode (fieldOf e.vtype 0 8) = some t → t.byteWidth = true →
    vectorLoadOf e s.hart n = some (v, addr) → RangePasses s e n needRead addr ref → RegistersOk s.hart →
    Aligned e v g →
    (∀ i, Accessed e s.hart i → NoHeldWrite s (addr i).toNat n ∧
      s.readBytes s.ctx ref.word (addr i).toNat n = some (bs i)) →
    Yields (.microopIssue core) s fun u => Advances e hi e.vl s u ∧ CountsOnly s u ∧
      u.hart = { s.hart with vreg := u.hart.vreg, queue := u.hart.queue, vstart := u.hart.vstart, convoyRun := u.hart.convoyRun } ∧
      WritesLanes e t v g hi e.vl (fun i => some (littleEndian (bs i))) s u

/-- R232: vldff loads as vld does when every active element passes, and VLFF is VL; when the least failing element `k` is
not the least active one, it loads those below `k`, the rest is tail, and VLFF is `k`; when it is, it takes the fault. -/
def FirstFaultLoads : Prop :=
  ∀ (s : State) (core : BitVec 8) (e : QEntry) (t : ETy) (c m : BitVec 1) (v x : BitVec 5) (p : BitVec 2) (ref : SlotRef)
    (bs : Nat → List Byte) (k : Nat),
    let n := t.width / 8
    let g := 2 ^ fieldOf e.vtype 8 2
    let addr (i : Nat) : Word := (e.ops[0]).val + BitVec.ofNat 64 (i * n)
    let probe (i : Nat) : Except Nat SlotRef :=
      s.probe s.ctx ⟨slotIndex (e.ops[0]).tag, (addr i).toNat, n, n, needRead, false, true, false⟩
    let hi := groupEndOf t e.start k
    let below (i : Nat) : Prop := Accessed e s.hart i ∧ i < k
    SoleIssuer core s e → e.vtype.getLsbD 63 = false → ETy.ofCode (fieldOf e.vtype 0 8) = some t → t.byteWidth = true →
    e.instr = .vldff c m v x p → e.early = [] → e.start < k → k ≤ e.vl → e.vl ≤ vlmax e.vtype s.hart.c →
    RegistersOk s.hart → Aligned e v g →
    ((∀ i, below i → LocalMemory s (addr i).toNat ∧ NoHeldWrite s (addr i).toNat n ∧
        s.readBytes s.ctx ref.word (addr i).toNat n = some (bs i)) →
      (e.probed = some [ref] ∧ e.limit = k ∨ e.probed = none ∧ (∀ i, below i → probe i = .ok ref) ∧
        (k = e.vl ∨ Accessed e s.hart k ∧ (∃ d, probe k = .error d) ∧ ∃ i, below i)) →
      Yields (.microopIssue core) s fun u => Advances e hi k s u ∧ CountsOnly s u ∧
        u.hart = { s.hart with
          vreg := u.hart.vreg, queue := u.hart.queue, vstart := u.hart.vstart, convoyRun := u.hart.convoyRun
          vlff := if hi < k then s.hart.vlff else BitVec.ofNat 20 k } ∧
        WritesLanes e t v g hi k (fun i => some (littleEndian (bs i))) s u) ∧
    ∀ d i, e.probed = none → Accessed e s.hart i → (∀ j, Accessed e s.hart j → i ≤ j) → probe i = .error d → CanTrap s →
      (s.hart.wid = 0 ∧ d < 16 ∨ d = 1 ∨ d = 2 ∨ d = 5) →
      Yields (.microopIssue core) s (TrapsHere 5 (BitVec.ofNat 64 (d + 256 * i)) (addr i) s)

/-- Element type, base register, scope of a vector atomic that the host may take: an add, a swap or a compare-and-swap of
64 bits with system scope (R236). -/
def hostAtomic (e : QEntry) (t : ETy) : Bool :=
  match e.instr with
  | .vamoadd _ _ _ _ _ _ sc | .vamoswap _ _ _ _ _ _ sc | .vamocas _ _ _ _ _ _ sc => t.width == 64 && sc == 5
  | _ => false

/-- R229, R360, R361: when the probe of a vector load, store or atomic fails, the access fault of the least active element
that fails is taken, with detail, index and address, and nothing has performed (a tenant, where it is not quarantined). -/
def VectorFaults : Prop :=
  ∀ (s : State) (core : BitVec 8) (e : QEntry) (t : ETy) (v : BitVec 5) (addr : Nat → Word) (need : BitVec 4) (host : Bool)
    (i d : Nat),
    let n := t.width / 8
    let probe (j : Nat) : Except Nat SlotRef :=
      s.probe s.ctx ⟨slotIndex (e.ops[0]).tag, (addr j).toNat, n, n, need, false, host, false⟩
    SoleIssuer core s e → e.vtype.getLsbD 63 = false → ETy.ofCode (fieldOf e.vtype 0 8) = some t → t.byteWidth = true →
    (vectorLoadOf e s.hart n = some (v, addr) ∧ need = needRead ∧ host = true ∨
      vectorStoreOf e s.hart n = some (v, addr) ∧ need = needWrite ∧ host = true ∨
      ∃ x f, vectorAtomicOf e t s.hart = some (v, x, f) ∧ need = needAtomic ∧ host = hostAtomic e t ∧
        addr = fun i => (e.ops[0]).val + BitVec.ofNat 64 (readElem s.hart.vreg s.hart.c x.toNat (.uint 32) i)) →
    e.probed = none → e.vl ≤ vlmax e.vtype s.hart.c → CanTrap s →
    Accessed e s.hart i → probe i = .error d → (∀ j, Accessed e s.hart j → j < i → ∃ ref, probe j = .ok ref) →
    (s.hart.wid = 0 ∧ d < 16 ∨ d = 1 ∨ d = 2 ∨ d = 5) →
    Yields (.microopIssue core) s (TrapsHere 5 (BitVec.ofNat 64 (d + 256 * i)) (addr i) s)

/-- R157, R229, R360: a memory-to-memory form probes every access of its active elements before any performs; the fault is
that of the least element that fails, at the first of its sources and its destination that fails; that order of the three
is the model's (log entry 78). -/
def MemoryFormFaults : Prop :=
  ∀ (s : State) (core : BitVec 8) (e : QEntry) (t : ETy) (k : Nat) (f : Nat → Nat → Nat → Nat × Flags) (i d : Nat) (j : Fin 3),
    let n := t.width / 8
    let addr (j : Fin 3) (i : Nat) : Word := (e.ops[j]).val + BitVec.ofNat 64 i * e.strides[j]
    let probe (i : Nat) (j : Fin 3) : Except Nat SlotRef :=
      s.probe s.ctx ⟨slotIndex (e.ops[j]).tag, (addr j i).toNat, n, n, if j.val = 0 then needWrite else needRead,
        false, true, false⟩
    SoleIssuer core s e → e.vtype.getLsbD 63 = false → ETy.ofCode (fieldOf e.vtype 0 8) = some t → t.byteWidth = true →
    memoryFormOf e t = some (k, f) → e.probed = none → e.vl ≤ vlmax e.vtype s.hart.c → CanTrap s →
    Accessed e s.hart i → j.val ≤ k → probe i j = .error d →
    (∀ i', Accessed e s.hart i' → i' < i → ∀ j : Fin 3, j.val ≤ k → ∃ r, probe i' j = .ok r) →
    (∀ j' : Fin 3, j'.val ≠ 0 → j'.val ≤ k → (j.val = 0 ∨ j'.val < j.val) → ∃ r, probe i j' = .ok r) →
    (s.hart.wid = 0 ∧ d < 16 ∨ d = 1 ∨ d = 2 ∨ d = 5) →
    Yields (.microopIssue core) s (TrapsHere 5 (BitVec.ofNat 64 (d + 256 * i)) (addr j i) s)

/-- R229, R230: so a vector store performs one element group: it changes no byte outside the places of the active elements
of the group, and no register; through a slot of KEYID 0, an element whose place no other overlaps stands in memory as the
register holds it. -/
def VectorStores : Prop :=
  ∀ (s : State) (core : BitVec 8) (e : QEntry) (t : ETy) (v : BitVec 5) (addr : Nat → Word) (ref : SlotRef),
    let n := t.width / 8
    let hi := groupEndOf t e.start e.vl
    let place (i : Nat) : Nat := performedAt s (addr i).toNat
    let stored (i : Nat) : Prop := Accessed e s.hart i ∧ i < hi
    SoleIssuer core s e → e.vtype.getLsbD 63 = false → ETy.ofCode (fieldOf e.vtype 0 8) = some t → t.byteWidth = true →
    vectorStoreOf e s.hart n = some (v, addr) → RangePasses s e n needWrite addr ref → Memory.wf s.mem = true →
    v.toNat % 2 ^ fieldOf e.vtype 8 2 = 0 → (ref.word.keyid = 0 ∨ OneOffset s e addr) →
    (∀ i, Accessed e s.hart i → NotHeldBack s (addr i).toNat ∧
      (s.readBytes s.ctx ref.word (addr i).toNat n).isSome = true) →
    Yields (.microopIssue core) s fun u => Advances e hi e.vl s u ∧ VectorWrites s u ∧
      u.hart = { s.hart with queue := u.hart.queue, vstart := u.hart.vstart, convoyRun := u.hart.convoyRun } ∧
      (∀ a, (∀ i, stored i → a < place i ∨ place i + n ≤ a) → Bytes.get u.mem a = Bytes.get s.mem a) ∧
      (ref.word.keyid = 0 → ∀ i, stored i →
        (∀ j, stored j → j ≠ i → place j + n ≤ place i ∨ place i + n ≤ place j) →
        ∀ k, k < n → Bytes.get u.mem (place i + k) =
          BitVec.ofNat 8 (readElem s.hart.vreg s.hart.c v.toNat t i / 256 ^ k))

/-- R236, R235: a vector atomic on local memory performs the atomics of one element group whose words do not overlap: the
old words go to the data register, and to a lent copy register, under the policies; each new word stands at its place
through a slot of KEYID 0, and no other byte changes. -/
def VectorAtomics : Prop :=
  ∀ (s : State) (core : BitVec 8) (e : QEntry) (t : ETy) (v x : BitVec 5) (f : Nat → Nat → Option Nat) (ref : SlotRef)
    (bs : Nat → List Byte),
    let n := t.width / 8
    let g := 2 ^ fieldOf e.vtype 8 2
    let hi := groupEndOf t e.start e.vl
    let addr (i : Nat) : Word :=
      (e.ops[0]).val + BitVec.ofNat 64 (readElem s.hart.vreg s.hart.c x.toNat (.uint 32) i)
    let place (i : Nat) : Nat := performedAt s (addr i).toNat
    let old (i : Nat) : Nat := littleEndian (bs i)
    SoleIssuer core s e → e.vtype.getLsbD 63 = false → ETy.ofCode (fieldOf e.vtype 0 8) = some t →
    t ∈ [ETy.uint 32, .uint 64, .sint 32, .sint 64] →
    vectorAtomicOf e t s.hart = some (v, x, f) → s.amoHeld ⟨s.hart.ser, e.addr, some e.start⟩ = false →
    s.owedTo ⟨s.hart.ser, e.addr, some e.start⟩ = none →
    RangePasses s e n needAtomic addr ref → RegistersOk s.hart → Memory.wf s.mem = true → Aligned e v g →
    (ref.word.keyid = 0 ∨ OneOffset s e addr) →
    (∀ i, Accessed e s.hart i → NotHeldBack s (addr i).toNat ∧ NoHeldWrite s (addr i).toNat n ∧
      s.readBytes s.ctx ref.word (addr i).toNat n = some (bs i)) →
    (∀ i j, Accessed e s.hart i → Accessed e s.hart j → i ≠ j → place i + n ≤ place j ∨ place j + n ≤ place i) →
    Yields (.microopIssue core) s fun u => Advances e hi e.vl s u ∧ VectorWrites s u ∧
      u.hart = { s.hart with vreg := u.hart.vreg, queue := u.hart.queue, vstart := u.hart.vstart, convoyRun := u.hart.convoyRun } ∧
      WritesLanes e t v g hi e.vl (fun i => some (old i)) s u ∧
      (∀ a, (∀ i, Accessed e s.hart i → i < hi → (f i (old i)).isSome = true → a < place i ∨ place i + n ≤ a) →
        Bytes.get u.mem a = Bytes.get s.mem a) ∧
      (ref.word.keyid = 0 → ∀ i w, Accessed e s.hart i → i < hi → f i (old i) = some w →
        ∀ k, k < n → Bytes.get u.mem (place i + k) = BitVec.ofNat 8 (w / 256 ^ k))

/-- R157: a micro-operation of a memory-to-memory form, whose range has passed its probe, performs its least active element
left (one element: log entry 78): it reads its sources and stores the result, with its flags, at the element's place of the
destination and nowhere else. With no active element left the form completes and writes nothing. -/
def MemoryForms : Prop :=
  ∀ (s : State) (core : BitVec 8) (e : QEntry) (t : ETy) (k : Nat) (f : Nat → Nat → Nat → Nat × Flags)
    (ref : Fin 3 → SlotRef),
    let n := t.width / 8
    let addr (j : Fin 3) (i : Nat) : Word := (e.ops[j]).val + BitVec.ofNat 64 i * e.strides[j]
    SoleIssuer core s e → e.vtype.getLsbD 63 = false → ETy.ofCode (fieldOf e.vtype 0 8) = some t → t.byteWidth = true →
    memoryFormOf e t = some (k, f) → e.vl ≤ vlmax e.vtype s.hart.c →
    (e.probed = some (((List.finRange 3).filter fun j => j.val ≤ k).map ref) ∨
      e.probed = none ∧ ∀ i, Accessed e s.hart i → ∀ j : Fin 3, j.val ≤ k →
        s.probe s.ctx ⟨slotIndex (e.ops[j]).tag, (addr j i).toNat, n, n, if j.val = 0 then needWrite else needRead,
          false, true, false⟩ = .ok (ref j)) →
    ((∀ i, ¬ Accessed e s.hart i) → Yields (.microopIssue core) s fun u => Completes s u ∧
      u = { s with hart := { s.hart with queue := u.hart.queue, vstart := u.hart.vstart, convoyRun := u.hart.convoyRun } }) ∧
    ∀ (i : Nat) (bs : Fin 3 → List Byte), Accessed e s.hart i → (∀ j, Accessed e s.hart j → i ≤ j) → Memory.wf s.mem = true →
      (∀ j : Fin 3, j.val ≤ k → LocalMemory s (addr j i).toNat ∧
        s.readBytes s.ctx (ref j).word (addr j i).toNat n = some (bs j)) →
      (∀ j : Fin 3, 1 ≤ j.val → j.val ≤ k → NoHeldWrite s (addr j i).toNat n) → NotHeldBack s (addr 0 i).toNat →
      let r := f i (littleEndian (bs 1)) (if k = 1 then 0 else littleEndian (bs 2))
      let p := performedAt s (addr 0 i).toNat
      Yields (.microopIssue core) s fun u => GoesOn e (i + 1) s u ∧ VectorWrites s u ∧
        u.hart = { s.hart with
          queue := u.hart.queue, vstart := u.hart.vstart, convoyRun := u.hart.convoyRun, fflags := s.hart.fflags ||| r.2 } ∧
        (∀ a, a < p ∨ p + n ≤ a → Bytes.get u.mem a = Bytes.get s.mem a) ∧
        ((ref 0).word.keyid = 0 → ∀ b, b < n → Bytes.get u.mem (p + b) = BitVec.ofNat 8 (r.1 / 256 ^ b))

/-- R239: vqrd takes as many elements as have arrived, are left and fit VL, writes them under the mask with the rest as
tail, advances the stream, and VLFF is their number; with none arrived and some left it waits. An unbound stream, or
one of elements of another width, is the stream-state fault. -/
def VectorStreamReads : Prop :=
  ∀ (s : State) (core : BitVec 8) (e : QEntry) (t : ETy) (c m : BitVec 1) (v x : BitVec 5) (p : BitVec 2) (q : Fin 8),
    let b := s.hart.streams[q]
    let left := b.extent.toNat - b.pos.toNat
    let k := min e.vl (min b.ready.length left)
    let g := 2 ^ fieldOf e.vtype 8 2
    let fits := b.bound = true ∧ ∃ u, ETy.ofCode b.et.toNat = some u ∧ u.width = t.width
    SoleIssuer core s e → e.vtype.getLsbD 63 = false → ETy.ofCode (fieldOf e.vtype 0 8) = some t → t.byteWidth = true →
    e.instr = .vqrd c m v x p → x.toNat % 8 = q.val → e.start = 0 → e.vl ≤ vlmax e.vtype s.hart.c → RegistersOk s.hart →
    Aligned e v g →
    (fits → (b.ready ≠ [] ∨ left = 0) → Yields (.microopIssue core) s fun u => Completes s u ∧ OnlyHart s u ∧
      u.hart = { s.hart with
        vreg := u.hart.vreg, queue := u.hart.queue, vstart := u.hart.vstart, convoyRun := u.hart.convoyRun, vlff := BitVec.ofNat 20 k
        streams := s.hart.streams.set q { b with pos := b.pos + BitVec.ofNat 64 k, ready := b.ready.drop k } } ∧
      WritesLanes e t v g k k (fun i => some ((b.ready.getD i 0).toNat % 2 ^ t.width)) s u) ∧
    (fits → b.ready = [] → 0 < left → s.streamFail b = none → Yields (.microopIssue core) s fun u => u = s) ∧
    (¬ fits → CanTrap s → Yields (.microopIssue core) s (TrapsHere 8 (BitVec.ofNat 64 q.val) 0 s))

/-- R30, R272, R358: MICROOP_ISSUE issues the first candidate of the core in the order of issue that can issue, and does
nothing where none can. A younger entry that may go before the older ones (the model's mayOvertake, log entry 70) performs
one element group, or the whole of itself, in its place, and stays in the queue with its START advanced or complete; the
oldest entry that is complete already leaves the queue, and with it nothing else happens. -/
def IssueOrder : Prop :=
  ∀ (s : State) (core : BitVec 8),
    (∀ l x r t, s.issueOrder core = l ++ x :: r → (∀ y ∈ l, s.issueOf y.hart.ser y.place = none) →
      s.issueOf x.hart.ser x.place = some t → Yields (.microopIssue core) s fun u => u = t) ∧
    ((∀ y ∈ s.issueOrder core, s.issueOf y.hart.ser y.place = none) → Yields (.microopIssue core) s fun u => u = s) ∧
    ((s.issueOrder core).Pairwise fun x y => issuesBefore (schedImode s.schedcfg) y x = false) ∧
    (∀ x, x ∈ s.issueOrder core ↔ x.hart ∈ s.hart :: s.others ∧ x.hart.life = .running ∧ x.hart.core = core ∧
      x.hart.queue[x.place]? = some x.entry) ∧
    (∀ n e t, s.hart.queue[n]? = some e → n ≠ 0 → e.start ≤ e.vl → e.limit ≤ e.vl → issueEntry n s = some t →
      s.mayOvertake n = true ∧
      ∃ e', t.hart.queue = s.hart.queue.set n e' ∧ e.start ≤ e'.start ∧ e'.start ≤ e.vl ∧ e'.instr = e.instr ∧
        e'.stamp = e.stamp ∧ t.hart.pc = s.hart.pc ∧ t.hart.x = s.hart.x) ∧
    ∀ e, s.hart.queue.head? = some e → e.over = true → ∃ t, issueEntry 0 s = some t ∧ Completes s t ∧
      t = { s with hart := { s.hart with queue := t.hart.queue, vstart := t.hart.vstart } }

/-! ### What the engine instructions share (R177) -/

/-- The hart after an instruction that writes no register, but the predicates. -/
def finishedWith (k : Vector Bytes 12) (h : Hart) : Hart := { h.completed none with kreg := k }

/-- No queued instruction writes the predicate. -/
def NoOlderWriter (h : Hart) (k : BitVec 4) : Prop := ∀ e ∈ h.queue, ∀ d, destOf e.instr = .pred d → d.toNat ≠ k.toNat

/-- No queued instruction writes the vector register. -/
def NoOlderVector (h : Hart) (r : Nat) : Prop :=
  ∀ e ∈ h.queue, ∀ d n, (destOf e.instr = .group d ∧ n = 2 ^ fieldOf e.vtype 8 2 ∨ destOf e.instr = .single d ∧ n = 1) →
    ∀ q ∈ destinations e d, r < q.toNat ∨ q.toNat + n ≤ r

/-- The hart acts at once, and the instruction at pc has read nothing yet (R177). -/
def Fresh (s : State) : Prop := Prompt s ∧ s.hart.capture = none

/-- A field of a structure. -/
def fieldOfBytes (bs : List Byte) (o n : Nat) : Nat := littleEndian ((bs.drop o).take n)

/-- Bits of predicate `k` are 0 where `p` holds, and as before elsewhere; the other predicates stay. -/
def ClearsBits (k : BitVec 4) (p : Nat → Prop) (h g : Hart) : Prop :=
  (∀ i, p i → g.kbit k.toNat i = false) ∧ ∀ r i, (r ≠ k.toNat ∨ ¬ p i) → g.kbit r i = h.kbit r i

/-- Both sides of the hart have performed (R214). -/
def AllPerformed (s : State) : Prop :=
  s.hart.queue = [] ∧ (∀ p ∈ s.stores, p.ctx.ser ≠ s.hart.ser) ∧
  (∀ p ∈ s.packets, p.stream ≠ .scalar s.hart.ser ∧ p.stream ≠ .vector s.hart.ser) ∧
  ∀ w ∈ s.held, w.stream ≠ .scalar s.hart.ser ∧ w.stream ≠ .vector s.hart.ser

/-- The scalar side has performed. -/
def ScalarPerformed (s : State) : Prop :=
  (∀ p ∈ s.stores, p.ctx.ser ≠ s.hart.ser) ∧ (∀ p ∈ s.packets, p.stream ≠ .scalar s.hart.ser) ∧
  ∀ w ∈ s.held, w.stream ≠ .scalar s.hart.ser

/-- A work ticket is issued: the counter advances and its new value is written to xa; one ticket of this hart with
this number, bit and work is in flight; bit CBIT of kb is cleared; beside page counters nothing else changes. -/
def IssuesTicket (a : BitVec 5) (k : BitVec 4) (cbit : Nat) (work : Work → Prop) (s u : State) : Prop :=
  (∃ t : Ticket, u.tickets = s.tickets ++ [t] ∧ t.ser = s.hart.ser ∧ t.wid = s.ctx.world ∧ t.core = s.hart.core ∧
    t.num = (s.hart.issue + 1).toNat ∧ t.kb = k ∧ t.cbit = cbit ∧ t.sent = false ∧ t.mute = false ∧ work t.work) ∧
  u = { s with
    hart := u.hart, tickets := u.tickets, pages := u.pages, events := u.events, eventLost := u.eventLost } ∧
  u.hart = { s.hart.completed (some a) with
    x := u.hart.x, tag := u.hart.tag, kreg := u.hart.kreg, issue := s.hart.issue + 1 } ∧
  HoldsX u.hart a ((s.hart.issue + 1).zeroExtend 64) none ∧
  (∀ r, r ≠ a → u.hart.xr r = s.hart.xr r ∧ u.hart.tagOf r = s.hart.tagOf r) ∧
  ClearsBits k (fun i => i = cbit) s.hart u.hart

/-! ### Maps (R191, R192, R195) -/

/-- No other hart has begun an event of the map (R196). -/
def MapFree (s : State) (m : MapBlock) : Prop := s.mapTaken (s.mapKey m) = false

/-- The map block through a register passes steps 2 to 4 of R177 for an instruction that only reads it: its extents
are the weights, the counters and the hot buffer. -/
def MapReady (s : State) (a : BitVec 5) (m : MapBlock) (rs : List (SlotRef × Nat)) : Prop :=
  m.addr = (s.hart.xr a).toNat ∧ m.addr % 64 = 0 ∧ m.idx = slotIndex (s.hart.tagOf a) ∧
  MapFree s m ∧ StructAt s (s.hart.tagOf a) m.addr 64 m.bytes ∧ m.badExtent = false ∧ m.badRest = false ∧
  s.probeAll s.ctx m.spans = .ok rs ∧ rs.length = 3

/-- The same for an instruction that also writes the block, through the slot word probed. -/
def MapWritable (s : State) (a : BitVec 5) (m : MapBlock) (rs : List (SlotRef × Nat)) (own : SlotRef) : Prop :=
  MapReady s a m rs ∧ s.probeRange s.ctx m.idx m.addr 64 8 1 3 false = .ok own

/-- Only memory, line state, page counters and the hart's completion of the instruction differ. -/
def WritesMemory (s u : State) : Prop :=
  u = { finished s with
    mem := u.mem, macs := u.macs, dirty := u.dirty, pages := u.pages, events := u.events, eventLost := u.eventLost }

/-- Row `i` is among the first `n` rows of the ranking: fewer than `n` rows have a greater counter, or an equal one
and a lower index. -/
def RanksWithin (counters : List Nat) (n i : Nat) : Prop :=
  ((List.range counters.length).filter fun j =>
    decide (counters.getD i 0 < counters.getD j 0 ∨ (counters.getD i 0 = counters.getD j 0 ∧ j < i))).length < n

/-! ### Streams -/

/-- The extension of a fetched element by the signedness of the binding (R239). -/
def extended (et : BitVec 8) (v : Word) : Word :=
  if et = 0x23 then (v.setWidth 8).signExtend 64
  else if et = 0x24 then (v.setWidth 16).signExtend 64
  else if et = 0x25 then (v.setWidth 32).signExtend 64
  else v

/-- Is an older `vqrd` of the stream queued? -/
def NoOlderRead (h : Hart) (q : BitVec 3) : Prop :=
  ∀ e ∈ h.queue, ∀ c m v x p, e.instr = .vqrd c m v x p → x.toNat ≠ q.toNat

/-- R238: qbind binds a stream when the type is a byte-width type, base and stride are aligned and every element
passes its probe, with nothing fetched and position 0; an extent of 0 unbinds it; a misaligned base takes the access
fault for element 0, a misaligned stride that of element 1, and a failing probe that of its least element; that a stride
misaligned for element 1 comes before a failing probe of element 0 is the model's (log entry 132). It waits for older vqrd
of the stream. -/
def StreamBinding : Prop :=
  ∀ (s : State) (q : BitVec 3) (a b : BitVec 5) (t : ETy) (ref : SlotRef),
    let base := s.hart.xr a
    let n := (s.hart.xr b).toNat % 2 ^ 32
    let stride : Word := BitVec.signExtend 64 ((s.hart.xr b).extractLsb' 32 32)
    let e := t.width / 8
    let bind (v : Stream) : State := { s with hart := { s.hart with streams := s.hart.streams.set q.toNat v q.isLt } }
    let addr (j : Nat) : Word := base + stride * BitVec.ofNat 64 j
    let probe (j : Nat) : Except Nat SlotRef :=
      s.probe s.ctx ⟨slotIndex (s.hart.tagOf a), (addr j).toNat, e, 1, needRead, false, true, false⟩
    (¬ NoOlderRead s.hart q → Yields (.qbind q a b) s (Waits .retry s)) ∧
    (NoOlderRead s.hart q →
    (n = 0 → Yields (.qbind q a b) s fun u => u = finished (bind ⟨false, 0, ⟨0, none⟩, 0, 0, 0, 0, [], false, none⟩)) ∧
    (n ≠ 0 → s.hart.vtype.getLsbD 63 = false → ETy.ofCode (s.hart.vtype.toNat % 2 ^ 8) = some t → t.byteWidth = true →
      (base.toNat % e = 0 → (2 ≤ n → stride.toNat % e = 0) → (∀ j, j < n → probe j = .ok ref) →
        Yields (.qbind q a b) s fun u => u = finished (bind ⟨true, s.ctx.world, ⟨base, s.hart.tagOf a⟩, stride,
          BitVec.ofNat 32 n, s.hart.vtype.extractLsb' 0 8, 0, [], false, some ref⟩)) ∧
      (base.toNat % e ≠ 0 → CanTrap s → Yields (.qbind q a b) s (TrapsHere 5 1 base s)) ∧
      (base.toNat % e = 0 → 2 ≤ n → stride.toNat % e ≠ 0 → CanTrap s →
        Yields (.qbind q a b) s (TrapsHere 5 (1 + 256) (base + stride) s)) ∧
      (base.toNat % e = 0 → (2 ≤ n → stride.toNat % e = 0) → ∀ j d, j < n → probe j = .error d →
        (∀ i, i < j → ∃ r, probe i = .ok r) → CanTrap s → (s.hart.wid = 0 ∧ d < 16 ∨ d = 1 ∨ d = 2 ∨ d = 5) →
        Yields (.qbind q a b) s (TrapsHere 5 (BitVec.ofNat 64 (d + 256 * j)) (addr j) s))) ∧
    (n ≠ 0 → s.hart.vtype.getLsbD 63 = true → CanTrap s → Yields (.qbind q a b) s (TrapsIllegal s)))

/-- R239: qrd writes the next element that has arrived and advances the position; it waits for one that has not; an
unbound or exhausted stream is the stream-state fault. Where the element it waits for cannot be fetched, since its own
probe fails after a restore, or since the host has not given it, it takes that access fault (R303, R322, R396). That an
element is fetched after a restore through the slot word that its own probe finds is the model's log entry 33, and that the
reader takes the fault is log entry 109. -/
def StreamReads : Prop :=
  ∀ (s : State) (q : BitVec 3) (a : BitVec 5), NoOlderRead s.hart q →
    let b := s.hart.streams[q.toNat]
    let left := b.pos.toNat < b.extent.toNat
    let at' : Word := b.base.val + b.stride * b.pos.setWidth 64
    let finds (r : Except Nat SlotRef) : Prop := ∃ t, ETy.ofCode b.et.toNat = some t ∧
      s.probe (s.hart.streamCtx b) ⟨slotIndex b.base.tag, at'.toNat, t.width / 8, 1, needRead, false, true, false⟩ = r
    let due := b.bound = true ∧ left ∧ b.ready = []
    let asked : State := { s with hart := { s.hart with
      streams := s.hart.streams.set q.toNat { b with failed := false } q.isLt } }
    (b.bound = true → left → ∀ v rest, b.ready = v :: rest →
      Yields (.qrd q a) s fun u => OnlyHart s u ∧
        u.hart = { s.hart.completed (some a) with
          x := u.hart.x, tag := u.hart.tag
          streams := s.hart.streams.set q.toNat { b with pos := b.pos + 1, ready := rest } q.isLt } ∧
        (∀ r, r ≠ a → u.hart.xr r = s.hart.xr r ∧ u.hart.tagOf r = s.hart.tagOf r) ∧
        HoldsX u.hart a (extended b.et v) none) ∧
    (due → b.failed = false → (b.slot ≠ none ∨ ∃ r, finds (.ok r)) → Yields (.qrd q a) s (Waits (.qrd q a) s)) ∧
    (due → b.slot = none → CanTrap s → ∀ d, finds (.error d) →
      (s.hart.wid = 0 ∧ d < 16 ∨ d = 1 ∨ d = 2 ∨ d = 5) →
      Yields (.qrd q a) s (TrapsHere 5 (BitVec.ofNat 64 (d + 256 * b.pos.toNat)) at' asked)) ∧
    (due → b.failed = true → (b.slot ≠ none ∨ ∃ r, finds (.ok r)) → CanTrap s →
      Yields (.qrd q a) s (TrapsHere 5 (BitVec.ofNat 64 (2 + 256 * b.pos.toNat)) at' asked)) ∧
    (b.bound = false ∨ ¬ left → CanTrap s → Yields (.qrd q a) s (TrapsHere 8 (q.zeroExtend 64) 0 s))

/-- R246: kwait returns when its bits are all 1, at once for a count of 0, and waits otherwise; a range that reaches
beyond 8 × C is the malformed-structure fault, reason 5. It writes nothing. -/
def CompletionWaits : Prop :=
  ∀ (s : State) (a b : BitVec 5) (k : BitVec 4), NoOlderWriter s.hart k →
    let lo := (s.hart.xr a).toNat
    let n := (s.hart.xr b).toNat
    (n = 0 → Yields (.kwait a b k) s fun u => u = finished s) ∧
    (n ≠ 0 → lo + n ≤ 8 * s.hart.c → (∀ i, i < n → s.hart.kbit k.toNat (lo + i) = true) →
      Yields (.kwait a b k) s fun u => u = finished s) ∧
    (n ≠ 0 → lo + n ≤ 8 * s.hart.c → (∃ i, i < n ∧ s.hart.kbit k.toNat (lo + i) = false) →
      Yields (.kwait a b k) s (Waits (.kwait a b k) s)) ∧
    (n ≠ 0 → 8 * s.hart.c < lo + n → CanTrap s → Yields (.kwait a b k) s (TrapsHere 7 5 0 s))

/-- R247, R220, R380: wmark publishes its value once the older events of the hart have performed: the watermark becomes
the larger of the two, the others stay, and every member of the gang has an event for wfe. -/
def WatermarkPublication : Prop :=
  ∀ (s : State) (a : BitVec 5) (g : Gang), s.gang s.hart.gid = some g →
    let v := s.hart.xr a
    let i := v.toNat / 2 ^ 60
    (AllPerformed s → Yields (.wmark a) s fun u =>
      (∃ g', u.gang s.hart.gid = some g' ∧ g' = { g with marks := g'.marks } ∧
        ∀ j : Fin 16, (g'.marks[j]).toNat =
          if j.val = i then max (g.marks[j]).toNat (v.toNat % 2 ^ 48) else (g.marks[j]).toNat) ∧
      (∀ gid, gid ≠ s.hart.gid → u.gang gid = s.gang gid) ∧
      u.others = s.others.map (fun h => { h with event := h.event || h.gid == s.hart.gid }) ∧
      u = { finished { s with hart := { s.hart with event := true } } with gangs := u.gangs, others := u.others }) ∧
    (¬ AllPerformed s → Yields (.wmark a) s (Waits (.wmark a) s))

/-- R241, R248, R249: pref, chdemote in world 0, and sbar once the hart's older events have performed, complete with no
architectural effect; sbar of no stream or job completes at once. -/
def HintsAndBarriers : Prop :=
  ∀ (s : State) (a b : BitVec 5),
    Yields (.pref a b) s (fun u => u = finished s) ∧
    (s.hart.world0 = true → Yields (.chdemote a) s fun u => u = finished s) ∧
    (AllPerformed s ∨ (s.hart.xr a).toNat % 512 = 0 → Yields (.sbar a) s fun u => u = finished s)

/-- R243, R245: btcopy issues a job of pieces of 2^(6 + CHS) bytes, the last one shorter, and clears the bit of every
piece; a length of 0 does nothing. It returns no ticket, and the copy itself comes later. Where an element of either
extent fails its probe, the least that does takes the access fault, its source before its destination (R177, R360). That a
length of 0 is checked for nothing is the model's log entry 28; the order of source and destination is its log entries 35
and 42. -/
def BlockCopies : Prop :=
  ∀ (s : State) (a b : BitVec 5) (k : BitVec 4) (t : ETy) (r w : SlotRef),
    let chunk := 2 ^ (6 + s.hart.btctl.toNat / 2 ^ 8 % 16)
    let base := s.hart.btctl.toNat / 2 ^ 12 % 2 ^ 20
    let src := (s.hart.xr a).toNat
    let dst := (s.hart.xr b).toNat
    let n := s.hart.vl.toNat * (t.width / 8)
    let count := (n + chunk - 1) / chunk
    let piece (p : Nat) : Piece := ⟨src + p * chunk, dst + p * chunk, min chunk (n - p * chunk), base + p, false⟩
    let i := slotIndex (s.hart.tagOf a)
    let j := slotIndex (s.hart.tagOf b)
    let e := t.width / 8
    let reads (x : Nat) : Except Nat SlotRef :=
      s.probe s.ctx ⟨i, src + x * e, e, 1, needRead, false, true, s.rawCopy i j⟩
    let writes (x : Nat) : Except Nat SlotRef :=
      s.probe s.ctx ⟨j, dst + x * e, e, 1, needWrite, false, true, s.rawCopy i j⟩
    (s.hart.vl = 0 → Yields (.btcopy a b k) s fun u => u = finished s) ∧
    (s.hart.vl ≠ 0 → NoOlderWriter s.hart k → k.toNat < 12 →
      Memory.wf (s.hart.kreg.toList.getD k.toNat []) = true →
      s.hart.vtype.getLsbD 63 = false → ETy.ofCode (s.hart.vtype.toNat % 2 ^ 8) = some t → t.byteWidth = true →
      s.hart.btctl.toNat / 2 ^ 8 % 16 ≤ 9 →
      s.probe s.ctx ⟨i, src, n, 1, needRead, false, true, s.rawCopy i j⟩ = .ok r →
      s.probe s.ctx ⟨j, dst, n, 1, needWrite, false, true, s.rawCopy i j⟩ = .ok w →
      base + count ≤ 8 * s.hart.c →
      (∀ p q, p < count → q < count →
        s.rangesMeet s.hart.core (piece p).src (piece p).len (piece q).dst (piece q).len = false) →
      Yields (.btcopy a b k) s fun u =>
        u = { finished s with hart := finishedWith u.hart.kreg s.hart, jobs := u.jobs } ∧
        ClearsBits k (fun x => base ≤ x ∧ x < base + count) s.hart u.hart ∧
        ∃ job, u.jobs = s.jobs ++ [job] ∧ job.ser = s.hart.ser ∧ job.wid = s.ctx.world ∧ job.kb = k ∧
          job.pieces = (List.range count).map (fun p => some (piece p)) ∧ job.src = r ∧ job.dst = w) ∧
    (s.hart.vl ≠ 0 → NoOlderWriter s.hart k → s.hart.vtype.getLsbD 63 = false →
      ETy.ofCode (s.hart.vtype.toNat % 2 ^ 8) = some t → t.byteWidth = true → s.hart.btctl.toNat / 2 ^ 8 % 16 ≤ 9 →
      ∀ (x : Nat) (d at' : Nat), x < s.hart.vl.toNat →
      (reads x = .error d ∧ at' = src + x * e ∨ (∃ r, reads x = .ok r) ∧ writes x = .error d ∧ at' = dst + x * e) →
      (∀ y, y < x → (∃ r, reads y = .ok r) ∧ ∃ r, writes y = .ok r) → CanTrap s →
      (s.hart.wid = 0 ∧ d < 16 ∨ d = 2 ∨ d = 5) →
      Yields (.btcopy a b k) s (TrapsHere 5 (BitVec.ofNat 64 (d + 256 * x)) (BitVec.ofNat 64 at') s))

/-- R244, R245: btgather issues one row request for each element of IREG but those of 0xFFFF_FFFF, whose bits are set
at issue; the bits of the other requests are cleared. -/
def RowGathers : Prop :=
  ∀ (s : State) (a b : BitVec 5) (k : BitVec 4) (t : ETy) (r w : SlotRef),
    let bytes := s.hart.btctl.toNat / 2 ^ 32
    let base := s.hart.btctl.toNat / 2 ^ 12 % 2 ^ 20
    let n := s.hart.vl.toNat
    let row (i : Nat) : Nat := readElem s.hart.vreg s.hart.c (s.hart.btctl.toNat % 32) (.uint 32) i
    let src (i : Nat) : Nat := (s.hart.xr a + BitVec.ofNat 64 (row i * bytes)).toNat
    let dst (i : Nat) : Nat := (s.hart.xr b + BitVec.ofNat 64 (i * bytes)).toNat
    let asks (i : Nat) : Prop := i < n ∧ row i ≠ 0xFFFFFFFF
    NoOlderVector s.hart (s.hart.btctl.toNat % 32) → NoOlderWriter s.hart k → k.toNat < 12 →
    Memory.wf (s.hart.kreg.toList.getD k.toNat []) = true →
    s.hart.vtype.getLsbD 63 = false → ETy.ofCode (s.hart.vtype.toNat % 2 ^ 8) = some t → t.byteWidth = true →
    bytes % 8 = 0 → 8 ≤ bytes → bytes ≤ 2 ^ 20 → n ≤ s.hart.c / 4 → s.hart.btctl.toNat / 2 ^ 8 % 16 ≤ 9 →
    (∀ i, asks i →
      s.probe s.ctx ⟨slotIndex (s.hart.tagOf a), src i, bytes, 1, needRead, false, true, false⟩ = .ok r ∧
      s.probe s.ctx ⟨slotIndex (s.hart.tagOf b), dst i, bytes, 1, needWrite, false, true, false⟩ = .ok w) →
    base + n ≤ 8 * s.hart.c →
    (∀ i j, asks i → asks j → s.rangesMeet s.hart.core (src i) bytes (dst j) bytes = false) →
    Yields (.btgather a b k) s fun u =>
      u = { finished s with hart := { finishedWith u.hart.kreg s.hart with event := u.hart.event }, jobs := u.jobs } ∧
      (∀ i, i < n → (u.hart.kbit k.toNat (base + i) = true ↔ row i = 0xFFFFFFFF)) ∧
      (∀ x, (x < base ∨ base + n ≤ x) → u.hart.kbit k.toNat x = s.hart.kbit k.toNat x) ∧
      (∀ q, q ≠ k.toNat → ∀ x, u.hart.kbit q x = s.hart.kbit q x) ∧
      ((∀ i, i < n → row i = 0xFFFFFFFF) → u.jobs = s.jobs) ∧
      ((∃ i, asks i) → ∃ job, u.jobs = s.jobs ++ [job] ∧ job.ser = s.hart.ser ∧ job.kb = k ∧ job.src = r ∧ job.dst = w ∧
        ∀ p, some p ∈ job.pieces ↔ ∃ i, asks i ∧ p = ⟨src i, dst i, bytes, base + i, false⟩)

/-- R176, R177, R189: a query whose packet, descriptors and extents pass their checks is issued as a ticket. The ticket
holds the query vector as it was captured, from memory or from a vector register, the slot and the address of its record,
and the shards of the selected stacks, none of them searched yet. -/
def NearSearchIssue : Prop :=
  ∀ (s : State) (a b : BitVec 5) (k : BitVec 4) (p : List Byte) (ds : List Desc) (rs : List (SlotRef × Nat))
    (qv : List Byte) (gw : SlotWord) (t : ETy),
    let addr := (s.hart.xr b).toNat
    let sel := (List.range 12).filter fun i => (fieldOfBytes p 4 2).testBit i
    let gslot := fieldOfBytes p 0 4
    let et := (ds.head?.map Desc.et).getD 0
    let dim := (ds.head?.map Desc.dim).getD 0
    let metric := (ds.head?.map fun d => d.f 2 1).getD 0
    let w := if et = 0x35 then 4 else if et = 0x23 then 1 else 2
    let inMemory := fieldOfBytes p 7 1 = 0
    let reg := fieldOfBytes p 10 1
    NoOlderWriter s.hart k → k.toNat < 12 → Fresh s →
    Memory.wf (s.hart.kreg.toList.getD k.toNat []) = true →
    addr % 64 = 0 → StructAt s (s.hart.tagOf b) addr 64 p →
    fieldOfBytes p 4 2 < 2 ^ 12 → fieldOfBytes p 4 2 ≠ 0 →
    1 ≤ fieldOfBytes p 6 1 → fieldOfBytes p 6 1 ≤ 128 →
    (inMemory ∧ reg = 0 ∧ ReadsAs s (spanAt rs (2 * ds.length)) (dim * w) qv ∨
      fieldOfBytes p 7 1 = 1 ∧ reg ≤ 31 ∧ dim * w ≤ s.hart.c ∧ NoOlderVector s.hart reg) →
    ETy.ofCode et = some t →
    fieldOfBytes p 6 1 ≤ fieldOfBytes p 8 2 → fieldOfBytes p 8 2 ≤ 512 → fieldOfBytes p 11 1 = 0 →
    (fieldOfBytes p 12 4 = 0xFFFFFFFF ∨
      ∃ d ∈ ds, d.idbase ≤ fieldOfBytes p 12 4 ∧ fieldOfBytes p 12 4 < d.idbase + d.nodes) →
    fieldOfBytes p 16 4 < 8 * s.hart.c → fieldOfBytes p 36 4 = 0 →
    fieldOfBytes p 40 8 % 8 = 0 → (∀ o, 48 ≤ o → o < 64 → p.getD o 0 = 0) →
    s.slotWord s.ctx.table gslot = some gw → s.slotLost s.hart.core s.ctx.table gslot = none → gslot < 2 ^ 16 →
    ds.map Desc.stack = sel →
    (∀ d ∈ ds, d.addr = gw.lo + 64 * d.stack ∧ StructAt s (some (BitVec.ofNat 16 gslot)) d.addr 64 d.bytes ∧
      d.badExtent et dim = false ∧ d.badRest metric = false ∧ d.badIds ds = false) →
    s.probeAll s.ctx (querySpans p ds w dim) = .ok rs →
    (∀ x d, (x, d) ∈ ds.zipIdx.map (fun (d, i) => ((spanAt rs (2 * i)).1.word, d)) →
      s.inStack x.lo x.len.toNat d.stack = true) →
    ScalarPerformed s → (∀ d ∈ ds, s.engineLoad d.stack < 512) →
    Yields (.nsq a b k) s (IssuesTicket a k (fieldOfBytes p 16 4) (fun v => ∃ q, v = .query q ∧
      q.k = fieldOfBytes p 6 1 ∧ q.ef = fieldOfBytes p 8 2 ∧ q.mask = fieldOfBytes p 4 2 ∧ q.etype.toNat = et ∧
      q.dim = dim ∧ q.metric = metric ∧ q.q.length = dim ∧
      (∀ e, e < dim → q.q.getD e 0 =
        if inMemory then fieldOfBytes qv (w * e) w else readElem s.hart.vreg s.hart.c reg t e) ∧
      rs.getLast? = some (q.rslot, q.raddr) ∧
      (∃ rw, q.rslot = ⟨fieldOfBytes p 32 4, rw⟩ ∧ q.raddr = rw.lo + fieldOfBytes p 40 8) ∧
      q.shards.map Shard.stack = sel ∧ ∀ h ∈ q.shards, h.result = none) s)

/-- R190: nsstat writes 0 for no ticket of the hart, 1 for one in flight, 2 for one completed or cancelled. -/
def TicketStatus : Prop :=
  ∀ (s : State) (a b : BitVec 5),
    let t := (s.hart.xr b).toNat
    let flying := ∃ k ∈ s.tickets, k.ser = s.hart.ser ∧ k.num = t ∧ k.mute = false
    (t = 0 ∨ s.hart.issue.toNat < t → Yields (.nsstat a b) s (WritesX a 0 none s)) ∧
    (t ≠ 0 → t ≤ s.hart.issue.toNat → flying → Yields (.nsstat a b) s (WritesX a 1 none s)) ∧
    (t ≠ 0 → t ≤ s.hart.issue.toNat → ¬ flying → Yields (.nsstat a b) s (WritesX a 2 none s))

/-- R177, R194: a product whose packet, map block and extents pass their checks is issued as a ticket. The ticket holds
CUR, the list of the current half and x as they were captured, and the slots and addresses of the weights, of the hot rows
and of y. -/
def SplitProductIssue : Prop :=
  ∀ (s : State) (a b : BitVec 5) (k : BitVec 4) (p : List Byte) (m : MapBlock) (mw : SlotWord)
    (rs : List (SlotRef × Nat)) (hot xs : List Byte),
    let addr := (s.hart.xr b).toNat
    let mslot := fieldOfBytes p 0 4
    NoOlderWriter s.hart k → k.toNat < 12 → Fresh s →
    Memory.wf (s.hart.kreg.toList.getD k.toNat []) = true →
    addr % 16 = 0 → StructAt s (s.hart.tagOf b) addr 48 p →
    s.slotWord s.ctx.table mslot = some mw → s.slotLost s.hart.core s.ctx.table mslot = none → mslot < 2 ^ 16 →
    m.addr = mw.lo + fieldOfBytes p 16 8 →
    m.addr % 64 = 0 → m.idx = mslot → MapFree s m →
    StructAt s (some (BitVec.ofNat 16 mslot)) m.addr 64 m.bytes → m.badExtent = false → m.badRest = false →
    fieldOfBytes p 32 8 % 4 = 0 → (∀ o, 40 ≤ o → o < 48 → p.getD o 0 = 0) → fieldOfBytes p 12 4 < 8 * s.hart.c →
    s.probeAll s.ctx (m.spans ++
      [⟨fieldOfBytes p 4 4, fieldOfBytes p 24 8, m.cols * m.w, m.w, m.w, needRead⟩,
       ⟨fieldOfBytes p 8 4, fieldOfBytes p 32 8, 4 * m.rows, 4, 1, needWrite⟩]) = .ok rs →
    (m.nhot m.cur = 0 ∨ ReadsAs s ((spanAt rs 2).1, (spanAt rs 2).2 + m.cur * m.hhalf) (4 * m.nhot m.cur) hot) →
    ReadsAs s (spanAt rs 3) (m.cols * m.w) xs → ScalarPerformed s →
    (s.products (s.mapKey m)).length < 64 →
    Yields (.hcmv a b k) s (IssuesTicket a k (fieldOfBytes p 12 4) (fun w => ∃ q, w = .product q ∧
      q.half = m.cur ∧ q.rows = m.rows ∧ q.cols = m.cols ∧ q.etype.toNat = m.et ∧ q.rstride = m.rstride ∧
      q.map = s.mapKey m ∧ q.hot.length = m.nhot m.cur ∧
      (∀ e, e < m.nhot m.cur → q.hot.getD e 0 = fieldOfBytes hot (4 * e) 4) ∧ q.x.length = m.cols ∧
      (∀ e, e < m.cols → q.x.getD e 0 = fieldOfBytes xs (m.w * e) m.w) ∧
      (q.wslot, q.waddr) = spanAt rs 0 ∧ q.hslot = (spanAt rs 2).1 ∧
      q.haddr = (spanAt rs 2).2 + m.cur * m.hhalf + m.lb ∧ (q.yslot, q.yaddr) = spanAt rs 4 ∧
      (∃ yw, q.yslot = ⟨fieldOfBytes p 8 4, yw⟩ ∧ q.yaddr = yw.lo + fieldOfBytes p 32 8)) s)

/-- R195: hcfire adds 1, saturating, to the counter of each row that an active bit below VL names, and to no other;
hcage halves every counter. -/
def MapCounters : Prop :=
  ∀ (s : State) (a b : BitVec 5) (k : BitVec 4) (m : MapBlock) (rs : List (SlotRef × Nat)) (bs : List Byte),
    let base := (spanAt rs 1).2
    let count (i : Nat) : Nat := fieldOfBytes bs (2 * i) 2
    let fired (i : Nat) : Prop :=
      (s.hart.xr b).toNat ≤ i ∧ i - (s.hart.xr b).toNat < s.hart.vl.toNat ∧
        s.hart.kbit k.toNat (i - (s.hart.xr b).toNat) = true
    let after (n : Nat → Nat) (u : State) : Prop := WritesMemory s u ∧
      (∀ i, i < m.rows → littleEndian (seen s u (base + 2 * i) 2) = n i) ∧ OnlyBytes base (2 * m.rows) s u
    MapReady s a m rs → Fresh s → Memory.wf s.mem = true →
    PlainPlace s (spanAt rs 1) (2 * m.rows) → s.mapHeld (spanAt rs 1).2 (2 * m.rows) = false →
    ReadsAs s (spanAt rs 1) (2 * m.rows) bs →
    (NoOlderWriter s.hart k →
      (∀ i, i < s.hart.vl.toNat → s.hart.kbit k.toNat i = true → (s.hart.xr b).toNat + i < m.rows) →
      Yields (.hcfire a b k) s (fun u => ∃ n : Nat → Nat, after n u ∧ ∀ i, i < m.rows →
        (fired i → n i = min (count i + 1) 0xFFFF) ∧ (¬ fired i → n i = count i))) ∧
    Yields (.hcage a) s (after fun i => count i / 2)

/-- R195: hcrank writes the indices of the H first rows of the ranking, in ascending order, into the other half, sets its
NHOT and STAGED, and starts the row copy. -/
def MapStaging : Prop :=
  ∀ (s : State) (a b : BitVec 5) (m : MapBlock) (rs : List (SlotRef × Nat)) (own : SlotRef) (bs : List Byte),
    let n := (s.hart.xr b).toNat
    let g := 1 - m.cur
    let half := (spanAt rs 2).2 + g * m.hhalf
    let counters := (List.range m.rows).map fun i => fieldOfBytes bs (2 * i) 2
    MapWritable s a m rs own → Fresh s → Memory.wf s.mem = true → n ≤ m.hmax → n ≤ m.rows →
    (∀ p ∈ s.products (s.mapKey m), p.half ≠ g) → s.copying (s.mapKey m) = false →
    s.mapHeld (spanAt rs 1).2 (2 * m.rows) = false → s.mapHeld half (4 * n) = false → s.mapHeld m.addr 64 = false →
    ReadsAs s (spanAt rs 1) (2 * m.rows) bs →
    PlainPlace s ((spanAt rs 2).1, half) (4 * n) → PlainPlace s (own, m.addr) 64 →
    (∀ o q, o < 4 * n → q < 64 → performedAt s (half + o) ≠ performedAt s (m.addr + q)) →
    Yields (.hcrank a b) s fun u =>
      (∃ c, u.copies = s.copies ++ [c] ∧ c.rows.length = n ∧ c.rows.Pairwise (· < ·) ∧
        (∀ i, i ∈ c.rows ↔ i < m.rows ∧ RanksWithin counters n i) ∧
        (∀ e, e < n → littleEndian (seen s u (half + 4 * e) 4) = c.rows.getD e 0) ∧
        c.map = s.mapKey m ∧ c.haddr = half + m.lb ∧ c.sent = false) ∧
      littleEndian (seen s u (m.addr + 32 + 4 * g) 4) = n ∧ seen s u (m.addr + 3) 1 = [1] ∧
      (∀ x, (∀ o, o < 4 * n → x ≠ performedAt s (half + o)) →
        (∀ o, (o = 3 ∨ 32 + 4 * g ≤ o ∧ o < 36 + 4 * g) → x ≠ performedAt s (m.addr + o)) →
        Bytes.get u.mem x = Bytes.get s.mem x) ∧
      u = { finished s with
        copies := u.copies, mem := u.mem, macs := u.macs, dirty := u.dirty, pages := u.pages, events := u.events
        eventLost := u.eventLost }

/-- R195: hccommit of a staged map exchanges the halves, clears STAGED and advances GEN, once no copy runs; with nothing
staged it changes nothing. -/
def MapCommit : Prop :=
  ∀ (s : State) (a : BitVec 5) (m : MapBlock) (rs : List (SlotRef × Nat)) (own : SlotRef),
    MapWritable s a m rs own → Fresh s → Memory.wf s.mem = true →
    (s.copying (s.mapKey m) = true → Yields (.hccommit a) s fun u => CountsOnly s u ∧
      u.hart = { s.hart with wait := some .retry, capture := u.hart.capture }) ∧
    (s.copying (s.mapKey m) = false → s.mapHeld m.addr 64 = false → PlainPlace s (own, m.addr) 64 →
      (m.staged ≠ 1 → Yields (.hccommit a) s fun u => CountsOnly s u ∧ u.hart = (finished s).hart) ∧
      (m.staged = 1 → Yields (.hccommit a) s fun u => WritesMemory s u ∧
        seen s u (m.addr + 2) 2 = [BitVec.ofNat 8 (1 - m.cur), 0] ∧
        littleEndian (seen s u (m.addr + 28) 4) = (m.gen + 1) % 2 ^ 32 ∧
        ∀ x, (∀ o, (o = 2 ∨ o = 3 ∨ 28 ≤ o ∧ o < 32) → x ≠ performedAt s (m.addr + o)) →
          Bytes.get u.mem x = Bytes.get s.mem x))

/-- R196: while another hart has begun an event of the map, which has yet to take effect, hcfire, hcage, hcrank and
hccommit on that map wait, having done nothing; that an event lasts from the reading of its block to its effect is the
model's (log 142). -/
def MapOrder : Prop :=
  ∀ (s : State) (a b : BitVec 5) (k : BitVec 4) (m : MapBlock),
    m.addr = (s.hart.xr a).toNat → m.addr % 64 = 0 → ¬ MapFree s m →
    (NoOlderWriter s.hart k → Yields (.hcfire a b k) s (Waits .retry s)) ∧ Yields (.hcage a) s (Waits .retry s) ∧
    Yields (.hcrank a b) s (Waits .retry s) ∧ Yields (.hccommit a) s (Waits .retry s)

/-! ### Gangs and worklists -/

/-- The page counters of R206 and their event, which an access may change. -/
def counted (s u : State) : State := { s with pages := u.pages, events := u.events, eventLost := u.eventLost }

/-- Gang `gid` is `g`, and every other gang is as before. -/
def GangIs (gid : BitVec 32) (g : Gang) (s u : State) : Prop :=
  u.gang gid = some g ∧ ∀ h, h ≠ gid → u.gang h = s.gang h

/-- Worklist `l.w` of gang `gid` is `l`; the gang's other worklists, the rest of the gang and the other gangs are as
before. -/
def ListIs (gid : BitVec 32) (l : Worklist) (s u : State) : Prop :=
  u.listOf gid l.w = some l ∧ (∀ v, v ≠ l.w → u.listOf gid v = s.listOf gid v) ∧
  (∀ g, s.gang gid = some g → ∃ ls, u.gang gid = some { g with lists := ls }) ∧ ∀ h, h ≠ gid → u.gang h = s.gang h

/-- F of a worklist with these levels queued or outstanding: the lowest, or the kept value when there is none. -/
def floorOf (kept : Nat) (levels : List Nat) : Nat := (levels.min?).getD kept

/-- Levels of the queued tasks and of the outstanding tokens. -/
def levelsOf (l : Worklist) : List Nat := l.tasks.map Task.level ++ l.tokens.map Token.level

/-- The 64-byte descriptor of a worklist of a gang on `n` devices is well formed (R283). -/
def WorklistDescriptor (n : Nat) (b : List Byte) : Prop :=
  fieldOfBytes b 0 1 = 1 ∧ fieldOfBytes b 1 1 ≤ 63 ∧ fieldOfBytes b 2 1 ≤ 59 ∧ fieldOfBytes b 3 1 ≤ 15 ∧
  fieldOfBytes b 8 8 % 64 = 0 ∧ fieldOfBytes b 16 8 % 64 = 0 ∧ 64 * n ≤ fieldOfBytes b 16 8 ∧
  fieldOfBytes b 32 8 % 16 = 0 ∧ (n ≤ 1 → fieldOfBytes b 24 4 = 0xFFFFFFFF) ∧
  (∀ o, (28 ≤ o ∧ o < 32) ∨ (40 ≤ o ∧ o < 64) → b.getD o 0 = 0)

/-- A step word of a balancing record over `n` devices is well formed (R284). -/
def BalancingStep (n : Nat) (v : Nat) : Prop :=
  v / 2 ^ 60 = 2 ∧ v / 2 ^ 52 % 256 < n ∧ v / 2 ^ 44 % 256 < n ∧ v / 2 ^ 52 % 256 ≠ v / 2 ^ 44 % 256 ∧
  v / 2 ^ 16 % 65536 ≠ 0 ∧ v / 2 ^ 32 % 2 ^ 12 = 0 ∧ v % 2 ^ 16 = 0

/-- The balancing record that a descriptor names, if it names one, is well formed and readable, with these step
words (R284). -/
def BalancingRecord (s : State) (n : Nat) (b : List Byte) (steps : List Word) : Prop :=
  (fieldOfBytes b 24 4 = 0xFFFFFFFF ∧ steps = []) ∨
  ∃ sw head bs, fieldOfBytes b 24 4 < 2 ^ 16 ∧ s.slotWord s.ctx.table (fieldOfBytes b 24 4) = some sw ∧
    s.slotLost s.hart.core s.ctx.table (fieldOfBytes b 24 4) = none ∧
    StructAt s (some (BitVec.ofNat 16 (fieldOfBytes b 24 4))) (sw.lo + fieldOfBytes b 32 8) 16 head ∧
    fieldOfBytes head 0 2 = 2 ∧ fieldOfBytes head 2 2 = n ∧ 1 ≤ fieldOfBytes head 4 4 ∧
    fieldOfBytes head 4 4 ≤ 4096 ∧ (∀ o, 8 ≤ o → o < 16 → head.getD o 0 = 0) ∧
    StructAt s (some (BitVec.ofNat 16 (fieldOfBytes b 24 4))) (sw.lo + fieldOfBytes b 32 8 + 16)
      (8 * fieldOfBytes head 4 4) bs ∧
    steps.length = fieldOfBytes head 4 4 ∧
    ∀ i, i < steps.length → (steps.getD i 0).toNat = fieldOfBytes bs (8 * i) 8 ∧
      BalancingStep n (steps.getD i 0).toNat

/-- R283, R284, R290, R294: a valid descriptor opens a CLOSED worklist and returns 0; an identical one returns 1 for
an open and 2 for a DONE worklist and changes nothing; a differing one is the fault of reason 14. Opening captures the spill slot and the record
slot. -/
def WorklistOpening : Prop :=
  ∀ (s : State) (a b : BitVec 5) (g : Gang) (l : Worklist) (d : List Byte) (rs : List (SlotRef × Nat))
    (steps : List Word),
    let addr := (s.hart.xr b).toNat
    let n := g.devs.length
    let part := fieldOfBytes d 16 8 / (64 * n) * 64
    Fresh s → s.gang s.hart.gid = some g → 1 ≤ n → addr % 64 = 0 →
    StructAt s (s.hart.tagOf b) addr 64 d → WorklistDescriptor n d →
    s.listOf s.hart.gid (fieldOfBytes d 3 1) = some l →
    s.probeAll s.ctx ((List.range n).map fun m =>
      ⟨fieldOfBytes d 4 4, fieldOfBytes d 8 8 + m * part, part, 16, 1, 3⟩) = .ok rs →
    BalancingRecord s n d steps →
    let answers (v : Word) (u : State) : Prop := WritesX a v none (counted s u) u
    (l.state = .closed → Yields (.wlopen a b) s fun u =>
      ListIs s.hart.gid { l with
        state := .opened, desc := d, delta := fieldOfBytes d 1 1, shift := fieldOfBytes d 2 1
        spill := some (spanAt rs 0).1, soff := fieldOfBytes d 8 8, slen := fieldOfBytes d 16 8, record := steps
        rslot := (s.slotWord s.ctx.table (fieldOfBytes d 24 4)).map fun w => ⟨fieldOfBytes d 24 4, w⟩
        roff := fieldOfBytes d 32 8, floor := 0 } s u ∧
      WritesX a 0 none { counted s u with gangs := u.gangs } u) ∧
    ((l.state = .opened ∨ l.state = .armed) → l.desc = d → Yields (.wlopen a b) s (answers 1)) ∧
    (l.state = .done → l.desc = d → Yields (.wlopen a b) s (answers 2)) ∧
    (l.state ≠ .closed → l.desc ≠ d → CanTrap s →
      Yields (.wlopen a b) s fun u => TrapsHere 7 14 (s.hart.xr b) (counted s u) u)

/-- R282, R285, R286, R290, R295: wlpush queues its task at level p >> SHIFT, arms the worklist and sets F; it waits
while the worklist is CLOSED, and faults with reason 16 when it is DONE. -/
def WorklistPush : Prop :=
  ∀ (s : State) (a b : BitVec 5) (g : Gang) (l : Worklist),
    let w := (s.hart.xr b).toNat % 16
    let level := (s.hart.xr b).toNat / 16 / 2 ^ l.shift
    let floor := if levelsOf l = [] then level else min l.floor level
    let t : Task := ⟨s.hart.xr a, level, s.devIndex, none⟩
    s.gang s.hart.gid = some g → s.listOf s.hart.gid w = some l → ScalarPerformed s →
    (l.state = .opened ∨ l.state = .armed → level < floor + 64 → s.unitRoom = true →
      (∀ x ∈ l.tasks, x.level < floor + 64) →
      Yields (.wlpush a b) s fun u =>
        ListIs s.hart.gid { l with
          state := .armed, tasks := l.tasks ++ [t], pushes := l.pushes + 1, floor := floor } s u ∧
        u = { finished s with gangs := u.gangs }) ∧
    (l.state = .closed → Yields (.wlpush a b) s (Waits .retry s)) ∧
    (l.state = .done → CanTrap s → Yields (.wlpush a b) s (TrapsHere 7 16 0 s))

/-- R286: wlpush and wldone wait until the older events of the scalar side have performed. -/
def WorklistOrder : Prop :=
  ∀ (s : State) (a b : BitVec 5) (l : Worklist), ¬ ScalarPerformed s →
    (s.listOf s.hart.gid ((s.hart.xr b).toNat % 16) = some l → Yields (.wlpush a b) s (Waits .retry s)) ∧
    (s.listOf s.hart.gid ((s.hart.xr a).toNat % 16) = some l → Yields (.wldone a) s (Waits .retry s))

/-- R282, R290, R293, R296: wlpop takes a task of the window of its device, with a token not outstanding before; with none
it waits, or returns NONE when bit 4 of xb is set; on a DONE worklist it returns DONE. The record is invalid, for it
writes two registers. -/
def WorklistPop : Prop :=
  ∀ (s : State) (a b : BitVec 5) (g : Gang) (l : Worklist), b ≠ 0 → a ≠ b →
    let w := (s.hart.xr b).toNat % 16
    let window (t : Task) : Prop := t ∈ l.tasks ∧ t.dev = s.devIndex ∧ t.level ≤ l.floor + l.delta
    let pair (v st : Word) (u : State) : Prop :=
      u.hart = ((finished s).hart.setX a v none).setX b st none
    s.gang s.hart.gid = some g → s.listOf s.hart.gid w = some l →
    (l.state = .armed → (∃ t, window t) → (∀ t ∈ l.tasks, t.spilled = none) →
      Yields (.wlpop a b) s fun u => ∃ t, window t ∧
        pair t.word (BitVec.ofNat 64 ((l.serial + 1) * 16 + l.w)) u ∧ u = { s with hart := u.hart, gangs := u.gangs } ∧
        ListIs s.hart.gid { l with
          tasks := l.tasks.erase t, tokens := l.tokens ++ [⟨l.serial + 1, t.level, s.hart.ser, s.devIndex⟩]
          serial := l.serial + 1 } s u) ∧
    (l.state = .done → Yields (.wlpop a b) s fun u => OnlyHart s u ∧ pair 0 0 u) ∧
    (l.state ≠ .done → (l.state = .armed → ¬ ∃ t, window t) →
      ((s.hart.xr b).getLsbD 4 = true → Yields (.wlpop a b) s fun u => OnlyHart s u ∧ pair 0 1 u) ∧
      ((s.hart.xr b).getLsbD 4 = false → Yields (.wlpop a b) s (Waits (.wlpop a b) s)))

/-- R282, R289, R291, R297: wldone retires an outstanding token and recomputes F; any other token is the fault of reason
15. -/
def TokenRetirement : Prop :=
  ∀ (s : State) (a : BitVec 5) (l : Worklist),
    let v := (s.hart.xr a).toNat
    let rest := l.tokens.filter fun t => t.serial != v / 16
    s.listOf s.hart.gid (v % 16) = some l → ScalarPerformed s →
    ((∃ t ∈ l.tokens, t.serial = v / 16) → Yields (.wldone a) s fun u =>
      ListIs s.hart.gid { l with
        tokens := rest, retired := l.retired + 1
        floor := floorOf l.floor (l.tasks.map Task.level ++ rest.map Token.level) } s u ∧
      u = { finished s with gangs := u.gangs }) ∧
    ((¬ ∃ t ∈ l.tokens, t.serial = v / 16) → CanTrap s → Yields (.wldone a) s (TrapsHere 7 15 0 s))

/-- R298: wlstat writes the status word and wlfloor F, or 2^64 − 1 for a CLOSED worklist. -/
def WorklistReading : Prop :=
  ∀ (s : State) (a b : BitVec 5) (l : Worklist),
    let here := l.tasks.filter fun t => t.dev == s.devIndex
    let mine := l.tokens.filter fun t => t.dev == s.devIndex
    let code := match l.state with | .closed => 0 | .opened => 1 | .armed => 2 | .done => 3
    let word := min here.length (2 ^ 32 - 1) * 2 ^ 32 + min mine.length 65535 * 2 ^ 16 + l.lost.toNat * 2 ^ 7 +
      l.aband.toNat * 2 ^ 6 + l.sfull.toNat * 2 ^ 5 + (here.any fun t => t.spilled.isSome).toNat * 2 ^ 4 + code
    s.listOf s.hart.gid ((s.hart.xr b).toNat % 16) = some l →
    Yields (.wlstat a b) s (WritesX a (BitVec.ofNat 64 word) none s) ∧
    Yields (.wlfloor a b) s
      (WritesX a (if l.state = .closed then BitVec.allOnes 64 else BitVec.ofNat 64 l.floor) none s)

/-- R293: a worklist that is not bound is the fault of reason 13, and the two excluded forms of wlpop are illegal. -/
def WorklistRefusals : Prop :=
  ∀ (s : State) (a b : BitVec 5), CanTrap s →
    (s.listOf s.hart.gid ((s.hart.xr b).toNat % 16) = none →
      Yields (.wlpush a b) s (TrapsHere 7 13 0 s) ∧ Yields (.wlstat a b) s (TrapsHere 7 13 0 s) ∧
      Yields (.wlfloor a b) s (TrapsHere 7 13 0 s) ∧ Yields (.wldone b) s (TrapsHere 7 13 0 s) ∧
      (b ≠ 0 → a ≠ b → Yields (.wlpop a b) s (TrapsHere 7 13 0 s))) ∧
    (b = 0 ∨ a = b → Yields (.wlpop a b) s (TrapsIllegal s))

/-- Group entry `i` of a gang descriptor takes in rank `r`: the groups before it have no more than `r` harts, and with its
own they have more (R76). -/
def GroupOfRank (bs : List Byte) (i r : Nat) : Prop :=
  let before := ((List.range i).map fun j => fieldOfBytes bs (16 * j) 2).sum
  before ≤ r ∧ r < before + fieldOfBytes bs (16 * i) 2

/-- R264: gwait returns the status of a retired gang of its world once, and 3 for any other handle; it waits for a gang
that has not retired. That a hart in handler mode has the world of its context is the model's log entry 51. -/
def GangStatus : Prop :=
  ∀ (s : State) (a b : BitVec 5),
    let gid : BitVec 32 := (s.hart.xr b).setWidth 32
    (s.gang gid = none → Yields (.gwait a b) s (WritesX a 3 none s)) ∧
    ∀ g, s.gang gid = some g →
      (g.wid ≠ s.ctx.world ∨ g.phase = .consumed → Yields (.gwait a b) s (WritesX a 3 none s)) ∧
      (g.wid = s.ctx.world →
        (∀ st, g.phase = .retired st → Yields (.gwait a b) s fun u =>
          WritesX a (BitVec.ofNat 64 st) none { s with gangs := u.gangs } u ∧
          GangIs gid { g with phase := .consumed } s u) ∧
        (g.phase = .waiting ∨ g.phase = .placed ∨ g.phase = .started →
          Yields (.gwait a b) s (Waits (.gwait a b) s)))

/-- Bit `b` of a mask is set, and the others are as before. -/
def BitSet (b : Nat) (v : Bool) (m m' : BitVec 16) : Prop :=
  ∀ i, m'.getLsbD i = if i = b then v else m.getLsbD i

/-- R274: gbar arrives once, when the hart's older events have performed, and then waits until the barrier has moved on; it
takes its barrier from bits [3:0] and changes nothing else. That an arrival is kept over a trap or a switch, and counts once,
is the model's log entry 55. -/
def BarrierArrival : Prop :=
  ∀ (s : State) (a : BitVec 5) (g : Gang) (m : Member),
    let b := (s.hart.xr a).toNat % 16
    let here := s.hart.arrivals.getLsbD b
    s.gang s.hart.gid = some g → g.memberOf s.hart.ser = some m →
    (∀ x ∈ g.members, x.ser = some s.hart.ser → x = m) →
    (here = false → AllPerformed s → Yields (.gbar a) s fun u =>
      u = { s with
        gangs := u.gangs
        hart := { s.hart with wait := some (.gbar (BitVec.ofNat 4 b)), arrivals := u.hart.arrivals } } ∧
      BitSet b true s.hart.arrivals u.hart.arrivals ∧
      ∃ bits, BitSet b true m.arrived bits ∧
        GangIs s.hart.gid { g with members := g.members.map fun x => if x = m then { m with arrived := bits } else x }
          s u) ∧
    (here = false → ¬ AllPerformed s → Yields (.gbar a) s (Waits .retry s)) ∧
    (here = true → m.arrived.getLsbD b = true → Yields (.gbar a) s (Waits (.gbar (BitVec.ofNat 4 b)) s)) ∧
    (here = true → m.arrived.getLsbD b = false → Yields (.gbar a) s fun u =>
      OnlyHart s u ∧ u.hart = { (finished s).hart with arrivals := u.hart.arrivals } ∧
      BitSet b false s.hart.arrivals u.hart.arrivals)

/-- A runnable hart of this core, off its slots, to which the acting hart may pass its slot: one of the run set, in a domain
slice one of its gang, whose share fits beside those of the harts on the core's slots and of the harts whose slice runs
(R265, R271, R273). -/
def MayInherit (s : State) (h : Hart) : Prop :=
  let others := s.others.filter fun o => o.life == .running && o.core == h.core && o.ser != h.ser
  let beside := match s.slice with
    | none => others
    | some gid => if h.gid = gid then others else others.filter (fun (o : Hart) => o.gid != gid) ++ s.gangOn gid h.core
  h ∈ s.others ∧ h.life = .descheduled ∧ h.core = s.hart.core ∧ s.gangRuns h = true ∧
  (beside.map Hart.grant).sum + h.grant ≤ 4 ∧
  (if h.vloc = 1 then ∀ g ∈ h.groups, g ∈ s.goodGroups h.core else h.share.toNat ≤ (s.goodGroups h.core).length) ∧
  if s.slice = some s.hart.gid then h.gid = s.hart.gid else ∃ g, s.gang h.gid = some g ∧ g.devs.length ≤ 1

/-- R271: hyield ends the quantum of the hart: it stays runnable, off its slot and at the next word, with one quantum less, or
with those of a new round where no hart of its run set has one left, and a hart that may inherit has its slot; where there is
none, or where it may not stop (in handler mode, or with an answer of the host due), it goes on, and only the record, which
becomes invalid, and pc change. Which of several harts inherits is a free value (log entry 10); rounds are the model's log
entry 87. -/
def Yielding : Prop :=
  ∀ (s : State), s.hart.life = .running →
    let spent := ∀ x ∈ s.runSet s.hart.core, if x.ser = s.hart.ser then x.quanta ≤ 1 else x.quanta = 0
    (s.hart.hm = true ∨ s.hart.hostBusy = true → Yields .hyield s fun u => u = finished s) ∧
    ((∀ h ∈ s.others, h.life ≠ .descheduled ∨ h.core ≠ s.hart.core ∨ s.gangRuns h = false) →
      Settled s → Yields .hyield s fun u => u = finished s) ∧
    (s.hart.hm = false → s.hart.hostBusy = false → s.hart.holdReq = false → Settled s →
      ((s.hart :: s.others).map Hart.ser).Nodup → (∃ h, MayInherit s h) →
      Yields .hyield s fun u => u.hart.ser = s.hart.ser ∧ u.hart.life = .descheduled ∧ u.hart.pc = s.hart.pc + 4 ∧
        (¬ spent → u.hart.quanta = s.hart.quanta - 1) ∧
        (spent → s.hart ∈ s.runSet s.hart.core → u.hart.quanta = max s.hart.weight.toNat 1) ∧
        ∃ h, MayInherit s h ∧ ∃ h' ∈ u.others, h'.ser = h.ser ∧ h'.life ≠ .descheduled)

/-- R275 to R278: xred of a packet and schedule that pass their checks clears its completion bit and joins the next
reduction of its member; nothing else of the gang, the hart and memory changes. That the step words keep R276 is the
model's badSchedule over its list of tree nodes. -/
def ReductionJoining : Prop :=
  ∀ (s : State) (a : BitVec 5) (k : BitVec 4) (g : Gang) (m : Member) (p head bs : List Byte) (sw : SlotWord)
    (rs : List (SlotRef × Nat)) (steps : List Word),
    let addr := (s.hart.xr a).toNat
    let et := fieldOfBytes p 33 1
    let w := if et = 0x26 then 8 else 4
    let count := fieldOfBytes p 24 4
    let sched := sw.lo + fieldOfBytes p 16 8
    let nodes := fieldOfBytes head 4 4
    NoOlderWriter s.hart k → k.toNat < 12 → Fresh s →
    Memory.wf (s.hart.kreg.toList.getD k.toNat []) = true →
    addr % 16 = 0 → StructAt s (s.hart.tagOf a) addr 48 p →
    s.gang s.hart.gid = some g → g.memberOf s.hart.ser = some m →
    (∀ x ∈ g.members, x.rank = m.rank → x = m) →
    (et = 0x35 ∨ et = 0x25 ∨ et = 0x26) → 1 ≤ count → count ≤ 2 ^ 20 →
    fieldOfBytes p 8 8 % w = 0 → fieldOfBytes p 16 8 % 16 = 0 →
    s.probeAll s.ctx [⟨fieldOfBytes p 0 4, fieldOfBytes p 8 8, count * w, w, 1, 3⟩] = .ok rs →
    fieldOfBytes p 4 4 < 2 ^ 16 → s.slotWord s.ctx.table (fieldOfBytes p 4 4) = some sw →
    s.slotLost s.hart.core s.ctx.table (fieldOfBytes p 4 4) = none →
    StructAt s (some (BitVec.ofNat 16 (fieldOfBytes p 4 4))) sched 16 head →
    fieldOfBytes head 0 2 = 1 → fieldOfBytes head 2 2 = g.devs.length →
    nodes = (treeNodes g.members.length).length → (∀ o, 8 ≤ o → o < 16 → head.getD o 0 = 0) →
    StructAt s (some (BitVec.ofNat 16 (fieldOfBytes p 4 4))) (sched + 16) (8 * nodes) bs →
    steps.length = nodes → (∀ i, i < nodes → (steps.getD i 0).toNat = fieldOfBytes bs (8 * i) 8) →
    badSchedule g.members.length g.devs.length [] steps = false →
    fieldOfBytes p 28 4 < 8 * s.hart.c → fieldOfBytes p 32 1 ≤ 2 → (∀ o, 34 ≤ o → o < 48 → p.getD o 0 = 0) →
    ScalarPerformed s → g.inFlight m.rank < 4 →
    Yields (.xred a k) s fun u =>
      u = { counted (finished s) u with hart := finishedWith u.hart.kreg s.hart, gangs := u.gangs } ∧
      ClearsBits k (fun i => i = fieldOfBytes p 28 4) s.hart u.hart ∧
      ∃ reds, GangIs s.hart.gid { g with
          reds := reds
          members := g.members.map fun x => if x = m then { m with joins := m.joins + 1 } else x } s u ∧
        (∀ r ∈ reds, r.k ≠ m.joins → r ∈ g.reds) ∧
        ∃ r ∈ reds, r.k = m.joins ∧ ∃ j ∈ r.joins, j.rank = m.rank ∧ j.ser = s.hart.ser ∧ j.count = count ∧
          j.op.toNat = fieldOfBytes p 32 1 ∧ j.etype.toNat = et ∧ j.steps = steps ∧ j.buf = (spanAt rs 0).1 ∧
          j.boff = (spanAt rs 0).2 ∧ j.kb = k ∧ j.cbit = fieldOfBytes p 28 4

/-! ### Worlds (R336 to R350) -/

/-- World `v.wid` is `v`, and every other world is as before. -/
def WorldIs (v : World) (s u : State) : Prop :=
  u.world v.wid = some v ∧ ∀ x, x ≠ v.wid → u.world x = s.world x

/-- A buffer of `n` bytes passes its checks as stores (R336), lies in local memory, each byte at a place of its own
where nothing is held, and its lines pass their check. -/
def BufferAt (s : State) (tag : Option (BitVec 16)) (a n : Nat) (ref : SlotRef) : Prop :=
  a % 64 = 0 ∧ WholeLines s ∧
  (∀ o, o < n → o % 8 = 0 →
    s.probe s.ctx ⟨slotIndex tag, a + o, 8, 8, needWrite, true, true, false⟩ = .ok ref) ∧
  (∀ o, o < n → LocalMemory s (a + o) ∧ NotHeldBack s (a + o)) ∧
  (∀ o p, o < n → p < n → performedAt s (a + o) = performedAt s (a + p) → o = p) ∧
  (∀ o, o < n → performedAt s (a + o) / 64 * 64 ∉ s.lost) ∧
  (ref.word.keyid = 0 ∨ (s.readBytes s.ctx ref.word a n).isSome = true)

/-- The state but for what a store to memory changes. -/
def stored (s u : State) : State := { counted s u with mem := u.mem, macs := u.macs, dirty := u.dirty, lost := u.lost }

/-- R336, R338, R340: ALLOW exchanges the mask of the hart's own world, GRANT adds a world of 1 to 1,023 that is open, not
the own one and not granted, while fewer than 8 are granted, and returns 0; REVOKE removes a granted one at once, and
returns 0 when no access under the grant is outstanding, until when it waits. A grant or revocation that breaks this, and
each of them from world 0, returns 1 and changes nothing. What is outstanding is the model's usesKey: captured slot words,
packets, held writes and pending stores of the other world; that a revocation which waits is remembered is its choice (log
entry 114). -/
def WorldSettings : Prop :=
  ∀ (s : State) (d a : BitVec 5),
    let v := s.hart.xr a
    let b : BitVec 10 := v.setWidth 10
    let none' (u : State) : Prop := WritesX d 1 none s u
    (s.ctx.world = 0 → Yields (.wattestAllow d a) s none' ∧ Yields (.wattestGrant d a) s none' ∧
      Yields (.wattestRevoke d a) s none' ∧ Yields (.wattestLog d a) s none') ∧
    ∀ w, s.ctx.world ≠ 0 → s.world s.ctx.world = some w →
      let grantable := v.toNat ≠ 0 ∧ v.toNat ≤ 1023 ∧ b ≠ w.wid ∧ (∃ x, s.world b = some x) ∧ b ∉ w.grants ∧
        w.grants.length < 8
      let mine := (s.hart.ser, b)
      let revocable := v.toNat ≤ 1023 ∧ (b ∈ w.grants ∨ mine ∈ w.revokes)
      let rest : World := { w with grants := w.grants.filter (· != b), revokes := w.revokes.filter (· != mine) }
      let now (w' : World) (r : Word) (u : State) : Prop := WorldIs w' s u ∧ WritesX d r none { s with worlds := u.worlds } u
      Yields (.wattestAllow d a) s (now { w with allow := v } w.allow) ∧
      (grantable → Yields (.wattestGrant d a) s (now { w with grants := w.grants ++ [b] } 0)) ∧
      (¬ grantable → Yields (.wattestGrant d a) s none') ∧
      (revocable → s.usesKey b w.wid = false → Yields (.wattestRevoke d a) s (now rest 0)) ∧
      (revocable → s.usesKey b w.wid = true → Yields (.wattestRevoke d a) s fun u =>
        WorldIs { rest with revokes := rest.revokes ++ [mine] } s u ∧
        u = { s with hart := { s.hart with wait := some .retry }, worlds := u.worlds }) ∧
      (¬ revocable → Yields (.wattestRevoke d a) s none')

/-- R339: LOG writes the number of entries of the log, the number lost, 56 zero bytes and the entries, with their two zero
bytes, to its buffer of 4,160 bytes, empties the log and returns the number of entries. The time of an entry is a free value (log entry 8); that a hart in
handler mode counts as one of world 0 here too is the model's reading (log entry 51). -/
def DisclosureLog : Prop :=
  ∀ (s : State) (d a : BitVec 5) (w : World) (ref : SlotRef),
    let addr := (s.hart.xr a).toNat
    Fresh s → Memory.wf s.mem = true → s.ctx.world ≠ 0 → s.world s.ctx.world = some w →
    w.log.length ≤ 256 → BufferAt s (s.hart.tagOf a) addr 4160 ref →
    Yields (.wattestLog d a) s fun u =>
      WorldIs { w with log := [], lost := 0 } s u ∧
      WritesX d (BitVec.ofNat 64 w.log.length) none { stored s u with worlds := u.worlds, hart := s.hart } u ∧
      OnlyBytes addr 4160 s u ∧
      (ref.word.keyid = 0 →
        let field (o n : Nat) : Nat := littleEndian (seen s u (addr + o) n)
        field 0 4 = w.log.length ∧ field 4 4 = w.lost.toNat ∧ (∀ o, 8 ≤ o → o < 64 → field o 1 = 0) ∧
        ∀ i e, w.log[i]? = some e →
          field (64 + 16 * i) 8 = e.time.toNat ∧ field (72 + 16 * i) 1 = e.cls.toNat ∧
          field (73 + 16 * i) 1 = e.req.toNat ∧ field (74 + 16 * i) 2 = 0 ∧ field (76 + 16 * i) 4 = e.seq.toNat)

/-- R337, R328: REPORT writes the report of the hart's world over its buffer, keeps the nonce in its first 32 bytes, creates a
new report key pair whose public key it holds, signs the first 216 bytes with the device's attestation key, and returns 0.
The measures of firmware and settings are free values of what they measure (log entry 8), the nonce of the signature is one
(log entry 7), the algorithms are those of their standards (log entry 13), and what world 0 reports is the model's reading
(log entry 60). -/
def WorldReport : Prop :=
  ∀ (s : State) (d a : BitVec 5) (nonce : List Byte) (ref : SlotRef),
    let addr := (s.hart.xr a).toNat
    let w := s.world s.ctx.world
    Fresh s → Memory.wf s.mem = true → (s.ctx.world ≠ 0 → w ≠ none) →
    StructAt s (s.hart.tagOf a) addr 32 nonce → BufferAt s (s.hart.tagOf a) addr 280 ref →
    Yields (.wattestReport d a) s fun u =>
      (s.ctx.world = 0 → u.report0 = some s.draws ∧ u.worlds = s.worlds) ∧
      (∀ x, s.ctx.world ≠ 0 → w = some x → WorldIs { x with report := some s.draws } s u ∧ u.report0 = s.report0) ∧
      WritesX d 0 none { stored s u with worlds := u.worlds, report0 := u.report0, draws := s.draws + 1 } u ∧
      OnlyBytes addr 280 s u ∧
      (ref.word.keyid = 0 →
        let part (o n : Nat) : List Byte := seen s u (addr + o) n
        let of (f : World → Nat) : Nat := (w.map f).getD 0
        let image := s.fwActive.version * 2 ^ 256 + s.fwActive.digest.toNat
        part 0 32 = nonce ∧ littleEndian (part 32 32).reverse = (Config.firmwareMeasure image).toNat ∧
        littleEndian (part 64 32).reverse = (Config.configMeasure s.settings).toNat ∧
        littleEndian (part 96 32).reverse = of (fun x => x.imgm.toNat) ∧
        part 128 64 = Crypto.publicKey (Config.reportScalar s.draws) ∧
        littleEndian (part 192 8) = Config.deviceSerial.toNat ∧ littleEndian (part 200 2) = s.ctx.world.toNat ∧
        littleEndian (part 202 2) = 1 ∧ littleEndian (part 204 4) = of (fun x => x.qlost.toNat) ∧
        littleEndian (part 208 8) = of (fun x => x.lstat.toNat) ∧
        part 216 64 = Crypto.ecdsaSign Config.deviceKey (Config.signNonce s.tick) (Crypto.sha256 (part 0 216)))

/-- R341: a wbind of a hart of world 0 reads its block of `n` bytes, at a multiple of 64. -/
def BlockOf (s : State) (a : BitVec 5) (n : Nat) (b : List Byte) : Prop :=
  s.hart.world0 = true ∧ Fresh s ∧ (s.hart.xr a).toNat % 64 = 0 ∧
  StructAt s (s.hart.tagOf a) (s.hart.xr a).toNat n b

/-- Bytes `lo` to `hi` − 1 of a block are zero. -/
def ZeroBytes (b : List Byte) (lo hi : Nat) : Prop := ∀ o, lo ≤ o → o < hi → b.getD o 0 = 0

/-- wbind returns a status code and changes nothing else but page counters. -/
def Answers (d : BitVec 5) (code : Nat) (s u : State) : Prop := WritesX d (BitVec.ofNat 64 code) none (counted s u) u

/-- R324, R341, R342: OPEN of a block that keeps its rules creates an open world with version 0 of its key, its device list
and its queue, everything else empty, and returns 0; code 2 for a block that breaks them, and 1 for a world that is
open. -/
def WorldOpening : Prop :=
  ∀ (s : State) (d a : BitVec 5) (b : List Byte), BlockOf s a 192 b →
    let w := fieldOfBytes b 0 2
    let n := fieldOfBytes b 2 1
    let devs := (b.drop 16).take n
    let good := 1 ≤ w ∧ w ≤ 1023 ∧ 1 ≤ n ∧ n ≤ 144 ∧ fieldOfBytes b 3 1 = 0 ∧ fieldOfBytes b 4 4 % 64 = 0 ∧
      4096 ≤ fieldOfBytes b 4 4 ∧ fieldOfBytes b 8 8 % 64 = 0 ∧
      s.populated (fieldOfBytes b 8 8) (fieldOfBytes b 4 4) = true ∧ LocalMemory s (fieldOfBytes b 8 8) ∧ devs.head? = some s.devIndex ∧ devs.Nodup ∧
      (∀ x ∈ devs, x.toNat < 144) ∧ ∀ o, (16 + n ≤ o ∧ o < 192) → b.getD o 0 = 0
    let there := ∃ v, s.world (BitVec.ofNat 10 w) = some v
    (good → ¬ there → Yields (.wbindOpen d a) s fun u => ∃ v : World,
      WorldIs v s u ∧ v.wid.toNat = w ∧ v.devs = devs ∧ v.qaddr = s.canon (fieldOfBytes b 8 8) ∧ v.qlen = fieldOfBytes b 4 4 ∧
      v.versions = [⟨0, s.draws, false⟩] ∧ v.grants = [] ∧ v.allow = 0 ∧ v.log = [] ∧ v.imgm = 0 ∧ v.report = none ∧
      v.faulted = false ∧
      WritesX d 0 none { counted s u with worlds := s.worlds ++ [v], draws := s.draws + 1 } u) ∧
    (good → there → Yields (.wbindOpen d a) s (Answers d 1 s)) ∧
    (¬ good → Yields (.wbindOpen d a) s (Answers d 2 s))

/-- R343: NEWVER creates a version of 1 to 4,095 of an open world's key that it does not have, and returns 0; code 2 for a
block that breaks its rules, 1 for a world that is not open, also one above 1,023 (log entry 63), 3 for a version that
exists. -/
def KeyVersions : Prop :=
  ∀ (s : State) (d a : BitVec 5) (b : List Byte), BlockOf s a 64 b →
    let w := fieldOfBytes b 0 2
    let v := fieldOfBytes b 2 2
    let good := 1 ≤ v ∧ v ≤ 4095 ∧ ∀ o, 4 ≤ o → o < 64 → b.getD o 0 = 0
    (¬ good → Yields (.wbindNewver d a) s (Answers d 2 s)) ∧
    (good → (1023 < w ∨ s.world (BitVec.ofNat 10 w) = none) → Yields (.wbindNewver d a) s (Answers d 1 s)) ∧
    ∀ x, good → w ≤ 1023 → s.world (BitVec.ofNat 10 w) = some x →
      ((∃ k ∈ x.versions, k.ver.toNat = v) → Yields (.wbindNewver d a) s (Answers d 3 s)) ∧
      ((∀ k ∈ x.versions, k.ver.toNat ≠ v) → Yields (.wbindNewver d a) s fun u =>
        WorldIs { x with versions := x.versions ++ [⟨BitVec.ofNat 12 v, s.draws, false⟩] } s u ∧
        WritesX d 0 none { counted s u with worlds := u.worlds, draws := s.draws + 1 } u)

/-- R345: CLOSE of an open world with no hart and no gang destroys it and every grant to it, and returns 0; otherwise it
returns 1. A block whose reserved bytes are not zero (R341) answers 2, and a world number above 1,023 answers 1: both are the
model's (log entry 63). -/
def WorldClosing : Prop :=
  ∀ (s : State) (d a : BitVec 5) (b : List Byte), BlockOf s a 64 b →
    let w := fieldOfBytes b 0 2
    (¬ ZeroBytes b 2 64 → Yields (.wbindClose d a) s (Answers d 2 s)) ∧
    (ZeroBytes b 2 64 → (1023 < w ∨ s.world (BitVec.ofNat 10 w) = none) → Yields (.wbindClose d a) s (Answers d 1 s)) ∧
    ∀ x, ZeroBytes b 2 64 → w ≤ 1023 → s.world (BitVec.ofNat 10 w) = some x →
      let busy := (∃ h ∈ s.hart :: s.others, h.alive = true ∧ h.wid = x.wid) ∨ ∃ g ∈ s.gangs, g.alive = true ∧ g.wid = x.wid
      (busy → Yields (.wbindClose d a) s (Answers d 1 s)) ∧
      (¬ busy → Yields (.wbindClose d a) s fun u =>
        u.world x.wid = none ∧ (∀ y ∈ u.worlds, x.wid ∉ y.grants) ∧
        (∀ v y, v ≠ x.wid → s.world v = some y →
          u.world v = some { y with grants := y.grants.filter (· != x.wid) }) ∧
        (x.wid ≠ 0 → ∀ r, tblGet 0 u.owners r ≠ x.wid) ∧
        (Memory.wf s.mem = true → ∀ p, p < 2 ^ 52 → Bytes.get u.mem p = Bytes.get s.mem p) ∧
        WritesX d 0 none { stored s u with worlds := u.worlds, owners := u.owners, seals := u.seals } u)

/-- R344, R331, R326, R409: PLACE of a section that keeps its rules, into an open world under a ready version of its key,
stores its bytes and then its zeros, encrypted under that version from its slot offset on, extends the measurement of the
world's image and returns 0; the codes are 2, 1 and 3. That every PLACE extends the measurement (log entry 64), what counts as memory
of the device (log entry 65), and code 1 for a number that no world can have (log entry 63) are the model's readings. That a
scratchpad region which it reads becomes world 0's first, as R326 has it for a hart's own reads, is the model's (log entry
117, beforePlain); a source at the host waits for its answer. -/
def SectionPlacing : Prop :=
  ∀ (s : State) (d a : BitVec 5) (b : List Byte), BlockOf s a 64 b →
    let w := fieldOfBytes b 0 2
    let src := fieldOfBytes b 8 8
    let dst := fieldOfBytes b 16 8
    let off := fieldOfBytes b 24 8
    let n := fieldOfBytes b 32 8
    let z := fieldOfBytes b 40 8
    let good := fieldOfBytes b 2 2 ≤ 4095 ∧ 1 ≤ fieldOfBytes b 4 2 ∧ fieldOfBytes b 4 2 ≤ 11 ∧ ZeroBytes b 6 8 ∧
      dst % 64 = 0 ∧ off % 64 = 0 ∧ (n + z) % 64 = 0 ∧ ZeroBytes b 48 64 ∧
      (n ≠ 0 → s.populated src n = true ∧ ∀ o, regionOf (s.canon src) ≠ .window o) ∧
      (n + z ≠ 0 → s.inMemory dst (n + z) = true)
    (¬ good → Yields (.wbindPlace d a) s (Answers d 2 s)) ∧
    (good → (1023 < w ∨ s.world (BitVec.ofNat 10 w) = none) → Yields (.wbindPlace d a) s (Answers d 1 s)) ∧
    ∀ x, good → w ≤ 1023 → s.world (BitVec.ofNat 10 w) = some x →
      let v := BitVec.ofNat 12 (fieldOfBytes b 2 2)
      let r := s.beforePlain s.hart.core src n
      let bytes := r.plainBytes s.hart.core src n
      let place (o : Nat) : Nat := s.forward (s.canon (dst + o))
      (s.versionReady x.wid v = false → Yields (.wbindPlace d a) s (Answers d 3 s)) ∧
      (s.versionReady x.wid v = true → s.plainWaits src n = true →
        Yields (.wbindPlace d a) s fun u => u = { counted s u with hart := u.hart } ∧ u.hart.wait = some .retry ∧
          u.hart.pc = s.hart.pc) ∧
      (s.versionReady x.wid v = true → s.plainWaits src n = false → r.plainLost s.hart.core src n = none →
        Memory.wf s.mem = true → WholeLines s →
        (∀ o q, o < n + z → q < n + z → place o = place q → o = q) →
        Yields (.wbindPlace d a) s fun u =>
          WorldIs { x with imgm := Crypto.sha256 (Crypto.beBytes 32 x.imgm.toNat ++
            Crypto.leBytes 2 (fieldOfBytes b 4 2) ++ Crypto.leBytes 8 n ++ Crypto.leBytes 8 z ++
            Crypto.shaBytes bytes) } s u ∧
          WritesX d 0 none { stored s u with worlds := u.worlds, owners := r.owners, outbox := r.outbox } u ∧
          (∀ p, (∀ o, o < n + z → p ≠ place o) → Bytes.get u.mem p = Bytes.get r.mem p) ∧
          ∀ o, o < n + z → encryptable (place o) = true →
            let plain : Byte := if o < n then bytes.getD o 0 else 0
            Bytes.get u.mem (place o) = match (if x.wid = 0 then none else s.aesKey x.wid v) with
              | some k => plain ^^^ (padBytes k x.wid v (off + o / 64 * 64) 64).getD (o % 64) 0
              | none => plain)

/-- A manifest that keeps R346 for a `.rodata` of a length, and asks for no counter value above 255 (R402). -/
def ManifestOk (m : List Byte) (len : Nat) : Prop :=
  let n := fieldOfBytes m 4 4
  fieldOfBytes m 0 2 = 1 ∧ fieldOfBytes m 2 1 ≤ 15 ∧ fieldOfBytes m 3 1 ≤ 1 ∧ 1 ≤ n ∧ n ≤ 2 ^ 20 ∧ ZeroBytes m 12 16 ∧
  m.length = 176 + 32 * n ∧ n = (len + 2 ^ 26 - 1) / 2 ^ 26 ∧ (fieldOfBytes m 3 1 = 1 → fieldOfBytes m 8 4 ≤ 255)

/-- The state once what a SEAL or an INSTALL block names has been made ready to be read, its manifest and its wrapped key. -/
def sealSources (s : State) (b : List Byte) : State :=
  if fieldOfBytes b 4 1 ≠ 0 then s
  else (s.beforePlain s.hart.core (fieldOfBytes b 16 8) (fieldOfBytes b 24 4)).beforePlain s.hart.core (fieldOfBytes b 32 8) 104

/-- What the block names can be read: the host answers, and no line of it has an error that cannot be corrected (R385,
R396). -/
def SourcesRead (s : State) (b : List Byte) : Prop :=
  fieldOfBytes b 4 1 = 0 → ∀ p ∈ [(fieldOfBytes b 16 8, fieldOfBytes b 24 4), (fieldOfBytes b 32 8, 104)],
    s.plainWaits p.1 p.2 = false ∧ (sealSources s b).plainLost s.hart.core p.1 p.2 = none

/-- The fields that a SEAL and an INSTALL block share keep R346 and R348, with the manifest that the block names. -/
def SealBlockOk (s : State) (b : List Byte) : Prop :=
  fieldOfBytes b 4 1 ≤ 1 ∧ ZeroBytes b 5 8 ∧ ZeroBytes b 28 32 ∧ fieldOfBytes b 56 8 ≠ 0 ∧
  ManifestOk (s.manifestOf b) (fieldOfBytes b 56 8) ∧
  (fieldOfBytes b 4 1 = 0 → s.populated (fieldOfBytes b 32 8) 104 = true)

/-- R346, R348 to R350, R402: SEAL accepts a load into a ready and unused version of an open world, whose version is
pending from then on, and INSTALL an installation into a free entry of the store with room; both return 0 and queue a
job. The other codes are 2, 1, 3 and 8. The tables in which a version counts as used (versionUsed, log entry 66), the number of
shards that a length asks for (log entry 67), what counts as memory of the device (log entry 65) and code 1 for a number that
no world can have (log entry 63) are the model's readings, as is that scratchpad regions in which a block's manifest or
wrapped key lies become world 0's first (log entry 117). -/
def SealedLoads : Prop :=
  ∀ (s : State) (d a : BitVec 5) (b : List Byte), BlockOf s a 64 b → SourcesRead s b →
    let r := sealSources s b
    let w := fieldOfBytes b 0 2
    let v := fieldOfBytes b 2 2
    let ver := BitVec.ofNat 12 v
    let e := fieldOfBytes b 8 8
    let goodSeal := 1 ≤ v ∧ v ≤ 4095 ∧ SealBlockOk r b ∧ fieldOfBytes b 40 8 % 64 = 0 ∧
      fieldOfBytes b 48 8 % 64 = 0 ∧ s.inMemory (fieldOfBytes b 40 8) (fieldOfBytes b 56 8) = true
    let goodInstall := fieldOfBytes b 4 1 = 0 ∧ SealBlockOk r b ∧
      (w = 0 ∨ w ≤ 1023 ∧ ∃ x, s.world (BitVec.ofNat 10 w) = some x)
    let room := e ≤ 4095 ∧ (∀ x ∈ s.store, x.num ≠ e) ∧ (∀ j ∈ s.seals, j.install = true → j.src ≠ e) ∧
      s.storeUsed + fieldOfBytes b 56 8 ≤ 2 ^ 44
    (¬ goodSeal → Yields (.wbindSeal d a) s (Answers d 2 r)) ∧
    (goodSeal → (1023 < w ∨ s.world (BitVec.ofNat 10 w) = none) → Yields (.wbindSeal d a) s (Answers d 1 r)) ∧
    (∀ x, goodSeal → w ≤ 1023 → s.world (BitVec.ofNat 10 w) = some x →
      (s.versionReady x.wid ver = false ∨ r.versionUsed x.wid ver = true →
        Yields (.wbindSeal d a) s (Answers d 3 r)) ∧
      (s.versionReady x.wid ver = true → r.versionUsed x.wid ver = false → Yields (.wbindSeal d a) s fun u =>
        WorldIs { x with versions := x.versions.map fun k => if k.ver = ver then { k with pending := true } else k } s u ∧
        ∃ j, j.install = false ∧ j.wid = x.wid ∧ j.kver = ver ∧ j.len = fieldOfBytes b 56 8 ∧
          j.manifest = r.manifestOf b ∧ j.dst = fieldOfBytes b 40 8 ∧ j.doff = fieldOfBytes b 48 8 ∧
          WritesX d 0 none { counted r u with worlds := u.worlds, seals := s.seals ++ [j] } u)) ∧
    (¬ goodInstall → Yields (.wbindInstall d a) s (Answers d 2 r)) ∧
    (goodInstall → ¬ room → Yields (.wbindInstall d a) s (Answers d 8 r)) ∧
    (goodInstall → room → Yields (.wbindInstall d a) s fun u => ∃ j, j.install = true ∧ j.src = e ∧
      j.len = fieldOfBytes b 56 8 ∧ j.manifest = r.manifestOf b ∧
      WritesX d 0 none { counted r u with seals := s.seals ++ [j] } u)

/-- R350: ERASE removes the store entry of its number and returns 0, or returns 8 where there is none. That a block whose
reserved bytes are not zero answers 2 is the model's (log entry 63). -/
def StoreErasure : Prop :=
  ∀ (s : State) (d a : BitVec 5) (b : List Byte), BlockOf s a 64 b →
    let e := fieldOfBytes b 0 4
    (¬ ZeroBytes b 4 64 → Yields (.wbindErase d a) s (Answers d 2 s)) ∧
    (ZeroBytes b 4 64 → (∃ x ∈ s.store, x.num = e) → Yields (.wbindErase d a) s fun u =>
      WritesX d 0 none { counted s u with store := s.store.filter fun x => x.num != e } u) ∧
    (ZeroBytes b 4 64 → (∀ x ∈ s.store, x.num ≠ e) → Yields (.wbindErase d a) s (Answers d 8 s))

/-! ### Events of the device -/

/-- The state in which hart `ser` acts, and the state once the former acting hart acts again. -/
def ActsAs (s : State) (ser : BitVec 16) (i : State → State → Prop) (u : State) : Prop :=
  ∃ v, i (s.focus ser) v ∧ u = v.focus s.hart.ser

/-- The state with the acting hart's wait over. -/
def woken (s : State) : State := { s with hart := { s.hart with wait := none } }

/-- A step that ends a wait of kind `w` runs `i` again as the hart that waits: where a running hart of the serial
number waits so, and not otherwise. -/
def EndsWait (s : State) (ser : BitVec 16) (e i : Instr) (w : Wait) : Prop :=
  ∀ h, s.findHart ser = some h → h.life = .running → h.wait = some w →
    Yields e s (ActsAs s ser fun f v => exec i (woken f) = .next v)

/-- Hart `ser` is `h`, and no other hart and nothing else differs. -/
def HartIs (ser : BitVec 16) (h : Hart) (s u : State) : Prop :=
  u = { s with hart := u.hart, others := u.others } ∧ u.findHart ser = some h ∧
  ∀ r, r ≠ ser → u.findHart r = s.findHart r

/-- The harts of world 0 that take asynchronous events (R362). -/
def Listens (h : Hart) : Prop := h.life = .running ∧ h.wid = 0 ∧ h.ie = true ∧ h.hm = false

/-- R362, R363, R367: the oldest event is delivered to a running hart of world 0 that accepts events, as a trap with the
event's cause, detail and value, and leaves the queue; OVF tells whether one was lost. With no handler, no event or no
such hart nothing happens. Of several such harts the one of the lowest serial number takes it. -/
def EventDelivery : Prop :=
  ∀ (s : State),
    (∀ e rest, s.events = e :: rest → CanTrap s → Listens s.hart →
      (∀ h ∈ s.others, Listens h → s.hart.ser.toNat ≤ h.ser.toNat) →
      Yields .eventDelivery s fun u =>
        TrapsHere e.cause.toNat e.detail e.val { s with events := rest, eventLost := false
                                                        hart := { s.hart with ovf := s.eventLost } } u ∧
        u.hart.ovf = s.eventLost) ∧
    (s.hvec = 0 ∨ s.events = [] ∨ (∀ h ∈ s.hart :: s.others, ¬ Listens h) → Yields .eventDelivery s fun u => u = s)

/-- A hart that has been switched out: its queue is emptied, its streams keep nothing that they have fetched, and its lanes
keep its vector state (R240, R373). -/
def offHart (l : Life) (h : Hart) : Hart :=
  { h with
    life := l, queue := [], convoy := none, wait := none, answer := none, capture := none, pairHeld := false, preempt := false
    streams := h.streams.map (fun q => { q with ready := [], failed := false })
    pfx := BitVec.ofNat 64 (prefixState h.loan h.half h.last)
    vstart := BitVec.ofNat 20 ((controlWords h).getD 2 0) }

/-- The acting hart is switched out (R240, R373, R374): its context is saved in its CSA, as SavesContext lists it. -/
def SwitchesOut (l : Life) (s u : State) : Prop :=
  u = { s with hart := u.hart, mem := u.mem, macs := u.macs, lost := u.lost } ∧
  (Memory.wf s.mem = true → ∀ a, a < s.hart.csa.toNat ∨ s.hart.csa.toNat + contextBytes ≤ a →
    Bytes.get u.mem a = Bytes.get s.mem a) ∧
  (Memory.wf s.mem = true → s.hart.queue.length ≤ 64 → SavesContext s s.hart u.mem) ∧
  u.hart = offHart l s.hart

/-- Hart `ser` may be switched out: it runs, out of handler mode, the host owes it nothing, and what it has stored has
performed. -/
def CanStop (s : State) (ser : BitVec 16) (h : Hart) : Prop :=
  s.findHart ser = some h ∧ (s.focus ser).hart = h ∧ h.life = .running ∧ h.hm = false ∧ h.hostBusy = false ∧
  Settled (s.focus ser)

/-- Held where the manager has asked for it, else descheduled. -/
def stoppedLife (h : Hart) : Life := if h.holdReq then .held else .descheduled

/-- R268, R273, R363, R370, R373, R374: a requested pre-emption or hold, a switch-out, and the expiry of the grace of a smaller
share switch the hart out; a hart in handler mode is not switched out, but keeps the request; a hart of a gang in its domain
slice is switched out for no hold and by no choice of the scheduler. That a reduction is dropped at once in handler mode,
and that the switches are the scheduler's steps, is the model's (logs 88, 87), as is that a hold waits for the slice to end
(log 89). -/
def SwitchingOut : Prop :=
  ∀ (s : State) (ser : BitVec 16) (h : Hart),
    let small := h.pv = true ∧ h.pend.toNat < h.share.toNat
    let dropped := { h with pv := false, pend := h.share, preempt := true }
    let sliced := s.midSlice h
    (CanStop s ser h →
      (sliced = false → Yields (.switchOut ser) s (ActsAs s ser (SwitchesOut (stoppedLife h)))) ∧
      (h.preempt = true ∨ h.holdReq = true ∧ sliced = false →
        Yields (.preemption ser) s (ActsAs s ser (SwitchesOut (stoppedLife h)))) ∧
      (small → Yields (.lpgraceExpiry ser) s fun u => ∃ t, HartIs ser dropped s t ∧
        ActsAs t ser (SwitchesOut (stoppedLife h)) u)) ∧
    (s.findHart ser = some h → h.life = .running →
      (sliced = true → Yields (.switchOut ser) s fun u => u = s) ∧
      (sliced = true → h.preempt = false → Yields (.preemption ser) s fun u => u = s) ∧
      (h.hm = true → Yields (.switchOut ser) s (fun u => u = s) ∧ Yields (.preemption ser) s (fun u => u = s) ∧
        (small → Yields (.lpgraceExpiry ser) s (HartIs ser dropped s))))

/-- Hart `h`, the acting one of `f`, has been given the context of a CSA with this head and body, and runs. An atomic that a
slice holds performs once, whoever takes its old word (log entry 108). -/
def Reloaded (head body : List Byte) (f v : State) : Prop :=
  let h := f.hart
  let p : Word := BitVec.ofNat 64 (fieldOfBytes body 312 8)
  v = { f with hart := v.hart, owed := v.owed, held := v.held } ∧
  v.owed = f.owed.filter (fun x => x.1.ser != h.ser || v.hart.waitsFor x.1) ∧
  v.held.map HeldWrite.wr = f.held.map HeldWrite.wr ∧
  v.hart.life = .running ∧ v.hart.pc.toNat = fieldOfBytes head 8 8 ∧ LoadsContext head body h v.hart ∧
  (∀ r : BitVec 5, r ≠ 0 →
    v.hart.operand r = itemAt (readPointers head) r.toNat (fieldOfBytes body (8 * r.toNat) 8)) ∧
  v.hart.ser = h.ser ∧ v.hart.csa = h.csa ∧ v.hart.wid = h.wid ∧ v.hart.gid = h.gid ∧ v.hart.share = h.share ∧
  LoadsPrefix p v.hart

/-- R374, R375: a descheduled hart whose gang runs, with a slot and a share free on its core and its turn in the round,
runs again with the context of its CSA, its vector state in lanes; where those must be vacated it takes the
vector-switch trap, at the saved pc, with the CSA that holds them. Which lanes is the model's assign (log 14). -/
def SwitchingIn : Prop :=
  ∀ (s : State) (ser : BitVec 16) (h : Hart),
    let f := s.focus ser
    let head := (f.readCsa h.wid h.csa.toNat).1
    let body := (f.readCsa h.wid h.csa.toNat).2
    let lanes := f.assign h.core h.ser h.share.toNat
    let vacant := h.vloc = 0 ∧ lanes.length = h.share.toNat ∧ ∀ g ∈ lanes, f.holder h.core h.ser g = none
    s.findHart ser = some h → f.hart = h → h.life = .descheduled →
    s.gangRuns h = true → s.slotFree h = true → s.shareFits h = true → s.mayRun h = true →
    f.csaBad h.wid h.csa.toNat = none → h.hm = false →
    pfxBad (BitVec.ofNat 64 (fieldOfBytes body 312 8)) = false →
    (h.share = 0 ∨ h.vloc = 1 ∨ vacant →
      Yields (.switchIn ser) s (ActsAs s ser fun f v => Reloaded head body f v ∧ (h.share ≠ 0 → v.hart.vloc = 1))) ∧
    (h.share ≠ 0 → h.vloc ≠ 1 → ¬ vacant → s.hvec ≠ 0 → Settled f →
      Yields (.switchIn ser) s (ActsAs s ser fun f v => ∃ t, Reloaded head body f t ∧
        TrapsHere 12 (f.blocker h.core h.ser lanes) 0 t v))

/-- The domain slice of gang `g` ends (R273): the gang's running harts leave their slots, each with its context saved in its
CSA; one in handler mode is asked to leave, and goes at its `eret` (R363). Nothing else of memory changes. -/
def SliceEnds (g : Gang) (s u : State) : Prop :=
  let mine := (s.hart :: s.others).filter fun x => x.life == .running && x.gid == g.gid
  u.slice = none ∧ GangIs g.gid { g with sliceReady := false, inSlice := false } s u ∧
  u = { s with slice := none, gangs := u.gangs, hart := u.hart, others := u.others, mem := u.mem, macs := u.macs, lost := u.lost } ∧
  (∀ x ∈ mine, (x.hm = true → u.findHart x.ser = some { x with preempt := true }) ∧
    (x.hm = false → u.findHart x.ser = some (offHart (stoppedLife x) x) ∧
      (x.queue.length ≤ 64 → SavesContext s x u.mem))) ∧
  (∀ x ∈ s.hart :: s.others, x.alive = true → x ∉ mine → u.findHart x.ser = some x) ∧
  ∀ a, (∀ x ∈ mine, x.hm = false → a < x.csa.toNat ∨ x.csa.toNat + contextBytes ≤ a) → Bytes.get u.mem a = Bytes.get s.mem a

/-- R265, R269, R272, R273: a granted share becomes pending; the end of a quantum asks for a pre-emption, or ends the
domain slice of the hart's gang, whose harts are switched out; a round begins when every runnable hart has had its quanta;
the oldest entry that can issue is aged; a device is ready for a slice where nothing is in its way, and a slice that has
not begun is forfeited, with the slice-late event when the device was late. Rounds and quanta are the model's steps (log
87), as are the parts of a domain slice (log 89). -/
def Scheduling : Prop :=
  ∀ (s : State) (ser : BitVec 16) (h : Hart) (n : BitVec 3) (g : Gang),
    let others := ((s.onCore h.core ser).map Hart.grant).sum
    let apart := (s.hart :: s.others).Pairwise (fun x y => x.ser ≠ y.ser)
    (s.findHart ser = some h → h.life = .running →
      ((n = 1 ∨ n = 2 ∨ n = 4) → h.weight ≠ 0 → min h.weight.toNat h.cap.toNat ≤ n.toNat → n.toNat ≤ h.cap.toNat →
        others + max n.toNat h.share.toNat ≤ 4 →
        Yields (.shareGrantChange ser n) s (HartIs ser { h with pv := n != h.share, pend := n } s)) ∧
      (s.slice ≠ some h.gid → (∃ r ∈ s.runSet h.core, if r.ser = ser then 2 ≤ r.quanta else r.quanta ≠ 0) →
        Yields (.quantumExpiry ser) s (HartIs ser { h with preempt := true, quanta := h.quanta - 1 } s)) ∧
      (s.slice ≠ some h.gid → (∀ r ∈ s.runSet h.core, if r.ser = ser then r.quanta ≤ 1 else r.quanta = 0) → apart →
        Yields (.quantumExpiry ser) s fun u => u = { s with hart := u.hart, others := u.others } ∧
          ∀ r ∈ s.runSet h.core, u.findHart r.ser =
            some { r with preempt := r.preempt || r.ser == ser, quanta := max r.weight.toNat 1 }) ∧
      (∀ pre e t, h.queue = pre ++ e :: t → e.aged = false → s.issueOf ser pre.length ≠ none →
        (∀ k x, k < pre.length → h.queue[k]? = some x → x.aged = true ∨ s.issueOf ser k = none) →
        Yields (.microopAged ser) s (HartIs ser { h with queue := pre ++ { e with aged := true } :: t } s)) ∧
      ((∀ k x, h.queue[k]? = some x → x.aged = true ∨ s.issueOf ser k = none) →
        Yields (.microopAged ser) s fun u => u = s)) ∧
    (s.gang g.gid = some g → s.findHart ser = some h → s.slice = some g.gid → h.gid = g.gid → apart →
      Memory.wf s.mem = true →
      (∀ x ∈ s.hart :: s.others, x.life = .running → x.gid = g.gid → x.hm = true ∨ CanStop s x.ser x) →
      ((s.hart :: s.others).filter fun x => x.life == .running && x.gid == g.gid).Pairwise (fun x y =>
        x.csa.toNat + contextBytes ≤ y.csa.toNat ∨ y.csa.toNat + contextBytes ≤ x.csa.toNat) →
      Yields (.quantumExpiry ser) s (SliceEnds g s)) ∧
    (s.gang g.gid = some g → g.phase = .started → 2 ≤ g.devs.length → s.reachable g = true → g.sliceReady = false →
      s.slice = none → (∀ c ∈ s.coresOf g.gid, s.inTheWay g.gid c = []) →
      Yields (.domainSliceStart g.gid) s fun u =>
        u = { s with slice := some g.gid, gangs := u.gangs } ∧ GangIs g.gid { g with sliceReady := true } s u) ∧
    (s.gang g.gid = some g → s.slice = some g.gid →
      (g.inSlice = true → Yields (.sliceForfeit g.gid) s fun u => u = s) ∧
      (g.inSlice = false → s.events.length < 1024 → Yields (.sliceForfeit g.gid) s fun u =>
        GangIs g.gid { g with sliceReady := false } s u ∧
        u = { s with slice := none, gangs := u.gangs
                     events := if g.sliceReady then s.events
                       else s.events ++ [⟨0x8000000000008002, g.gid.zeroExtend 64, 0⟩] }))

/-- R259 to R263, R274, R372: placement gives the next member of this device a hart, with its identity and its CSA; the
start barrier starts a gang that is placed, or retires one whose device is unreachable with status 4; a barrier at
which every live member has arrived, as the arrivals are kept (log 55), moves to its next epoch. A retirement with status 4
posts no event (log 58), the lowest free serial number is taken (log 54), and the worlds take turns upwards by number
(log 133): the model's choices. -/
def GangSteps : Prop :=
  ∀ (s : State) (g : Gang), s.gang g.gid = some g →
    (∀ m csa rest ser core, g.phase = .waiting → s.mayPlace g = true →
      (g.members.find? fun m => m.dev == s.devIndex && m.ser.isNone) = some m →
      g.members.Pairwise (fun x y => x.rank ≠ y.rank) → (∀ h ∈ s.others, h.ser ≠ s.hart.ser) →
      s.csafree = csa :: rest → s.freeSer = some ser → s.homeCore = some core →
      Yields (.gangPlacement g.gid) s fun u =>
        u = { s with
          others := u.others, gangs := u.gangs, csafree := rest, launchTurns := u.launchTurns, mem := u.mem
          macs := u.macs, lost := u.lost } ∧
        (∀ i : Fin 4, u.launchTurns[i] =
          if i.val = g.die ∧ (∀ x ∈ g.members, x.ser = none) then g.wid.toNat else s.launchTurns[i]) ∧
        (Memory.wf s.mem = true → ∀ a, a < csa.toNat ∨ csa.toNat + contextBytes ≤ a →
          Bytes.get u.mem a = Bytes.get s.mem a) ∧
        (∃ h ∈ u.others, h.ser = ser ∧ h.core = core ∧ h.csa = csa ∧ h.gid = g.gid ∧ h.wid = g.wid ∧
          h.dev = s.devIndex ∧ h.rank = BitVec.ofNat 12 m.rank ∧ h.role = m.role ∧ h.weight = m.weight ∧
          h.life = .descheduled ∧ h.slottab = g.table ∧ h.code = g.code ∧ h.share = 0 ∧
          h.quanta = max m.weight.toNat 1 ∧ (∀ r, h.xr r = 0 ∧ h.tagOf r = none) ∧
          ∀ sw, s.slotWord g.table.toNat (s.tabCode g.table.toNat).toNat = some sw →
            h.pc = BitVec.ofNat 64 (sw.lo + m.entry.toNat)) ∧
        ∃ g', GangIs g.gid g' s u ∧
          g'.members = g.members.map (fun x => if x.rank = m.rank then { x with ser := some ser } else x) ∧
          g'.phase = if g'.members.all (fun x => x.dev != s.devIndex || x.ser.isSome) then .placed else .waiting) ∧
    (g.phase = .placed → s.reachable g = true →
      Yields (.gangStart g.gid) s fun u => u = { s with gangs := u.gangs } ∧ GangIs g.gid { g with phase := .started } s u) ∧
    (g.phase = .placed ∨ g.phase = .waiting → s.reachable g = false → Yields (.gangStart g.gid) s fun u =>
      GangIs g.gid { g with phase := .retired 4, lists := [] } s u ∧
      (∀ h ∈ u.hart :: u.others, h.gid = g.gid → h.alive = false) ∧
      u.csafree = s.csafree ++ ((s.hart :: s.others).filter fun h => h.gid == g.gid && h.alive).map Hart.csa ∧
      u = { s with gangs := u.gangs, hart := u.hart, others := u.others, csafree := u.csafree }) ∧
    ∀ b : BitVec 4, (∃ m ∈ g.members, m.arrived.getLsbD b.toNat = true) → (g.devs.length ≤ 1 ∨ g.inSlice = true) →
      ((∀ m ∈ g.members, m.live = true → m.arrived.getLsbD b.toNat = true) →
        Yields (.gbarRelease g.gid b) s fun u => u = { s with gangs := u.gangs } ∧ ∃ g', GangIs g.gid g' s u ∧
          (∀ i : Fin 16, g'.epochs[i] = if i.val = b.toNat then g.epochs[i] + 1 else g.epochs[i]) ∧
          (∀ i : Nat, ∀ m, g.members[i]? = some m → ∃ bits, BitSet b.toNat false m.arrived bits ∧
            g'.members[i]? = some { m with arrived := bits }) ∧
          g' = { g with epochs := g'.epochs, members := g'.members } ∧ g'.members.length = g.members.length) ∧
      ((∃ m ∈ g.members, m.live = true ∧ m.arrived.getLsbD b.toNat = false) →
        Yields (.gbarRelease g.gid b) s fun u => u = s)

/-- The end of a reduction is reported to the running harts of this device that joined it: SEQ advances, LAST is as
given, and the completion bit is set. -/
def ReportsReduction (g : Gang) (r : Reduction) (last : BitVec 2) (s u : State) : Prop :=
  (∃ g', u.gang g.gid = some g' ∧ g' = { g with reds := g.reds.filter fun x => x.k != r.k }) ∧
  (∀ h, h ≠ g.gid → u.gang h = s.gang h) ∧
  ∀ j ∈ r.joins, g.joinedHere j = true → ∀ h, s.findHart j.ser = some h → h.gid = g.gid → h.life = .running → h.hm = false →
    ∃ h', u.findHart j.ser = some h' ∧ h'.xrSeq = h.xrSeq + 1 ∧ h'.xrLast = last ∧
      h' = { h with xrSeq := h'.xrSeq, xrLast := h'.xrLast, kreg := h'.kreg, event := h'.event, sets := h'.sets } ∧
      (h.vloc = 1 → j.kb.toNat < 12 → Memory.wf (h.kreg.toList.getD j.kb.toNat []) = true →
        j.cbit < 8 * h.c → h'.kbit j.kb.toNat j.cbit = true)

/-- R277, R278: a reduction that a member left without joining ends with LAST 2, one whose members disagree with LAST 1,
and neither writes memory; a reduction that every live member has joined alike writes to every member's buffer the
elements that the contributions give in rank order, and ends with LAST 0 once no forwarding entry holds any of them
(R318); in a domain gang inside its slice. The elements are those of the model's reduceElem, and other devices write their members' buffers themselves. -/
def ReductionEnds : Prop :=
  ∀ (s : State) (g : Gang) (r : Reduction),
    let l := g.members.filterMap fun m => r.joins.find? fun j => j.rank == m.rank
    let cancelled := ∃ c, g.cancel = some c ∧ c ≤ r.k
    let joined := ∀ m ∈ g.members, m.live = true → ∃ j ∈ r.joins, j.rank = m.rank
    let alike (i j : Join) : Prop := i.count = j.count ∧ i.op = j.op ∧ i.etype = j.etype ∧ i.steps = j.steps
    let ends := Yields (.xredComplete g.gid r.k) s
    s.gang g.gid = some g → (g.reds.find? fun x => x.k == r.k) = some r →
    r.joins.Pairwise (fun i j => i.ser ≠ j.ser ∧ i.rank ≠ j.rank) →
    let held := ∃ j ∈ l, g.joinedHere j = true ∧ s.heldAt j.stream (j.ctx s g) j.boff j.bytes = true
    (g.devs.length ≤ 1 ∨ g.inSlice = true ∨ g.alive = false) →
    (cancelled → ends fun u => ReportsReduction g r 2 s u ∧
      u = { s with gangs := u.gangs, hart := u.hart, others := u.others }) ∧
    (¬ cancelled → joined → r.sent = false → (∃ i ∈ l, ∃ j ∈ l, ¬ alike i j) → ends fun u => ReportsReduction g r 1 s u ∧
      u = { s with gangs := u.gangs, hart := u.hart, others := u.others }) ∧
    (¬ cancelled → joined → r.sent = true → ¬ held → ends fun u => ReportsReduction g r 0 s u ∧
      u = { s with gangs := u.gangs, hart := u.hart, others := u.others }) ∧
    (∀ op et n bufs, ¬ cancelled → joined → r.sent = false → ¬ held → (∀ i ∈ l, i.op = op ∧ i.etype = et ∧ i.count = n ∧ ∀ j ∈ l, alike i j) →
      let w := codeBytes et.toNat
      let out (i : Nat) : Nat := reduceElem et.toNat op.toNat (bufs.map fun b => fieldOfBytes b (w * i) w)
      (et = 0x35 ∨ et = 0x25 ∨ et = 0x26) → op.toNat ≤ 2 →
      l ≠ [] → Memory.wf s.mem = true → WholeLines s → s.gather g l [] = (.ok bufs, counted s (s.gather g l []).2) →
      (∀ j ∈ l, j.buf.word.keyid = 0 ∧ s.engineWaits (j.ctx s g) j.boff (n * w) = false ∧
        ∀ o, o < n * w → LocalMemory s (j.boff + o) ∧ (g.wid = 0 ∨ s.fwdAt 1 (s.canon (j.boff + o)) = none)) →
      (∀ i ∈ l, ∀ j ∈ l, ∀ o p, o < n * w → p < n * w →
        performedAt s (i.boff + o) = performedAt s (j.boff + p) → i = j ∧ o = p) →
      ends fun u => ReportsReduction g r 0 s u ∧
        (∀ j ∈ l, g.joinedHere j = true → ∀ i, i < n → littleEndian (seen s u (j.boff + w * i) w) = out i) ∧
        ∀ x, (∀ j ∈ l, g.joinedHere j = true → ∀ o, o < n * w → x ≠ performedAt s (j.boff + o)) → Bytes.get u.mem x = Bytes.get s.mem x) ∧
    (¬ cancelled → ¬ joined → ends fun u => u = s)

/-- R287 to R289: a detection starts where a pop waits on a quiet device and decides DONE when its second wave finds the
same sums; a balancing step moves the lowest task of FROM to TO, where a pop waits; spilled tasks near F come back when
the units have room and their records pass, and one whose record fails is dropped with LOST. The reading of a record is
the model's readRecord (log 46); that pops that wait on other devices count as the model is told of them is log 48. -/
def WorklistSteps : Prop :=
  ∀ (s : State) (gid : BitVec 32) (w : BitVec 4) (g : Gang) (l : Worklist),
    s.gang gid = some g → s.listOf gid w.toNat = some l →
    let now (l' : Worklist) (u : State) : Prop := ListIs gid l' s u ∧ u = { s with gangs := u.gangs }
    let near (t : Task) : Prop := t.dev = s.devIndex ∧ t.level < l.floor + 64
    let waits (d : BitVec 8) : Prop := if d = s.devIndex then s.popWaits gid w.toNat = true else d ∈ l.waiters
    let quiet := (∃ d ∈ g.devs, waits d ∧ (∀ t ∈ l.tasks, t.dev ≠ d) ∧ ∀ t ∈ l.tokens, t.dev ≠ d) ∧
      l.pushes = l.retired
    (l.state = .armed → l.wave = none → quiet →
      Yields (.wlDetectionWave gid w) s (now { l with wave := some (l.pushes, l.retired) })) ∧
    (l.state = .armed → ∀ p r, l.wave = some (p, r) →
      (l.pushes = p ∧ l.retired = r → Yields (.wlDetectionWave gid w) s (now { l with wave := none, state := .done })) ∧
      (¬ (l.pushes = p ∧ l.retired = r) → Yields (.wlDetectionWave gid w) s (now { l with wave := none }))) ∧
    (l.state ≠ .armed ∨ (l.wave = none ∧ ¬ quiet) → Yields (.wlDetectionWave gid w) s fun u => u = s) ∧
    (∀ i v x y t, l.record[i]? = some v → l.state = .armed → g.devs[stepFrom v]? = some x → g.devs[stepTo v]? = some y →
      stepMax v = 1 → waits y → (y = s.devIndex → s.unitRoom = true ∧ t.level < l.floor + 64) → x ≠ y → (∀ u ∈ l.record.take i, stepTo u ≠ stepTo v) →
      (∀ t ∈ l.tasks, t.dev = y → l.floor + l.delta < t.level) → t ∈ l.tasks → t.dev = x → t.spilled = none →
      t.level ≤ l.floor + l.delta → (∀ r ∈ l.tasks, r.dev = x → r ≠ t → t.level < r.level) →
      Yields (.wlBalanceMove gid w i) s (now { l with tasks := l.tasks.erase t ++ [{ t with dev := y }] })) ∧
    (∀ i v y, l.record[i]? = some v → g.devs[stepTo v]? = some y → ¬ waits y →
      Yields (.wlBalanceMove gid w i) s fun u => u = s) ∧
    (∀ pre t post r ok v, l.tasks = pre ++ t :: post → (∀ x ∈ pre ++ post, x.spilled = none ∨ x.dev ≠ s.devIndex) →
      t.spilled = some r → near t → s.unitRoom = true →
      s.readRecord g l r = some (ok, v) → v.gangs = s.gangs → v.devIndex = s.devIndex →
      Yields (.wlUnspill gid w) s fun u => u = { v with gangs := u.gangs } ∧
        ListIs gid (if ok then { l with tasks := pre ++ { t with spilled := none } :: post }
          else { l with tasks := pre ++ post, retired := l.retired + 1, lost := true
                        floor := floorOf l.floor ((pre ++ post).map Task.level ++ l.tokens.map Token.level) }) v u) ∧
    ((∀ t ∈ l.tasks, ∀ r, t.spilled = some r → near t → s.readRecord g l r = some (true, s)) →
      s.heldWords + (l.tasks.filter fun t => t.spilled.isSome && decide (near t)).length ≤ 4 * 2 ^ 18 →
      Yields (.wlUnspill gid w) s (now { l with
        tasks := l.tasks.map fun t => if near t then { t with spilled := none } else t })) ∧
    ((∀ t ∈ l.tasks, ∀ r, t.spilled = some r → near t → s.unitRoom = false ∨ s.readRecord g l r = none) →
      Yields (.wlUnspill gid w) s fun u => u = s)

/-! ### Ends of work in memory -/

/-- A place of `n` bytes that writes for a world reach as plain bytes. -/
def EnginePlace (s : State) (wid : BitVec 10) (p : SlotRef × Nat) (n : Nat) : Prop :=
  p.1.word.keyid = 0 ∧ WholeLines s ∧
  (∀ o, o < n → LocalMemory s (p.2 + o) ∧ performedAt s (p.2 + o) / 64 * 64 ∉ s.lost ∧
    (wid = 0 ∨ s.fwdAt 1 (s.canon (p.2 + o)) = none)) ∧
  ∀ o q, o < n → q < n → performedAt s (p.2 + o) = performedAt s (p.2 + q) → o = q

/-- Completion bit `n` of predicate `k` of hart `ser` is set, where that hart runs with its predicates at hand (R179). -/
def SetsBit (ser : BitVec 16) (k : BitVec 4) (n : Nat) (s u : State) : Prop :=
  ∀ h, s.findHart ser = some h → h.life = .running → h.vloc = 1 → k.toNat < 12 →
    Memory.wf (h.kreg.toList.getD k.toNat []) = true → n < 8 * h.c →
    ∃ h', u.findHart ser = some h' ∧ h'.kbit k.toNat n = true ∧ h' = { h with kreg := h'.kreg, event := true } ∧
      ∀ r i, (r ≠ k.toNat ∨ i ≠ n) → h'.kbit r i = h.kbit r i

/-- Only memory, its line state, the page counters and harts differ, and the given lists. -/
def EndsWork (s u : State) : Prop :=
  u = { s with
    mem := u.mem, macs := u.macs, lost := u.lost, dirty := u.dirty, pages := u.pages, events := u.events
    eventLost := u.eventLost, hart := u.hart, others := u.others, tickets := u.tickets, jobs := u.jobs, copies := u.copies }

/-- R238, R303, R396: the next element of a stream of a running hart is fetched, in order, in handler mode too, while the
binding has room and the stream has elements left: through the slot word captured at its binding, or after a restore
through the one that the element's own probe finds (log 33); where that probe fails, or the host does not answer, nothing
is fetched, and the reader takes the fault (log 109). -/
def StreamFetching : Prop :=
  ∀ (s : State) (ser : BitVec 16) (q : BitVec 3) (t : ETy) (r : SlotRef) (bs : List Byte),
    let f := s.focus ser
    let b := f.hart.streams[q.toNat]
    let e := t.width / 8
    let j := b.pos.toNat + b.ready.length
    let a := (b.base.val + b.stride * BitVec.ofNat 64 j).toNat
    let c : Ctx := ⟨f.hart.ser, b.wid, f.hart.core, tabAddr f.hart.slottab, none, 0⟩
    let probed := f.probe c ⟨slotIndex b.base.tag, a, e, 1, needRead, false, true, false⟩
    let becomes (b' : Machine.Stream) (f v : State) : Prop :=
      v = { counted f v with hart := { f.hart with streams := f.hart.streams.set q.toNat b' q.isLt } }
    s.findHart ser = some f.hart → f.hart.life = .running → b.bound = true →
    ETy.ofCode b.et.toNat = some t → t.byteWidth = true → j < b.extent.toNat →
    (b.ready.length + 1) * e ≤ (if f.hart.share = 0 then 1024 else f.hart.c) →
    (b.slot = some r ∨ (b.slot = none ∧ probed = .ok r) →
      (LocalMemory f a → f.engineWaits c a e = false → f.readBytes c r.word a e = some bs →
        Yields (.streamFetch ser q) s (ActsAs s ser
          (becomes { b with ready := b.ready ++ [BitVec.ofNat 64 (littleEndian bs)], failed := false }))) ∧
      (∀ bus, regionOf (f.canon a) = .host bus → Config.hostAnswers s.tick = false →
        Yields (.streamFetch ser q) s (ActsAs s ser (becomes { b with failed := b.ready.isEmpty })))) ∧
    (∀ d, b.slot = none → probed = .error d → Yields (.streamFetch ser q) s (ActsAs s ser fun f v => v = f))

/-- R180, R186 to R188: a searched shard keeps its result; a query whose shards are all searched writes its record of
32 + 8K bytes, and a product y[i] for each of its rows; both then leave flight and set their completion bit, once no forwarding entry holds what they have written (R318). The
search, the record's bytes and the canonical sum are the model's functions search, record and dot. -/
def TicketsComplete : Prop :=
  ∀ (s : State) (ser : BitVec 16) (n : Nat) (x : Ticket),
    (s.tickets.find? fun y => y.ser == ser && y.num == n) = some x →
    let held := ∃ w ∈ s.held, w.stream = .ticket x.ser x.num
    let gone (u : State) : Prop := EndsWork s u ∧
      u.tickets = (s.tickets.filter fun y => !(y.ser == ser && y.num == n)) ∧
      (x.mute = false → SetsBit ser x.kb x.cbit s u) ∧
      (x.mute = true → u.hart = s.hart ∧ u.others = s.others)
    (∀ q h (k : BitVec 4) r, x.work = .query q →
      (q.shards.find? fun y => y.stack == k.toNat && y.result.isNone) = some h → s.shardHeld x h = false →
      h.search q (fun a m => if m = 0 then some [] else s.readBytes x.ctx h.slot.word a m) = .ok r →
      Yields (.shardSearchComplete ser n k) s fun u =>
        u = { s with tickets := u.tickets } ∧
        u.tickets = s.tickets.map fun y => if y.ser = ser ∧ y.num = n then
          { y with work := .query { q with
            shards := q.shards.map fun z => if z.stack = k.toNat then { z with result := some r } else z } } else y) ∧
    (∀ q, x.work = .query q → (∀ h ∈ q.shards, h.result.isSome = true) → x.sent = true →
      (¬ held → Yields (.searchComplete ser n) s fun u => gone u ∧ SameMemory s u) ∧
      (held → (∀ y ∈ s.tickets, y.ser = ser → y.num = n → y = x) → Yields (.searchComplete ser n) s fun u => u = s)) ∧
    (∀ q, x.work = .query q → (∀ h ∈ q.shards, h.result.isSome = true) → Memory.wf s.mem = true → x.sent = false → ¬ held →
      EnginePlace s x.wid (q.rslot, q.raddr) (32 + 8 * q.k) →
      Yields (.searchComplete ser n) s fun u => gone u ∧ OnlyBytes q.raddr (32 + 8 * q.k) s u ∧
        seen s u q.raddr (32 + 8 * q.k) = q.record x.num) ∧
    (∀ p (rows : List (List Byte)), x.work = .product p → Memory.wf s.mem = true → x.sent = false → ¬ held →
      s.productHeld x p = false → rows.length = p.rows →
      (∀ i, i < p.rows → LocalMemory s (p.rowAt i).2 ∧ s.readBytes x.ctx (p.rowAt i).1.word (p.rowAt i).2 (p.cols * codeBytes p.etype.toNat) =
        some (rows.getD i [])) →
      EnginePlace s x.wid (p.yslot, p.yaddr) (4 * p.rows) →
      Yields (.splitProductComplete ser n) s fun u => gone u ∧ OnlyBytes p.yaddr (4 * p.rows) s u ∧
        ∀ i, i < p.rows → littleEndian (seen s u (p.yaddr + 4 * i) 4) = p.dot (rows.getD i []))

/-- R195, R245, R318: a finished row copy, which no forwarding entry holds any of, leaves the rows of its list, in order, in the row area of the half; a finished piece of
a block transfer leaves its bytes at its destination and sets its bit; the last piece ends the job. -/
def CopiesComplete : Prop :=
  ∀ (s : State) (n : Nat), Memory.wf s.mem = true →
    (∀ c (rows : Nat → List Byte), s.copies[n]? = some c →
      let ctx := engineCtx c.ser c.wid c.core
      let area := c.rows.length * c.rstride
      c.sent = false → s.engineWaits ctx c.wslot.word.lo c.wslot.word.len.toNat = false →
      s.heldAt c.stream ctx c.haddr area = false →
      EnginePlace s c.wid (c.hslot, c.haddr) area → c.bytes ≤ c.rstride → 1 ≤ c.bytes →
      (∀ e i, c.rows[e]? = some i → LocalMemory s (c.waddr + i * c.rstride) ∧
        s.readBytes ctx c.wslot.word (c.waddr + i * c.rstride) c.bytes = some (rows e) ∧
        ∀ o q, o < c.bytes → q < area →
          performedAt s (c.waddr + i * c.rstride + o) / 64 ≠ performedAt s (c.haddr + q) / 64) →
      Yields (.hcrankCopyDone n) s fun u => EndsWork s u ∧ u.copies = s.copies.eraseIdx n ∧ u.tickets = s.tickets ∧
        u.jobs = s.jobs ∧ u.hart = s.hart ∧ u.others = s.others ∧ OnlyBytes c.haddr area s u ∧
        ∀ e, e < c.rows.length → seen s u (c.haddr + e * c.rstride) c.bytes = rows e) ∧
    ∀ k j p, s.jobs[n]? = some j → j.pieces[k]? = some (some p) → j.raw = false →
      (∀ i x, s.jobs[i]? = some x → x.ser = j.ser → x.num = j.num → i = n) →
      let ctx := engineCtx j.ser j.wid j.core
      let rest := j.pieces.set k none
      ∀ bs, p.sent = false → s.engineWaits ctx p.src p.len = false → s.heldAt j.stream ctx p.dst p.len = false → 1 ≤ p.len →
        LocalMemory s p.src → s.readBytes ctx j.src.word p.src p.len = some bs → EnginePlace s j.wid (j.dst, p.dst) p.len →
        Yields (.btPieceComplete n k) s fun u => EndsWork s u ∧ OnlyBytes p.dst p.len s u ∧ seen s u p.dst p.len = bs ∧
          (j.mute = false → SetsBit j.ser j.kb p.bit s u) ∧ u.tickets = s.tickets ∧ u.copies = s.copies ∧
          ((∀ x ∈ rest, x = none) → u.jobs = s.jobs.eraseIdx n) ∧
          ((∃ x ∈ rest, x ≠ none) → u.jobs = s.jobs.set n { j with pieces := rest })

/-! ### The memory side and the host link -/

/-- An error report (R390): the event is queued, or lost when the queue is full, and kept in the error log. -/
def Reports (cls kind unit count : Nat) (val : Word) (s u : State) : Prop :=
  let e : Event := ⟨0x8000000000008007,
    BitVec.ofNat 64 (cls * 2 ^ 56 + kind * 2 ^ 48 + unit % 2 ^ 16 * 2 ^ 32 + min count (2 ^ 32 - 1)), val⟩
  u.errorLog = s.errorLog ++ [e] ∧
  (s.events.length < 1024 → u.events = s.events ++ [e] ∧ u.eventLost = s.eventLost) ∧
  (1024 ≤ s.events.length → u.events = s.events ∧ u.eventLost = true)

/-- The state but for what an error report changes. -/
def reported (s u : State) : State := { s with events := u.events, eventLost := u.eventLost, errorLog := u.errorLog }

/-- R205, R206, R221, R333, R335: a write-back makes a dirty line clean and changes no byte; a fill whose line passes its
check only counts, and one that fails quarantines a tenant; a line that an uncached slot covers is not filled. A packet
performs its writes, here under KEYID 0, once no earlier packet of its stream to its device is in flight and its
instruction is complete; that a packet leaves only then is the model's (log 124), as is that a line is checked under the
first slot that covers it, and one without a slot not filled (log 92). -/
def MemorySide : Prop :=
  ∀ (s : State),
    (∀ a : BitVec 52, let line := a.toNat / 64 * 64
      ((∃ d ∈ s.dirty, d.line = line) → Yields (.lineWriteBack a) s fun u =>
        u = { counted s u with dirty := s.dirty.filter fun d => d.line != line }) ∧
      ((∀ d ∈ s.dirty, d.line ≠ line) → Yields (.lineWriteBack a) s fun u => u = s) ∧
      ((∃ d ∈ s.dirty, d.line = s.forward line / 64 * 64) → Yields (.lineFill s.hart.ser a) s fun u => u = s) ∧
      ((∀ d ∈ s.dirty, d.line ≠ s.forward line / 64 * 64) →
        let uncached := s.coveringSlot line fun w => decide (2 ≤ w.attr.toNat)
        let cached := s.coveringSlot line fun w => decide (w.attr.toNat < 2)
        (s.hart.alive = true → s.localLine line = true →
          (uncached ≠ none ∨ cached = none → Yields (.lineFill s.hart.ser a) s fun u => u = s) ∧
          ∀ w, uncached = none → cached = some w →
            ((s.readBytes s.ctx w line 64).isSome = true →
              Yields (.lineFill s.hart.ser a) s fun u => u = counted s u) ∧
            (s.readBytes s.ctx w line 64 = none → s.hart.wid ≠ 0 → s.hart.hm = false →
              Yields (.lineFill s.hart.ser a) s fun u => u.hart.life = .quarantined)))) ∧
    ∀ (n : Nat) (pk : Packet), s.packets[n]? = some pk →
      let first := (∀ i q, i < n → s.packets[i]? = some q → q.stream = pk.stream → q.dev ≠ pk.dev) ∧
        ∀ ser, pk.stream = .vector ser → ∀ h ∈ s.hart :: s.others, h.alive = true → h.ser = ser → ∀ e ∈ h.queue,
          e.stamp ≠ pk.num
      (¬ first → Yields (.remotePacketArrival n) s fun u => u = s) ∧
      (∀ w, first → pk.writes = [w] → w.keyid = 0 → Memory.wf s.mem = true →
        let p := s.forward w.key
        p / 64 * 64 ∉ s.lost →
        Yields (.remotePacketArrival n) s fun u =>
          u = { s with packets := s.packets.eraseIdx n, mem := u.mem, macs := u.macs, dirty := u.dirty } ∧
          (∀ i, i < w.data.length → Bytes.get u.mem (p + i) = w.data.getD i 0) ∧
          ∀ x, (x < p ∨ p + w.data.length ≤ x) → Bytes.get u.mem x = Bytes.get s.mem x) ∧
      (first → (∀ w ∈ pk.writes, w.keyid = 0 ∧ s.forward w.key / 64 * 64 ∉ s.lost) →
        Yields (.remotePacketArrival n) s fun u =>
          u = { s with packets := s.packets.eraseIdx n, mem := u.mem, macs := u.macs, dirty := u.dirty } ∧
          u.mem = pk.writes.foldl (fun m w => Bytes.write m (s.forward w.key) w.data) s.mem)

/-- R396: a completion answers the access or the fetch that waits for the host, a timeout answers it with an error, a failed write is
reported with its bus address, and the link goes down and up. That a scalar access is answered before the queue's is the
model's choice (log 23), as is that the completions of an access make one answer (log 11). -/
def HostLink : Prop :=
  ∀ (s : State) (ser : BitVec 16) (h : Hart) (ok : Bool) (data : List Byte) (a : BitVec 64),
    (s.findHart ser = some h →
      (h.wait = some .host ∨ h.wait = some .hostFetch → h.answer = none →
        Yields (.hostCompletion ser ok data) s (HartIs ser { h with answer := some (ok, data) } s) ∧
        Yields (.hostCompletionTimeout ser) s (HartIs ser { h with answer := some (false, []) } s)) ∧
      (h.wait ≠ some .host → h.wait ≠ some .hostFetch → ∀ pre e post, h.queue = pre ++ e :: post → e.asked = true → e.answer = none →
        (∀ x ∈ pre, x.asked = false ∨ x.answer ≠ none) →
        Yields (.hostCompletion ser ok data) s
          (HartIs ser { h with queue := pre ++ { e with answer := some (ok, data) } :: post } s) ∧
        Yields (.hostCompletionTimeout ser) s
          (HartIs ser { h with queue := pre ++ { e with answer := some (false, []) } :: post } s))) ∧
    Yields (.hostWriteFailure a) s (fun u => u = reported s u ∧ Reports 12 1 0 1 a s u) ∧
    Yields .hostLinkDown s (fun u => u = { s with hostUp := false }) ∧
    Yields .hostLinkUp s (fun u => u = { s with hostUp := true })

/-! ### Errors -/

/-- R384, R387, R390: a corrected error is reported at once with the line that it affects, or held back while its unit's
millisecond runs, whose end posts the number held back; a failed run of self-test retires its unit with a report of
KIND 3, and the third passed run in a row reports KIND 2. That the first is reported at once, and a report names the
last line held back, is the model's choice (log 94). -/
def CorrectedErrors : Prop :=
  ∀ (s : State) (cls : BitVec 8) (unit : BitVec 16) (a : Option (BitVec 52)),
    let mine (x : BitVec 8 × BitVec 16 × Nat) : Bool := x.1 == cls && x.2.1 == unit
    let held (x : BitVec 8 × BitVec 16 × Nat × Word) : Bool := x.1 == cls && x.2.1 == unit
    let line : Word := match a with
      | some b => BitVec.ofNat 64 (b.toNat / 64 * 64)
      | none => 0
    let rest (l : List (BitVec 8 × BitVec 16 × Nat)) : List (BitVec 8 × BitVec 16 × Nat) := l.filter fun x => !mine x
    let count := unitCount cls.toNat
    ((s.lastSecond cls unit).length < 8 →
      (s.corrected.any held = false → Yields (.correctedError cls ⟨unit, a⟩) s fun u =>
        u = { reported s u with recent := u.recent, corrected := s.corrected ++ [(cls, unit, 0, 0)] } ∧
        Reports cls.toNat 0 unit.toNat 1 line s u) ∧
      (∀ n v pre post, s.corrected = pre ++ (cls, unit, n, v) :: post → pre.any held = false →
        Yields (.correctedError cls ⟨unit, a⟩) s fun u =>
          u = { s with recent := u.recent, corrected := pre ++ (cls, unit, n + 1, line) :: post })) ∧
    (∀ n v pre post, s.corrected = pre ++ (cls, unit, n, v) :: post → pre.any held = false →
      (n = 0 → Yields (.correctedErrorReportDue cls unit) s fun u => u = { s with corrected := pre ++ post }) ∧
      (n ≠ 0 → Yields (.correctedErrorReportDue cls unit) s fun u =>
        u = { reported s u with corrected := pre ++ (cls, unit, 0, 0) :: post } ∧
        Reports cls.toNat 0 unit.toNat n v s u)) ∧
    (unit.toNat < count → (cls, unit) ∉ s.retired →
      (cls.toNat ≠ 1 → cls.toNat ≠ 10 → cls.toNat ≠ 11 → cls.toNat ≠ 13 →
        Yields (.selfTestComplete cls unit false) s fun u =>
          u = { reported s u with retired := s.retired ++ [(cls, unit)], tests := rest s.tests } ∧
          Reports cls.toNat 3 unit.toNat 1 0 s u) ∧
      (s.tests.any mine = false → Yields (.selfTestComplete cls unit true) s fun u =>
        u = { s with tests := s.tests ++ [(cls, unit, 1)] }) ∧
      (s.tests.find? mine = some (cls, unit, 1) → Yields (.selfTestComplete cls unit true) s fun u =>
        u = { s with tests := rest s.tests ++ [(cls, unit, 2)] }) ∧
      (s.tests.find? mine = some (cls, unit, 2) → Yields (.selfTestComplete cls unit true) s fun u =>
        u = { reported s u with tests := rest s.tests } ∧ Reports cls.toNat 2 unit.toNat 1 0 s u))

/-- R387, R388, R390, R394, R401: a unit that fails its self-test is retired and reported with KIND 3, and its retirement
takes its effect: a lane group is assigned no more, CAP of its core's harts falls, and the hart that it serves is to be held;
a slice link takes the port down; a compute die loses its harts and what its slices hold dirty; a root port loses its
extents. -/
def UnitRetirement : Prop :=
  ∀ (s : State) (cls : BitVec 8) (unit : BitVec 16),
    let n := unit.toNat
    let core : BitVec 8 := BitVec.ofNat 8 (n / 4)
    let good := ([0, 1, 2, 3] : List Nat).filter fun g => (1, BitVec.ofNat 16 (n / 4 * 4 + g)) ∉ s.retired ∧ n / 4 * 4 + g ≠ n
    let cap := if 4 ≤ good.length then 4 else if 2 ≤ good.length then 2 else 1
    n < unitCount cls.toNat → (cls, unit) ∉ s.retired → (s.hart :: s.others).Pairwise (fun x y => x.ser ≠ y.ser) →
    Yields (.selfTestComplete cls unit false) s fun u =>
      (cls, unit) ∈ u.retired ∧
      (∃ more, u.errorLog = s.errorLog ++ ⟨0x8000000000008007,
        BitVec.ofNat 64 (cls.toNat * 2 ^ 56 + 3 * 2 ^ 48 + n * 2 ^ 32 + 1), 0⟩ :: more) ∧
      (cls = 1 → BitVec.ofNat 2 n ∉ u.goodGroups core ∧
        u = { reported s u with retired := u.retired, tests := u.tests, hart := u.hart, others := u.others } ∧
        ∀ h ser, s.findHart ser = some h → h.core = core → ∃ g, u.findHart ser = some g ∧
          g.cap.toNat = min h.cap.toNat cap ∧
          (h.vloc = 1 → BitVec.ofNat 2 n ∈ h.groups →
            (h.life = .running → g.holdReq = true) ∧ (h.life = .descheduled → g.life = .held))) ∧
      (cls = 10 → u.link.up = false) ∧
      (cls = 11 → (∀ h ∈ u.hart :: u.others, h.core.toNat / 64 = n → h.alive = false) ∧
        ∀ d ∈ u.dirty, sliceUnit d.line / 192 ≠ n) ∧
      (cls = 13 → ∀ e, e < 64 → (s.extentAt (n * 64 + e)).state = 2 ∨ (s.extentAt (n * 64 + e)).state = 3 →
        (u.extentAt (n * 64 + e)).state = 4)

/-- R385, R386, R390: the loss of a hart's registers quarantines the context; a lost line of memory changes no byte and
fails every later fill (log 126), until a write of it as a whole: one of a part of it fails. The loss of a scratchpad region
clears it; a lost task counts as retired and sets LOST; a lost dirty line is reported and leaves memory at what was last
written back, and under a key it quarantines the harts of the world and faults the world; a lost clean line counts as
corrected. -/
def UncorrectableErrors : Prop :=
  ∀ (s : State),
    (s.hart.alive = true → Yields (.uncorrectableError (.hart s.hart.ser)) s fun u => u.hart.life = .quarantined) ∧
    (∀ a : BitVec 52, let line := a.toNat / 64 * 64
      s.localLine line = true → (∀ d ∈ s.dirty, d.line ≠ line) → Yields (.uncorrectableError (.line a)) s fun u =>
        u = { s with lost := u.lost } ∧ (∀ x, x ∈ u.lost ↔ x ∈ s.lost ∨ x = line) ∧
        (∀ c sw b n, 0 < n → u.forward (u.key c.core b) / 64 * 64 = line → u.readBytes c sw b n = none) ∧
        ∀ w : MemWrite, u.forward w.key / 64 * 64 = line →
          (w.whole = false ∨ w.data.length ≠ 64 → u.commit w = none) ∧
          (w.whole = true → w.data.length = 64 → ∀ v, u.commit w = some v → line ∉ v.lost)) ∧
    (∀ (core : BitVec 8) (r : BitVec 14), Memory.wf s.mem = true →
      let n := core.toNat * 256 + r.toNat / 64
      Yields (.uncorrectableError (.scratch core r)) s fun u =>
        (∀ o, o < 4096 → Bytes.get u.mem (2 ^ 52 + n * 4096 + o) = 0) ∧
        ((∀ h ∈ s.hart :: s.others, h.alive = true → h.core = core → h.wid ≠ tblGet 0 s.owners n) →
        ∀ x, (x < 2 ^ 52 + n * 4096 ∨ 2 ^ 52 + n * 4096 + 4096 ≤ x) → Bytes.get u.mem x = Bytes.get s.mem x)) ∧
    (∀ gid (w : BitVec 4) n l, s.listOf gid w.toNat = some l → n < l.tasks.length →
      (∀ g, s.gang gid = some g → g.lists.Pairwise fun x y => x.w ≠ y.w) →
      Yields (.uncorrectableError (.task gid w n)) s fun u =>
        ListIs gid { l with
          tasks := l.tasks.eraseIdx n, retired := l.retired + 1, lost := true
          floor := floorOf l.floor ((l.tasks.eraseIdx n).map Task.level ++ l.tokens.map Token.level) } s u) ∧
    (∀ cache a d, d ∈ s.dirty → d.line = a.toNat / 64 * 64 → (∀ x ∈ s.dirty, x.line = d.line → x = d) → d.keyid = 0 →
      d.backing.length = 64 → Memory.wf s.mem = true →
      Yields (.uncorrectableError (.dirty cache a 0)) s fun u =>
        (∀ o, o < 64 → Bytes.get u.mem (d.line + o) = d.backing.getD o 0) ∧
        (∀ x, (x < d.line ∨ d.line + 64 ≤ x) → Bytes.get u.mem x = Bytes.get s.mem x) ∧
        u = { reported s u with dirty := s.dirty.filter (fun x => x.line != d.line), mem := u.mem, macs := u.macs } ∧
        match cache with
        | some core => Reports 3 1 core.toNat 1 (BitVec.ofNat 64 d.line) s u
        | none => Reports 5 1 (sliceUnit d.line) 1 (BitVec.ofNat 64 d.line) s u) ∧
    (∀ cache a d, d ∈ s.dirty → d.line = a.toNat / 64 * 64 → (∀ x ∈ s.dirty, x.line = d.line → x = d) → d.keyid ≠ 0 →
      (s.hart :: s.others).Pairwise (fun x y => x.ser ≠ y.ser) →
      Yields (.uncorrectableError (.dirty cache a d.keyid)) s fun u =>
        u.dirty = s.dirty.filter (fun x => x.line != d.line) ∧
        (∀ h ∈ u.hart :: u.others, h.wid = d.keyid → h.alive = false) ∧
        (∀ w, s.world d.keyid = some w → ∃ v, u.world d.keyid = some v ∧ v.faulted = true) ∧
        (∃ cls unit, (cls, unit) = (match cache with
            | some core => (3, core.toNat)
            | none => (5, sliceUnit d.line)) ∧
          u.errorLog = s.errorLog ++ [⟨0x8000000000008007,
            BitVec.ofNat 64 (cls * 2 ^ 56 + 2 ^ 48 + unit % 2 ^ 16 * 2 ^ 32 + 1), BitVec.ofNat 64 d.line⟩]) ∧
        ((∀ h ∈ s.hart :: s.others, h.wid = d.keyid → h.alive = false) → Memory.wf s.mem = true → d.backing.length = 64 →
          (∀ o, o < 64 → Bytes.get u.mem (d.line + o) = d.backing.getD o 0) ∧
          ∀ x, (x < d.line ∨ d.line + 64 ≤ x) → Bytes.get u.mem x = Bytes.get s.mem x)) ∧
    ∀ (cache : Option (BitVec 8)) (a : BitVec 52), Yields (.uncorrectableError (.clean cache a)) s fun u =>
      match cache with
      | some core => Yields (.correctedError 3 ⟨core.zeroExtend 16, some a⟩) s fun v => u = v
      | none => Yields (.correctedError 5 ⟨BitVec.ofNat 16 (sliceUnit (a.toNat / 64 * 64)), some a⟩) s fun v => u = v

/-! ### The fabric port (R391 to R394) -/

/-- The flits of the retry buffer from `x` on are sent again; the replay counts towards `x`, with which it begins, and once
16 in a row have failed for it the port retrains instead (R394). Only flits that are kept count further. -/
def Replays (x : BitVec 10 × BitVec 512) (post : List (BitVec 10 × BitVec 512)) (s u : State) : Prop :=
  let count := ((s.link.replays.find? fun p => p.1 == x.1).map Prod.snd).getD 0
  let kept := s.link.replays.filter fun p => (x :: post).any fun q => q.1 == p.1
  u = if 16 ≤ count then { s with link := { s.link with replays := kept, training := true } }
    else { s with
      link := { s.link with replays := (x.1, count + 1) :: kept.filter fun p => p.1 != x.1 }
      outbox := s.outbox ++ [.replay ((x :: post).map fun p => flitWords p.1 p.2)] }

/-- The data flits that wait go out as far as the retry buffer and the ready window let them, after the given changes. -/
def SendsWaiting (l : Link) (out : List Outbound) (s u : State) : Prop :=
  ∃ sent, u = { s with
      link := { l with retry := l.retry ++ sent, next := u.link.next, waiting := u.link.waiting }
      outbox := s.outbox ++ out ++ sent.map fun p => .flit (flitWords p.1 p.2) } ∧
    sent.length + u.link.waiting = l.waiting

/-- The receiver's answer to a flit that it does not deliver: the first one is answered by a NAK that names the last good
flit, those after it are discarded (R392). -/
def Rejects (s u : State) : Prop :=
  u = if s.link.discard then s
    else { s with link := { s.link with discard := true }, outbox := s.outbox ++ [.nak (s.link.expect - 1)] }

/-! ### The capacity tier (R398 to R401) -/

/-- Entry `e` of root port `p` becomes `x`, and nothing else but the report of `kind`, if any, is different. -/
def EntryBecomes (p : BitVec 3) (e : BitVec 6) (x : Extent) (kind : Option Nat) (s u : State) : Prop :=
  u = { reported s u with extents := u.extents } ∧
  (∀ i : Fin 512, u.extents[i] = if i.val = p.toNat * 64 + e.toNat then x else s.extents[i]) ∧
  match kind with
  | some k => Reports 13 k p.toNat 1 0 s u
  | none => u.events = s.events ∧ u.eventLost = s.eventLost ∧ u.errorLog = s.errorLog

/-- R399 to R401: an offered extent takes a free entry; the manager accepts it where it overlaps no other, declines it,
releases a mapped one and frees a withdrawn one; the fabric manager asks for a release, which completes once no work is in
flight to the extent; a forced release withdraws it, its dirty lines are lost and the contexts that own one (log 97), or
have work in flight to it (as the model judges it, log 96), are quarantined; the failure of a root port withdraws every
extent of the port. -/
def CapacityTier : Prop :=
  ∀ (s : State) (p : BitVec 3) (e : BitVec 6) (off : BitVec 13) (units : BitVec 14),
    let i := p.toNat * 64 + e.toNat
    let x := s.extentAt i
    let toState (n : BitVec 3) : Extent := { x with state := n }
    let r := s.extentRange i
    (x.state = 0 → 0 < units.toNat → off.toNat + units.toNat ≤ 8192 →
      Yields (.extentOffered p e off units) s (EntryBecomes p e ⟨off, units, 1⟩ (some 6) s)) ∧
    (x.state = 1 → s.extentClash i = false → Yields (.extentAccept p e) s (EntryBecomes p e (toState 2) none s)) ∧
    (x.state = 1 → s.extentClash i = true → Yields (.extentAccept p e) s fun u => u = s) ∧
    (x.state = 1 → Yields (.extentDecline p e) s (EntryBecomes p e (toState 0) none s)) ∧
    (x.state = 2 → Yields (.extentRelease p e) s (EntryBecomes p e (toState 3) (some 7) s) ∧
      Yields (.releaseRequest p e) s (EntryBecomes p e (toState 3) (some 7) s)) ∧
    (x.state = 4 → Yields (.extentFree p e) s (EntryBecomes p e (toState 0) none s)) ∧
    (x.state = 3 → s.busyAt (fun _ => true) r = false → (∀ j ∈ s.seals, j.meets s r = false) →
      Yields (.releaseComplete p e) s fun u =>
        EntryBecomes p e (toState 0) none { s with dirty := u.dirty, outbox := s.outbox ++ [.released p e] } u ∧
        u.dirty = s.dirty.filter fun d => !r.meets d.line 64) ∧
    (x.state = 2 ∨ x.state = 3 → (∀ d ∈ s.dirty, r.meets d.line 64 = false) →
      (∀ h ∈ s.hart :: s.others, h.alive = true → s.inFlight h r = false) →
      Yields (.forcedRelease p e) s (EntryBecomes p e (toState 4) (some 8) s)) ∧
    (x.state = 2 ∨ x.state = 3 → (s.hart :: s.others).Pairwise (fun y z => y.ser ≠ z.ser) →
      let owns (w : BitVec 10) (d : DirtyLine) : Prop := (d.keyid ≠ 0 ∧ w = d.keyid) ∨ w ∈ d.writers
      let hit (h : Hart) : Prop := h.alive = true ∧
        ((∃ d ∈ s.dirty, r.meets d.line 64 = true ∧ owns h.wid d) ∨ s.inFlight h r = true)
      Yields (.forcedRelease p e) s fun u =>
        s.extentAt i = x ∧ u.extentAt i = toState 4 ∧ u.dirty = (s.dirty.filter fun d => !r.meets d.line 64) ∧
        (∀ h ∈ s.hart :: s.others, (hit h → ∃ h' ∈ u.hart :: u.others, h'.ser = h.ser ∧ h'.life = .quarantined) ∧
          (¬ hit h → h ∈ u.hart :: u.others)) ∧
        (Memory.wf s.mem = true → s.dirty.Pairwise (fun y z => y.line ≠ z.line) → (∀ d ∈ s.dirty, d.line % 64 = 0) →
          (∀ h ∈ s.hart :: s.others, hit h → s.world h.wid = none) →
          ∀ d ∈ s.dirty, r.meets d.line 64 = true → d.backing.length = 64 → ∀ o, o < 64 →
            Bytes.get u.mem (d.line + o) = d.backing.getD o 0)) ∧
    Yields (.rootPortFailure p) s fun u => ∀ k : Fin 512,
      (u.extents[k]).state =
        if k.val / 64 = p.toNat ∧ ((s.extents[k]).state = 2 ∨ (s.extents[k]).state = 3) then 4 else (s.extents[k]).state

/-! ### Management and the device window -/

/-- R397, R402, R404 to R406: the clock moves in steps of 100 MHz between 800 and 2,000 MHz; a power limit of 1,200 W to
3,600 W is taken; a signed firmware image of no lower version waits for the next reset; the fuses, the error log and the
retirement map are read; a thermal alarm at 800 MHz quarantines the contexts of its die; away from 800 MHz it does
nothing, which is the model's choice (log 102). -/
def Management : Prop :=
  ∀ (s : State),
    (s.clock.toNat < 2000 → Yields (.clockStep true) s fun u =>
      u = { s with clock := s.clock + 100, thrus := u.thrus, slowSince := u.slowSince }) ∧
    (800 < s.clock.toNat → Yields (.clockStep false) s fun u =>
      u = { s with clock := s.clock - 100, thrus := u.thrus, slowSince := u.slowSince }) ∧
    (2000 ≤ s.clock.toNat → Yields (.clockStep true) s fun u => u = s) ∧
    (s.clock.toNat ≤ 800 → Yields (.clockStep false) s fun u => u = s) ∧
    (∀ w t : BitVec 16, 1200 ≤ w.toNat → w.toNat ≤ 3600 →
      Yields (.powerLimitSet w t) s fun u => u = { s with powerLimit := w, tempLimit := t }) ∧
    (∀ f : FirmwareImage, let good := f.signed = true ∧ s.fwMinimum ≤ f.version
      (good → Yields (.firmwareUpdate f) s fun u =>
        u = { s with fwInactive := some f, outbox := s.outbox ++ [.firmware true] }) ∧
      (¬ good → Yields (.firmwareUpdate f) s fun u => u = { s with outbox := s.outbox ++ [.firmware false] })) ∧
    (∀ n : BitVec 4, let l := s.fuses[n.toNat]
      Yields (.fuseRead n) s fun u => u = { s with outbox := s.outbox ++ [.fuses (BitVec.ofNat 64
        ((l.filter fun p => p.commit == 3 && p.discard == 0).length +
          (l.filter fun p => p.discard == 3).length * 2 ^ 8 + (if 320 ≤ l.length then 2 ^ 16 else 0)))] }) ∧
    Yields .errorLogRead s (fun u => u = { s with outbox := s.outbox ++ [.errorLog s.errorLog] }) ∧
    Yields .retirementMapRead s (fun u => u = { s with outbox := s.outbox ++ [.retirement s.retired] }) ∧
    (∀ n, Yields (.powerStateSet n) s fun u => u = { s with powerState := n }) ∧
    ∀ die : BitVec 2,
      (s.clock ≠ 800 → Yields (.thermalAlarm die) s fun u => u = s) ∧
      (s.clock = 800 → (s.hart :: s.others).Pairwise (fun x y => x.ser ≠ y.ser) →
        Yields (.thermalAlarm die) s fun u =>
          ∀ h ∈ u.hart :: u.others, h.core.toNat / 64 = die.toNat → h.alive = false)

/-- R338, R339: a counter of a class that the world's allow-list permits is given; any other is withheld, returns 0 and
enters the world's log, which keeps its newest 256 entries. A class above 6 is withheld and logged as the others: the
model's choice (log 101). -/
def CounterDisclosure : Prop :=
  ∀ (s : State) (wid : BitVec 10) (cls : BitVec 6) (host : Bool) (w : World), s.world wid = some w →
    let allowed := cls.toNat ≤ 6 ∧ w.allow.getLsbD cls.toNat = true
    (allowed → Yields (.mgmtCounterRead wid cls host) s fun u =>
      ∃ v, u = { s with outbox := s.outbox ++ [.counter v false] }) ∧
    (¬ allowed → Yields (.mgmtCounterRead wid cls host) s fun u => ∃ time,
      u = { s with worlds := u.worlds, outbox := s.outbox ++ [.counter 0 true] } ∧
      WorldIs { w with
        attempts := w.attempts + 1
        log := (if 256 ≤ w.log.length then w.log.drop 1 else w.log) ++
          [⟨time, cls.zeroExtend 8, if host then 1 else 2, w.attempts + 1⟩]
        lost := if 256 ≤ w.log.length then w.lost + 1 else w.lost } s u)

/-- R317, R318, R372, R373, R397: MODE of a forwarding entry moves from 0 to 1, from 1 to 2 and from 2 to 0; the move to 2
applies the writes that the entry has held at NEW, in the order in which they came; a multiple of 64
written to CSAFREE joins the free list; a hold is requested of a running hart and takes effect at once on a saved one, and
a release ends it (log 26); an MSI-X vector below 64 is raised. -/
def DeviceWindow : Prop :=
  ∀ (s : State) (e : BitVec 6) (a : BitVec 64) (ser : BitVec 16) (h : Hart),
    let x := s.fwd[e.toNat]
    let mode (m : BitVec 2) (u : State) : Prop := u = { s with fwd := s.fwd.set e.toNat { x with mode := m } e.isLt }
    (x.mode = 0 → s.holdRefused e.toNat x = false → Yields (.fwdHold e) s (mode 1)) ∧
    (x.mode ≠ 0 ∨ s.holdRefused e.toNat x = true → Yields (.fwdHold e) s fun u => u = s) ∧
    (x.mode = 1 → (∀ w ∈ s.held, w.entry ≠ e.toNat) → Yields (.fwdForward e) s (mode 2)) ∧
    (x.mode = 1 →
      let on : State := { s with fwd := s.fwd.set e.toNat { x with mode := 2 } e.isLt }
      let mine := s.held.filter fun w => w.entry == e.toNat
      (∀ w ∈ mine, w.amo = none ∧ w.wr.keyid = 0 ∧ on.forward w.wr.key / 64 * 64 ∉ s.lost) →
      Yields (.fwdForward e) s fun u =>
        u = { counted on u with held := s.held.filter (fun w => w.entry != e.toNat), mem := u.mem, macs := u.macs
                                dirty := u.dirty } ∧
        u.mem = mine.foldl (fun m w => Bytes.write m (on.forward w.wr.key) w.wr.data) s.mem) ∧
    (x.mode ≠ 1 → Yields (.fwdForward e) s fun u => u = s) ∧
    (x.mode = 2 → Yields (.fwdFree e) s (mode 0)) ∧ (x.mode ≠ 2 → Yields (.fwdFree e) s fun u => u = s) ∧
    (s.csafree.length < 65536 → a.toNat % 64 = 0 →
      Yields (.csafreePush a) s fun u => u = { s with csafree := s.csafree ++ [a.setWidth 52] }) ∧
    (a.toNat % 64 ≠ 0 → Yields (.csafreePush a) s fun u => u = s) ∧
    (s.findHart ser = some h →
      (h.life = .running → Yields (.hartHold ser) s (HartIs ser { h with holdReq := true } s)) ∧
      (h.life = .descheduled → Yields (.hartHold ser) s (HartIs ser { h with life := .held } s)) ∧
      (h.life = .held → Yields (.hartRelease ser) s (HartIs ser { h with life := .descheduled, holdReq := false } s))) ∧
    (a.toNat < 64 → Yields (.msixRaise a) s fun u => u = { s with outbox := s.outbox ++ [.msix a.toNat] }) ∧
    (64 ≤ a.toNat → Yields (.msixRaise a) s fun u => u = s)

/-- R342, R346 to R350: a completed key exchange makes a device of the world ready; a sealed load that ends leaves its
version usable with code 0, or destroys it with another code, which LSTAT and the interrupt hold; an installation that
ends adds its entry with code 0, and leaves the store as it is otherwise. -/
def SealedEnds : Prop :=
  ∀ (s : State) (wid : BitVec 10) (dev : BitVec 8) (w : World) (n : Nat) (j : SealJob),
    (s.world wid = some w → s.link.up = true → dev ∈ s.domain → dev ≠ s.devIndex → dev ∈ w.devs → dev ∉ w.ready →
      Yields (.keyExchangeComplete wid dev) s fun u =>
        u = { s with worlds := u.worlds } ∧ WorldIs { w with ready := w.ready ++ [dev] } s u) ∧
    (s.seals[n]? = some j → j.install = false → s.world j.wid = some w → j.wid ≠ 0 →
      Yields (.sealedLoadComplete n) s fun u => ∃ code shard w',
        u.seals = s.seals.eraseIdx n ∧ u.world j.wid = some w' ∧
        w'.lstat = BitVec.ofNat 64 (j.kver.toNat * 2 ^ 48 + shard * 2 ^ 16 + code) ∧
        (code = 0 ∨ code = 4 ∨ code = 5 ∨ code = 6 ∨ code = 7) ∧
        (code = 0 → (∀ k ∈ w'.versions, k.ver = j.kver → k.pending = false) ∧
          w'.versions.map KeyVer.ver = w.versions.map KeyVer.ver) ∧
        (code ≠ 0 → ∀ k ∈ w'.versions, k.ver ≠ j.kver) ∧
        ((∃ pre, u.events = pre ++ [⟨0x8000000000008004, w'.lstat, 0⟩]) ∨ 1024 ≤ u.events.length ∧ u.eventLost = true) ∧
        (j.srck = 0 → manifestSigned j.manifest = false → code = 7)) ∧
    (s.seals[n]? = some j → j.install = true →
      Yields (.installComplete n) s fun u => ∃ code shard, u.seals = s.seals.eraseIdx n ∧
        (code = 0 → ∃ e, u.store = s.store ++ [e] ∧ e.num = j.src ∧ e.manifest = j.manifest) ∧
        (code ≠ 0 → u.store = s.store) ∧ (code = 0 ∨ code = 4 ∨ code = 5 ∨ code = 7) ∧
        (s.events.length < 1024 → u.events = s.events ++
          [⟨0x8000000000008004, BitVec.ofNat 64 (shard * 2 ^ 16 + code), 0⟩]) ∧
        (manifestSigned j.manifest = false → code = 7))

/-- Byte `k` of a number (R5). -/
def byteOf (n k : Nat) : Byte := BitVec.ofNat 8 (n / 256 ^ k)

/-- Where BOOT places an image, and what (R71, R304, R366): sections, slot table, PHYS64 values and descriptors. -/
structure BootPlaces where
  stack   : Nat
  places  : List (Section × Nat)
  last    : Nat
  sym     : List Byte
  reloc   : List Byte
  gang    : List Byte
  slots   : List Byte

/-- The places of an image file. -/
def bootPlaces (image : List Byte) : BootPlaces :=
  let secs := sectionsOf image
  let l := layout 0 secs
  { stack := fieldAt image 24 8, places := l.1, last := l.2, sym := bodyOf secs 11, reloc := bodyOf secs 6
    gang := bodyOf secs 7, slots := bodyOf secs 5 }

/-- The address of the slot table, next after the sections; the number of slot words; the place of the CSA after them. -/
def BootPlaces.table (b : BootPlaces) : Nat := roundUp b.last 64

def BootPlaces.words (b : BootPlaces) : Nat := b.slots.length / 16

def BootPlaces.csa (b : BootPlaces) : Nat := roundUp (b.table + (64 + 16 * b.words)) 64

/-- The slot index of `.text`; an image without one has CODE 0xFFFF_FFFF (log 120). -/
def BootPlaces.code (b : BootPlaces) : Nat :=
  match b.places.find? fun p => p.1.type == 1 with
  | some p => p.1.slot
  | none => 0xFFFFFFFF

/-- Byte `k` of the slot table as BOOT writes it: NEXT 0, LAST, CODE, zeros, and the slot words. -/
def BootPlaces.tableByte (b : BootPlaces) (k : Nat) : Byte :=
  if k < 8 then 0 else if k < 12 then byteOf (b.words - 1) (k - 8) else if k < 16 then byteOf b.code (k - 12)
  else if k < 64 then 0
  else byteOf (placedWord b.stack b.places b.sym b.reloc b.slots ((k - 64) / 16)).toNat ((k - 64) % 16)

/-- The PHYS64 entries: each place and its value. -/
def BootPlaces.phys (b : BootPlaces) : List (Nat × Nat) := physEntries b.places b.sym b.reloc

/-- An address that a PHYS64 value or the WORLD of a gang descriptor takes. -/
def BootPlaces.Touched (b : BootPlaces) (x : Nat) : Prop :=
  (∃ p ∈ b.phys, p.1 ≤ x ∧ x < p.1 + 8) ∨
    ∃ d ∈ descriptors b.gang, placeOf b.places 7 + d + 8 ≤ x ∧ x < placeOf b.places 7 + d + 10

/-- Memory after BOOT has placed an image: each section's bytes and zeros to its MSIZE, the slot table, the PHYS64 values, a
WORLD of 0 in each descriptor, and every other byte as it was. -/
def ImagePlaced (b : BootPlaces) (s u : State) : Prop :=
  (∀ p ∈ b.places, ∀ k, k < p.1.msize → ¬b.Touched (p.2 + k) → Bytes.get u.mem (p.2 + k) = p.1.body.getD k 0) ∧
  (∀ k, k < 64 + 16 * b.words → ¬b.Touched (b.table + k) → Bytes.get u.mem (b.table + k) = b.tableByte k) ∧
  (∀ p ∈ b.phys,
    (∀ q ∈ b.phys, q = p ∨ q.1 + 8 ≤ p.1 ∨ p.1 + 8 ≤ q.1) →
    (∀ d ∈ descriptors b.gang, placeOf b.places 7 + d + 10 ≤ p.1 ∨ p.1 + 8 ≤ placeOf b.places 7 + d + 8) →
    ∀ k, k < 8 → Bytes.get u.mem (p.1 + k) = byteOf p.2 k) ∧
  (∀ d ∈ descriptors b.gang,
    Bytes.get u.mem (placeOf b.places 7 + d + 8) = 0 ∧ Bytes.get u.mem (placeOf b.places 7 + d + 9) = 0) ∧
  ∀ x, (∀ p ∈ b.places, x < p.2 ∨ p.2 + p.1.msize ≤ x) → x < b.table ∨ b.table + (64 + 16 * b.words) ≤ x →
    ¬b.Touched x → Bytes.get u.mem x = Bytes.get s.mem x

/-! ### Floating elements, rearrangement and tiles (R147 to R154, R168 to R175) -/

/-- Source type of a conversion: CT of the captured VTYPE (R149). -/
def sourceTy (e : QEntry) : ETy := (ETy.ofCode (fieldOf e.vtype 24 8)).getD (.uint 8)

/-- An integer as an element of an integer type that holds it; of `bipolar`, its sign (R94). -/
def encodingOf (t : ETy) (v : Int) : Nat :=
  if t = .bipolar then (if 0 < v then 1 else 0) else (v % 2 ^ t.width).toNat

/-- Destination, result and flags of the element-wise floating instructions of major 0x29, the scaled pair with the
scales of v31 among them, and of the conversions of major 0x2A. The operations and roundings are the model's functions
of R95, R99 and R100. -/
def floatLane (e : QEntry) (t : ETy) (h : Hart) : Option (BitVec 5 × (Nat → Nat × Flags)) :=
  let f := t.fmt
  let m := vectorMode e.vtype e.rm
  let rnd (i : Nat) : Word := rndWord e.seed i
  let el (r : BitVec 5) (i : Nat) : Nat := readElem h.vreg h.c r.toNat t i
  let scale (i : Nat) : Ext :=
    if e.vtype.getLsbD 15 then
      let b := readElem h.vreg h.c 31 (.uint 8) i
      if b = 255 then .nan else .num false 1 ((b : Int) - 127)
    else Fmt.fp32.decode (readElem h.vreg h.c 31 (.flt .fp32) i)
  let src := sourceTy e
  let from' (r : BitVec 5) (i : Nat) : Nat := readElem h.vreg h.c r.toNat src i
  match e.instr with
  | .vfadd _ _ d a b => some (d, fun i => f.add m (rnd i) (el a i) (el b i))
  | .vfsub _ _ d a b => some (d, fun i => f.sub m (rnd i) (el a i) (el b i))
  | .vfmul _ _ d a b => some (d, fun i => f.mul m (rnd i) (el a i) (el b i))
  | .vfdiv _ _ d a b => some (d, fun i => f.div m (rnd i) (el a i) (el b i))
  | .vfsqrt _ _ d a => some (d, fun i => f.sqrt m (rnd i) (el a i))
  | .vfma _ _ d a b => some (d, fun i => f.fma m (rnd i) (el a i) (el b i) (el d i))
  | .vfmin _ _ d a b => some (d, fun i => f.minmax false (el a i) (el b i))
  | .vfmax _ _ d a b => some (d, fun i => f.minmax true (el a i) (el b i))
  | .vfsmul _ _ d a b => some (d, fun i =>
      let p := scaledProduct (el a i) (el b i) (scale i)
      let r := Fmt.fp32.roundTo m (rnd i) p.1
      (r.1, p.2 ||| r.2))
  | .vfsmacc _ _ d a b => some (d, fun i =>
      let p := scaledProduct (el a i) (el b i) (scale i)
      let v := (Fmt.fp32.decode (el d i)).add m p.1
      let r := Fmt.fp32.roundTo m (rnd i) v.1
      (r.1, p.2 ||| invalidFlag v.2 ||| Fmt.fp32.snanFlag (el d i) ||| r.2))
  | .vfmulx _ _ d a _ => some (d, fun i => f.mul m (rnd i) (el a i) ((e.ops[0]).val.toNat % 2 ^ t.width))
  | .vfcvt _ _ d a => some (d, fun i => src.fmt.convert f m (rnd i) (from' a i))
  | .vicvtf _ _ d a => some (d, fun i => f.ofInt m (rnd i) (src.intVal (from' a i)))
  | .vfcvti _ _ d a => some (d, fun i =>
      if t = .bipolar then src.fmt.toBipolar (from' a i)
      else
        let lo : Int := if t.signed then -2 ^ (t.width - 1) else 0
        let hi : Int := if t.signed then 2 ^ (t.width - 1) - 1 else 2 ^ t.width - 1
        let v := src.fmt.toInt m (rnd i) lo hi (from' a i)
        ((v.1 % 2 ^ t.width).toNat, v.2))
  | .vicvt _ _ d a => some (d, fun i =>
      let v := src.intVal (from' a i)
      if t = .bipolar then (if 0 ≤ v then 1 else 0, Flags.none)
      else
        let lo : Int := if t.signed then -2 ^ (t.width - 1) else 0
        let hi : Int := if t.signed then 2 ^ (t.width - 1) - 1 else 2 ^ t.width - 1
        ((min (max v lo) hi % 2 ^ t.width).toNat, if v < lo ∨ hi < v then Flags.sat else Flags.none))
  | _ => none

/-- The types that the row of a floating instruction or of a conversion takes (R147 to R149). -/
def FloatRowTakes (e : QEntry) (t : ETy) : Prop :=
  let pair (a b : Bool) : Prop :=
    ETy.ofCode (fieldOf e.vtype 24 8) = some (sourceTy e) ∧ (sourceTy e).isFloat = a ∧ t.isFloat = b
  match e.instr with
  | .vfcvt _ _ _ _ => pair true true
  | .vicvtf _ _ _ _ => pair false true
  | .vfcvti _ _ _ _ => pair true false
  | .vicvt _ _ _ _ => pair false false
  | .vfsmul _ _ _ _ _ | .vfsmacc _ _ _ _ _ => fieldOf e.vtype 0 8 = 0x35
  | _ => fieldOf e.vtype 0 8 ∈ wideFloatCodes

/-- The OR of the flags of the active elements from START to `hi` − 1. -/
def activeFlags (e : QEntry) (h : Hart) (hi : Nat) (f : Nat → Flags) : Flags :=
  ((List.range hi).filter fun i => decide (e.start ≤ i) && isActive e h i).foldl (fun acc i => acc ||| f i) Flags.none

/-- R147 to R149, R103, R143: a micro-operation of a floating instruction or a conversion performs one element group. -/
def VectorFloatElements : Prop :=
  ∀ (s : State) (core : BitVec 8) (e : QEntry) (t : ETy) (d : BitVec 5) (f : Nat → Nat × Flags),
    let g := 2 ^ fieldOf e.vtype 8 2
    let hi := groupEndOf t e.start e.vl
    SoleIssuer core s e → ETy.ofCode (fieldOf e.vtype 0 8) = some t → FloatRowTakes e t →
    e.vtype.getLsbD 63 = false → floatLane e t s.hart = some (d, f) → RegistersOk s.hart →
    e.start < e.vl → e.vl ≤ vlmax e.vtype s.hart.c → Aligned e d g →
    Yields (.microopIssue core) s fun u => Advances e hi e.vl s u ∧ SameMemory s u ∧ u.others = s.others ∧
      u.hart = { s.hart with
        vreg := u.hart.vreg, queue := u.hart.queue, vstart := u.hart.vstart, convoyRun := u.hart.convoyRun
        fflags := s.hart.fflags ||| activeFlags e s.hart hi fun i => (f i).2 } ∧
      WritesLanes e t d g hi e.vl (fun i => some (f i).1) s u

/-- Destination and relation of a floating compare. -/
def floatCompareOf (e : QEntry) : Option (BitVec 5 × BitVec 5 × BitVec 5 × FCmp) :=
  match e.instr with
  | .vfcmpeq _ _ d a b => some (d, a, b, .eq)
  | .vfcmplt _ _ d a b => some (d, a, b, .lt)
  | .vfcmple _ _ d a b => some (d, a, b, .le)
  | _ => none

/-- R147, R130, R142: a floating compare writes the bits of its destination at once, and raises the flags of the active
elements; a NaN compares false, and raises NV in `lt` and `le`, in `eq` when it is signalling. -/
def VectorFloatCompares : Prop :=
  ∀ (s : State) (core : BitVec 8) (e : QEntry) (x : Fmt) (d a b : BitVec 5) (op : FCmp),
    let el (r : BitVec 5) (i : Nat) : Nat := readElem s.hart.vreg s.hart.c r.toNat (.flt x) i
    let holds (o : Ordering) : Bool := match op with
      | .eq => o == .eq
      | .lt => o == .lt
      | .le => o != .gt
    let one (i : Nat) : Bool × Flags := match (x.decode (el a i)).cmp (x.decode (el b i)) with
      | some o => (holds o, Flags.none)
      | none => (false, if op = .eq then x.snanFlag (el a i) ||| x.snanFlag (el b i) else Flags.nv)
    SoleIssuer core s e → e.vtype.getLsbD 63 = false → ETy.ofCode (fieldOf e.vtype 0 8) = some (.flt x) →
    fieldOf e.vtype 0 8 ∈ wideFloatCodes → floatCompareOf e = some (d, a, b, op) → e.start = 0 →
    e.vl ≤ vlmax e.vtype s.hart.c → d.toNat < 12 → Memory.wf (s.hart.kreg.toList.getD d.toNat []) = true →
    Yields (.microopIssue core) s fun u => Completes s u ∧ SameMemory s u ∧ u.others = s.others ∧
      u.hart = { s.hart with
        kreg := u.hart.kreg, queue := u.hart.queue, vstart := u.hart.vstart, convoyRun := u.hart.convoyRun
        fflags := s.hart.fflags ||| activeFlags e s.hart e.vl fun i => (one i).2 } ∧
      WritesPred e d (fun i => (one i).1) s u

/-- What a rearrangement writes to element `i`: nothing where there is none (R150, R153, R154). -/
def rearranged (e : QEntry) (t : ETy) (h : Hart) : Option (BitVec 5 × (Nat → Option Nat)) :=
  let n := vlmax e.vtype h.c
  let k := (e.ops[0]).val.toNat
  let el (r : BitVec 5) (i : Nat) : Nat := readElem h.vreg h.c r.toNat t i
  match e.instr with
  | .vperm _ _ d a b => some (d, fun i => some (if el b i < n then el a (el b i) else 0))
  | .vslideup _ _ d a _ => some (d, fun i => if k ≤ i then some (el a (i - k)) else none)
  | .vslidedn _ _ d a _ => some (d, fun i => some (if i + k < n then el a (i + k) else 0))
  | .viota _ _ d => some (d, fun i =>
      some (((List.range i).filter fun j => isActive e h j).length % 2 ^ t.width))
  | .vskv _ _ d a => some (d, fun i =>
      some (if t.packedInt then ((sourceTy e).intVal (readElem h.vreg h.c a.toNat (sourceTy e) i) % 2 ^ t.width).toNat
        else readElem h.vreg h.c a.toNat (sourceTy e) i % 2 ^ t.width))
  | _ => none

/-- The types that a rearrangement asks for: `viota` writes integers, and `vskv` goes between packed and sliced
integers. -/
def RearrangeTakes (e : QEntry) (t : ETy) : Prop :=
  match e.instr with
  | .viota _ _ _ => t.isFloat = false ∧ t ≠ .bipolar
  | .vskv _ _ _ _ => t.isFloat = false ∧ ETy.ofCode (fieldOf e.vtype 24 8) = some (sourceTy e) ∧
      (sourceTy e).isFloat = false ∧ (sourceTy e).packedInt ≠ t.packedInt
  | _ => True

/-- R146, R150, R153, R154: `vperm`, the slides, `viota` and `vskv` perform whole, `vsel` an element group at a time;
`vsel` writes every element, from the source that the mask chooses. They raise no flag. -/
def VectorRearrangement : Prop :=
  ∀ (s : State) (core : BitVec 8) (e : QEntry) (t : ETy) (d : BitVec 5),
    let g := 2 ^ fieldOf e.vtype 8 2
    let hi := groupEndOf t e.start e.vl
    let kept (u : State) : Prop := SameMemory s u ∧ u.others = s.others ∧
      u.hart = { s.hart with vreg := u.hart.vreg, queue := u.hart.queue, vstart := u.hart.vstart, convoyRun := u.hart.convoyRun }
    SoleIssuer core s e → ETy.ofCode (fieldOf e.vtype 0 8) = some t → e.vtype.getLsbD 63 = false → RegistersOk s.hart →
    e.start < e.vl → e.vl ≤ vlmax e.vtype s.hart.c → Aligned e d g →
    (∀ f, RearrangeTakes e t → rearranged e t s.hart = some (d, f) → e.start = 0 →
      Yields (.microopIssue core) s fun u => Completes s u ∧ kept u ∧ WritesLanes e t d g e.vl e.vl f s u) ∧
    ∀ c m a b, e.instr = .vsel c m d a b → Yields (.microopIssue core) s fun u => Advances e hi e.vl s u ∧ kept u ∧
      WritesEach e t d g hi e.vl (fun i =>
        some (readElem s.hart.vreg s.hart.c (if isActive e s.hart i = true then a else b).toNat t i)) s u

/-- The active elements of a source below VL, in ascending order, with their indices. -/
def activeElements (e : QEntry) (t : ETy) (h : Hart) (a : BitVec 5) : List (Nat × Nat) :=
  ((List.range e.vl).filter fun i => isActive e h i).map fun i => (i, readElem h.vreg h.c a.toNat t i)

/-- R151, R152, R154: reductions write element 0 of the single register vd: integer sum and maximum, the CanonSum of the
elements in FP32, the floating maximum (−∞ of no element); `vtopk` the k elements of greatest value as index and
encoding, ties by index, a NaN below every number; `vcompress` the active elements in order. What lies beyond follows TP.
CanonSum, the maximum of two encodings and the comparison are the model's functions of R106, R129 and R152. -/
def VectorReductions : Prop :=
  ∀ (s : State) (core : BitVec 8) (e : QEntry) (t : ETy) (c m : BitVec 1) (d a b : BitVec 5),
    SoleIssuer core s e → ETy.ofCode (fieldOf e.vtype 0 8) = some t → e.vtype.getLsbD 63 = false → RegistersOk s.hart →
    e.start = 0 → e.vl ≤ vlmax e.vtype s.hart.c →
    let l := activeElements e t s.hart a
    let lo : Int := if t.signed then -2 ^ (t.width - 1) else 0
    let plain := t.isFloat = false ∧ t ≠ .bipolar
    let into (v : ETy) (g : Nat) (vals : List Nat) (fl : Flags) : Prop := Aligned e d g →
      Yields (.microopIssue core) s fun u => Completes s u ∧ SameMemory s u ∧ u.others = s.others ∧
        u.hart = { s.hart with
          vreg := u.hart.vreg, queue := u.hart.queue, vstart := u.hart.vstart, convoyRun := u.hart.convoyRun, fflags := s.hart.fflags ||| fl } ∧
        WritesEach e v d g vals.length vals.length (fun i => vals[i]?) s u
    (plain → e.instr = .vredsum c m d a →
      into t 1 [((l.map fun p => t.intVal p.2).sum % 2 ^ t.width).toNat] Flags.none) ∧
    (plain → e.instr = .vredmax c m d a →
      into t 1 [((l.map fun p => t.intVal p.2).foldl max lo % 2 ^ t.width).toNat] Flags.none) ∧
    (∀ x, t = .flt x → fieldOf e.vtype 0 8 ∈ [0x34, 0x35, 0x44] → e.instr = .vfredsum c m d a →
      let r := canonSum ((List.range e.vl).map fun i =>
        (x.decode (readElem s.hart.vreg s.hart.c a.toNat t i), isActive e s.hart i))
      into (.flt .fp32) 1 [r.1] (r.2 ||| (l.map fun p => x.snanFlag p.2).foldl (· ||| ·) Flags.none)) ∧
    (∀ x, t = .flt x → fieldOf e.vtype 0 8 ∈ wideFloatCodes → e.instr = .vfredmax c m d a →
      (l = [] → into t 1 [(2 ^ (t.width - 1) + x.infEnc)] Flags.none) ∧
      ∀ p q, l = p :: q →
        let r := l.foldl (fun (v : Nat × Flags) y =>
          ((x.minmax true v.1 y.2).1, v.2 ||| (x.minmax true v.1 y.2).2)) (p.2, Flags.none)
        into t 1 [r.1] r.2) ∧
    (∀ ranked : List (Nat × Nat), e.instr = .vtopk c m d a b → (e.ops[0]).val.toNat ≤ s.hart.c / 8 →
      fieldOf e.vtype 0 8 ∈ [0x35, 0x34, 0x44, 0x13, 0x14, 0x15, 0x23, 0x24, 0x25] → ranked.Perm l →
      (ranked.Pairwise fun p q =>
        ranksAbove t p.2 q.2 = true ∨ ranksAbove t q.2 p.2 = false ∧ p.1 < q.1) →
      into (.uint 64) 1 ((List.range (e.ops[0]).val.toNat).map fun i => match ranked[i]? with
        | some p => p.1 * 2 ^ 32 + p.2
        | none => 0xFFFFFFFF00000000) Flags.none) ∧
    (e.instr = .vcompress c m d a → into t (2 ^ fieldOf e.vtype 8 2) (l.map Prod.snd) Flags.none)

/-- Rows, k-steps and the two types of a captured TSHP (R160). -/
def tileRows (e : QEntry) : Nat := fieldOf e.tshp 0 7

def tileSteps (e : QEntry) : Nat := fieldOf e.tshp 8 8

def rowType (e : QEntry) : ETy := (ETy.ofCode (fieldOf e.tshp 24 8)).getD (.uint 8)

def columnType (e : QEntry) : ETy := (ETy.ofCode (fieldOf e.tshp 16 8)).getD (.uint 8)

/-- The two types of the shape are floating, or both are integer (R161, R166). -/
def ShapeKind (e : QEntry) (float : Bool) : Prop :=
  let l := if float then [0x34, 0x44, 0x50, 0x51, 0x52, 0x53] else [0x13, 0x14, 0x23, 0x24, 0x81] ++ slicedCodes
  fieldOf e.tshp 24 8 ∈ l ∧ fieldOf e.tshp 16 8 ∈ l

/-- The 32-bit accumulator of row `r` and column `c` in a tile image (R158). -/
def accumulator (img : Bytes) (rows r c : Nat) : Nat := littleEndian (Bytes.read img (4 * (c * rows + r)) 4)

/-- The signed value of 32 bits. -/
def signed32 (v : Nat) : Int := if v < 2 ^ 31 then (v : Int) else (v : Int) - 2 ^ 32

/-- One k-step of an integer feed on an accumulator, and whether it saturated (R108, R169). -/
def integerStep (neg : Bool) (acc : Nat × Bool) (a b : Int) : Nat × Bool :=
  let v := signed32 acc.1 + (if neg then -(a * b) else a * b)
  ((min (max v (-2 ^ 31)) (2 ^ 31 - 1) % 2 ^ 32).toNat, acc.2 || decide (v < -2 ^ 31 ∨ 2 ^ 31 - 1 < v))

/-- One k-step of a floating feed: the exact product enters once, rounded to nearest even (R107, R171). -/
def floatStep (e : QEntry) (neg : Bool) (acc : Nat) (a b : Nat) : Nat :=
  let p := (((rowType e).fmt.decode a).mul ((columnType e).fmt.decode b)).1
  (Fmt.fp32.roundTo .rne 0 ((Fmt.fp32.decode acc).add .rne (if neg then p.neg else p)).1).1

/-- Tile, groups, sign and number of k-steps of a feed. -/
def feedOf (e : QEntry) : Option (BitVec 3 × BitVec 5 × BitVec 5 × Bool × Nat) :=
  match e.instr with
  | .mxacc _ _ t a b => some (t, a, b, false, 1)
  | .mxsub _ _ t a b => some (t, a, b, true, 1)
  | .mopk _ _ t a b => some (t, a, b, false, tileSteps e)
  | _ => none

/-- R169 to R171: a feed adds its k-steps, in ascending order, to the accumulators of the active columns; all else of
the tile, every other tile and every vector register stays. Integer feeds raise ASAT alone. -/
def MatrixFeeds : Prop :=
  ∀ (s : State) (core : BitVec 8) (e : QEntry) (t : BitVec 3) (a b : BitVec 5) (neg : Bool) (n : Nat),
    SoleIssuer core s e → feedOf e = some (t, a, b, neg, n) → e.start = 0 → 0 < tileRows e →
    (ShapeKind e true ∨ ShapeKind e false) → tileRows e * e.vl ≤ s.hart.c / 4 → Memory.wf s.hart.tile[t.toNat] = true →
    let rows := tileRows e
    let va (k r : Nat) : Nat := readElem s.hart.vreg s.hart.c a.toNat (rowType e) (k * rows + r)
    let vb (k c : Nat) : Nat := readElem s.hart.vreg s.hart.c b.toNat (columnType e) (k * e.vl + c)
    let old (r c : Nat) : Nat := accumulator s.hart.tile[t.toNat] rows r c
    let int (r c : Nat) : Nat × Bool := (List.range n).foldl (fun v k =>
      integerStep neg v ((rowType e).intVal (va k r)) ((columnType e).intVal (vb k c))) (old r c, false)
    let flt (r c : Nat) : Nat := (List.range n).foldl (fun v k => floatStep e neg v (va k r) (vb k c)) (old r c)
    let sats : Bool := (List.range e.vl).any fun c => isActive e s.hart c && (List.range rows).any fun r => (int r c).2
    Yields (.microopIssue core) s fun u => Completes s u ∧ SameMemory s u ∧ u.others = s.others ∧
      u.hart = { s.hart with
        tile := u.hart.tile, fflags := u.hart.fflags, queue := u.hart.queue, vstart := u.hart.vstart, convoyRun := u.hart.convoyRun } ∧
      (∀ j : Fin 8, j.val ≠ t.toNat → u.hart.tile[j] = s.hart.tile[j]) ∧
      (∀ p, 4 * (rows * e.vl) ≤ p → Bytes.get u.hart.tile[t.toNat] p = Bytes.get s.hart.tile[t.toNat] p) ∧
      (∀ r c, r < rows → c < e.vl → isActive e s.hart c = false →
        accumulator u.hart.tile[t.toNat] rows r c = old r c) ∧
      (ShapeKind e false →
        (∀ r c, r < rows → c < e.vl → isActive e s.hart c = true →
          accumulator u.hart.tile[t.toNat] rows r c = (int r c).1) ∧
        u.hart.fflags = if sats then s.hart.fflags ||| Flags.asat else s.hart.fflags) ∧
      (ShapeKind e true → ∀ r c, r < rows → c < e.vl → isActive e s.hart c = true →
        accumulator u.hart.tile[t.toNat] rows r c = flt r c)

/-- R168, R173 to R175: `mzero` clears a tile; `mrow` writes a register to every row of the active columns; `mdrain`
moves the active accumulators to a register in FP32, and to a lent copy register, and leaves zero; `tsave` and `trest`
copy a whole image. -/
def MatrixMoves : Prop :=
  ∀ (s : State) (core : BitVec 8) (e : QEntry) (cb m : BitVec 1) (t : BitVec 3) (a : BitVec 5),
    SoleIssuer core s e → e.start = 0 → Memory.wf s.hart.tile[t.toNat] = true → RegistersOk s.hart →
    let rows := tileRows e
    let n := rows * e.vl
    let old (r c : Nat) : Nat := accumulator s.hart.tile[t.toNat] rows r c
    let kept (u : State) : Prop := Completes s u ∧ SameMemory s u ∧ u.others = s.others ∧
      ∀ j : Fin 8, j.val ≠ t.toNat → u.hart.tile[j] = s.hart.tile[j]
    (e.instr = .mzero cb t → Yields (.microopIssue core) s fun u => kept u ∧
      u.hart = { s.hart with tile := u.hart.tile, queue := u.hart.queue, vstart := u.hart.vstart, convoyRun := u.hart.convoyRun } ∧
      u.hart.tile[t.toNat] = []) ∧
    (e.instr = .trest cb t a → Yields (.microopIssue core) s fun u => kept u ∧
      u.hart = { s.hart with tile := u.hart.tile, queue := u.hart.queue, vstart := u.hart.vstart, convoyRun := u.hart.convoyRun } ∧
      u.hart.tile[t.toNat] = s.hart.vreg[a.toNat].img) ∧
    (e.instr = .tsave cb t a → Yields (.microopIssue core) s fun u => kept u ∧
      u.hart = { s.hart with vreg := u.hart.vreg, queue := u.hart.queue, vstart := u.hart.vstart, convoyRun := u.hart.convoyRun } ∧
      ∀ q : BitVec 5, u.hart.vreg[q.toNat] =
        if q ∈ destinations e a then ⟨32, s.hart.tile[t.toNat]⟩ else s.hart.vreg[q.toNat]) ∧
    (0 < rows → n ≤ s.hart.c / 4 → e.instr = .mrow cb m t a → Yields (.microopIssue core) s fun u => kept u ∧
      u.hart = { s.hart with tile := u.hart.tile, queue := u.hart.queue, vstart := u.hart.vstart, convoyRun := u.hart.convoyRun } ∧
      (∀ p, 4 * n ≤ p → Bytes.get u.hart.tile[t.toNat] p = Bytes.get s.hart.tile[t.toNat] p) ∧
      ∀ r c, r < rows → c < e.vl → accumulator u.hart.tile[t.toNat] rows r c =
        if isActive e s.hart c = true then littleEndian (Bytes.read s.hart.vreg[a.toNat].img (4 * c) 4) else old r c) ∧
    (0 < rows → n ≤ s.hart.c / 4 → e.instr = .mdrain cb m t a → ∀ float, ShapeKind e float →
      Yields (.microopIssue core) s fun u => kept u ∧
        u.hart = { s.hart with
          tile := u.hart.tile, vreg := u.hart.vreg, fflags := u.hart.fflags, queue := u.hart.queue
          vstart := u.hart.vstart, convoyRun := u.hart.convoyRun } ∧
        (float = true → u.hart.fflags = s.hart.fflags) ∧
        (∀ p, 4 * n ≤ p → Bytes.get u.hart.tile[t.toNat] p = Bytes.get s.hart.tile[t.toNat] p) ∧
        (∀ r c, r < rows → c < e.vl → accumulator u.hart.tile[t.toNat] rows r c =
          if isActive e s.hart (c * rows + r) = true then 0 else old r c) ∧
        WritesLanes e (.flt .fp32) a 1 n n (fun i =>
          some (if float then old (i % rows) (i / rows)
            else (Fmt.fp32.ofInt .rne 0 (signed32 (old (i % rows) (i / rows)))).1)) s u)

/-! ### Reset, the step and the decoder -/

/-- The next state as a step begins: the tick that keys the free values has advanced, and slices that hold more dirty
lines than they have room for have written the oldest back (R15; log 141). -/
def begun (s : State) : State := s.begin

/-- The acting hart is at a word `w`, which executes in the state `u`: it runs, waits for nothing, nothing else comes
first, and the bytes at pc, which are not at the host, pass the fetch check, their line check, and no held write concerns
them; or the word is a pair word whose first operation has executed, which is not fetched again (R34, R36). -/
def AtWord (s u : State) (w : BitVec 32) : Prop :=
  let b := begun s
  let pc := s.hart.pc.toNat
  s.agenda = [] ∧ s.hart.life = .running ∧ s.hart.wait = none ∧ s.hart.badLine = none ∧
  ((s.hart.half = true ∧ s.hart.pairHeld = true ∧ u = b ∧ w = s.hart.iw) ∨
    ((s.hart.half = false ∨ s.hart.pairHeld = false) ∧ pc % 4 = 0 ∧ (∀ a, regionOf (b.canon pc) ≠ .host a) ∧
      ∃ r bs, b.fetchProbe pc = .ok r ∧ (b.codeCached r = true ∨ NoHeldWrite b pc 4) ∧
      let v := b.codeReady r
      v.hart.life = .running ∧ v.readCode r pc = some bs ∧ w = BitVec.ofNat 32 (littleEndian bs) ∧
        u = { v with hart := { v.hart with iw := w } }))

/-- The hart has had the answer that it waited for: the instruction that goes on with it executes in the state `u`, from
the word that it was fetched as; or the answer is the word at pc (R396). -/
def Answered (s u : State) : Prop :=
  let b := begun s
  (s.hart.wait ≠ some .hostFetch ∧ u = { b with hart := { b.hart with wait := none } }) ∨
  (s.hart.wait = some .hostFetch ∧ ∃ bs, s.hart.answer = some (true, bs) ∧ bs.length = 4 ∧
    u = { b with hart := { b.hart with wait := none, answer := none, iw := BitVec.ofNat 32 (littleEndian bs) } })

/-- How an instruction executes: after the pending stores of its hart, where it may not go before them (R211). -/
def Executes (i : Instr) (u : State) (o : Host.Outcome State Fault Refusal) : Prop :=
  ((storesMayWait i = true ∨ ∀ p ∈ u.stores, p.ctx.ser ≠ u.hart.ser) → o = exec i u) ∧
  (storesMayWait i = false →
    let v := u.drainStores u.hart.ser
    o = if v.hart.life = .running then exec i v else .next v)

/-- R18, R36, R211: a step at a word that decodes executes the instruction, after the pending stores of the hart where it
may not go before them; the fetch from local memory changes nothing but page counts. A hart that has an answer goes on
with it; one that waits lets a micro-operation issue, or fetches its instruction again (log 127). An occurrence of the
agenda comes first, and no step stops the machine. The agenda (log 1), which instructions may go before pending stores
(log 19), whose turn comes next and the room of a slice (log 141) are the model's. -/
def StepRunsDecoded : Prop :=
  ∀ (s : State),
    let b := begun s
    let free (t : State) : State := { t with hart := { t.hart with wait := none } }
    let asks (P : Prop) : Prop := s.agenda = [] → s.hart.life = .running → s.hart.wait ≠ none → P
    (∃ dirty pages events lost,
      b = { s with tick := s.tick + 1, dirty := dirty, pages := pages, events := events, eventLost := lost } ∧
      (∀ d ∈ dirty, d ∈ s.dirty) ∧ (∀ n, (dirty.filter fun d => sliceUnit d.line == n).length ≤ 8192)) ∧
    (s.dirty.length ≤ 8192 → b = { s with tick := s.tick + 1 }) ∧
    (∀ u w i, AtWord s u w → decode s.hart.half w = .ok i → (s.hart.loan = none ∨ (classOf i).isSome = true) →
      Executes i u (step s)) ∧
    (∀ u w, AtWord s u w → LocalMemory s s.hart.pc.toNat → s.dirty.length ≤ 8192 → u = { s with
      tick := s.tick + 1, hart := { s.hart with iw := w }, pages := u.pages, events := u.events
      eventLost := u.eventLost }) ∧
    asks (s.hart.answer ≠ none → ∀ u i, Answered s u → decode u.hart.half u.hart.iw = .ok i →
      (s.hart.loan = none ∨ (classOf i).isSome = true) → ∃ o, step s = passOn o ∧ Executes i u o) ∧
    asks (s.hart.answer = none → s.hart.queue ≠ [] → Yields (.microopIssue s.hart.core) b fun v =>
      step s = .next (if v.hart.wait = none then v else if v.awaits = true then v.rotate else (free v).rotate)) ∧
    asks (s.hart.answer = none → s.hart.queue = [] → b.awaits = true → step s = .next b.rotate) ∧
    asks (s.hart.answer = none → s.hart.queue = [] → b.awaits = false → s.dirty.length ≤ 8192 →
      step s = passOn (step (free s))) ∧
    (s.agenda = [] → s.hart.life ≠ .running → step s = .next b.rotate) ∧
    (∀ i l, s.agenda = .occur i :: l → step s = exec i (begun { s with agenda := l })) ∧
    (∀ n l, s.agenda = .run n :: l → step s = .next ((begun { s with agenda := l }).focus n)) ∧
    (∀ e l, s.agenda = .inner e :: l → step s = .next ((begun { s with agenda := l }).inner e)) ∧
    ∃ t, step s = .next t

/-- R18, R20, R32, R306, R360, R361, R385: a misaligned pc traps before any fetch; a pc outside the code, a word that
decodes to nothing, a fetch that the host fails, and a line that work in flight has found failing (log 140) trap at the
fetch; a word that may not follow a stirrup word traps at the stirrup word, unless it takes a trap of its own first
(log 122). A tenant takes the fault so for the details that do not quarantine it. -/
def FetchTraps : Prop :=
  ∀ (s : State),
    let b := begun s
    let pc := s.hart.pc
    let stepsTo (P : State → Prop) : Prop := ∃ t, step s = .next t ∧ P t
    let arrives := CanTrap b ∧ s.agenda = [] ∧ s.hart.wait = none
    let fetches := arrives ∧ s.hart.badLine = none ∧ (s.hart.half = false ∨ s.hart.pairHeld = false)
    (fetches → pc.toNat % 4 ≠ 0 → stepsTo (TrapsHere 3 0 pc b)) ∧
    (∀ d, fetches → pc.toNat % 4 = 0 → b.fetchProbe pc.toNat = .error d →
      (s.hart.wid = 0 ∧ d < 16 ∨ d = 1 ∨ d = 2 ∨ d = 5) → stepsTo (TrapsHere 6 (BitVec.ofNat 64 d) pc b)) ∧
    (∀ line, arrives → s.hart.badLine = some line → s.hart.wid = 0 →
      stepsTo (TrapsHere 5 9 (BitVec.ofNat 64 line) { b with hart := { b.hart with badLine := none } })) ∧
    (∀ ok bs u, s.agenda = [] → s.hart.wait = some .hostFetch → s.hart.answer = some (ok, bs) →
      (ok = false ∨ bs.length ≠ 4) → u = { b with hart := { b.hart with wait := none, answer := none } } → CanTrap u →
      stepsTo (TrapsHere 6 2 pc u)) ∧
    (∀ u w e, AtWord s u w → CanTrap u → decode s.hart.half w = .error e → e ≠ .operandPrivileged →
      stepsTo (TrapsIllegal u)) ∧
    ∀ u w w0 i l, AtWord s u w → CanTrap u → decode s.hart.half w = .ok i → s.hart.loan = some l → classOf i = none →
      u.earlierTrap i = none → encode (if l.dc then .stirCopy l.k l.vdc else .stir l.k) = some w0 →
      stepsTo (TrapsIllegal (atStirrup u w0))

end Sys2Proof.Claims

open Sys2Proof Sys2Proof.Machine Sys2Proof.Claims

/-- R118: add, sub, and, or, xor, the shifts, slt, sltu, min, max, the multiplies and the extensions write their one
result, with the tag of R114, and change nothing else. R118: clz, ctz and popc. -/
def Obligations.ScalarRegisterResults : Prop :=
  Claims.ScalarRegisterResults ∧ Claims.BitCounts

/-- R119: division never traps, gives the stated results for every divisor, and changes nothing else. R119: for every
divisor, q × b + r equals a modulo 2^64. -/
def Obligations.DivisionResults : Prop :=
  Claims.DivisionResults ∧ Claims.DivisionIdentity

/-- R120, R121: the immediate and upper-immediate instructions. -/
def Obligations.ImmediateResults : Prop :=
  ∀ (i : Instr) (s : State) (d : BitVec 5) (v : Word) (tag : Option (BitVec 16)),
    immediateResult i s.hart = some (d, v, tag) → Yields i s (WritesX d v tag s)

/-- R126, R127: each instruction of major 0x02 writes its rounded result or integer to xd untagged, ORs its flags
into FFLAGS, advances SEED by one under SR alone, and changes nothing else. The roundings themselves are the model's
functions of R99. -/
def Obligations.ScalarFloatResults : Prop :=
  ∀ (i : Instr) (s : State) (d : BitVec 5) (v : Nat) (fl : Flags),
    floatResult i s.hart = some (d, v, fl) → Yields i s (FloatWrites d v fl s)

/-- R130: feqd, fltd and fled compare the FP64 values; −0 equals +0; a NaN compares false; feqd raises NV for a
signalling NaN, fltd and fled for any NaN. R129: fmind and fmaxd. -/
def Obligations.FloatComparesAndExtremes : Prop :=
  Claims.FloatCompares ∧ Claims.FloatMinMax

/-- R122: a branch goes to its target when its condition holds, else to the next word; it writes no register. R123: bcnt
writes x[xa] − 1 with the tag of xa kept, and branches while it is not 0; with xa = 0 it takes the
illegal-instruction trap. -/
def Obligations.BranchesAndCountedLoop : Prop :=
  Claims.Branches ∧ Claims.CountedLoop

/-- R124, R125: j and jal go to their target, jal with the link in x1; jalr goes to the aligned target computed from
the old xa with the link in xd, and a misaligned target traps at the jalr with nothing written. -/
def Obligations.Jumps : Prop :=
  ∀ (s : State) (d a : BitVec 5) (n : BitVec 16) (o : BitVec 26),
    let t := s.hart.xr a + BitVec.ofInt 64 n.toInt
    (Yields (.j o) s fun u => OnlyPc s u ∧ u.hart.pc = target s.hart.pc o.toInt) ∧
    (Yields (.jal o) s fun u => OnlyX 1 s u ∧ HoldsX u.hart 1 (s.hart.pc + 4) none ∧
      u.hart.pc = target s.hart.pc o.toInt) ∧
    (t.toNat % 4 = 0 → Yields (.jalr d a n) s fun u => OnlyX d s u ∧ HoldsX u.hart d (s.hart.pc + 4) none ∧
      u.hart.pc = t) ∧
    (t.toNat % 4 ≠ 0 → CanTrap s → Yields (.jalr d a n) s (TrapsHere 3 0 t s))

/-- R31, R33: the stirrup word lends its mask and copy register to the next word; it writes no register and leaves the
record. R35, R36, R50: a compact operation reads the register that the record names. As h0 it leaves pc with h1
pending, which executes from the word as fetched; as h1 it completes the word. Both set the record to d. Without a
valid record it is illegal. R32: a pair whose follower lacks the mask bit while a mask register is lent, or cannot
have its result copied to the lent register, is illegal; the trap is reported at the stirrup word, with that word,
and PEND is 0. That the other checks of the follower come first is the rule of R20. -/
def Obligations.StirrupsAndCompacts : Prop :=
  Claims.StirrupLends ∧ Claims.CompactOperations ∧ Claims.StirrupFailures

/-- R225, R228: a scalar load of local memory that passes its probe, and whose lines pass their check, writes the bytes
read, extended as its row says, to xd untagged; nothing is stored. Where the hart has pending stores,
ScalarLoadsSeeStores says what happens first. R211: while a pending store of the hart overlaps the bytes of a scalar
load, the load is as one of the state in which every pending store of the hart has performed, oldest first; where
none overlaps, it does not wait for them. That an overlap makes all of them perform is the model's (log entry 19). -/
def Obligations.ScalarLoads : Prop :=
  Claims.ScalarLoads ∧ Claims.ScalarLoadsSeeStores

/-- R225, R228: a scalar store to local memory that passes its probe writes the low bytes of xd at the place of its
address and no other byte; it writes no register. Through a slot of KEYID 0 the bytes stand in memory as written.
The hart is one whose stores perform as they execute, and the line passes its check. R211, R214: a scalar store of a
hart whose stores perform later than they execute (log entry 19), or that has a store pending, changes no byte of
memory: it becomes the youngest pending store, with its slot word, address and bytes, and the hart goes on. A fence
then waits until no store is pending. R318: while a forwarding entry is in MODE 1 over its address, a store of a
tenant to local memory is held: no byte of memory changes, and the hart goes on. -/
def Obligations.ScalarStores : Prop :=
  Claims.ScalarStores ∧ Claims.PendingStores ∧ Claims.HeldStores

/-- R225, R235: a scalar atomic on local memory that passes its probe writes the old word to xd untagged, and the new
word, if any, at the place of its address and nowhere else. R318: a tenant's scalar atomic on a word that a
forwarding entry in MODE 1 covers is held at the slice with its operands: nothing is written, and the hart waits for
the slice; when the slice has answered with the old word, the instruction completes and writes it to xd, untagged.
That the hart waits until the slice has answered, and that the answer keeps for the instruction through a stop, is
the model's reading (log entries 38 and 108). -/
def Obligations.ScalarAtomics : Prop :=
  Claims.ScalarAtomics ∧ Claims.HeldAtomics

/-- R309, R227: the probe answers the first detail of the table that fails, in the order misaligned, unpopulated, index,
bounds, rights, absent, key, window, and passes with the slot word where none fails. The model adds two answers in
their places: a line of the slot table that cannot be read has its own answer before index (log entry 126), and a
place at the host that the access may not reach fails as rights (R228, R235, R315). R227, R361: a scalar load or
store whose probe fails with a detail takes the access fault with that detail and its address, with no register and
no byte of memory written but the CSA; a hart of a tenant traps so for the details that do not quarantine it. R361:
a scalar access of a tenant that fails for bounds, rights, key, window or index quarantines its context at once; no
register is written, and the hart is not in handler mode. -/
def Obligations.ScalarAccessFaults : Prop :=
  Claims.ProbeOrder ∧ Claims.ScalarAccessFaults ∧ Claims.TenantViolations

/-- R312, R313, R314: the slot and pointer instructions that write a register, where the line of the slot word can be
read. R312: an index above LAST is the access fault with detail index, and xd is not written. R315: rpatch writes
one slot word through a slot of KEYID 0, WRITE from two registers, MOVE the base, the state and the next generation;
it writes no register, and every byte outside the word stays. No core's slot cache changes: it may hold the old word
until slotsync (R307). What captured the moved word, or names a map by its place, follows a MOVE (the model's
moveCaptured, for R195, R299 and R320; log entry 112). R315, R20: rpatch from a hart that is not of world 0 takes
the privileged-instruction trap. -/
def Obligations.SlotsAndPointers : Prop :=
  Claims.PointerInstructions ∧ Claims.SlotIndexFault ∧ Claims.SlotPatches ∧ Claims.SlotPatchPrivileged

/-- R378, R363, R370: ecall and ebreak enter the handler with the address of the next instruction in TPC; ecall passes its
number, its destination and the value of xa, and the saved record names its destination. The CSA then holds the context of
the hart as SavesContext lists it; so it does after the illegal-instruction trap of bcnt, with the pc of the word itself. -/
def Obligations.SystemCalls : Prop :=
  ∀ (s : State) (d a : BitVec 5) (n : BitVec 6) (b : BitVec 16), CanTrap s →
    Yields (.ecall d a n) s (EntersHandler 10 (BitVec.ofNat 64 (n.toNat + 256 * d.toNat)) (s.hart.xr a)
      (s.hart.pc + 4) (prefixState none false (some d)) s) ∧
    Yields (.ebreak n) s (EntersHandler 11 (n.zeroExtend 64) 0 (s.hart.pc + 4) (prefixState none false none) s) ∧
    (Memory.wf s.mem = true → s.hart.queue.length ≤ 64 →
      Yields (.ecall d a n) s (fun t => SavesContext s (s.hart.completed (some d)) t.mem) ∧
      Yields (.ebreak n) s (fun t => SavesContext s (s.hart.completed none) t.mem) ∧
      Yields (.bcnt 0 b) s fun t => SavesContext s s.hart t.mem)

/-- R365: in handler mode a call, a breakpoint, and every V, W and M instruction but the four that move vector and tile
state, take a nested trap, which saves nothing and keeps x1 to x31. R367: where HVEC is 0, a trap outside handler
mode saves the context, writes the trap registers, reports and stops the hart without setting HM: one of world 0 is
held, one of a tenant is quarantined, with cause 2. A trap in handler mode reports and quarantines the context.
Breakpoints, calls, illegal instructions, access faults and malformed structures are named; the saved bytes are
those of SavesContext. -/
def Obligations.NestedAndUnhandledTraps : Prop :=
  Claims.NestedTraps ∧ Claims.TrapsWithoutHandler

/-- R20: a privileged instruction of a hart that is not of world 0, or a move of a control register that the Access
column of R368 does not allow it, takes the privileged-instruction trap. R368: a move to a register that has no
write access takes the privileged-instruction trap in world 0 too. -/
def Obligations.PrivilegedTraps : Prop :=
  Claims.PrivilegedTraps ∧ Claims.ReadOnlyRegisters

/-- R216, R379: eret in handler mode restores the saved context, its control registers, streams and queue with it, and
resumes at TPC, once the hart's own stores have performed; a nested entry keeps the registers; an ecall's TVAL goes to the
register that TDETAIL names; an invalid PFXSTATE, and an eret outside handler mode, are illegal. An atomic that a slice
holds performs once, whoever takes its old word (log entry 108). -/
def Obligations.TrapReturn : Prop :=
  ∀ (s : State), s.hart.life = .running → s.hart.hostBusy = false → s.hart.world0 = true →
    let csa := s.hart.tctx.toNat % 2 ^ 52
    let head := (s.readCsa s.hart.wid csa).1
    let body := (s.readCsa s.hart.wid csa).2
    let call := s.hart.tcause.toNat % 2 ^ 16 = 10
    let target : BitVec 5 := s.hart.tdetail.extractLsb' 8 5
    (s.hart.hm = true → s.settle.hart.life = .running → exec .eret s = exec .eret s.settle ∧ Settled s.settle) ∧
    (Settled s →
    (s.hart.hm = true → badPrefix s.hart.pfx = false → s.hart.nest = false → s.csaBad s.hart.wid csa = none →
      s.hart.preempt = false → s.hart.holdReq = false →
      (numAt head 6 1 = 0 ∨ s.hart.vloc = 1 ∨ s.hart.share = 0) →
      Yields .eret s fun t => t = { s with hart := t.hart, owed := t.owed, held := t.held } ∧
        t.owed = s.owed.filter (fun p => p.1.ser != s.hart.ser || t.hart.waitsFor p.1) ∧
        t.held.map HeldWrite.wr = s.held.map HeldWrite.wr ∧
        t.hart.hm = false ∧ t.hart.pc = s.hart.tpc ∧ LoadsPrefix s.hart.pfx t.hart ∧ LoadsContext head body s.hart t.hart ∧
        (∀ r : BitVec 5, r ≠ 0 → ¬ (call ∧ r = target) →
          t.hart.operand r = itemAt (readPointers head) r.toNat (numAt body (8 * r.toNat) 8)) ∧
        (call → HoldsX t.hart target s.hart.tval none) ∧
        t.hart.vreg = s.hart.vreg ∧ t.hart.tile = s.hart.tile ∧ t.hart.share = s.hart.share) ∧
    (s.hart.hm = true → badPrefix s.hart.pfx = false → s.hart.nest = true →
      Yields .eret s fun t => t = { s with hart := { s.hart with
          nest := false, pc := s.hart.tpc, pairHeld := false, loan := t.hart.loan, half := t.hart.half, last := t.hart.last } } ∧
        LoadsPrefix s.hart.pfx t.hart) ∧
    (CanNest s → badPrefix s.hart.pfx = true → Yields .eret s (NestsIllegal s)) ∧
    (s.hart.hm = false → CanTrap s → Yields .eret s (TrapsIllegal s)))

/-- R368, R369: mfcr writes the value of a register that the hart may read to x, untagged; SLOTTAB and LTAB read as
zero outside world 0. Nothing else changes. That LPSHARE.PEND reads as its last value while PV is 0 is the model's
choice (log entry 83; R266 is silent). -/
def Obligations.ControlRegisterReads : Prop :=
  ∀ (s : State) (i : Instr) (x : BitVec 5) (c : BitVec 10), readMoveOf i = some (x, c) →
    ((c ∈ readByAll ∨ s.hart.world0 = true ∧ (c ∈ readByWorld0 ∨ c ∈ hiddenTables)) → MoveIsReady c s.hart →
      Yields i s (WritesX x (BitVec.ofNat 64 (controlValue c s)) none s)) ∧
    (s.hart.world0 = false → c ∈ hiddenTables → Yields i s (WritesX x 0 none s))

/-- R369, and the layouts that R368 names: mtcr writes the fields of a plain register from the value, ignores reserved
bits, and changes nothing else but pc and the record; a code of FRM above 5 is ignored (R97). R134 to R136, R160,
R161, R266, R270: writes of VTYPE, TSHP, VLCAP and SCHEDCFG. A CAP below SHARE makes a reduction pending. -/
def Obligations.ControlRegisterWrites : Prop :=
  Claims.PlainRegisterWrites ∧ Claims.RuledRegisterWrites

/-- R376: a write of VVIEW outside handler mode is ignored. In handler mode OP 0 views the trapping context; OP 1 a
context in lanes of this core whose hart is not running; OP 2 evicts the viewed context and sets its VLOC to 2; OP 3
brings the trapping context into free lane groups, all zero: R375 lets the scheduler choose them, and the model takes
those of State.assign, the lowest free ones (log entry 14). An ignored operation leaves the view. -/
def Obligations.ViewWrites : Prop :=
  ∀ (s : State) (i : Instr) (op : Nat) (a : BitVec 52), viewWriteOf i s.hart = some (op, a) →
    (s.hart.wid = 0 → s.hart.hm = false → Yields i s fun t => t = finished s) ∧
    (s.hart.wid ≠ 0 → CanTrap s → Yields i s (TrapsPrivileged 0x048 s)) ∧
    (s.hart.hm = true →
      (op = 0 → Yields i s fun t => t = finished { s with hart := { s.hart with view := .own } }) ∧
      (op = 1 → (∀ h, s.contextAt a = some h → h.core = s.hart.core ∧ h.vloc = 1 ∧ h.life ≠ .running) →
        (s.contextAt a).isSome = true →
        Yields i s fun t => t = finished { s with hart := { s.hart with view := .ctx a } }) ∧
      (op = 1 → (∀ h, s.contextAt a = some h → ¬ (h.core = s.hart.core ∧ h.vloc = 1 ∧ h.life ≠ .running)) →
        Yields i s fun t => t = finished s) ∧
      (op = 2 → s.hart.view = .own → Yields i s fun t => t = finished s) ∧
      (op = 2 → ∀ b, s.hart.view = .ctx b → s.contextAt b = none → Yields i s fun t => t = finished s) ∧
      (op = 2 → ∀ b h, s.hart.view = .ctx b → s.contextAt b = some h → h.ser ≠ s.hart.ser →
        s.findHart h.ser = some h →
        Yields i s fun t => t.hart.view = .own ∧ t.hart.pc = s.hart.pc + 4 ∧
          ∃ g ∈ t.others, g = { h with vloc := 2, groups := [], vreg := g.vreg, kreg := g.kreg, tile := g.tile }) ∧
      (op = 3 → s.hart.vloc = 1 → Yields i s fun t => t = finished s) ∧
      (op = 3 → s.hart.vloc ≠ 1 →
        let gs := s.assign s.hart.core s.hart.ser s.hart.share.toNat
        let free := gs.length = s.hart.share.toNat ∧ ∀ g ∈ gs, s.holder s.hart.core s.hart.ser g = none
        (free → Yields i s fun t => t.hart = { s.hart.completed none with
          vreg := Vector.replicate 32 ⟨64, []⟩, kreg := Vector.replicate 12 [], tile := Vector.replicate 8 []
          vloc := 1, groups := gs }) ∧
        (¬ free → Yields i s fun t => t = finished s)))

/-- R139: with no change of share pending, svl sets VL and xd to the smaller of the request and VLMAX; svl.w does so
once the watermark has reached WCONS.POS plus that number, and WCONS.POS advances; until then it waits with nothing
changed. R133, R265 to R267: svl first applies a change of share that is pending, where the lanes it needs are free;
the images keep what both sizes hold, and VLMAX is that of the new share. State that lies nowhere comes into free
lanes with images of zeros. Which groups a grown or a new share takes is the scheduler's choice (R375): the model
takes the lowest free ones first (State.growth and State.assign; log entry 14). -/
def Obligations.StripSetting : Prop :=
  Claims.StripSetting ∧ Claims.ShareApplied

/-- R237, R214, R316, R381: fence and fence.sv complete when the scalar side of the hart has performed, fence.vs,
fence.sv.vs, csync and slotsync when both sides have: no store of it is pending, held or in a packet, and, for the
vector side, its queue is empty. They write no register. slotsync empties every core's slot cache, and what may
still come into one of the words that a table held before, so that every slot word is used as memory holds it; csync
drops every line of an instruction cache that its range overlaps, and every line where the length is 0. Until then
they wait. R380: wfe writes 1 when an event has occurred; otherwise it may return 1 (log entry 10 leaves that free),
or it waits. -/
def Obligations.FencesAndEvents : Prop :=
  Claims.Fences ∧ Claims.WaitForEvent

/-- R138, R141, R357: a V, W or M instruction that meets the checks of its row enters the queue with the values it
captures, joins its convoy, and pc goes on; with a captured VL of 0 it retires at once. No register, no byte of
memory and no flag changes, and the record becomes invalid. The entry holds a seed of 0 outside SR (log entry 72)
and its operands in the order of the written form (log entry 74): both are the model's. R14, R136, R138, R29: a V, W
or M instruction of a hart without a share takes the trap of R14; while VILL is 1, with a VL above VLMAX, or as the
second of its class in a convoy, it is illegal. -/
def Obligations.VectorEntry : Prop :=
  Claims.VectorEntry ∧ Claims.VectorEntryTraps

/-- R166: tshp sets TSHP from VTYPE when it enters, joins its convoy and takes no entry; with VL = 0 it leaves TSHP.
R382, R101: vsr and vlr enter the queue whatever VTYPE and VL hold; in mode SR they capture SEED and advance it.
R382: as the oldest entry, vsr stores the C bytes of its register or predicate at its address and no other byte,
whatever VTYPE and VL hold, and vlr loads them into its register, at width tag 64, and into a lent copy register, or
into its predicate; an unaligned address is the misaligned fault, at element 0 (log entry 81, an inference). -/
def Obligations.TileShapeAndWholeMoves : Prop :=
  Claims.TileShape ∧ Claims.WholeRegisterMoves ∧ Claims.WholeRegisterEffects

/-- R156: vmvxs writes element 0 of va in the type of VTYPE, kpop the number of bits of ka below VL, kfirst the least
of their indices, or all ones. They wait only while a queued instruction that writes their source has not produced it:
element 0 for vmvxs (the model's elemBusy), the predicate for the others. -/
def Obligations.VectorReaders : Prop :=
  ∀ (s : State) (d a : BitVec 5), s.hart.vloc = 1 → s.hart.share ≠ 0 →
    let bits := (List.range s.hart.vl.toNat).filter fun i => s.hart.kbit a.toNat i
    let written := ∃ e ∈ s.hart.queue, ∃ k, destOf e.instr = .pred k ∧ k.toNat = a.toNat
    (∀ t : ETy, s.hart.vtype.getLsbD 63 = false → ETy.ofCode (fieldOf s.hart.vtype 0 8) = some t →
      let e := readElem s.hart.vreg s.hart.c a.toNat t 0
      (s.hart.elemBusy a.toNat = false → Yields (.vmvxs d a) s
        (WritesX d (if t.isFloat then BitVec.ofNat 64 e else BitVec.ofInt 64 (t.intVal e)) none s)) ∧
      (s.hart.elemBusy a.toNat = true → Yields (.vmvxs d a) s (Waits .retry s))) ∧
    (¬ written → Yields (.kpop d a) s (WritesX d (BitVec.ofNat 64 bits.length) none s) ∧
      Yields (.kfirst d a) s
        (WritesX d (if bits = [] then BitVec.allOnes 64 else BitVec.ofNat 64 (bits.headD 0)) none s)) ∧
    (written → Yields (.kpop d a) s (Waits .retry s) ∧ Yields (.kfirst d a) s (Waits .retry s))

/-- R142, R143, R145, R31, R32: a micro-operation of an integer instruction performs one element group from START: it
writes the result of every active element to its destination and to a lent copy register, 0 or nothing to the
inactive ones as MP says, and, with the last group, 0 or nothing to the tail as TP says; SAT is raised for a
saturated active element; every register outside the destinations stays. R142, R146, R155: a compare or a predicate
instruction writes the bits of its destination at once: the result of every active element, and the policies for the
others; every other register stays. -/
def Obligations.VectorIntegerElements : Prop :=
  Claims.VectorIntegerElements ∧ Claims.PredicateResults

/-- R147 to R149, R103, R143: a micro-operation of a floating instruction or a conversion performs one element group.
R147, R130, R142: a floating compare writes the bits of its destination at once, and raises the flags of the active
elements; a NaN compares false, and raises NV in `lt` and `le`, in `eq` when it is signalling. -/
def Obligations.VectorFloatElements : Prop :=
  Claims.VectorFloatElements ∧ Claims.VectorFloatCompares

/-- R146, R150, R153, R154: `vperm`, the slides, `viota` and `vskv` perform whole, `vsel` an element group at a time;
`vsel` writes every element, from the source that the mask chooses. They raise no flag. R151, R152, R154: reductions
write element 0 of the single register vd: integer sum and maximum, the CanonSum of the elements in FP32, the
floating maximum (−∞ of no element); `vtopk` the k elements of greatest value as index and encoding, ties by index,
a NaN below every number; `vcompress` the active elements in order. What lies beyond follows TP. CanonSum, the
maximum of two encodings and the comparison are the model's functions of R106, R129 and R152. -/
def Obligations.VectorRearrangement : Prop :=
  Claims.VectorRearrangement ∧ Claims.VectorReductions

/-- R169 to R171: a feed adds its k-steps, in ascending order, to the accumulators of the active columns; all else of
the tile, every other tile and every vector register stays. Integer feeds raise ASAT alone. R168, R173 to R175:
`mzero` clears a tile; `mrow` writes a register to every row of the active columns; `mdrain` moves the active
accumulators to a register in FP32, and to a lent copy register, and leaves zero; `tsave` and `trest` copy a whole
image. -/
def Obligations.MatrixTiles : Prop :=
  Claims.MatrixFeeds ∧ Claims.MatrixMoves

/-- R229, R230, R142, R143: a micro-operation of a vector load of local memory of a byte-width type whose active
elements pass probe and line check writes one element group to its destination, and to a lent copy register, under
the policies for the others; it stores nothing. R232: vldff loads as vld does when every active element passes, and
VLFF is VL; when the least failing element `k` is not the least active one, it loads those below `k`, the rest is
tail, and VLFF is `k`; when it is, it takes the fault. R229, R360, R361: when the probe of a vector load, store or
atomic fails, the access fault of the least active element that fails is taken, with detail, index and address, and
nothing has performed (a tenant, where it is not quarantined). R157, R229, R360: a memory-to-memory form probes
every access of its active elements before any performs; the fault is that of the least element that fails, at the
first of its sources and its destination that fails; that order of the three is the model's (log entry 78). R229,
R230: so a vector store performs one element group: it changes no byte outside the places of the active elements of
the group, and no register; through a slot of KEYID 0, an element whose place no other overlaps stands in memory as
the register holds it. R236, R235: a vector atomic on local memory performs the atomics of one element group whose
words do not overlap: the old words go to the data register, and to a lent copy register, under the policies; each
new word stands at its place through a slot of KEYID 0, and no other byte changes. R157: a micro-operation of a
memory-to-memory form, whose range has passed its probe, performs its least active element left (one element: log
entry 78): it reads its sources and stores the result, with its flags, at the element's place of the destination and
nowhere else. With no active element left the form completes and writes nothing. -/
def Obligations.VectorMemory : Prop :=
  Claims.VectorLoads ∧ Claims.FirstFaultLoads ∧ Claims.VectorFaults ∧ Claims.MemoryFormFaults ∧ Claims.VectorStores ∧ Claims.VectorAtomics ∧ Claims.MemoryForms

/-- R238: qbind binds a stream when the type is a byte-width type, base and stride are aligned and every element passes
its probe, with nothing fetched and position 0; an extent of 0 unbinds it; a misaligned base takes the access fault
for element 0, a misaligned stride that of element 1, and a failing probe that of its least element; that a stride
misaligned for element 1 comes before a failing probe of element 0 is the model's (log entry 132). It waits for
older vqrd of the stream. R239: qrd writes the next element that has arrived and advances the position; it waits for
one that has not; an unbound or exhausted stream is the stream-state fault. Where the element it waits for cannot be
fetched, since its own probe fails after a restore, or since the host has not given it, it takes that access fault
(R303, R322, R396). That an element is fetched after a restore through the slot word that its own probe finds is the
model's log entry 33, and that the reader takes the fault is log entry 109. R239: vqrd takes as many elements as
have arrived, are left and fit VL, writes them under the mask with the rest as tail, advances the stream, and VLFF
is their number; with none arrived and some left it waits. An unbound stream, or one of elements of another width,
is the stream-state fault. R238, R303, R396: the next element of a stream of a running hart is fetched, in order, in
handler mode too, while the binding has room and the stream has elements left: through the slot word captured at its
binding, or after a restore through the one that the element's own probe finds (log 33); where that probe fails, or
the host does not answer, nothing is fetched, and the reader takes the fault (log 109). -/
def Obligations.Streams : Prop :=
  Claims.StreamBinding ∧ Claims.StreamReads ∧ Claims.VectorStreamReads ∧ Claims.StreamFetching

/-- R246: kwait returns when its bits are all 1, at once for a count of 0, and waits otherwise; a range that reaches
beyond 8 × C is the malformed-structure fault, reason 5. It writes nothing. R241, R248, R249: pref, chdemote in
world 0, and sbar once the hart's older events have performed, complete with no architectural effect; sbar of no
stream or job completes at once. R247, R220, R380: wmark publishes its value once the older events of the hart have
performed: the watermark becomes the larger of the two, the others stay, and every member of the gang has an event
for wfe. -/
def Obligations.CompletionWaits : Prop :=
  Claims.CompletionWaits ∧ Claims.HintsAndBarriers ∧ Claims.WatermarkPublication

/-- R243, R245: btcopy issues a job of pieces of 2^(6 + CHS) bytes, the last one shorter, and clears the bit of every
piece; a length of 0 does nothing. It returns no ticket, and the copy itself comes later. Where an element of either
extent fails its probe, the least that does takes the access fault, its source before its destination (R177, R360).
That a length of 0 is checked for nothing is the model's log entry 28; the order of source and destination is its
log entries 35 and 42. R244, R245: btgather issues one row request for each element of IREG but those of
0xFFFF_FFFF, whose bits are set at issue; the bits of the other requests are cleared. -/
def Obligations.BlockTransfers : Prop :=
  Claims.BlockCopies ∧ Claims.RowGathers

/-- R176, R177, R189: a query whose packet, descriptors and extents pass their checks is issued as a ticket. The ticket
holds the query vector as it was captured, from memory or from a vector register, the slot and the address of its
record, and the shards of the selected stacks, none of them searched yet. R190: nsstat writes 0 for no ticket of the
hart, 1 for one in flight, 2 for one completed or cancelled. R177, R194: a product whose packet, map block and
extents pass their checks is issued as a ticket. The ticket holds CUR, the list of the current half and x as they
were captured, and the slots and addresses of the weights, of the hot rows and of y. -/
def Obligations.NearMemoryIssue : Prop :=
  Claims.NearSearchIssue ∧ Claims.TicketStatus ∧ Claims.SplitProductIssue

/-- R195: hcfire adds 1, saturating, to the counter of each row that an active bit below VL names, and to no other;
hcage halves every counter. R195: hcrank writes the indices of the H first rows of the ranking, in ascending order,
into the other half, sets its NHOT and STAGED, and starts the row copy. R195: hccommit of a staged map exchanges the
halves, clears STAGED and advances GEN, once no copy runs; with nothing staged it changes nothing. R196: while
another hart has begun an event of the map, which has yet to take effect, hcfire, hcage, hcrank and hccommit on that
map wait, having done nothing; that an event lasts from the reading of its block to its effect is the model's (log
142). -/
def Obligations.HotMaps : Prop :=
  Claims.MapCounters ∧ Claims.MapStaging ∧ Claims.MapCommit ∧ Claims.MapOrder

/-- R283, R284, R290, R294: a valid descriptor opens a CLOSED worklist and returns 0; an identical one returns 1 for an
open and 2 for a DONE worklist and changes nothing; a differing one is the fault of reason 14. Opening captures the
spill slot and the record slot. R293: a worklist that is not bound is the fault of reason 13, and the two excluded
forms of wlpop are illegal. -/
def Obligations.WorklistOpening : Prop :=
  Claims.WorklistOpening ∧ Claims.WorklistRefusals

/-- R282, R285, R286, R290, R295: wlpush queues its task at level p >> SHIFT, arms the worklist and sets F; it waits
while the worklist is CLOSED, and faults with reason 16 when it is DONE. R286: wlpush and wldone wait until the
older events of the scalar side have performed. R282, R290, R293, R296: wlpop takes a task of the window of its
device, with a token not outstanding before; with none it waits, or returns NONE when bit 4 of xb is set; on a DONE
worklist it returns DONE. The record is invalid, for it writes two registers. R282, R289, R291, R297: wldone retires
an outstanding token and recomputes F; any other token is the fault of reason 15. R298: wlstat writes the status
word and wlfloor F, or 2^64 − 1 for a CLOSED worklist. -/
def Obligations.WorklistWork : Prop :=
  Claims.WorklistPush ∧ Claims.WorklistOrder ∧ Claims.WorklistPop ∧ Claims.TokenRetirement ∧ Claims.WorklistReading

/-- R76, R261, R262: glaunch of a descriptor that passes its checks returns a handle that no gang has, counted on from
those of earlier launches, and queues the gang with its members in rank order on their devices, each with the ROLE,
WEIGHT and ENTRY of its group; it waits while 64 gangs are queued on its die or older events have not performed; a
descriptor that breaks a rule is the fault of reason 11. Which descriptors break one is the model's badGang, its reading of
R76 and R261, with three choices: only the new gang's harts count against 1,024 of a device (log entry 50), a CODE above
LAST is launched (log entry 52), and a launcher in handler mode is of its gang's world (log entry 51). -/
def Obligations.GangLaunch : Prop :=
  ∀ (s : State) (a b : BitVec 5) (head bs : List Byte),
    let addr := (s.hart.xr b).toNat
    let n := fieldOfBytes head 6 2
    let w := fieldOfBytes head 8 2
    let first := if w = s.ctx.world.toNat then s.hart.slottab else s.hart.ltab
    let table := s.newest (2 ^ 46) (tabAddr first)
    let groups := groupsOf n bs
    let devs := (s.deviceList w).take (fieldOfBytes head 2 1)
    let bad := s.badGang head groups table
    let handle (i : Nat) : Nat := i % (2 ^ 32 - 1) + 1
    let taken (i : Nat) : Prop := ∃ x ∈ s.gangs, x.gid.toNat = handle i
    Fresh s → addr % 16 = 0 → StructAt s (s.hart.tagOf b) addr 16 head →
    1 ≤ n → n ≤ 4096 → StructAt s (s.hart.tagOf b) (addr + 16) (16 * n) bs →
    s.chainLost (2 ^ 46) (tabAddr first) = none →
    (AllPerformed s → bad = false → (s.queued (s.hart.core.toNat / 64)).length < 64 → s.gangs.length < 2 ^ 32 - 1 →
      s.worldFaulted (BitVec.ofNat 10 w) = false →
      Yields (.glaunch a b) s fun u => ∃ (g : Gang) (i : Nat),
        WritesX a (g.gid.zeroExtend 64) none { counted s u with gangs := s.gangs ++ [g], handles := i + 1 } u ∧
        g.gid ≠ 0 ∧ (∀ x ∈ s.gangs, x.gid ≠ g.gid) ∧ g.gid.toNat = handle i ∧ s.handles ≤ i ∧
        (∀ j, s.handles ≤ j → j < i → taken j) ∧
        g.wid.toNat = w ∧ g.chain.toNat = fieldOfBytes head 4 2 ∧ g.devs = devs ∧ g.phase = .waiting ∧
        g.die = s.hart.core.toNat / 64 ∧ g.table.toNat = table ∧ g.code = s.tabCode table ∧
        g.members.length = fieldOfBytes head 0 2 ∧
        (∀ r m, g.members[r]? = some m → m.rank = r ∧ m.ser = none ∧ m.live = true ∧
          some m.dev = devs[r * devs.length / g.members.length]? ∧
          ∃ i, i < n ∧ GroupOfRank bs i r ∧ m.role.toNat = fieldOfBytes bs (16 * i + 2) 1 ∧
            m.weight.toNat = fieldOfBytes bs (16 * i + 3) 1 ∧ m.entry.toNat = fieldOfBytes bs (16 * i + 4) 4) ∧
        (∀ v, (∃ l ∈ g.lists, l.w = v ∧ l.state = .closed) ↔ v < 16 ∧ (fieldOfBytes head 10 2).testBit v = true)) ∧
    (AllPerformed s → bad = false → 64 ≤ (s.queued (s.hart.core.toNat / 64)).length →
      Yields (.glaunch a b) s fun u => CountsOnly s u ∧ u.hart = { s.hart with wait := some .retry, capture := u.hart.capture }) ∧
    (AllPerformed s → bad = true → CanTrap s →
      Yields (.glaunch a b) s fun u => TrapsHere 7 11 (s.hart.xr b) (counted s u) u) ∧
    (¬ AllPerformed s → Yields (.glaunch a b) s (Waits .retry s))

/-- R264: gwait returns the status of a retired gang of its world once, and 3 for any other handle; it waits for a gang
that has not retired. That a hart in handler mode has the world of its context is the model's log entry 51. R274:
gbar arrives once, when the hart's older events have performed, and then waits until the barrier has moved on; it
takes its barrier from bits [3:0] and changes nothing else. That an arrival is kept over a trap or a switch, and
counts once, is the model's log entry 55. R271: hyield ends the quantum of the hart: it stays runnable, off its slot
and at the next word, with one quantum less, or with those of a new round where no hart of its run set has one left,
and a hart that may inherit has its slot; where there is none, or where it may not stop (in handler mode, or with an
answer of the host due), it goes on, and only the record, which becomes invalid, and pc change. Which of several
harts inherits is a free value (log entry 10); rounds are the model's log entry 87. -/
def Obligations.GangLife : Prop :=
  Claims.GangStatus ∧ Claims.BarrierArrival ∧ Claims.Yielding

/-- R275 to R278: xred of a packet and schedule that pass their checks clears its completion bit and joins the next
reduction of its member; nothing else of the gang, the hart and memory changes. That the step words keep R276 is the
model's badSchedule over its list of tree nodes. R277, R278: a reduction that a member left without joining ends
with LAST 2, one whose members disagree with LAST 1, and neither writes memory; a reduction that every live member
has joined alike writes to every member's buffer the elements that the contributions give in rank order, and ends
with LAST 0 once no forwarding entry holds any of them (R318); in a domain gang inside its slice. The elements are
those of the model's reduceElem, and other devices write their members' buffers themselves. -/
def Obligations.Reductions : Prop :=
  Claims.ReductionJoining ∧ Claims.ReductionEnds

/-- R279, R372: gexit, once the hart's older events have performed, ends the hart: its streams are unbound, its lanes
released, its member no longer lives, and the completion sets of its tickets and jobs are discarded. Its member joins no
further reduction, and those issued stay. When it was the last live member, the gang retires with status 0, or 1 if a member
was quarantined, the CSAs of its members are free again, and the gang-retired event is posted. No memory changes. -/
def Obligations.HartExit : Prop :=
  ∀ (s : State) (g : Gang) (m : Member),
    s.gang s.hart.gid = some g → g.memberOf s.hart.ser = some m →
    (∀ x ∈ g.members, x.rank = m.rank → x = m) →
    let last := ∀ x ∈ g.members, x.live = true → x = m
    let alive := g.phase = .waiting ∨ g.phase = .placed ∨ g.phase = .started
    (AllPerformed s → Yields .gexit s fun u =>
      u = { s with
        hart := u.hart, gangs := u.gangs, tickets := u.tickets, jobs := u.jobs, csafree := u.csafree
        events := u.events, eventLost := u.eventLost } ∧
      u.hart = { s.hart with
        life := .exited, queue := [], convoy := none, vloc := 0, groups := [], wait := none, answer := none
        badLine := none, loan := none, half := false, pairHeld := false, capture := none, holdReq := false, preempt := false
        streams := Vector.replicate 8 ⟨false, 0, ⟨0, none⟩, 0, 0, 0, 0, [], false, none⟩ } ∧
      u.tickets = s.tickets.map (fun t => if t.ser = s.hart.ser then { t with mute := true } else t) ∧
      u.jobs = s.jobs.map (fun j => if j.ser = s.hart.ser then { j with mute := true } else j) ∧
      ∃ g', GangIs s.hart.gid g' s u ∧
        g' = { g with
          members := g.members.map (fun x => if x = m then { m with live := false } else x), lists := g'.lists
          cancel := some (min (g.cancel.getD m.joins) m.joins), phase := g'.phase } ∧
        (alive → last →
          g'.phase = .retired (if g.broken then 1 else 0) ∧ g'.lists = [] ∧
          u.csafree = s.csafree ++ ((u.hart :: s.others).filter fun h =>
            h.gid == s.hart.gid && h.life == .exited).map Hart.csa ∧
          (s.events.length < 1024 → u.events = s.events ++
            [⟨0x8000000000008003, BitVec.ofNat 64 (g.chain.toNat * 2 ^ 32 + s.hart.gid.toNat), 0⟩])) ∧
        (¬ alive ∨ ¬ last →
          g'.phase = g.phase ∧ u.csafree = s.csafree ∧ u.events = s.events ∧ g'.lists.length = g.lists.length ∧
          ∀ l ∈ g'.lists, ∀ t ∈ l.tokens, t.dev = m.dev → t.ser ≠ s.hart.ser)) ∧
    (¬ AllPerformed s → Yields .gexit s (Waits .gexit s))

/-- R336, R338, R340: ALLOW exchanges the mask of the hart's own world, GRANT adds a world of 1 to 1,023 that is open,
not the own one and not granted, while fewer than 8 are granted, and returns 0; REVOKE removes a granted one at
once, and returns 0 when no access under the grant is outstanding, until when it waits. A grant or revocation that
breaks this, and each of them from world 0, returns 1 and changes nothing. What is outstanding is the model's
usesKey: captured slot words, packets, held writes and pending stores of the other world; that a revocation which
waits is remembered is its choice (log entry 114). R339: LOG writes the number of entries of the log, the number
lost, 56 zero bytes and the entries, with their two zero bytes, to its buffer of 4,160 bytes, empties the log and
returns the number of entries. The time of an entry is a free value (log entry 8); that a hart in handler mode
counts as one of world 0 here too is the model's reading (log entry 51). R337, R328: REPORT writes the report of the
hart's world over its buffer, keeps the nonce in its first 32 bytes, creates a new report key pair whose public key
it holds, signs the first 216 bytes with the device's attestation key, and returns 0. The measures of firmware and
settings are free values of what they measure (log entry 8), the nonce of the signature is one (log entry 7), the
algorithms are those of their standards (log entry 13), and what world 0 reports is the model's reading (log entry
60). -/
def Obligations.WorldSettings : Prop :=
  Claims.WorldSettings ∧ Claims.DisclosureLog ∧ Claims.WorldReport

/-- R324, R341, R342: OPEN of a block that keeps its rules creates an open world with version 0 of its key, its device
list and its queue, everything else empty, and returns 0; code 2 for a block that breaks them, and 1 for a world
that is open. R343: NEWVER creates a version of 1 to 4,095 of an open world's key that it does not have, and returns
0; code 2 for a block that breaks its rules, 1 for a world that is not open, also one above 1,023 (log entry 63), 3
for a version that exists. R345: CLOSE of an open world with no hart and no gang destroys it and every grant to it,
and returns 0; otherwise it returns 1. A block whose reserved bytes are not zero (R341) answers 2, and a world
number above 1,023 answers 1: both are the model's (log entry 63). -/
def Obligations.WorldLife : Prop :=
  Claims.WorldOpening ∧ Claims.KeyVersions ∧ Claims.WorldClosing

/-- R344, R331, R326, R409: PLACE of a section that keeps its rules, into an open world under a ready version of its
key, stores its bytes and then its zeros, encrypted under that version from its slot offset on, extends the
measurement of the world's image and returns 0; the codes are 2, 1 and 3. That every PLACE extends the measurement
(log entry 64), what counts as memory of the device (log entry 65), and code 1 for a number that no world can have
(log entry 63) are the model's readings. That a scratchpad region which it reads becomes world 0's first, as R326
has it for a hart's own reads, is the model's (log entry 117, beforePlain); a source at the host waits for its
answer. R346, R348 to R350, R402: SEAL accepts a load into a ready and unused version of an open world, whose
version is pending from then on, and INSTALL an installation into a free entry of the store with room; both return 0
and queue a job. The other codes are 2, 1, 3 and 8. The tables in which a version counts as used (versionUsed, log
entry 66), the number of shards that a length asks for (log entry 67), what counts as memory of the device (log
entry 65) and code 1 for a number that no world can have (log entry 63) are the model's readings, as is that
scratchpad regions in which a block's manifest or wrapped key lies become world 0's first (log entry 117). R350:
ERASE removes the store entry of its number and returns 0, or returns 8 where there is none. That a block whose
reserved bytes are not zero answers 2 is the model's (log entry 63). R342, R346 to R350: a completed key exchange
makes a device of the world ready; a sealed load that ends leaves its version usable with code 0, or destroys it
with another code, which LSTAT and the interrupt hold; an installation that ends adds its entry with code 0, and
leaves the store as it is otherwise. -/
def Obligations.SealedModels : Prop :=
  Claims.SectionPlacing ∧ Claims.SealedLoads ∧ Claims.StoreErasure ∧ Claims.SealedEnds

/-- R137, R214, R216, R220, R246, R247, R264, R279, R290, R316, R380: the step that ends a wait runs the waiting
instruction again, with its effect of that moment, as the word was fetched (log 127, the model's choice); a `wfe` whose
time is over returns 0. -/
def Obligations.WaitEnds : Prop :=
  ∀ (s : State) (ser : BitVec 16) (a b d : BitVec 5) (k : BitVec 4) (q : BitVec 3),
    EndsWait s ser (.svlWPass ser) (.svlW d a) (.svlW d a) ∧
    EndsWait s ser (.kwaitReturn ser) (.kwait a b k) (.kwait a b k) ∧
    EndsWait s ser (.qrdReturn ser) (.qrd q a) (.qrd q a) ∧
    EndsWait s ser (.wmarkPublish ser) (.wmark a) (.wmark a) ∧
    EndsWait s ser (.gwaitReturn ser) (.gwait a b) (.gwait a b) ∧
    EndsWait s ser (.gexitComplete ser) .gexit .gexit ∧
    ((s.focus ser).hart.world0 = true → EndsWait s ser (.slotsyncComplete ser) .slotsync .slotsync) ∧
    (b ≠ 0 → a ≠ b → EndsWait s ser (.wlpopReturn ser) (.wlpop a b) (.wlpop a b)) ∧
    ((s.focus ser).hart.iw.getLsbD 1 = true → EndsWait s ser (.fenceDrained ser) .fenceVs .fence) ∧
    ((s.focus ser).hart.iw.getLsbD 1 = false → EndsWait s ser (.fenceDrained ser) .fence .fence) ∧
    ∀ h, s.findHart ser = some h → h.life = .running → h.wait = some (.wfe d a) →
      (s.focus ser).hart.xr a ≠ 0 →
      Yields (.wfeTimeout ser) s (ActsAs s ser fun f v => WritesX d 0 none (woken f) v)

/-- R362, R363, R367: the oldest event is delivered to a running hart of world 0 that accepts events, as a trap with the
event's cause, detail and value, and leaves the queue; OVF tells whether one was lost. With no handler, no event or
no such hart nothing happens. Of several such harts the one of the lowest serial number takes it. R265, R269, R272,
R273: a granted share becomes pending; the end of a quantum asks for a pre-emption, or ends the domain slice of the
hart's gang, whose harts are switched out; a round begins when every runnable hart has had its quanta; the oldest
entry that can issue is aged; a device is ready for a slice where nothing is in its way, and a slice that has not
begun is forfeited, with the slice-late event when the device was late. Rounds and quanta are the model's steps (log
87), as are the parts of a domain slice (log 89). R30, R272, R358: MICROOP_ISSUE issues the first candidate of the
core in the order of issue that can issue, and does nothing where none can. A younger entry that may go before the
older ones (the model's mayOvertake, log entry 70) performs one element group, or the whole of itself, in its place,
and stays in the queue with its START advanced or complete; the oldest entry that is complete already leaves the
queue, and with it nothing else happens. -/
def Obligations.EventsAndScheduling : Prop :=
  Claims.EventDelivery ∧ Claims.Scheduling ∧ Claims.IssueOrder

/-- R268, R273, R363, R370, R373, R374: a requested pre-emption or hold, a switch-out, and the expiry of the grace of a
smaller share switch the hart out; a hart in handler mode is not switched out, but keeps the request; a hart of a
gang in its domain slice is switched out for no hold and by no choice of the scheduler. That a reduction is dropped
at once in handler mode, and that the switches are the scheduler's steps, is the model's (logs 88, 87), as is that a
hold waits for the slice to end (log 89). R374, R375: a descheduled hart whose gang runs, with a slot and a share
free on its core and its turn in the round, runs again with the context of its CSA, its vector state in lanes; where
those must be vacated it takes the vector-switch trap, at the saved pc, with the CSA that holds them. Which lanes is
the model's assign (log 14). -/
def Obligations.ContextSwitch : Prop :=
  Claims.SwitchingOut ∧ Claims.SwitchingIn

/-- R259 to R263, R274, R372: placement gives the next member of this device a hart, with its identity and its CSA; the
start barrier starts a gang that is placed, or retires one whose device is unreachable with status 4; a barrier at
which every live member has arrived, as the arrivals are kept (log 55), moves to its next epoch. A retirement with
status 4 posts no event (log 58), the lowest free serial number is taken (log 54), and the worlds take turns upwards
by number (log 133): the model's choices. R287 to R289: a detection starts where a pop waits on a quiet device and
decides DONE when its second wave finds the same sums; a balancing step moves the lowest task of FROM to TO, where a
pop waits; spilled tasks near F come back when the units have room and their records pass, and one whose record
fails is dropped with LOST. The reading of a record is the model's readRecord (log 46); that pops that wait on other
devices count as the model is told of them is log 48. -/
def Obligations.GangAndWorklistSteps : Prop :=
  Claims.GangSteps ∧ Claims.WorklistSteps

/-- R180, R186 to R188: a searched shard keeps its result; a query whose shards are all searched writes its record of 32
+ 8K bytes, and a product y[i] for each of its rows; both then leave flight and set their completion bit, once no
forwarding entry holds what they have written (R318). The search, the record's bytes and the canonical sum are the
model's functions search, record and dot. R195, R245, R318: a finished row copy, which no forwarding entry holds any
of, leaves the rows of its list, in order, in the row area of the half; a finished piece of a block transfer leaves
its bytes at its destination and sets its bit; the last piece ends the job. -/
def Obligations.EngineCompletions : Prop :=
  Claims.TicketsComplete ∧ Claims.CopiesComplete

/-- R205, R206, R221, R333, R335: a write-back makes a dirty line clean and changes no byte; a fill whose line passes
its check only counts, and one that fails quarantines a tenant; a line that an uncached slot covers is not filled. A
packet performs its writes, here under KEYID 0, once no earlier packet of its stream to its device is in flight and
its instruction is complete; that a packet leaves only then is the model's (log 124), as is that a line is checked
under the first slot that covers it, and one without a slot not filled (log 92). R396: a completion answers the
access or the fetch that waits for the host, a timeout answers it with an error, a failed write is reported with its
bus address, and the link goes down and up. That a scalar access is answered before the queue's is the model's
choice (log 23), as is that the completions of an access make one answer (log 11). -/
def Obligations.MemorySideAndHostLink : Prop :=
  Claims.MemorySide ∧ Claims.HostLink

/-- R384, R387, R390: a corrected error is reported at once with the line that it affects, or held back while its unit's
millisecond runs, whose end posts the number held back; a failed run of self-test retires its unit with a report of
KIND 3, and the third passed run in a row reports KIND 2. That the first is reported at once, and a report names the
last line held back, is the model's choice (log 94). R387, R388, R390, R394, R401: a unit that fails its self-test
is retired and reported with KIND 3, and its retirement takes its effect: a lane group is assigned no more, CAP of
its core's harts falls, and the hart that it serves is to be held; a slice link takes the port down; a compute die
loses its harts and what its slices hold dirty; a root port loses its extents. R385, R386, R390: the loss of a
hart's registers quarantines the context; a lost line of memory changes no byte and fails every later fill (log
126), until a write of it as a whole: one of a part of it fails. The loss of a scratchpad region clears it; a lost
task counts as retired and sets LOST; a lost dirty line is reported and leaves memory at what was last written back,
and under a key it quarantines the harts of the world and faults the world; a lost clean line counts as corrected. -/
def Obligations.HardwareErrors : Prop :=
  Claims.CorrectedErrors ∧ Claims.UnitRetirement ∧ Claims.UncorrectableErrors

/-- R384, R390 to R394: the receiver delivers a flit that is whole and whose check bits pass under the number that it
expects, and under no other, while it has room, and rejects every other one; one that is changed in up to 64 bits fails, and
counts as a corrected error of a link that changed it. A NAK and a timeout replay the flits kept, an acknowledgement frees
them, a new window lets waiting flits go; retraining replays, or takes the port down when a link does not work: contexts
with packets in flight or of domain gangs that run are quarantined, and it is reported. Management brings the port up again
as after reset, with the key exchanges across it void (logs 99, 6). The model's choices: an acknowledgement for each flit
delivered, the replay count (log 100), the layout of a flit's words, its room, and what the check finds (log 98). -/
def Obligations.FabricPort : Prop :=
  ∀ (s : State), let l := s.link
    (l.up = true → l.training = false →
      (∀ d data check damage, arriving data check damage = flitWords l.expect d → damagedLinks damage = [] →
        let alone := ∀ m, m ≠ l.expect → Config.crc64 d m ≠ Config.crc64 d l.expect
        (alone → l.room = 0 → Yields (.flitReceive data check damage) s fun u => u = s) ∧
        (l.room ≠ 0 → Yields (.flitReceive data check damage) s fun u => (alone →
          u = { s with link := { l with
                         expect := l.expect + 1, discard := false, room := l.room - 1
                         delivered := l.delivered ++ [d] }
                       outbox := s.outbox ++ [.ack l.expect] }) ∧ (¬ alone → Rejects s u))) ∧
      (∀ data check damage, (∀ d, arriving data check damage ≠ flitWords l.expect d) → damagedLinks damage = [] →
        Yields (.flitReceive data check damage) s (Rejects s)) ∧
      (∀ data check damage k rest, damagedLinks damage = k :: rest → rest.length < 64 →
        Yields (.flitReceive data check damage) s fun u =>
          Yields (.correctedError 10 ⟨BitVec.ofNat 16 k, none⟩) s fun v =>
            if v.link.up = true ∧ v.link.training = false then Rejects v u else u = v) ∧
      (∀ pre x post, l.retry = pre ++ x :: post → (∀ y ∈ pre, y.1 ≠ x.1) →
        Yields (.nakReceive (x.1 - 1)) s (Replays x post s) ∧
        Yields (.ackReceive x.1) s (SendsWaiting
          { l with retry := post, replays := l.replays.filter fun p => post.any fun q => q.1 == p.1 } [] s)) ∧
      (∀ w, Yields (.readyWindowReceive w) s (SendsWaiting { l with window := w } [] s)) ∧
      (∀ x post, l.retry = x :: post → Yields .replayTimeout s (Replays x post s)) ∧
      ∀ ok, Yields (.portRetrain ok) s fun u => u = s) ∧
    (l.up = true → l.training = true →
      let work := ∀ k, (10, k) ∉ s.retired
      (l.retry ≠ [] → work → Yields (.portRetrain true) s
        (SendsWaiting { l with training := false, replays := [] } [.replay (l.retry.map fun p => flitWords p.1 p.2)] s)) ∧
      (∀ ok, (ok = false ∨ ¬ work) → Yields (.portRetrain ok) s fun u =>
        u.link.up = false ∧ u.link.retry = [] ∧ u.packets = [] ∧
        (∃ k, k < 36 ∧ u.errorLog = s.errorLog ++
          [⟨0x8000000000008007, BitVec.ofNat 64 (10 * 2 ^ 56 + 4 * 2 ^ 48 + k * 2 ^ 32 + 1), 0⟩]) ∧
        (∀ g, s.gang g.gid = some g → s.farGang g = true → g.phase ≠ .started →
          ∃ g', u.gang g.gid = some g' ∧ g'.phase = .retired 4) ∧
        ∀ h ser g, s.findHart ser = some h → s.gang h.gid = some g → g.phase = .started →
          (s.hart :: s.others).Pairwise (fun x y => x.ser ≠ y.ser) → (∀ x ∈ s.gangs, x.gid = h.gid → x = g) →
          (∃ p ∈ s.packets, p.stream = .scalar ser ∨ p.stream = .vector ser) ∨ s.farGang g = true →
          ∃ h' ∈ u.hart :: u.others, h'.ser = ser ∧ h'.life = .quarantined)) ∧
    (l.up = false →
      ((∀ k, (10, k) ∉ s.retired) → Yields .portUp s fun u =>
        u = { reported s u with link := { Link.reset with delivered := l.delivered }
                                worlds := s.worlds.map fun w => { w with ready := w.ready.filter (· == s.devIndex) } } ∧
        ∃ k, k < 36 ∧ Reports 10 5 k 1 0 s u) ∧
      ((∃ k, (10, k) ∈ s.retired) → Yields .portUp s fun u => u = s))

/-- R399 to R401: an offered extent takes a free entry; the manager accepts it where it overlaps no other, declines it,
releases a mapped one and frees a withdrawn one; the fabric manager asks for a release, which completes once no work
is in flight to the extent; a forced release withdraws it, its dirty lines are lost and the contexts that own one
(log 97), or have work in flight to it (as the model judges it, log 96), are quarantined; the failure of a root port
withdraws every extent of the port. R317, R318, R372, R373, R397: MODE of a forwarding entry moves from 0 to 1, from
1 to 2 and from 2 to 0; the move to 2 applies the writes that the entry has held at NEW, in the order in which they
came; a multiple of 64 written to CSAFREE joins the free list; a hold is requested of a running hart and takes
effect at once on a saved one, and a release ends it (log 26); an MSI-X vector below 64 is raised. -/
def Obligations.CapacityAndDeviceWindow : Prop :=
  Claims.CapacityTier ∧ Claims.DeviceWindow

/-- R397, R402, R404 to R406: the clock moves in steps of 100 MHz between 800 and 2,000 MHz; a power limit of 1,200 W to
3,600 W is taken; a signed firmware image of no lower version waits for the next reset; the fuses, the error log and
the retirement map are read; a thermal alarm at 800 MHz quarantines the contexts of its die; away from 800 MHz it
does nothing, which is the model's choice (log 102). R338, R339: a counter of a class that the world's allow-list
permits is given; any other is withheld, returns 0 and enters the world's log, which keeps its newest 256 entries. A
class above 6 is withheld and logged as the others: the model's choice (log 101). -/
def Obligations.ManagementInterface : Prop :=
  Claims.Management ∧ Claims.CounterDisclosure

/-- R366: a reset leaves no hart, gang, world or key, every device register at its reset value, the scratchpads clear and the
rest of memory as it was, and awaits BOOT; BOOT places a good image over the host link, its sections, slot table, PHYS64
values and CSA, and refuses any other; the boot hart then starts in world 0 at the entry of the first group, with HVEC 0
and HTAB at the image's slot table. What is a good image is the model's imageGood (logs 91, 118 to 120); that a reset
keeps the bytes of HBM is log 90. -/
def Obligations.Booting : Prop :=
  ∀ (s : State),
    (Memory.wf s.mem = true → Yields .reset s fun u =>
      u = { State.reset with
        mem := u.mem, macs := s.macs, lost := s.lost, retired := s.retired, errorLog := s.errorLog, fuses := u.fuses
        powerLimit := s.powerLimit, tempLimit := s.tempLimit, powerState := s.powerState
        fwActive := match s.fwInactive with | some f => f | none => s.fwActive
        fwMinimum := s.fwMinimum, outbox := s.outbox, hostUp := s.hostUp, link := u.link, devIndex := s.devIndex
        domain := s.domain, farLists := s.farLists, draws := s.draws, store := s.store, agenda := s.agenda
        tick := s.tick } ∧
      u.link = { Link.reset with up := s.link.up } ∧
      u.hart.life = .absent ∧ u.others = [] ∧ u.gangs = [] ∧ u.worlds = [] ∧ u.tickets = [] ∧ u.jobs = [] ∧
      u.copies = [] ∧ u.packets = [] ∧ u.held = [] ∧ u.events = [] ∧ u.csafree = [] ∧ u.seals = [] ∧ u.owners = [] ∧
      u.hvec = 0 ∧ u.htab = 0 ∧ u.schedcfg = State.reset.schedcfg ∧ u.cthr = State.reset.cthr ∧
      (∀ e ∈ u.fwd.toList, e.mode = 0) ∧ (∀ e ∈ u.extents.toList, e = .free) ∧ u.slotCache = [] ∧ u.slotPast = [] ∧
      u.icache = [] ∧ u.pages = [] ∧ u.clock = 2000 ∧ u.boot = .awaiting ∧
      (∀ x, x < 2 ^ 52 → Bytes.get u.mem x = Bytes.get s.mem x) ∧ ∀ x, 2 ^ 52 ≤ x → Bytes.get u.mem x = 0) ∧
    (∀ image, s.boot = .awaiting →
      (s.hostUp = true → imageGood image = true → Memory.wf s.mem = true → Yields (.boot image) s fun u =>
        let b := bootPlaces image
        u = { s with mem := u.mem, macs := u.macs, lost := u.lost, boot := u.boot } ∧
        u.boot = .placed (BitVec.ofNat 64 b.table) (BitVec.ofNat 52 b.csa) (b.gang.take 32) ∧ ImagePlaced b s u) ∧
      (s.hostUp = false ∨ imageGood image = false → Yields (.boot image) s fun u =>
        u = { s with outbox := s.outbox ++ [.bootRefused] })) ∧
    (∀ image, s.boot ≠ .awaiting → Yields (.boot image) s fun u => u = s) ∧
    ∀ table csa desc, s.boot = .placed table csa desc → Yields .bootHartStart s fun u =>
      u = { s with
        boot := .running, gangs := u.gangs, handles := 1, htab := table, hvec := 0, hart := u.hart, mem := u.mem
        macs := u.macs, lost := u.lost } ∧
      (Memory.wf s.mem = true → ∀ x, x < csa.toNat ∨ csa.toNat + contextBytes ≤ x →
        Bytes.get u.mem x = Bytes.get s.mem x) ∧
      u.hart.life = .running ∧ u.hart.wid = 0 ∧ u.hart.ser = 0 ∧ u.hart.core = 0 ∧ u.hart.gid = 1 ∧ u.hart.rank = 0 ∧
      u.hart.csa = csa ∧ u.hart.slottab = table ∧ u.hart.hm = false ∧ (∀ r, u.hart.xr r = 0 ∧ u.hart.tagOf r = none) ∧
      (∀ sw, s.slotWord table.toNat (s.tabCode table.toNat).toNat = some sw →
        u.hart.pc = BitVec.ofNat 64 (sw.lo + fieldOfBytes desc 20 4)) ∧
      ∃ g, u.gangs = [g] ∧ g.gid = 1 ∧ g.phase = .started ∧ g.wid = 0 ∧
        g.members.map (fun m => (m.rank, m.dev, m.role.toNat, m.weight.toNat, m.entry.toNat)) =
          [(0, s.devIndex, fieldOfBytes desc 18 1 % 4, fieldOfBytes desc 19 1, fieldOfBytes desc 20 4)]

/-- R366, R259, R134, R160, R206, R266: the values the spec gives at reset and to a launched hart. That memory which
nothing has written reads as zero is the model's choice (log 3), as are the lists of absent harts (log 2). -/
def Obligations.ResetState : Prop :=
  let s := State.reset
  s.memOk = true ∧ (∀ a, Bytes.get s.mem a = 0) ∧
  s.hart.life = .absent ∧ s.others = [] ∧ s.gangs = [] ∧ s.worlds = [] ∧ s.csafree = [] ∧ s.events = [] ∧
  s.eventLost = false ∧ s.hvec = 0 ∧ s.boot = .awaiting ∧
  (∀ p, tblGet 0 s.pages p = 0) ∧
  (∀ j : Fin 64, s.fwd[j] = .free) ∧
  ∀ (t : State) (g : Gang) (m : Member) (ser : BitVec 16) (core : BitVec 8) (csa : BitVec 52),
    let h := t.newHart g m ser core csa
    (∀ r, h.xr r = 0 ∧ h.tagOf r = none) ∧ (∀ r : Fin 32, h.vreg[r].img = []) ∧ (∀ r : Fin 12, h.kreg[r] = []) ∧
    (∀ r : Fin 8, h.tile[r] = []) ∧ h.vtype = 0x8000000000000000 ∧ h.tshp = 0x8000000000000000 ∧
    h.vl = 0 ∧ h.vstart = 0 ∧ h.frm = 0 ∧ h.fflags = 0 ∧ h.seed = 0 ∧ h.wcons = 0 ∧ h.btctl = 0 ∧ h.pfx = 0 ∧
    h.last = none ∧ h.issue = 0 ∧ (∀ q : Fin 8, h.streams[q] = .unbound) ∧ h.share = 0 ∧
    h.pv = true ∧ h.pend.toNat = min m.weight.toNat (t.capOf core).toNat ∧ h.ser = ser ∧ h.rank = BitVec.ofNat 12 m.rank

/-- R18, R36, R211: a step at a word that decodes executes the instruction, after the pending stores of the hart where
it may not go before them; the fetch from local memory changes nothing but page counts. A hart that has an answer
goes on with it; one that waits lets a micro-operation issue, or fetches its instruction again (log 127). An
occurrence of the agenda comes first, and no step stops the machine. The agenda (log 1), which instructions may go
before pending stores (log 19), whose turn comes next and the room of a slice (log 141) are the model's. R18, R20,
R32, R306, R360, R361, R385: a misaligned pc traps before any fetch; a pc outside the code, a word that decodes to
nothing, a fetch that the host fails, and a line that work in flight has found failing (log 140) trap at the fetch;
a word that may not follow a stirrup word traps at the stirrup word, unless it takes a trap of its own first (log
122). A tenant takes the fault so for the details that do not quarantine it. -/
def Obligations.StepRunsDecoded : Prop :=
  Claims.StepRunsDecoded ∧ Claims.FetchTraps

/-- Every step keeps the canonical form of memory. -/
def Obligations.StepKeepsMemory : Prop := ∀ s t, s.memOk = true → step s = .next t → t.memOk = true

/-- R22, R50: the decoder reads back every instruction that has a word; what it reads is well formed, and is written
back as the same word; the halves of a pair word are read in their order. -/
def Obligations.DecodeEncode : Prop :=
  (∀ i w, i.wf = true → encode i = some w → decode false w = .ok i) ∧
  (∀ i w, decode false w = .ok i → i.wf = true ∧ (w.toNat / 2 ^ 26 ≠ 63 → encode i = some w)) ∧
  ∀ i j w, encodePair i j = some w → decode false w = .ok i ∧ decode true w = .ok j

/-- The worked encodings of the spec, and words that it says are refused. -/
def Obligations.DecodeWords : Prop :=
  decode false 0x0509500E = .ok (.mulhu 8 9 10) ∧
  decode false 0x04A60013 = .ok (.clz 5 6) ∧
  decode false 0x08642805 = .ok (.fmad 3 4 5) ∧
  decode false 0x098B0010 = .ok (.fcvtld 12 11) ∧
  decode false 0x24C6003F = .ok (.srai 6 6 63) ∧
  decode false 0x28010000 = .ok (.jalr 0 1 0) ∧
  decode false 0x59212000 = .ok (.lui 9 0x12000) ∧
  decode false 0x78E0FFFC = .ok (.bcnt 7 0xFFFC) ∧
  decode false 0x44ED0000 = .ok (.ld 7 13 0) ∧
  decode false 0x48AAFFFF = .ok (.sb 5 10 0xFFFF) ∧
  decode false 0x0CAA0900 = .ok (.amoadd 5 10 1 1) ∧
  decode false 0x0CCA3B07 = .ok (.amocas 6 10 7 3) ∧
  decode false 0xD0005001 = .ok (.lslot 10 0 1) ∧
  decode false 0xD0013281 = .ok (.pchk 6 10 1) ∧
  decode false 0xD0024A80 = .ok (.ptag 9 10) ∧
  decode false 0xD0036A80 = .ok (.pstrip 13 10) ∧
  decode false 0xD0050000 = .ok .slotsync ∧
  decode false 0xD4052900 = .ok (.svl 5 4) ∧
  decode false 0xA0281216 = .ok (.vmvx 0 0 5 9) ∧
  decode false 0xA1088613 = .ok (.vcmplt 0 1 1 2 3) ∧
  decode false 0xA420460C = .ok (.vfsmul 0 0 4 1 3) ∧
  decode false 0xAA408000 = .ok (.vfcvt 1 0 8 2) ∧
  decode false 0xA8311008 = .ok (.vtopk 0 0 6 4 8) ∧
  decode false 0xAC104005 = .ok (.kbefore 0 0 2 1) ∧
  decode false 0xD40A4080 = .ok (.kpop 8 2) ∧
  decode false 0xB8531C41 = .ok (.mmadd 0 0 10 12 14 0) ∧
  decode false 0xB2229002 = .ok (.vldx 1 0 4 10 8 0) ∧
  decode false 0xB41A9781 = .ok (.vsts 0 0 3 10 11 3) ∧
  decode false 0xB8329027 = .ok (.vamocas 0 0 6 10 8 0 4) ∧
  decode false 0xBE00F800 = .ok (.tshp 1 31) ∧
  decode false 0xBE022002 = .ok (.mopk 1 0 0 2 4) ∧
  decode false 0xBC2C0006 = .ok (.mrow 0 0 1 12) ∧
  decode false 0xC02E0000 = .ok (.qbind 0 11 16) ∧
  decode false 0xC029E602 = .ok (.btgather 10 15 3) ∧
  decode false 0xC002E605 = .ok (.kwait 0 23 3) ∧
  decode false 0xC414C400 = .ok (.nsq 5 6 2) ∧
  decode false 0xC4212602 = .ok (.hcmv 8 9 3) ∧
  decode false 0xC4298005 = .ok (.hcrank 10 12) ∧
  decode false 0xCC154000 = .ok (.glaunch 5 10) ∧
  decode false 0xCC280403 = .ok (.xred 10 2) ∧
  decode false 0xCC000005 = .ok .gexit ∧
  decode false 0xBC000009 = .error .unassignedFn ∧ decode false 0xBD000004 = .error .unusedField ∧ decode false 0xCC000006 = .error .unassignedFn ∧ decode false 0x00000000 = .error .reservedMajor
end

