-- ==== Sys2Proof/Laws/Bytes.lean ====
section
/-! SUPPORT. Laws of sparse bytes: the canonical form as order and absence of zeros, that every operation keeps it,
and what a read sees after a write. -/

namespace Sys2Proof.Machine

/-- The canonical form says: positions strictly rise, and no byte is 0. -/
theorem Memory.wf_iff (m : Bytes) :
    Memory.wf m = true ↔ m.Pairwise (fun c d => c.1 < d.1) ∧ ∀ c ∈ m, c.2 ≠ 0 := by
  induction m with
  | nil => simp [Memory.wf]
  | cons c t ih =>
    cases t with
    | nil => simp [Memory.wf]
    | cons d t =>
      rw [Memory.wf, Bool.and_eq_true, Bool.and_eq_true, ih]
      constructor
      · rintro ⟨⟨hc, hlt⟩, hp, hz⟩
        have hlt : c.1 < d.1 := by simpa using hlt
        refine ⟨List.pairwise_cons.2 ⟨?_, hp⟩, ?_⟩
        · intro e he
          rcases List.mem_cons.1 he with rfl | he
          · exact hlt
          · exact Nat.lt_trans hlt ((List.pairwise_cons.1 hp).1 e he)
        · intro e he
          rcases List.mem_cons.1 he with rfl | he
          · simpa using hc
          · exact hz e he
      · rintro ⟨hp, hz⟩
        have h := List.pairwise_cons.1 hp
        refine ⟨⟨by simpa using hz c (by simp), by simpa using h.1 d (by simp)⟩, h.2, fun e he => hz e (by simp [he])⟩

theorem Memory.wf_nil : Memory.wf [] = true := rfl

/-- A part of canonical bytes is canonical. -/
theorem Memory.wf_sublist {m n : Bytes} (h : n.Sublist m) (hm : Memory.wf m = true) : Memory.wf n = true := by
  rw [Memory.wf_iff] at *
  exact ⟨hm.1.sublist h, fun c hc => hm.2 c (h.subset hc)⟩

/-- Canonical bytes one after the other are canonical. -/
theorem Memory.wf_append {m n : Bytes} (hm : Memory.wf m = true) (hn : Memory.wf n = true)
    (h : ∀ c ∈ m, ∀ d ∈ n, c.1 < d.1) : Memory.wf (m ++ n) = true := by
  rw [Memory.wf_iff] at *
  refine ⟨List.pairwise_append.2 ⟨hm.1, hn.1, h⟩, fun c hc => ?_⟩
  rcases List.mem_append.1 hc with hc | hc
  · exact hm.2 c hc
  · exact hn.2 c hc

/-- The listed cells of a block lie in it. -/
theorem Bytes.mem_cells {a : Nat} {bs : List Byte} {c : Host.Cell} (h : c ∈ Bytes.cells a bs) :
    a ≤ c.1 ∧ c.1 < a + bs.length ∧ c.2 ≠ 0 ∧ bs[c.1 - a]? = some c.2 := by
  induction bs generalizing a with
  | nil => simp [Bytes.cells] at h
  | cons b t ih =>
    have step : c ∈ Bytes.cells (a + 1) t →
        a ≤ c.1 ∧ c.1 < a + (b :: t).length ∧ c.2 ≠ 0 ∧ (b :: t)[c.1 - a]? = some c.2 := by
      intro h
      obtain ⟨h1, h2, h3, h4⟩ := ih h
      refine ⟨by omega, by simp only [List.length_cons]; omega, h3, ?_⟩
      have : c.1 - a = c.1 - (a + 1) + 1 := by omega
      rw [this, List.getElem?_cons_succ]
      exact h4
    unfold Bytes.cells at h
    split at h
    · exact step h
    · rename_i hb
      rcases List.mem_cons.1 h with rfl | h
      · exact ⟨Nat.le_refl _, by simp, hb, by simp⟩
      · exact step h

/-- Every byte of a block that is not 0 is listed. -/
theorem Bytes.cells_mem {bs : List Byte} {i : Nat} {b : Byte} (a : Nat) (h : bs[i]? = some b) (hb : b ≠ 0) :
    (a + i, b) ∈ Bytes.cells a bs := by
  induction bs generalizing a i with
  | nil => simp at h
  | cons x t ih =>
    cases i with
    | zero =>
      simp only [List.getElem?_cons_zero, Option.some.injEq] at h
      subst h
      unfold Bytes.cells
      rw [if_neg hb]
      simp
    | succ i =>
      have := ih (a + 1) (by simpa using h)
      have e : a + (i + 1) = a + 1 + i := by omega
      unfold Bytes.cells
      split
      · rw [e]; exact this
      · rw [e]; exact List.mem_cons_of_mem _ this

theorem Bytes.cells_wf (a : Nat) (bs : List Byte) : Memory.wf (Bytes.cells a bs) = true := by
  rw [Memory.wf_iff]
  refine ⟨?_, fun c hc => (Bytes.mem_cells hc).2.2.1⟩
  induction bs generalizing a with
  | nil => simp [Bytes.cells]
  | cons b t ih =>
    unfold Bytes.cells
    split
    · exact ih _
    · exact List.pairwise_cons.2 ⟨fun d hd => by have := (Bytes.mem_cells hd).1; simp only; omega, ih _⟩

/-- The cells below a bound lie below it. -/
theorem Bytes.below {m : Bytes} {a : Nat} {c : Host.Cell} (h : c ∈ m.takeWhile fun c => decide (c.1 < a)) : c.1 < a := by
  simpa using List.mem_takeWhile_imp h

/-- In canonical bytes the cells after those below a bound lie at or above it. -/
theorem Bytes.above {m : Bytes} (hm : Memory.wf m = true) {a : Nat} {c : Host.Cell}
    (h : c ∈ m.dropWhile fun c => decide (c.1 < a)) : a ≤ c.1 := by
  rw [Memory.wf_iff] at hm
  obtain ⟨hp, -⟩ := hm
  induction m with
  | nil => simp at h
  | cons d t ih =>
    have hd := List.pairwise_cons.1 hp
    rw [List.dropWhile_cons] at h
    split at h
    · exact ih h hd.2
    · rename_i hlt
      have hlt : ¬ d.1 < a := by simpa using hlt
      rcases List.mem_cons.1 h with rfl | h
      · omega
      · have := hd.1 c h; omega

/-- A write keeps the canonical form. -/
theorem Bytes.write_wf {m : Bytes} (a : Nat) (bs : List Byte) (hm : Memory.wf m = true) :
    Memory.wf (Bytes.write m a bs) = true := by
  unfold Bytes.write
  refine Memory.wf_append (Memory.wf_append (Memory.wf_sublist (List.takeWhile_sublist _) hm) (Bytes.cells_wf a bs) ?_)
    (Memory.wf_sublist (List.dropWhile_sublist _) hm) ?_
  · intro c hc d hd
    have h1 := Bytes.below hc
    have h2 := (Bytes.mem_cells hd).1
    omega
  · intro c hc d hd
    have hd := Bytes.above hm hd
    rcases List.mem_append.1 hc with hc | hc
    · have := Bytes.below hc; omega
    · have := (Bytes.mem_cells hc).2.1; omega

/-- Clearing keeps the canonical form. -/
theorem Bytes.clear_wf {m : Bytes} (a n : Nat) (hm : Memory.wf m = true) : Memory.wf (Bytes.clear m a n) = true := by
  unfold Bytes.clear
  refine Memory.wf_append (Memory.wf_sublist (List.takeWhile_sublist _) hm)
    (Memory.wf_sublist (List.dropWhile_sublist _) hm) ?_
  intro c hc d hd
  have h1 := Bytes.below hc
  have h2 := Bytes.above hm hd
  omega

/-- A number written keeps the canonical form. -/
theorem Bytes.setNum_wf {m : Bytes} (a n v : Nat) (hm : Memory.wf m = true) : Memory.wf (Bytes.setNum m a n v) = true :=
  Bytes.write_wf a _ hm

/-! ### What a read sees -/

theorem Bytes.get_eq_zero {m : Bytes} {a : Nat} (h : ∀ c ∈ m, c.1 ≠ a) : Bytes.get m a = 0 := by
  induction m with
  | nil => rfl
  | cons d t ih =>
    obtain ⟨k, v⟩ := d
    have hk : k ≠ a := h (k, v) (by simp)
    unfold Bytes.get
    rw [if_neg hk]
    split
    · rfl
    · exact ih fun c hc => h c (by simp [hc])

theorem Bytes.get_of_mem {m : Bytes} (hm : Memory.wf m = true) {a : Nat} {v : Byte} (h : (a, v) ∈ m) :
    Bytes.get m a = v := by
  rw [Memory.wf_iff] at hm
  obtain ⟨hp, -⟩ := hm
  induction m with
  | nil => simp at h
  | cons d t ih =>
    obtain ⟨k, w⟩ := d
    have hd := List.pairwise_cons.1 hp
    unfold Bytes.get
    rcases List.mem_cons.1 h with h | h
    · obtain ⟨rfl, rfl⟩ := Prod.mk.inj h
      simp
    · have hlt : k < a := hd.1 (a, v) h
      rw [if_neg (by omega), if_neg (by omega)]
      exact ih h hd.2

/-- A byte is 0, or it is listed. -/
theorem Bytes.get_cases {m : Bytes} (hm : Memory.wf m = true) (a : Nat) :
    Bytes.get m a = 0 ∧ (∀ c ∈ m, c.1 ≠ a) ∨ (a, Bytes.get m a) ∈ m := by
  by_cases h : ∃ c ∈ m, c.1 = a
  · obtain ⟨⟨k, v⟩, hc, rfl⟩ := h
    exact .inr (by rw [Bytes.get_of_mem hm hc]; exact hc)
  · have h : ∀ c ∈ m, c.1 ≠ a := fun c hc he => h ⟨c, hc, he⟩
    exact .inl ⟨Bytes.get_eq_zero h, h⟩

/-- Reads of a part that holds the same cells at a position agree there. -/
theorem Bytes.get_congr {m n : Bytes} (hm : Memory.wf m = true) (hn : Memory.wf n = true) {a : Nat}
    (h : ∀ v, (a, v) ∈ m ↔ (a, v) ∈ n) : Bytes.get m a = Bytes.get n a := by
  rcases Bytes.get_cases hm a with ⟨h0, hz⟩ | hv
  · rw [h0, Bytes.get_eq_zero]
    rintro ⟨k, v⟩ hc rfl
    exact hz _ ((h v).2 hc) rfl
  · exact (Bytes.get_of_mem hn ((h _).1 hv)).symm

theorem Bytes.mem_split {m : Bytes} (a : Nat) (c : Host.Cell) (hm : Memory.wf m = true) :
    (c ∈ (m.takeWhile fun c => decide (c.1 < a)) ↔ c ∈ m ∧ c.1 < a) ∧
      (c ∈ (m.dropWhile fun c => decide (c.1 < a)) ↔ c ∈ m ∧ a ≤ c.1) := by
  have hs := List.takeWhile_append_dropWhile (p := fun c : Host.Cell => decide (c.1 < a)) (l := m)
  constructor
  · constructor
    · intro h
      exact ⟨(List.takeWhile_sublist _).subset h, Bytes.below h⟩
    · rintro ⟨h, hlt⟩
      rw [← hs] at h
      rcases List.mem_append.1 h with h | h
      · exact h
      · have := Bytes.above hm h; omega
  · constructor
    · intro h
      exact ⟨(List.dropWhile_sublist _).subset h, Bytes.above hm h⟩
    · rintro ⟨h, hge⟩
      rw [← hs] at h
      rcases List.mem_append.1 h with h | h
      · have := Bytes.below h; omega
      · exact h

/-- A byte outside the block written reads as before. -/
theorem Bytes.get_write_other {m : Bytes} (hm : Memory.wf m = true) (a : Nat) (bs : List Byte) {x : Nat}
    (h : x < a ∨ a + bs.length ≤ x) : Bytes.get (Bytes.write m a bs) x = Bytes.get m x := by
  refine Bytes.get_congr (Bytes.write_wf a bs hm) hm fun v => ?_
  have h1 := (Bytes.mem_split a (x, v) hm).1
  have h2 := (Bytes.mem_split (a + bs.length) (x, v) hm).2
  simp only [Bytes.write, List.mem_append, h1, h2]
  constructor
  · rintro ((h | hc) | h)
    · exact h.1
    · have := Bytes.mem_cells hc; simp only at this; omega
    · exact h.1
  · intro hv
    rcases h with h | h
    · exact .inl (.inl ⟨hv, h⟩)
    · exact .inr ⟨hv, h⟩

/-- A byte of the block written reads as it was written. -/
theorem Bytes.get_write_same {m : Bytes} (hm : Memory.wf m = true) (a : Nat) (bs : List Byte) {i : Nat} {b : Byte}
    (h : bs[i]? = some b) : Bytes.get (Bytes.write m a bs) (a + i) = b := by
  have hi : i < bs.length := (List.getElem?_eq_some_iff.1 h).1
  have hw := Bytes.write_wf a bs hm
  rcases Bytes.get_cases hw (a + i) with ⟨h0, hz⟩ | hv
  · rw [h0]
    by_cases hb : b = 0
    · exact hb.symm
    · exfalso
      refine hz (a + i, b) ?_ rfl
      have := Bytes.cells_mem a h hb
      simp only [Bytes.write, List.mem_append]
      exact .inl (.inr this)
  · have h1 := (Bytes.mem_split a (a + i, Bytes.get (Bytes.write m a bs) (a + i)) hm).1
    have h2 := (Bytes.mem_split (a + bs.length) (a + i, Bytes.get (Bytes.write m a bs) (a + i)) hm).2
    rw [Bytes.write, List.mem_append, List.mem_append, ← Bytes.write, h1, h2] at hv
    rcases hv with (hv | hc) | hv
    · simp only at hv; omega
    · have := (Bytes.mem_cells hc).2.2.2
      simp only [Nat.add_sub_cancel_left, h, Option.some.injEq] at this
      exact this.symm
    · simp only at hv; omega

/-- A block read is the bytes at its positions. -/
theorem Bytes.read_eq {m : Bytes} (hm : Memory.wf m = true) (a n : Nat) :
    Bytes.read m a n = (List.range n).map fun i => Bytes.get m (a + i) := by
  unfold Bytes.read
  refine List.map_congr_left fun i _ => ?_
  refine Bytes.get_congr (Memory.wf_sublist (List.dropWhile_sublist _) hm) hm fun v => ?_
  have := (Bytes.mem_split a (a + i, v) hm).2
  rw [this]
  exact ⟨fun h => h.1, fun h => ⟨h, by simp only; omega⟩⟩

theorem Bytes.read_length (m : Bytes) (a n : Nat) : (Bytes.read m a n).length = n := by simp [Bytes.read]

/-- What has been written is read back. -/
theorem Bytes.read_write {m : Bytes} (hm : Memory.wf m = true) (a : Nat) (bs : List Byte) :
    Bytes.read (Bytes.write m a bs) a bs.length = bs := by
  rw [Bytes.read_eq (Bytes.write_wf a bs hm)]
  refine List.ext_getElem (by simp) fun i h1 h2 => ?_
  rw [List.getElem_map, List.getElem_range]
  exact Bytes.get_write_same hm a bs (List.getElem?_eq_getElem h2)

/-- A block apart from the block written is read as before. -/
theorem Bytes.read_write_other {m : Bytes} (hm : Memory.wf m = true) (a : Nat) (bs : List Byte) (x n : Nat)
    (h : x + n ≤ a ∨ a + bs.length ≤ x) : Bytes.read (Bytes.write m a bs) x n = Bytes.read m x n := by
  rw [Bytes.read_eq (Bytes.write_wf a bs hm), Bytes.read_eq hm]
  refine List.map_congr_left fun i hi => ?_
  have := List.mem_range.1 hi
  exact Bytes.get_write_other hm a bs (by omega)

end Sys2Proof.Machine
end

