-- ==== Sys2Proof/Laws/State.lean ====
section
/-! SUPPORT. What each update of the state and of a hart leaves as it was, one lemma a field. -/

namespace Sys2Proof.Machine

/-! ### State.mapHart -/

@[simp] theorem State.mapHart_others (s : State) (f : Hart → Hart) : (s.mapHart f).others = s.others := rfl
@[simp] theorem State.mapHart_gangs (s : State) (f : Hart → Hart) : (s.mapHart f).gangs = s.gangs := rfl
@[simp] theorem State.mapHart_farLists (s : State) (f : Hart → Hart) : (s.mapHart f).farLists = s.farLists := rfl
@[simp] theorem State.mapHart_handles (s : State) (f : Hart → Hart) : (s.mapHart f).handles = s.handles := rfl
@[simp] theorem State.mapHart_launchTurns (s : State) (f : Hart → Hart) : (s.mapHart f).launchTurns = s.launchTurns := rfl
@[simp] theorem State.mapHart_tickets (s : State) (f : Hart → Hart) : (s.mapHart f).tickets = s.tickets := rfl
@[simp] theorem State.mapHart_jobs (s : State) (f : Hart → Hart) : (s.mapHart f).jobs = s.jobs := rfl
@[simp] theorem State.mapHart_copies (s : State) (f : Hart → Hart) : (s.mapHart f).copies = s.copies := rfl
@[simp] theorem State.mapHart_mem (s : State) (f : Hart → Hart) : (s.mapHart f).mem = s.mem := rfl
@[simp] theorem State.mapHart_macs (s : State) (f : Hart → Hart) : (s.mapHart f).macs = s.macs := rfl
@[simp] theorem State.mapHart_dirty (s : State) (f : Hart → Hart) : (s.mapHart f).dirty = s.dirty := rfl
@[simp] theorem State.mapHart_lost (s : State) (f : Hart → Hart) : (s.mapHart f).lost = s.lost := rfl
@[simp] theorem State.mapHart_owners (s : State) (f : Hart → Hart) : (s.mapHart f).owners = s.owners := rfl
@[simp] theorem State.mapHart_slotCache (s : State) (f : Hart → Hart) : (s.mapHart f).slotCache = s.slotCache := rfl
@[simp] theorem State.mapHart_slotPast (s : State) (f : Hart → Hart) : (s.mapHart f).slotPast = s.slotPast := rfl
@[simp] theorem State.mapHart_icache (s : State) (f : Hart → Hart) : (s.mapHart f).icache = s.icache := rfl
@[simp] theorem State.mapHart_stores (s : State) (f : Hart → Hart) : (s.mapHart f).stores = s.stores := rfl
@[simp] theorem State.mapHart_slow (s : State) (f : Hart → Hart) : (s.mapHart f).slow = s.slow := rfl
@[simp] theorem State.mapHart_held (s : State) (f : Hart → Hart) : (s.mapHart f).held = s.held := rfl
@[simp] theorem State.mapHart_owed (s : State) (f : Hart → Hart) : (s.mapHart f).owed = s.owed := rfl
@[simp] theorem State.mapHart_packets (s : State) (f : Hart → Hart) : (s.mapHart f).packets = s.packets := rfl
@[simp] theorem State.mapHart_pages (s : State) (f : Hart → Hart) : (s.mapHart f).pages = s.pages := rfl
@[simp] theorem State.mapHart_cthr (s : State) (f : Hart → Hart) : (s.mapHart f).cthr = s.cthr := rfl
@[simp] theorem State.mapHart_fwd (s : State) (f : Hart → Hart) : (s.mapHart f).fwd = s.fwd := rfl
@[simp] theorem State.mapHart_csafree (s : State) (f : Hart → Hart) : (s.mapHart f).csafree = s.csafree := rfl
@[simp] theorem State.mapHart_schedcfg (s : State) (f : Hart → Hart) : (s.mapHart f).schedcfg = s.schedcfg := rfl
@[simp] theorem State.mapHart_hvec (s : State) (f : Hart → Hart) : (s.mapHart f).hvec = s.hvec := rfl
@[simp] theorem State.mapHart_htab (s : State) (f : Hart → Hart) : (s.mapHart f).htab = s.htab := rfl
@[simp] theorem State.mapHart_events (s : State) (f : Hart → Hart) : (s.mapHart f).events = s.events := rfl
@[simp] theorem State.mapHart_eventLost (s : State) (f : Hart → Hart) : (s.mapHart f).eventLost = s.eventLost := rfl
@[simp] theorem State.mapHart_retired (s : State) (f : Hart → Hart) : (s.mapHart f).retired = s.retired := rfl
@[simp] theorem State.mapHart_corrected (s : State) (f : Hart → Hart) : (s.mapHart f).corrected = s.corrected := rfl
@[simp] theorem State.mapHart_tests (s : State) (f : Hart → Hart) : (s.mapHart f).tests = s.tests := rfl
@[simp] theorem State.mapHart_recent (s : State) (f : Hart → Hart) : (s.mapHart f).recent = s.recent := rfl
@[simp] theorem State.mapHart_extents (s : State) (f : Hart → Hart) : (s.mapHart f).extents = s.extents := rfl
@[simp] theorem State.mapHart_fuses (s : State) (f : Hart → Hart) : (s.mapHart f).fuses = s.fuses := rfl
@[simp] theorem State.mapHart_clock (s : State) (f : Hart → Hart) : (s.mapHart f).clock = s.clock := rfl
@[simp] theorem State.mapHart_thrus (s : State) (f : Hart → Hart) : (s.mapHart f).thrus = s.thrus := rfl
@[simp] theorem State.mapHart_slowSince (s : State) (f : Hart → Hart) : (s.mapHart f).slowSince = s.slowSince := rfl
@[simp] theorem State.mapHart_powerLimit (s : State) (f : Hart → Hart) : (s.mapHart f).powerLimit = s.powerLimit := rfl
@[simp] theorem State.mapHart_tempLimit (s : State) (f : Hart → Hart) : (s.mapHart f).tempLimit = s.tempLimit := rfl
@[simp] theorem State.mapHart_powerState (s : State) (f : Hart → Hart) : (s.mapHart f).powerState = s.powerState := rfl
@[simp] theorem State.mapHart_fwActive (s : State) (f : Hart → Hart) : (s.mapHart f).fwActive = s.fwActive := rfl
@[simp] theorem State.mapHart_fwInactive (s : State) (f : Hart → Hart) : (s.mapHart f).fwInactive = s.fwInactive := rfl
@[simp] theorem State.mapHart_fwMinimum (s : State) (f : Hart → Hart) : (s.mapHart f).fwMinimum = s.fwMinimum := rfl
@[simp] theorem State.mapHart_errorLog (s : State) (f : Hart → Hart) : (s.mapHart f).errorLog = s.errorLog := rfl
@[simp] theorem State.mapHart_outbox (s : State) (f : Hart → Hart) : (s.mapHart f).outbox = s.outbox := rfl
@[simp] theorem State.mapHart_hostUp (s : State) (f : Hart → Hart) : (s.mapHart f).hostUp = s.hostUp := rfl
@[simp] theorem State.mapHart_link (s : State) (f : Hart → Hart) : (s.mapHart f).link = s.link := rfl
@[simp] theorem State.mapHart_devIndex (s : State) (f : Hart → Hart) : (s.mapHart f).devIndex = s.devIndex := rfl
@[simp] theorem State.mapHart_domain (s : State) (f : Hart → Hart) : (s.mapHart f).domain = s.domain := rfl
@[simp] theorem State.mapHart_boot (s : State) (f : Hart → Hart) : (s.mapHart f).boot = s.boot := rfl
@[simp] theorem State.mapHart_pcie (s : State) (f : Hart → Hart) : (s.mapHart f).pcie = s.pcie := rfl
@[simp] theorem State.mapHart_mailbox (s : State) (f : Hart → Hart) : (s.mapHart f).mailbox = s.mailbox := rfl
@[simp] theorem State.mapHart_worlds (s : State) (f : Hart → Hart) : (s.mapHart f).worlds = s.worlds := rfl
@[simp] theorem State.mapHart_report0 (s : State) (f : Hart → Hart) : (s.mapHart f).report0 = s.report0 := rfl
@[simp] theorem State.mapHart_draws (s : State) (f : Hart → Hart) : (s.mapHart f).draws = s.draws := rfl
@[simp] theorem State.mapHart_store (s : State) (f : Hart → Hart) : (s.mapHart f).store = s.store := rfl
@[simp] theorem State.mapHart_seals (s : State) (f : Hart → Hart) : (s.mapHart f).seals = s.seals := rfl
@[simp] theorem State.mapHart_slice (s : State) (f : Hart → Hart) : (s.mapHart f).slice = s.slice := rfl
@[simp] theorem State.mapHart_agenda (s : State) (f : Hart → Hart) : (s.mapHart f).agenda = s.agenda := rfl
@[simp] theorem State.mapHart_tick (s : State) (f : Hart → Hart) : (s.mapHart f).tick = s.tick := rfl

/-! ### State.setX -/

@[simp] theorem State.setX_others (s : State) (r : BitVec 5) (v : Word) (t : Option (BitVec 16)) : (s.setX r v t).others = s.others := rfl
@[simp] theorem State.setX_gangs (s : State) (r : BitVec 5) (v : Word) (t : Option (BitVec 16)) : (s.setX r v t).gangs = s.gangs := rfl
@[simp] theorem State.setX_farLists (s : State) (r : BitVec 5) (v : Word) (t : Option (BitVec 16)) : (s.setX r v t).farLists = s.farLists := rfl
@[simp] theorem State.setX_handles (s : State) (r : BitVec 5) (v : Word) (t : Option (BitVec 16)) : (s.setX r v t).handles = s.handles := rfl
@[simp] theorem State.setX_launchTurns (s : State) (r : BitVec 5) (v : Word) (t : Option (BitVec 16)) : (s.setX r v t).launchTurns = s.launchTurns := rfl
@[simp] theorem State.setX_tickets (s : State) (r : BitVec 5) (v : Word) (t : Option (BitVec 16)) : (s.setX r v t).tickets = s.tickets := rfl
@[simp] theorem State.setX_jobs (s : State) (r : BitVec 5) (v : Word) (t : Option (BitVec 16)) : (s.setX r v t).jobs = s.jobs := rfl
@[simp] theorem State.setX_copies (s : State) (r : BitVec 5) (v : Word) (t : Option (BitVec 16)) : (s.setX r v t).copies = s.copies := rfl
@[simp] theorem State.setX_mem (s : State) (r : BitVec 5) (v : Word) (t : Option (BitVec 16)) : (s.setX r v t).mem = s.mem := rfl
@[simp] theorem State.setX_macs (s : State) (r : BitVec 5) (v : Word) (t : Option (BitVec 16)) : (s.setX r v t).macs = s.macs := rfl
@[simp] theorem State.setX_dirty (s : State) (r : BitVec 5) (v : Word) (t : Option (BitVec 16)) : (s.setX r v t).dirty = s.dirty := rfl
@[simp] theorem State.setX_lost (s : State) (r : BitVec 5) (v : Word) (t : Option (BitVec 16)) : (s.setX r v t).lost = s.lost := rfl
@[simp] theorem State.setX_owners (s : State) (r : BitVec 5) (v : Word) (t : Option (BitVec 16)) : (s.setX r v t).owners = s.owners := rfl
@[simp] theorem State.setX_slotCache (s : State) (r : BitVec 5) (v : Word) (t : Option (BitVec 16)) : (s.setX r v t).slotCache = s.slotCache := rfl
@[simp] theorem State.setX_slotPast (s : State) (r : BitVec 5) (v : Word) (t : Option (BitVec 16)) : (s.setX r v t).slotPast = s.slotPast := rfl
@[simp] theorem State.setX_icache (s : State) (r : BitVec 5) (v : Word) (t : Option (BitVec 16)) : (s.setX r v t).icache = s.icache := rfl
@[simp] theorem State.setX_stores (s : State) (r : BitVec 5) (v : Word) (t : Option (BitVec 16)) : (s.setX r v t).stores = s.stores := rfl
@[simp] theorem State.setX_slow (s : State) (r : BitVec 5) (v : Word) (t : Option (BitVec 16)) : (s.setX r v t).slow = s.slow := rfl
@[simp] theorem State.setX_held (s : State) (r : BitVec 5) (v : Word) (t : Option (BitVec 16)) : (s.setX r v t).held = s.held := rfl
@[simp] theorem State.setX_owed (s : State) (r : BitVec 5) (v : Word) (t : Option (BitVec 16)) : (s.setX r v t).owed = s.owed := rfl
@[simp] theorem State.setX_packets (s : State) (r : BitVec 5) (v : Word) (t : Option (BitVec 16)) : (s.setX r v t).packets = s.packets := rfl
@[simp] theorem State.setX_pages (s : State) (r : BitVec 5) (v : Word) (t : Option (BitVec 16)) : (s.setX r v t).pages = s.pages := rfl
@[simp] theorem State.setX_cthr (s : State) (r : BitVec 5) (v : Word) (t : Option (BitVec 16)) : (s.setX r v t).cthr = s.cthr := rfl
@[simp] theorem State.setX_fwd (s : State) (r : BitVec 5) (v : Word) (t : Option (BitVec 16)) : (s.setX r v t).fwd = s.fwd := rfl
@[simp] theorem State.setX_csafree (s : State) (r : BitVec 5) (v : Word) (t : Option (BitVec 16)) : (s.setX r v t).csafree = s.csafree := rfl
@[simp] theorem State.setX_schedcfg (s : State) (r : BitVec 5) (v : Word) (t : Option (BitVec 16)) : (s.setX r v t).schedcfg = s.schedcfg := rfl
@[simp] theorem State.setX_hvec (s : State) (r : BitVec 5) (v : Word) (t : Option (BitVec 16)) : (s.setX r v t).hvec = s.hvec := rfl
@[simp] theorem State.setX_htab (s : State) (r : BitVec 5) (v : Word) (t : Option (BitVec 16)) : (s.setX r v t).htab = s.htab := rfl
@[simp] theorem State.setX_events (s : State) (r : BitVec 5) (v : Word) (t : Option (BitVec 16)) : (s.setX r v t).events = s.events := rfl
@[simp] theorem State.setX_eventLost (s : State) (r : BitVec 5) (v : Word) (t : Option (BitVec 16)) : (s.setX r v t).eventLost = s.eventLost := rfl
@[simp] theorem State.setX_retired (s : State) (r : BitVec 5) (v : Word) (t : Option (BitVec 16)) : (s.setX r v t).retired = s.retired := rfl
@[simp] theorem State.setX_corrected (s : State) (r : BitVec 5) (v : Word) (t : Option (BitVec 16)) : (s.setX r v t).corrected = s.corrected := rfl
@[simp] theorem State.setX_tests (s : State) (r : BitVec 5) (v : Word) (t : Option (BitVec 16)) : (s.setX r v t).tests = s.tests := rfl
@[simp] theorem State.setX_recent (s : State) (r : BitVec 5) (v : Word) (t : Option (BitVec 16)) : (s.setX r v t).recent = s.recent := rfl
@[simp] theorem State.setX_extents (s : State) (r : BitVec 5) (v : Word) (t : Option (BitVec 16)) : (s.setX r v t).extents = s.extents := rfl
@[simp] theorem State.setX_fuses (s : State) (r : BitVec 5) (v : Word) (t : Option (BitVec 16)) : (s.setX r v t).fuses = s.fuses := rfl
@[simp] theorem State.setX_clock (s : State) (r : BitVec 5) (v : Word) (t : Option (BitVec 16)) : (s.setX r v t).clock = s.clock := rfl
@[simp] theorem State.setX_thrus (s : State) (r : BitVec 5) (v : Word) (t : Option (BitVec 16)) : (s.setX r v t).thrus = s.thrus := rfl
@[simp] theorem State.setX_slowSince (s : State) (r : BitVec 5) (v : Word) (t : Option (BitVec 16)) : (s.setX r v t).slowSince = s.slowSince := rfl
@[simp] theorem State.setX_powerLimit (s : State) (r : BitVec 5) (v : Word) (t : Option (BitVec 16)) : (s.setX r v t).powerLimit = s.powerLimit := rfl
@[simp] theorem State.setX_tempLimit (s : State) (r : BitVec 5) (v : Word) (t : Option (BitVec 16)) : (s.setX r v t).tempLimit = s.tempLimit := rfl
@[simp] theorem State.setX_powerState (s : State) (r : BitVec 5) (v : Word) (t : Option (BitVec 16)) : (s.setX r v t).powerState = s.powerState := rfl
@[simp] theorem State.setX_fwActive (s : State) (r : BitVec 5) (v : Word) (t : Option (BitVec 16)) : (s.setX r v t).fwActive = s.fwActive := rfl
@[simp] theorem State.setX_fwInactive (s : State) (r : BitVec 5) (v : Word) (t : Option (BitVec 16)) : (s.setX r v t).fwInactive = s.fwInactive := rfl
@[simp] theorem State.setX_fwMinimum (s : State) (r : BitVec 5) (v : Word) (t : Option (BitVec 16)) : (s.setX r v t).fwMinimum = s.fwMinimum := rfl
@[simp] theorem State.setX_errorLog (s : State) (r : BitVec 5) (v : Word) (t : Option (BitVec 16)) : (s.setX r v t).errorLog = s.errorLog := rfl
@[simp] theorem State.setX_outbox (s : State) (r : BitVec 5) (v : Word) (t : Option (BitVec 16)) : (s.setX r v t).outbox = s.outbox := rfl
@[simp] theorem State.setX_hostUp (s : State) (r : BitVec 5) (v : Word) (t : Option (BitVec 16)) : (s.setX r v t).hostUp = s.hostUp := rfl
@[simp] theorem State.setX_link (s : State) (r : BitVec 5) (v : Word) (t : Option (BitVec 16)) : (s.setX r v t).link = s.link := rfl
@[simp] theorem State.setX_devIndex (s : State) (r : BitVec 5) (v : Word) (t : Option (BitVec 16)) : (s.setX r v t).devIndex = s.devIndex := rfl
@[simp] theorem State.setX_domain (s : State) (r : BitVec 5) (v : Word) (t : Option (BitVec 16)) : (s.setX r v t).domain = s.domain := rfl
@[simp] theorem State.setX_boot (s : State) (r : BitVec 5) (v : Word) (t : Option (BitVec 16)) : (s.setX r v t).boot = s.boot := rfl
@[simp] theorem State.setX_pcie (s : State) (r : BitVec 5) (v : Word) (t : Option (BitVec 16)) : (s.setX r v t).pcie = s.pcie := rfl
@[simp] theorem State.setX_mailbox (s : State) (r : BitVec 5) (v : Word) (t : Option (BitVec 16)) : (s.setX r v t).mailbox = s.mailbox := rfl
@[simp] theorem State.setX_worlds (s : State) (r : BitVec 5) (v : Word) (t : Option (BitVec 16)) : (s.setX r v t).worlds = s.worlds := rfl
@[simp] theorem State.setX_report0 (s : State) (r : BitVec 5) (v : Word) (t : Option (BitVec 16)) : (s.setX r v t).report0 = s.report0 := rfl
@[simp] theorem State.setX_draws (s : State) (r : BitVec 5) (v : Word) (t : Option (BitVec 16)) : (s.setX r v t).draws = s.draws := rfl
@[simp] theorem State.setX_store (s : State) (r : BitVec 5) (v : Word) (t : Option (BitVec 16)) : (s.setX r v t).store = s.store := rfl
@[simp] theorem State.setX_seals (s : State) (r : BitVec 5) (v : Word) (t : Option (BitVec 16)) : (s.setX r v t).seals = s.seals := rfl
@[simp] theorem State.setX_slice (s : State) (r : BitVec 5) (v : Word) (t : Option (BitVec 16)) : (s.setX r v t).slice = s.slice := rfl
@[simp] theorem State.setX_agenda (s : State) (r : BitVec 5) (v : Word) (t : Option (BitVec 16)) : (s.setX r v t).agenda = s.agenda := rfl
@[simp] theorem State.setX_tick (s : State) (r : BitVec 5) (v : Word) (t : Option (BitVec 16)) : (s.setX r v t).tick = s.tick := rfl

/-! ### State.retire -/

@[simp] theorem State.retire_others (s : State) (r : Option (BitVec 5)) : (s.retire r).others = s.others := rfl
@[simp] theorem State.retire_gangs (s : State) (r : Option (BitVec 5)) : (s.retire r).gangs = s.gangs := rfl
@[simp] theorem State.retire_farLists (s : State) (r : Option (BitVec 5)) : (s.retire r).farLists = s.farLists := rfl
@[simp] theorem State.retire_handles (s : State) (r : Option (BitVec 5)) : (s.retire r).handles = s.handles := rfl
@[simp] theorem State.retire_launchTurns (s : State) (r : Option (BitVec 5)) : (s.retire r).launchTurns = s.launchTurns := rfl
@[simp] theorem State.retire_tickets (s : State) (r : Option (BitVec 5)) : (s.retire r).tickets = s.tickets := rfl
@[simp] theorem State.retire_jobs (s : State) (r : Option (BitVec 5)) : (s.retire r).jobs = s.jobs := rfl
@[simp] theorem State.retire_copies (s : State) (r : Option (BitVec 5)) : (s.retire r).copies = s.copies := rfl
@[simp] theorem State.retire_mem (s : State) (r : Option (BitVec 5)) : (s.retire r).mem = s.mem := rfl
@[simp] theorem State.retire_macs (s : State) (r : Option (BitVec 5)) : (s.retire r).macs = s.macs := rfl
@[simp] theorem State.retire_dirty (s : State) (r : Option (BitVec 5)) : (s.retire r).dirty = s.dirty := rfl
@[simp] theorem State.retire_lost (s : State) (r : Option (BitVec 5)) : (s.retire r).lost = s.lost := rfl
@[simp] theorem State.retire_owners (s : State) (r : Option (BitVec 5)) : (s.retire r).owners = s.owners := rfl
@[simp] theorem State.retire_slotCache (s : State) (r : Option (BitVec 5)) : (s.retire r).slotCache = s.slotCache := rfl
@[simp] theorem State.retire_slotPast (s : State) (r : Option (BitVec 5)) : (s.retire r).slotPast = s.slotPast := rfl
@[simp] theorem State.retire_icache (s : State) (r : Option (BitVec 5)) : (s.retire r).icache = s.icache := rfl
@[simp] theorem State.retire_stores (s : State) (r : Option (BitVec 5)) : (s.retire r).stores = s.stores := rfl
@[simp] theorem State.retire_slow (s : State) (r : Option (BitVec 5)) : (s.retire r).slow = s.slow := rfl
@[simp] theorem State.retire_held (s : State) (r : Option (BitVec 5)) : (s.retire r).held = s.held := rfl
@[simp] theorem State.retire_owed (s : State) (r : Option (BitVec 5)) : (s.retire r).owed = s.owed := rfl
@[simp] theorem State.retire_packets (s : State) (r : Option (BitVec 5)) : (s.retire r).packets = s.packets := rfl
@[simp] theorem State.retire_pages (s : State) (r : Option (BitVec 5)) : (s.retire r).pages = s.pages := rfl
@[simp] theorem State.retire_cthr (s : State) (r : Option (BitVec 5)) : (s.retire r).cthr = s.cthr := rfl
@[simp] theorem State.retire_fwd (s : State) (r : Option (BitVec 5)) : (s.retire r).fwd = s.fwd := rfl
@[simp] theorem State.retire_csafree (s : State) (r : Option (BitVec 5)) : (s.retire r).csafree = s.csafree := rfl
@[simp] theorem State.retire_schedcfg (s : State) (r : Option (BitVec 5)) : (s.retire r).schedcfg = s.schedcfg := rfl
@[simp] theorem State.retire_hvec (s : State) (r : Option (BitVec 5)) : (s.retire r).hvec = s.hvec := rfl
@[simp] theorem State.retire_htab (s : State) (r : Option (BitVec 5)) : (s.retire r).htab = s.htab := rfl
@[simp] theorem State.retire_events (s : State) (r : Option (BitVec 5)) : (s.retire r).events = s.events := rfl
@[simp] theorem State.retire_eventLost (s : State) (r : Option (BitVec 5)) : (s.retire r).eventLost = s.eventLost := rfl
@[simp] theorem State.retire_retired (s : State) (r : Option (BitVec 5)) : (s.retire r).retired = s.retired := rfl
@[simp] theorem State.retire_corrected (s : State) (r : Option (BitVec 5)) : (s.retire r).corrected = s.corrected := rfl
@[simp] theorem State.retire_tests (s : State) (r : Option (BitVec 5)) : (s.retire r).tests = s.tests := rfl
@[simp] theorem State.retire_recent (s : State) (r : Option (BitVec 5)) : (s.retire r).recent = s.recent := rfl
@[simp] theorem State.retire_extents (s : State) (r : Option (BitVec 5)) : (s.retire r).extents = s.extents := rfl
@[simp] theorem State.retire_fuses (s : State) (r : Option (BitVec 5)) : (s.retire r).fuses = s.fuses := rfl
@[simp] theorem State.retire_clock (s : State) (r : Option (BitVec 5)) : (s.retire r).clock = s.clock := rfl
@[simp] theorem State.retire_thrus (s : State) (r : Option (BitVec 5)) : (s.retire r).thrus = s.thrus := rfl
@[simp] theorem State.retire_slowSince (s : State) (r : Option (BitVec 5)) : (s.retire r).slowSince = s.slowSince := rfl
@[simp] theorem State.retire_powerLimit (s : State) (r : Option (BitVec 5)) : (s.retire r).powerLimit = s.powerLimit := rfl
@[simp] theorem State.retire_tempLimit (s : State) (r : Option (BitVec 5)) : (s.retire r).tempLimit = s.tempLimit := rfl
@[simp] theorem State.retire_powerState (s : State) (r : Option (BitVec 5)) : (s.retire r).powerState = s.powerState := rfl
@[simp] theorem State.retire_fwActive (s : State) (r : Option (BitVec 5)) : (s.retire r).fwActive = s.fwActive := rfl
@[simp] theorem State.retire_fwInactive (s : State) (r : Option (BitVec 5)) : (s.retire r).fwInactive = s.fwInactive := rfl
@[simp] theorem State.retire_fwMinimum (s : State) (r : Option (BitVec 5)) : (s.retire r).fwMinimum = s.fwMinimum := rfl
@[simp] theorem State.retire_errorLog (s : State) (r : Option (BitVec 5)) : (s.retire r).errorLog = s.errorLog := rfl
@[simp] theorem State.retire_outbox (s : State) (r : Option (BitVec 5)) : (s.retire r).outbox = s.outbox := rfl
@[simp] theorem State.retire_hostUp (s : State) (r : Option (BitVec 5)) : (s.retire r).hostUp = s.hostUp := rfl
@[simp] theorem State.retire_link (s : State) (r : Option (BitVec 5)) : (s.retire r).link = s.link := rfl
@[simp] theorem State.retire_devIndex (s : State) (r : Option (BitVec 5)) : (s.retire r).devIndex = s.devIndex := rfl
@[simp] theorem State.retire_domain (s : State) (r : Option (BitVec 5)) : (s.retire r).domain = s.domain := rfl
@[simp] theorem State.retire_boot (s : State) (r : Option (BitVec 5)) : (s.retire r).boot = s.boot := rfl
@[simp] theorem State.retire_pcie (s : State) (r : Option (BitVec 5)) : (s.retire r).pcie = s.pcie := rfl
@[simp] theorem State.retire_mailbox (s : State) (r : Option (BitVec 5)) : (s.retire r).mailbox = s.mailbox := rfl
@[simp] theorem State.retire_worlds (s : State) (r : Option (BitVec 5)) : (s.retire r).worlds = s.worlds := rfl
@[simp] theorem State.retire_report0 (s : State) (r : Option (BitVec 5)) : (s.retire r).report0 = s.report0 := rfl
@[simp] theorem State.retire_draws (s : State) (r : Option (BitVec 5)) : (s.retire r).draws = s.draws := rfl
@[simp] theorem State.retire_store (s : State) (r : Option (BitVec 5)) : (s.retire r).store = s.store := rfl
@[simp] theorem State.retire_seals (s : State) (r : Option (BitVec 5)) : (s.retire r).seals = s.seals := rfl
@[simp] theorem State.retire_slice (s : State) (r : Option (BitVec 5)) : (s.retire r).slice = s.slice := rfl
@[simp] theorem State.retire_agenda (s : State) (r : Option (BitVec 5)) : (s.retire r).agenda = s.agenda := rfl
@[simp] theorem State.retire_tick (s : State) (r : Option (BitVec 5)) : (s.retire r).tick = s.tick := rfl

/-! ### State.writeBack -/

@[simp] theorem State.writeBack_others (s : State) (r : BitVec 5) (v : Word) (t : Option (BitVec 16)) : (s.writeBack r v t).others = s.others := rfl
@[simp] theorem State.writeBack_gangs (s : State) (r : BitVec 5) (v : Word) (t : Option (BitVec 16)) : (s.writeBack r v t).gangs = s.gangs := rfl
@[simp] theorem State.writeBack_farLists (s : State) (r : BitVec 5) (v : Word) (t : Option (BitVec 16)) : (s.writeBack r v t).farLists = s.farLists := rfl
@[simp] theorem State.writeBack_handles (s : State) (r : BitVec 5) (v : Word) (t : Option (BitVec 16)) : (s.writeBack r v t).handles = s.handles := rfl
@[simp] theorem State.writeBack_launchTurns (s : State) (r : BitVec 5) (v : Word) (t : Option (BitVec 16)) : (s.writeBack r v t).launchTurns = s.launchTurns := rfl
@[simp] theorem State.writeBack_tickets (s : State) (r : BitVec 5) (v : Word) (t : Option (BitVec 16)) : (s.writeBack r v t).tickets = s.tickets := rfl
@[simp] theorem State.writeBack_jobs (s : State) (r : BitVec 5) (v : Word) (t : Option (BitVec 16)) : (s.writeBack r v t).jobs = s.jobs := rfl
@[simp] theorem State.writeBack_copies (s : State) (r : BitVec 5) (v : Word) (t : Option (BitVec 16)) : (s.writeBack r v t).copies = s.copies := rfl
@[simp] theorem State.writeBack_mem (s : State) (r : BitVec 5) (v : Word) (t : Option (BitVec 16)) : (s.writeBack r v t).mem = s.mem := rfl
@[simp] theorem State.writeBack_macs (s : State) (r : BitVec 5) (v : Word) (t : Option (BitVec 16)) : (s.writeBack r v t).macs = s.macs := rfl
@[simp] theorem State.writeBack_dirty (s : State) (r : BitVec 5) (v : Word) (t : Option (BitVec 16)) : (s.writeBack r v t).dirty = s.dirty := rfl
@[simp] theorem State.writeBack_lost (s : State) (r : BitVec 5) (v : Word) (t : Option (BitVec 16)) : (s.writeBack r v t).lost = s.lost := rfl
@[simp] theorem State.writeBack_owners (s : State) (r : BitVec 5) (v : Word) (t : Option (BitVec 16)) : (s.writeBack r v t).owners = s.owners := rfl
@[simp] theorem State.writeBack_slotCache (s : State) (r : BitVec 5) (v : Word) (t : Option (BitVec 16)) : (s.writeBack r v t).slotCache = s.slotCache := rfl
@[simp] theorem State.writeBack_slotPast (s : State) (r : BitVec 5) (v : Word) (t : Option (BitVec 16)) : (s.writeBack r v t).slotPast = s.slotPast := rfl
@[simp] theorem State.writeBack_icache (s : State) (r : BitVec 5) (v : Word) (t : Option (BitVec 16)) : (s.writeBack r v t).icache = s.icache := rfl
@[simp] theorem State.writeBack_stores (s : State) (r : BitVec 5) (v : Word) (t : Option (BitVec 16)) : (s.writeBack r v t).stores = s.stores := rfl
@[simp] theorem State.writeBack_slow (s : State) (r : BitVec 5) (v : Word) (t : Option (BitVec 16)) : (s.writeBack r v t).slow = s.slow := rfl
@[simp] theorem State.writeBack_held (s : State) (r : BitVec 5) (v : Word) (t : Option (BitVec 16)) : (s.writeBack r v t).held = s.held := rfl
@[simp] theorem State.writeBack_owed (s : State) (r : BitVec 5) (v : Word) (t : Option (BitVec 16)) : (s.writeBack r v t).owed = s.owed := rfl
@[simp] theorem State.writeBack_packets (s : State) (r : BitVec 5) (v : Word) (t : Option (BitVec 16)) : (s.writeBack r v t).packets = s.packets := rfl
@[simp] theorem State.writeBack_pages (s : State) (r : BitVec 5) (v : Word) (t : Option (BitVec 16)) : (s.writeBack r v t).pages = s.pages := rfl
@[simp] theorem State.writeBack_cthr (s : State) (r : BitVec 5) (v : Word) (t : Option (BitVec 16)) : (s.writeBack r v t).cthr = s.cthr := rfl
@[simp] theorem State.writeBack_fwd (s : State) (r : BitVec 5) (v : Word) (t : Option (BitVec 16)) : (s.writeBack r v t).fwd = s.fwd := rfl
@[simp] theorem State.writeBack_csafree (s : State) (r : BitVec 5) (v : Word) (t : Option (BitVec 16)) : (s.writeBack r v t).csafree = s.csafree := rfl
@[simp] theorem State.writeBack_schedcfg (s : State) (r : BitVec 5) (v : Word) (t : Option (BitVec 16)) : (s.writeBack r v t).schedcfg = s.schedcfg := rfl
@[simp] theorem State.writeBack_hvec (s : State) (r : BitVec 5) (v : Word) (t : Option (BitVec 16)) : (s.writeBack r v t).hvec = s.hvec := rfl
@[simp] theorem State.writeBack_htab (s : State) (r : BitVec 5) (v : Word) (t : Option (BitVec 16)) : (s.writeBack r v t).htab = s.htab := rfl
@[simp] theorem State.writeBack_events (s : State) (r : BitVec 5) (v : Word) (t : Option (BitVec 16)) : (s.writeBack r v t).events = s.events := rfl
@[simp] theorem State.writeBack_eventLost (s : State) (r : BitVec 5) (v : Word) (t : Option (BitVec 16)) : (s.writeBack r v t).eventLost = s.eventLost := rfl
@[simp] theorem State.writeBack_retired (s : State) (r : BitVec 5) (v : Word) (t : Option (BitVec 16)) : (s.writeBack r v t).retired = s.retired := rfl
@[simp] theorem State.writeBack_corrected (s : State) (r : BitVec 5) (v : Word) (t : Option (BitVec 16)) : (s.writeBack r v t).corrected = s.corrected := rfl
@[simp] theorem State.writeBack_tests (s : State) (r : BitVec 5) (v : Word) (t : Option (BitVec 16)) : (s.writeBack r v t).tests = s.tests := rfl
@[simp] theorem State.writeBack_recent (s : State) (r : BitVec 5) (v : Word) (t : Option (BitVec 16)) : (s.writeBack r v t).recent = s.recent := rfl
@[simp] theorem State.writeBack_extents (s : State) (r : BitVec 5) (v : Word) (t : Option (BitVec 16)) : (s.writeBack r v t).extents = s.extents := rfl
@[simp] theorem State.writeBack_fuses (s : State) (r : BitVec 5) (v : Word) (t : Option (BitVec 16)) : (s.writeBack r v t).fuses = s.fuses := rfl
@[simp] theorem State.writeBack_clock (s : State) (r : BitVec 5) (v : Word) (t : Option (BitVec 16)) : (s.writeBack r v t).clock = s.clock := rfl
@[simp] theorem State.writeBack_thrus (s : State) (r : BitVec 5) (v : Word) (t : Option (BitVec 16)) : (s.writeBack r v t).thrus = s.thrus := rfl
@[simp] theorem State.writeBack_slowSince (s : State) (r : BitVec 5) (v : Word) (t : Option (BitVec 16)) : (s.writeBack r v t).slowSince = s.slowSince := rfl
@[simp] theorem State.writeBack_powerLimit (s : State) (r : BitVec 5) (v : Word) (t : Option (BitVec 16)) : (s.writeBack r v t).powerLimit = s.powerLimit := rfl
@[simp] theorem State.writeBack_tempLimit (s : State) (r : BitVec 5) (v : Word) (t : Option (BitVec 16)) : (s.writeBack r v t).tempLimit = s.tempLimit := rfl
@[simp] theorem State.writeBack_powerState (s : State) (r : BitVec 5) (v : Word) (t : Option (BitVec 16)) : (s.writeBack r v t).powerState = s.powerState := rfl
@[simp] theorem State.writeBack_fwActive (s : State) (r : BitVec 5) (v : Word) (t : Option (BitVec 16)) : (s.writeBack r v t).fwActive = s.fwActive := rfl
@[simp] theorem State.writeBack_fwInactive (s : State) (r : BitVec 5) (v : Word) (t : Option (BitVec 16)) : (s.writeBack r v t).fwInactive = s.fwInactive := rfl
@[simp] theorem State.writeBack_fwMinimum (s : State) (r : BitVec 5) (v : Word) (t : Option (BitVec 16)) : (s.writeBack r v t).fwMinimum = s.fwMinimum := rfl
@[simp] theorem State.writeBack_errorLog (s : State) (r : BitVec 5) (v : Word) (t : Option (BitVec 16)) : (s.writeBack r v t).errorLog = s.errorLog := rfl
@[simp] theorem State.writeBack_outbox (s : State) (r : BitVec 5) (v : Word) (t : Option (BitVec 16)) : (s.writeBack r v t).outbox = s.outbox := rfl
@[simp] theorem State.writeBack_hostUp (s : State) (r : BitVec 5) (v : Word) (t : Option (BitVec 16)) : (s.writeBack r v t).hostUp = s.hostUp := rfl
@[simp] theorem State.writeBack_link (s : State) (r : BitVec 5) (v : Word) (t : Option (BitVec 16)) : (s.writeBack r v t).link = s.link := rfl
@[simp] theorem State.writeBack_devIndex (s : State) (r : BitVec 5) (v : Word) (t : Option (BitVec 16)) : (s.writeBack r v t).devIndex = s.devIndex := rfl
@[simp] theorem State.writeBack_domain (s : State) (r : BitVec 5) (v : Word) (t : Option (BitVec 16)) : (s.writeBack r v t).domain = s.domain := rfl
@[simp] theorem State.writeBack_boot (s : State) (r : BitVec 5) (v : Word) (t : Option (BitVec 16)) : (s.writeBack r v t).boot = s.boot := rfl
@[simp] theorem State.writeBack_pcie (s : State) (r : BitVec 5) (v : Word) (t : Option (BitVec 16)) : (s.writeBack r v t).pcie = s.pcie := rfl
@[simp] theorem State.writeBack_mailbox (s : State) (r : BitVec 5) (v : Word) (t : Option (BitVec 16)) : (s.writeBack r v t).mailbox = s.mailbox := rfl
@[simp] theorem State.writeBack_worlds (s : State) (r : BitVec 5) (v : Word) (t : Option (BitVec 16)) : (s.writeBack r v t).worlds = s.worlds := rfl
@[simp] theorem State.writeBack_report0 (s : State) (r : BitVec 5) (v : Word) (t : Option (BitVec 16)) : (s.writeBack r v t).report0 = s.report0 := rfl
@[simp] theorem State.writeBack_draws (s : State) (r : BitVec 5) (v : Word) (t : Option (BitVec 16)) : (s.writeBack r v t).draws = s.draws := rfl
@[simp] theorem State.writeBack_store (s : State) (r : BitVec 5) (v : Word) (t : Option (BitVec 16)) : (s.writeBack r v t).store = s.store := rfl
@[simp] theorem State.writeBack_seals (s : State) (r : BitVec 5) (v : Word) (t : Option (BitVec 16)) : (s.writeBack r v t).seals = s.seals := rfl
@[simp] theorem State.writeBack_slice (s : State) (r : BitVec 5) (v : Word) (t : Option (BitVec 16)) : (s.writeBack r v t).slice = s.slice := rfl
@[simp] theorem State.writeBack_agenda (s : State) (r : BitVec 5) (v : Word) (t : Option (BitVec 16)) : (s.writeBack r v t).agenda = s.agenda := rfl
@[simp] theorem State.writeBack_tick (s : State) (r : BitVec 5) (v : Word) (t : Option (BitVec 16)) : (s.writeBack r v t).tick = s.tick := rfl

/-! ### State.waitFor -/

@[simp] theorem State.waitFor_others (s : State) (w : Wait) : (s.waitFor w).others = s.others := rfl
@[simp] theorem State.waitFor_gangs (s : State) (w : Wait) : (s.waitFor w).gangs = s.gangs := rfl
@[simp] theorem State.waitFor_farLists (s : State) (w : Wait) : (s.waitFor w).farLists = s.farLists := rfl
@[simp] theorem State.waitFor_handles (s : State) (w : Wait) : (s.waitFor w).handles = s.handles := rfl
@[simp] theorem State.waitFor_launchTurns (s : State) (w : Wait) : (s.waitFor w).launchTurns = s.launchTurns := rfl
@[simp] theorem State.waitFor_tickets (s : State) (w : Wait) : (s.waitFor w).tickets = s.tickets := rfl
@[simp] theorem State.waitFor_jobs (s : State) (w : Wait) : (s.waitFor w).jobs = s.jobs := rfl
@[simp] theorem State.waitFor_copies (s : State) (w : Wait) : (s.waitFor w).copies = s.copies := rfl
@[simp] theorem State.waitFor_mem (s : State) (w : Wait) : (s.waitFor w).mem = s.mem := rfl
@[simp] theorem State.waitFor_macs (s : State) (w : Wait) : (s.waitFor w).macs = s.macs := rfl
@[simp] theorem State.waitFor_dirty (s : State) (w : Wait) : (s.waitFor w).dirty = s.dirty := rfl
@[simp] theorem State.waitFor_lost (s : State) (w : Wait) : (s.waitFor w).lost = s.lost := rfl
@[simp] theorem State.waitFor_owners (s : State) (w : Wait) : (s.waitFor w).owners = s.owners := rfl
@[simp] theorem State.waitFor_slotCache (s : State) (w : Wait) : (s.waitFor w).slotCache = s.slotCache := rfl
@[simp] theorem State.waitFor_slotPast (s : State) (w : Wait) : (s.waitFor w).slotPast = s.slotPast := rfl
@[simp] theorem State.waitFor_icache (s : State) (w : Wait) : (s.waitFor w).icache = s.icache := rfl
@[simp] theorem State.waitFor_stores (s : State) (w : Wait) : (s.waitFor w).stores = s.stores := rfl
@[simp] theorem State.waitFor_slow (s : State) (w : Wait) : (s.waitFor w).slow = s.slow := rfl
@[simp] theorem State.waitFor_held (s : State) (w : Wait) : (s.waitFor w).held = s.held := rfl
@[simp] theorem State.waitFor_owed (s : State) (w : Wait) : (s.waitFor w).owed = s.owed := rfl
@[simp] theorem State.waitFor_packets (s : State) (w : Wait) : (s.waitFor w).packets = s.packets := rfl
@[simp] theorem State.waitFor_pages (s : State) (w : Wait) : (s.waitFor w).pages = s.pages := rfl
@[simp] theorem State.waitFor_cthr (s : State) (w : Wait) : (s.waitFor w).cthr = s.cthr := rfl
@[simp] theorem State.waitFor_fwd (s : State) (w : Wait) : (s.waitFor w).fwd = s.fwd := rfl
@[simp] theorem State.waitFor_csafree (s : State) (w : Wait) : (s.waitFor w).csafree = s.csafree := rfl
@[simp] theorem State.waitFor_schedcfg (s : State) (w : Wait) : (s.waitFor w).schedcfg = s.schedcfg := rfl
@[simp] theorem State.waitFor_hvec (s : State) (w : Wait) : (s.waitFor w).hvec = s.hvec := rfl
@[simp] theorem State.waitFor_htab (s : State) (w : Wait) : (s.waitFor w).htab = s.htab := rfl
@[simp] theorem State.waitFor_events (s : State) (w : Wait) : (s.waitFor w).events = s.events := rfl
@[simp] theorem State.waitFor_eventLost (s : State) (w : Wait) : (s.waitFor w).eventLost = s.eventLost := rfl
@[simp] theorem State.waitFor_retired (s : State) (w : Wait) : (s.waitFor w).retired = s.retired := rfl
@[simp] theorem State.waitFor_corrected (s : State) (w : Wait) : (s.waitFor w).corrected = s.corrected := rfl
@[simp] theorem State.waitFor_tests (s : State) (w : Wait) : (s.waitFor w).tests = s.tests := rfl
@[simp] theorem State.waitFor_recent (s : State) (w : Wait) : (s.waitFor w).recent = s.recent := rfl
@[simp] theorem State.waitFor_extents (s : State) (w : Wait) : (s.waitFor w).extents = s.extents := rfl
@[simp] theorem State.waitFor_fuses (s : State) (w : Wait) : (s.waitFor w).fuses = s.fuses := rfl
@[simp] theorem State.waitFor_clock (s : State) (w : Wait) : (s.waitFor w).clock = s.clock := rfl
@[simp] theorem State.waitFor_thrus (s : State) (w : Wait) : (s.waitFor w).thrus = s.thrus := rfl
@[simp] theorem State.waitFor_slowSince (s : State) (w : Wait) : (s.waitFor w).slowSince = s.slowSince := rfl
@[simp] theorem State.waitFor_powerLimit (s : State) (w : Wait) : (s.waitFor w).powerLimit = s.powerLimit := rfl
@[simp] theorem State.waitFor_tempLimit (s : State) (w : Wait) : (s.waitFor w).tempLimit = s.tempLimit := rfl
@[simp] theorem State.waitFor_powerState (s : State) (w : Wait) : (s.waitFor w).powerState = s.powerState := rfl
@[simp] theorem State.waitFor_fwActive (s : State) (w : Wait) : (s.waitFor w).fwActive = s.fwActive := rfl
@[simp] theorem State.waitFor_fwInactive (s : State) (w : Wait) : (s.waitFor w).fwInactive = s.fwInactive := rfl
@[simp] theorem State.waitFor_fwMinimum (s : State) (w : Wait) : (s.waitFor w).fwMinimum = s.fwMinimum := rfl
@[simp] theorem State.waitFor_errorLog (s : State) (w : Wait) : (s.waitFor w).errorLog = s.errorLog := rfl
@[simp] theorem State.waitFor_outbox (s : State) (w : Wait) : (s.waitFor w).outbox = s.outbox := rfl
@[simp] theorem State.waitFor_hostUp (s : State) (w : Wait) : (s.waitFor w).hostUp = s.hostUp := rfl
@[simp] theorem State.waitFor_link (s : State) (w : Wait) : (s.waitFor w).link = s.link := rfl
@[simp] theorem State.waitFor_devIndex (s : State) (w : Wait) : (s.waitFor w).devIndex = s.devIndex := rfl
@[simp] theorem State.waitFor_domain (s : State) (w : Wait) : (s.waitFor w).domain = s.domain := rfl
@[simp] theorem State.waitFor_boot (s : State) (w : Wait) : (s.waitFor w).boot = s.boot := rfl
@[simp] theorem State.waitFor_pcie (s : State) (w : Wait) : (s.waitFor w).pcie = s.pcie := rfl
@[simp] theorem State.waitFor_mailbox (s : State) (w : Wait) : (s.waitFor w).mailbox = s.mailbox := rfl
@[simp] theorem State.waitFor_worlds (s : State) (w : Wait) : (s.waitFor w).worlds = s.worlds := rfl
@[simp] theorem State.waitFor_report0 (s : State) (w : Wait) : (s.waitFor w).report0 = s.report0 := rfl
@[simp] theorem State.waitFor_draws (s : State) (w : Wait) : (s.waitFor w).draws = s.draws := rfl
@[simp] theorem State.waitFor_store (s : State) (w : Wait) : (s.waitFor w).store = s.store := rfl
@[simp] theorem State.waitFor_seals (s : State) (w : Wait) : (s.waitFor w).seals = s.seals := rfl
@[simp] theorem State.waitFor_slice (s : State) (w : Wait) : (s.waitFor w).slice = s.slice := rfl
@[simp] theorem State.waitFor_agenda (s : State) (w : Wait) : (s.waitFor w).agenda = s.agenda := rfl
@[simp] theorem State.waitFor_tick (s : State) (w : Wait) : (s.waitFor w).tick = s.tick := rfl

/-! ### State.emit -/

@[simp] theorem State.emit_hart (s : State) (o : Outbound) : (s.emit o).hart = s.hart := rfl
@[simp] theorem State.emit_others (s : State) (o : Outbound) : (s.emit o).others = s.others := rfl
@[simp] theorem State.emit_gangs (s : State) (o : Outbound) : (s.emit o).gangs = s.gangs := rfl
@[simp] theorem State.emit_farLists (s : State) (o : Outbound) : (s.emit o).farLists = s.farLists := rfl
@[simp] theorem State.emit_handles (s : State) (o : Outbound) : (s.emit o).handles = s.handles := rfl
@[simp] theorem State.emit_launchTurns (s : State) (o : Outbound) : (s.emit o).launchTurns = s.launchTurns := rfl
@[simp] theorem State.emit_tickets (s : State) (o : Outbound) : (s.emit o).tickets = s.tickets := rfl
@[simp] theorem State.emit_jobs (s : State) (o : Outbound) : (s.emit o).jobs = s.jobs := rfl
@[simp] theorem State.emit_copies (s : State) (o : Outbound) : (s.emit o).copies = s.copies := rfl
@[simp] theorem State.emit_mem (s : State) (o : Outbound) : (s.emit o).mem = s.mem := rfl
@[simp] theorem State.emit_macs (s : State) (o : Outbound) : (s.emit o).macs = s.macs := rfl
@[simp] theorem State.emit_dirty (s : State) (o : Outbound) : (s.emit o).dirty = s.dirty := rfl
@[simp] theorem State.emit_lost (s : State) (o : Outbound) : (s.emit o).lost = s.lost := rfl
@[simp] theorem State.emit_owners (s : State) (o : Outbound) : (s.emit o).owners = s.owners := rfl
@[simp] theorem State.emit_slotCache (s : State) (o : Outbound) : (s.emit o).slotCache = s.slotCache := rfl
@[simp] theorem State.emit_slotPast (s : State) (o : Outbound) : (s.emit o).slotPast = s.slotPast := rfl
@[simp] theorem State.emit_icache (s : State) (o : Outbound) : (s.emit o).icache = s.icache := rfl
@[simp] theorem State.emit_stores (s : State) (o : Outbound) : (s.emit o).stores = s.stores := rfl
@[simp] theorem State.emit_slow (s : State) (o : Outbound) : (s.emit o).slow = s.slow := rfl
@[simp] theorem State.emit_held (s : State) (o : Outbound) : (s.emit o).held = s.held := rfl
@[simp] theorem State.emit_owed (s : State) (o : Outbound) : (s.emit o).owed = s.owed := rfl
@[simp] theorem State.emit_packets (s : State) (o : Outbound) : (s.emit o).packets = s.packets := rfl
@[simp] theorem State.emit_pages (s : State) (o : Outbound) : (s.emit o).pages = s.pages := rfl
@[simp] theorem State.emit_cthr (s : State) (o : Outbound) : (s.emit o).cthr = s.cthr := rfl
@[simp] theorem State.emit_fwd (s : State) (o : Outbound) : (s.emit o).fwd = s.fwd := rfl
@[simp] theorem State.emit_csafree (s : State) (o : Outbound) : (s.emit o).csafree = s.csafree := rfl
@[simp] theorem State.emit_schedcfg (s : State) (o : Outbound) : (s.emit o).schedcfg = s.schedcfg := rfl
@[simp] theorem State.emit_hvec (s : State) (o : Outbound) : (s.emit o).hvec = s.hvec := rfl
@[simp] theorem State.emit_htab (s : State) (o : Outbound) : (s.emit o).htab = s.htab := rfl
@[simp] theorem State.emit_events (s : State) (o : Outbound) : (s.emit o).events = s.events := rfl
@[simp] theorem State.emit_eventLost (s : State) (o : Outbound) : (s.emit o).eventLost = s.eventLost := rfl
@[simp] theorem State.emit_retired (s : State) (o : Outbound) : (s.emit o).retired = s.retired := rfl
@[simp] theorem State.emit_corrected (s : State) (o : Outbound) : (s.emit o).corrected = s.corrected := rfl
@[simp] theorem State.emit_tests (s : State) (o : Outbound) : (s.emit o).tests = s.tests := rfl
@[simp] theorem State.emit_recent (s : State) (o : Outbound) : (s.emit o).recent = s.recent := rfl
@[simp] theorem State.emit_extents (s : State) (o : Outbound) : (s.emit o).extents = s.extents := rfl
@[simp] theorem State.emit_fuses (s : State) (o : Outbound) : (s.emit o).fuses = s.fuses := rfl
@[simp] theorem State.emit_clock (s : State) (o : Outbound) : (s.emit o).clock = s.clock := rfl
@[simp] theorem State.emit_thrus (s : State) (o : Outbound) : (s.emit o).thrus = s.thrus := rfl
@[simp] theorem State.emit_slowSince (s : State) (o : Outbound) : (s.emit o).slowSince = s.slowSince := rfl
@[simp] theorem State.emit_powerLimit (s : State) (o : Outbound) : (s.emit o).powerLimit = s.powerLimit := rfl
@[simp] theorem State.emit_tempLimit (s : State) (o : Outbound) : (s.emit o).tempLimit = s.tempLimit := rfl
@[simp] theorem State.emit_powerState (s : State) (o : Outbound) : (s.emit o).powerState = s.powerState := rfl
@[simp] theorem State.emit_fwActive (s : State) (o : Outbound) : (s.emit o).fwActive = s.fwActive := rfl
@[simp] theorem State.emit_fwInactive (s : State) (o : Outbound) : (s.emit o).fwInactive = s.fwInactive := rfl
@[simp] theorem State.emit_fwMinimum (s : State) (o : Outbound) : (s.emit o).fwMinimum = s.fwMinimum := rfl
@[simp] theorem State.emit_errorLog (s : State) (o : Outbound) : (s.emit o).errorLog = s.errorLog := rfl
@[simp] theorem State.emit_hostUp (s : State) (o : Outbound) : (s.emit o).hostUp = s.hostUp := rfl
@[simp] theorem State.emit_link (s : State) (o : Outbound) : (s.emit o).link = s.link := rfl
@[simp] theorem State.emit_devIndex (s : State) (o : Outbound) : (s.emit o).devIndex = s.devIndex := rfl
@[simp] theorem State.emit_domain (s : State) (o : Outbound) : (s.emit o).domain = s.domain := rfl
@[simp] theorem State.emit_boot (s : State) (o : Outbound) : (s.emit o).boot = s.boot := rfl
@[simp] theorem State.emit_pcie (s : State) (o : Outbound) : (s.emit o).pcie = s.pcie := rfl
@[simp] theorem State.emit_mailbox (s : State) (o : Outbound) : (s.emit o).mailbox = s.mailbox := rfl
@[simp] theorem State.emit_worlds (s : State) (o : Outbound) : (s.emit o).worlds = s.worlds := rfl
@[simp] theorem State.emit_report0 (s : State) (o : Outbound) : (s.emit o).report0 = s.report0 := rfl
@[simp] theorem State.emit_draws (s : State) (o : Outbound) : (s.emit o).draws = s.draws := rfl
@[simp] theorem State.emit_store (s : State) (o : Outbound) : (s.emit o).store = s.store := rfl
@[simp] theorem State.emit_seals (s : State) (o : Outbound) : (s.emit o).seals = s.seals := rfl
@[simp] theorem State.emit_slice (s : State) (o : Outbound) : (s.emit o).slice = s.slice := rfl
@[simp] theorem State.emit_agenda (s : State) (o : Outbound) : (s.emit o).agenda = s.agenda := rfl
@[simp] theorem State.emit_tick (s : State) (o : Outbound) : (s.emit o).tick = s.tick := rfl

/-! ### State.rawWrite -/

@[simp] theorem State.rawWrite_hart (s : State) (a : Nat) (bs : List Byte) : (s.rawWrite a bs).hart = s.hart := rfl
@[simp] theorem State.rawWrite_others (s : State) (a : Nat) (bs : List Byte) : (s.rawWrite a bs).others = s.others := rfl
@[simp] theorem State.rawWrite_gangs (s : State) (a : Nat) (bs : List Byte) : (s.rawWrite a bs).gangs = s.gangs := rfl
@[simp] theorem State.rawWrite_farLists (s : State) (a : Nat) (bs : List Byte) : (s.rawWrite a bs).farLists = s.farLists := rfl
@[simp] theorem State.rawWrite_handles (s : State) (a : Nat) (bs : List Byte) : (s.rawWrite a bs).handles = s.handles := rfl
@[simp] theorem State.rawWrite_launchTurns (s : State) (a : Nat) (bs : List Byte) : (s.rawWrite a bs).launchTurns = s.launchTurns := rfl
@[simp] theorem State.rawWrite_tickets (s : State) (a : Nat) (bs : List Byte) : (s.rawWrite a bs).tickets = s.tickets := rfl
@[simp] theorem State.rawWrite_jobs (s : State) (a : Nat) (bs : List Byte) : (s.rawWrite a bs).jobs = s.jobs := rfl
@[simp] theorem State.rawWrite_copies (s : State) (a : Nat) (bs : List Byte) : (s.rawWrite a bs).copies = s.copies := rfl
@[simp] theorem State.rawWrite_dirty (s : State) (a : Nat) (bs : List Byte) : (s.rawWrite a bs).dirty = s.dirty := rfl
@[simp] theorem State.rawWrite_owners (s : State) (a : Nat) (bs : List Byte) : (s.rawWrite a bs).owners = s.owners := rfl
@[simp] theorem State.rawWrite_slotCache (s : State) (a : Nat) (bs : List Byte) : (s.rawWrite a bs).slotCache = s.slotCache := rfl
@[simp] theorem State.rawWrite_slotPast (s : State) (a : Nat) (bs : List Byte) : (s.rawWrite a bs).slotPast = s.slotPast := rfl
@[simp] theorem State.rawWrite_icache (s : State) (a : Nat) (bs : List Byte) : (s.rawWrite a bs).icache = s.icache := rfl
@[simp] theorem State.rawWrite_stores (s : State) (a : Nat) (bs : List Byte) : (s.rawWrite a bs).stores = s.stores := rfl
@[simp] theorem State.rawWrite_slow (s : State) (a : Nat) (bs : List Byte) : (s.rawWrite a bs).slow = s.slow := rfl
@[simp] theorem State.rawWrite_held (s : State) (a : Nat) (bs : List Byte) : (s.rawWrite a bs).held = s.held := rfl
@[simp] theorem State.rawWrite_owed (s : State) (a : Nat) (bs : List Byte) : (s.rawWrite a bs).owed = s.owed := rfl
@[simp] theorem State.rawWrite_packets (s : State) (a : Nat) (bs : List Byte) : (s.rawWrite a bs).packets = s.packets := rfl
@[simp] theorem State.rawWrite_pages (s : State) (a : Nat) (bs : List Byte) : (s.rawWrite a bs).pages = s.pages := rfl
@[simp] theorem State.rawWrite_cthr (s : State) (a : Nat) (bs : List Byte) : (s.rawWrite a bs).cthr = s.cthr := rfl
@[simp] theorem State.rawWrite_fwd (s : State) (a : Nat) (bs : List Byte) : (s.rawWrite a bs).fwd = s.fwd := rfl
@[simp] theorem State.rawWrite_csafree (s : State) (a : Nat) (bs : List Byte) : (s.rawWrite a bs).csafree = s.csafree := rfl
@[simp] theorem State.rawWrite_schedcfg (s : State) (a : Nat) (bs : List Byte) : (s.rawWrite a bs).schedcfg = s.schedcfg := rfl
@[simp] theorem State.rawWrite_hvec (s : State) (a : Nat) (bs : List Byte) : (s.rawWrite a bs).hvec = s.hvec := rfl
@[simp] theorem State.rawWrite_htab (s : State) (a : Nat) (bs : List Byte) : (s.rawWrite a bs).htab = s.htab := rfl
@[simp] theorem State.rawWrite_events (s : State) (a : Nat) (bs : List Byte) : (s.rawWrite a bs).events = s.events := rfl
@[simp] theorem State.rawWrite_eventLost (s : State) (a : Nat) (bs : List Byte) : (s.rawWrite a bs).eventLost = s.eventLost := rfl
@[simp] theorem State.rawWrite_retired (s : State) (a : Nat) (bs : List Byte) : (s.rawWrite a bs).retired = s.retired := rfl
@[simp] theorem State.rawWrite_corrected (s : State) (a : Nat) (bs : List Byte) : (s.rawWrite a bs).corrected = s.corrected := rfl
@[simp] theorem State.rawWrite_tests (s : State) (a : Nat) (bs : List Byte) : (s.rawWrite a bs).tests = s.tests := rfl
@[simp] theorem State.rawWrite_recent (s : State) (a : Nat) (bs : List Byte) : (s.rawWrite a bs).recent = s.recent := rfl
@[simp] theorem State.rawWrite_extents (s : State) (a : Nat) (bs : List Byte) : (s.rawWrite a bs).extents = s.extents := rfl
@[simp] theorem State.rawWrite_fuses (s : State) (a : Nat) (bs : List Byte) : (s.rawWrite a bs).fuses = s.fuses := rfl
@[simp] theorem State.rawWrite_clock (s : State) (a : Nat) (bs : List Byte) : (s.rawWrite a bs).clock = s.clock := rfl
@[simp] theorem State.rawWrite_thrus (s : State) (a : Nat) (bs : List Byte) : (s.rawWrite a bs).thrus = s.thrus := rfl
@[simp] theorem State.rawWrite_slowSince (s : State) (a : Nat) (bs : List Byte) : (s.rawWrite a bs).slowSince = s.slowSince := rfl
@[simp] theorem State.rawWrite_powerLimit (s : State) (a : Nat) (bs : List Byte) : (s.rawWrite a bs).powerLimit = s.powerLimit := rfl
@[simp] theorem State.rawWrite_tempLimit (s : State) (a : Nat) (bs : List Byte) : (s.rawWrite a bs).tempLimit = s.tempLimit := rfl
@[simp] theorem State.rawWrite_powerState (s : State) (a : Nat) (bs : List Byte) : (s.rawWrite a bs).powerState = s.powerState := rfl
@[simp] theorem State.rawWrite_fwActive (s : State) (a : Nat) (bs : List Byte) : (s.rawWrite a bs).fwActive = s.fwActive := rfl
@[simp] theorem State.rawWrite_fwInactive (s : State) (a : Nat) (bs : List Byte) : (s.rawWrite a bs).fwInactive = s.fwInactive := rfl
@[simp] theorem State.rawWrite_fwMinimum (s : State) (a : Nat) (bs : List Byte) : (s.rawWrite a bs).fwMinimum = s.fwMinimum := rfl
@[simp] theorem State.rawWrite_errorLog (s : State) (a : Nat) (bs : List Byte) : (s.rawWrite a bs).errorLog = s.errorLog := rfl
@[simp] theorem State.rawWrite_outbox (s : State) (a : Nat) (bs : List Byte) : (s.rawWrite a bs).outbox = s.outbox := rfl
@[simp] theorem State.rawWrite_hostUp (s : State) (a : Nat) (bs : List Byte) : (s.rawWrite a bs).hostUp = s.hostUp := rfl
@[simp] theorem State.rawWrite_link (s : State) (a : Nat) (bs : List Byte) : (s.rawWrite a bs).link = s.link := rfl
@[simp] theorem State.rawWrite_devIndex (s : State) (a : Nat) (bs : List Byte) : (s.rawWrite a bs).devIndex = s.devIndex := rfl
@[simp] theorem State.rawWrite_domain (s : State) (a : Nat) (bs : List Byte) : (s.rawWrite a bs).domain = s.domain := rfl
@[simp] theorem State.rawWrite_boot (s : State) (a : Nat) (bs : List Byte) : (s.rawWrite a bs).boot = s.boot := rfl
@[simp] theorem State.rawWrite_pcie (s : State) (a : Nat) (bs : List Byte) : (s.rawWrite a bs).pcie = s.pcie := rfl
@[simp] theorem State.rawWrite_mailbox (s : State) (a : Nat) (bs : List Byte) : (s.rawWrite a bs).mailbox = s.mailbox := rfl
@[simp] theorem State.rawWrite_worlds (s : State) (a : Nat) (bs : List Byte) : (s.rawWrite a bs).worlds = s.worlds := rfl
@[simp] theorem State.rawWrite_report0 (s : State) (a : Nat) (bs : List Byte) : (s.rawWrite a bs).report0 = s.report0 := rfl
@[simp] theorem State.rawWrite_draws (s : State) (a : Nat) (bs : List Byte) : (s.rawWrite a bs).draws = s.draws := rfl
@[simp] theorem State.rawWrite_store (s : State) (a : Nat) (bs : List Byte) : (s.rawWrite a bs).store = s.store := rfl
@[simp] theorem State.rawWrite_seals (s : State) (a : Nat) (bs : List Byte) : (s.rawWrite a bs).seals = s.seals := rfl
@[simp] theorem State.rawWrite_slice (s : State) (a : Nat) (bs : List Byte) : (s.rawWrite a bs).slice = s.slice := rfl
@[simp] theorem State.rawWrite_agenda (s : State) (a : Nat) (bs : List Byte) : (s.rawWrite a bs).agenda = s.agenda := rfl
@[simp] theorem State.rawWrite_tick (s : State) (a : Nat) (bs : List Byte) : (s.rawWrite a bs).tick = s.tick := rfl

/-! ### State.post -/

@[simp] theorem State.post_hart (s : State) (c : Nat) (d v : Word) : (s.post c d v).hart = s.hart := by unfold State.post; split <;> rfl
@[simp] theorem State.post_others (s : State) (c : Nat) (d v : Word) : (s.post c d v).others = s.others := by unfold State.post; split <;> rfl
@[simp] theorem State.post_gangs (s : State) (c : Nat) (d v : Word) : (s.post c d v).gangs = s.gangs := by unfold State.post; split <;> rfl
@[simp] theorem State.post_farLists (s : State) (c : Nat) (d v : Word) : (s.post c d v).farLists = s.farLists := by unfold State.post; split <;> rfl
@[simp] theorem State.post_handles (s : State) (c : Nat) (d v : Word) : (s.post c d v).handles = s.handles := by unfold State.post; split <;> rfl
@[simp] theorem State.post_launchTurns (s : State) (c : Nat) (d v : Word) : (s.post c d v).launchTurns = s.launchTurns := by unfold State.post; split <;> rfl
@[simp] theorem State.post_tickets (s : State) (c : Nat) (d v : Word) : (s.post c d v).tickets = s.tickets := by unfold State.post; split <;> rfl
@[simp] theorem State.post_jobs (s : State) (c : Nat) (d v : Word) : (s.post c d v).jobs = s.jobs := by unfold State.post; split <;> rfl
@[simp] theorem State.post_copies (s : State) (c : Nat) (d v : Word) : (s.post c d v).copies = s.copies := by unfold State.post; split <;> rfl
@[simp] theorem State.post_mem (s : State) (c : Nat) (d v : Word) : (s.post c d v).mem = s.mem := by unfold State.post; split <;> rfl
@[simp] theorem State.post_macs (s : State) (c : Nat) (d v : Word) : (s.post c d v).macs = s.macs := by unfold State.post; split <;> rfl
@[simp] theorem State.post_dirty (s : State) (c : Nat) (d v : Word) : (s.post c d v).dirty = s.dirty := by unfold State.post; split <;> rfl
@[simp] theorem State.post_lost (s : State) (c : Nat) (d v : Word) : (s.post c d v).lost = s.lost := by unfold State.post; split <;> rfl
@[simp] theorem State.post_owners (s : State) (c : Nat) (d v : Word) : (s.post c d v).owners = s.owners := by unfold State.post; split <;> rfl
@[simp] theorem State.post_slotCache (s : State) (c : Nat) (d v : Word) : (s.post c d v).slotCache = s.slotCache := by unfold State.post; split <;> rfl
@[simp] theorem State.post_slotPast (s : State) (c : Nat) (d v : Word) : (s.post c d v).slotPast = s.slotPast := by unfold State.post; split <;> rfl
@[simp] theorem State.post_icache (s : State) (c : Nat) (d v : Word) : (s.post c d v).icache = s.icache := by unfold State.post; split <;> rfl
@[simp] theorem State.post_stores (s : State) (c : Nat) (d v : Word) : (s.post c d v).stores = s.stores := by unfold State.post; split <;> rfl
@[simp] theorem State.post_slow (s : State) (c : Nat) (d v : Word) : (s.post c d v).slow = s.slow := by unfold State.post; split <;> rfl
@[simp] theorem State.post_held (s : State) (c : Nat) (d v : Word) : (s.post c d v).held = s.held := by unfold State.post; split <;> rfl
@[simp] theorem State.post_owed (s : State) (c : Nat) (d v : Word) : (s.post c d v).owed = s.owed := by unfold State.post; split <;> rfl
@[simp] theorem State.post_packets (s : State) (c : Nat) (d v : Word) : (s.post c d v).packets = s.packets := by unfold State.post; split <;> rfl
@[simp] theorem State.post_pages (s : State) (c : Nat) (d v : Word) : (s.post c d v).pages = s.pages := by unfold State.post; split <;> rfl
@[simp] theorem State.post_cthr (s : State) (c : Nat) (d v : Word) : (s.post c d v).cthr = s.cthr := by unfold State.post; split <;> rfl
@[simp] theorem State.post_fwd (s : State) (c : Nat) (d v : Word) : (s.post c d v).fwd = s.fwd := by unfold State.post; split <;> rfl
@[simp] theorem State.post_csafree (s : State) (c : Nat) (d v : Word) : (s.post c d v).csafree = s.csafree := by unfold State.post; split <;> rfl
@[simp] theorem State.post_schedcfg (s : State) (c : Nat) (d v : Word) : (s.post c d v).schedcfg = s.schedcfg := by unfold State.post; split <;> rfl
@[simp] theorem State.post_hvec (s : State) (c : Nat) (d v : Word) : (s.post c d v).hvec = s.hvec := by unfold State.post; split <;> rfl
@[simp] theorem State.post_htab (s : State) (c : Nat) (d v : Word) : (s.post c d v).htab = s.htab := by unfold State.post; split <;> rfl
@[simp] theorem State.post_retired (s : State) (c : Nat) (d v : Word) : (s.post c d v).retired = s.retired := by unfold State.post; split <;> rfl
@[simp] theorem State.post_corrected (s : State) (c : Nat) (d v : Word) : (s.post c d v).corrected = s.corrected := by unfold State.post; split <;> rfl
@[simp] theorem State.post_tests (s : State) (c : Nat) (d v : Word) : (s.post c d v).tests = s.tests := by unfold State.post; split <;> rfl
@[simp] theorem State.post_recent (s : State) (c : Nat) (d v : Word) : (s.post c d v).recent = s.recent := by unfold State.post; split <;> rfl
@[simp] theorem State.post_extents (s : State) (c : Nat) (d v : Word) : (s.post c d v).extents = s.extents := by unfold State.post; split <;> rfl
@[simp] theorem State.post_fuses (s : State) (c : Nat) (d v : Word) : (s.post c d v).fuses = s.fuses := by unfold State.post; split <;> rfl
@[simp] theorem State.post_clock (s : State) (c : Nat) (d v : Word) : (s.post c d v).clock = s.clock := by unfold State.post; split <;> rfl
@[simp] theorem State.post_thrus (s : State) (c : Nat) (d v : Word) : (s.post c d v).thrus = s.thrus := by unfold State.post; split <;> rfl
@[simp] theorem State.post_slowSince (s : State) (c : Nat) (d v : Word) : (s.post c d v).slowSince = s.slowSince := by unfold State.post; split <;> rfl
@[simp] theorem State.post_powerLimit (s : State) (c : Nat) (d v : Word) : (s.post c d v).powerLimit = s.powerLimit := by unfold State.post; split <;> rfl
@[simp] theorem State.post_tempLimit (s : State) (c : Nat) (d v : Word) : (s.post c d v).tempLimit = s.tempLimit := by unfold State.post; split <;> rfl
@[simp] theorem State.post_powerState (s : State) (c : Nat) (d v : Word) : (s.post c d v).powerState = s.powerState := by unfold State.post; split <;> rfl
@[simp] theorem State.post_fwActive (s : State) (c : Nat) (d v : Word) : (s.post c d v).fwActive = s.fwActive := by unfold State.post; split <;> rfl
@[simp] theorem State.post_fwInactive (s : State) (c : Nat) (d v : Word) : (s.post c d v).fwInactive = s.fwInactive := by unfold State.post; split <;> rfl
@[simp] theorem State.post_fwMinimum (s : State) (c : Nat) (d v : Word) : (s.post c d v).fwMinimum = s.fwMinimum := by unfold State.post; split <;> rfl
@[simp] theorem State.post_errorLog (s : State) (c : Nat) (d v : Word) : (s.post c d v).errorLog = s.errorLog := by unfold State.post; split <;> rfl
@[simp] theorem State.post_outbox (s : State) (c : Nat) (d v : Word) : (s.post c d v).outbox = s.outbox := by unfold State.post; split <;> rfl
@[simp] theorem State.post_hostUp (s : State) (c : Nat) (d v : Word) : (s.post c d v).hostUp = s.hostUp := by unfold State.post; split <;> rfl
@[simp] theorem State.post_link (s : State) (c : Nat) (d v : Word) : (s.post c d v).link = s.link := by unfold State.post; split <;> rfl
@[simp] theorem State.post_devIndex (s : State) (c : Nat) (d v : Word) : (s.post c d v).devIndex = s.devIndex := by unfold State.post; split <;> rfl
@[simp] theorem State.post_domain (s : State) (c : Nat) (d v : Word) : (s.post c d v).domain = s.domain := by unfold State.post; split <;> rfl
@[simp] theorem State.post_boot (s : State) (c : Nat) (d v : Word) : (s.post c d v).boot = s.boot := by unfold State.post; split <;> rfl
@[simp] theorem State.post_pcie (s : State) (c : Nat) (d v : Word) : (s.post c d v).pcie = s.pcie := by unfold State.post; split <;> rfl
@[simp] theorem State.post_mailbox (s : State) (c : Nat) (d v : Word) : (s.post c d v).mailbox = s.mailbox := by unfold State.post; split <;> rfl
@[simp] theorem State.post_worlds (s : State) (c : Nat) (d v : Word) : (s.post c d v).worlds = s.worlds := by unfold State.post; split <;> rfl
@[simp] theorem State.post_report0 (s : State) (c : Nat) (d v : Word) : (s.post c d v).report0 = s.report0 := by unfold State.post; split <;> rfl
@[simp] theorem State.post_draws (s : State) (c : Nat) (d v : Word) : (s.post c d v).draws = s.draws := by unfold State.post; split <;> rfl
@[simp] theorem State.post_store (s : State) (c : Nat) (d v : Word) : (s.post c d v).store = s.store := by unfold State.post; split <;> rfl
@[simp] theorem State.post_seals (s : State) (c : Nat) (d v : Word) : (s.post c d v).seals = s.seals := by unfold State.post; split <;> rfl
@[simp] theorem State.post_slice (s : State) (c : Nat) (d v : Word) : (s.post c d v).slice = s.slice := by unfold State.post; split <;> rfl
@[simp] theorem State.post_agenda (s : State) (c : Nat) (d v : Word) : (s.post c d v).agenda = s.agenda := by unfold State.post; split <;> rfl
@[simp] theorem State.post_tick (s : State) (c : Nat) (d v : Word) : (s.post c d v).tick = s.tick := by unfold State.post; split <;> rfl

/-! ### State.updGang -/

@[simp] theorem State.updGang_hart (s : State) (g : BitVec 32) (f : Gang → Gang) : (s.updGang g f).hart = s.hart := rfl
@[simp] theorem State.updGang_others (s : State) (g : BitVec 32) (f : Gang → Gang) : (s.updGang g f).others = s.others := rfl
@[simp] theorem State.updGang_farLists (s : State) (g : BitVec 32) (f : Gang → Gang) : (s.updGang g f).farLists = s.farLists := rfl
@[simp] theorem State.updGang_handles (s : State) (g : BitVec 32) (f : Gang → Gang) : (s.updGang g f).handles = s.handles := rfl
@[simp] theorem State.updGang_launchTurns (s : State) (g : BitVec 32) (f : Gang → Gang) : (s.updGang g f).launchTurns = s.launchTurns := rfl
@[simp] theorem State.updGang_tickets (s : State) (g : BitVec 32) (f : Gang → Gang) : (s.updGang g f).tickets = s.tickets := rfl
@[simp] theorem State.updGang_jobs (s : State) (g : BitVec 32) (f : Gang → Gang) : (s.updGang g f).jobs = s.jobs := rfl
@[simp] theorem State.updGang_copies (s : State) (g : BitVec 32) (f : Gang → Gang) : (s.updGang g f).copies = s.copies := rfl
@[simp] theorem State.updGang_mem (s : State) (g : BitVec 32) (f : Gang → Gang) : (s.updGang g f).mem = s.mem := rfl
@[simp] theorem State.updGang_macs (s : State) (g : BitVec 32) (f : Gang → Gang) : (s.updGang g f).macs = s.macs := rfl
@[simp] theorem State.updGang_dirty (s : State) (g : BitVec 32) (f : Gang → Gang) : (s.updGang g f).dirty = s.dirty := rfl
@[simp] theorem State.updGang_lost (s : State) (g : BitVec 32) (f : Gang → Gang) : (s.updGang g f).lost = s.lost := rfl
@[simp] theorem State.updGang_owners (s : State) (g : BitVec 32) (f : Gang → Gang) : (s.updGang g f).owners = s.owners := rfl
@[simp] theorem State.updGang_slotCache (s : State) (g : BitVec 32) (f : Gang → Gang) : (s.updGang g f).slotCache = s.slotCache := rfl
@[simp] theorem State.updGang_slotPast (s : State) (g : BitVec 32) (f : Gang → Gang) : (s.updGang g f).slotPast = s.slotPast := rfl
@[simp] theorem State.updGang_icache (s : State) (g : BitVec 32) (f : Gang → Gang) : (s.updGang g f).icache = s.icache := rfl
@[simp] theorem State.updGang_stores (s : State) (g : BitVec 32) (f : Gang → Gang) : (s.updGang g f).stores = s.stores := rfl
@[simp] theorem State.updGang_slow (s : State) (g : BitVec 32) (f : Gang → Gang) : (s.updGang g f).slow = s.slow := rfl
@[simp] theorem State.updGang_held (s : State) (g : BitVec 32) (f : Gang → Gang) : (s.updGang g f).held = s.held := rfl
@[simp] theorem State.updGang_owed (s : State) (g : BitVec 32) (f : Gang → Gang) : (s.updGang g f).owed = s.owed := rfl
@[simp] theorem State.updGang_packets (s : State) (g : BitVec 32) (f : Gang → Gang) : (s.updGang g f).packets = s.packets := rfl
@[simp] theorem State.updGang_pages (s : State) (g : BitVec 32) (f : Gang → Gang) : (s.updGang g f).pages = s.pages := rfl
@[simp] theorem State.updGang_cthr (s : State) (g : BitVec 32) (f : Gang → Gang) : (s.updGang g f).cthr = s.cthr := rfl
@[simp] theorem State.updGang_fwd (s : State) (g : BitVec 32) (f : Gang → Gang) : (s.updGang g f).fwd = s.fwd := rfl
@[simp] theorem State.updGang_csafree (s : State) (g : BitVec 32) (f : Gang → Gang) : (s.updGang g f).csafree = s.csafree := rfl
@[simp] theorem State.updGang_schedcfg (s : State) (g : BitVec 32) (f : Gang → Gang) : (s.updGang g f).schedcfg = s.schedcfg := rfl
@[simp] theorem State.updGang_hvec (s : State) (g : BitVec 32) (f : Gang → Gang) : (s.updGang g f).hvec = s.hvec := rfl
@[simp] theorem State.updGang_htab (s : State) (g : BitVec 32) (f : Gang → Gang) : (s.updGang g f).htab = s.htab := rfl
@[simp] theorem State.updGang_events (s : State) (g : BitVec 32) (f : Gang → Gang) : (s.updGang g f).events = s.events := rfl
@[simp] theorem State.updGang_eventLost (s : State) (g : BitVec 32) (f : Gang → Gang) : (s.updGang g f).eventLost = s.eventLost := rfl
@[simp] theorem State.updGang_retired (s : State) (g : BitVec 32) (f : Gang → Gang) : (s.updGang g f).retired = s.retired := rfl
@[simp] theorem State.updGang_corrected (s : State) (g : BitVec 32) (f : Gang → Gang) : (s.updGang g f).corrected = s.corrected := rfl
@[simp] theorem State.updGang_tests (s : State) (g : BitVec 32) (f : Gang → Gang) : (s.updGang g f).tests = s.tests := rfl
@[simp] theorem State.updGang_recent (s : State) (g : BitVec 32) (f : Gang → Gang) : (s.updGang g f).recent = s.recent := rfl
@[simp] theorem State.updGang_extents (s : State) (g : BitVec 32) (f : Gang → Gang) : (s.updGang g f).extents = s.extents := rfl
@[simp] theorem State.updGang_fuses (s : State) (g : BitVec 32) (f : Gang → Gang) : (s.updGang g f).fuses = s.fuses := rfl
@[simp] theorem State.updGang_clock (s : State) (g : BitVec 32) (f : Gang → Gang) : (s.updGang g f).clock = s.clock := rfl
@[simp] theorem State.updGang_thrus (s : State) (g : BitVec 32) (f : Gang → Gang) : (s.updGang g f).thrus = s.thrus := rfl
@[simp] theorem State.updGang_slowSince (s : State) (g : BitVec 32) (f : Gang → Gang) : (s.updGang g f).slowSince = s.slowSince := rfl
@[simp] theorem State.updGang_powerLimit (s : State) (g : BitVec 32) (f : Gang → Gang) : (s.updGang g f).powerLimit = s.powerLimit := rfl
@[simp] theorem State.updGang_tempLimit (s : State) (g : BitVec 32) (f : Gang → Gang) : (s.updGang g f).tempLimit = s.tempLimit := rfl
@[simp] theorem State.updGang_powerState (s : State) (g : BitVec 32) (f : Gang → Gang) : (s.updGang g f).powerState = s.powerState := rfl
@[simp] theorem State.updGang_fwActive (s : State) (g : BitVec 32) (f : Gang → Gang) : (s.updGang g f).fwActive = s.fwActive := rfl
@[simp] theorem State.updGang_fwInactive (s : State) (g : BitVec 32) (f : Gang → Gang) : (s.updGang g f).fwInactive = s.fwInactive := rfl
@[simp] theorem State.updGang_fwMinimum (s : State) (g : BitVec 32) (f : Gang → Gang) : (s.updGang g f).fwMinimum = s.fwMinimum := rfl
@[simp] theorem State.updGang_errorLog (s : State) (g : BitVec 32) (f : Gang → Gang) : (s.updGang g f).errorLog = s.errorLog := rfl
@[simp] theorem State.updGang_outbox (s : State) (g : BitVec 32) (f : Gang → Gang) : (s.updGang g f).outbox = s.outbox := rfl
@[simp] theorem State.updGang_hostUp (s : State) (g : BitVec 32) (f : Gang → Gang) : (s.updGang g f).hostUp = s.hostUp := rfl
@[simp] theorem State.updGang_link (s : State) (g : BitVec 32) (f : Gang → Gang) : (s.updGang g f).link = s.link := rfl
@[simp] theorem State.updGang_devIndex (s : State) (g : BitVec 32) (f : Gang → Gang) : (s.updGang g f).devIndex = s.devIndex := rfl
@[simp] theorem State.updGang_domain (s : State) (g : BitVec 32) (f : Gang → Gang) : (s.updGang g f).domain = s.domain := rfl
@[simp] theorem State.updGang_boot (s : State) (g : BitVec 32) (f : Gang → Gang) : (s.updGang g f).boot = s.boot := rfl
@[simp] theorem State.updGang_pcie (s : State) (g : BitVec 32) (f : Gang → Gang) : (s.updGang g f).pcie = s.pcie := rfl
@[simp] theorem State.updGang_mailbox (s : State) (g : BitVec 32) (f : Gang → Gang) : (s.updGang g f).mailbox = s.mailbox := rfl
@[simp] theorem State.updGang_worlds (s : State) (g : BitVec 32) (f : Gang → Gang) : (s.updGang g f).worlds = s.worlds := rfl
@[simp] theorem State.updGang_report0 (s : State) (g : BitVec 32) (f : Gang → Gang) : (s.updGang g f).report0 = s.report0 := rfl
@[simp] theorem State.updGang_draws (s : State) (g : BitVec 32) (f : Gang → Gang) : (s.updGang g f).draws = s.draws := rfl
@[simp] theorem State.updGang_store (s : State) (g : BitVec 32) (f : Gang → Gang) : (s.updGang g f).store = s.store := rfl
@[simp] theorem State.updGang_seals (s : State) (g : BitVec 32) (f : Gang → Gang) : (s.updGang g f).seals = s.seals := rfl
@[simp] theorem State.updGang_slice (s : State) (g : BitVec 32) (f : Gang → Gang) : (s.updGang g f).slice = s.slice := rfl
@[simp] theorem State.updGang_agenda (s : State) (g : BitVec 32) (f : Gang → Gang) : (s.updGang g f).agenda = s.agenda := rfl
@[simp] theorem State.updGang_tick (s : State) (g : BitVec 32) (f : Gang → Gang) : (s.updGang g f).tick = s.tick := rfl

/-! ### State.keepOwed -/

@[simp] theorem State.keepOwed_hart (s : State) : (s.keepOwed).hart = s.hart := rfl
@[simp] theorem State.keepOwed_others (s : State) : (s.keepOwed).others = s.others := rfl
@[simp] theorem State.keepOwed_gangs (s : State) : (s.keepOwed).gangs = s.gangs := rfl
@[simp] theorem State.keepOwed_farLists (s : State) : (s.keepOwed).farLists = s.farLists := rfl
@[simp] theorem State.keepOwed_handles (s : State) : (s.keepOwed).handles = s.handles := rfl
@[simp] theorem State.keepOwed_launchTurns (s : State) : (s.keepOwed).launchTurns = s.launchTurns := rfl
@[simp] theorem State.keepOwed_tickets (s : State) : (s.keepOwed).tickets = s.tickets := rfl
@[simp] theorem State.keepOwed_jobs (s : State) : (s.keepOwed).jobs = s.jobs := rfl
@[simp] theorem State.keepOwed_copies (s : State) : (s.keepOwed).copies = s.copies := rfl
@[simp] theorem State.keepOwed_mem (s : State) : (s.keepOwed).mem = s.mem := rfl
@[simp] theorem State.keepOwed_macs (s : State) : (s.keepOwed).macs = s.macs := rfl
@[simp] theorem State.keepOwed_dirty (s : State) : (s.keepOwed).dirty = s.dirty := rfl
@[simp] theorem State.keepOwed_lost (s : State) : (s.keepOwed).lost = s.lost := rfl
@[simp] theorem State.keepOwed_owners (s : State) : (s.keepOwed).owners = s.owners := rfl
@[simp] theorem State.keepOwed_slotCache (s : State) : (s.keepOwed).slotCache = s.slotCache := rfl
@[simp] theorem State.keepOwed_slotPast (s : State) : (s.keepOwed).slotPast = s.slotPast := rfl
@[simp] theorem State.keepOwed_icache (s : State) : (s.keepOwed).icache = s.icache := rfl
@[simp] theorem State.keepOwed_stores (s : State) : (s.keepOwed).stores = s.stores := rfl
@[simp] theorem State.keepOwed_slow (s : State) : (s.keepOwed).slow = s.slow := rfl
@[simp] theorem State.keepOwed_packets (s : State) : (s.keepOwed).packets = s.packets := rfl
@[simp] theorem State.keepOwed_pages (s : State) : (s.keepOwed).pages = s.pages := rfl
@[simp] theorem State.keepOwed_cthr (s : State) : (s.keepOwed).cthr = s.cthr := rfl
@[simp] theorem State.keepOwed_fwd (s : State) : (s.keepOwed).fwd = s.fwd := rfl
@[simp] theorem State.keepOwed_csafree (s : State) : (s.keepOwed).csafree = s.csafree := rfl
@[simp] theorem State.keepOwed_schedcfg (s : State) : (s.keepOwed).schedcfg = s.schedcfg := rfl
@[simp] theorem State.keepOwed_hvec (s : State) : (s.keepOwed).hvec = s.hvec := rfl
@[simp] theorem State.keepOwed_htab (s : State) : (s.keepOwed).htab = s.htab := rfl
@[simp] theorem State.keepOwed_events (s : State) : (s.keepOwed).events = s.events := rfl
@[simp] theorem State.keepOwed_eventLost (s : State) : (s.keepOwed).eventLost = s.eventLost := rfl
@[simp] theorem State.keepOwed_retired (s : State) : (s.keepOwed).retired = s.retired := rfl
@[simp] theorem State.keepOwed_corrected (s : State) : (s.keepOwed).corrected = s.corrected := rfl
@[simp] theorem State.keepOwed_tests (s : State) : (s.keepOwed).tests = s.tests := rfl
@[simp] theorem State.keepOwed_recent (s : State) : (s.keepOwed).recent = s.recent := rfl
@[simp] theorem State.keepOwed_extents (s : State) : (s.keepOwed).extents = s.extents := rfl
@[simp] theorem State.keepOwed_fuses (s : State) : (s.keepOwed).fuses = s.fuses := rfl
@[simp] theorem State.keepOwed_clock (s : State) : (s.keepOwed).clock = s.clock := rfl
@[simp] theorem State.keepOwed_thrus (s : State) : (s.keepOwed).thrus = s.thrus := rfl
@[simp] theorem State.keepOwed_slowSince (s : State) : (s.keepOwed).slowSince = s.slowSince := rfl
@[simp] theorem State.keepOwed_powerLimit (s : State) : (s.keepOwed).powerLimit = s.powerLimit := rfl
@[simp] theorem State.keepOwed_tempLimit (s : State) : (s.keepOwed).tempLimit = s.tempLimit := rfl
@[simp] theorem State.keepOwed_powerState (s : State) : (s.keepOwed).powerState = s.powerState := rfl
@[simp] theorem State.keepOwed_fwActive (s : State) : (s.keepOwed).fwActive = s.fwActive := rfl
@[simp] theorem State.keepOwed_fwInactive (s : State) : (s.keepOwed).fwInactive = s.fwInactive := rfl
@[simp] theorem State.keepOwed_fwMinimum (s : State) : (s.keepOwed).fwMinimum = s.fwMinimum := rfl
@[simp] theorem State.keepOwed_errorLog (s : State) : (s.keepOwed).errorLog = s.errorLog := rfl
@[simp] theorem State.keepOwed_outbox (s : State) : (s.keepOwed).outbox = s.outbox := rfl
@[simp] theorem State.keepOwed_hostUp (s : State) : (s.keepOwed).hostUp = s.hostUp := rfl
@[simp] theorem State.keepOwed_link (s : State) : (s.keepOwed).link = s.link := rfl
@[simp] theorem State.keepOwed_devIndex (s : State) : (s.keepOwed).devIndex = s.devIndex := rfl
@[simp] theorem State.keepOwed_domain (s : State) : (s.keepOwed).domain = s.domain := rfl
@[simp] theorem State.keepOwed_boot (s : State) : (s.keepOwed).boot = s.boot := rfl
@[simp] theorem State.keepOwed_pcie (s : State) : (s.keepOwed).pcie = s.pcie := rfl
@[simp] theorem State.keepOwed_mailbox (s : State) : (s.keepOwed).mailbox = s.mailbox := rfl
@[simp] theorem State.keepOwed_worlds (s : State) : (s.keepOwed).worlds = s.worlds := rfl
@[simp] theorem State.keepOwed_report0 (s : State) : (s.keepOwed).report0 = s.report0 := rfl
@[simp] theorem State.keepOwed_draws (s : State) : (s.keepOwed).draws = s.draws := rfl
@[simp] theorem State.keepOwed_store (s : State) : (s.keepOwed).store = s.store := rfl
@[simp] theorem State.keepOwed_seals (s : State) : (s.keepOwed).seals = s.seals := rfl
@[simp] theorem State.keepOwed_slice (s : State) : (s.keepOwed).slice = s.slice := rfl
@[simp] theorem State.keepOwed_agenda (s : State) : (s.keepOwed).agenda = s.agenda := rfl
@[simp] theorem State.keepOwed_tick (s : State) : (s.keepOwed).tick = s.tick := rfl

/-! ### State.takeOwed -/

@[simp] theorem State.takeOwed_hart (s : State) (i : AmoId) : (s.takeOwed i).hart = s.hart := rfl
@[simp] theorem State.takeOwed_others (s : State) (i : AmoId) : (s.takeOwed i).others = s.others := rfl
@[simp] theorem State.takeOwed_gangs (s : State) (i : AmoId) : (s.takeOwed i).gangs = s.gangs := rfl
@[simp] theorem State.takeOwed_farLists (s : State) (i : AmoId) : (s.takeOwed i).farLists = s.farLists := rfl
@[simp] theorem State.takeOwed_handles (s : State) (i : AmoId) : (s.takeOwed i).handles = s.handles := rfl
@[simp] theorem State.takeOwed_launchTurns (s : State) (i : AmoId) : (s.takeOwed i).launchTurns = s.launchTurns := rfl
@[simp] theorem State.takeOwed_tickets (s : State) (i : AmoId) : (s.takeOwed i).tickets = s.tickets := rfl
@[simp] theorem State.takeOwed_jobs (s : State) (i : AmoId) : (s.takeOwed i).jobs = s.jobs := rfl
@[simp] theorem State.takeOwed_copies (s : State) (i : AmoId) : (s.takeOwed i).copies = s.copies := rfl
@[simp] theorem State.takeOwed_mem (s : State) (i : AmoId) : (s.takeOwed i).mem = s.mem := rfl
@[simp] theorem State.takeOwed_macs (s : State) (i : AmoId) : (s.takeOwed i).macs = s.macs := rfl
@[simp] theorem State.takeOwed_dirty (s : State) (i : AmoId) : (s.takeOwed i).dirty = s.dirty := rfl
@[simp] theorem State.takeOwed_lost (s : State) (i : AmoId) : (s.takeOwed i).lost = s.lost := rfl
@[simp] theorem State.takeOwed_owners (s : State) (i : AmoId) : (s.takeOwed i).owners = s.owners := rfl
@[simp] theorem State.takeOwed_slotCache (s : State) (i : AmoId) : (s.takeOwed i).slotCache = s.slotCache := rfl
@[simp] theorem State.takeOwed_slotPast (s : State) (i : AmoId) : (s.takeOwed i).slotPast = s.slotPast := rfl
@[simp] theorem State.takeOwed_icache (s : State) (i : AmoId) : (s.takeOwed i).icache = s.icache := rfl
@[simp] theorem State.takeOwed_stores (s : State) (i : AmoId) : (s.takeOwed i).stores = s.stores := rfl
@[simp] theorem State.takeOwed_slow (s : State) (i : AmoId) : (s.takeOwed i).slow = s.slow := rfl
@[simp] theorem State.takeOwed_held (s : State) (i : AmoId) : (s.takeOwed i).held = s.held := rfl
@[simp] theorem State.takeOwed_packets (s : State) (i : AmoId) : (s.takeOwed i).packets = s.packets := rfl
@[simp] theorem State.takeOwed_pages (s : State) (i : AmoId) : (s.takeOwed i).pages = s.pages := rfl
@[simp] theorem State.takeOwed_cthr (s : State) (i : AmoId) : (s.takeOwed i).cthr = s.cthr := rfl
@[simp] theorem State.takeOwed_fwd (s : State) (i : AmoId) : (s.takeOwed i).fwd = s.fwd := rfl
@[simp] theorem State.takeOwed_csafree (s : State) (i : AmoId) : (s.takeOwed i).csafree = s.csafree := rfl
@[simp] theorem State.takeOwed_schedcfg (s : State) (i : AmoId) : (s.takeOwed i).schedcfg = s.schedcfg := rfl
@[simp] theorem State.takeOwed_hvec (s : State) (i : AmoId) : (s.takeOwed i).hvec = s.hvec := rfl
@[simp] theorem State.takeOwed_htab (s : State) (i : AmoId) : (s.takeOwed i).htab = s.htab := rfl
@[simp] theorem State.takeOwed_events (s : State) (i : AmoId) : (s.takeOwed i).events = s.events := rfl
@[simp] theorem State.takeOwed_eventLost (s : State) (i : AmoId) : (s.takeOwed i).eventLost = s.eventLost := rfl
@[simp] theorem State.takeOwed_retired (s : State) (i : AmoId) : (s.takeOwed i).retired = s.retired := rfl
@[simp] theorem State.takeOwed_corrected (s : State) (i : AmoId) : (s.takeOwed i).corrected = s.corrected := rfl
@[simp] theorem State.takeOwed_tests (s : State) (i : AmoId) : (s.takeOwed i).tests = s.tests := rfl
@[simp] theorem State.takeOwed_recent (s : State) (i : AmoId) : (s.takeOwed i).recent = s.recent := rfl
@[simp] theorem State.takeOwed_extents (s : State) (i : AmoId) : (s.takeOwed i).extents = s.extents := rfl
@[simp] theorem State.takeOwed_fuses (s : State) (i : AmoId) : (s.takeOwed i).fuses = s.fuses := rfl
@[simp] theorem State.takeOwed_clock (s : State) (i : AmoId) : (s.takeOwed i).clock = s.clock := rfl
@[simp] theorem State.takeOwed_thrus (s : State) (i : AmoId) : (s.takeOwed i).thrus = s.thrus := rfl
@[simp] theorem State.takeOwed_slowSince (s : State) (i : AmoId) : (s.takeOwed i).slowSince = s.slowSince := rfl
@[simp] theorem State.takeOwed_powerLimit (s : State) (i : AmoId) : (s.takeOwed i).powerLimit = s.powerLimit := rfl
@[simp] theorem State.takeOwed_tempLimit (s : State) (i : AmoId) : (s.takeOwed i).tempLimit = s.tempLimit := rfl
@[simp] theorem State.takeOwed_powerState (s : State) (i : AmoId) : (s.takeOwed i).powerState = s.powerState := rfl
@[simp] theorem State.takeOwed_fwActive (s : State) (i : AmoId) : (s.takeOwed i).fwActive = s.fwActive := rfl
@[simp] theorem State.takeOwed_fwInactive (s : State) (i : AmoId) : (s.takeOwed i).fwInactive = s.fwInactive := rfl
@[simp] theorem State.takeOwed_fwMinimum (s : State) (i : AmoId) : (s.takeOwed i).fwMinimum = s.fwMinimum := rfl
@[simp] theorem State.takeOwed_errorLog (s : State) (i : AmoId) : (s.takeOwed i).errorLog = s.errorLog := rfl
@[simp] theorem State.takeOwed_outbox (s : State) (i : AmoId) : (s.takeOwed i).outbox = s.outbox := rfl
@[simp] theorem State.takeOwed_hostUp (s : State) (i : AmoId) : (s.takeOwed i).hostUp = s.hostUp := rfl
@[simp] theorem State.takeOwed_link (s : State) (i : AmoId) : (s.takeOwed i).link = s.link := rfl
@[simp] theorem State.takeOwed_devIndex (s : State) (i : AmoId) : (s.takeOwed i).devIndex = s.devIndex := rfl
@[simp] theorem State.takeOwed_domain (s : State) (i : AmoId) : (s.takeOwed i).domain = s.domain := rfl
@[simp] theorem State.takeOwed_boot (s : State) (i : AmoId) : (s.takeOwed i).boot = s.boot := rfl
@[simp] theorem State.takeOwed_pcie (s : State) (i : AmoId) : (s.takeOwed i).pcie = s.pcie := rfl
@[simp] theorem State.takeOwed_mailbox (s : State) (i : AmoId) : (s.takeOwed i).mailbox = s.mailbox := rfl
@[simp] theorem State.takeOwed_worlds (s : State) (i : AmoId) : (s.takeOwed i).worlds = s.worlds := rfl
@[simp] theorem State.takeOwed_report0 (s : State) (i : AmoId) : (s.takeOwed i).report0 = s.report0 := rfl
@[simp] theorem State.takeOwed_draws (s : State) (i : AmoId) : (s.takeOwed i).draws = s.draws := rfl
@[simp] theorem State.takeOwed_store (s : State) (i : AmoId) : (s.takeOwed i).store = s.store := rfl
@[simp] theorem State.takeOwed_seals (s : State) (i : AmoId) : (s.takeOwed i).seals = s.seals := rfl
@[simp] theorem State.takeOwed_slice (s : State) (i : AmoId) : (s.takeOwed i).slice = s.slice := rfl
@[simp] theorem State.takeOwed_agenda (s : State) (i : AmoId) : (s.takeOwed i).agenda = s.agenda := rfl
@[simp] theorem State.takeOwed_tick (s : State) (i : AmoId) : (s.takeOwed i).tick = s.tick := rfl

/-! ### State.owe -/

@[simp] theorem State.owe_hart (s : State) (i : AmoId) (bs : List Byte) : (s.owe i bs).hart = s.hart := by unfold State.owe; split <;> rfl
@[simp] theorem State.owe_others (s : State) (i : AmoId) (bs : List Byte) : (s.owe i bs).others = s.others := by unfold State.owe; split <;> rfl
@[simp] theorem State.owe_gangs (s : State) (i : AmoId) (bs : List Byte) : (s.owe i bs).gangs = s.gangs := by unfold State.owe; split <;> rfl
@[simp] theorem State.owe_farLists (s : State) (i : AmoId) (bs : List Byte) : (s.owe i bs).farLists = s.farLists := by unfold State.owe; split <;> rfl
@[simp] theorem State.owe_handles (s : State) (i : AmoId) (bs : List Byte) : (s.owe i bs).handles = s.handles := by unfold State.owe; split <;> rfl
@[simp] theorem State.owe_launchTurns (s : State) (i : AmoId) (bs : List Byte) : (s.owe i bs).launchTurns = s.launchTurns := by unfold State.owe; split <;> rfl
@[simp] theorem State.owe_tickets (s : State) (i : AmoId) (bs : List Byte) : (s.owe i bs).tickets = s.tickets := by unfold State.owe; split <;> rfl
@[simp] theorem State.owe_jobs (s : State) (i : AmoId) (bs : List Byte) : (s.owe i bs).jobs = s.jobs := by unfold State.owe; split <;> rfl
@[simp] theorem State.owe_copies (s : State) (i : AmoId) (bs : List Byte) : (s.owe i bs).copies = s.copies := by unfold State.owe; split <;> rfl
@[simp] theorem State.owe_mem (s : State) (i : AmoId) (bs : List Byte) : (s.owe i bs).mem = s.mem := by unfold State.owe; split <;> rfl
@[simp] theorem State.owe_macs (s : State) (i : AmoId) (bs : List Byte) : (s.owe i bs).macs = s.macs := by unfold State.owe; split <;> rfl
@[simp] theorem State.owe_dirty (s : State) (i : AmoId) (bs : List Byte) : (s.owe i bs).dirty = s.dirty := by unfold State.owe; split <;> rfl
@[simp] theorem State.owe_lost (s : State) (i : AmoId) (bs : List Byte) : (s.owe i bs).lost = s.lost := by unfold State.owe; split <;> rfl
@[simp] theorem State.owe_owners (s : State) (i : AmoId) (bs : List Byte) : (s.owe i bs).owners = s.owners := by unfold State.owe; split <;> rfl
@[simp] theorem State.owe_slotCache (s : State) (i : AmoId) (bs : List Byte) : (s.owe i bs).slotCache = s.slotCache := by unfold State.owe; split <;> rfl
@[simp] theorem State.owe_slotPast (s : State) (i : AmoId) (bs : List Byte) : (s.owe i bs).slotPast = s.slotPast := by unfold State.owe; split <;> rfl
@[simp] theorem State.owe_icache (s : State) (i : AmoId) (bs : List Byte) : (s.owe i bs).icache = s.icache := by unfold State.owe; split <;> rfl
@[simp] theorem State.owe_stores (s : State) (i : AmoId) (bs : List Byte) : (s.owe i bs).stores = s.stores := by unfold State.owe; split <;> rfl
@[simp] theorem State.owe_slow (s : State) (i : AmoId) (bs : List Byte) : (s.owe i bs).slow = s.slow := by unfold State.owe; split <;> rfl
@[simp] theorem State.owe_held (s : State) (i : AmoId) (bs : List Byte) : (s.owe i bs).held = s.held := by unfold State.owe; split <;> rfl
@[simp] theorem State.owe_packets (s : State) (i : AmoId) (bs : List Byte) : (s.owe i bs).packets = s.packets := by unfold State.owe; split <;> rfl
@[simp] theorem State.owe_pages (s : State) (i : AmoId) (bs : List Byte) : (s.owe i bs).pages = s.pages := by unfold State.owe; split <;> rfl
@[simp] theorem State.owe_cthr (s : State) (i : AmoId) (bs : List Byte) : (s.owe i bs).cthr = s.cthr := by unfold State.owe; split <;> rfl
@[simp] theorem State.owe_fwd (s : State) (i : AmoId) (bs : List Byte) : (s.owe i bs).fwd = s.fwd := by unfold State.owe; split <;> rfl
@[simp] theorem State.owe_csafree (s : State) (i : AmoId) (bs : List Byte) : (s.owe i bs).csafree = s.csafree := by unfold State.owe; split <;> rfl
@[simp] theorem State.owe_schedcfg (s : State) (i : AmoId) (bs : List Byte) : (s.owe i bs).schedcfg = s.schedcfg := by unfold State.owe; split <;> rfl
@[simp] theorem State.owe_hvec (s : State) (i : AmoId) (bs : List Byte) : (s.owe i bs).hvec = s.hvec := by unfold State.owe; split <;> rfl
@[simp] theorem State.owe_htab (s : State) (i : AmoId) (bs : List Byte) : (s.owe i bs).htab = s.htab := by unfold State.owe; split <;> rfl
@[simp] theorem State.owe_events (s : State) (i : AmoId) (bs : List Byte) : (s.owe i bs).events = s.events := by unfold State.owe; split <;> rfl
@[simp] theorem State.owe_eventLost (s : State) (i : AmoId) (bs : List Byte) : (s.owe i bs).eventLost = s.eventLost := by unfold State.owe; split <;> rfl
@[simp] theorem State.owe_retired (s : State) (i : AmoId) (bs : List Byte) : (s.owe i bs).retired = s.retired := by unfold State.owe; split <;> rfl
@[simp] theorem State.owe_corrected (s : State) (i : AmoId) (bs : List Byte) : (s.owe i bs).corrected = s.corrected := by unfold State.owe; split <;> rfl
@[simp] theorem State.owe_tests (s : State) (i : AmoId) (bs : List Byte) : (s.owe i bs).tests = s.tests := by unfold State.owe; split <;> rfl
@[simp] theorem State.owe_recent (s : State) (i : AmoId) (bs : List Byte) : (s.owe i bs).recent = s.recent := by unfold State.owe; split <;> rfl
@[simp] theorem State.owe_extents (s : State) (i : AmoId) (bs : List Byte) : (s.owe i bs).extents = s.extents := by unfold State.owe; split <;> rfl
@[simp] theorem State.owe_fuses (s : State) (i : AmoId) (bs : List Byte) : (s.owe i bs).fuses = s.fuses := by unfold State.owe; split <;> rfl
@[simp] theorem State.owe_clock (s : State) (i : AmoId) (bs : List Byte) : (s.owe i bs).clock = s.clock := by unfold State.owe; split <;> rfl
@[simp] theorem State.owe_thrus (s : State) (i : AmoId) (bs : List Byte) : (s.owe i bs).thrus = s.thrus := by unfold State.owe; split <;> rfl
@[simp] theorem State.owe_slowSince (s : State) (i : AmoId) (bs : List Byte) : (s.owe i bs).slowSince = s.slowSince := by unfold State.owe; split <;> rfl
@[simp] theorem State.owe_powerLimit (s : State) (i : AmoId) (bs : List Byte) : (s.owe i bs).powerLimit = s.powerLimit := by unfold State.owe; split <;> rfl
@[simp] theorem State.owe_tempLimit (s : State) (i : AmoId) (bs : List Byte) : (s.owe i bs).tempLimit = s.tempLimit := by unfold State.owe; split <;> rfl
@[simp] theorem State.owe_powerState (s : State) (i : AmoId) (bs : List Byte) : (s.owe i bs).powerState = s.powerState := by unfold State.owe; split <;> rfl
@[simp] theorem State.owe_fwActive (s : State) (i : AmoId) (bs : List Byte) : (s.owe i bs).fwActive = s.fwActive := by unfold State.owe; split <;> rfl
@[simp] theorem State.owe_fwInactive (s : State) (i : AmoId) (bs : List Byte) : (s.owe i bs).fwInactive = s.fwInactive := by unfold State.owe; split <;> rfl
@[simp] theorem State.owe_fwMinimum (s : State) (i : AmoId) (bs : List Byte) : (s.owe i bs).fwMinimum = s.fwMinimum := by unfold State.owe; split <;> rfl
@[simp] theorem State.owe_errorLog (s : State) (i : AmoId) (bs : List Byte) : (s.owe i bs).errorLog = s.errorLog := by unfold State.owe; split <;> rfl
@[simp] theorem State.owe_outbox (s : State) (i : AmoId) (bs : List Byte) : (s.owe i bs).outbox = s.outbox := by unfold State.owe; split <;> rfl
@[simp] theorem State.owe_hostUp (s : State) (i : AmoId) (bs : List Byte) : (s.owe i bs).hostUp = s.hostUp := by unfold State.owe; split <;> rfl
@[simp] theorem State.owe_link (s : State) (i : AmoId) (bs : List Byte) : (s.owe i bs).link = s.link := by unfold State.owe; split <;> rfl
@[simp] theorem State.owe_devIndex (s : State) (i : AmoId) (bs : List Byte) : (s.owe i bs).devIndex = s.devIndex := by unfold State.owe; split <;> rfl
@[simp] theorem State.owe_domain (s : State) (i : AmoId) (bs : List Byte) : (s.owe i bs).domain = s.domain := by unfold State.owe; split <;> rfl
@[simp] theorem State.owe_boot (s : State) (i : AmoId) (bs : List Byte) : (s.owe i bs).boot = s.boot := by unfold State.owe; split <;> rfl
@[simp] theorem State.owe_pcie (s : State) (i : AmoId) (bs : List Byte) : (s.owe i bs).pcie = s.pcie := by unfold State.owe; split <;> rfl
@[simp] theorem State.owe_mailbox (s : State) (i : AmoId) (bs : List Byte) : (s.owe i bs).mailbox = s.mailbox := by unfold State.owe; split <;> rfl
@[simp] theorem State.owe_worlds (s : State) (i : AmoId) (bs : List Byte) : (s.owe i bs).worlds = s.worlds := by unfold State.owe; split <;> rfl
@[simp] theorem State.owe_report0 (s : State) (i : AmoId) (bs : List Byte) : (s.owe i bs).report0 = s.report0 := by unfold State.owe; split <;> rfl
@[simp] theorem State.owe_draws (s : State) (i : AmoId) (bs : List Byte) : (s.owe i bs).draws = s.draws := by unfold State.owe; split <;> rfl
@[simp] theorem State.owe_store (s : State) (i : AmoId) (bs : List Byte) : (s.owe i bs).store = s.store := by unfold State.owe; split <;> rfl
@[simp] theorem State.owe_seals (s : State) (i : AmoId) (bs : List Byte) : (s.owe i bs).seals = s.seals := by unfold State.owe; split <;> rfl
@[simp] theorem State.owe_slice (s : State) (i : AmoId) (bs : List Byte) : (s.owe i bs).slice = s.slice := by unfold State.owe; split <;> rfl
@[simp] theorem State.owe_agenda (s : State) (i : AmoId) (bs : List Byte) : (s.owe i bs).agenda = s.agenda := by unfold State.owe; split <;> rfl
@[simp] theorem State.owe_tick (s : State) (i : AmoId) (bs : List Byte) : (s.owe i bs).tick = s.tick := by unfold State.owe; split <;> rfl

/-! ### State.sendHost -/

@[simp] theorem State.sendHost_hart (s : State) (q : FabricStream) (n a : Nat) (bs : List Byte) : (s.sendHost q n a bs).hart = s.hart := by unfold State.sendHost; simp only; split <;> rfl
@[simp] theorem State.sendHost_others (s : State) (q : FabricStream) (n a : Nat) (bs : List Byte) : (s.sendHost q n a bs).others = s.others := by unfold State.sendHost; simp only; split <;> rfl
@[simp] theorem State.sendHost_gangs (s : State) (q : FabricStream) (n a : Nat) (bs : List Byte) : (s.sendHost q n a bs).gangs = s.gangs := by unfold State.sendHost; simp only; split <;> rfl
@[simp] theorem State.sendHost_farLists (s : State) (q : FabricStream) (n a : Nat) (bs : List Byte) : (s.sendHost q n a bs).farLists = s.farLists := by unfold State.sendHost; simp only; split <;> rfl
@[simp] theorem State.sendHost_handles (s : State) (q : FabricStream) (n a : Nat) (bs : List Byte) : (s.sendHost q n a bs).handles = s.handles := by unfold State.sendHost; simp only; split <;> rfl
@[simp] theorem State.sendHost_launchTurns (s : State) (q : FabricStream) (n a : Nat) (bs : List Byte) : (s.sendHost q n a bs).launchTurns = s.launchTurns := by unfold State.sendHost; simp only; split <;> rfl
@[simp] theorem State.sendHost_tickets (s : State) (q : FabricStream) (n a : Nat) (bs : List Byte) : (s.sendHost q n a bs).tickets = s.tickets := by unfold State.sendHost; simp only; split <;> rfl
@[simp] theorem State.sendHost_jobs (s : State) (q : FabricStream) (n a : Nat) (bs : List Byte) : (s.sendHost q n a bs).jobs = s.jobs := by unfold State.sendHost; simp only; split <;> rfl
@[simp] theorem State.sendHost_copies (s : State) (q : FabricStream) (n a : Nat) (bs : List Byte) : (s.sendHost q n a bs).copies = s.copies := by unfold State.sendHost; simp only; split <;> rfl
@[simp] theorem State.sendHost_mem (s : State) (q : FabricStream) (n a : Nat) (bs : List Byte) : (s.sendHost q n a bs).mem = s.mem := by unfold State.sendHost; simp only; split <;> rfl
@[simp] theorem State.sendHost_macs (s : State) (q : FabricStream) (n a : Nat) (bs : List Byte) : (s.sendHost q n a bs).macs = s.macs := by unfold State.sendHost; simp only; split <;> rfl
@[simp] theorem State.sendHost_dirty (s : State) (q : FabricStream) (n a : Nat) (bs : List Byte) : (s.sendHost q n a bs).dirty = s.dirty := by unfold State.sendHost; simp only; split <;> rfl
@[simp] theorem State.sendHost_lost (s : State) (q : FabricStream) (n a : Nat) (bs : List Byte) : (s.sendHost q n a bs).lost = s.lost := by unfold State.sendHost; simp only; split <;> rfl
@[simp] theorem State.sendHost_owners (s : State) (q : FabricStream) (n a : Nat) (bs : List Byte) : (s.sendHost q n a bs).owners = s.owners := by unfold State.sendHost; simp only; split <;> rfl
@[simp] theorem State.sendHost_slotCache (s : State) (q : FabricStream) (n a : Nat) (bs : List Byte) : (s.sendHost q n a bs).slotCache = s.slotCache := by unfold State.sendHost; simp only; split <;> rfl
@[simp] theorem State.sendHost_slotPast (s : State) (q : FabricStream) (n a : Nat) (bs : List Byte) : (s.sendHost q n a bs).slotPast = s.slotPast := by unfold State.sendHost; simp only; split <;> rfl
@[simp] theorem State.sendHost_icache (s : State) (q : FabricStream) (n a : Nat) (bs : List Byte) : (s.sendHost q n a bs).icache = s.icache := by unfold State.sendHost; simp only; split <;> rfl
@[simp] theorem State.sendHost_stores (s : State) (q : FabricStream) (n a : Nat) (bs : List Byte) : (s.sendHost q n a bs).stores = s.stores := by unfold State.sendHost; simp only; split <;> rfl
@[simp] theorem State.sendHost_slow (s : State) (q : FabricStream) (n a : Nat) (bs : List Byte) : (s.sendHost q n a bs).slow = s.slow := by unfold State.sendHost; simp only; split <;> rfl
@[simp] theorem State.sendHost_held (s : State) (q : FabricStream) (n a : Nat) (bs : List Byte) : (s.sendHost q n a bs).held = s.held := by unfold State.sendHost; simp only; split <;> rfl
@[simp] theorem State.sendHost_owed (s : State) (q : FabricStream) (n a : Nat) (bs : List Byte) : (s.sendHost q n a bs).owed = s.owed := by unfold State.sendHost; simp only; split <;> rfl
@[simp] theorem State.sendHost_packets (s : State) (q : FabricStream) (n a : Nat) (bs : List Byte) : (s.sendHost q n a bs).packets = s.packets := by unfold State.sendHost; simp only; split <;> rfl
@[simp] theorem State.sendHost_pages (s : State) (q : FabricStream) (n a : Nat) (bs : List Byte) : (s.sendHost q n a bs).pages = s.pages := by unfold State.sendHost; simp only; split <;> rfl
@[simp] theorem State.sendHost_cthr (s : State) (q : FabricStream) (n a : Nat) (bs : List Byte) : (s.sendHost q n a bs).cthr = s.cthr := by unfold State.sendHost; simp only; split <;> rfl
@[simp] theorem State.sendHost_fwd (s : State) (q : FabricStream) (n a : Nat) (bs : List Byte) : (s.sendHost q n a bs).fwd = s.fwd := by unfold State.sendHost; simp only; split <;> rfl
@[simp] theorem State.sendHost_csafree (s : State) (q : FabricStream) (n a : Nat) (bs : List Byte) : (s.sendHost q n a bs).csafree = s.csafree := by unfold State.sendHost; simp only; split <;> rfl
@[simp] theorem State.sendHost_schedcfg (s : State) (q : FabricStream) (n a : Nat) (bs : List Byte) : (s.sendHost q n a bs).schedcfg = s.schedcfg := by unfold State.sendHost; simp only; split <;> rfl
@[simp] theorem State.sendHost_hvec (s : State) (q : FabricStream) (n a : Nat) (bs : List Byte) : (s.sendHost q n a bs).hvec = s.hvec := by unfold State.sendHost; simp only; split <;> rfl
@[simp] theorem State.sendHost_htab (s : State) (q : FabricStream) (n a : Nat) (bs : List Byte) : (s.sendHost q n a bs).htab = s.htab := by unfold State.sendHost; simp only; split <;> rfl
@[simp] theorem State.sendHost_events (s : State) (q : FabricStream) (n a : Nat) (bs : List Byte) : (s.sendHost q n a bs).events = s.events := by unfold State.sendHost; simp only; split <;> rfl
@[simp] theorem State.sendHost_eventLost (s : State) (q : FabricStream) (n a : Nat) (bs : List Byte) : (s.sendHost q n a bs).eventLost = s.eventLost := by unfold State.sendHost; simp only; split <;> rfl
@[simp] theorem State.sendHost_retired (s : State) (q : FabricStream) (n a : Nat) (bs : List Byte) : (s.sendHost q n a bs).retired = s.retired := by unfold State.sendHost; simp only; split <;> rfl
@[simp] theorem State.sendHost_corrected (s : State) (q : FabricStream) (n a : Nat) (bs : List Byte) : (s.sendHost q n a bs).corrected = s.corrected := by unfold State.sendHost; simp only; split <;> rfl
@[simp] theorem State.sendHost_tests (s : State) (q : FabricStream) (n a : Nat) (bs : List Byte) : (s.sendHost q n a bs).tests = s.tests := by unfold State.sendHost; simp only; split <;> rfl
@[simp] theorem State.sendHost_recent (s : State) (q : FabricStream) (n a : Nat) (bs : List Byte) : (s.sendHost q n a bs).recent = s.recent := by unfold State.sendHost; simp only; split <;> rfl
@[simp] theorem State.sendHost_extents (s : State) (q : FabricStream) (n a : Nat) (bs : List Byte) : (s.sendHost q n a bs).extents = s.extents := by unfold State.sendHost; simp only; split <;> rfl
@[simp] theorem State.sendHost_fuses (s : State) (q : FabricStream) (n a : Nat) (bs : List Byte) : (s.sendHost q n a bs).fuses = s.fuses := by unfold State.sendHost; simp only; split <;> rfl
@[simp] theorem State.sendHost_clock (s : State) (q : FabricStream) (n a : Nat) (bs : List Byte) : (s.sendHost q n a bs).clock = s.clock := by unfold State.sendHost; simp only; split <;> rfl
@[simp] theorem State.sendHost_thrus (s : State) (q : FabricStream) (n a : Nat) (bs : List Byte) : (s.sendHost q n a bs).thrus = s.thrus := by unfold State.sendHost; simp only; split <;> rfl
@[simp] theorem State.sendHost_slowSince (s : State) (q : FabricStream) (n a : Nat) (bs : List Byte) : (s.sendHost q n a bs).slowSince = s.slowSince := by unfold State.sendHost; simp only; split <;> rfl
@[simp] theorem State.sendHost_powerLimit (s : State) (q : FabricStream) (n a : Nat) (bs : List Byte) : (s.sendHost q n a bs).powerLimit = s.powerLimit := by unfold State.sendHost; simp only; split <;> rfl
@[simp] theorem State.sendHost_tempLimit (s : State) (q : FabricStream) (n a : Nat) (bs : List Byte) : (s.sendHost q n a bs).tempLimit = s.tempLimit := by unfold State.sendHost; simp only; split <;> rfl
@[simp] theorem State.sendHost_powerState (s : State) (q : FabricStream) (n a : Nat) (bs : List Byte) : (s.sendHost q n a bs).powerState = s.powerState := by unfold State.sendHost; simp only; split <;> rfl
@[simp] theorem State.sendHost_fwActive (s : State) (q : FabricStream) (n a : Nat) (bs : List Byte) : (s.sendHost q n a bs).fwActive = s.fwActive := by unfold State.sendHost; simp only; split <;> rfl
@[simp] theorem State.sendHost_fwInactive (s : State) (q : FabricStream) (n a : Nat) (bs : List Byte) : (s.sendHost q n a bs).fwInactive = s.fwInactive := by unfold State.sendHost; simp only; split <;> rfl
@[simp] theorem State.sendHost_fwMinimum (s : State) (q : FabricStream) (n a : Nat) (bs : List Byte) : (s.sendHost q n a bs).fwMinimum = s.fwMinimum := by unfold State.sendHost; simp only; split <;> rfl
@[simp] theorem State.sendHost_errorLog (s : State) (q : FabricStream) (n a : Nat) (bs : List Byte) : (s.sendHost q n a bs).errorLog = s.errorLog := by unfold State.sendHost; simp only; split <;> rfl
@[simp] theorem State.sendHost_hostUp (s : State) (q : FabricStream) (n a : Nat) (bs : List Byte) : (s.sendHost q n a bs).hostUp = s.hostUp := by unfold State.sendHost; simp only; split <;> rfl
@[simp] theorem State.sendHost_link (s : State) (q : FabricStream) (n a : Nat) (bs : List Byte) : (s.sendHost q n a bs).link = s.link := by unfold State.sendHost; simp only; split <;> rfl
@[simp] theorem State.sendHost_devIndex (s : State) (q : FabricStream) (n a : Nat) (bs : List Byte) : (s.sendHost q n a bs).devIndex = s.devIndex := by unfold State.sendHost; simp only; split <;> rfl
@[simp] theorem State.sendHost_domain (s : State) (q : FabricStream) (n a : Nat) (bs : List Byte) : (s.sendHost q n a bs).domain = s.domain := by unfold State.sendHost; simp only; split <;> rfl
@[simp] theorem State.sendHost_boot (s : State) (q : FabricStream) (n a : Nat) (bs : List Byte) : (s.sendHost q n a bs).boot = s.boot := by unfold State.sendHost; simp only; split <;> rfl
@[simp] theorem State.sendHost_pcie (s : State) (q : FabricStream) (n a : Nat) (bs : List Byte) : (s.sendHost q n a bs).pcie = s.pcie := by unfold State.sendHost; simp only; split <;> rfl
@[simp] theorem State.sendHost_mailbox (s : State) (q : FabricStream) (n a : Nat) (bs : List Byte) : (s.sendHost q n a bs).mailbox = s.mailbox := by unfold State.sendHost; simp only; split <;> rfl
@[simp] theorem State.sendHost_worlds (s : State) (q : FabricStream) (n a : Nat) (bs : List Byte) : (s.sendHost q n a bs).worlds = s.worlds := by unfold State.sendHost; simp only; split <;> rfl
@[simp] theorem State.sendHost_report0 (s : State) (q : FabricStream) (n a : Nat) (bs : List Byte) : (s.sendHost q n a bs).report0 = s.report0 := by unfold State.sendHost; simp only; split <;> rfl
@[simp] theorem State.sendHost_draws (s : State) (q : FabricStream) (n a : Nat) (bs : List Byte) : (s.sendHost q n a bs).draws = s.draws := by unfold State.sendHost; simp only; split <;> rfl
@[simp] theorem State.sendHost_store (s : State) (q : FabricStream) (n a : Nat) (bs : List Byte) : (s.sendHost q n a bs).store = s.store := by unfold State.sendHost; simp only; split <;> rfl
@[simp] theorem State.sendHost_seals (s : State) (q : FabricStream) (n a : Nat) (bs : List Byte) : (s.sendHost q n a bs).seals = s.seals := by unfold State.sendHost; simp only; split <;> rfl
@[simp] theorem State.sendHost_slice (s : State) (q : FabricStream) (n a : Nat) (bs : List Byte) : (s.sendHost q n a bs).slice = s.slice := by unfold State.sendHost; simp only; split <;> rfl
@[simp] theorem State.sendHost_agenda (s : State) (q : FabricStream) (n a : Nat) (bs : List Byte) : (s.sendHost q n a bs).agenda = s.agenda := by unfold State.sendHost; simp only; split <;> rfl
@[simp] theorem State.sendHost_tick (s : State) (q : FabricStream) (n a : Nat) (bs : List Byte) : (s.sendHost q n a bs).tick = s.tick := by unfold State.sendHost; simp only; split <;> rfl

/-! ### State.updWorld -/

@[simp] theorem State.updWorld_hart (s : State) (w : BitVec 10) (f : World → World) : (s.updWorld w f).hart = s.hart := rfl
@[simp] theorem State.updWorld_others (s : State) (w : BitVec 10) (f : World → World) : (s.updWorld w f).others = s.others := rfl
@[simp] theorem State.updWorld_gangs (s : State) (w : BitVec 10) (f : World → World) : (s.updWorld w f).gangs = s.gangs := rfl
@[simp] theorem State.updWorld_farLists (s : State) (w : BitVec 10) (f : World → World) : (s.updWorld w f).farLists = s.farLists := rfl
@[simp] theorem State.updWorld_handles (s : State) (w : BitVec 10) (f : World → World) : (s.updWorld w f).handles = s.handles := rfl
@[simp] theorem State.updWorld_launchTurns (s : State) (w : BitVec 10) (f : World → World) : (s.updWorld w f).launchTurns = s.launchTurns := rfl
@[simp] theorem State.updWorld_tickets (s : State) (w : BitVec 10) (f : World → World) : (s.updWorld w f).tickets = s.tickets := rfl
@[simp] theorem State.updWorld_jobs (s : State) (w : BitVec 10) (f : World → World) : (s.updWorld w f).jobs = s.jobs := rfl
@[simp] theorem State.updWorld_copies (s : State) (w : BitVec 10) (f : World → World) : (s.updWorld w f).copies = s.copies := rfl
@[simp] theorem State.updWorld_mem (s : State) (w : BitVec 10) (f : World → World) : (s.updWorld w f).mem = s.mem := rfl
@[simp] theorem State.updWorld_macs (s : State) (w : BitVec 10) (f : World → World) : (s.updWorld w f).macs = s.macs := rfl
@[simp] theorem State.updWorld_dirty (s : State) (w : BitVec 10) (f : World → World) : (s.updWorld w f).dirty = s.dirty := rfl
@[simp] theorem State.updWorld_lost (s : State) (w : BitVec 10) (f : World → World) : (s.updWorld w f).lost = s.lost := rfl
@[simp] theorem State.updWorld_owners (s : State) (w : BitVec 10) (f : World → World) : (s.updWorld w f).owners = s.owners := rfl
@[simp] theorem State.updWorld_slotCache (s : State) (w : BitVec 10) (f : World → World) : (s.updWorld w f).slotCache = s.slotCache := rfl
@[simp] theorem State.updWorld_slotPast (s : State) (w : BitVec 10) (f : World → World) : (s.updWorld w f).slotPast = s.slotPast := rfl
@[simp] theorem State.updWorld_icache (s : State) (w : BitVec 10) (f : World → World) : (s.updWorld w f).icache = s.icache := rfl
@[simp] theorem State.updWorld_stores (s : State) (w : BitVec 10) (f : World → World) : (s.updWorld w f).stores = s.stores := rfl
@[simp] theorem State.updWorld_slow (s : State) (w : BitVec 10) (f : World → World) : (s.updWorld w f).slow = s.slow := rfl
@[simp] theorem State.updWorld_held (s : State) (w : BitVec 10) (f : World → World) : (s.updWorld w f).held = s.held := rfl
@[simp] theorem State.updWorld_owed (s : State) (w : BitVec 10) (f : World → World) : (s.updWorld w f).owed = s.owed := rfl
@[simp] theorem State.updWorld_packets (s : State) (w : BitVec 10) (f : World → World) : (s.updWorld w f).packets = s.packets := rfl
@[simp] theorem State.updWorld_pages (s : State) (w : BitVec 10) (f : World → World) : (s.updWorld w f).pages = s.pages := rfl
@[simp] theorem State.updWorld_cthr (s : State) (w : BitVec 10) (f : World → World) : (s.updWorld w f).cthr = s.cthr := rfl
@[simp] theorem State.updWorld_fwd (s : State) (w : BitVec 10) (f : World → World) : (s.updWorld w f).fwd = s.fwd := rfl
@[simp] theorem State.updWorld_csafree (s : State) (w : BitVec 10) (f : World → World) : (s.updWorld w f).csafree = s.csafree := rfl
@[simp] theorem State.updWorld_schedcfg (s : State) (w : BitVec 10) (f : World → World) : (s.updWorld w f).schedcfg = s.schedcfg := rfl
@[simp] theorem State.updWorld_hvec (s : State) (w : BitVec 10) (f : World → World) : (s.updWorld w f).hvec = s.hvec := rfl
@[simp] theorem State.updWorld_htab (s : State) (w : BitVec 10) (f : World → World) : (s.updWorld w f).htab = s.htab := rfl
@[simp] theorem State.updWorld_events (s : State) (w : BitVec 10) (f : World → World) : (s.updWorld w f).events = s.events := rfl
@[simp] theorem State.updWorld_eventLost (s : State) (w : BitVec 10) (f : World → World) : (s.updWorld w f).eventLost = s.eventLost := rfl
@[simp] theorem State.updWorld_retired (s : State) (w : BitVec 10) (f : World → World) : (s.updWorld w f).retired = s.retired := rfl
@[simp] theorem State.updWorld_corrected (s : State) (w : BitVec 10) (f : World → World) : (s.updWorld w f).corrected = s.corrected := rfl
@[simp] theorem State.updWorld_tests (s : State) (w : BitVec 10) (f : World → World) : (s.updWorld w f).tests = s.tests := rfl
@[simp] theorem State.updWorld_recent (s : State) (w : BitVec 10) (f : World → World) : (s.updWorld w f).recent = s.recent := rfl
@[simp] theorem State.updWorld_extents (s : State) (w : BitVec 10) (f : World → World) : (s.updWorld w f).extents = s.extents := rfl
@[simp] theorem State.updWorld_fuses (s : State) (w : BitVec 10) (f : World → World) : (s.updWorld w f).fuses = s.fuses := rfl
@[simp] theorem State.updWorld_clock (s : State) (w : BitVec 10) (f : World → World) : (s.updWorld w f).clock = s.clock := rfl
@[simp] theorem State.updWorld_thrus (s : State) (w : BitVec 10) (f : World → World) : (s.updWorld w f).thrus = s.thrus := rfl
@[simp] theorem State.updWorld_slowSince (s : State) (w : BitVec 10) (f : World → World) : (s.updWorld w f).slowSince = s.slowSince := rfl
@[simp] theorem State.updWorld_powerLimit (s : State) (w : BitVec 10) (f : World → World) : (s.updWorld w f).powerLimit = s.powerLimit := rfl
@[simp] theorem State.updWorld_tempLimit (s : State) (w : BitVec 10) (f : World → World) : (s.updWorld w f).tempLimit = s.tempLimit := rfl
@[simp] theorem State.updWorld_powerState (s : State) (w : BitVec 10) (f : World → World) : (s.updWorld w f).powerState = s.powerState := rfl
@[simp] theorem State.updWorld_fwActive (s : State) (w : BitVec 10) (f : World → World) : (s.updWorld w f).fwActive = s.fwActive := rfl
@[simp] theorem State.updWorld_fwInactive (s : State) (w : BitVec 10) (f : World → World) : (s.updWorld w f).fwInactive = s.fwInactive := rfl
@[simp] theorem State.updWorld_fwMinimum (s : State) (w : BitVec 10) (f : World → World) : (s.updWorld w f).fwMinimum = s.fwMinimum := rfl
@[simp] theorem State.updWorld_errorLog (s : State) (w : BitVec 10) (f : World → World) : (s.updWorld w f).errorLog = s.errorLog := rfl
@[simp] theorem State.updWorld_outbox (s : State) (w : BitVec 10) (f : World → World) : (s.updWorld w f).outbox = s.outbox := rfl
@[simp] theorem State.updWorld_hostUp (s : State) (w : BitVec 10) (f : World → World) : (s.updWorld w f).hostUp = s.hostUp := rfl
@[simp] theorem State.updWorld_link (s : State) (w : BitVec 10) (f : World → World) : (s.updWorld w f).link = s.link := rfl
@[simp] theorem State.updWorld_devIndex (s : State) (w : BitVec 10) (f : World → World) : (s.updWorld w f).devIndex = s.devIndex := rfl
@[simp] theorem State.updWorld_domain (s : State) (w : BitVec 10) (f : World → World) : (s.updWorld w f).domain = s.domain := rfl
@[simp] theorem State.updWorld_boot (s : State) (w : BitVec 10) (f : World → World) : (s.updWorld w f).boot = s.boot := rfl
@[simp] theorem State.updWorld_pcie (s : State) (w : BitVec 10) (f : World → World) : (s.updWorld w f).pcie = s.pcie := rfl
@[simp] theorem State.updWorld_mailbox (s : State) (w : BitVec 10) (f : World → World) : (s.updWorld w f).mailbox = s.mailbox := rfl
@[simp] theorem State.updWorld_report0 (s : State) (w : BitVec 10) (f : World → World) : (s.updWorld w f).report0 = s.report0 := rfl
@[simp] theorem State.updWorld_draws (s : State) (w : BitVec 10) (f : World → World) : (s.updWorld w f).draws = s.draws := rfl
@[simp] theorem State.updWorld_store (s : State) (w : BitVec 10) (f : World → World) : (s.updWorld w f).store = s.store := rfl
@[simp] theorem State.updWorld_seals (s : State) (w : BitVec 10) (f : World → World) : (s.updWorld w f).seals = s.seals := rfl
@[simp] theorem State.updWorld_slice (s : State) (w : BitVec 10) (f : World → World) : (s.updWorld w f).slice = s.slice := rfl
@[simp] theorem State.updWorld_agenda (s : State) (w : BitVec 10) (f : World → World) : (s.updWorld w f).agenda = s.agenda := rfl
@[simp] theorem State.updWorld_tick (s : State) (w : BitVec 10) (f : World → World) : (s.updWorld w f).tick = s.tick := rfl

/-! ### Hart.setX -/

@[simp] theorem Hart.setX_dev (h : Hart) (r : BitVec 5) (v : Word) (t : Option (BitVec 16)) : (h.setX r v t).dev = h.dev := by unfold Hart.setX; split <;> rfl
@[simp] theorem Hart.setX_core (h : Hart) (r : BitVec 5) (v : Word) (t : Option (BitVec 16)) : (h.setX r v t).core = h.core := by unfold Hart.setX; split <;> rfl
@[simp] theorem Hart.setX_ser (h : Hart) (r : BitVec 5) (v : Word) (t : Option (BitVec 16)) : (h.setX r v t).ser = h.ser := by unfold Hart.setX; split <;> rfl
@[simp] theorem Hart.setX_gid (h : Hart) (r : BitVec 5) (v : Word) (t : Option (BitVec 16)) : (h.setX r v t).gid = h.gid := by unfold Hart.setX; split <;> rfl
@[simp] theorem Hart.setX_rank (h : Hart) (r : BitVec 5) (v : Word) (t : Option (BitVec 16)) : (h.setX r v t).rank = h.rank := by unfold Hart.setX; split <;> rfl
@[simp] theorem Hart.setX_wid (h : Hart) (r : BitVec 5) (v : Word) (t : Option (BitVec 16)) : (h.setX r v t).wid = h.wid := by unfold Hart.setX; split <;> rfl
@[simp] theorem Hart.setX_role (h : Hart) (r : BitVec 5) (v : Word) (t : Option (BitVec 16)) : (h.setX r v t).role = h.role := by unfold Hart.setX; split <;> rfl
@[simp] theorem Hart.setX_weight (h : Hart) (r : BitVec 5) (v : Word) (t : Option (BitVec 16)) : (h.setX r v t).weight = h.weight := by unfold Hart.setX; split <;> rfl
@[simp] theorem Hart.setX_life (h : Hart) (r : BitVec 5) (v : Word) (t : Option (BitVec 16)) : (h.setX r v t).life = h.life := by unfold Hart.setX; split <;> rfl
@[simp] theorem Hart.setX_pc (h : Hart) (r : BitVec 5) (v : Word) (t : Option (BitVec 16)) : (h.setX r v t).pc = h.pc := by unfold Hart.setX; split <;> rfl
@[simp] theorem Hart.setX_iw (h : Hart) (r : BitVec 5) (v : Word) (t : Option (BitVec 16)) : (h.setX r v t).iw = h.iw := by unfold Hart.setX; split <;> rfl
@[simp] theorem Hart.setX_half (h : Hart) (r : BitVec 5) (v : Word) (t : Option (BitVec 16)) : (h.setX r v t).half = h.half := by unfold Hart.setX; split <;> rfl
@[simp] theorem Hart.setX_pairHeld (h : Hart) (r : BitVec 5) (v : Word) (t : Option (BitVec 16)) : (h.setX r v t).pairHeld = h.pairHeld := by unfold Hart.setX; split <;> rfl
@[simp] theorem Hart.setX_loan (h : Hart) (r : BitVec 5) (v : Word) (t : Option (BitVec 16)) : (h.setX r v t).loan = h.loan := by unfold Hart.setX; split <;> rfl
@[simp] theorem Hart.setX_last (h : Hart) (r : BitVec 5) (v : Word) (t : Option (BitVec 16)) : (h.setX r v t).last = h.last := by unfold Hart.setX; split <;> rfl
@[simp] theorem Hart.setX_vl (h : Hart) (r : BitVec 5) (v : Word) (t : Option (BitVec 16)) : (h.setX r v t).vl = h.vl := by unfold Hart.setX; split <;> rfl
@[simp] theorem Hart.setX_vtype (h : Hart) (r : BitVec 5) (v : Word) (t : Option (BitVec 16)) : (h.setX r v t).vtype = h.vtype := by unfold Hart.setX; split <;> rfl
@[simp] theorem Hart.setX_vstart (h : Hart) (r : BitVec 5) (v : Word) (t : Option (BitVec 16)) : (h.setX r v t).vstart = h.vstart := by unfold Hart.setX; split <;> rfl
@[simp] theorem Hart.setX_vlff (h : Hart) (r : BitVec 5) (v : Word) (t : Option (BitVec 16)) : (h.setX r v t).vlff = h.vlff := by unfold Hart.setX; split <;> rfl
@[simp] theorem Hart.setX_tshp (h : Hart) (r : BitVec 5) (v : Word) (t : Option (BitVec 16)) : (h.setX r v t).tshp = h.tshp := by unfold Hart.setX; split <;> rfl
@[simp] theorem Hart.setX_fflags (h : Hart) (r : BitVec 5) (v : Word) (t : Option (BitVec 16)) : (h.setX r v t).fflags = h.fflags := by unfold Hart.setX; split <;> rfl
@[simp] theorem Hart.setX_frm (h : Hart) (r : BitVec 5) (v : Word) (t : Option (BitVec 16)) : (h.setX r v t).frm = h.frm := by unfold Hart.setX; split <;> rfl
@[simp] theorem Hart.setX_seed (h : Hart) (r : BitVec 5) (v : Word) (t : Option (BitVec 16)) : (h.setX r v t).seed = h.seed := by unfold Hart.setX; split <;> rfl
@[simp] theorem Hart.setX_wcons (h : Hart) (r : BitVec 5) (v : Word) (t : Option (BitVec 16)) : (h.setX r v t).wcons = h.wcons := by unfold Hart.setX; split <;> rfl
@[simp] theorem Hart.setX_btctl (h : Hart) (r : BitVec 5) (v : Word) (t : Option (BitVec 16)) : (h.setX r v t).btctl = h.btctl := by unfold Hart.setX; split <;> rfl
@[simp] theorem Hart.setX_xrSeq (h : Hart) (r : BitVec 5) (v : Word) (t : Option (BitVec 16)) : (h.setX r v t).xrSeq = h.xrSeq := by unfold Hart.setX; split <;> rfl
@[simp] theorem Hart.setX_xrLast (h : Hart) (r : BitVec 5) (v : Word) (t : Option (BitVec 16)) : (h.setX r v t).xrLast = h.xrLast := by unfold Hart.setX; split <;> rfl
@[simp] theorem Hart.setX_share (h : Hart) (r : BitVec 5) (v : Word) (t : Option (BitVec 16)) : (h.setX r v t).share = h.share := by unfold Hart.setX; split <;> rfl
@[simp] theorem Hart.setX_pend (h : Hart) (r : BitVec 5) (v : Word) (t : Option (BitVec 16)) : (h.setX r v t).pend = h.pend := by unfold Hart.setX; split <;> rfl
@[simp] theorem Hart.setX_pv (h : Hart) (r : BitVec 5) (v : Word) (t : Option (BitVec 16)) : (h.setX r v t).pv = h.pv := by unfold Hart.setX; split <;> rfl
@[simp] theorem Hart.setX_cap (h : Hart) (r : BitVec 5) (v : Word) (t : Option (BitVec 16)) : (h.setX r v t).cap = h.cap := by unfold Hart.setX; split <;> rfl
@[simp] theorem Hart.setX_pfx (h : Hart) (r : BitVec 5) (v : Word) (t : Option (BitVec 16)) : (h.setX r v t).pfx = h.pfx := by unfold Hart.setX; split <;> rfl
@[simp] theorem Hart.setX_issue (h : Hart) (r : BitVec 5) (v : Word) (t : Option (BitVec 16)) : (h.setX r v t).issue = h.issue := by unfold Hart.setX; split <;> rfl
@[simp] theorem Hart.setX_slottab (h : Hart) (r : BitVec 5) (v : Word) (t : Option (BitVec 16)) : (h.setX r v t).slottab = h.slottab := by unfold Hart.setX; split <;> rfl
@[simp] theorem Hart.setX_ltab (h : Hart) (r : BitVec 5) (v : Word) (t : Option (BitVec 16)) : (h.setX r v t).ltab = h.ltab := by unfold Hart.setX; split <;> rfl
@[simp] theorem Hart.setX_code (h : Hart) (r : BitVec 5) (v : Word) (t : Option (BitVec 16)) : (h.setX r v t).code = h.code := by unfold Hart.setX; split <;> rfl
@[simp] theorem Hart.setX_hcode (h : Hart) (r : BitVec 5) (v : Word) (t : Option (BitVec 16)) : (h.setX r v t).hcode = h.hcode := by unfold Hart.setX; split <;> rfl
@[simp] theorem Hart.setX_tcause (h : Hart) (r : BitVec 5) (v : Word) (t : Option (BitVec 16)) : (h.setX r v t).tcause = h.tcause := by unfold Hart.setX; split <;> rfl
@[simp] theorem Hart.setX_tpc (h : Hart) (r : BitVec 5) (v : Word) (t : Option (BitVec 16)) : (h.setX r v t).tpc = h.tpc := by unfold Hart.setX; split <;> rfl
@[simp] theorem Hart.setX_tdetail (h : Hart) (r : BitVec 5) (v : Word) (t : Option (BitVec 16)) : (h.setX r v t).tdetail = h.tdetail := by unfold Hart.setX; split <;> rfl
@[simp] theorem Hart.setX_tval (h : Hart) (r : BitVec 5) (v : Word) (t : Option (BitVec 16)) : (h.setX r v t).tval = h.tval := by unfold Hart.setX; split <;> rfl
@[simp] theorem Hart.setX_tctx (h : Hart) (r : BitVec 5) (v : Word) (t : Option (BitVec 16)) : (h.setX r v t).tctx = h.tctx := by unfold Hart.setX; split <;> rfl
@[simp] theorem Hart.setX_ovf (h : Hart) (r : BitVec 5) (v : Word) (t : Option (BitVec 16)) : (h.setX r v t).ovf = h.ovf := by unfold Hart.setX; split <;> rfl
@[simp] theorem Hart.setX_ie (h : Hart) (r : BitVec 5) (v : Word) (t : Option (BitVec 16)) : (h.setX r v t).ie = h.ie := by unfold Hart.setX; split <;> rfl
@[simp] theorem Hart.setX_nest (h : Hart) (r : BitVec 5) (v : Word) (t : Option (BitVec 16)) : (h.setX r v t).nest = h.nest := by unfold Hart.setX; split <;> rfl
@[simp] theorem Hart.setX_hm (h : Hart) (r : BitVec 5) (v : Word) (t : Option (BitVec 16)) : (h.setX r v t).hm = h.hm := by unfold Hart.setX; split <;> rfl
@[simp] theorem Hart.setX_view (h : Hart) (r : BitVec 5) (v : Word) (t : Option (BitVec 16)) : (h.setX r v t).view = h.view := by unfold Hart.setX; split <;> rfl
@[simp] theorem Hart.setX_vreg (h : Hart) (r : BitVec 5) (v : Word) (t : Option (BitVec 16)) : (h.setX r v t).vreg = h.vreg := by unfold Hart.setX; split <;> rfl
@[simp] theorem Hart.setX_kreg (h : Hart) (r : BitVec 5) (v : Word) (t : Option (BitVec 16)) : (h.setX r v t).kreg = h.kreg := by unfold Hart.setX; split <;> rfl
@[simp] theorem Hart.setX_tile (h : Hart) (r : BitVec 5) (v : Word) (t : Option (BitVec 16)) : (h.setX r v t).tile = h.tile := by unfold Hart.setX; split <;> rfl
@[simp] theorem Hart.setX_vloc (h : Hart) (r : BitVec 5) (v : Word) (t : Option (BitVec 16)) : (h.setX r v t).vloc = h.vloc := by unfold Hart.setX; split <;> rfl
@[simp] theorem Hart.setX_groups (h : Hart) (r : BitVec 5) (v : Word) (t : Option (BitVec 16)) : (h.setX r v t).groups = h.groups := by unfold Hart.setX; split <;> rfl
@[simp] theorem Hart.setX_queue (h : Hart) (r : BitVec 5) (v : Word) (t : Option (BitVec 16)) : (h.setX r v t).queue = h.queue := by unfold Hart.setX; split <;> rfl
@[simp] theorem Hart.setX_convoy (h : Hart) (r : BitVec 5) (v : Word) (t : Option (BitVec 16)) : (h.setX r v t).convoy = h.convoy := by unfold Hart.setX; split <;> rfl
@[simp] theorem Hart.setX_convoys (h : Hart) (r : BitVec 5) (v : Word) (t : Option (BitVec 16)) : (h.setX r v t).convoys = h.convoys := by unfold Hart.setX; split <;> rfl
@[simp] theorem Hart.setX_convoyRun (h : Hart) (r : BitVec 5) (v : Word) (t : Option (BitVec 16)) : (h.setX r v t).convoyRun = h.convoyRun := by unfold Hart.setX; split <;> rfl
@[simp] theorem Hart.setX_streams (h : Hart) (r : BitVec 5) (v : Word) (t : Option (BitVec 16)) : (h.setX r v t).streams = h.streams := by unfold Hart.setX; split <;> rfl
@[simp] theorem Hart.setX_arrivals (h : Hart) (r : BitVec 5) (v : Word) (t : Option (BitVec 16)) : (h.setX r v t).arrivals = h.arrivals := by unfold Hart.setX; split <;> rfl
@[simp] theorem Hart.setX_sets (h : Hart) (r : BitVec 5) (v : Word) (t : Option (BitVec 16)) : (h.setX r v t).sets = h.sets := by unfold Hart.setX; split <;> rfl
@[simp] theorem Hart.setX_ends (h : Hart) (r : BitVec 5) (v : Word) (t : Option (BitVec 16)) : (h.setX r v t).ends = h.ends := by unfold Hart.setX; split <;> rfl
@[simp] theorem Hart.setX_event (h : Hart) (r : BitVec 5) (v : Word) (t : Option (BitVec 16)) : (h.setX r v t).event = h.event := by unfold Hart.setX; split <;> rfl
@[simp] theorem Hart.setX_csa (h : Hart) (r : BitVec 5) (v : Word) (t : Option (BitVec 16)) : (h.setX r v t).csa = h.csa := by unfold Hart.setX; split <;> rfl
@[simp] theorem Hart.setX_holdReq (h : Hart) (r : BitVec 5) (v : Word) (t : Option (BitVec 16)) : (h.setX r v t).holdReq = h.holdReq := by unfold Hart.setX; split <;> rfl
@[simp] theorem Hart.setX_preempt (h : Hart) (r : BitVec 5) (v : Word) (t : Option (BitVec 16)) : (h.setX r v t).preempt = h.preempt := by unfold Hart.setX; split <;> rfl
@[simp] theorem Hart.setX_wait (h : Hart) (r : BitVec 5) (v : Word) (t : Option (BitVec 16)) : (h.setX r v t).wait = h.wait := by unfold Hart.setX; split <;> rfl
@[simp] theorem Hart.setX_answer (h : Hart) (r : BitVec 5) (v : Word) (t : Option (BitVec 16)) : (h.setX r v t).answer = h.answer := by unfold Hart.setX; split <;> rfl
@[simp] theorem Hart.setX_badLine (h : Hart) (r : BitVec 5) (v : Word) (t : Option (BitVec 16)) : (h.setX r v t).badLine = h.badLine := by unfold Hart.setX; split <;> rfl
@[simp] theorem Hart.setX_capture (h : Hart) (r : BitVec 5) (v : Word) (t : Option (BitVec 16)) : (h.setX r v t).capture = h.capture := by unfold Hart.setX; split <;> rfl
@[simp] theorem Hart.setX_quanta (h : Hart) (r : BitVec 5) (v : Word) (t : Option (BitVec 16)) : (h.setX r v t).quanta = h.quanta := by unfold Hart.setX; split <;> rfl

/-! ### Hart.retire -/

@[simp] theorem Hart.retire_dev (h : Hart) (r : Option (BitVec 5)) : (h.retire r).dev = h.dev := rfl
@[simp] theorem Hart.retire_core (h : Hart) (r : Option (BitVec 5)) : (h.retire r).core = h.core := rfl
@[simp] theorem Hart.retire_ser (h : Hart) (r : Option (BitVec 5)) : (h.retire r).ser = h.ser := rfl
@[simp] theorem Hart.retire_gid (h : Hart) (r : Option (BitVec 5)) : (h.retire r).gid = h.gid := rfl
@[simp] theorem Hart.retire_rank (h : Hart) (r : Option (BitVec 5)) : (h.retire r).rank = h.rank := rfl
@[simp] theorem Hart.retire_wid (h : Hart) (r : Option (BitVec 5)) : (h.retire r).wid = h.wid := rfl
@[simp] theorem Hart.retire_role (h : Hart) (r : Option (BitVec 5)) : (h.retire r).role = h.role := rfl
@[simp] theorem Hart.retire_weight (h : Hart) (r : Option (BitVec 5)) : (h.retire r).weight = h.weight := rfl
@[simp] theorem Hart.retire_life (h : Hart) (r : Option (BitVec 5)) : (h.retire r).life = h.life := rfl
@[simp] theorem Hart.retire_x (h : Hart) (r : Option (BitVec 5)) : (h.retire r).x = h.x := rfl
@[simp] theorem Hart.retire_tag (h : Hart) (r : Option (BitVec 5)) : (h.retire r).tag = h.tag := rfl
@[simp] theorem Hart.retire_iw (h : Hart) (r : Option (BitVec 5)) : (h.retire r).iw = h.iw := rfl
@[simp] theorem Hart.retire_vl (h : Hart) (r : Option (BitVec 5)) : (h.retire r).vl = h.vl := rfl
@[simp] theorem Hart.retire_vtype (h : Hart) (r : Option (BitVec 5)) : (h.retire r).vtype = h.vtype := rfl
@[simp] theorem Hart.retire_vstart (h : Hart) (r : Option (BitVec 5)) : (h.retire r).vstart = h.vstart := rfl
@[simp] theorem Hart.retire_vlff (h : Hart) (r : Option (BitVec 5)) : (h.retire r).vlff = h.vlff := rfl
@[simp] theorem Hart.retire_tshp (h : Hart) (r : Option (BitVec 5)) : (h.retire r).tshp = h.tshp := rfl
@[simp] theorem Hart.retire_fflags (h : Hart) (r : Option (BitVec 5)) : (h.retire r).fflags = h.fflags := rfl
@[simp] theorem Hart.retire_frm (h : Hart) (r : Option (BitVec 5)) : (h.retire r).frm = h.frm := rfl
@[simp] theorem Hart.retire_seed (h : Hart) (r : Option (BitVec 5)) : (h.retire r).seed = h.seed := rfl
@[simp] theorem Hart.retire_wcons (h : Hart) (r : Option (BitVec 5)) : (h.retire r).wcons = h.wcons := rfl
@[simp] theorem Hart.retire_btctl (h : Hart) (r : Option (BitVec 5)) : (h.retire r).btctl = h.btctl := rfl
@[simp] theorem Hart.retire_xrSeq (h : Hart) (r : Option (BitVec 5)) : (h.retire r).xrSeq = h.xrSeq := rfl
@[simp] theorem Hart.retire_xrLast (h : Hart) (r : Option (BitVec 5)) : (h.retire r).xrLast = h.xrLast := rfl
@[simp] theorem Hart.retire_share (h : Hart) (r : Option (BitVec 5)) : (h.retire r).share = h.share := rfl
@[simp] theorem Hart.retire_pend (h : Hart) (r : Option (BitVec 5)) : (h.retire r).pend = h.pend := rfl
@[simp] theorem Hart.retire_pv (h : Hart) (r : Option (BitVec 5)) : (h.retire r).pv = h.pv := rfl
@[simp] theorem Hart.retire_cap (h : Hart) (r : Option (BitVec 5)) : (h.retire r).cap = h.cap := rfl
@[simp] theorem Hart.retire_pfx (h : Hart) (r : Option (BitVec 5)) : (h.retire r).pfx = h.pfx := rfl
@[simp] theorem Hart.retire_issue (h : Hart) (r : Option (BitVec 5)) : (h.retire r).issue = h.issue := rfl
@[simp] theorem Hart.retire_slottab (h : Hart) (r : Option (BitVec 5)) : (h.retire r).slottab = h.slottab := rfl
@[simp] theorem Hart.retire_ltab (h : Hart) (r : Option (BitVec 5)) : (h.retire r).ltab = h.ltab := rfl
@[simp] theorem Hart.retire_code (h : Hart) (r : Option (BitVec 5)) : (h.retire r).code = h.code := rfl
@[simp] theorem Hart.retire_hcode (h : Hart) (r : Option (BitVec 5)) : (h.retire r).hcode = h.hcode := rfl
@[simp] theorem Hart.retire_tcause (h : Hart) (r : Option (BitVec 5)) : (h.retire r).tcause = h.tcause := rfl
@[simp] theorem Hart.retire_tpc (h : Hart) (r : Option (BitVec 5)) : (h.retire r).tpc = h.tpc := rfl
@[simp] theorem Hart.retire_tdetail (h : Hart) (r : Option (BitVec 5)) : (h.retire r).tdetail = h.tdetail := rfl
@[simp] theorem Hart.retire_tval (h : Hart) (r : Option (BitVec 5)) : (h.retire r).tval = h.tval := rfl
@[simp] theorem Hart.retire_tctx (h : Hart) (r : Option (BitVec 5)) : (h.retire r).tctx = h.tctx := rfl
@[simp] theorem Hart.retire_ovf (h : Hart) (r : Option (BitVec 5)) : (h.retire r).ovf = h.ovf := rfl
@[simp] theorem Hart.retire_ie (h : Hart) (r : Option (BitVec 5)) : (h.retire r).ie = h.ie := rfl
@[simp] theorem Hart.retire_nest (h : Hart) (r : Option (BitVec 5)) : (h.retire r).nest = h.nest := rfl
@[simp] theorem Hart.retire_hm (h : Hart) (r : Option (BitVec 5)) : (h.retire r).hm = h.hm := rfl
@[simp] theorem Hart.retire_view (h : Hart) (r : Option (BitVec 5)) : (h.retire r).view = h.view := rfl
@[simp] theorem Hart.retire_vreg (h : Hart) (r : Option (BitVec 5)) : (h.retire r).vreg = h.vreg := rfl
@[simp] theorem Hart.retire_kreg (h : Hart) (r : Option (BitVec 5)) : (h.retire r).kreg = h.kreg := rfl
@[simp] theorem Hart.retire_tile (h : Hart) (r : Option (BitVec 5)) : (h.retire r).tile = h.tile := rfl
@[simp] theorem Hart.retire_vloc (h : Hart) (r : Option (BitVec 5)) : (h.retire r).vloc = h.vloc := rfl
@[simp] theorem Hart.retire_groups (h : Hart) (r : Option (BitVec 5)) : (h.retire r).groups = h.groups := rfl
@[simp] theorem Hart.retire_queue (h : Hart) (r : Option (BitVec 5)) : (h.retire r).queue = h.queue := rfl
@[simp] theorem Hart.retire_convoy (h : Hart) (r : Option (BitVec 5)) : (h.retire r).convoy = h.convoy := rfl
@[simp] theorem Hart.retire_convoys (h : Hart) (r : Option (BitVec 5)) : (h.retire r).convoys = h.convoys := rfl
@[simp] theorem Hart.retire_convoyRun (h : Hart) (r : Option (BitVec 5)) : (h.retire r).convoyRun = h.convoyRun := rfl
@[simp] theorem Hart.retire_streams (h : Hart) (r : Option (BitVec 5)) : (h.retire r).streams = h.streams := rfl
@[simp] theorem Hart.retire_arrivals (h : Hart) (r : Option (BitVec 5)) : (h.retire r).arrivals = h.arrivals := rfl
@[simp] theorem Hart.retire_sets (h : Hart) (r : Option (BitVec 5)) : (h.retire r).sets = h.sets := rfl
@[simp] theorem Hart.retire_ends (h : Hart) (r : Option (BitVec 5)) : (h.retire r).ends = h.ends := rfl
@[simp] theorem Hart.retire_event (h : Hart) (r : Option (BitVec 5)) : (h.retire r).event = h.event := rfl
@[simp] theorem Hart.retire_csa (h : Hart) (r : Option (BitVec 5)) : (h.retire r).csa = h.csa := rfl
@[simp] theorem Hart.retire_holdReq (h : Hart) (r : Option (BitVec 5)) : (h.retire r).holdReq = h.holdReq := rfl
@[simp] theorem Hart.retire_preempt (h : Hart) (r : Option (BitVec 5)) : (h.retire r).preempt = h.preempt := rfl
@[simp] theorem Hart.retire_wait (h : Hart) (r : Option (BitVec 5)) : (h.retire r).wait = h.wait := rfl
@[simp] theorem Hart.retire_answer (h : Hart) (r : Option (BitVec 5)) : (h.retire r).answer = h.answer := rfl
@[simp] theorem Hart.retire_badLine (h : Hart) (r : Option (BitVec 5)) : (h.retire r).badLine = h.badLine := rfl
@[simp] theorem Hart.retire_quanta (h : Hart) (r : Option (BitVec 5)) : (h.retire r).quanta = h.quanta := rfl

/-! ### Hart.raise -/

@[simp] theorem Hart.raise_dev (h : Hart) (fl : Flags) : (h.raise fl).dev = h.dev := rfl
@[simp] theorem Hart.raise_core (h : Hart) (fl : Flags) : (h.raise fl).core = h.core := rfl
@[simp] theorem Hart.raise_ser (h : Hart) (fl : Flags) : (h.raise fl).ser = h.ser := rfl
@[simp] theorem Hart.raise_gid (h : Hart) (fl : Flags) : (h.raise fl).gid = h.gid := rfl
@[simp] theorem Hart.raise_rank (h : Hart) (fl : Flags) : (h.raise fl).rank = h.rank := rfl
@[simp] theorem Hart.raise_wid (h : Hart) (fl : Flags) : (h.raise fl).wid = h.wid := rfl
@[simp] theorem Hart.raise_role (h : Hart) (fl : Flags) : (h.raise fl).role = h.role := rfl
@[simp] theorem Hart.raise_weight (h : Hart) (fl : Flags) : (h.raise fl).weight = h.weight := rfl
@[simp] theorem Hart.raise_life (h : Hart) (fl : Flags) : (h.raise fl).life = h.life := rfl
@[simp] theorem Hart.raise_x (h : Hart) (fl : Flags) : (h.raise fl).x = h.x := rfl
@[simp] theorem Hart.raise_tag (h : Hart) (fl : Flags) : (h.raise fl).tag = h.tag := rfl
@[simp] theorem Hart.raise_pc (h : Hart) (fl : Flags) : (h.raise fl).pc = h.pc := rfl
@[simp] theorem Hart.raise_iw (h : Hart) (fl : Flags) : (h.raise fl).iw = h.iw := rfl
@[simp] theorem Hart.raise_half (h : Hart) (fl : Flags) : (h.raise fl).half = h.half := rfl
@[simp] theorem Hart.raise_pairHeld (h : Hart) (fl : Flags) : (h.raise fl).pairHeld = h.pairHeld := rfl
@[simp] theorem Hart.raise_loan (h : Hart) (fl : Flags) : (h.raise fl).loan = h.loan := rfl
@[simp] theorem Hart.raise_last (h : Hart) (fl : Flags) : (h.raise fl).last = h.last := rfl
@[simp] theorem Hart.raise_vl (h : Hart) (fl : Flags) : (h.raise fl).vl = h.vl := rfl
@[simp] theorem Hart.raise_vtype (h : Hart) (fl : Flags) : (h.raise fl).vtype = h.vtype := rfl
@[simp] theorem Hart.raise_vstart (h : Hart) (fl : Flags) : (h.raise fl).vstart = h.vstart := rfl
@[simp] theorem Hart.raise_vlff (h : Hart) (fl : Flags) : (h.raise fl).vlff = h.vlff := rfl
@[simp] theorem Hart.raise_tshp (h : Hart) (fl : Flags) : (h.raise fl).tshp = h.tshp := rfl
@[simp] theorem Hart.raise_frm (h : Hart) (fl : Flags) : (h.raise fl).frm = h.frm := rfl
@[simp] theorem Hart.raise_seed (h : Hart) (fl : Flags) : (h.raise fl).seed = h.seed := rfl
@[simp] theorem Hart.raise_wcons (h : Hart) (fl : Flags) : (h.raise fl).wcons = h.wcons := rfl
@[simp] theorem Hart.raise_btctl (h : Hart) (fl : Flags) : (h.raise fl).btctl = h.btctl := rfl
@[simp] theorem Hart.raise_xrSeq (h : Hart) (fl : Flags) : (h.raise fl).xrSeq = h.xrSeq := rfl
@[simp] theorem Hart.raise_xrLast (h : Hart) (fl : Flags) : (h.raise fl).xrLast = h.xrLast := rfl
@[simp] theorem Hart.raise_share (h : Hart) (fl : Flags) : (h.raise fl).share = h.share := rfl
@[simp] theorem Hart.raise_pend (h : Hart) (fl : Flags) : (h.raise fl).pend = h.pend := rfl
@[simp] theorem Hart.raise_pv (h : Hart) (fl : Flags) : (h.raise fl).pv = h.pv := rfl
@[simp] theorem Hart.raise_cap (h : Hart) (fl : Flags) : (h.raise fl).cap = h.cap := rfl
@[simp] theorem Hart.raise_pfx (h : Hart) (fl : Flags) : (h.raise fl).pfx = h.pfx := rfl
@[simp] theorem Hart.raise_issue (h : Hart) (fl : Flags) : (h.raise fl).issue = h.issue := rfl
@[simp] theorem Hart.raise_slottab (h : Hart) (fl : Flags) : (h.raise fl).slottab = h.slottab := rfl
@[simp] theorem Hart.raise_ltab (h : Hart) (fl : Flags) : (h.raise fl).ltab = h.ltab := rfl
@[simp] theorem Hart.raise_code (h : Hart) (fl : Flags) : (h.raise fl).code = h.code := rfl
@[simp] theorem Hart.raise_hcode (h : Hart) (fl : Flags) : (h.raise fl).hcode = h.hcode := rfl
@[simp] theorem Hart.raise_tcause (h : Hart) (fl : Flags) : (h.raise fl).tcause = h.tcause := rfl
@[simp] theorem Hart.raise_tpc (h : Hart) (fl : Flags) : (h.raise fl).tpc = h.tpc := rfl
@[simp] theorem Hart.raise_tdetail (h : Hart) (fl : Flags) : (h.raise fl).tdetail = h.tdetail := rfl
@[simp] theorem Hart.raise_tval (h : Hart) (fl : Flags) : (h.raise fl).tval = h.tval := rfl
@[simp] theorem Hart.raise_tctx (h : Hart) (fl : Flags) : (h.raise fl).tctx = h.tctx := rfl
@[simp] theorem Hart.raise_ovf (h : Hart) (fl : Flags) : (h.raise fl).ovf = h.ovf := rfl
@[simp] theorem Hart.raise_ie (h : Hart) (fl : Flags) : (h.raise fl).ie = h.ie := rfl
@[simp] theorem Hart.raise_nest (h : Hart) (fl : Flags) : (h.raise fl).nest = h.nest := rfl
@[simp] theorem Hart.raise_hm (h : Hart) (fl : Flags) : (h.raise fl).hm = h.hm := rfl
@[simp] theorem Hart.raise_view (h : Hart) (fl : Flags) : (h.raise fl).view = h.view := rfl
@[simp] theorem Hart.raise_vreg (h : Hart) (fl : Flags) : (h.raise fl).vreg = h.vreg := rfl
@[simp] theorem Hart.raise_kreg (h : Hart) (fl : Flags) : (h.raise fl).kreg = h.kreg := rfl
@[simp] theorem Hart.raise_tile (h : Hart) (fl : Flags) : (h.raise fl).tile = h.tile := rfl
@[simp] theorem Hart.raise_vloc (h : Hart) (fl : Flags) : (h.raise fl).vloc = h.vloc := rfl
@[simp] theorem Hart.raise_groups (h : Hart) (fl : Flags) : (h.raise fl).groups = h.groups := rfl
@[simp] theorem Hart.raise_queue (h : Hart) (fl : Flags) : (h.raise fl).queue = h.queue := rfl
@[simp] theorem Hart.raise_convoy (h : Hart) (fl : Flags) : (h.raise fl).convoy = h.convoy := rfl
@[simp] theorem Hart.raise_convoys (h : Hart) (fl : Flags) : (h.raise fl).convoys = h.convoys := rfl
@[simp] theorem Hart.raise_convoyRun (h : Hart) (fl : Flags) : (h.raise fl).convoyRun = h.convoyRun := rfl
@[simp] theorem Hart.raise_streams (h : Hart) (fl : Flags) : (h.raise fl).streams = h.streams := rfl
@[simp] theorem Hart.raise_arrivals (h : Hart) (fl : Flags) : (h.raise fl).arrivals = h.arrivals := rfl
@[simp] theorem Hart.raise_sets (h : Hart) (fl : Flags) : (h.raise fl).sets = h.sets := rfl
@[simp] theorem Hart.raise_ends (h : Hart) (fl : Flags) : (h.raise fl).ends = h.ends := rfl
@[simp] theorem Hart.raise_event (h : Hart) (fl : Flags) : (h.raise fl).event = h.event := rfl
@[simp] theorem Hart.raise_csa (h : Hart) (fl : Flags) : (h.raise fl).csa = h.csa := rfl
@[simp] theorem Hart.raise_holdReq (h : Hart) (fl : Flags) : (h.raise fl).holdReq = h.holdReq := rfl
@[simp] theorem Hart.raise_preempt (h : Hart) (fl : Flags) : (h.raise fl).preempt = h.preempt := rfl
@[simp] theorem Hart.raise_wait (h : Hart) (fl : Flags) : (h.raise fl).wait = h.wait := rfl
@[simp] theorem Hart.raise_answer (h : Hart) (fl : Flags) : (h.raise fl).answer = h.answer := rfl
@[simp] theorem Hart.raise_badLine (h : Hart) (fl : Flags) : (h.raise fl).badLine = h.badLine := rfl
@[simp] theorem Hart.raise_capture (h : Hart) (fl : Flags) : (h.raise fl).capture = h.capture := rfl
@[simp] theorem Hart.raise_quanta (h : Hart) (fl : Flags) : (h.raise fl).quanta = h.quanta := rfl

/-! ### Hart.trapRegs -/

@[simp] theorem Hart.trapRegs_dev (h : Hart) (c : Nat) (d v : Word) : (h.trapRegs c d v).dev = h.dev := rfl
@[simp] theorem Hart.trapRegs_core (h : Hart) (c : Nat) (d v : Word) : (h.trapRegs c d v).core = h.core := rfl
@[simp] theorem Hart.trapRegs_ser (h : Hart) (c : Nat) (d v : Word) : (h.trapRegs c d v).ser = h.ser := rfl
@[simp] theorem Hart.trapRegs_gid (h : Hart) (c : Nat) (d v : Word) : (h.trapRegs c d v).gid = h.gid := rfl
@[simp] theorem Hart.trapRegs_rank (h : Hart) (c : Nat) (d v : Word) : (h.trapRegs c d v).rank = h.rank := rfl
@[simp] theorem Hart.trapRegs_wid (h : Hart) (c : Nat) (d v : Word) : (h.trapRegs c d v).wid = h.wid := rfl
@[simp] theorem Hart.trapRegs_role (h : Hart) (c : Nat) (d v : Word) : (h.trapRegs c d v).role = h.role := rfl
@[simp] theorem Hart.trapRegs_weight (h : Hart) (c : Nat) (d v : Word) : (h.trapRegs c d v).weight = h.weight := rfl
@[simp] theorem Hart.trapRegs_life (h : Hart) (c : Nat) (d v : Word) : (h.trapRegs c d v).life = h.life := rfl
@[simp] theorem Hart.trapRegs_x (h : Hart) (c : Nat) (d v : Word) : (h.trapRegs c d v).x = h.x := rfl
@[simp] theorem Hart.trapRegs_tag (h : Hart) (c : Nat) (d v : Word) : (h.trapRegs c d v).tag = h.tag := rfl
@[simp] theorem Hart.trapRegs_pc (h : Hart) (c : Nat) (d v : Word) : (h.trapRegs c d v).pc = h.pc := rfl
@[simp] theorem Hart.trapRegs_iw (h : Hart) (c : Nat) (d v : Word) : (h.trapRegs c d v).iw = h.iw := rfl
@[simp] theorem Hart.trapRegs_half (h : Hart) (c : Nat) (d v : Word) : (h.trapRegs c d v).half = h.half := rfl
@[simp] theorem Hart.trapRegs_pairHeld (h : Hart) (c : Nat) (d v : Word) : (h.trapRegs c d v).pairHeld = h.pairHeld := rfl
@[simp] theorem Hart.trapRegs_loan (h : Hart) (c : Nat) (d v : Word) : (h.trapRegs c d v).loan = h.loan := rfl
@[simp] theorem Hart.trapRegs_last (h : Hart) (c : Nat) (d v : Word) : (h.trapRegs c d v).last = h.last := rfl
@[simp] theorem Hart.trapRegs_vl (h : Hart) (c : Nat) (d v : Word) : (h.trapRegs c d v).vl = h.vl := rfl
@[simp] theorem Hart.trapRegs_vtype (h : Hart) (c : Nat) (d v : Word) : (h.trapRegs c d v).vtype = h.vtype := rfl
@[simp] theorem Hart.trapRegs_vstart (h : Hart) (c : Nat) (d v : Word) : (h.trapRegs c d v).vstart = h.vstart := rfl
@[simp] theorem Hart.trapRegs_vlff (h : Hart) (c : Nat) (d v : Word) : (h.trapRegs c d v).vlff = h.vlff := rfl
@[simp] theorem Hart.trapRegs_tshp (h : Hart) (c : Nat) (d v : Word) : (h.trapRegs c d v).tshp = h.tshp := rfl
@[simp] theorem Hart.trapRegs_fflags (h : Hart) (c : Nat) (d v : Word) : (h.trapRegs c d v).fflags = h.fflags := rfl
@[simp] theorem Hart.trapRegs_frm (h : Hart) (c : Nat) (d v : Word) : (h.trapRegs c d v).frm = h.frm := rfl
@[simp] theorem Hart.trapRegs_seed (h : Hart) (c : Nat) (d v : Word) : (h.trapRegs c d v).seed = h.seed := rfl
@[simp] theorem Hart.trapRegs_wcons (h : Hart) (c : Nat) (d v : Word) : (h.trapRegs c d v).wcons = h.wcons := rfl
@[simp] theorem Hart.trapRegs_btctl (h : Hart) (c : Nat) (d v : Word) : (h.trapRegs c d v).btctl = h.btctl := rfl
@[simp] theorem Hart.trapRegs_xrSeq (h : Hart) (c : Nat) (d v : Word) : (h.trapRegs c d v).xrSeq = h.xrSeq := rfl
@[simp] theorem Hart.trapRegs_xrLast (h : Hart) (c : Nat) (d v : Word) : (h.trapRegs c d v).xrLast = h.xrLast := rfl
@[simp] theorem Hart.trapRegs_share (h : Hart) (c : Nat) (d v : Word) : (h.trapRegs c d v).share = h.share := rfl
@[simp] theorem Hart.trapRegs_pend (h : Hart) (c : Nat) (d v : Word) : (h.trapRegs c d v).pend = h.pend := rfl
@[simp] theorem Hart.trapRegs_pv (h : Hart) (c : Nat) (d v : Word) : (h.trapRegs c d v).pv = h.pv := rfl
@[simp] theorem Hart.trapRegs_cap (h : Hart) (c : Nat) (d v : Word) : (h.trapRegs c d v).cap = h.cap := rfl
@[simp] theorem Hart.trapRegs_issue (h : Hart) (c : Nat) (d v : Word) : (h.trapRegs c d v).issue = h.issue := rfl
@[simp] theorem Hart.trapRegs_slottab (h : Hart) (c : Nat) (d v : Word) : (h.trapRegs c d v).slottab = h.slottab := rfl
@[simp] theorem Hart.trapRegs_ltab (h : Hart) (c : Nat) (d v : Word) : (h.trapRegs c d v).ltab = h.ltab := rfl
@[simp] theorem Hart.trapRegs_code (h : Hart) (c : Nat) (d v : Word) : (h.trapRegs c d v).code = h.code := rfl
@[simp] theorem Hart.trapRegs_hcode (h : Hart) (c : Nat) (d v : Word) : (h.trapRegs c d v).hcode = h.hcode := rfl
@[simp] theorem Hart.trapRegs_tctx (h : Hart) (c : Nat) (d v : Word) : (h.trapRegs c d v).tctx = h.tctx := rfl
@[simp] theorem Hart.trapRegs_ovf (h : Hart) (c : Nat) (d v : Word) : (h.trapRegs c d v).ovf = h.ovf := rfl
@[simp] theorem Hart.trapRegs_ie (h : Hart) (c : Nat) (d v : Word) : (h.trapRegs c d v).ie = h.ie := rfl
@[simp] theorem Hart.trapRegs_nest (h : Hart) (c : Nat) (d v : Word) : (h.trapRegs c d v).nest = h.nest := rfl
@[simp] theorem Hart.trapRegs_hm (h : Hart) (c : Nat) (d v : Word) : (h.trapRegs c d v).hm = h.hm := rfl
@[simp] theorem Hart.trapRegs_view (h : Hart) (c : Nat) (d v : Word) : (h.trapRegs c d v).view = h.view := rfl
@[simp] theorem Hart.trapRegs_vreg (h : Hart) (c : Nat) (d v : Word) : (h.trapRegs c d v).vreg = h.vreg := rfl
@[simp] theorem Hart.trapRegs_kreg (h : Hart) (c : Nat) (d v : Word) : (h.trapRegs c d v).kreg = h.kreg := rfl
@[simp] theorem Hart.trapRegs_tile (h : Hart) (c : Nat) (d v : Word) : (h.trapRegs c d v).tile = h.tile := rfl
@[simp] theorem Hart.trapRegs_vloc (h : Hart) (c : Nat) (d v : Word) : (h.trapRegs c d v).vloc = h.vloc := rfl
@[simp] theorem Hart.trapRegs_groups (h : Hart) (c : Nat) (d v : Word) : (h.trapRegs c d v).groups = h.groups := rfl
@[simp] theorem Hart.trapRegs_queue (h : Hart) (c : Nat) (d v : Word) : (h.trapRegs c d v).queue = h.queue := rfl
@[simp] theorem Hart.trapRegs_convoy (h : Hart) (c : Nat) (d v : Word) : (h.trapRegs c d v).convoy = h.convoy := rfl
@[simp] theorem Hart.trapRegs_convoys (h : Hart) (c : Nat) (d v : Word) : (h.trapRegs c d v).convoys = h.convoys := rfl
@[simp] theorem Hart.trapRegs_convoyRun (h : Hart) (c : Nat) (d v : Word) : (h.trapRegs c d v).convoyRun = h.convoyRun := rfl
@[simp] theorem Hart.trapRegs_streams (h : Hart) (c : Nat) (d v : Word) : (h.trapRegs c d v).streams = h.streams := rfl
@[simp] theorem Hart.trapRegs_arrivals (h : Hart) (c : Nat) (d v : Word) : (h.trapRegs c d v).arrivals = h.arrivals := rfl
@[simp] theorem Hart.trapRegs_sets (h : Hart) (c : Nat) (d v : Word) : (h.trapRegs c d v).sets = h.sets := rfl
@[simp] theorem Hart.trapRegs_ends (h : Hart) (c : Nat) (d v : Word) : (h.trapRegs c d v).ends = h.ends := rfl
@[simp] theorem Hart.trapRegs_event (h : Hart) (c : Nat) (d v : Word) : (h.trapRegs c d v).event = h.event := rfl
@[simp] theorem Hart.trapRegs_csa (h : Hart) (c : Nat) (d v : Word) : (h.trapRegs c d v).csa = h.csa := rfl
@[simp] theorem Hart.trapRegs_holdReq (h : Hart) (c : Nat) (d v : Word) : (h.trapRegs c d v).holdReq = h.holdReq := rfl
@[simp] theorem Hart.trapRegs_preempt (h : Hart) (c : Nat) (d v : Word) : (h.trapRegs c d v).preempt = h.preempt := rfl
@[simp] theorem Hart.trapRegs_wait (h : Hart) (c : Nat) (d v : Word) : (h.trapRegs c d v).wait = h.wait := rfl
@[simp] theorem Hart.trapRegs_answer (h : Hart) (c : Nat) (d v : Word) : (h.trapRegs c d v).answer = h.answer := rfl
@[simp] theorem Hart.trapRegs_badLine (h : Hart) (c : Nat) (d v : Word) : (h.trapRegs c d v).badLine = h.badLine := rfl
@[simp] theorem Hart.trapRegs_capture (h : Hart) (c : Nat) (d v : Word) : (h.trapRegs c d v).capture = h.capture := rfl
@[simp] theorem Hart.trapRegs_quanta (h : Hart) (c : Nat) (d v : Word) : (h.trapRegs c d v).quanta = h.quanta := rfl

/-! ### Hart.enterHandler -/

@[simp] theorem Hart.enterHandler_dev (h : Hart) (v : Word) (c : BitVec 32) : (h.enterHandler v c).dev = h.dev := rfl
@[simp] theorem Hart.enterHandler_core (h : Hart) (v : Word) (c : BitVec 32) : (h.enterHandler v c).core = h.core := rfl
@[simp] theorem Hart.enterHandler_ser (h : Hart) (v : Word) (c : BitVec 32) : (h.enterHandler v c).ser = h.ser := rfl
@[simp] theorem Hart.enterHandler_gid (h : Hart) (v : Word) (c : BitVec 32) : (h.enterHandler v c).gid = h.gid := rfl
@[simp] theorem Hart.enterHandler_rank (h : Hart) (v : Word) (c : BitVec 32) : (h.enterHandler v c).rank = h.rank := rfl
@[simp] theorem Hart.enterHandler_wid (h : Hart) (v : Word) (c : BitVec 32) : (h.enterHandler v c).wid = h.wid := rfl
@[simp] theorem Hart.enterHandler_role (h : Hart) (v : Word) (c : BitVec 32) : (h.enterHandler v c).role = h.role := rfl
@[simp] theorem Hart.enterHandler_weight (h : Hart) (v : Word) (c : BitVec 32) : (h.enterHandler v c).weight = h.weight := rfl
@[simp] theorem Hart.enterHandler_life (h : Hart) (v : Word) (c : BitVec 32) : (h.enterHandler v c).life = h.life := rfl
@[simp] theorem Hart.enterHandler_iw (h : Hart) (v : Word) (c : BitVec 32) : (h.enterHandler v c).iw = h.iw := rfl
@[simp] theorem Hart.enterHandler_vstart (h : Hart) (v : Word) (c : BitVec 32) : (h.enterHandler v c).vstart = h.vstart := rfl
@[simp] theorem Hart.enterHandler_vlff (h : Hart) (v : Word) (c : BitVec 32) : (h.enterHandler v c).vlff = h.vlff := rfl
@[simp] theorem Hart.enterHandler_tshp (h : Hart) (v : Word) (c : BitVec 32) : (h.enterHandler v c).tshp = h.tshp := rfl
@[simp] theorem Hart.enterHandler_fflags (h : Hart) (v : Word) (c : BitVec 32) : (h.enterHandler v c).fflags = h.fflags := rfl
@[simp] theorem Hart.enterHandler_frm (h : Hart) (v : Word) (c : BitVec 32) : (h.enterHandler v c).frm = h.frm := rfl
@[simp] theorem Hart.enterHandler_seed (h : Hart) (v : Word) (c : BitVec 32) : (h.enterHandler v c).seed = h.seed := rfl
@[simp] theorem Hart.enterHandler_wcons (h : Hart) (v : Word) (c : BitVec 32) : (h.enterHandler v c).wcons = h.wcons := rfl
@[simp] theorem Hart.enterHandler_btctl (h : Hart) (v : Word) (c : BitVec 32) : (h.enterHandler v c).btctl = h.btctl := rfl
@[simp] theorem Hart.enterHandler_xrSeq (h : Hart) (v : Word) (c : BitVec 32) : (h.enterHandler v c).xrSeq = h.xrSeq := rfl
@[simp] theorem Hart.enterHandler_xrLast (h : Hart) (v : Word) (c : BitVec 32) : (h.enterHandler v c).xrLast = h.xrLast := rfl
@[simp] theorem Hart.enterHandler_share (h : Hart) (v : Word) (c : BitVec 32) : (h.enterHandler v c).share = h.share := rfl
@[simp] theorem Hart.enterHandler_pend (h : Hart) (v : Word) (c : BitVec 32) : (h.enterHandler v c).pend = h.pend := rfl
@[simp] theorem Hart.enterHandler_pv (h : Hart) (v : Word) (c : BitVec 32) : (h.enterHandler v c).pv = h.pv := rfl
@[simp] theorem Hart.enterHandler_cap (h : Hart) (v : Word) (c : BitVec 32) : (h.enterHandler v c).cap = h.cap := rfl
@[simp] theorem Hart.enterHandler_pfx (h : Hart) (v : Word) (c : BitVec 32) : (h.enterHandler v c).pfx = h.pfx := rfl
@[simp] theorem Hart.enterHandler_issue (h : Hart) (v : Word) (c : BitVec 32) : (h.enterHandler v c).issue = h.issue := rfl
@[simp] theorem Hart.enterHandler_slottab (h : Hart) (v : Word) (c : BitVec 32) : (h.enterHandler v c).slottab = h.slottab := rfl
@[simp] theorem Hart.enterHandler_ltab (h : Hart) (v : Word) (c : BitVec 32) : (h.enterHandler v c).ltab = h.ltab := rfl
@[simp] theorem Hart.enterHandler_code (h : Hart) (v : Word) (c : BitVec 32) : (h.enterHandler v c).code = h.code := rfl
@[simp] theorem Hart.enterHandler_tcause (h : Hart) (v : Word) (c : BitVec 32) : (h.enterHandler v c).tcause = h.tcause := rfl
@[simp] theorem Hart.enterHandler_tpc (h : Hart) (v : Word) (c : BitVec 32) : (h.enterHandler v c).tpc = h.tpc := rfl
@[simp] theorem Hart.enterHandler_tdetail (h : Hart) (v : Word) (c : BitVec 32) : (h.enterHandler v c).tdetail = h.tdetail := rfl
@[simp] theorem Hart.enterHandler_tval (h : Hart) (v : Word) (c : BitVec 32) : (h.enterHandler v c).tval = h.tval := rfl
@[simp] theorem Hart.enterHandler_tctx (h : Hart) (v : Word) (c : BitVec 32) : (h.enterHandler v c).tctx = h.tctx := rfl
@[simp] theorem Hart.enterHandler_ovf (h : Hart) (v : Word) (c : BitVec 32) : (h.enterHandler v c).ovf = h.ovf := rfl
@[simp] theorem Hart.enterHandler_ie (h : Hart) (v : Word) (c : BitVec 32) : (h.enterHandler v c).ie = h.ie := rfl
@[simp] theorem Hart.enterHandler_vreg (h : Hart) (v : Word) (c : BitVec 32) : (h.enterHandler v c).vreg = h.vreg := rfl
@[simp] theorem Hart.enterHandler_kreg (h : Hart) (v : Word) (c : BitVec 32) : (h.enterHandler v c).kreg = h.kreg := rfl
@[simp] theorem Hart.enterHandler_tile (h : Hart) (v : Word) (c : BitVec 32) : (h.enterHandler v c).tile = h.tile := rfl
@[simp] theorem Hart.enterHandler_vloc (h : Hart) (v : Word) (c : BitVec 32) : (h.enterHandler v c).vloc = h.vloc := rfl
@[simp] theorem Hart.enterHandler_groups (h : Hart) (v : Word) (c : BitVec 32) : (h.enterHandler v c).groups = h.groups := rfl
@[simp] theorem Hart.enterHandler_convoys (h : Hart) (v : Word) (c : BitVec 32) : (h.enterHandler v c).convoys = h.convoys := rfl
@[simp] theorem Hart.enterHandler_convoyRun (h : Hart) (v : Word) (c : BitVec 32) : (h.enterHandler v c).convoyRun = h.convoyRun := rfl
@[simp] theorem Hart.enterHandler_streams (h : Hart) (v : Word) (c : BitVec 32) : (h.enterHandler v c).streams = h.streams := rfl
@[simp] theorem Hart.enterHandler_arrivals (h : Hart) (v : Word) (c : BitVec 32) : (h.enterHandler v c).arrivals = h.arrivals := rfl
@[simp] theorem Hart.enterHandler_sets (h : Hart) (v : Word) (c : BitVec 32) : (h.enterHandler v c).sets = h.sets := rfl
@[simp] theorem Hart.enterHandler_ends (h : Hart) (v : Word) (c : BitVec 32) : (h.enterHandler v c).ends = h.ends := rfl
@[simp] theorem Hart.enterHandler_event (h : Hart) (v : Word) (c : BitVec 32) : (h.enterHandler v c).event = h.event := rfl
@[simp] theorem Hart.enterHandler_csa (h : Hart) (v : Word) (c : BitVec 32) : (h.enterHandler v c).csa = h.csa := rfl
@[simp] theorem Hart.enterHandler_holdReq (h : Hart) (v : Word) (c : BitVec 32) : (h.enterHandler v c).holdReq = h.holdReq := rfl
@[simp] theorem Hart.enterHandler_preempt (h : Hart) (v : Word) (c : BitVec 32) : (h.enterHandler v c).preempt = h.preempt := rfl
@[simp] theorem Hart.enterHandler_badLine (h : Hart) (v : Word) (c : BitVec 32) : (h.enterHandler v c).badLine = h.badLine := rfl
@[simp] theorem Hart.enterHandler_quanta (h : Hart) (v : Word) (c : BitVec 32) : (h.enterHandler v c).quanta = h.quanta := rfl

/-! ### What the updates change -/

@[simp] theorem State.mapHart_hart (s : State) (f : Hart → Hart) : (s.mapHart f).hart = f s.hart := rfl
@[simp] theorem State.setX_hart (s : State) (r : BitVec 5) (v : Word) (t : Option (BitVec 16)) :
    (s.setX r v t).hart = s.hart.setX r v t := rfl
@[simp] theorem State.retire_hart (s : State) (r : Option (BitVec 5)) : (s.retire r).hart = s.hart.retire r := rfl
@[simp] theorem State.writeBack_hart (s : State) (r : BitVec 5) (v : Word) (t : Option (BitVec 16)) :
    (s.writeBack r v t).hart = (s.hart.setX r v t).retire (some r) := rfl
@[simp] theorem State.waitFor_hart (s : State) (w : Wait) : (s.waitFor w).hart = { s.hart with wait := some w } := rfl
@[simp] theorem State.emit_outbox (s : State) (o : Outbound) : (s.emit o).outbox = s.outbox ++ [o] := rfl
@[simp] theorem Hart.retire_pc (h : Hart) (r : Option (BitVec 5)) : (h.retire r).pc = h.pc + 4 := rfl
@[simp] theorem Hart.retire_last (h : Hart) (r : Option (BitVec 5)) : (h.retire r).last = r := rfl
@[simp] theorem Hart.retire_loan (h : Hart) (r : Option (BitVec 5)) : (h.retire r).loan = none := rfl
@[simp] theorem Hart.retire_half (h : Hart) (r : Option (BitVec 5)) : (h.retire r).half = false := rfl
@[simp] theorem Hart.retire_pairHeld (h : Hart) (r : Option (BitVec 5)) : (h.retire r).pairHeld = false := rfl
@[simp] theorem Hart.retire_capture (h : Hart) (r : Option (BitVec 5)) : (h.retire r).capture = none := rfl
@[simp] theorem Hart.raise_fflags (h : Hart) (fl : Flags) : (h.raise fl).fflags = h.fflags ||| fl := rfl
@[simp] theorem Hart.trapRegs_tcause (h : Hart) (c : Nat) (d v : Word) :
    (h.trapRegs c d v).tcause = BitVec.ofNat 64 c := rfl
@[simp] theorem Hart.trapRegs_tdetail (h : Hart) (c : Nat) (d v : Word) : (h.trapRegs c d v).tdetail = d := rfl
@[simp] theorem Hart.trapRegs_tval (h : Hart) (c : Nat) (d v : Word) : (h.trapRegs c d v).tval = v := rfl
@[simp] theorem Hart.trapRegs_tpc (h : Hart) (c : Nat) (d v : Word) : (h.trapRegs c d v).tpc = h.pc := rfl
@[simp] theorem Hart.enterHandler_pc (h : Hart) (v : Word) (c : BitVec 32) : (h.enterHandler v c).pc = v := rfl
@[simp] theorem Hart.enterHandler_hm (h : Hart) (v : Word) (c : BitVec 32) : (h.enterHandler v c).hm = true := rfl

end Sys2Proof.Machine
end

