-- ==== Sys2Proof/Laws/Regs.lean ====
section
/-! SUPPORT. Laws of the registers of a hart and of the completion of an instruction (R22, R35, R112, R113). -/

namespace Sys2Proof.Machine

@[simp] theorem Hart.xr_zero (h : Hart) : h.xr 0#5 = 0#64 := rfl
@[simp] theorem Hart.tagOf_zero (h : Hart) : h.tagOf 0#5 = none := rfl
@[simp] theorem Hart.setX_zero (h : Hart) (v : Word) (t : Option (BitVec 16)) : h.setX 0#5 v t = h := rfl

/-- What a write of an x register leaves in every register: a write to x0 is discarded. -/
theorem Hart.setX_xr (h : Hart) (d r : BitVec 5) (v : Word) (t : Option (BitVec 16)) :
    (h.setX d v t).xr r = if r = d ∧ d ≠ 0 then v else h.xr r := by
  by_cases hd : d = 0
  · have hn : ¬ (r = d ∧ d ≠ 0) := fun h => h.2 hd
    rw [if_neg hn, Hart.setX, if_pos hd]
  · rw [Hart.setX, if_neg hd, Hart.xr, Hart.xr]
    by_cases hr : r = 0
    · have hn : ¬ (r = d ∧ d ≠ 0) := fun h => hd (h.1 ▸ hr)
      rw [if_pos hr, if_neg hn, if_pos hr]
    · rw [if_neg hr, if_neg hr]
      by_cases e : r = d
      · subst e
        rw [if_pos ⟨rfl, hd⟩]
        exact Vector.getElem_set_self ..
      · have hn : ¬ (r = d ∧ d ≠ 0) := fun h => e h.1
        rw [if_neg hn]
        exact Vector.getElem_set_ne (hi := d.isLt) (h := fun he => e (BitVec.eq_of_toNat_eq he.symm)) ..

theorem Hart.setX_tagOf (h : Hart) (d r : BitVec 5) (v : Word) (t : Option (BitVec 16)) :
    (h.setX d v t).tagOf r = if r = d ∧ d ≠ 0 then t else h.tagOf r := by
  by_cases hd : d = 0
  · have hn : ¬ (r = d ∧ d ≠ 0) := fun h => h.2 hd
    rw [if_neg hn, Hart.setX, if_pos hd]
  · rw [Hart.setX, if_neg hd, Hart.tagOf, Hart.tagOf]
    by_cases hr : r = 0
    · have hn : ¬ (r = d ∧ d ≠ 0) := fun h => hd (h.1 ▸ hr)
      rw [if_pos hr, if_neg hn, if_pos hr]
    · rw [if_neg hr, if_neg hr]
      by_cases e : r = d
      · subst e
        rw [if_pos ⟨rfl, hd⟩]
        exact Vector.getElem_set_self ..
      · have hn : ¬ (r = d ∧ d ≠ 0) := fun h => e h.1
        rw [if_neg hn]
        exact Vector.getElem_set_ne (hi := d.isLt) (h := fun he => e (BitVec.eq_of_toNat_eq he.symm)) ..

@[simp] theorem Hart.xr_retire (h : Hart) (r : Option (BitVec 5)) (a : BitVec 5) : (h.retire r).xr a = h.xr a := rfl
@[simp] theorem Hart.tagOf_retire (h : Hart) (r : Option (BitVec 5)) (a : BitVec 5) : (h.retire r).tagOf a = h.tagOf a := rfl
@[simp] theorem Hart.xr_raise (h : Hart) (fl : Flags) (a : BitVec 5) : (h.raise fl).xr a = h.xr a := rfl
@[simp] theorem Hart.tagOf_raise (h : Hart) (fl : Flags) (a : BitVec 5) : (h.raise fl).tagOf a = h.tagOf a := rfl

/-- A write of an x register touches the registers and their tags alone. -/
theorem Hart.setX_eq (h : Hart) (d : BitVec 5) (v : Word) (t : Option (BitVec 16)) :
    h.setX d v t = { h with x := (h.setX d v t).x, tag := (h.setX d v t).tag } := by
  by_cases hd : d = 0
  · rw [Hart.setX, if_pos hd]
  · rw [Hart.setX, if_neg hd]

/-- Everything that the completion of an instruction with one result does (R22, R32, R35, R114). -/
theorem State.writeBack_writesX (s : State) (d : BitVec 5) (v : Word) (t : Option (BitVec 16)) :
    WritesX d v t s (s.writeBack d v t) := by
  refine ⟨⟨⟨rfl, fun _ => rfl⟩, ?_, fun r hr => ?_⟩, ?_, ?_⟩
  · simp only [State.writeBack, State.setX, State.retire, State.mapHart, Hart.setX]
    split <;> rfl
  · constructor
    · rw [State.writeBack_hart, Hart.xr_retire, Hart.setX_xr, if_neg (by simp [hr])]
    · rw [State.writeBack_hart, Hart.tagOf_retire, Hart.setX_tagOf, if_neg (by simp [hr])]
  · unfold HoldsX
    split
    · simp
    · rename_i hd
      rw [State.writeBack_hart, Hart.xr_retire, Hart.tagOf_retire, Hart.setX_xr, Hart.setX_tagOf, if_pos ⟨rfl, hd⟩,
        if_pos ⟨rfl, hd⟩]
      exact ⟨rfl, rfl⟩
  · simp

/-- A completion without a result (R35). -/
theorem State.retire_onlyPc (s : State) : OnlyPc s (s.retire none) ∧ (s.retire none).hart.pc = s.hart.pc + 4 :=
  ⟨⟨⟨rfl, fun _ => rfl⟩, rfl⟩, rfl⟩

/-- An instruction that waits has done nothing. -/
theorem State.waitFor_waits (s : State) (w : Wait) : Waits w s (s.waitFor w) := rfl

end Sys2Proof.Machine
end

