-- ==== Sys2Proof/Laws/Traps.lean ====
section
/-! SUPPORT. What taking a trap does (R363, R365, R367), said once for every instruction that takes one. -/

namespace Sys2Proof.Machine

theorem padTo_length (n : Nat) (l : List Byte) : (padTo n l).length = n := by
  simp [padTo]; omega

theorem Crypto.leBytes_length (n v : Nat) : (Crypto.leBytes n v).length = n := by
  induction n generalizing v with
  | zero => rfl
  | succ n ih => simp [Crypto.leBytes, ih]

theorem flatMap_length_le {α β : Type} (f : α → List β) (k : Nat) (l : List α) (h : ∀ x ∈ l, (f x).length ≤ k) :
    (l.flatMap f).length ≤ l.length * k := by
  induction l with
  | nil => simp
  | cons a t ih =>
    have h1 := h a (List.mem_cons_self ..)
    have h2 := ih fun x hx => h x (List.mem_cons_of_mem _ hx)
    rw [List.flatMap_cons, List.length_append, List.length_cons, Nat.add_mul]
    omega

theorem Stream.csa_length (q : Stream) : q.csa.length = 32 := by
  unfold Stream.csa
  split <;> simp [Crypto.leBytes_length]

theorem Hart.csaHead_length (h : Hart) : h.csaHead.length = csaBodyAt := by
  simp only [Hart.csaHead, List.length_append, Crypto.leBytes_length, List.length_replicate, padTo_length, csaBodyAt]

theorem Hart.csaBody_length (h : Hart) : h.csaBody.length ≤ csaBodyLen := by
  have h1 := flatMap_length_le (fun i => Crypto.leBytes 8 (untaggedOr0 (h.operand (BitVec.ofNat 5 i)))) 8
    (List.range 32) fun _ _ => by simp [Crypto.leBytes_length]
  have h2 := flatMap_length_le Stream.csa 32 h.streams.toList fun _ _ => by simp [Stream.csa_length]
  simp only [Vector.length_toList, List.length_range] at h1 h2
  simp only [Hart.csaBody, List.length_append, padTo_length, csaBodyLen, List.flatMap_cons, List.flatMap_nil,
    Crypto.leBytes_length, List.length_nil]
  omega

theorem xorBytes_length (a b : List Byte) : (Crypto.xorBytes a b).length ≤ a.length := by
  simp [Crypto.xorBytes]

theorem State.csaSeal_length (s : State) (w : BitVec 10) (csa : Nat) (body : List Byte) :
    (s.csaSeal w csa body).length ≤ body.length := by
  unfold State.csaSeal
  split
  · exact Nat.le_refl _
  · split
    · exact Nat.le_refl _
    · exact xorBytes_length ..

/-- Saving a context writes the CSA and its line MACs, and VSTART, makes lines whole, drops from the queue what has
completed, and discards what the streams have fetched; nothing else. -/
theorem State.saveContext_eq (s : State) : ∃ v q b m c l,
    s.saveContext = { s with hart := { s.hart with vstart := v, queue := q, streams := b }, mem := m, macs := c, lost := l } :=
  ⟨_, _, _, _, _, _, rfl⟩

/-- No byte outside the 10,496 bytes of the CSA changes when a context is saved (R370). -/
theorem State.saveContext_get (s : State) (hm : Memory.wf s.mem = true) (a : Nat)
    (h : a < s.hart.csa.toNat ∨ s.hart.csa.toNat + contextBytes ≤ a) :
    Bytes.get s.saveContext.mem a = Bytes.get s.mem a := by
  refine Bytes.get_write_other hm _ _ ?_
  rcases h with h | h
  · exact .inl h
  · refine .inr (Nat.le_trans (Nat.add_le_add_left ?_ _) h)
    have h1 := s.hart.atStop.csaHead_length
    have h2 := Nat.le_trans (s.csaSeal_length s.hart.atStop.wid s.hart.atStop.csa.toNat s.hart.atStop.csaBody)
      s.hart.atStop.csaBody_length
    simp only [List.length_append, List.length_replicate, h1, csaBodyAt, csaBodyLen, contextBytes] at h2 ⊢
    omega

theorem State.saveContext_wf (s : State) (hm : Memory.wf s.mem = true) : Memory.wf s.saveContext.mem = true :=
  Bytes.write_wf _ _ hm

/-- With every store of the acting hart performed there is nothing to drain (R211). -/
theorem State.drainStores_eq (s : State) (ser : BitVec 16) (h : ∀ p ∈ s.stores, p.ctx.ser ≠ ser) : s.drainStores ser = s := by
  have h1 : s.stores.filter (PendingStore.of ser) = [] := by
    rw [List.filter_eq_nil_iff]
    intro p hp
    simpa [PendingStore.of] using h p hp
  have h2 : (s.stores.filter fun p => !p.of ser) = s.stores := by
    rw [List.filter_eq_self]
    intro p hp
    simpa [PendingStore.of] using h p hp
  unfold State.drainStores
  rw [h1, h2, List.foldl_nil]

/-- A hart that has settled has nothing to do before a stop (R216). -/
theorem State.settle_eq (s : State) (hs : Settled s) : s.settle = s := by
  obtain ⟨h0, h⟩ := hs
  have h1 : (s.packets.filter fun p => p.stream == .scalar s.hart.ser || p.stream == .vector s.hart.ser) = [] := by
    rw [List.filter_eq_nil_iff]
    intro p hp
    simpa using h p hp
  have h2 : (s.packets.filter fun p => !(p.stream == .scalar s.hart.ser || p.stream == .vector s.hart.ser)) = s.packets := by
    rw [List.filter_eq_self]
    intro p hp
    simpa using h p hp
  unfold State.settle
  rw [s.drainStores_eq _ h0]
  simp only
  rw [h1, h2, List.foldl_nil]

/-- A hart to which the host owes nothing does not wait for it. -/
theorem Hart.not_busy {h : Hart} (hb : h.hostBusy = false) : (h.atHost || h.queueAsks) = false := by
  simp only [Hart.hostBusy, Bool.or_eq_false_iff] at hb ⊢
  exact ⟨hb.1.1, hb.2⟩

/-- The PFXSTATE that a trap writes (R37). -/
theorem Hart.pfxNow_eq (h : Hart) : h.pfxNow = BitVec.ofNat 64 (prefixState h.loan h.half h.last) := by
  unfold Hart.pfxNow prefixState
  rcases h.loan with _ | l <;> rcases h.half with _ | _ <;> rcases h.last with _ | r <;> simp
  all_goals (rcases l.dc with _ | _ <;> simp)

/-- Everything that a trap into the handler does (R363). -/
theorem State.takeTrap_enters (s : State) (cause : Nat) (detail val : Word) (h : CanTrap s)
    (hv : s.hart.wid = 0 ∨ violation cause detail = false) :
    TrapsHere cause detail val s (s.takeTrap cause detail val) := by
  obtain ⟨hl, hhm, hb, hvec, hp⟩ := h
  have hq : (s.hart.wid != 0 && violation cause detail) = false := by
    rcases hv with hv | hv <;> simp [hv]
  have hvec' : ¬ s.hvec = 0 := hvec
  have e : s.takeTrap cause detail val = s.enterTrap cause detail val := by
    unfold State.takeTrap
    simp only [Hart.not_busy hb, Bool.false_eq_true, if_false, s.settle_eq hp, hl, hhm, ne_eq, not_true_eq_false, hq]
  have hg (hm : Memory.wf s.mem = true) (a : Nat) := s.saveContext_get hm a
  obtain ⟨v, q, b, m, c, l, hs⟩ := s.saveContext_eq
  rw [hs] at hg
  rw [e]
  unfold State.enterTrap
  rw [hs]
  generalize State.handlerCode _ = code
  refine (congrArg (TrapsHere cause detail val s) (if_neg hvec')).mpr ?_
  refine ⟨rfl, fun hm a ha => hg hm a ha, rfl, rfl, rfl, rfl, rfl, s.hart.pfxNow_eq, rfl, fun r => ?_, rfl, rfl, rfl, rfl,
    rfl, rfl, rfl, rfl, rfl, rfl, rfl, rfl, rfl, rfl, rfl, rfl, rfl⟩
  constructor
  · simp [Hart.xr, State.mapHart, Hart.enterHandler]
  · simp [Hart.tagOf, State.mapHart, Hart.enterHandler]

/-- The illegal-instruction trap. -/
theorem State.illegal_traps (s : State) (h : CanTrap s) : TrapsIllegal s s.illegal :=
  s.takeTrap_enters 1 0 _ h (.inr rfl)

/-- The privileged-instruction trap. -/
theorem State.privileged_traps (s : State) (detail : Word) (h : CanTrap s) :
    TrapsPrivileged detail s (s.privileged detail) :=
  s.takeTrap_enters 2 detail _ h (.inr rfl)

/-- A trap in handler mode saves no context: the trap registers are written, NEST is set, and the registers stay
(R365). -/
theorem State.takeTrap_nested (s : State) (cause : Nat) (detail val : Word) (hl : s.hart.life = .running)
    (hhm : s.hart.hm = true) (hb : s.hart.hostBusy = false) (hvec : s.hvec ≠ 0)
    (hp : Settled s) :
    s.takeTrap cause detail val =
      s.mapHart fun h => (h.trapRegs cause detail val).nestedTrap s.hvec := by
  unfold State.takeTrap
  simp only [Hart.not_busy hb, Bool.false_eq_true, if_false, s.settle_eq hp, hl, hhm, ne_eq, not_true_eq_false, if_true]
  exact if_neg hvec

/-- A tenant's access fault for bounds, rights, key, window or index ends in its quarantine (R361). -/
theorem State.takeTrap_violation (s : State) (cause : Nat) (detail val : Word) (hl : s.hart.life = .running)
    (hhm : s.hart.hm = false) (hb : s.hart.hostBusy = false) (hw : s.hart.wid ≠ 0)
    (hv : violation cause detail = true)
    (hp : Settled s) :
    s.takeTrap cause detail val = s.quarantine 5 detail := by
  have hw' : (s.hart.wid != 0) = true := by simpa using hw
  unfold State.takeTrap
  simp only [Hart.not_busy hb, Bool.false_eq_true, if_false, s.settle_eq hp, hl, hhm, ne_eq, not_true_eq_false, hw', hv,
    Bool.and_self, if_true]

end Sys2Proof.Machine
end

