-- ==== Sys2Proof/Laws/Memory.lean ====
section
/-! SUPPORT. Every operation that writes memory keeps its canonical form, and what each leaves of it. -/

namespace Sys2Proof.Machine

theorem State.reset_memOk : State.reset.memOk = true := rfl

/-- An operation that leaves memory as it is keeps its form. -/
theorem memOk_of_mem {s t : State} (h : t.mem = s.mem) (hs : s.memOk = true) : t.memOk = true := by
  unfold State.memOk at *; rw [h]; exact hs

/-- Either of two outcomes that have the form has it. -/
theorem memOk_ite {p : Prop} [Decidable p] {a b : State} (ha : a.memOk = true) (hb : b.memOk = true) :
    (if p then a else b).memOk = true := by
  split
  · exact ha
  · exact hb

/-- An operation folded over a list keeps the form when each of its steps does. -/
theorem memOk_foldl {α : Type} (f : State → α → State) (hf : ∀ s x, s.memOk = true → (f s x).memOk = true) (l : List α)
    (s : State) (hs : s.memOk = true) : (l.foldl f s).memOk = true := by
  induction l generalizing s with
  | nil => exact hs
  | cons x l ih => exact ih _ (hf s x hs)

theorem Bytes.keep_wf {m : Bytes} (n : Nat) (hm : Memory.wf m = true) : Memory.wf (Bytes.keep m n) = true :=
  Memory.wf_sublist (List.takeWhile_sublist _) hm

theorem State.mapHart_memOk (s : State) (f : Hart → Hart) (h : s.memOk = true) : (s.mapHart f).memOk = true := h
theorem State.updGang_memOk (s : State) (g : BitVec 32) (f : Gang → Gang) (h : s.memOk = true) :
    (s.updGang g f).memOk = true := h
theorem State.updWorld_memOk (s : State) (w : BitVec 10) (f : World → World) (h : s.memOk = true) :
    (s.updWorld w f).memOk = true := h
theorem State.emit_memOk (s : State) (o : Outbound) (h : s.memOk = true) : (s.emit o).memOk = true := h

theorem State.post_memOk (s : State) (c : Nat) (d v : Word) (h : s.memOk = true) : (s.post c d v).memOk = true :=
  memOk_of_mem (by simp) h

theorem State.report_memOk (s : State) (a b c d : Nat) (v : Word) (h : s.memOk = true) :
    (s.report a b c d v).memOk = true := s.post_memOk _ _ _ h

theorem State.focus_mem (s : State) (n : BitVec 16) : (s.focus n).mem = s.mem := by
  unfold State.focus; split
  · rfl
  · split <;> rfl

theorem State.focus_memOk (s : State) (n : BitVec 16) (h : s.memOk = true) : (s.focus n).memOk = true :=
  memOk_of_mem (s.focus_mem n) h

theorem State.rotate_memOk (s : State) (h : s.memOk = true) : s.rotate.memOk = true := by
  refine memOk_of_mem ?_ h
  unfold State.rotate; split <;> rfl

/-- What is done as another hart keeps the form when it does so. -/
theorem State.asHart_memOk (s : State) (n : BitVec 16) (f : State → State)
    (hf : ∀ t, t.memOk = true → (f t).memOk = true) (h : s.memOk = true) : (s.asHart n f).memOk = true := by
  unfold State.asHart; split
  · exact h
  · exact State.focus_memOk _ _ (hf _ (s.focus_memOk _ h))

theorem State.updHart_memOk (s : State) (n : BitVec 16) (f : Hart → Hart) (h : s.memOk = true) :
    (s.updHart n f).memOk = true := by
  refine memOk_of_mem ?_ h
  unfold State.updHart; split <;> rfl

theorem State.rawWrite_memOk (s : State) (a : Nat) (bs : List Byte) (h : s.memOk = true) :
    (s.rawWrite a bs).memOk = true := Bytes.write_wf _ _ h

/-- A plain write of the device changes the bytes written and their line MACs alone. -/
theorem State.rawWrite_get (s : State) (a : Nat) (bs : List Byte) (h : s.memOk = true) (x : Nat)
    (hx : x < a ∨ a + bs.length ≤ x) : Bytes.get (s.rawWrite a bs).mem x = Bytes.get s.mem x :=
  Bytes.get_write_other h a bs hx

theorem State.claim_memOk (s : State) (w : BitVec 10) (r : Nat) (h : s.memOk = true) : (s.claim w r).memOk = true := by
  unfold State.claim; split
  · exact h
  · exact Bytes.clear_wf _ _ h

theorem State.claimAll_memOk (s : State) (w : BitVec 10) (k n : Nat) (h : s.memOk = true) :
    (s.claimAll w k n).memOk = true := by
  unfold State.claimAll; split
  · exact h
  · exact memOk_foldl _ (fun t i ht => t.claim_memOk w _ ht) _ _ h

/-- A place outside the scratchpads needs no claim. -/
theorem State.claimAll_low (s : State) (w : BitVec 10) (k n : Nat) (h : k < 2 ^ 52) : s.claimAll w k n = s := if_pos h

theorem State.markDirty_mem (s : State) (l : Nat) (k w : BitVec 10) : (s.markDirty l k w).mem = s.mem := by
  unfold State.markDirty
  split
  · split <;> rfl
  · split <;> rfl
  · rfl

theorem State.putLine_memOk (s : State) (p : Nat) (bs : List Byte) (m : BitVec 32) (h : s.memOk = true) :
    (s.putLine p bs m).memOk = true := Bytes.write_wf _ _ h

/-- Marking a line dirty for a write leaves memory as it is. -/
theorem State.marked_mem (s : State) (w : MemWrite) (l : Nat) :
    (if w.cached then s.markDirty l w.keyid w.world else s).mem = s.mem := by
  split
  · exact s.markDirty_mem ..
  · rfl

/-- A write that is performed keeps the form. -/
theorem State.commit_memOk {s t : State} {w : MemWrite} (h : s.memOk = true) (e : s.commit w = some t) :
    t.memOk = true := by
  have hd (l : Nat) : (if w.cached then s.markDirty l w.keyid w.world else s).memOk = true :=
    memOk_of_mem (s.marked_mem w l) h
  unfold State.commit at e
  simp only at e
  split at e
  · cases e
  · split at e
    · cases e; exact State.putLine_memOk _ _ _ _ (hd _)
    · split at e
      · cases e
      · split at e
        · cases e; exact State.putLine_memOk _ _ _ _ (hd _)
        · cases e

/-- With KEYID 0 a write that is performed in a line that is not lost changes the bytes at its place, and those
alone. -/
theorem State.commit_plain (s : State) (w : MemWrite) (hk : w.keyid = 0) (h : s.memOk = true)
    (hl : s.lost.contains (s.forward w.key / 64 * 64) = false) :
    ∃ t, s.commit w = some t ∧
      (∀ x, x < s.forward w.key ∨ s.forward w.key + w.data.length ≤ x → Bytes.get t.mem x = Bytes.get s.mem x) ∧
      Bytes.read t.mem (s.forward w.key) w.data.length = w.data := by
  have hd := s.marked_mem w (s.forward w.key / 64 * 64)
  refine ⟨(if w.cached then s.markDirty (s.forward w.key / 64 * 64) w.keyid w.world else s).putLine (s.forward w.key)
    w.data 0, ?_, ?_, ?_⟩
  · unfold State.commit
    simp only
    rw [if_neg (by rw [hl, Bool.false_and]; exact Bool.false_ne_true), if_pos (by simp [hk])]
  · intro x hx
    show Bytes.get (Bytes.write _ _ _) x = _
    rw [hd]
    exact Bytes.get_write_other h _ _ hx
  · show Bytes.read (Bytes.write _ _ _) _ _ = _
    rw [hd]
    exact Bytes.read_write h _ _

theorem State.pump_mem (s : State) : s.pump.mem = s.mem := rfl

theorem State.sendPacket_mem (s : State) (st : FabricStream) (d : BitVec 8) (n : Nat) (w : MemWrite) :
    (s.sendPacket st d n w).mem = s.mem := by
  unfold State.sendPacket
  simp only
  split <;> rfl

theorem State.sendWrite_memOk {s t : State} {c : Ctx} {st : FabricStream} {w : MemWrite} (h : s.memOk = true)
    (e : s.sendWrite c st w = some t) : t.memOk = true := by
  unfold State.sendWrite at e
  split at e
  · cases e; exact memOk_of_mem (s.sendPacket_mem ..) h
  · cases e; exact memOk_of_mem (s.sendHost_mem ..) h
  · split at e
    · cases e; exact h
    · exact s.commit_memOk h e

/-- Writing bytes through a slot word keeps the form. -/
theorem State.writeBytes_memOk {s t : State} {c : Ctx} {st : FabricStream} {sw : SlotWord} {a : Nat} {bs : List Byte}
    (h : s.memOk = true) (e : s.writeBytes c st sw a bs = some t) : t.memOk = true := by
  unfold State.writeBytes at e
  have hc : ∀ u, (some (s.claimAll c.world (s.key c.core a) bs.length), bs).1 = some u → u.memOk = true := by
    intro u hu; cases hu; exact State.claimAll_memOk _ _ _ _ h
  generalize (some (s.claimAll c.world (s.key c.core a) bs.length), bs) = acc at e hc
  generalize linesOf a bs.length = l at e
  induction l generalizing acc with
  | nil => exact hc t e
  | cons p l ih =>
    rw [List.foldl_cons] at e
    refine ih _ ?_ e
    intro u hu
    rcases hacc : acc.1 with _ | v
    · simp [hacc] at hu
    · simp only [hacc] at hu
      exact State.sendWrite_memOk (hc v hacc) hu

/-! ### Quarantine, packets and traps -/

theorem State.writeRecord_memOk (s : State) (c : Nat) (d : Word) (h : s.memOk = true) :
    (s.writeRecord c d).memOk = true := by
  have key (t : State) (ht : t.memOk = true) (b : Bool) (a : Nat) (bs : List Byte) (w : BitVec 10) (f : World → World)
      (v : Word) : (if b = true then (t.rawWrite a bs).updWorld w f
        else ((t.rawWrite a bs).updWorld w f).post 0x8005 v 0).memOk = true := by
    have h1 := (t.rawWrite a bs).updWorld_memOk w f (t.rawWrite_memOk a bs ht)
    split
    · exact h1
    · exact State.post_memOk _ _ _ _ h1
  unfold State.writeRecord
  simp only
  split
  · exact h
  · split
    · exact State.post_memOk _ _ _ _ h
    · exact key _ (s.updWorld_memOk _ _ h) _ _ _ _ _ _

theorem State.finishGang_memOk (s : State) (g : BitVec 32) (h : s.memOk = true) : (s.finishGang g).memOk = true := by
  unfold State.finishGang
  split
  · exact h
  · simp only
    split
    · exact State.post_memOk _ _ _ _ h
    · exact h

/-- Quarantine keeps the form. -/
theorem State.quarantine_memOk (s : State) (c : Nat) (d : Word) (h : s.memOk = true) :
    (s.quarantine c d).memOk = true :=
  State.post_memOk _ _ _ _ (State.finishGang_memOk _ _ (s.writeRecord_memOk c d h))

theorem State.lineReport_memOk (s : State) (l : Nat) (h : s.memOk = true) : (s.lineReport l).memOk = true := by
  unfold State.lineReport
  split <;> exact State.report_memOk _ _ _ _ _ _ h

theorem State.lineLoss_memOk (s : State) (w : BitVec 10) (n : BitVec 16) (l : Nat) (h : s.memOk = true) :
    (s.lineLoss w n l).memOk = true := by
  have h0 := s.lineReport_memOk l h
  unfold State.lineLoss
  simp only
  split
  · exact State.updHart_memOk _ _ _ h0
  · exact State.asHart_memOk _ _ _ (fun t ht => t.quarantine_memOk _ _ ht) h0

theorem State.streamLoss_memOk (s : State) (st : FabricStream) (w : BitVec 10) (l : Nat) (h : s.memOk = true) :
    (s.streamLoss st w l).memOk = true := by
  unfold State.streamLoss
  split
  · exact s.lineLoss_memOk _ _ _ h
  · exact s.lineReport_memOk _ h

theorem State.commitFor_memOk (s : State) (st : FabricStream) (w : MemWrite) (h : s.memOk = true) :
    (s.commitFor st w).memOk = true := by
  unfold State.commitFor
  split
  · exact s.commit_memOk h ‹_›
  · exact s.streamLoss_memOk _ _ _ h

theorem State.arrive_memOk (s : State) (p : Packet) (h : s.memOk = true) : (s.arrive p).memOk = true :=
  memOk_foldl _ (fun t w ht => t.commitFor_memOk _ w ht) _ _ h

theorem State.flush_memOk (s : State) (st : FabricStream) (d : Nat) (h : s.memOk = true) :
    (s.flush st d).memOk = true :=
  memOk_foldl State.arrive (fun t p ht => t.arrive_memOk p ht) _ _ h

theorem State.beforeRead_memOk (s : State) (c : Ctx) (st : FabricStream) (a n : Nat) (h : s.memOk = true) :
    (s.beforeRead c st a n).memOk = true := by
  unfold State.beforeRead
  simp only
  split
  · exact State.flush_memOk _ _ _ (s.claimAll_memOk _ _ _ h)
  · exact s.claimAll_memOk _ _ _ h

/-! ### The device window and pending stores -/

theorem State.countLine_memOk (s : State) (l : Nat) (h : s.memOk = true) : (s.countLine l).memOk = true := by
  unfold State.countLine
  split
  · exact memOk_ite (State.post_memOk _ _ _ _ h) h
  · exact h

theorem State.countHeld_memOk (s : State) (w : MemWrite) (h : s.memOk = true) : (s.countHeld w).memOk = true := by
  unfold State.countHeld
  split
  · exact h
  · exact s.countLine_memOk _ h

theorem State.countAccess_memOk (s : State) (sw : SlotWord) (a n : Nat) (h : s.memOk = true) :
    (s.countAccess sw a n).memOk = true := by
  unfold State.countAccess
  split
  · exact h
  · exact memOk_foldl _ (fun t _ ht => t.countLine_memOk _ ht) _ _ h

theorem State.countWrite_memOk (s : State) (c : Ctx) (sw : SlotWord) (a n : Nat) (h : s.memOk = true) :
    (s.countWrite c sw a n).memOk = true := by
  unfold State.countWrite
  split
  · exact h
  · exact s.countAccess_memOk _ _ _ h

theorem State.performAmo_memOk {s t : State} {w : MemWrite} {f : Nat → Option Nat} {m : Nat} (h : s.memOk = true)
    (e : s.performAmo w f = some (m, t)) : t.memOk = true := by
  unfold State.performAmo at e
  split at e
  · cases e
  · simp only at e
    split at e
    · cases e; exact h
    · rw [Option.map_eq_some_iff] at e
      obtain ⟨u, hu, he⟩ := e
      cases he
      exact State.commit_memOk h hu

theorem State.owe_memOk (s : State) (id : AmoId) (bs : List Byte) (h : s.memOk = true) : (s.owe id bs).memOk = true := by
  unfold State.owe
  split <;> exact h

theorem State.applyOne_memOk (s : State) (x : HeldWrite) (h : s.memOk = true) : (s.applyOne x).memOk = true := by
  have h0 := s.countHeld_memOk x.wr h
  unfold State.applyOne
  simp only
  split
  · exact State.commitFor_memOk _ _ _ h0
  · split
    · exact State.streamLoss_memOk _ _ _ _ h0
    · split
      · rename_i m u hp x id hid
        exact u.owe_memOk _ _ (State.performAmo_memOk h0 hp)
      · exact State.performAmo_memOk h0 ‹_›

/-- Applying what an entry has held keeps the form. -/
theorem State.applyHeld_memOk (s : State) (e : Nat) (h : s.memOk = true) : (s.applyHeld e).memOk = true :=
  memOk_foldl State.applyOne (fun t x ht => t.applyOne_memOk x ht) _ _ h

theorem State.setMode_memOk (s : State) (e : Nat) (m : BitVec 2) (h : s.memOk = true) : (s.setMode e m).memOk = true := by
  unfold State.setMode
  split
  · simp only
    split
    · split <;> exact h
    · split
      · exact State.applyHeld_memOk _ _ h
      · split <;> exact h
  · exact h

theorem State.writeFwd_memOk (s : State) (o : Nat) (v : Word) (h : s.memOk = true) : (s.writeFwd o v).memOk = true := by
  unfold State.writeFwd
  simp only
  split
  · split
    · split <;> exact h
    · split <;> exact h
    · split <;> exact h
    · exact s.setMode_memOk _ _ h
  · exact h

theorem State.writeCtl_memOk (s : State) (n : BitVec 16) (v : Word) (h : s.memOk = true) : (s.writeCtl n v).memOk = true := by
  unfold State.writeCtl
  split
  · exact s.updHart_memOk _ _ h
  · exact s.updHart_memOk _ _ h
  · exact h

theorem State.setExtent_memOk (s : State) (i : Nat) (f : Extent → Extent) (h : s.memOk = true) :
    (s.setExtent i f).memOk = true := by
  unfold State.setExtent
  split <;> exact h

theorem State.startRelease_memOk (s : State) (i : Nat) (h : s.memOk = true) : (s.startRelease i).memOk = true :=
  State.report_memOk _ _ _ _ _ _ (s.setExtent_memOk _ _ h)

theorem State.writeExtentState_memOk (s : State) (i : Nat) (v : BitVec 3) (h : s.memOk = true) :
    (s.writeExtentState i v).memOk = true := by
  unfold State.writeExtentState
  simp only
  split
  · split
    · exact h
    · exact s.setExtent_memOk _ _ h
  · split
    · exact s.setExtent_memOk _ _ h
    · split
      · exact s.startRelease_memOk _ h
      · split
        · exact s.setExtent_memOk _ _ h
        · exact h

theorem State.writeExtent_memOk (s : State) (o : Nat) (v : Word) (h : s.memOk = true) : (s.writeExtent o v).memOk = true := by
  unfold State.writeExtent
  simp only
  split
  · split
    · exact s.setExtent_memOk _ _ h
    · exact h
  · split
    · exact s.setExtent_memOk _ _ h
    · exact h
  · exact s.writeExtentState_memOk _ _ h

/-- A write of the device window keeps the form: it writes memory only where it lets held writes go on. -/
theorem State.writeWindow_memOk (s : State) (o : Nat) (v : Word) (h : s.memOk = true) : (s.writeWindow o v).memOk = true := by
  unfold State.writeWindow
  refine memOk_ite h (memOk_ite ?_ (memOk_ite (s.writeFwd_memOk _ _ h) (memOk_ite ?_ (memOk_ite
    (memOk_ite (s.writeCtl_memOk _ _ h) h) (memOk_ite h (memOk_ite ?_ (memOk_ite (s.writeExtent_memOk _ _ h) h)))))))
  · show State.memOk (dite _ _ _) = true
    split <;> exact h
  · exact memOk_ite h h
  · exact memOk_ite h h

theorem State.performStore_memOk (s : State) (p : PendingStore) (h : s.memOk = true) : (s.performStore p).memOk = true := by
  have h0 := s.countWrite_memOk p.ctx p.word p.addr p.data.length h
  unfold State.performStore
  split
  · exact s.writeWindow_memOk _ _ h
  · simp only
    split
    · exact State.lineLoss_memOk _ _ _ _ h0
    · exact State.writeBytes_memOk h0 ‹_›

/-- Performing the pending stores of a hart keeps the form. -/
theorem State.drainStores_memOk (s : State) (n : BitVec 16) (h : s.memOk = true) : (s.drainStores n).memOk = true :=
  memOk_foldl State.performStore (fun t p ht => t.performStore_memOk p ht) _ _ h

theorem State.settle_memOk (s : State) (h : s.memOk = true) : s.settle.memOk = true :=
  memOk_foldl State.arrive (fun t p ht => t.arrive_memOk p ht) _ _ (s.drainStores_memOk _ h)

/-! ### Traps -/

theorem State.enterTrap_memOk (s : State) (c : Nat) (d v : Word) (h : s.memOk = true) :
    (s.enterTrap c d v).memOk = true := by
  have h0 := s.saveContext_wf h
  obtain ⟨x, q, b, m, k, l, e⟩ := s.saveContext_eq
  unfold State.enterTrap
  rw [e] at h0 ⊢
  simp only
  split
  · split
    · exact h0
    · exact State.quarantine_memOk _ _ _ h0
  · exact h0

/-- Taking a trap keeps the form, whatever it leads to. -/
theorem State.takeTrap_memOk (s : State) (c : Nat) (d v : Word) (h : s.memOk = true) : (s.takeTrap c d v).memOk = true := by
  have h0 : (if (s.hart.atHost || s.hart.queueAsks) = true then s else s.settle).memOk = true := by
    split
    · exact h
    · exact s.settle_memOk h
  unfold State.takeTrap
  simp only
  generalize (if (s.hart.atHost || s.hart.queueAsks) = true then s else s.settle) = t at h0
  split
  · split <;> exact h0
  · split
    · exact h0
    · split
      · split
        · exact State.quarantine_memOk _ _ _ h0
        · exact h0
      · split
        · exact State.quarantine_memOk _ _ _ h0
        · exact State.enterTrap_memOk _ _ _ _ h0

theorem State.illegal_memOk (s : State) (h : s.memOk = true) : s.illegal.memOk = true := s.takeTrap_memOk _ _ _ h
theorem State.privileged_memOk (s : State) (d : Word) (h : s.memOk = true) : (s.privileged d).memOk = true :=
  s.takeTrap_memOk _ _ _ h
theorem State.faultAt_memOk (s : State) (d e a : Nat) (h : s.memOk = true) : (s.faultAt d e a).memOk = true :=
  s.takeTrap_memOk _ _ _ h
theorem State.malformed_memOk (s : State) (r a : Nat) (h : s.memOk = true) : (s.malformed r a).memOk = true :=
  s.takeTrap_memOk _ _ _ h

theorem State.lineFault_memOk (s : State) (e a l : Nat) (h : s.memOk = true) : (s.lineFault e a l).memOk = true := by
  unfold State.lineFault
  simp only
  split
  · exact State.faultAt_memOk _ _ _ _ (s.lineReport_memOk l h)
  · exact State.quarantine_memOk _ _ _ (s.lineReport_memOk l h)

theorem State.accessFault_memOk (s : State) (d e a : Nat) (h : s.memOk = true) : (s.accessFault d e a).memOk = true := by
  unfold State.accessFault
  split
  · exact s.faultAt_memOk _ _ _ h
  · exact s.lineFault_memOk _ _ _ h

theorem State.ifWorld0_memOk (s : State) (f : State → State) (hf : (f s).memOk = true) (h : s.memOk = true) :
    (s.ifWorld0 f).memOk = true := by
  unfold State.ifWorld0
  split
  · exact hf
  · exact s.privileged_memOk _ h

theorem State.bringLanes_mem {s t : State} (e : s.bringLanes = .ok t) : t.mem = s.mem := by
  unfold State.bringLanes at e
  simp only at e
  split at e
  · cases e; rfl
  · split at e
    · cases e; rfl
    · cases e

theorem State.withLanes_memOk (s : State) (f : State → State) (hf : ∀ t, t.memOk = true → (f t).memOk = true)
    (h : s.memOk = true) : (s.withLanes f).memOk = true := by
  unfold State.withLanes
  split
  · exact hf _ (memOk_of_mem (State.bringLanes_mem ‹_›) h)
  · exact s.takeTrap_memOk _ _ _ h

theorem State.afterLoad_memOk (s : State) (h : s.memOk = true) : s.afterLoad.memOk = true := by
  unfold State.afterLoad
  split
  · exact memOk_of_mem (State.bringLanes_mem ‹_›) h
  · exact s.takeTrap_memOk _ _ _ h

theorem State.csaLoss_memOk (s : State) (l : Nat) (h : s.memOk = true) : (s.csaLoss l).memOk = true :=
  State.quarantine_memOk _ _ _ (s.lineReport_memOk l h)

/-- Returning from a trap keeps the form. -/
theorem State.returnFromTrap_memOk (s : State) (h : s.memOk = true) : s.returnFromTrap.memOk = true := by
  unfold State.returnFromTrap
  simp only
  split
  · exact s.illegal_memOk h
  · split
    · exact h
    · split
      · exact s.csaLoss_memOk _ h
      · exact memOk_ite h (State.afterLoad_memOk _ h)

theorem State.switchOff_memOk (s : State) (l : Life) (h : s.memOk = true) : (s.switchOff l).memOk = true := by
  have h0 := s.settle_memOk h
  unfold State.switchOff
  generalize s.settle = t at h0
  simp only
  split
  · exact h0
  · exact t.saveContext_wf h0

theorem State.loadContext_memOk (s : State) (a : Nat) (h : s.memOk = true) : (s.loadContext a).memOk = true := by
  refine memOk_of_mem ?_ h
  unfold State.loadContext
  split
  rfl

theorem State.keepOwed_memOk (s : State) (h : s.memOk = true) : s.keepOwed.memOk = true := h

theorem State.switchOn_memOk (s : State) (h : s.memOk = true) : s.switchOn.memOk = true := by
  have h0 (f : Hart → Hart) : (State.keepOwed ((s.loadContext s.hart.csa.toNat).mapHart f)).memOk = true :=
    State.keepOwed_memOk _ (State.mapHart_memOk _ f (s.loadContext_memOk s.hart.csa.toNat h))
  unfold State.switchOn
  simp only
  split
  · exact State.csaLoss_memOk _ _ h
  · have h1 := h0 fun g => ({ g with life := .running } : Hart).applySets
    generalize State.keepOwed _ = t at h1 ⊢
    split
    · exact State.illegal_memOk _ (State.mapHart_memOk _ _ h1)
    · exact State.afterLoad_memOk _ (State.mapHart_memOk _ _ h1)

/-- Trimming the slices, as every step begins, leaves memory as it is. -/
theorem State.trimSlices_memOk (s : State) (h : s.memOk = true) : s.trimSlices.memOk = true := by
  unfold State.trimSlices
  split
  · exact h
  · exact memOk_foldl _ (fun t d ht => t.countLine_memOk _ ht) _ _ h

/-- With few dirty lines a step begins with the tick alone. -/
theorem State.begin_eq (s : State) (h : s.dirty.length ≤ sliceLines) : s.begin = { s with tick := s.tick + 1 } :=
  if_pos h

theorem State.begin_memOk (s : State) (h : s.memOk = true) : s.begin.memOk = true := State.trimSlices_memOk _ h

/-- Placing a word for the next fetch keeps the form. -/
theorem placeWord_memOk (s : State) (w : Nat) (h : s.memOk = true) : (placeWord s w).memOk = true :=
  Bytes.write_wf _ _ (Bytes.write_wf _ _ h)

end Sys2Proof.Machine
end

