-- ==== Sys2Proof/Laws/PerInstr.lean ====
section
/-! SUPPORT. Statements made once per instruction: the word of an instruction fits 32 bits, so that none of its fields
is lost. -/

namespace Sys2Proof.Laws.WordFits

/-- The word of the instruction, where it has one, is a number below 2^32. -/
def Statement (i : Instr) : Prop := ∀ n, encodeNat i = some n → n < 2 ^ 32

theorem fits_A {op : Nat} (d : BitVec 5) (a : BitVec 5) (b : BitVec 5) {fn : Nat} (h0 : op < 64) (h1 : fn < 2048) :
    encA op d a b fn < 2 ^ 32 := by
  unfold encA; omega

theorem fits_I {op : Nat} (d : BitVec 5) (a : BitVec 5) (i : BitVec 16) (h0 : op < 64) :
    encI op d a i < 2 ^ 32 := by
  unfold encI; omega

theorem fits_U {op : Nat} (d : BitVec 5) (i : BitVec 21) (h0 : op < 64) :
    encU op d i < 2 ^ 32 := by
  unfold encU; omega

theorem fits_B {op : Nat} (a : BitVec 5) (b : BitVec 5) (o : BitVec 16) (h0 : op < 64) :
    encB op a b o < 2 ^ 32 := by
  unfold encB; omega

theorem fits_J {op : Nat} (o : BitVec 26) (h0 : op < 64) :
    encJ op o < 2 ^ 32 := by
  unfold encJ; omega

theorem fits_V {op : Nat} (c : BitVec 1) (m : BitVec 1) (d : BitVec 5) (a : BitVec 5) (b : BitVec 5) {fn : Nat} (h0 : op < 64) (h1 : fn < 512) :
    encV op c m d a b fn < 2 ^ 32 := by
  unfold encV; omega

theorem fits_W {op : Nat} (c : BitVec 1) (m : BitVec 1) (v : BitVec 5) (x : BitVec 5) (s : BitVec 5) (p : BitVec 2) {fn : Nat} (h0 : op < 64) (h1 : fn < 128) :
    encW op c m v x s p fn < 2 ^ 32 := by
  unfold encW; omega

theorem fits_M {op : Nat} (c : BitVec 1) (m : BitVec 1) (t : BitVec 3) (a : BitVec 5) (b : BitVec 5) {fn : Nat} (h0 : op < 64) (h1 : fn < 2048) :
    encM op c m t a b fn < 2 ^ 32 := by
  unfold encM; omega

theorem fits_Q {op : Nat} (q : BitVec 3) (a : BitVec 5) (b : BitVec 5) (k : BitVec 4) {fn : Nat} (h0 : op < 64) (h1 : fn < 512) :
    encQ op q a b k fn < 2 ^ 32 := by
  unfold encQ; omega

theorem fits_S {op : Nat} {fn : Nat} (d : BitVec 5) (a : BitVec 5) (n : BitVec 6) (h0 : op < 64) (h1 : fn < 1024) :
    encS op fn d a n < 2 ^ 32 := by
  unfold encS; omega

theorem fits_P {op : Nat} (k : BitVec 4) (dc : BitVec 1) (v : BitVec 5) (z : BitVec 16) (h0 : op < 64) :
    encP op k dc v z < 2 ^ 32 := by
  unfold encP; omega

theorem isNone {i : Instr} (h : encodeNat i = none) : Statement i := fun _ g => by rw [h] at g; cases g

theorem isWord {i : Instr} {w : Nat} (h : encodeNat i = some w) (g : w < 2 ^ 32) : Statement i := fun n k => by
  rw [h] at k; cases k; exact g

theorem add (d a b : BitVec 5) : Statement (.add d a b) := isWord rfl (fits_A _ _ _ (by decide) (by decide))
theorem sub (d a b : BitVec 5) : Statement (.sub d a b) := isWord rfl (fits_A _ _ _ (by decide) (by decide))
theorem and (d a b : BitVec 5) : Statement (.and d a b) := isWord rfl (fits_A _ _ _ (by decide) (by decide))
theorem or (d a b : BitVec 5) : Statement (.or d a b) := isWord rfl (fits_A _ _ _ (by decide) (by decide))
theorem xor (d a b : BitVec 5) : Statement (.xor d a b) := isWord rfl (fits_A _ _ _ (by decide) (by decide))
theorem sll (d a b : BitVec 5) : Statement (.sll d a b) := isWord rfl (fits_A _ _ _ (by decide) (by decide))
theorem srl (d a b : BitVec 5) : Statement (.srl d a b) := isWord rfl (fits_A _ _ _ (by decide) (by decide))
theorem sra (d a b : BitVec 5) : Statement (.sra d a b) := isWord rfl (fits_A _ _ _ (by decide) (by decide))
theorem slt (d a b : BitVec 5) : Statement (.slt d a b) := isWord rfl (fits_A _ _ _ (by decide) (by decide))
theorem sltu (d a b : BitVec 5) : Statement (.sltu d a b) := isWord rfl (fits_A _ _ _ (by decide) (by decide))
theorem min (d a b : BitVec 5) : Statement (.min d a b) := isWord rfl (fits_A _ _ _ (by decide) (by decide))
theorem max (d a b : BitVec 5) : Statement (.max d a b) := isWord rfl (fits_A _ _ _ (by decide) (by decide))
theorem mul (d a b : BitVec 5) : Statement (.mul d a b) := isWord rfl (fits_A _ _ _ (by decide) (by decide))
theorem mulh (d a b : BitVec 5) : Statement (.mulh d a b) := isWord rfl (fits_A _ _ _ (by decide) (by decide))
theorem mulhu (d a b : BitVec 5) : Statement (.mulhu d a b) := isWord rfl (fits_A _ _ _ (by decide) (by decide))
theorem div (d a b : BitVec 5) : Statement (.div d a b) := isWord rfl (fits_A _ _ _ (by decide) (by decide))
theorem divu (d a b : BitVec 5) : Statement (.divu d a b) := isWord rfl (fits_A _ _ _ (by decide) (by decide))
theorem rem (d a b : BitVec 5) : Statement (.rem d a b) := isWord rfl (fits_A _ _ _ (by decide) (by decide))
theorem remu (d a b : BitVec 5) : Statement (.remu d a b) := isWord rfl (fits_A _ _ _ (by decide) (by decide))
theorem clz (d a : BitVec 5) : Statement (.clz d a) := isWord rfl (fits_A _ _ _ (by decide) (by decide))
theorem ctz (d a : BitVec 5) : Statement (.ctz d a) := isWord rfl (fits_A _ _ _ (by decide) (by decide))
theorem popc (d a : BitVec 5) : Statement (.popc d a) := isWord rfl (fits_A _ _ _ (by decide) (by decide))
theorem sextb (d a : BitVec 5) : Statement (.sextb d a) := isWord rfl (fits_A _ _ _ (by decide) (by decide))
theorem sexth (d a : BitVec 5) : Statement (.sexth d a) := isWord rfl (fits_A _ _ _ (by decide) (by decide))
theorem sextw (d a : BitVec 5) : Statement (.sextw d a) := isWord rfl (fits_A _ _ _ (by decide) (by decide))
theorem zexth (d a : BitVec 5) : Statement (.zexth d a) := isWord rfl (fits_A _ _ _ (by decide) (by decide))
theorem zextw (d a : BitVec 5) : Statement (.zextw d a) := isWord rfl (fits_A _ _ _ (by decide) (by decide))
theorem faddd (d a b : BitVec 5) : Statement (.faddd d a b) := isWord rfl (fits_A _ _ _ (by decide) (by decide))
theorem fsubd (d a b : BitVec 5) : Statement (.fsubd d a b) := isWord rfl (fits_A _ _ _ (by decide) (by decide))
theorem fmuld (d a b : BitVec 5) : Statement (.fmuld d a b) := isWord rfl (fits_A _ _ _ (by decide) (by decide))
theorem fdivd (d a b : BitVec 5) : Statement (.fdivd d a b) := isWord rfl (fits_A _ _ _ (by decide) (by decide))
theorem fsqrtd (d a : BitVec 5) : Statement (.fsqrtd d a) := isWord rfl (fits_A _ _ _ (by decide) (by decide))
theorem fmad (d a b : BitVec 5) : Statement (.fmad d a b) := isWord rfl (fits_A _ _ _ (by decide) (by decide))
theorem fmind (d a b : BitVec 5) : Statement (.fmind d a b) := isWord rfl (fits_A _ _ _ (by decide) (by decide))
theorem fmaxd (d a b : BitVec 5) : Statement (.fmaxd d a b) := isWord rfl (fits_A _ _ _ (by decide) (by decide))
theorem feqd (d a b : BitVec 5) : Statement (.feqd d a b) := isWord rfl (fits_A _ _ _ (by decide) (by decide))
theorem fltd (d a b : BitVec 5) : Statement (.fltd d a b) := isWord rfl (fits_A _ _ _ (by decide) (by decide))
theorem fled (d a b : BitVec 5) : Statement (.fled d a b) := isWord rfl (fits_A _ _ _ (by decide) (by decide))
theorem fadds (d a b : BitVec 5) : Statement (.fadds d a b) := isWord rfl (fits_A _ _ _ (by decide) (by decide))
theorem fmuls (d a b : BitVec 5) : Statement (.fmuls d a b) := isWord rfl (fits_A _ _ _ (by decide) (by decide))
theorem fmas (d a b : BitVec 5) : Statement (.fmas d a b) := isWord rfl (fits_A _ _ _ (by decide) (by decide))
theorem fcvtsd (d a : BitVec 5) : Statement (.fcvtsd d a) := isWord rfl (fits_A _ _ _ (by decide) (by decide))
theorem fcvtds (d a : BitVec 5) : Statement (.fcvtds d a) := isWord rfl (fits_A _ _ _ (by decide) (by decide))
theorem fcvtld (d a : BitVec 5) : Statement (.fcvtld d a) := isWord rfl (fits_A _ _ _ (by decide) (by decide))
theorem fcvtdl (d a : BitVec 5) : Statement (.fcvtdl d a) := isWord rfl (fits_A _ _ _ (by decide) (by decide))
theorem amoadd (d a b : BitVec 5) (s : BitVec 3) : Statement (.amoadd d a b s) :=
  isWord rfl (fits_A _ _ _ (by decide) (by omega))
theorem amomin (d a b : BitVec 5) (s : BitVec 3) : Statement (.amomin d a b s) :=
  isWord rfl (fits_A _ _ _ (by decide) (by omega))
theorem amomax (d a b : BitVec 5) (s : BitVec 3) : Statement (.amomax d a b s) :=
  isWord rfl (fits_A _ _ _ (by decide) (by omega))
theorem amoand (d a b : BitVec 5) (s : BitVec 3) : Statement (.amoand d a b s) :=
  isWord rfl (fits_A _ _ _ (by decide) (by omega))
theorem amoor (d a b : BitVec 5) (s : BitVec 3) : Statement (.amoor d a b s) :=
  isWord rfl (fits_A _ _ _ (by decide) (by omega))
theorem amoxor (d a b : BitVec 5) (s : BitVec 3) : Statement (.amoxor d a b s) :=
  isWord rfl (fits_A _ _ _ (by decide) (by omega))
theorem amoswap (d a b : BitVec 5) (s : BitVec 3) : Statement (.amoswap d a b s) :=
  isWord rfl (fits_A _ _ _ (by decide) (by omega))
theorem amocas (d a b : BitVec 5) (s : BitVec 3) : Statement (.amocas d a b s) :=
  isWord rfl (fits_A _ _ _ (by decide) (by omega))
theorem addi (d a : BitVec 5) (i : BitVec 16) : Statement (.addi d a i) := isWord rfl (fits_I _ _ _ (by decide))
theorem andi (d a : BitVec 5) (i : BitVec 16) : Statement (.andi d a i) := isWord rfl (fits_I _ _ _ (by decide))
theorem ori (d a : BitVec 5) (i : BitVec 16) : Statement (.ori d a i) := isWord rfl (fits_I _ _ _ (by decide))
theorem slli (d a : BitVec 5) (s : BitVec 6) : Statement (.slli d a s) := isWord rfl (fits_I _ _ _ (by decide))
theorem srli (d a : BitVec 5) (s : BitVec 6) : Statement (.srli d a s) := isWord rfl (fits_I _ _ _ (by decide))
theorem srai (d a : BitVec 5) (s : BitVec 6) : Statement (.srai d a s) := isWord rfl (fits_I _ _ _ (by decide))
theorem jalr (d a : BitVec 5) (i : BitVec 16) : Statement (.jalr d a i) := isWord rfl (fits_I _ _ _ (by decide))
theorem lb (d a : BitVec 5) (i : BitVec 16) : Statement (.lb d a i) := isWord rfl (fits_I _ _ _ (by decide))
theorem lbu (d a : BitVec 5) (i : BitVec 16) : Statement (.lbu d a i) := isWord rfl (fits_I _ _ _ (by decide))
theorem lh (d a : BitVec 5) (i : BitVec 16) : Statement (.lh d a i) := isWord rfl (fits_I _ _ _ (by decide))
theorem lhu (d a : BitVec 5) (i : BitVec 16) : Statement (.lhu d a i) := isWord rfl (fits_I _ _ _ (by decide))
theorem lw (d a : BitVec 5) (i : BitVec 16) : Statement (.lw d a i) := isWord rfl (fits_I _ _ _ (by decide))
theorem lwu (d a : BitVec 5) (i : BitVec 16) : Statement (.lwu d a i) := isWord rfl (fits_I _ _ _ (by decide))
theorem ld (d a : BitVec 5) (i : BitVec 16) : Statement (.ld d a i) := isWord rfl (fits_I _ _ _ (by decide))
theorem sb (d a : BitVec 5) (i : BitVec 16) : Statement (.sb d a i) := isWord rfl (fits_I _ _ _ (by decide))
theorem sh (d a : BitVec 5) (i : BitVec 16) : Statement (.sh d a i) := isWord rfl (fits_I _ _ _ (by decide))
theorem sw (d a : BitVec 5) (i : BitVec 16) : Statement (.sw d a i) := isWord rfl (fits_I _ _ _ (by decide))
theorem sd (d a : BitVec 5) (i : BitVec 16) : Statement (.sd d a i) := isWord rfl (fits_I _ _ _ (by decide))
theorem lui (d : BitVec 5) (i : BitVec 21) : Statement (.lui d i) := isWord rfl (fits_U _ _ (by decide))
theorem auipc (d : BitVec 5) (i : BitVec 21) : Statement (.auipc d i) := isWord rfl (fits_U _ _ (by decide))
theorem beq (a b : BitVec 5) (o : BitVec 16) : Statement (.beq a b o) := isWord rfl (fits_B _ _ _ (by decide))
theorem bne (a b : BitVec 5) (o : BitVec 16) : Statement (.bne a b o) := isWord rfl (fits_B _ _ _ (by decide))
theorem blt (a b : BitVec 5) (o : BitVec 16) : Statement (.blt a b o) := isWord rfl (fits_B _ _ _ (by decide))
theorem bge (a b : BitVec 5) (o : BitVec 16) : Statement (.bge a b o) := isWord rfl (fits_B _ _ _ (by decide))
theorem bltu (a b : BitVec 5) (o : BitVec 16) : Statement (.bltu a b o) := isWord rfl (fits_B _ _ _ (by decide))
theorem bgeu (a b : BitVec 5) (o : BitVec 16) : Statement (.bgeu a b o) := isWord rfl (fits_B _ _ _ (by decide))
theorem bcnt (a : BitVec 5) (o : BitVec 16) : Statement (.bcnt a o) := isWord rfl (fits_B _ _ _ (by decide))
theorem j (o : BitVec 26) : Statement (.j o) := isWord rfl (fits_J _ (by decide))
theorem jal (o : BitVec 26) : Statement (.jal o) := isWord rfl (fits_J _ (by decide))
theorem stir (k : BitVec 4) : Statement (.stir k) := isWord rfl (fits_P _ _ _ _ (by decide))
theorem stirCopy (k : BitVec 4) (v : BitVec 5) : Statement (.stirCopy k v) := isWord rfl (fits_P _ _ _ _ (by decide))
theorem cmov (d : BitVec 5) : Statement (.cmov d) := isNone rfl
theorem caddi (d : BitVec 5) (e : BitVec 3) : Statement (.caddi d e) := isNone rfl
theorem csubi (d : BitVec 5) (e : BitVec 3) : Statement (.csubi d e) := isNone rfl
theorem cslli (d : BitVec 5) (e : BitVec 3) : Statement (.cslli d e) := isNone rfl
theorem csrli (d : BitVec 5) (e : BitVec 3) : Statement (.csrli d e) := isNone rfl
theorem csrai (d : BitVec 5) (e : BitVec 3) : Statement (.csrai d e) := isNone rfl
theorem candi (d : BitVec 5) (e : BitVec 3) : Statement (.candi d e) := isNone rfl
theorem cadd (d : BitVec 5) (e : BitVec 3) : Statement (.cadd d e) := isNone rfl
theorem csub (d : BitVec 5) (e : BitVec 3) : Statement (.csub d e) := isNone rfl
theorem cand (d : BitVec 5) (e : BitVec 3) : Statement (.cand d e) := isNone rfl
theorem cor (d : BitVec 5) (e : BitVec 3) : Statement (.cor d e) := isNone rfl
theorem cxor (d : BitVec 5) (e : BitVec 3) : Statement (.cxor d e) := isNone rfl
theorem vadd (c m : BitVec 1) (d a b : BitVec 5) : Statement (.vadd c m d a b) :=
  isWord rfl (fits_V _ _ _ _ _ (by decide) (by decide))
theorem vsub (c m : BitVec 1) (d a b : BitVec 5) : Statement (.vsub c m d a b) :=
  isWord rfl (fits_V _ _ _ _ _ (by decide) (by decide))
theorem vmul (c m : BitVec 1) (d a b : BitVec 5) : Statement (.vmul c m d a b) :=
  isWord rfl (fits_V _ _ _ _ _ (by decide) (by decide))
theorem vmulh (c m : BitVec 1) (d a b : BitVec 5) : Statement (.vmulh c m d a b) :=
  isWord rfl (fits_V _ _ _ _ _ (by decide) (by decide))
theorem vmin (c m : BitVec 1) (d a b : BitVec 5) : Statement (.vmin c m d a b) :=
  isWord rfl (fits_V _ _ _ _ _ (by decide) (by decide))
theorem vmax (c m : BitVec 1) (d a b : BitVec 5) : Statement (.vmax c m d a b) :=
  isWord rfl (fits_V _ _ _ _ _ (by decide) (by decide))
theorem vand (c m : BitVec 1) (d a b : BitVec 5) : Statement (.vand c m d a b) :=
  isWord rfl (fits_V _ _ _ _ _ (by decide) (by decide))
theorem vor (c m : BitVec 1) (d a b : BitVec 5) : Statement (.vor c m d a b) :=
  isWord rfl (fits_V _ _ _ _ _ (by decide) (by decide))
theorem vxor (c m : BitVec 1) (d a b : BitVec 5) : Statement (.vxor c m d a b) :=
  isWord rfl (fits_V _ _ _ _ _ (by decide) (by decide))
theorem vsadd (c m : BitVec 1) (d a b : BitVec 5) : Statement (.vsadd c m d a b) :=
  isWord rfl (fits_V _ _ _ _ _ (by decide) (by decide))
theorem vssub (c m : BitVec 1) (d a b : BitVec 5) : Statement (.vssub c m d a b) :=
  isWord rfl (fits_V _ _ _ _ _ (by decide) (by decide))
theorem vmacc (c m : BitVec 1) (d a b : BitVec 5) : Statement (.vmacc c m d a b) :=
  isWord rfl (fits_V _ _ _ _ _ (by decide) (by decide))
theorem vaddx (c m : BitVec 1) (d a b : BitVec 5) : Statement (.vaddx c m d a b) :=
  isWord rfl (fits_V _ _ _ _ _ (by decide) (by decide))
theorem vmulx (c m : BitVec 1) (d a b : BitVec 5) : Statement (.vmulx c m d a b) :=
  isWord rfl (fits_V _ _ _ _ _ (by decide) (by decide))
theorem vaddi (c m : BitVec 1) (d a i : BitVec 5) : Statement (.vaddi c m d a i) :=
  isWord rfl (fits_V _ _ _ _ _ (by decide) (by decide))
theorem vslli (c m : BitVec 1) (d a i : BitVec 5) : Statement (.vslli c m d a i) :=
  isWord rfl (fits_V _ _ _ _ _ (by decide) (by decide))
theorem vsrli (c m : BitVec 1) (d a i : BitVec 5) : Statement (.vsrli c m d a i) :=
  isWord rfl (fits_V _ _ _ _ _ (by decide) (by decide))
theorem vsrai (c m : BitVec 1) (d a i : BitVec 5) : Statement (.vsrai c m d a i) :=
  isWord rfl (fits_V _ _ _ _ _ (by decide) (by decide))
theorem vcmpeq (c m : BitVec 1) (d a b : BitVec 5) : Statement (.vcmpeq c m d a b) :=
  isWord rfl (fits_V _ _ _ _ _ (by decide) (by decide))
theorem vcmplt (c m : BitVec 1) (d a b : BitVec 5) : Statement (.vcmplt c m d a b) :=
  isWord rfl (fits_V _ _ _ _ _ (by decide) (by decide))
theorem vcmple (c m : BitVec 1) (d a b : BitVec 5) : Statement (.vcmple c m d a b) :=
  isWord rfl (fits_V _ _ _ _ _ (by decide) (by decide))
theorem vsel (c m : BitVec 1) (d a b : BitVec 5) : Statement (.vsel c m d a b) :=
  isWord rfl (fits_V _ _ _ _ _ (by decide) (by decide))
theorem vmvx (c m : BitVec 1) (d b : BitVec 5) : Statement (.vmvx c m d b) :=
  isWord rfl (fits_V _ _ _ _ _ (by decide) (by decide))
theorem vfadd (c m : BitVec 1) (d a b : BitVec 5) : Statement (.vfadd c m d a b) :=
  isWord rfl (fits_V _ _ _ _ _ (by decide) (by decide))
theorem vfsub (c m : BitVec 1) (d a b : BitVec 5) : Statement (.vfsub c m d a b) :=
  isWord rfl (fits_V _ _ _ _ _ (by decide) (by decide))
theorem vfmul (c m : BitVec 1) (d a b : BitVec 5) : Statement (.vfmul c m d a b) :=
  isWord rfl (fits_V _ _ _ _ _ (by decide) (by decide))
theorem vfdiv (c m : BitVec 1) (d a b : BitVec 5) : Statement (.vfdiv c m d a b) :=
  isWord rfl (fits_V _ _ _ _ _ (by decide) (by decide))
theorem vfsqrt (c m : BitVec 1) (d a : BitVec 5) : Statement (.vfsqrt c m d a) :=
  isWord rfl (fits_V _ _ _ _ _ (by decide) (by decide))
theorem vfma (c m : BitVec 1) (d a b : BitVec 5) : Statement (.vfma c m d a b) :=
  isWord rfl (fits_V _ _ _ _ _ (by decide) (by decide))
theorem vfmin (c m : BitVec 1) (d a b : BitVec 5) : Statement (.vfmin c m d a b) :=
  isWord rfl (fits_V _ _ _ _ _ (by decide) (by decide))
theorem vfmax (c m : BitVec 1) (d a b : BitVec 5) : Statement (.vfmax c m d a b) :=
  isWord rfl (fits_V _ _ _ _ _ (by decide) (by decide))
theorem vfcmpeq (c m : BitVec 1) (d a b : BitVec 5) : Statement (.vfcmpeq c m d a b) :=
  isWord rfl (fits_V _ _ _ _ _ (by decide) (by decide))
theorem vfcmplt (c m : BitVec 1) (d a b : BitVec 5) : Statement (.vfcmplt c m d a b) :=
  isWord rfl (fits_V _ _ _ _ _ (by decide) (by decide))
theorem vfcmple (c m : BitVec 1) (d a b : BitVec 5) : Statement (.vfcmple c m d a b) :=
  isWord rfl (fits_V _ _ _ _ _ (by decide) (by decide))
theorem vfmulx (c m : BitVec 1) (d a b : BitVec 5) : Statement (.vfmulx c m d a b) :=
  isWord rfl (fits_V _ _ _ _ _ (by decide) (by decide))
theorem vfsmul (c m : BitVec 1) (d a b : BitVec 5) : Statement (.vfsmul c m d a b) :=
  isWord rfl (fits_V _ _ _ _ _ (by decide) (by decide))
theorem vfsmacc (c m : BitVec 1) (d a b : BitVec 5) : Statement (.vfsmacc c m d a b) :=
  isWord rfl (fits_V _ _ _ _ _ (by decide) (by decide))
theorem vfcvt (c m : BitVec 1) (d a : BitVec 5) : Statement (.vfcvt c m d a) :=
  isWord rfl (fits_V _ _ _ _ _ (by decide) (by decide))
theorem vfcvti (c m : BitVec 1) (d a : BitVec 5) : Statement (.vfcvti c m d a) :=
  isWord rfl (fits_V _ _ _ _ _ (by decide) (by decide))
theorem vicvtf (c m : BitVec 1) (d a : BitVec 5) : Statement (.vicvtf c m d a) :=
  isWord rfl (fits_V _ _ _ _ _ (by decide) (by decide))
theorem vicvt (c m : BitVec 1) (d a : BitVec 5) : Statement (.vicvt c m d a) :=
  isWord rfl (fits_V _ _ _ _ _ (by decide) (by decide))
theorem vredsum (c m : BitVec 1) (d a : BitVec 5) : Statement (.vredsum c m d a) :=
  isWord rfl (fits_V _ _ _ _ _ (by decide) (by decide))
theorem vredmax (c m : BitVec 1) (d a : BitVec 5) : Statement (.vredmax c m d a) :=
  isWord rfl (fits_V _ _ _ _ _ (by decide) (by decide))
theorem vfredsum (c m : BitVec 1) (d a : BitVec 5) : Statement (.vfredsum c m d a) :=
  isWord rfl (fits_V _ _ _ _ _ (by decide) (by decide))
theorem vfredmax (c m : BitVec 1) (d a : BitVec 5) : Statement (.vfredmax c m d a) :=
  isWord rfl (fits_V _ _ _ _ _ (by decide) (by decide))
theorem vtopk (c m : BitVec 1) (d a b : BitVec 5) : Statement (.vtopk c m d a b) :=
  isWord rfl (fits_V _ _ _ _ _ (by decide) (by decide))
theorem vperm (c m : BitVec 1) (d a b : BitVec 5) : Statement (.vperm c m d a b) :=
  isWord rfl (fits_V _ _ _ _ _ (by decide) (by decide))
theorem vslideup (c m : BitVec 1) (d a b : BitVec 5) : Statement (.vslideup c m d a b) :=
  isWord rfl (fits_V _ _ _ _ _ (by decide) (by decide))
theorem vslidedn (c m : BitVec 1) (d a b : BitVec 5) : Statement (.vslidedn c m d a b) :=
  isWord rfl (fits_V _ _ _ _ _ (by decide) (by decide))
theorem vcompress (c m : BitVec 1) (d a : BitVec 5) : Statement (.vcompress c m d a) :=
  isWord rfl (fits_V _ _ _ _ _ (by decide) (by decide))
theorem viota (c m : BitVec 1) (d : BitVec 5) : Statement (.viota c m d) :=
  isWord rfl (fits_V _ _ _ _ _ (by decide) (by decide))
theorem vskv (c m : BitVec 1) (d a : BitVec 5) : Statement (.vskv c m d a) :=
  isWord rfl (fits_V _ _ _ _ _ (by decide) (by decide))
theorem kand (c m : BitVec 1) (d a b : BitVec 5) : Statement (.kand c m d a b) :=
  isWord rfl (fits_V _ _ _ _ _ (by decide) (by decide))
theorem kor (c m : BitVec 1) (d a b : BitVec 5) : Statement (.kor c m d a b) :=
  isWord rfl (fits_V _ _ _ _ _ (by decide) (by decide))
theorem kxor (c m : BitVec 1) (d a b : BitVec 5) : Statement (.kxor c m d a b) :=
  isWord rfl (fits_V _ _ _ _ _ (by decide) (by decide))
theorem kandn (c m : BitVec 1) (d a b : BitVec 5) : Statement (.kandn c m d a b) :=
  isWord rfl (fits_V _ _ _ _ _ (by decide) (by decide))
theorem knot (c m : BitVec 1) (d a : BitVec 5) : Statement (.knot c m d a) :=
  isWord rfl (fits_V _ _ _ _ _ (by decide) (by decide))
theorem kbefore (c m : BitVec 1) (d a : BitVec 5) : Statement (.kbefore c m d a) :=
  isWord rfl (fits_V _ _ _ _ _ (by decide) (by decide))
theorem kset (c m : BitVec 1) (d : BitVec 5) : Statement (.kset c m d) :=
  isWord rfl (fits_V _ _ _ _ _ (by decide) (by decide))
theorem vld (c m : BitVec 1) (v x : BitVec 5) (p : BitVec 2) : Statement (.vld c m v x p) :=
  isWord rfl (fits_W _ _ _ _ _ _ (by decide) (by decide))
theorem vlds (c m : BitVec 1) (v x s : BitVec 5) (p : BitVec 2) : Statement (.vlds c m v x s p) :=
  isWord rfl (fits_W _ _ _ _ _ _ (by decide) (by decide))
theorem vldx (c m : BitVec 1) (v x s : BitVec 5) (p : BitVec 2) : Statement (.vldx c m v x s p) :=
  isWord rfl (fits_W _ _ _ _ _ _ (by decide) (by decide))
theorem vldff (c m : BitVec 1) (v x : BitVec 5) (p : BitVec 2) : Statement (.vldff c m v x p) :=
  isWord rfl (fits_W _ _ _ _ _ _ (by decide) (by decide))
theorem vqrd (c m : BitVec 1) (v x : BitVec 5) (p : BitVec 2) : Statement (.vqrd c m v x p) :=
  isWord rfl (fits_W _ _ _ _ _ _ (by decide) (by decide))
theorem vlr (c : BitVec 1) (v x : BitVec 5) : Statement (.vlr c v x) :=
  isWord rfl (fits_W _ _ _ _ _ _ (by decide) (by decide))
theorem vlrPredicate (c : BitVec 1) (v x : BitVec 5) : Statement (.vlrPredicate c v x) :=
  isWord rfl (fits_W _ _ _ _ _ _ (by decide) (by decide))
theorem vst (c m : BitVec 1) (v x : BitVec 5) (p : BitVec 2) : Statement (.vst c m v x p) :=
  isWord rfl (fits_W _ _ _ _ _ _ (by decide) (by decide))
theorem vsts (c m : BitVec 1) (v x s : BitVec 5) (p : BitVec 2) : Statement (.vsts c m v x s p) :=
  isWord rfl (fits_W _ _ _ _ _ _ (by decide) (by decide))
theorem vstx (c m : BitVec 1) (v x s : BitVec 5) (p : BitVec 2) : Statement (.vstx c m v x s p) :=
  isWord rfl (fits_W _ _ _ _ _ _ (by decide) (by decide))
theorem vsr (c : BitVec 1) (v x : BitVec 5) : Statement (.vsr c v x) :=
  isWord rfl (fits_W _ _ _ _ _ _ (by decide) (by decide))
theorem vsrPredicate (c : BitVec 1) (v x : BitVec 5) : Statement (.vsrPredicate c v x) :=
  isWord rfl (fits_W _ _ _ _ _ _ (by decide) (by decide))
theorem vamoadd (c m : BitVec 1) (v x i : BitVec 5) (p : BitVec 2) (s : BitVec 3) : Statement (.vamoadd c m v x i p s) :=
  isWord rfl (fits_W _ _ _ _ _ _ (by decide) (by omega))
theorem vamomin (c m : BitVec 1) (v x i : BitVec 5) (p : BitVec 2) (s : BitVec 3) : Statement (.vamomin c m v x i p s) :=
  isWord rfl (fits_W _ _ _ _ _ _ (by decide) (by omega))
theorem vamomax (c m : BitVec 1) (v x i : BitVec 5) (p : BitVec 2) (s : BitVec 3) : Statement (.vamomax c m v x i p s) :=
  isWord rfl (fits_W _ _ _ _ _ _ (by decide) (by omega))
theorem vamoand (c m : BitVec 1) (v x i : BitVec 5) (p : BitVec 2) (s : BitVec 3) : Statement (.vamoand c m v x i p s) :=
  isWord rfl (fits_W _ _ _ _ _ _ (by decide) (by omega))
theorem vamoor (c m : BitVec 1) (v x i : BitVec 5) (p : BitVec 2) (s : BitVec 3) : Statement (.vamoor c m v x i p s) :=
  isWord rfl (fits_W _ _ _ _ _ _ (by decide) (by omega))
theorem vamoxor (c m : BitVec 1) (v x i : BitVec 5) (p : BitVec 2) (s : BitVec 3) : Statement (.vamoxor c m v x i p s) :=
  isWord rfl (fits_W _ _ _ _ _ _ (by decide) (by omega))
theorem vamoswap (c m : BitVec 1) (v x i : BitVec 5) (p : BitVec 2) (s : BitVec 3) : Statement (.vamoswap c m v x i p s) :=
  isWord rfl (fits_W _ _ _ _ _ _ (by decide) (by omega))
theorem vamocas (c m : BitVec 1) (v x i : BitVec 5) (p : BitVec 2) (s : BitVec 3) : Statement (.vamocas c m v x i p s) :=
  isWord rfl (fits_W _ _ _ _ _ _ (by decide) (by omega))
theorem mmcpy (c m : BitVec 1) (d a : BitVec 5) (p : BitVec 2) : Statement (.mmcpy c m d a p) :=
  isWord rfl (fits_W _ _ _ _ _ _ (by decide) (by decide))
theorem mmadd (c m : BitVec 1) (d a b : BitVec 5) (p : BitVec 2) : Statement (.mmadd c m d a b p) :=
  isWord rfl (fits_W _ _ _ _ _ _ (by decide) (by decide))
theorem mmsub (c m : BitVec 1) (d a b : BitVec 5) (p : BitVec 2) : Statement (.mmsub c m d a b p) :=
  isWord rfl (fits_W _ _ _ _ _ _ (by decide) (by decide))
theorem mmmul (c m : BitVec 1) (d a b : BitVec 5) (p : BitVec 2) : Statement (.mmmul c m d a b p) :=
  isWord rfl (fits_W _ _ _ _ _ _ (by decide) (by decide))
theorem mmmin (c m : BitVec 1) (d a b : BitVec 5) (p : BitVec 2) : Statement (.mmmin c m d a b p) :=
  isWord rfl (fits_W _ _ _ _ _ _ (by decide) (by decide))
theorem mmmax (c m : BitVec 1) (d a b : BitVec 5) (p : BitVec 2) : Statement (.mmmax c m d a b p) :=
  isWord rfl (fits_W _ _ _ _ _ _ (by decide) (by decide))
theorem tshp (c : BitVec 1) (k : BitVec 5) : Statement (.tshp c k) :=
  isWord rfl (fits_M _ _ _ _ _ (by decide) (by decide))
theorem mxacc (c m : BitVec 1) (t : BitVec 3) (a b : BitVec 5) : Statement (.mxacc c m t a b) :=
  isWord rfl (fits_M _ _ _ _ _ (by decide) (by decide))
theorem mopk (c m : BitVec 1) (t : BitVec 3) (a b : BitVec 5) : Statement (.mopk c m t a b) :=
  isWord rfl (fits_M _ _ _ _ _ (by decide) (by decide))
theorem mxsub (c m : BitVec 1) (t : BitVec 3) (a b : BitVec 5) : Statement (.mxsub c m t a b) :=
  isWord rfl (fits_M _ _ _ _ _ (by decide) (by decide))
theorem mzero (c : BitVec 1) (t : BitVec 3) : Statement (.mzero c t) :=
  isWord rfl (fits_M _ _ _ _ _ (by decide) (by decide))
theorem mdrain (c m : BitVec 1) (t : BitVec 3) (a : BitVec 5) : Statement (.mdrain c m t a) :=
  isWord rfl (fits_M _ _ _ _ _ (by decide) (by decide))
theorem mrow (c m : BitVec 1) (t : BitVec 3) (a : BitVec 5) : Statement (.mrow c m t a) :=
  isWord rfl (fits_M _ _ _ _ _ (by decide) (by decide))
theorem tsave (c : BitVec 1) (t : BitVec 3) (a : BitVec 5) : Statement (.tsave c t a) :=
  isWord rfl (fits_M _ _ _ _ _ (by decide) (by decide))
theorem trest (c : BitVec 1) (t : BitVec 3) (a : BitVec 5) : Statement (.trest c t a) :=
  isWord rfl (fits_M _ _ _ _ _ (by decide) (by decide))
theorem qbind (q : BitVec 3) (a b : BitVec 5) : Statement (.qbind q a b) :=
  isWord rfl (fits_Q _ _ _ _ (by decide) (by decide))
theorem btcopy (a b : BitVec 5) (k : BitVec 4) : Statement (.btcopy a b k) :=
  isWord rfl (fits_Q _ _ _ _ (by decide) (by decide))
theorem btgather (a b : BitVec 5) (k : BitVec 4) : Statement (.btgather a b k) :=
  isWord rfl (fits_Q _ _ _ _ (by decide) (by decide))
theorem qrd (q : BitVec 3) (a : BitVec 5) : Statement (.qrd q a) := isWord rfl (fits_Q _ _ _ _ (by decide) (by decide))
theorem sbar (a : BitVec 5) : Statement (.sbar a) := isWord rfl (fits_Q _ _ _ _ (by decide) (by decide))
theorem kwait (a b : BitVec 5) (k : BitVec 4) : Statement (.kwait a b k) :=
  isWord rfl (fits_Q _ _ _ _ (by decide) (by decide))
theorem wmark (a : BitVec 5) : Statement (.wmark a) := isWord rfl (fits_Q _ _ _ _ (by decide) (by decide))
theorem chdemote (a : BitVec 5) : Statement (.chdemote a) := isWord rfl (fits_Q _ _ _ _ (by decide) (by decide))
theorem pref (a b : BitVec 5) : Statement (.pref a b) := isWord rfl (fits_Q _ _ _ _ (by decide) (by decide))
theorem nsq (a b : BitVec 5) (k : BitVec 4) : Statement (.nsq a b k) :=
  isWord rfl (fits_Q _ _ _ _ (by decide) (by decide))
theorem nsstat (a b : BitVec 5) : Statement (.nsstat a b) := isWord rfl (fits_Q _ _ _ _ (by decide) (by decide))
theorem hcmv (a b : BitVec 5) (k : BitVec 4) : Statement (.hcmv a b k) :=
  isWord rfl (fits_Q _ _ _ _ (by decide) (by decide))
theorem hcfire (a b : BitVec 5) (k : BitVec 4) : Statement (.hcfire a b k) :=
  isWord rfl (fits_Q _ _ _ _ (by decide) (by decide))
theorem hcage (a : BitVec 5) : Statement (.hcage a) := isWord rfl (fits_Q _ _ _ _ (by decide) (by decide))
theorem hcrank (a b : BitVec 5) : Statement (.hcrank a b) := isWord rfl (fits_Q _ _ _ _ (by decide) (by decide))
theorem hccommit (a : BitVec 5) : Statement (.hccommit a) := isWord rfl (fits_Q _ _ _ _ (by decide) (by decide))
theorem wlopen (a b : BitVec 5) : Statement (.wlopen a b) := isWord rfl (fits_Q _ _ _ _ (by decide) (by decide))
theorem wlpush (a b : BitVec 5) : Statement (.wlpush a b) := isWord rfl (fits_Q _ _ _ _ (by decide) (by decide))
theorem wlpop (a b : BitVec 5) : Statement (.wlpop a b) := isWord rfl (fits_Q _ _ _ _ (by decide) (by decide))
theorem wldone (a : BitVec 5) : Statement (.wldone a) := isWord rfl (fits_Q _ _ _ _ (by decide) (by decide))
theorem wlstat (a b : BitVec 5) : Statement (.wlstat a b) := isWord rfl (fits_Q _ _ _ _ (by decide) (by decide))
theorem wlfloor (a b : BitVec 5) : Statement (.wlfloor a b) := isWord rfl (fits_Q _ _ _ _ (by decide) (by decide))
theorem glaunch (a b : BitVec 5) : Statement (.glaunch a b) := isWord rfl (fits_Q _ _ _ _ (by decide) (by decide))
theorem gwait (a b : BitVec 5) : Statement (.gwait a b) := isWord rfl (fits_Q _ _ _ _ (by decide) (by decide))
theorem gbar (a : BitVec 5) : Statement (.gbar a) := isWord rfl (fits_Q _ _ _ _ (by decide) (by decide))
theorem xred (a : BitVec 5) (k : BitVec 4) : Statement (.xred a k) :=
  isWord rfl (fits_Q _ _ _ _ (by decide) (by decide))
theorem lslot (d a : BitVec 5) (n : BitVec 6) : Statement (.lslot d a n) :=
  isWord rfl (fits_S _ _ _ (by decide) (by decide))
theorem pchk (d a : BitVec 5) (n : BitVec 4) : Statement (.pchk d a n) :=
  isWord rfl (fits_S _ _ _ (by decide) (by omega))
theorem ptag (d a : BitVec 5) : Statement (.ptag d a) := isWord rfl (fits_S _ _ _ (by decide) (by decide))
theorem pstrip (d a : BitVec 5) : Statement (.pstrip d a) := isWord rfl (fits_S _ _ _ (by decide) (by decide))
theorem rpatchWrite (d a : BitVec 5) : Statement (.rpatchWrite d a) := isWord rfl (fits_S _ _ _ (by decide) (by decide))
theorem rpatchMove (d a : BitVec 5) : Statement (.rpatchMove d a) := isWord rfl (fits_S _ _ _ (by decide) (by decide))
theorem wattestReport (d a : BitVec 5) : Statement (.wattestReport d a) :=
  isWord rfl (fits_S _ _ _ (by decide) (by decide))
theorem wattestAllow (d a : BitVec 5) : Statement (.wattestAllow d a) :=
  isWord rfl (fits_S _ _ _ (by decide) (by decide))
theorem wattestLog (d a : BitVec 5) : Statement (.wattestLog d a) := isWord rfl (fits_S _ _ _ (by decide) (by decide))
theorem wattestGrant (d a : BitVec 5) : Statement (.wattestGrant d a) :=
  isWord rfl (fits_S _ _ _ (by decide) (by decide))
theorem wattestRevoke (d a : BitVec 5) : Statement (.wattestRevoke d a) :=
  isWord rfl (fits_S _ _ _ (by decide) (by decide))
theorem wbindOpen (d a : BitVec 5) : Statement (.wbindOpen d a) := isWord rfl (fits_S _ _ _ (by decide) (by decide))
theorem wbindNewver (d a : BitVec 5) : Statement (.wbindNewver d a) := isWord rfl (fits_S _ _ _ (by decide) (by decide))
theorem wbindPlace (d a : BitVec 5) : Statement (.wbindPlace d a) := isWord rfl (fits_S _ _ _ (by decide) (by decide))
theorem wbindSeal (d a : BitVec 5) : Statement (.wbindSeal d a) := isWord rfl (fits_S _ _ _ (by decide) (by decide))
theorem wbindInstall (d a : BitVec 5) : Statement (.wbindInstall d a) :=
  isWord rfl (fits_S _ _ _ (by decide) (by decide))
theorem wbindErase (d a : BitVec 5) : Statement (.wbindErase d a) := isWord rfl (fits_S _ _ _ (by decide) (by decide))
theorem wbindClose (d a : BitVec 5) : Statement (.wbindClose d a) := isWord rfl (fits_S _ _ _ (by decide) (by decide))
theorem ecall (d a : BitVec 5) (n : BitVec 6) : Statement (.ecall d a n) :=
  isWord rfl (fits_S _ _ _ (by decide) (by decide))
theorem ebreak (n : BitVec 6) : Statement (.ebreak n) := isWord rfl (fits_S _ _ _ (by decide) (by decide))
theorem mtcr (x : BitVec 5) (c : BitVec 10) : Statement (.mtcr x c) := isWord rfl (fits_S _ _ _ (by decide) (by omega))
theorem mfcr (x : BitVec 5) (c : BitVec 10) : Statement (.mfcr x c) := isWord rfl (fits_S _ _ _ (by decide) (by omega))
theorem svl (d a : BitVec 5) : Statement (.svl d a) := isWord rfl (fits_S _ _ _ (by decide) (by decide))
theorem svlW (d a : BitVec 5) : Statement (.svlW d a) := isWord rfl (fits_S _ _ _ (by decide) (by decide))
theorem wfe (d a : BitVec 5) : Statement (.wfe d a) := isWord rfl (fits_S _ _ _ (by decide) (by decide))
theorem csync (d a : BitVec 5) : Statement (.csync d a) := isWord rfl (fits_S _ _ _ (by decide) (by decide))
theorem vmvxs (d a : BitVec 5) : Statement (.vmvxs d a) := isWord rfl (fits_S _ _ _ (by decide) (by decide))
theorem kpop (d a : BitVec 5) : Statement (.kpop d a) := isWord rfl (fits_S _ _ _ (by decide) (by decide))
theorem kfirst (d a : BitVec 5) : Statement (.kfirst d a) := isWord rfl (fits_S _ _ _ (by decide) (by decide))
theorem hyield : Statement .hyield := isWord rfl (fits_Q _ _ _ _ (by decide) (by decide))
theorem gexit : Statement .gexit := isWord rfl (fits_Q _ _ _ _ (by decide) (by decide))
theorem slotsync : Statement .slotsync := isWord rfl (fits_S _ _ _ (by decide) (by decide))
theorem eret : Statement .eret := isWord rfl (fits_S _ _ _ (by decide) (by decide))
theorem fence : Statement .fence := isWord rfl (fits_S _ _ _ (by decide) (by decide))
theorem fenceSv : Statement .fenceSv := isWord rfl (fits_S _ _ _ (by decide) (by decide))
theorem fenceVs : Statement .fenceVs := isWord rfl (fits_S _ _ _ (by decide) (by decide))
theorem fenceSvVs : Statement .fenceSvVs := isWord rfl (fits_S _ _ _ (by decide) (by decide))
theorem vtypeWrite (x : BitVec 5) : Statement (.vtypeWrite x) := isNone rfl
theorem tshpWrite (x : BitVec 5) : Statement (.tshpWrite x) := isNone rfl
theorem frmWrite (x : BitVec 5) : Statement (.frmWrite x) := isNone rfl
theorem fflagsWrite (x : BitVec 5) : Statement (.fflagsWrite x) := isNone rfl
theorem fflagsRead (x : BitVec 5) : Statement (.fflagsRead x) := isNone rfl
theorem vlffRead (x : BitVec 5) : Statement (.vlffRead x) := isNone rfl
theorem vlcapWrite (x : BitVec 5) : Statement (.vlcapWrite x) := isNone rfl
theorem schedcfgWrite (x : BitVec 5) : Statement (.schedcfgWrite x) := isNone rfl
theorem vviewOwn : Statement .vviewOwn := isNone rfl
theorem vviewAddr (x : BitVec 5) : Statement (.vviewAddr x) := isNone rfl
theorem vviewEvict : Statement .vviewEvict := isNone rfl
theorem vviewInstall : Statement .vviewInstall := isNone rfl
theorem fwdHold (e : BitVec 6) : Statement (.fwdHold e) := isNone rfl
theorem fwdForward (e : BitVec 6) : Statement (.fwdForward e) := isNone rfl
theorem fwdFree (e : BitVec 6) : Statement (.fwdFree e) := isNone rfl
theorem csafreePush (a : BitVec 64) : Statement (.csafreePush a) := isNone rfl
theorem hartHold (ser : BitVec 16) : Statement (.hartHold ser) := isNone rfl
theorem hartRelease (ser : BitVec 16) : Statement (.hartRelease ser) := isNone rfl
theorem extentAccept (p : BitVec 3) (e : BitVec 6) : Statement (.extentAccept p e) := isNone rfl
theorem extentDecline (p : BitVec 3) (e : BitVec 6) : Statement (.extentDecline p e) := isNone rfl
theorem extentRelease (p : BitVec 3) (e : BitVec 6) : Statement (.extentRelease p e) := isNone rfl
theorem extentFree (p : BitVec 3) (e : BitVec 6) : Statement (.extentFree p e) := isNone rfl
theorem msixRaise (n : BitVec 64) : Statement (.msixRaise n) := isNone rfl
theorem registerWrite (x : BitVec 5) (c : BitVec 10) : Statement (.registerWrite x c) := isNone rfl
theorem reset : Statement .reset := isNone rfl
theorem boot (image : List (BitVec 8)) : Statement (.boot image) := isNone rfl
theorem bootHartStart : Statement .bootHartStart := isNone rfl
theorem microopIssue (core : BitVec 8) : Statement (.microopIssue core) := isNone rfl
theorem microopAged (ser : BitVec 16) : Statement (.microopAged ser) := isNone rfl
theorem eventDelivery : Statement .eventDelivery := isNone rfl
theorem quantumExpiry (ser : BitVec 16) : Statement (.quantumExpiry ser) := isNone rfl
theorem lpgraceExpiry (ser : BitVec 16) : Statement (.lpgraceExpiry ser) := isNone rfl
theorem shareGrantChange (ser : BitVec 16) (n : BitVec 3) : Statement (.shareGrantChange ser n) := isNone rfl
theorem preemption (ser : BitVec 16) : Statement (.preemption ser) := isNone rfl
theorem switchOut (ser : BitVec 16) : Statement (.switchOut ser) := isNone rfl
theorem switchIn (ser : BitVec 16) : Statement (.switchIn ser) := isNone rfl
theorem domainSliceStart (gid : BitVec 32) : Statement (.domainSliceStart gid) := isNone rfl
theorem sliceForfeit (gid : BitVec 32) : Statement (.sliceForfeit gid) := isNone rfl
theorem gangPlacement (gid : BitVec 32) : Statement (.gangPlacement gid) := isNone rfl
theorem gangStart (gid : BitVec 32) : Statement (.gangStart gid) := isNone rfl
theorem gwaitReturn (ser : BitVec 16) : Statement (.gwaitReturn ser) := isNone rfl
theorem gbarRelease (gid : BitVec 32) (b : BitVec 4) : Statement (.gbarRelease gid b) := isNone rfl
theorem gexitComplete (ser : BitVec 16) : Statement (.gexitComplete ser) := isNone rfl
theorem xredComplete (gid : BitVec 32) (k : Nat) : Statement (.xredComplete gid k) := isNone rfl
theorem svlWPass (ser : BitVec 16) : Statement (.svlWPass ser) := isNone rfl
theorem kwaitReturn (ser : BitVec 16) : Statement (.kwaitReturn ser) := isNone rfl
theorem qrdReturn (ser : BitVec 16) : Statement (.qrdReturn ser) := isNone rfl
theorem wmarkPublish (ser : BitVec 16) : Statement (.wmarkPublish ser) := isNone rfl
theorem fenceDrained (ser : BitVec 16) : Statement (.fenceDrained ser) := isNone rfl
theorem slotsyncComplete (ser : BitVec 16) : Statement (.slotsyncComplete ser) := isNone rfl
theorem streamFetch (ser : BitVec 16) (q : BitVec 3) : Statement (.streamFetch ser q) := isNone rfl
theorem lineFill (ser : BitVec 16) (a : BitVec 52) : Statement (.lineFill ser a) := isNone rfl
theorem remotePacketArrival (n : Nat) : Statement (.remotePacketArrival n) := isNone rfl
theorem hostCompletion (ser : BitVec 16) (ok : Bool) (data : List (BitVec 8)) : Statement (.hostCompletion ser ok data) :=
  isNone rfl
theorem hostCompletionTimeout (ser : BitVec 16) : Statement (.hostCompletionTimeout ser) := isNone rfl
theorem hostWriteFailure (a : BitVec 64) : Statement (.hostWriteFailure a) := isNone rfl
theorem hostLinkDown : Statement .hostLinkDown := isNone rfl
theorem shardSearchComplete (ser : BitVec 16) (t : Nat) (k : BitVec 4) : Statement (.shardSearchComplete ser t k) :=
  isNone rfl
theorem searchComplete (ser : BitVec 16) (t : Nat) : Statement (.searchComplete ser t) := isNone rfl
theorem splitProductComplete (ser : BitVec 16) (t : Nat) : Statement (.splitProductComplete ser t) := isNone rfl
theorem hcrankCopyDone (n : Nat) : Statement (.hcrankCopyDone n) := isNone rfl
theorem btPieceComplete (n k : Nat) : Statement (.btPieceComplete n k) := isNone rfl
theorem wlpopReturn (ser : BitVec 16) : Statement (.wlpopReturn ser) := isNone rfl
theorem wlDetectionWave (gid : BitVec 32) (w : BitVec 4) : Statement (.wlDetectionWave gid w) := isNone rfl
theorem wlBalanceMove (gid : BitVec 32) (w : BitVec 4) (i : Nat) : Statement (.wlBalanceMove gid w i) := isNone rfl
theorem wlUnspill (gid : BitVec 32) (w : BitVec 4) : Statement (.wlUnspill gid w) := isNone rfl
theorem keyExchangeComplete (wid : BitVec 10) (dev : BitVec 8) : Statement (.keyExchangeComplete wid dev) := isNone rfl
theorem sealedLoadComplete (n : Nat) : Statement (.sealedLoadComplete n) := isNone rfl
theorem installComplete (n : Nat) : Statement (.installComplete n) := isNone rfl
theorem correctedError (cls : BitVec 8) (unit : CorrectedUnit) : Statement (.correctedError cls unit) := isNone rfl
theorem uncorrectableError (site : ErrorSite) : Statement (.uncorrectableError site) := isNone rfl
theorem selfTestComplete (cls : BitVec 8) (unit : BitVec 16) (passed : Bool) : Statement (.selfTestComplete cls unit passed) :=
  isNone rfl
theorem flitReceive (data : BitVec 512) (check : BitVec 64) (damage : List (BitVec 72)) :
    Statement (.flitReceive data check damage) :=
  isNone rfl
theorem nakReceive (g : BitVec 10) : Statement (.nakReceive g) := isNone rfl
theorem ackReceive (g : BitVec 10) : Statement (.ackReceive g) := isNone rfl
theorem readyWindowReceive (w : BitVec 10) : Statement (.readyWindowReceive w) := isNone rfl
theorem replayTimeout : Statement .replayTimeout := isNone rfl
theorem portRetrain (ok : Bool) : Statement (.portRetrain ok) := isNone rfl
theorem portUp : Statement .portUp := isNone rfl
theorem extentOffered (p : BitVec 3) (e : BitVec 6) (off : BitVec 13) (units : BitVec 14) : Statement (.extentOffered p e off units) :=
  isNone rfl
theorem releaseRequest (p : BitVec 3) (e : BitVec 6) : Statement (.releaseRequest p e) := isNone rfl
theorem releaseComplete (p : BitVec 3) (e : BitVec 6) : Statement (.releaseComplete p e) := isNone rfl
theorem forcedRelease (p : BitVec 3) (e : BitVec 6) : Statement (.forcedRelease p e) := isNone rfl
theorem rootPortFailure (p : BitVec 3) : Statement (.rootPortFailure p) := isNone rfl
theorem clockStep (up : Bool) : Statement (.clockStep up) := isNone rfl
theorem thermalAlarm (die : BitVec 2) : Statement (.thermalAlarm die) := isNone rfl
theorem powerLimitSet (watts temp : BitVec 16) : Statement (.powerLimitSet watts temp) := isNone rfl
theorem firmwareUpdate (image : FirmwareImage) : Statement (.firmwareUpdate image) := isNone rfl
theorem mgmtCounterRead (wid : BitVec 10) (cls : BitVec 6) (host : Bool) : Statement (.mgmtCounterRead wid cls host) :=
  isNone rfl
theorem fuseRead (n : BitVec 4) : Statement (.fuseRead n) := isNone rfl
theorem errorLogRead : Statement .errorLogRead := isNone rfl
theorem retirementMapRead : Statement .retirementMapRead := isNone rfl
theorem powerStateSet (n : BitVec 8) : Statement (.powerStateSet n) := isNone rfl
theorem lineWriteBack (a : BitVec 52) : Statement (.lineWriteBack a) := isNone rfl
theorem wfeTimeout (ser : BitVec 16) : Statement (.wfeTimeout ser) := isNone rfl
theorem hostLinkUp : Statement .hostLinkUp := isNone rfl
theorem correctedErrorReportDue (cls : BitVec 8) (unit : BitVec 16) : Statement (.correctedErrorReportDue cls unit) :=
  isNone rfl

end Sys2Proof.Laws.WordFits
end

