-- ==== Sys2Proof/Machine/Ordering.lean ====
section
/-! DEFINITION. The ordering model of spec/11 (R207 to R223, with the edges of R263, R264, R274, R277 and R286): finite
executions as plain data, the relations over their events, and the three axioms. The step of the machine shows one
interleaving at a time; this file says which outcomes of several agents the device may show at all. -/

namespace Sys2Proof.Machine

/-! ### Agents and events (R208) -/

/-- What makes an event: a side of a hart, a stream binding by its number, engine work (a ticket, a reduction or a
block-transfer job) by a number of its own, the host, or what stood in memory at launch. -/
inductive Part where
  | scalar | vector
  | stream (q : Nat)
  | work (n : Nat)
  | host
  | start
deriving DecidableEq, Repr

/-- An agent; for one that is no hart's, the three numbers are its issuing hart's, or 0. -/
structure Agent where
  dev  : Nat
  core : Nat
  ser  : Nat
  part : Part
deriving DecidableEq, Repr

/-- Where an access goes (R211). -/
inductive Destination where
  | onDevice
  | device (d : Nat)
  | host
deriving DecidableEq, Repr

/-- What an event does. Accesses and synchronising events of R208. -/
inductive Act where
  | read | write
  /-- a fence: are older vector-side events in its before-set, and younger ones in its after-set (R214)? -/
  | fence (vs sv : Bool)
  /-- a context save or restore, a trap entry or an `eret`, with the events of instructions in the saved queue image
  that have not performed yet (R216) -/
  | context (saved : List Nat)
  /-- `sbar`: the streams it names, whether it names the block-transfer engine, and the reads that had started (R217) -/
  | sbar (streams : List Nat) (jobs : Bool) (started : List Nat)
  /-- the issue of engine work; near-memory queries, products and reductions take the older scalar writes with them
  (R218, R277) -/
  | issue (work : Nat) (near : Bool)
  /-- the set of a completion bit of its hart by engine work: it reports a chunk of a block-transfer job, or the results
  of near-memory work (R219) -/
  | setBit (bit work : Nat) (chunk : Option Nat)
  /-- the hart itself writes a completion bit, as 1 or as 0; it reads the bit as 1, as the captured mask of an
  instruction or otherwise; an `nsstat` returns 2 for a ticket (R219) -/
  | ownBit (bit : Nat) (one : Bool)
  | seeBit (bit : Nat) (mask : Bool)
  | seeTicket (work : Nat)
  /-- `wmark` with its watermark and count, and an `svl.w` that passes its bound (R220) -/
  | wmark (w count : Nat)
  | svlw (w bound : Nat)
  /-- `glaunch` and the return of `gwait` (R263, R264) -/
  | launch (gang : Nat)
  | retired (gang : Nat)
  /-- `gbar` in an epoch of a barrier (R274) -/
  | barrier (gang b epoch : Nat)
  /-- `wlpush` of a task, its pop, `wldone`, and a pop that returns DONE after these retirements (R286) -/
  | push (task : Nat)
  | pop (task : Nat)
  | retire
  | popDone (after : List Nat)
deriving DecidableEq, Repr

/-- One event. `pos` is its instruction's place in the program order of its hart, for a stream that of the `qbind`, and
for other work a packet's place among those of its agent. `step` is the place of an event in an instruction whose events
are ordered: the read and the write of an atomic, the loop of R157, the elements of a stream, and the reads by which an
`nsq` or `hcmv` captures its vector, all of one step, before the issue (R177, R253). `entries` counts the instructions
before it in program order that occupy a queue entry (R212), `convoy` numbers the convoys of the hart (R215), and
`chunk` the chunks of a block-transfer job (R219). -/
structure MemEvent where
  agent   : Agent
  pos     : Nat
  act     : Act
  addr    : Nat := 0
  len     : Nat := 1
  dest    : Destination := .onDevice
  step    : Nat := 0
  entries : Nat := 0
  convoy  : Nat := 0
  chunk   : Nat := 0
  /-- a single-copy atomic access (R209) -/
  single  : Bool := true
deriving DecidableEq, Repr

/-- A finite execution. Events are named by their places in `events`. -/
structure Execution where
  events : List MemEvent
  /-- read, byte, and the write whose value the read returns there (R210) -/
  rf : List (Nat × Nat × Nat)
  /-- byte, and the writes of it in coherence order, the initial one first (R210) -/
  co : List (Nat × List Nat)
  /-- read, write and scope of each atomic (R222) -/
  atomics : List (Nat × Nat × Nat) := []
  /-- read, and the event whose address, value or mask comes from its value (R211) -/
  deps : List (Nat × Nat) := []
  /-- vector-side event, and the place of a scalar instruction of its hart that waited for it (R212) -/
  waits : List (Nat × Nat) := []
  /-- for each completion bit of a hart, the events that set, write or read it, in the order in which they take place
  (R219) -/
  bits : List (List Nat) := []
  /-- watermark, and its `wmark` events in modification order (R220) -/
  marks : List (Nat × List Nat) := []
  /-- the harts of gangs -/
  members : List (Agent × Nat) := []
deriving DecidableEq, Repr

def Execution.noEvent : MemEvent := ⟨⟨0, 0, 0, .start⟩, 0, .context [], 0, 0, .onDevice, 0, 0, 0, 0, false⟩
def Execution.at' (x : Execution) (i : Nat) : MemEvent := x.events.getD i noEvent
def Execution.ids (x : Execution) : List Nat := List.range x.events.length

/-- A side of a hart. -/
def Part.side : Part → Bool
  | .scalar | .vector => true
  | .stream _ | .work _ | .host | .start => false

def Agent.sameHart (a b : Agent) : Bool := a.dev == b.dev && a.ser == b.ser

def MemEvent.isRead (e : MemEvent) : Bool := e.act == .read
def MemEvent.isWrite (e : MemEvent) : Bool := e.act == .write
def MemEvent.isMem (e : MemEvent) : Bool := e.isRead || e.isWrite
def MemEvent.covers (e : MemEvent) (b : Nat) : Bool := decide (e.addr ≤ b ∧ b < e.addr + e.len)
def MemEvent.overlaps (e f : MemEvent) : Bool := decide (e.addr < f.addr + f.len ∧ f.addr < e.addr + e.len)
def MemEvent.bytes (e : MemEvent) : List Nat := (List.range e.len).map (e.addr + ·)
def MemEvent.scalar (e : MemEvent) : Bool := e.agent.part == .scalar
def MemEvent.vector (e : MemEvent) : Bool := e.agent.part == .vector

/-- Program order of one hart, over the events of its sides. -/
def MemEvent.po (e f : MemEvent) : Bool :=
  e.agent.part.side && f.agent.part.side && e.agent.sameHart f.agent &&
    decide (e.pos < f.pos ∨ (e.pos = f.pos ∧ e.step < f.step))

/-- Location order (R210). -/
def MemEvent.lo (e f : MemEvent) : Bool :=
  e.isMem && f.isMem && e.agent.part == f.agent.part && e.po f && e.overlaps f

/-- A scalar read, as which a `wlpop` counts (R211, R286). -/
def MemEvent.scalarRead (e : MemEvent) : Bool :=
  e.scalar && (match e.act with
    | .read | .pop _ | .popDone _ => true
    | _ => false)

/-! ### Order within a hart (R211 to R216) -/

/-- Preserved program order (R211, R212). -/
def Execution.ppo (x : Execution) (i j : Nat) : Bool :=
  let e := x.at' i
  let f := x.at' j
  e.po f &&
    (e.scalarRead ||
      (e.scalar && e.isWrite && f.scalar && f.isWrite && e.dest == f.dest) ||
      (e.vector && f.vector && e.isMem && f.isMem && e.dest == .onDevice && f.dest == .onDevice && e.overlaps f) ||
      (e.vector && f.scalar && decide (e.entries + 65 ≤ f.entries)) ||
      (e.isRead && x.deps.contains (i, j)) ||
      (e.vector && f.scalar && x.waits.any fun w => w.1 == i && decide (w.2 ≤ f.pos)))

/-- Does an event fence its hart: which vector-side events, and which events are younger than it although they come
before it in program order (R214, R216)? -/
def Execution.fenceForm (x : Execution) (k : Nat) : Option (Bool × Bool × List Nat) :=
  match (x.at' k).act with
  | .fence vs sv => some (vs, sv, [])
  | .context saved => some (true, true, saved)
  | _ => none

/-- May a fence relate this event to the issue of a block-transfer job? No older write, and no fence through which one
would come: only `sbar` orders those (R218). -/
def MemEvent.beforeIssue (e f : MemEvent) : Bool :=
  match f.act with
  | .issue _ near => near || e.isRead
  | _ => true

def Execution.fenced (x : Execution) (i j : Nat) : Bool :=
  (x.at' i).beforeIssue (x.at' j) && x.ids.any fun k =>
    match x.fenceForm k with
    | some (vs, sv, saved) =>
      (x.at' i).po (x.at' k) && !saved.contains i && ((x.at' k).po (x.at' j) || saved.contains j) &&
        ((x.at' i).scalar || vs) && ((x.at' j).scalar || sv)
    | none => false

/-- Is an event a read of a stream or transfer that an `sbar` names (R217)? -/
def Execution.barred (x : Execution) (s : MemEvent) (streams : List Nat) (jobs : Bool) (i : Nat) : Bool :=
  let e := x.at' i
  e.isRead && e.agent.sameHart s.agent && (match e.agent.part with
    | .stream q => streams.contains q
    | .work n => jobs && x.ids.any fun k => (x.at' k).act == .issue n false
    | _ => false)

/-- The edges of `sbar`: reads that had started before younger writes, older writes before the others. -/
def Execution.sbarred (x : Execution) (i j : Nat) : Bool :=
  x.ids.any fun k =>
    let s := x.at' k
    match s.act with
    | .sbar streams jobs started =>
      (x.barred s streams jobs i && started.contains i && (x.at' j).isWrite && s.po (x.at' j)) ||
        (x.barred s streams jobs j && !started.contains j && (x.at' i).isWrite && (x.at' i).po s)
    | _ => false

/-- Older scalar-side writes before the issue of near-memory work (R218). -/
def Execution.released (x : Execution) (i j : Nat) : Bool :=
  let e := x.at' i
  match (x.at' j).act with
  | .issue _ near => near && e.scalar && e.isWrite && e.po (x.at' j)
  | _ => false

/-- Fence order (R214, R216 to R218). -/
def Execution.fo (x : Execution) (i j : Nat) : Bool := x.fenced i j || x.sbarred i j || x.released i j

/-- Convoy order, of the local vector-side events of a convoy and of every later one, since a convoy drains before the
next starts (R30, R215). -/
def Execution.cvo (x : Execution) (i j : Nat) : Bool :=
  let e := x.at' i
  let f := x.at' j
  e.vector && f.vector && e.isMem && f.isMem && e.agent.sameHart f.agent && e.dest == .onDevice && f.dest == .onDevice &&
    decide (e.convoy < f.convoy)

/-! ### Streams, transfers, engines and watermarks (R217 to R221) -/

/-- Stream order. -/
def Execution.so (x : Execution) (i j : Nat) : Bool :=
  let e := x.at' i
  let f := x.at' j
  e.isRead && f.isRead && e.agent == f.agent && e.pos == f.pos && decide (e.step < f.step) &&
    (match e.agent.part with
     | .stream _ => true
     | _ => false)

/-- What a set reports: each read and write of its chunk, or each write of a near-memory result. A reduction writes the
buffer of every member before it sets, with release, a bit of each (R277), so that its writes need not be of the hart whose
bit it sets: its number says which work it is. -/
def MemEvent.reportedBy (e f : MemEvent) : Bool :=
  match f.act with
  | .setBit _ work chunk =>
    e.agent.part == .work work && (match chunk with
      | some c => e.agent.sameHart f.agent && e.isMem && e.chunk == c
      | none => e.isWrite)
  | _ => false

/-- The sets of a bit that a read in its order acquires: those after the hart's last write of the bit. `acc` holds the
sets since then. -/
def Execution.acquired (x : Execution) (r : Nat) : List Nat → List Nat → List Nat
  | _, [] => []
  | acc, k :: t =>
    if k = r then acc
    else
      match (x.at' k).act with
      | .setBit _ _ _ => acquired x r (k :: acc) t
      | .ownBit _ _ => acquired x r [] t
      | _ => acquired x r acc t

/-- The sets that an event acquires, and whether for its own instruction only. -/
def Execution.acquires (x : Execution) (r : Nat) : List Nat × Bool :=
  match (x.at' r).act with
  | .seeBit _ mask => (x.bits.flatMap fun l => if l.contains r then x.acquired r [] l else [], mask)
  | .seeTicket work =>
    (x.ids.filter fun k => match (x.at' k).act with
      | .setBit _ w none => w == work && (x.at' k).agent.sameHart (x.at' r).agent
      | _ => false, false)
  | _ => ([], true)

/-- Completion-mask acquire order: a result before the set that reports it, and the set before what acquires it. -/
def Execution.cmo (x : Execution) (i j : Nat) : Bool :=
  let f := x.at' j
  (x.at' i).reportedBy f ||
    x.ids.any fun r =>
      let e := x.at' r
      let (sets, own) := x.acquires r
      sets.contains i && f.agent.part.side && f.agent.sameHart e.agent &&
        (f.pos == e.pos || (!own && decide (e.pos < f.pos)))

/-- The `wmark` events of a watermark up to the first that brought it to a bound. -/
def Execution.upTo (x : Execution) (bound : Nat) : List Nat → List Nat
  | [] => []
  | k :: t =>
    match (x.at' k).act with
    | .wmark _ count => if bound ≤ count then [k] else k :: upTo x bound t
    | _ => []

/-- Watermark order. -/
def Execution.wmo (x : Execution) (i j : Nat) : Bool :=
  let e := x.at' i
  let f := x.at' j
  (match f.act with
   | .wmark _ _ => e.po f
   | .svlw w bound => x.marks.any fun m => m.1 == w && (x.upTo bound m.2).contains i
   | _ => false) ||
    (match e.act with
     | .svlw _ _ => e.po f
     | _ => false)

/-- Are the packets of an agent a fabric stream: of a side of a hart, a job or a ticket? -/
def Part.fabric : Part → Bool
  | .scalar | .vector | .work _ => true
  | .stream _ | .host | .start => false

/-- Fabric order: of two packets of one stream to one destination. -/
def Execution.xo (x : Execution) (i j : Nat) : Bool :=
  let e := x.at' i
  let f := x.at' j
  e.isMem && f.isMem && e.dest != .onDevice && e.dest == f.dest && e.agent == f.agent && e.agent.part.fabric &&
    decide (e.pos < f.pos)

/-! ### Edges of issue and of the synchronising instructions (R218, R223) -/

/-- The issue before every event of the work. -/
def Execution.issued (x : Execution) (i j : Nat) : Bool :=
  match (x.at' i).act with
  | .issue n _ => (x.at' j).agent.part == .work n
  | _ => false

def Execution.isMember (x : Execution) (gang : Nat) (a : Agent) : Bool :=
  a.part.side && x.members.any fun m => m.2 == gang && m.1.sameHart a

/-- Launch, retirement and barrier edges (R263, R264, R274). -/
def Execution.gangEdge (x : Execution) (i j : Nat) : Bool :=
  let e := x.at' i
  let f := x.at' j
  (match e.act with
   | .launch g => x.isMember g f.agent
   | .retired _ => e.po f
   | _ => false) ||
    (match f.act with
     | .retired g => x.isMember g e.agent
     | _ => false) ||
    x.ids.any fun k => x.ids.any fun l =>
      match (x.at' k).act, (x.at' l).act with
      | .barrier g b n, .barrier h c m => g == h && b == c && n == m && e.po (x.at' k) && (x.at' l).po f
      | _, _ => false

/-- Worklist edges (R286). -/
def Execution.listEdge (x : Execution) (i j : Nat) : Bool :=
  let e := x.at' i
  let f := x.at' j
  (match f.act with
   | .push _ | .retire => e.scalar && e.po f
   | .pop t => e.act == .push t
   | .popDone l => l.contains i
   | _ => false)

/-! ### Communication and the axioms (R209, R210, R222, R223) -/

def Execution.before (l : List Nat) (i j : Nat) : Bool :=
  match l with
  | [] => false
  | k :: t => (k == i && t.contains j) || before t i j

/-- Coherence order, at byte `b`. -/
def Execution.coAt (x : Execution) (b i j : Nat) : Bool := x.co.any fun c => c.1 == b && before c.2 i j

/-- Reads-from: the write first. -/
def Execution.rfAt (x : Execution) (b i j : Nat) : Bool := x.rf.contains (j, b, i)

/-- From-read. -/
def Execution.frAt (x : Execution) (b i j : Nat) : Bool := x.rf.any fun r => r.1 == i && r.2.1 == b && x.coAt b r.2.2 j

def Execution.places (x : Execution) : List Nat := x.co.map Prod.fst

/-- Is a read from a write of its own side (rfi)? -/
def Execution.internal (x : Execution) (i j : Nat) : Bool :=
  let e := x.at' i
  let f := x.at' j
  e.agent.part.side && e.agent.part == f.agent.part && e.agent.sameHart f.agent

def Execution.rfe (x : Execution) (i j : Nat) : Bool := !x.internal i j && x.places.any fun b => x.rfAt b i j

/-- The edges whose transitive closure is happens-before. -/
def Execution.hb (x : Execution) (i j : Nat) : Bool :=
  x.ppo i j || x.fo i j || x.cvo i j || x.so i j || x.cmo i j || x.wmo i j || x.xo i j || x.rfe i j || x.issued i j ||
    x.gangEdge i j || x.listEdge i j

/-- Has a relation no cycle among these events? Events that nothing precedes are taken away until none is left. -/
def Execution.acyclic (r : Nat → Nat → Bool) : Nat → List Nat → Bool
  | 0, l => l.isEmpty
  | n + 1, l =>
    let rest := l.filter fun i => l.any fun j => r j i
    rest.isEmpty || (decide (rest.length < l.length) && acyclic r n rest)

def Execution.coherence (x : Execution) : Bool :=
  x.places.all fun b =>
    acyclic (fun i j =>
      ((x.at' i).covers b && (x.at' j).covers b && (x.at' i).lo (x.at' j)) || x.rfAt b i j || x.coAt b i j || x.frAt b i j)
      x.events.length x.ids

/-- The agents in a scope (R222). -/
def Execution.inScope (code : Nat) (a b : Agent) : Bool :=
  let hart := b.part.side
  let engine := match b.part with
    | .stream _ | .work _ => true
    | _ => false
  match code with
  | 0 => hart && a.sameHart b
  | 1 => hart && a.dev == b.dev && a.core == b.core
  | 2 => hart && a.dev == b.dev && a.core / 64 == b.core / 64
  | 3 => (hart || engine) && a.dev == b.dev
  | 4 => hart || engine
  | _ => true

/-- No covered or mutually scoped write comes between the read and the write of an atomic. -/
def Execution.atomicity (x : Execution) : Bool :=
  x.atomics.all fun (r, w, code) =>
    let a := (x.at' w).agent
    x.ids.all fun v =>
      let o := (x.at' v).agent
      let between := x.places.any fun b => x.frAt b r v && x.coAt b v w
      let bars := match x.atomics.find? fun t => t.2.1 == v with
        | some t => inScope code a o && inScope t.2.2 o a
        | none => inScope code a o
      !(between && bars)

def Execution.order (x : Execution) : Bool :=
  acyclic (fun i j => x.hb i j || x.places.any fun b => x.coAt b i j || x.frAt b i j) x.events.length x.ids

/-- A single-copy atomic read takes what it shares with a single-copy atomic write whole (R209): where it takes a byte of
the write, it takes no byte that the write covers from an earlier one. -/
def Execution.untorn (x : Execution) : Bool :=
  x.rf.all fun r => x.rf.all fun q =>
    !((x.at' r.1).single && (x.at' r.2.2).single && q.1 == r.1 && (x.at' r.2.2).covers q.2.1 &&
      x.coAt q.2.1 q.2.2 r.2.2)

/-- Had the work of a read begun before an `sbar`: was its `qbind`, or the issue of its job, older (R217)? -/
def Execution.begun (x : Execution) (s : MemEvent) (k : Nat) : Bool :=
  let e := x.at' k
  match e.agent.part with
  | .stream _ => decide (e.pos < s.pos)
  | .work n => x.ids.any fun m => (x.at' m).act == .issue n false && (x.at' m).po s
  | _ => false

/-- An event that a saved queue image may hold: one of the vector side of the hart, of an instruction that the hart had
issued to its queue before (R216). -/
def Execution.imaged (x : Execution) (k i : Nat) : Bool :=
  (x.at' i).vector && (x.at' i).po (x.at' k)

/-- The bytes of a read or write each have their place: every byte read is read from one write of it, and coherence order
is one list for each byte, which holds the writes of it, an initial one first (R210). A stream that is bound, or a job
that is issued, after an `sbar` has no read that had started (R217), and a saved queue image holds events of the vector side of
its hart alone (R216). -/
def Execution.placed (x : Execution) : Bool :=
  (x.ids.all fun i =>
    let e := x.at' i
    (!e.isRead || e.bytes.all fun b =>
      (x.rf.filter fun r => r.1 == i && r.2.1 == b).length == 1 &&
        x.rf.any fun r => r.1 == i && r.2.1 == b && (x.at' r.2.2).isWrite && (x.at' r.2.2).covers b) &&
    (!e.isWrite || e.bytes.all fun b => x.co.any fun c => c.1 == b && c.2.contains i) &&
    (match e.act with
     | .sbar _ _ started => started.all (x.begun e)
     | .context saved => saved.all (x.imaged i)
     | _ => true)) &&
  decide x.places.Nodup &&
  x.co.all fun c => decide c.2.Nodup && c.2.all (fun i => (x.at' i).isWrite && (x.at' i).covers c.1) &&
    (match c.2 with
     | i :: _ => (x.at' i).agent.part == .start
     | [] => false)

/-- The number of a completion bit that an event sets, writes or reads. -/
def Act.bit : Act → Option Nat
  | .setBit b _ _ | .ownBit b _ | .seeBit b _ => some b
  | _ => none

/-- A read of a bit as 1 comes after a set of it, or a write of 1 by the hart, and no write of 0 comes between. `one`
is what the bit holds before these events. -/
def Execution.seenRight (x : Execution) (one : Bool) : List Nat → Bool
  | [] => true
  | k :: t =>
    match (x.at' k).act with
    | .setBit _ _ _ => seenRight x true t
    | .ownBit _ v => seenRight x v t
    | .seeBit _ _ => one && seenRight x one t
    | _ => seenRight x one t

/-- The events of a completion bit stand in one order, in which those of the hart keep their program order, and every
read of the bit as 1 has what made it 1 (R219). -/
def Execution.bitsOrdered (x : Execution) : Bool :=
  (x.ids.all fun i => (x.at' i).act.bit.isNone || (x.bits.filter fun l => l.contains i).length == 1) &&
    x.bits.all fun l => decide l.Nodup && x.seenRight false l &&
      (l.all fun i => l.all fun j =>
        (x.at' i).act.bit.isSome && (x.at' i).act.bit == (x.at' j).act.bit && (x.at' i).agent.sameHart (x.at' j).agent &&
          !(before l i j && (x.at' j).po (x.at' i))) &&
      (x.ids.all fun i => l.contains i || !l.any fun j =>
        (x.at' i).act.bit == (x.at' j).act.bit && (x.at' i).agent.sameHart (x.at' j).agent)

/-- The `wmark` events of each watermark stand in one modification order, and an `svl.w` that passes a bound above 0
has the publication that brought the watermark there (R220). -/
def Execution.marked (x : Execution) : Bool :=
  decide (x.marks.map Prod.fst).Nodup &&
    (x.marks.all fun m => decide m.2.Nodup && m.2.all fun i => match (x.at' i).act with
      | .wmark w _ => w == m.1
      | _ => false) &&
    x.ids.all fun i =>
      match (x.at' i).act with
      | .wmark w _ => x.marks.any fun m => m.1 == w && m.2.contains i
      | .svlw w bound => bound == 0 || x.marks.any fun m => m.1 == w && m.2.any fun k => match (x.at' k).act with
        | .wmark _ count => decide (bound ≤ count)
        | _ => false
      | _ => true

def Execution.complete (x : Execution) : Bool := x.placed && x.bitsOrdered && x.marked

/-- An execution that the device may show: the three axioms of R223, with R209. -/
def Execution.allowed (x : Execution) : Bool := x.complete && x.untorn && x.coherence && x.atomicity && x.order

end Sys2Proof.Machine
end

