-- ==== Sys2Proof/Tests/Slice0.lean ====
section
/-! SUPPORT. Tests: words of the spec decoded, ill-formed terms refused, one step of instructions on small states, and
states that meet the hypotheses of the statements. -/

namespace Sys2Proof.Tests
open Sys2Proof Sys2Proof.Machine Sys2Proof.Claims

theorem noMember {α : Type} {p : α → Prop} : ∀ x ∈ ([] : List α), p x := fun _ h => absurd h List.not_mem_nil

/-! ### States for the tests -/

/-- A slot word over 64 KiB with the given rights, KEYID 0, and state 0. -/
def slotAt (base : Nat) (rights : BitVec 4) : SlotWord := ⟨0, 0, 0, 0, 0x10000, 0, BitVec.ofNat 46 (base / 64), 0, rights⟩

/-- The slot word of the data. -/
def dataSlot : SlotWord := slotAt 0x20000 7

/-- A slot table with LAST 2: slot 0 names nothing, slot 1 the code at 0x10000 and slot 2 the data at 0x20000. -/
def tableBytes : List Byte :=
  Crypto.leBytes 8 0 ++ Crypto.leBytes 4 2 ++ Crypto.leBytes 4 1 ++ List.replicate 48 0 ++ Crypto.leBytes 16 0 ++
    Crypto.leBytes 16 (slotAt 0x10000 9).toNat ++ Crypto.leBytes 16 dataSlot.toNat

/-- Memory that holds the table at 0x8000 and eight bytes of data at 0x20000. -/
def benchMemory : Bytes :=
  Bytes.write (Bytes.write [] 0x8000 tableBytes) 0x20000 [0x80, 1, 2, 3, 4, 5, 6, 7]

/-- A running hart of world 0 with a handler; x10 points to the data through slot 2, x1 to x3 hold numbers. -/
def bench : State :=
  { State.reset with
    hart := { State.reset.hart with
      life := .running, pc := 0x10000, slottab := 0x8000, code := 1, csa := 0x40000
      x := ((Vector.replicate 32 0).set 1 7).set 2 0x8000000000000000 |>.set 3 3 |>.set 10 0x20000
      tag := (Vector.replicate 32 none).set 10 (some 2) }
    mem := benchMemory
    hvec := 0x10000
    htab := 0x8000 }

/-- The same hart as one of world 5, which is open. -/
def tenant : State := { bench with hart := { bench.hart with wid := 5 } }

/-- The same hart in handler mode. -/
def inHandler : State := { bench with hart := { bench.hart with hm := true } }

/-- The hart with a share of one lane group, its vector state in lanes, FP32 elements and VL 4. -/
def inLanes : State :=
  { bench with hart := { bench.hart with share := 1, pv := false, vloc := 1, groups := [0], vtype := 0x35, vl := 4 } }

theorem bench_memory : Memory.wf benchMemory = true := by decide
theorem bench_settled : Settled bench := ⟨noMember, noMember⟩
theorem bench_traps : CanTrap bench := ⟨rfl, rfl, rfl, by decide, bench_settled⟩
theorem tenant_traps : CanTrap tenant := ⟨rfl, rfl, rfl, by decide, bench_settled⟩
theorem inLanes_traps : CanTrap inLanes := ⟨rfl, rfl, rfl, by decide, bench_settled⟩
theorem handler_nests : CanNest inHandler := ⟨rfl, rfl, rfl, by decide, bench_settled⟩
theorem bench_prompt : Prompt bench := ⟨rfl, rfl, rfl, noMember⟩

/-! ### Hypotheses that states meet: scalar instructions -/

theorem hyp_register_results : binaryResult (.add 4 1 3) bench.hart = some (4, 10, none) := by decide
theorem hyp_division : divisionResult (.div 4 1 3) bench.hart = some (4, 2) ∧
    divisionResult (.div 4 2 0) bench.hart = some (4, 0xFFFFFFFFFFFFFFFF) := by decide
theorem hyp_division_identity : ∃ t u v w : State, (4 : BitVec 5) ≠ 0 ∧ (5 : BitVec 5) ≠ 0 ∧
    exec (.div 4 1 3) bench = .next t ∧ exec (.rem 5 1 3) bench = .next u ∧
    exec (.divu 4 2 0) bench = .next v ∧ exec (.remu 5 2 0) bench = .next w :=
  ⟨_, _, _, _, by decide, by decide, rfl, rfl, rfl, rfl⟩
theorem hyp_bit_counts : countOperand (.clz 4 0) bench.hart = some (4, 0) ∧
    countOperand (.ctz 4 2) bench.hart = some (4, 0x8000000000000000) := by decide
theorem hyp_immediates : immediateResult (.addi 4 10 0xFFFF) bench.hart = some (4, 0x1FFFF, some 2) ∧
    immediateResult (.auipc 4 0x100000) bench.hart = some (4, 0xFFFFFFF000010000, none) := by decide
theorem hyp_scalar_floats : floatResult (.fcvtdl 4 0) bench.hart = some (4, 0, 0) := by decide
theorem hyp_branches : branchOf (.blt 2 1 0x8000) bench.hart = some (true, 0x8000) ∧
    branchOf (.bltu 2 1 0x7FFF) bench.hart = some (false, 0x7FFF) := by decide
theorem hyp_counted_loop : (1 : BitVec 5) ≠ 0 ∧ CanTrap bench := ⟨by decide, bench_traps⟩
theorem hyp_jumps : (bench.hart.xr 10 + BitVec.ofInt 64 (4 : BitVec 16).toInt).toNat % 4 = 0 ∧
    (bench.hart.xr 10 + BitVec.ofInt 64 (0xFFFF : BitVec 16).toInt).toNat % 4 ≠ 0 ∧ CanTrap bench :=
  ⟨by decide, by decide, bench_traps⟩
theorem hyp_compact : isCompact (.caddi 4 7) = true ∧ { bench.hart with last := some 10 }.last = some 10 ∧
    compactResult (.caddi 4 7) { bench.hart with last := some 10 } ({ bench.hart with last := some 10 }.operand 10) =
      some (4, 0x20007, some 2) := by decide
theorem hyp_compact_without_record : isCompact (.cmov 4) = true ∧ bench.hart.last = none ∧ CanTrap bench :=
  ⟨by decide, rfl, bench_traps⟩

/-! ### Scalar accesses -/

theorem hyp_scalar_loads : loadOf (.lb 4 10 0) = some (1, true, 4, 10, 0) ∧ Prompt bench ∧
    Passes bench 10 (accessAddress bench.hart 10 0) 1 needRead ⟨2, dataSlot⟩ ∧
    LocalMemory bench (accessAddress bench.hart 10 0) ∧ NoHeldWrite bench (accessAddress bench.hart 10 0) 1 ∧
    bench.readBytes bench.ctx dataSlot (accessAddress bench.hart 10 0) 1 = some [0x80] :=
  ⟨rfl, bench_prompt, rfl, .inl ⟨_, _, rfl⟩, .inl rfl, rfl⟩

/-- The hart's stores perform later than they execute, and one over the first word of the data is pending. -/
def later : State := { bench with slow := [0], stores := [⟨bench.ctx, dataSlot, 0x20000, [1, 0, 0, 0, 0, 0, 0, 0]⟩] }
def laterDone : State := later.stores.foldl State.performStore { later with stores := [] }
theorem hyp_loads_see_stores : loadOf (.lb 4 10 7) = some (1, true, 4, 10, 7) ∧
    (∃ p ∈ later.stores, p.ctx.ser = later.hart.ser ∧
      later.canon p.addr < later.canon (accessAddress later.hart 10 7) + 1 ∧
      later.canon (accessAddress later.hart 10 7) < later.canon p.addr + p.data.length) ∧
    laterDone.hart.life = .running ∧ laterDone.hart.x = later.hart.x ∧ laterDone.hart.tag = later.hart.tag ∧
    laterDone.stores = [] ∧
    (∀ p ∈ later.stores, p.ctx.ser = later.hart.ser →
      later.canon p.addr + p.data.length ≤ later.canon (accessAddress later.hart 10 8)) ∧
    later.hart.answer = none ∧ Passes later 10 (accessAddress later.hart 10 8) 1 needRead ⟨2, dataSlot⟩ := by
  refine ⟨rfl, ⟨_, List.mem_singleton_self _, by decide⟩, rfl, rfl, rfl, rfl, ?_, rfl, rfl⟩
  intro p hp _; cases List.mem_singleton.mp hp; decide
theorem hyp_pending_stores : storeOf (.sd 1 10 0) = some (8, 1, 10, 0) ∧ later.hart.answer = none ∧
    later.slow.contains later.hart.ser = true ∧ (∃ p ∈ later.stores, p.ctx.ser = later.hart.ser) ∧
    Passes later 10 (accessAddress later.hart 10 0) 8 needWrite ⟨2, dataSlot⟩ ∧
    LocalMemory later (accessAddress later.hart 10 0) :=
  ⟨rfl, rfl, rfl, ⟨_, List.mem_singleton_self _, rfl⟩, rfl, .inl ⟨_, _, rfl⟩⟩

/-- The last bytes of the slot. -/
theorem hyp_scalar_stores : storeOf (.sd 1 10 0x7FF8) = some (8, 1, 10, 0x7FF8) ∧ Prompt bench ∧
    Memory.wf bench.mem = true ∧
    Passes bench 10 (accessAddress bench.hart 10 0x7FF8) 8 needWrite ⟨2, dataSlot⟩ ∧
    LocalMemory bench (accessAddress bench.hart 10 0x7FF8) ∧ NotHeldBack bench (accessAddress bench.hart 10 0x7FF8) ∧
    dataSlot.keyid = 0 ∧ (bench.readBytes bench.ctx dataSlot (accessAddress bench.hart 10 0x7FF8) 8).isSome = true :=
  ⟨rfl, bench_prompt, bench_memory, rfl, .inl ⟨_, _, rfl⟩, .inl rfl, rfl, rfl⟩

/-- An entry in MODE 1 over the data of a tenant. -/
def moving : State := { tenant with fwd := tenant.fwd.set 0 { FwdEntry.free with mode := 1, old := 0x800, len := 0x10000 } }
theorem hyp_held_stores : storeOf (.sb 1 10 0) = some (1, 1, 10, 0) ∧ Prompt moving ∧
    Passes moving 10 (accessAddress moving.hart 10 0) 1 needWrite ⟨2, dataSlot⟩ ∧
    LocalMemory moving (accessAddress moving.hart 10 0) ∧ moving.ctx.world ≠ 0 ∧
    ∃ e f, moving.fwdAt 1 (moving.key moving.hart.core (accessAddress moving.hart 10 0)) = some (e, f) :=
  ⟨rfl, bench_prompt, rfl, .inl ⟨_, _, rfl⟩, by decide, _, _, rfl⟩
theorem hyp_held_atomics : (atomicOf (.amoadd 4 10 1 1) moving.hart).isSome = true ∧ moving.hart.answer = none ∧
    Passes moving 10 (moving.hart.xr 10).toNat 8 needAtomic ⟨2, dataSlot⟩ ∧
    LocalMemory moving (moving.hart.xr 10).toNat ∧ moving.ctx.world ≠ 0 ∧ moving.amoHeld ⟨moving.hart.ser, moving.hart.pc, none⟩ = false ∧
    moving.owedTo ⟨moving.hart.ser, moving.hart.pc, none⟩ = none ∧
    ∃ e f, moving.fwdAt 1 (moving.key moving.hart.core (moving.hart.xr 10).toNat) = some (e, f) :=
  ⟨rfl, rfl, rfl, .inl ⟨_, _, rfl⟩, by decide, rfl, rfl, _, _, rfl⟩

theorem hyp_scalar_atomics : (atomicOf (.amoadd 4 10 1 1) bench.hart).isSome = true ∧ Prompt bench ∧
    bench.amoHeld ⟨bench.hart.ser, bench.hart.pc, none⟩ = false ∧ bench.owedTo ⟨bench.hart.ser, bench.hart.pc, none⟩ = none ∧
    Memory.wf bench.mem = true ∧ Passes bench 10 (bench.hart.xr 10).toNat 8 needAtomic ⟨2, dataSlot⟩ ∧
    LocalMemory bench (bench.hart.xr 10).toNat ∧ NoHeldWrite bench (bench.hart.xr 10).toNat 8 ∧
    NotHeldBack bench (bench.hart.xr 10).toNat ∧
    bench.readBytes bench.ctx dataSlot (bench.hart.xr 10).toNat 8 = some [0x80, 1, 2, 3, 4, 5, 6, 7] :=
  ⟨rfl, bench_prompt, rfl, rfl, bench_memory, rfl, .inl ⟨_, _, rfl⟩, .inl rfl, .inl rfl, rfl⟩

/-- A word that straddles the end of the slot, and a misaligned one. -/
theorem hyp_access_faults : loadOf (.ld 4 10 0xFFF8) = some (8, false, 4, 10, 0xFFF8) ∧ CanTrap bench ∧
    bench.probe bench.ctx ⟨slotIndex (bench.hart.tagOf 10), accessAddress bench.hart 10 0xFFF8, 8, 8, needRead, true,
      true, false⟩ = .error 3 ∧ bench.hart.wid = 0 ∧
    tenant.probe tenant.ctx ⟨slotIndex (tenant.hart.tagOf 10), accessAddress tenant.hart 10 1, 8, 8, needRead, true,
      true, false⟩ = .error 1 :=
  ⟨rfl, bench_traps, rfl, rfl, rfl⟩
theorem hyp_tenant_violations : storeOf (.sb 4 1 0) = some (1, 4, 1, 0) ∧ CanTrap tenant ∧ tenant.hart.wid ≠ 0 ∧
    tenant.probe tenant.ctx ⟨slotIndex (tenant.hart.tagOf 1), accessAddress tenant.hart 1 0, 1, 1, needWrite, true,
      true, false⟩ = .error 3 ∧ 3 ∈ [3, 4, 6, 7, 8] :=
  ⟨rfl, tenant_traps, by decide, rfl, by decide⟩
theorem hyp_pointers : bench.slotWord bench.ctx.table (bench.hart.xr 0 + (2 : BitVec 6).zeroExtend 64).toNat =
    some dataSlot ∧
    bench.tabLast bench.ctx.table < (bench.hart.xr 0 + (3 : BitVec 6).zeroExtend 64).toNat ∧ CanTrap bench ∧
    bench.hart.wid = 0 := ⟨rfl, by decide, bench_traps, rfl⟩
theorem hyp_slot_patches : bench.hart.world0 = true ∧ Prompt bench ∧ Memory.wf bench.mem = true ∧
    (2 : BitVec 5).toNat % 2 = 0 ∧ (2 : BitVec 5) ≠ 0 ∧
    bench.probe bench.ctx ⟨slotIndex (bench.hart.tagOf 10), (bench.hart.xr 10).toNat, 16, 16, needAtomic, true, false,
      false⟩ = .ok ⟨2, dataSlot⟩ ∧ dataSlot.keyid = 0 ∧ LocalMemory bench (bench.hart.xr 10).toNat ∧
    (bench.readBytes bench.ctx dataSlot (bench.hart.xr 10).toNat 16).isSome = true :=
  ⟨rfl, bench_prompt, bench_memory, by decide, by decide, rfl, rfl, .inl ⟨_, _, rfl⟩, rfl⟩

/-! ### Traps, control registers and strips -/

theorem hyp_nested_traps : CanNest inHandler ∧ (classOf (.vadd 0 0 1 2 3)).isSome = true ∧
    handlerMayRun (.vadd 0 0 1 2 3) = false := ⟨handler_nests, rfl, rfl⟩
theorem hyp_no_handler : { bench with hvec := 0 }.hart.life = .running ∧ { bench with hvec := 0 }.hart.hostBusy = false ∧
    { bench with hvec := 0 }.hvec = 0 ∧ Settled { bench with hvec := 0 } ∧ { bench with hvec := 0 }.hart.hm = false ∧
    { inHandler with hvec := 0 }.hart.hm = true := ⟨rfl, rfl, rfl, bench_settled, rfl, rfl⟩
/-- Traps of each kind that the statement names. -/
theorem hyp_unhandled_forms :
    (trapOf (.ebreak 3) bench).isSome = true ∧ (trapOf (.ecall 4 10 5) bench).isSome = true ∧
    trapOf (.bcnt 0 0xFFFC) bench = some (1, 0, 0, bench.hart) ∧
    trapOf (.ld 4 10 0xFFF8) bench = some (5, 3, 0x1FFF8, bench.hart) ∧
    trapOf (.sb 4 10 0xFFFF) bench = some (5, 3, 0x1FFFF, bench.hart) ∧
    trapOf (.kwait 2 3 4) bench = some (7, 5, 0, bench.hart) ∧ bench.hart.wid = 0 ∧ Memory.wf bench.mem = true := by
  refine ⟨rfl, rfl, rfl, rfl, rfl, rfl, rfl, bench_memory⟩
theorem hyp_privileged : tenant.hart.world0 = false ∧ CanTrap tenant ∧ isPrivileged .eret = true ∧
    readMoveOf (.mfcr 4 0x013) = some (4, 0x013) ∧ (0x013 : BitVec 10) ∉ readByAll ∧ (0x013 : BitVec 10) ∉ hiddenTables ∧
    writeMoveOf (.mtcr 4 0x000) = some (4, 0x000) ∧ (0x000 : BitVec 10) ∉ writtenByAll :=
  ⟨rfl, tenant_traps, rfl, rfl, by decide, by decide, rfl, by decide⟩
theorem hyp_read_only : writeMoveOf (.mtcr 4 0x005) = some (4, 0x005) ∧ (0x005 : BitVec 10) ∉ writtenByAll ∧
    (0x005 : BitVec 10) ∉ writtenByWorld0 ∧ bench.hart.hm = false ∧ CanTrap bench ∧ CanNest inHandler :=
  ⟨rfl, by decide, by decide, rfl, bench_traps, handler_nests⟩
theorem hyp_trap_return : inHandler.hart.life = .running ∧ inHandler.hart.hostBusy = false ∧ Settled inHandler ∧
    inHandler.hart.world0 = true ∧ inHandler.hart.hm = true ∧ badPrefix inHandler.hart.pfx = false ∧
    inHandler.hart.nest = false ∧ inHandler.csaBad inHandler.hart.wid (inHandler.hart.tctx.toNat % 2 ^ 52) = none ∧
    inHandler.hart.preempt = false ∧ inHandler.hart.holdReq = false ∧ inHandler.hart.share = 0 ∧ inHandler.settle.hart.life = .running :=
  ⟨rfl, rfl, bench_settled, rfl, rfl, rfl, rfl, rfl, rfl, rfl, rfl, rfl⟩
theorem hyp_nested_return : { inHandler.hart with nest := true }.nest = true ∧ CanNest inHandler ∧
    badPrefix 0xC0000000 = true ∧ badPrefix 0xB0000000 = true ∧ badPrefix 0xAC000000 = false ∧
    bench.hart.hm = false ∧ CanTrap bench := ⟨rfl, handler_nests, rfl, rfl, rfl, rfl, bench_traps⟩
theorem hyp_control_reads : readMoveOf (.mfcr 4 0x010) = some (4, 0x010) ∧ (0x010 : BitVec 10) ∈ readByAll ∧
    MoveIsReady 0x010 bench.hart ∧ readMoveOf (.mfcr 4 0x030) = some (4, 0x030) ∧ tenant.hart.world0 = false ∧
    (0x030 : BitVec 10) ∈ hiddenTables :=
  ⟨rfl, by decide, ⟨fun _ => rfl, fun h => absurd h (by decide)⟩, rfl, rfl, by decide⟩
theorem hyp_view_writes : viewWriteOf .vviewOwn inHandler.hart = some (0, 0) ∧
    viewWriteOf (.mtcr 3 0x048) inHandler.hart = some (3, 0) ∧ bench.hart.wid = 0 ∧ bench.hart.hm = false ∧
    tenant.hart.wid ≠ 0 ∧ CanTrap tenant ∧ inHandler.hart.hm = true ∧ inHandler.hart.view = .own ∧
    inHandler.hart.vloc ≠ 1 :=
  ⟨rfl, rfl, rfl, rfl, by decide, tenant_traps, rfl, rfl, by decide⟩
/-- A saved context of world 0 in lanes of the same core, at 0x50000. -/
def savedHart : Hart := { bench.hart with ser := 1, life := .descheduled, share := 1, vloc := 1, groups := [0], csa := 0x50000 }
def viewing : State := { inHandler with others := [savedHart], hart := { inHandler.hart with view := .ctx 0x50000 } }
theorem hyp_viewed_context : viewing.contextAt 0x50000 = some savedHart ∧ savedHart.core = viewing.hart.core ∧
    savedHart.vloc = 1 ∧ savedHart.life ≠ .running ∧ savedHart.ser ≠ viewing.hart.ser ∧
    viewing.findHart savedHart.ser = some savedHart ∧ viewing.contextAt 0x60000 = none := by
  refine ⟨rfl, rfl, rfl, by decide, by decide, rfl, rfl⟩
theorem hyp_install_view : { inHandler.hart with vloc := 2, share := 1 }.vloc ≠ 1 ∧
    inHandler.assign inHandler.hart.core inHandler.hart.ser 1 = [0] ∧
    inHandler.holder inHandler.hart.core inHandler.hart.ser 0 = none ∧
    viewing.holder viewing.hart.core viewing.hart.ser 0 = some savedHart := by
  refine ⟨by decide, rfl, rfl, rfl⟩
theorem hyp_plain_writes : writeMoveOf (.mtcr 3 0x011) = some (3, 0x011) ∧ (0x011 : BitVec 10) ∈ writtenByAll ∧
    (plainWrite 0x011 (bench.hart.xr 3) bench).isSome = true ∧ bench.hart.world0 = true ∧
    (plainWrite 0x047 (bench.hart.xr 2) bench).isSome = true := by
  refine ⟨rfl, by decide, rfl, rfl, rfl⟩
theorem hyp_ruled_writes : writeMoveOf (.vtypeWrite 3) = some (3, 0x001) ∧ writeMoveOf (.tshpWrite 3) = some (3, 0x004) ∧
    writeMoveOf (.schedcfgWrite 3) = some (3, 0x032) ∧ writeMoveOf (.vlcapWrite 3) = some (3, 0x006) ∧
    bench.hart.world0 = true ∧ fieldOf (bench.hart.xr 3) 0 3 ∉ [1, 2, 4] ∧ fieldOf 4 0 3 ∈ [1, 2, 4] := by decide
theorem hyp_strip : inLanes.hart.pv = false ∧ min (inLanes.hart.xr 1).toNat (vlmax inLanes.hart.vtype inLanes.hart.c) = 7 ∧
    min (inLanes.hart.xr 2).toNat (vlmax inLanes.hart.vtype inLanes.hart.c) = 4096 := by decide

/-- A started gang of the hart's world, with the hart as its one live member. -/
def soloGang : Gang where
  gid := 1
  wid := 0
  chain := 0
  devs := [0]
  members := [⟨0, 0, some 0, 0, 1, 0, true, 0, 0⟩]
  wlmask := 3
  table := 0x8000
  code := 1
  phase := .started
  die := 0
  marks := (Vector.replicate 16 0).set 0 7
  epochs := Vector.replicate 16 0
  reds := []
  cancel := none
  lists := []
  sliceReady := false
  inSlice := false
  broken := false

/-- The hart in lanes as the one member of its gang, whose watermark 0 stands at 7. -/
def inGang : State := { inLanes with gangs := [soloGang], hart := { inLanes.hart with gid := 1 } }
theorem hyp_strip_watermark : inGang.hart.pv = false ∧ inGang.gang inGang.hart.gid = some soloGang ∧
    inGang.hart.wcons.toNat % 2 ^ 48 + 7 ≤ (soloGang.marks.toList.getD 0 0).toNat ∧
    (soloGang.marks.toList.getD 0 0).toNat < inGang.hart.wcons.toNat % 2 ^ 48 + 8 := by
  refine ⟨rfl, rfl, by decide, by decide⟩

/-- The hart in lanes with a share of two pending, and one whose state lies nowhere. -/
def growing : State := { inLanes with hart := { inLanes.hart with pv := true, pend := 2 } }
def starting : State := { bench with hart := { bench.hart with pv := true, pend := 1 } }
theorem hyp_share_applied : growing.hart.pv = true ∧ growing.hart.queue = [] ∧ growing.hart.vloc = 1 ∧
    ImagesOk growing.hart ∧ growing.hart.pend ≠ 0 ∧
    (∀ g ∈ growing.growth (growing.hart.pend.toNat - growing.hart.groups.length),
      growing.holder growing.hart.core growing.hart.ser g = none) ∧
    starting.hart.pv = true ∧ starting.hart.queue = [] ∧ starting.hart.vloc = 0 ∧ starting.hart.pend ≠ 0 ∧
    (starting.assign starting.hart.core starting.hart.ser 1).length = 1 ∧
    ∀ g ∈ starting.assign starting.hart.core starting.hart.ser 1, starting.holder starting.hart.core starting.hart.ser g = none := by
  refine ⟨rfl, rfl, rfl, ⟨by decide, by decide, by decide⟩, by decide, ?_, rfl, rfl, rfl, by decide, rfl, ?_⟩
  · intro g _; revert g; decide
  · intro g _; revert g; decide

/-- A write of the hart's scalar side, and one of its vector side, in flight to device 1. -/
def scalarBusy : State := { bench with packets := [⟨.scalar 0, 1, 0, []⟩] }
def vectorBusy : State := { bench with packets := [⟨.vector 0, 1, 0, []⟩] }
theorem hyp_fences : ScalarPerformed bench ∧ AllPerformed bench ∧ bench.hart.world0 = true ∧ ¬ ScalarPerformed scalarBusy ∧
    ScalarPerformed vectorBusy ∧ ¬ AllPerformed vectorBusy := by
  refine ⟨⟨noMember, noMember, noMember⟩, ⟨rfl, noMember, noMember, noMember⟩, rfl,
    fun h => h.2.1 _ (List.mem_singleton_self _) rfl, ⟨noMember, ?_, noMember⟩,
    fun h => (h.2.2.1 _ (List.mem_singleton_self _)).2 rfl⟩
  intro p hp; cases List.mem_singleton.mp hp; decide
theorem hyp_events_for_wfe : ({ bench.hart with event := true }).event = true ∧ bench.hart.event = false := by decide

/-! ### Vector, matrix and stream instructions -/

theorem hyp_vector_entry : ∃ x, askedOf (.vfadd 0 1 4 2 3) inLanes.hart = some x ∧
    classOf (.vfadd 0 1 4 2 3) = some .arith ∧ InLanes inLanes.hart ∧ inLanes.hart.vtype.getLsbD 63 = false ∧
    inLanes.hart.vl.toNat ≤ vlmax inLanes.hart.vtype inLanes.hart.c ∧ inLanes.hart.view = .own ∧ x.ok ∧
    GroupsFit (.vfadd 0 1 4 2 3) inLanes.hart x ∧ LoanFits (.vfadd 0 1 4 2 3) inLanes.hart ∧
    JoinsConvoy (.vfadd 0 1 4 2 3) .arith inLanes.hart [.arith] ∧ inLanes.hart.vl ≠ 0 ∧ inLanes.hart.queue.length < 64 := by
  refine ⟨_, rfl, rfl, ⟨rfl, rfl, by decide⟩, by decide, by decide, rfl, ?_, ⟨by decide, ⟨by decide, ?_⟩, nofun⟩, nofun, rfl,
    by decide, by decide⟩
  · show 0x35 ∈ wideFloatCodes
    decide
  · show ∀ x ∈ [((2 : BitVec 5), 1, false), (3, 1, false)], _
    decide
theorem hyp_vector_entry_traps : classOf (.vadd 0 0 1 2 3) = some .arith ∧ CanTrap bench ∧ bench.hart.loan = none ∧
    bench.hart.share = 0 ∧ CanTrap inLanes ∧ InLanes inLanes.hart ∧ inLanes.hart.view = .own ∧
    wholeMoveOf (.vadd 0 0 1 2 3) = none ∧ vlmax 0x35 inLanes.hart.c < (4097 : BitVec 20).toNat ∧
    opensConvoy (.vadd 0 0 1 2 3) = false := by
  refine ⟨rfl, bench_traps, rfl, rfl, inLanes_traps, ⟨rfl, rfl, by decide⟩, rfl, rfl, by decide, rfl⟩
/-- A mask register is lent to words that have no mask bit. -/
def lending : State := { inLanes with hart := { inLanes.hart with loan := some ⟨2, false, 0⟩ } }
theorem hyp_stirrup_failures : InLanes lending.hart ∧ lending.hart.view = .own ∧ CanTrap lending ∧
    lending.hart.loan = some ⟨2, false, 0⟩ ∧ (encode (.stir 2)).isSome = true ∧ classOf (.vlr 0 4 10) = some .load ∧
    wholeMoveOf (.vlr 0 4 10) ≠ none ∧ ¬ LoanFits (.vlr 0 4 10) lending.hart ∧ classOf (.vfadd 0 0 4 2 3) = some .arith ∧
    ¬ LoanFits (.vfadd 0 0 4 2 3) lending.hart ∧ lending.hart.vtype.getLsbD 63 = false ∧
    lending.hart.vl.toNat ≤ vlmax lending.hart.vtype lending.hart.c ∧
    ∃ x, askedOf (.vfadd 0 0 4 2 3) lending.hart = some x ∧ x.ok ∧
      GroupsFit (.vfadd 0 0 4 2 3) { lending.hart with loan := none } x := by
  have f {i : Instr} (m : masked i = false) : ¬ LoanFits i lending.hart := fun h =>
    absurd (h _ rfl (by decide)) (by rw [m]; decide)
  refine ⟨⟨rfl, rfl, by decide⟩, rfl, ⟨rfl, rfl, rfl, by decide, bench_settled⟩, rfl, rfl, rfl, nofun, f rfl, rfl, f rfl, by decide,
    by decide, _, rfl, ?_, by decide, ⟨by decide, ?_⟩, nofun⟩
  · show 0x35 ∈ wideFloatCodes
    decide
  · show ∀ x ∈ [((2 : BitVec 5), 1, false), (3, 1, false)], _
    decide
theorem hyp_tile_shape : fieldOf 0x8400013 8 2 ≤ 2 ∧ fieldOf 0x84000013 0 8 ∈ [0x13, 0x14, 0x23, 0x24, 0x81] ++ slicedCodes ∧
    fieldOf 0x84000013 24 8 ∈ [0x13, 0x14, 0x23, 0x24, 0x81] ++ slicedCodes ∧ inLanes.hart.loan = none ∧
    JoinsConvoy (.tshp 1 31) .feed inLanes.hart [.feed] ∧
    inLanes.hart.vl.toNat ≤ vlmax 0x84000013 inLanes.hart.c := by
  refine ⟨by decide, by decide, by decide, rfl, rfl, by decide⟩
theorem hyp_whole_moves : wholeMoveOf (.vsr 0 4 10) = some (.store, 10) ∧ InLanes inLanes.hart ∧
    inLanes.hart.loan = none ∧ JoinsConvoy (.vsr 0 4 10) .store inLanes.hart [.store] ∧ inLanes.hart.queue.length < 64 := by
  refine ⟨rfl, ⟨rfl, rfl, by decide⟩, rfl, rfl, by decide⟩
theorem hyp_vector_readers : inLanes.hart.vloc = 1 ∧ inLanes.hart.share ≠ 0 ∧ inLanes.hart.queue = [] ∧
    inLanes.hart.vtype.getLsbD 63 = false ∧ ETy.ofCode (fieldOf inLanes.hart.vtype 0 8) = some (.flt .fp32) := by
  refine ⟨rfl, by decide, rfl, by decide, rfl⟩

/-- An entry of the queue as the hart captures it under a VTYPE, with one scalar operand. -/
def entryOf (i : Instr) (vtype tshp : Word) (op : Operand) : QEntry :=
  { entryFor i .arith ⟨[], [], True, [], fun _ => True⟩ bench.hart 0 with
    vl := 4, vtype := vtype, tshp := tshp, ops := #v[op, ⟨8, none⟩, ⟨0, none⟩] }

/-- The hart in lanes with one queued entry. -/
def queued (e : QEntry) : State := { inLanes with hart := { inLanes.hart with queue := [e] } }
theorem queued_issues (e : QEntry) (hd : e.done = false := by rfl) : SoleIssuer 0 (queued e) e :=
  ⟨rfl, rfl, rfl, hd, fun _ => rfl, noMember, noMember⟩
theorem queued_images (e : QEntry) : RegistersOk (queued e).hart := by
  show ∀ r : Fin 32, Memory.wf inLanes.hart.vreg[r].img = true
  decide

/-- A copy register and a mask register lent. -/
def lent (e : QEntry) : QEntry := { e with loan := some ⟨2, true, 6⟩ }
/-- Elements from the second element group on. -/
def secondGroup (e : QEntry) : QEntry := { e with start := 1024, vl := 2500 }
theorem hyp_integer_elements : let e := secondGroup (lent (entryOf (.vsadd 0 1 4 2 3) 0x23 0 ⟨0, none⟩))
    SoleIssuer 0 (queued e) e ∧ e.vtype.getLsbD 63 = false ∧ ETy.ofCode (fieldOf e.vtype 0 8) = some (.sint 8) ∧
    RowTakes e (.sint 8) ∧ (integerLane e (.sint 8) (queued e).hart).isSome = true ∧
    RegistersOk (queued e).hart ∧ e.start < e.vl ∧ e.vl ≤ vlmax e.vtype (queued e).hart.c ∧
    groupEndOf (.sint 8) e.start e.vl = 2048 ∧ Aligned e 4 (2 ^ fieldOf e.vtype 8 2) := by
  refine ⟨queued_issues _, by decide, rfl, ⟨rfl, by decide⟩, rfl, queued_images _, by decide, by decide, by decide, ?_⟩
  show ∀ r ∈ [(4 : BitVec 5), 6], _
  decide
theorem hyp_predicate_results : let e := entryOf (.vcmplt 0 1 11 2 3) 0x23 0 ⟨0, none⟩
    SoleIssuer 0 (queued e) e ∧ ETy.ofCode (fieldOf e.vtype 0 8) = some (.sint 8) ∧
    (predicateLane e (.sint 8) (queued e).hart).isSome = true ∧ e.start = 0 ∧ e.vl ≤ vlmax e.vtype (queued e).hart.c ∧
    (11 : BitVec 5).toNat < 12 ∧ Memory.wf ((queued e).hart.kreg.toList.getD 11 []) = true := by
  refine ⟨queued_issues _, rfl, rfl, rfl, by decide, by decide, by decide⟩
theorem hyp_float_elements : let e := secondGroup (lent (entryOf (.vfcvti 0 1 4 2) 0x35000123 0 ⟨0, none⟩))
    SoleIssuer 0 (queued e) e ∧ ETy.ofCode (fieldOf e.vtype 0 8) = some (.sint 8) ∧ FloatRowTakes e (.sint 8) ∧
    e.vtype.getLsbD 63 = false ∧ (floatLane e (.sint 8) (queued e).hart).isSome = true ∧
    RegistersOk (queued e).hart ∧ e.start < e.vl ∧ e.vl ≤ vlmax e.vtype (queued e).hart.c ∧
    Aligned e 4 (2 ^ fieldOf e.vtype 8 2) := by
  refine ⟨queued_issues _, rfl, ⟨rfl, rfl, rfl⟩, by decide, rfl, queued_images _, by decide, by decide, ?_⟩
  show ∀ r ∈ [(4 : BitVec 5), 6], _
  decide
theorem hyp_float_rows : FloatRowTakes (entryOf (.vfadd 0 1 4 2 3) 0x35 0 ⟨0, none⟩) (.flt .fp32) ∧
    FloatRowTakes (entryOf (.vfsmacc 0 1 4 2 3) 0x8035 0 ⟨0, none⟩) (.flt .fp32) ∧
    (floatLane (entryOf (.vfsmacc 0 1 4 2 3) 0x8035 0 ⟨0, none⟩) (.flt .fp32) bench.hart).isSome = true := by
  refine ⟨?_, rfl, rfl⟩
  show 0x35 ∈ wideFloatCodes
  decide
theorem hyp_float_compares : let e := entryOf (.vfcmple 0 1 11 2 3) 0x34 0 ⟨0, none⟩
    SoleIssuer 0 (queued e) e ∧ e.vtype.getLsbD 63 = false ∧ ETy.ofCode (fieldOf e.vtype 0 8) = some (.flt .fp16) ∧
    fieldOf e.vtype 0 8 ∈ wideFloatCodes ∧ floatCompareOf e = some (11, 2, 3, .le) ∧ e.start = 0 ∧
    e.vl ≤ vlmax e.vtype (queued e).hart.c ∧ (11 : BitVec 5).toNat < 12 ∧
    Memory.wf ((queued e).hart.kreg.toList.getD 11 []) = true := by
  refine ⟨queued_issues _, by decide, rfl, by decide, rfl, rfl, by decide, by decide, by decide⟩
theorem hyp_rearrangement : let e := lent (entryOf (.vslideup 0 1 4 2 3) 0x14 0 ⟨3, none⟩)
    SoleIssuer 0 (queued e) e ∧ ETy.ofCode (fieldOf e.vtype 0 8) = some (.uint 16) ∧ RegistersOk (queued e).hart ∧
    e.start < e.vl ∧ e.vl ≤ vlmax e.vtype (queued e).hart.c ∧ Aligned e 4 (2 ^ fieldOf e.vtype 8 2) ∧
    RearrangeTakes e (.uint 16) ∧ (rearranged e (.uint 16) (queued e).hart).isSome = true ∧ e.start = 0 := by
  refine ⟨queued_issues _, rfl, queued_images _, by decide, by decide, ?_, trivial, rfl, rfl⟩
  show ∀ r ∈ [(4 : BitVec 5), 6], _
  decide
theorem hyp_rearrange_rows : RearrangeTakes (entryOf (.vskv 0 0 4 2) 0x13000084 0 ⟨0, none⟩) (.bsint 4) ∧
    (entryOf (.vsel 0 1 4 2 3) 0x35 0 ⟨0, none⟩).instr = .vsel 0 1 4 2 3 := by
  exact ⟨⟨rfl, rfl, rfl, by decide⟩, rfl⟩
theorem hyp_reductions : let e := lent (entryOf (.vredmax 0 1 4 2) 0x23 0 ⟨0, none⟩)
    SoleIssuer 0 (queued e) e ∧ ETy.ofCode (fieldOf e.vtype 0 8) = some (.sint 8) ∧ e.vtype.getLsbD 63 = false ∧
    RegistersOk (queued e).hart ∧ e.vl ≤ vlmax e.vtype (queued e).hart.c ∧ (ETy.sint 8).isFloat = false ∧
    ETy.sint 8 ≠ .bipolar ∧ e.instr = .vredmax 0 1 4 2 ∧ e.start = 0 ∧ Aligned e 4 1 ∧
    fieldOf (0x35 : Word) 0 8 ∈ [0x34, 0x35, 0x44] := by
  refine ⟨queued_issues _, rfl, by decide, queued_images _, by decide, rfl, by decide, rfl, rfl, ?_, by decide⟩
  show ∀ r ∈ [(4 : BitVec 5), 6], _
  decide
/-- Four elements of 0: the list is ranked as it stands. -/
theorem hyp_topk : let e := entryOf (.vtopk 0 0 4 2 5) 0x35 0 ⟨3, none⟩
    (e.ops[0]).val.toNat ≤ (queued e).hart.c / 8 ∧ fieldOf e.vtype 0 8 ∈ [0x35, 0x34, 0x44, 0x13, 0x14, 0x15, 0x23, 0x24, 0x25] ∧
    activeElements e (.flt .fp32) (queued e).hart 2 = [(0, 0), (1, 0), (2, 0), (3, 0)] ∧
    (activeElements e (.flt .fp32) (queued e).hart 2).Pairwise fun p q =>
      ranksAbove (.flt .fp32) p.2 q.2 = true ∨ ranksAbove (.flt .fp32) q.2 p.2 = false ∧ p.1 < q.1 := by
  have h : activeElements (entryOf (.vtopk 0 0 4 2 5) 0x35 0 ⟨3, none⟩) (.flt .fp32) inLanes.hart 2 =
      [(0, 0), (1, 0), (2, 0), (3, 0)] := by decide
  refine ⟨by decide, by decide, h, ?_⟩
  have h' : activeElements (entryOf (.vtopk 0 0 4 2 5) 0x35 0 ⟨3, none⟩) (.flt .fp32)
      (queued (entryOf (.vtopk 0 0 4 2 5) 0x35 0 ⟨3, none⟩)).hart 2 = [(0, 0), (1, 0), (2, 0), (3, 0)] := h
  rw [h']
  decide
theorem hyp_matrix_feeds : let e := entryOf (.mopk 0 1 3 2 4) 0x23 0x84238020 ⟨0, none⟩
    SoleIssuer 0 (queued e) e ∧ feedOf e = some (3, 2, 4, false, 128) ∧ e.start = 0 ∧ 0 < tileRows e ∧
    ShapeKind e false ∧ tileRows e * e.vl ≤ (queued e).hart.c / 4 ∧ Memory.wf (queued e).hart.tile[3] = true ∧
    ShapeKind (entryOf (.mxacc 0 1 3 2 4) 0x23 0x34340420 ⟨0, none⟩) true := by
  refine ⟨queued_issues _, rfl, rfl, by decide, ?_, by decide, rfl, ?_⟩
  · unfold ShapeKind; decide
  · unfold ShapeKind; decide
theorem hyp_matrix_moves : let e := lent (entryOf (.mdrain 0 1 3 6) 0x35 0x84238020 ⟨0, none⟩)
    SoleIssuer 0 (queued e) e ∧ e.start = 0 ∧ Memory.wf (queued e).hart.tile[3] = true ∧ RegistersOk (queued e).hart ∧
    0 < tileRows e ∧ tileRows e * e.vl ≤ (queued e).hart.c / 4 ∧ e.instr = .mdrain 0 1 3 6 ∧ ShapeKind e false := by
  refine ⟨queued_issues _, rfl, rfl, queued_images _, by decide, by decide, rfl, ?_⟩
  unfold ShapeKind; decide

/-! ### Places of memory without forwarding -/

theorem forward_free (s : State) (h : s.fwd = Vector.replicate 64 .free) (k : Nat) : s.forward k = k := by
  unfold State.forward State.fwdAt
  rw [h]
  rfl

theorem key_low (s : State) (c : BitVec 8) (a : Nat) (h : a < 12 * 2 ^ 37) : s.key c a = a := by
  have e : regionOf a = .hbm (a / 2 ^ 37) (a % 2 ^ 37) := if_pos h
  have hc : s.canon a = a := by unfold State.canon; rw [e]
  unfold State.key
  simp only [hc, e]

/-- Without forwarding an access to HBM is performed at its own address. -/
theorem performedAt_low (s : State) (h : s.fwd = Vector.replicate 64 .free) (a : Nat) (ha : a < 12 * 2 ^ 37) :
    performedAt s a = a := by
  unfold performedAt
  rw [key_low s _ a ha, forward_free s h]

theorem local_low (s : State) (a : Nat) (ha : a < 12 * 2 ^ 37) : LocalMemory s a := by
  have e : regionOf a = .hbm (a / 2 ^ 37) (a % 2 ^ 37) := if_pos ha
  have hc : s.canon a = a := by unfold State.canon; rw [e]
  exact .inl ⟨_, _, by rw [hc, e]⟩

/-- A place of HBM through a slot word of KEYID 0, of a hart of world 0 and without forwarding. -/
theorem plain_low (s : State) (p : SlotRef × Nat) (n : Nat) (hk : p.1.word.keyid = 0)
    (hf : s.fwd = Vector.replicate 64 .free) (hw : s.ctx.world = 0) (hl : s.lost = [])
    (hn : p.2 + n < 12 * 2 ^ 37) : PlainPlace s p n := by
  refine ⟨hk, ?_, local_low s _ (by omega), fun o ho => ⟨local_low s _ (by omega), .inl hw⟩, fun o q ho hq h => ?_,
    fun o _ => by rw [hl]; exact List.not_mem_nil⟩
  · intro e he
    rw [hf] at he
    have := Vector.mem_replicate.1 (Vector.mem_toList_iff.1 he)
    rw [this.2]
    rfl
  · rw [performedAt_low s hf _ (by omega), performedAt_low s hf _ (by omega)] at h
    omega

/-- An access within the data passes its probe, whatever asks. -/
theorem probe_data (s : State) (hw : s.slotWordAt s.ctx.core s.ctx.table 2 = some dataSlot) (hr : s.retired = [])
    (hl : s.slotLost s.ctx.core s.ctx.table 2 = none)
    (a n al : Nat) (need : BitVec 4) (plain host raw : Bool) (h1 : 0x20000 ≤ a) (h2 : a + n ≤ 0x30000)
    (h3 : a % al = 0) (h4 : need &&& 7 = need) :
    s.probe s.ctx ⟨2, a, n, al, need, plain, host, raw⟩ = .ok ⟨2, dataSlot⟩ := by
  have e : regionOf a = .hbm (a / 2 ^ 37) (a % 2 ^ 37) := if_pos (by omega)
  have hc : s.canon a = a := by unfold State.canon; rw [e]
  have hp : s.populated a n = true := by
    have hq : s.populated a n = (decide (a % 2 ^ 37 + n ≤ stackBytes) && !s.dieDown (a / 2 ^ 37 / 3)) := by
      unfold State.populated
      simp only [hc, e]
    have hd : s.dieDown (a / 2 ^ 37 / 3) = false := by
      unfold State.dieDown
      rw [hr]
      rfl
    rw [hq, hd, decide_eq_true (by unfold stackBytes; omega)]
    rfl
  have hg : s.gone a n = false := by
    unfold State.gone
    rw [hc, e]
  have hk : s.keyAvailable s.ctx dataSlot a = true := by
    unfold State.keyAvailable
    simp only [hc, e]
    rfl
  have hb : ¬ (a < dataSlot.lo ∨ dataSlot.lo + dataSlot.len.toNat < a + n) := by
    have e1 : dataSlot.lo = 0x20000 := rfl
    have e2 : dataSlot.len.toNat = 0x10000 := rfl
    rw [e1, e2]
    omega
  have h5 : need &&& dataSlot.rights = need := h4
  have h6 : dataSlot.state ≠ 1 := by decide
  unfold State.probe
  simp only [hw, hp, hg, hk, hl, hc, e, h3]
  generalize dataSlot = w at *
  simp only [not_or] at hb
  simp [h5, hb.1, hb.2]
  exact h6

/-- A structure in the data, read as aligned words. -/
theorem struct_data (s : State) (hw : s.slotWordAt s.ctx.core s.ctx.table 2 = some dataSlot) (hr : s.retired = [])
    (hz : s.slotLost s.ctx.core s.ctx.table 2 = none)
    (hh : s.ctx.world = 0) (a n : Nat) (bs : List Byte) (h1 : 0x20000 ≤ a) (h2 : a + n ≤ 0x30000) (h3 : a % 8 = 0)
    (hn : n % 8 = 0) (hl : bs.length = n) (hb : s.readBytes s.ctx dataSlot a n = some bs) :
    StructAt s (some 2) a n bs :=
  ⟨hl, ⟨2, dataSlot⟩, fun o ho h => probe_data s hw hr hz _ _ _ _ _ _ _ (by omega) (by omega) (by omega) rfl,
    local_low s a (by omega), .inl hh, hb⟩

/-! ### Vector accesses, streams and transfers -/

/-- `vld v4` and `vst v4` of four words of the data. -/
def loading : QEntry := entryOf (.vld 0 0 4 10 0) 0x35 0 ⟨0x20000, some 2⟩
def storing : QEntry := entryOf (.vst 0 0 4 10 0) 0x35 0 ⟨0x20000, some 2⟩
/-- Each of the four elements of `loading` and `storing` is one of these. -/
theorem four {e : QEntry} {h : Hart} (hv : e.vl = 4) {i : Nat} (hi : Accessed e h i) : i = 0 ∨ i = 1 ∨ i = 2 ∨ i = 3 := by
  have := hi.2.1
  omega
theorem hyp_vector_loads : let e := loading
    let addr (i : Nat) : Word := 0x20000 + BitVec.ofNat 64 (i * 4)
    SoleIssuer 0 (queued e) e ∧ e.vtype.getLsbD 63 = false ∧ ETy.ofCode (fieldOf e.vtype 0 8) = some (.flt .fp32) ∧
    (ETy.flt .fp32).byteWidth = true ∧ vectorLoadOf e (queued e).hart 4 = some (4, addr) ∧
    RangePasses (queued e) e 4 needRead addr ⟨2, dataSlot⟩ ∧ RegistersOk (queued e).hart ∧ Aligned e 4 1 ∧
    ∀ i, Accessed e (queued e).hart i → NoHeldWrite (queued e) (addr i).toNat 4 ∧
      ((queued e).readBytes (queued e).ctx dataSlot (addr i).toNat 4).isSome = true := by
  refine ⟨queued_issues _, by decide, rfl, rfl, rfl, ⟨by decide, by decide, rfl, fun i hi => ?_, .inr ⟨rfl, fun i hi w => ?_⟩⟩,
    queued_images _, ?_, fun i hi => ⟨.inl rfl, ?_⟩⟩
  · obtain rfl | rfl | rfl | rfl := four rfl hi
    all_goals exact .inl ⟨_, _, rfl⟩
  · obtain rfl | rfl | rfl | rfl := four rfl hi
    all_goals (cases w <;> rfl)
  · show ∀ r ∈ [(4 : BitVec 5)], _
    decide
  · obtain rfl | rfl | rfl | rfl := four rfl hi
    all_goals rfl
theorem hyp_vector_stores : let e := storing
    let addr (i : Nat) : Word := 0x20000 + BitVec.ofNat 64 (i * 4)
    SoleIssuer 0 (queued e) e ∧ vectorStoreOf e (queued e).hart 4 = some (4, addr) ∧
    RangePasses (queued e) e 4 needWrite addr ⟨2, dataSlot⟩ ∧ Memory.wf (queued e).mem = true ∧ dataSlot.keyid = 0 ∧
    (4 : BitVec 5).toNat % 2 ^ fieldOf e.vtype 8 2 = 0 ∧
    ∀ i, Accessed e (queued e).hart i → NotHeldBack (queued e) (addr i).toNat ∧
      ((queued e).readBytes (queued e).ctx dataSlot (addr i).toNat 4).isSome = true := by
  refine ⟨queued_issues _, rfl, ⟨by decide, by decide, rfl, fun i hi => ?_, .inr ⟨rfl, fun i hi w => ?_⟩⟩,
    bench_memory, rfl, by decide, fun i hi => ⟨.inl rfl, ?_⟩⟩
  · obtain rfl | rfl | rfl | rfl := four rfl hi
    all_goals exact .inl ⟨_, _, rfl⟩
  · obtain rfl | rfl | rfl | rfl := four rfl hi
    all_goals (cases w <;> rfl)
  · obtain rfl | rfl | rfl | rfl := four rfl hi
    all_goals rfl
/-- Entries whose elements 0 and 1 are the last words of the slot, and one whose element 0 is beyond it. -/
def crossing : QEntry := entryOf (.vldff 0 0 4 10 0) 0x35 0 ⟨0x2FFF8, some 2⟩
def outside : QEntry := entryOf (.vldff 0 0 4 10 0) 0x35 0 ⟨0x30000, some 2⟩
theorem hyp_first_fault : let s := queued crossing
    let probe (s : State) (b i : Nat) := s.probe s.ctx ⟨slotIndex (some 2), b + i * 4, 4, 4, needRead, false, true, false⟩
    SoleIssuer 0 s crossing ∧ crossing.start < 2 ∧ 2 ≤ crossing.vl ∧ crossing.vl ≤ vlmax crossing.vtype s.hart.c ∧
    (∀ i, Accessed crossing s.hart i → i < 2 → probe s 0x2FFF8 i = .ok ⟨2, dataSlot⟩ ∧ LocalMemory s (0x2FFF8 + i * 4) ∧
      (s.readBytes s.ctx dataSlot (0x2FFF8 + i * 4) 4).isSome = true) ∧
    Accessed crossing s.hart 2 ∧ probe s 0x2FFF8 2 = .error 3 ∧
    Accessed outside (queued outside).hart 0 ∧ probe (queued outside) 0x30000 0 = .error 3 ∧
    CanTrap (queued outside) ∧ (queued outside).hart.wid = 0 := by
  refine ⟨queued_issues _, by decide, by decide, by decide, fun i hi h2 => ?_, ⟨by decide, by decide, rfl⟩, rfl,
    ⟨by decide, by decide, rfl⟩, rfl, ⟨rfl, rfl, rfl, bench_traps.2.2.2.1, bench_settled⟩, rfl⟩
  obtain rfl | rfl : i = 0 ∨ i = 1 := by omega
  all_goals exact ⟨rfl, .inl ⟨_, _, rfl⟩, rfl⟩
theorem hyp_vector_faults : let e := entryOf (.vst 0 0 4 10 0) 0x35 0 ⟨0x2FFF8, some 2⟩
    let s := queued e
    let probe (j : Nat) := s.probe s.ctx ⟨slotIndex (some 2), 0x2FFF8 + j * 4, 4, 4, needWrite, false, true, false⟩
    SoleIssuer 0 s e ∧ (vectorStoreOf e s.hart 4).isSome = true ∧ e.probed = none ∧ CanTrap s ∧ Accessed e s.hart 2 ∧
    probe 2 = .error 3 ∧ probe 0 = .ok ⟨2, dataSlot⟩ ∧ probe 1 = .ok ⟨2, dataSlot⟩ ∧ s.hart.wid = 0 := by
  exact ⟨queued_issues _, rfl, rfl, ⟨rfl, rfl, rfl, bench_traps.2.2.2.1, bench_settled⟩, ⟨by decide, by decide, rfl⟩,
    rfl, rfl, rfl, rfl⟩
/-- One word added to by index 0. -/
def adding : QEntry := { entryOf (.vamoadd 0 0 4 10 8 0 0) 0x15 0 ⟨0x20000, some 2⟩ with vl := 1 }
theorem hyp_vector_atomics : let s := queued adding
    let addr (i : Nat) : Word := 0x20000 + BitVec.ofNat 64 (readElem s.hart.vreg s.hart.c 8 (.uint 32) i)
    SoleIssuer 0 s adding ∧ (vectorAtomicOf adding (.uint 32) s.hart).isSome = true ∧ adding.answer = none ∧
    s.amoHeld ⟨s.hart.ser, adding.addr, some adding.start⟩ = false ∧ s.owedTo ⟨s.hart.ser, adding.addr, some adding.start⟩ = none ∧ RangePasses s adding 4 needAtomic addr ⟨2, dataSlot⟩ ∧ RegistersOk s.hart ∧
    Memory.wf s.mem = true ∧ Aligned adding 4 1 ∧ dataSlot.keyid = 0 ∧
    (∀ i, Accessed adding s.hart i → NotHeldBack s (addr i).toNat ∧ NoHeldWrite s (addr i).toNat 4 ∧
      (s.readBytes s.ctx dataSlot (addr i).toNat 4).isSome = true) ∧
    ∀ i j, Accessed adding s.hart i → Accessed adding s.hart j → i = j := by
  have z {i : Nat} (h : Accessed adding (queued adding).hart i) : i = 0 := by have : i < 1 := h.2.1; omega
  refine ⟨queued_issues _, rfl, rfl, rfl, rfl, ⟨by decide, by decide, rfl, fun i hi => ?_, .inr ⟨rfl, fun i hi w => ?_⟩⟩,
    queued_images _, bench_memory, ?_, rfl, fun i hi => ?_, fun i j hi hj => (z hi).trans (z hj).symm⟩
  · obtain rfl := z hi; exact .inl ⟨_, _, rfl⟩
  · obtain rfl := z hi; cases w <;> rfl
  · show ∀ r ∈ [(4 : BitVec 5)], _
    decide
  · obtain rfl := z hi; exact ⟨.inl rfl, .inl rfl, rfl⟩
/-- `mmadd` over four words at three places of the data. -/
def memoryForm : QEntry :=
  { entryOf (.mmadd 0 0 10 12 14 0) 0x15 0 ⟨0, none⟩ with
    ops := #v[⟨0x20000, some 2⟩, ⟨0x20100, some 2⟩, ⟨0x20200, some 2⟩], strides := #v[4, 4, 4] }
theorem hyp_memory_forms : let s := queued memoryForm
    let addr (j : Fin 3) (i : Nat) : Word := (memoryForm.ops[j]).val + BitVec.ofNat 64 i * memoryForm.strides[j]
    SoleIssuer 0 s memoryForm ∧ (memoryFormOf memoryForm (.uint 32)).map Prod.fst = some 2 ∧
    memoryForm.vl ≤ vlmax memoryForm.vtype s.hart.c ∧ memoryForm.probed = none ∧
    (∀ i, Accessed memoryForm s.hart i → ∀ j : Fin 3,
      s.probe s.ctx ⟨slotIndex (memoryForm.ops[j]).tag, (addr j i).toNat, 4, 4, if j.val = 0 then needWrite else needRead,
        false, true, false⟩ = .ok ⟨2, dataSlot⟩) ∧
    Accessed memoryForm s.hart 0 ∧ Memory.wf s.mem = true ∧
    (∀ j : Fin 3, LocalMemory s (addr j 0).toNat ∧ (s.readBytes s.ctx dataSlot (addr j 0).toNat 4).isSome = true ∧
      NoHeldWrite s (addr j 0).toNat 4) ∧ NotHeldBack s (addr 0 0).toNat := by
  refine ⟨queued_issues _, rfl, by decide, rfl, fun i hi j => ?_, ⟨by decide, by decide, rfl⟩, bench_memory, fun j => ?_, .inl rfl⟩
  · obtain rfl | rfl | rfl | rfl := four rfl hi
    all_goals (obtain rfl | rfl | rfl : j = 0 ∨ j = 1 ∨ j = 2 := by omega)
    all_goals rfl
  · obtain rfl | rfl | rfl : j = 0 ∨ j = 1 ∨ j = 2 := by omega
    all_goals exact ⟨.inl ⟨_, _, rfl⟩, rfl, .inl rfl⟩

/-- Its first source runs out of the slot at element 2. -/
def badForm : QEntry := { memoryForm with ops := #v[⟨0x20000, some 2⟩, ⟨0x2FFF8, some 2⟩, ⟨0x20200, some 2⟩] }
theorem hyp_memory_form_faults : let s := queued badForm
    let probe (i : Nat) (j : Fin 3) := s.probe s.ctx ⟨2, ((badForm.ops[j]).val + BitVec.ofNat 64 i * 4).toNat, 4, 4,
      if j.val = 0 then needWrite else needRead, false, true, false⟩
    SoleIssuer 0 s badForm ∧ (memoryFormOf badForm (.uint 32)).map Prod.fst = some 2 ∧ badForm.probed = none ∧
    badForm.vl ≤ vlmax badForm.vtype s.hart.c ∧ CanTrap s ∧ Accessed badForm s.hart 2 ∧ probe 2 1 = .error 3 ∧
    (∀ i, i < 2 → ∀ j : Fin 3, probe i j = .ok ⟨2, dataSlot⟩) ∧ s.hart.wid = 0 := by
  refine ⟨queued_issues _, rfl, rfl, by decide, ⟨rfl, rfl, rfl, by decide, bench_settled⟩, ⟨by decide, by decide, rfl⟩, rfl,
    fun i hi j => ?_, rfl⟩
  obtain rfl | rfl : i = 0 ∨ i = 1 := by omega
  all_goals (obtain rfl | rfl | rfl : j = 0 ∨ j = 1 ∨ j = 2 := by omega)
  all_goals rfl

/-- `readBytes` through a slot word of KEYID 0, where no line is lost, gives the bytes of memory. -/
theorem read_plain (s : State) (c : Ctx) (sw : SlotWord) (hk : sw.keyid = 0) (hl : s.lost = []) (l : List (Nat × Nat)) :
    ∃ bs : List Byte, bs.length = (l.map Prod.snd).sum ∧ l.foldr (fun (b, m) acc =>
      match s.readPart sw.keyid sw.version (s.key c.core b) (b - sw.lo) m, acc with
      | some bs, some t => some (bs ++ t)
      | _, _ => none) (some []) = some bs := by
  induction l with
  | nil => exact ⟨[], rfl, rfl⟩
  | cons p l ih =>
    obtain ⟨bs, hb, h⟩ := ih
    have hr : s.readPart sw.keyid sw.version (s.key c.core p.1) (p.1 - sw.lo) p.2 =
        some (Bytes.read s.mem (s.forward (s.key c.core p.1)) p.2) := by
      unfold State.readPart
      simp [hk, hl]
    refine ⟨Bytes.read s.mem (s.forward (s.key c.core p.1)) p.2 ++ bs, ?_, ?_⟩
    · simp [Bytes.read, hb]
    · simp only [List.foldr_cons, h, hr]
set_option maxRecDepth 40000 in
/-- `vsr v4` and `vlr v4` of a whole register at the start of the data. -/
theorem hyp_whole_effects : let e := entryOf (.vlr 0 4 10) 0x8000000000000000 0 ⟨0x20000, some 2⟩
    let s := queued e
    let passes (need : BitVec 4) := s.probe s.ctx ⟨slotIndex (some 2), 0x20000, s.hart.c, 64, need, false, true, false⟩
    SoleIssuer 0 s e ∧ e.start = 0 ∧ s.hart.view = .own ∧ s.hart.hm = false ∧ s.hart.share ≠ 0 ∧ s.hart.share.toNat ≤ 4 ∧
    passes needWrite = .ok ⟨2, dataSlot⟩ ∧ Memory.wf s.mem = true ∧ PlainPlace s (⟨2, dataSlot⟩, 0x20000) s.hart.c ∧
    passes needRead = .ok ⟨2, dataSlot⟩ ∧ (∃ bs, ReadsAs s (⟨2, dataSlot⟩, 0x20000) s.hart.c bs) ∧
    wholeMoveOf e.instr ≠ none ∧ (0x20008 : Nat) % 64 ≠ 0 ∧ CanTrap s := by
  refine ⟨queued_issues _, rfl, rfl, rfl, by decide, by decide, rfl, bench_memory,
    plain_low _ _ _ rfl rfl rfl rfl (by show 0x20000 + 16384 < _; omega), rfl, ?_, nofun, by decide,
    ⟨rfl, rfl, rfl, bench_traps.2.2.2.1, bench_settled⟩⟩
  obtain ⟨bs, hl, h⟩ := read_plain (queued (entryOf (.vlr 0 4 10) 0x8000000000000000 0 ⟨0x20000, some 2⟩)) bench.ctx dataSlot rfl rfl
    (linesOf 0x20000 16384)
  exact ⟨bs, hl.trans (by decide), .inl ⟨_, _, rfl⟩, .inl rfl, h⟩

/-- x10 and x3 bind three words of the data at stride 0; x1 is misaligned; a state whose VTYPE is invalid. -/
theorem hyp_stream_binding : NoOlderRead inLanes.hart 0 ∧ (inLanes.hart.xr 0).toNat % 2 ^ 32 = 0 ∧
    (inLanes.hart.xr 3).toNat % 2 ^ 32 ≠ 0 ∧ inLanes.hart.vtype.getLsbD 63 = false ∧
    ETy.ofCode (inLanes.hart.vtype.toNat % 2 ^ 8) = some (.flt .fp32) ∧ (ETy.flt .fp32).byteWidth = true ∧
    (inLanes.hart.xr 10).toNat % 4 = 0 ∧ (inLanes.hart.xr 1).toNat % 4 ≠ 0 ∧ CanTrap inLanes ∧
    inLanes.probe inLanes.ctx ⟨slotIndex (inLanes.hart.tagOf 10), 0x20000, 4, 1, needRead, false, true, false⟩ =
      .ok ⟨2, dataSlot⟩ ∧ bench.hart.vtype.getLsbD 63 = true ∧ CanTrap bench ∧
    inLanes.probe inLanes.ctx ⟨slotIndex (inLanes.hart.tagOf 1), 0, 4, 1, needRead, false, true, false⟩ = .error 3 ∧
    ¬ NoOlderRead (queued (entryOf (.vqrd 0 0 4 0 0) 0x35 0 ⟨0, none⟩)).hart 0 := by
  refine ⟨noMember, rfl, by decide, by decide, rfl, rfl, by decide, by decide, inLanes_traps, rfl, by decide, bench_traps, rfl,
    fun h => h _ (List.mem_singleton_self _) 0 0 4 0 0 rfl rfl⟩

/-- A stream of two elements bound to the data, of which one has arrived. -/
def dataStream : Stream := ⟨true, 0, ⟨0x20000, some 2⟩, 4, 2, 0x25, 0, [7], false, some ⟨2, dataSlot⟩⟩
def streaming (b : Stream) : State := { inLanes with hart := { inLanes.hart with streams := inLanes.hart.streams.set 0 b } }
theorem hyp_stream_reads : NoOlderRead (streaming dataStream).hart 0 ∧ dataStream.bound = true ∧
    dataStream.pos.toNat < dataStream.extent.toNat ∧ dataStream.ready = [7] ∧
    ({ dataStream with ready := [] } : Stream).ready = [] ∧
    ¬ ({ dataStream with pos := 2 } : Stream).pos.toNat < dataStream.extent.toNat ∧ inLanes.hart.streams[1].bound = false ∧
    CanTrap inLanes ∧ ({ dataStream with ready := [], failed := true } : Stream).failed = true ∧
    inLanes.probe (inLanes.hart.streamCtx dataStream) ⟨slotIndex (some 2), 0x30000, 4, 1, needRead, false, true, false⟩ =
      .error 3 ∧
    inLanes.probe (inLanes.hart.streamCtx dataStream) ⟨slotIndex (some 2), 0x20000, 4, 1, needRead, false, true, false⟩ =
      .ok ⟨2, dataSlot⟩ := by
  refine ⟨noMember, rfl, by decide, rfl, rfl, by decide, rfl, inLanes_traps, rfl, rfl, rfl⟩

/-- A queued read of that stream. -/
def streamRead : QEntry := entryOf (.vqrd 0 0 4 0 0) 0x25 0 ⟨0, none⟩
def streamReading (b : Stream) : State := { queued streamRead with hart := (queued streamRead).hart.setStream 0 b }
theorem hyp_vector_stream_reads : (∀ b, SoleIssuer 0 (streamReading b) streamRead) ∧ streamRead.vtype.getLsbD 63 = false ∧
    ETy.ofCode (fieldOf streamRead.vtype 0 8) = some (.sint 32) ∧ streamRead.start = 0 ∧
    streamRead.vl ≤ vlmax streamRead.vtype inLanes.hart.c ∧ RegistersOk (streamReading dataStream).hart ∧
    Aligned streamRead 4 1 ∧ (streamReading dataStream).hart.streams[0] = dataStream ∧ ETy.ofCode dataStream.et.toNat = some (.sint 32) ∧
    (streamReading { dataStream with ready := [] }).streamFail { dataStream with ready := [] } = none ∧
    (streamReading .unbound).hart.streams[0].bound = false ∧ CanTrap (streamReading .unbound) := by
  refine ⟨fun b => ⟨rfl, rfl, rfl, rfl, fun _ => rfl, noMember, noMember⟩, by decide, rfl, rfl, by decide, queued_images streamRead, ?_, rfl, rfl, rfl,
    rfl, inLanes_traps⟩
  show ∀ r ∈ [(4 : BitVec 5)], _
  decide

/-- A load, and a move after it in its convoy that nothing in it concerns. -/
def twoEntries : State :=
  { inLanes with hart := { inLanes.hart with
    queue := [{ entryOf (.vld 0 0 4 10 0) 0x35 0 ⟨0x20000, some 2⟩ with cls := .load },
      entryOf (.vmvx 0 0 8 10) 0x35 0 ⟨5, none⟩] } }
theorem hyp_issue_order : twoEntries.mayOvertake 1 = true ∧ (issueEntry 1 twoEntries).isSome = true ∧
    (twoEntries.issueOrder 0).length = 2 := by
  refine ⟨rfl, rfl, rfl⟩
/-- A queued instruction that has yet to write element 0 of v4, or predicate 3. -/
theorem hyp_vector_readers_wait : (queued (entryOf (.vadd 0 0 4 2 3) 0x25 0 ⟨0, none⟩)).hart.elemBusy 4 = true ∧
    inLanes.hart.elemBusy 4 = false ∧
    ∃ e ∈ (queued (entryOf (.kset 0 0 3) 0x25 0 ⟨0, none⟩)).hart.queue, ∃ k, destOf e.instr = .pred k ∧ k.toNat = 3 :=
  ⟨rfl, rfl, _, List.mem_singleton_self _, _, rfl, rfl⟩
theorem hyp_privileged_patches : tenant.hart.world0 = false ∧ CanTrap tenant := ⟨rfl, tenant_traps⟩

theorem hyp_completion_waits : NoOlderWriter inLanes.hart 3 ∧ (inLanes.hart.xr 0).toNat = 0 ∧
    (inLanes.hart.xr 1).toNat ≠ 0 ∧ (inLanes.hart.xr 3).toNat + (inLanes.hart.xr 1).toNat ≤ 8 * inLanes.hart.c ∧
    inLanes.hart.kbit 3 3 = false ∧ 8 * inLanes.hart.c < (inLanes.hart.xr 2).toNat + (inLanes.hart.xr 1).toNat ∧
    CanTrap inLanes := by
  refine ⟨noMember, rfl, by decide, by decide, by decide, by decide, inLanes_traps⟩
/-- A predicate whose first byte is all ones. -/
theorem hyp_completion_done : ∀ i, i < 7 →
    ({ inLanes.hart with kreg := inLanes.hart.kreg.set 3 [(0, 0xFF)] } : Hart).kbit 3 (0 + i) = true := by decide
theorem hyp_watermarks : inGang.gang inGang.hart.gid = some soloGang ∧ AllPerformed inGang ∧ ¬ AllPerformed vectorBusy := by
  refine ⟨rfl, ⟨rfl, noMember, noMember, noMember⟩, fun h => (h.2.2.1 _ (List.mem_singleton_self _)).2 rfl⟩
theorem hyp_hints : bench.hart.world0 = true ∧ AllPerformed bench ∧ (bench.hart.xr 0).toNat % 512 = 0 := by
  refine ⟨rfl, ⟨rfl, noMember, noMember, noMember⟩, rfl⟩

/-- A copy of four words from the data to 0x20200, in pieces of 64 bytes. -/
def copying : State :=
  { inLanes with hart := { inLanes.hart with x := inLanes.hart.x.set 11 0x20200, tag := inLanes.hart.tag.set 11 (some 2) } }
theorem hyp_block_copies : copying.hart.vl ≠ 0 ∧ NoOlderWriter copying.hart 3 ∧
    (3 : BitVec 4).toNat < 12 ∧ Memory.wf (copying.hart.kreg.toList.getD 3 []) = true ∧
    copying.hart.vtype.getLsbD 63 = false ∧ copying.hart.btctl.toNat / 2 ^ 8 % 16 ≤ 9 ∧
    copying.probe copying.ctx ⟨2, 0x20000, 16, 1, needRead, false, true, true⟩ = .ok ⟨2, dataSlot⟩ ∧
    copying.probe copying.ctx ⟨2, 0x20200, 16, 1, needWrite, false, true, true⟩ = .ok ⟨2, dataSlot⟩ ∧
    copying.rawCopy 2 2 = true ∧ 0 + 1 ≤ 8 * copying.hart.c ∧
    copying.rangesMeet copying.hart.core 0x20000 16 0x20200 16 = false ∧ bench.hart.vl = 0 ∧
    inLanes.probe inLanes.ctx ⟨slotIndex (inLanes.hart.tagOf 11), 0, 4, 1, needWrite, false, true, false⟩ = .error 3 ∧
    CanTrap inLanes ∧ inLanes.hart.wid = 0 := by
  refine ⟨by decide, noMember, by decide, rfl, by decide, by decide, rfl, rfl, rfl, by decide, rfl, rfl, rfl, inLanes_traps, rfl⟩

/-- Rows of 8 bytes by the register v0, which holds zeros; BASE 0. -/
def gathering : State := { copying with hart := { copying.hart with btctl := 0x800000000 } }
theorem hyp_row_gathers : NoOlderVector gathering.hart 0 ∧ NoOlderWriter gathering.hart 3 ∧ Memory.wf (gathering.hart.kreg.toList.getD 3 []) = true ∧
    gathering.hart.btctl.toNat / 2 ^ 32 = 8 ∧ gathering.hart.vl.toNat ≤ gathering.hart.c / 4 ∧
    (∀ i, i < 4 → readElem gathering.hart.vreg gathering.hart.c 0 (.uint 32) i = 0) ∧
    (∀ i, i < 4 →
      gathering.probe gathering.ctx ⟨2, 0x20000, 8, 1, needRead, false, true, false⟩ = .ok ⟨2, dataSlot⟩ ∧
      gathering.probe gathering.ctx ⟨2, 0x20200 + 8 * i, 8, 1, needWrite, false, true, false⟩ = .ok ⟨2, dataSlot⟩) ∧
    ∀ i, i < 4 → gathering.rangesMeet gathering.hart.core 0x20000 8 (0x20200 + 8 * i) 8 = false := by
  refine ⟨noMember, noMember, rfl, rfl, by decide, by decide, fun i h => ⟨rfl, ?_⟩, by decide⟩
  exact probe_data _ rfl rfl rfl _ _ _ _ _ _ _ (by omega) (by omega) (by omega) rfl

/-! ### Near-memory queries, products and maps -/

/-- A descriptor of one node of four INT8 elements at offset 0x400, a map of 2 rows and 4 columns of type 0x50, a query
packet and a product packet. -/
def descriptor : List Byte :=
  [1, 0x23, 0, 0, 4, 0, 1, 0, 1, 0, 0, 0, 0, 0, 0, 0, 0, 0, 0, 0, 2, 0, 0, 0] ++ Crypto.leBytes 8 0x400 ++
    Crypto.leBytes 8 0x500 ++ Crypto.leBytes 4 4 ++ Crypto.leBytes 4 8 ++ List.replicate 16 0
def mapBytes (staged : Byte) : List Byte :=
  [1, 0x50, 0, staged, 2, 0, 0, 0, 4, 0, 2, 0, 2, 0, 0, 0, 3, 0, 0, 0, 4, 0, 0, 0, 64, 0, 0, 0] ++ List.replicate 36 0
def queryPacket : List Byte :=
  [2, 0, 0, 0, 1, 0, 1, 0, 1, 0, 0, 0, 0xFF, 0xFF, 0xFF, 0xFF, 0, 0, 0, 0, 2, 0, 0, 0] ++ Crypto.leBytes 8 0x200 ++
    Crypto.leBytes 8 2 ++ Crypto.leBytes 8 0x300 ++ List.replicate 16 0
def productPacket : List Byte :=
  [2, 0, 0, 0, 2, 0, 0, 0, 2, 0, 0, 0, 0, 0, 0, 0] ++ Crypto.leBytes 8 0x100 ++ Crypto.leBytes 8 0x200 ++
    Crypto.leBytes 8 0x600 ++ List.replicate 8 0

/-- The table with slot 3 over 0x60000 and slot 4 over 0x70000 too, and the four structures in the data. -/
def engineMemory (staged : Byte) : Bytes :=
  Bytes.write (Bytes.write (Bytes.write [] 0x8000 (Crypto.leBytes 8 0 ++ Crypto.leBytes 4 4 ++ tableBytes.drop 12))
    0x8070 (Crypto.leBytes 16 (slotAt 0x60000 7).toNat ++ Crypto.leBytes 16 (slotAt 0x70000 7).toNat)) 0x20000
    (descriptor ++ List.replicate 192 0 ++ mapBytes staged ++ queryPacket ++ productPacket)

/-- The hart in lanes with x11, x12 and x13 at the map, the query packet and the product packet. -/
def engines (staged : Byte) : State :=
  { inLanes with
    hart := { inLanes.hart with
      x := inLanes.hart.x.set 11 0x20100 |>.set 12 0x20140 |>.set 13 0x20180
      tag := inLanes.hart.tag.set 11 (some 2) |>.set 12 (some 2) |>.set 13 (some 2) }
    mem := engineMemory staged }

set_option maxRecDepth 20000 in
theorem engine_memory : Memory.wf (engineMemory 0) = true ∧ Memory.wf (engineMemory 1) = true := by decide

def testMap (staged : Byte) : MapBlock := ⟨0x20100, 2, mapBytes staged⟩
def testSpans : List (SlotRef × Nat) :=
  [(⟨2, dataSlot⟩, 0x20000), (⟨3, slotAt 0x60000 7⟩, 0x60000), (⟨4, slotAt 0x70000 7⟩, 0x70000)]

set_option maxRecDepth 20000 in
theorem map_ready (staged : Byte) (h : staged = 0 ∨ staged = 1) :
    MapWritable (engines staged) 11 (testMap staged) testSpans ⟨2, dataSlot⟩ := by
  rcases h with rfl | rfl
  all_goals
    refine ⟨⟨rfl, by decide, rfl, rfl, struct_data _ rfl rfl rfl rfl _ _ _ (by decide) (by decide) (by decide) (by decide) rfl rfl,
      rfl, rfl, rfl, rfl⟩, rfl⟩

set_option maxRecDepth 20000 in
theorem hyp_map_counters : MapReady (engines 0) 11 (testMap 0) testSpans ∧ Fresh (engines 0) ∧
    Memory.wf (engines 0).mem = true ∧ PlainPlace (engines 0) (spanAt testSpans 1) (2 * (testMap 0).rows) ∧
    ReadsAs (engines 0) (spanAt testSpans 1) (2 * (testMap 0).rows) [0, 0, 0, 0] ∧
    NoOlderWriter (engines 0).hart 3 ∧ ∀ i, i < (engines 0).hart.vl.toNat → (engines 0).hart.kbit 3 i = false := by
  refine ⟨(map_ready 0 (.inl rfl)).1, ⟨bench_prompt, rfl⟩, engine_memory.1, plain_low _ _ _ rfl rfl rfl rfl (by show 0x60000 + 4 < _; omega),
    ⟨rfl, local_low _ _ (by show 0x60000 < _; omega), .inl rfl, rfl⟩, noMember, by decide⟩
theorem hyp_map_staging : MapWritable (engines 0) 11 (testMap 0) testSpans ⟨2, dataSlot⟩ ∧ Fresh (engines 0) ∧
    1 ≤ (testMap 0).hmax ∧ 1 ≤ (testMap 0).rows ∧
    (∀ p ∈ (engines 0).products ((engines 0).mapKey (testMap 0)), p.half ≠ 1 - (testMap 0).cur) ∧
    (engines 0).copying ((engines 0).mapKey (testMap 0)) = false ∧
    (engines 0).mapHeld (spanAt testSpans 1).2 (2 * (testMap 0).rows) = false ∧ (engines 0).mapHeld 0x700C0 4 = false ∧
    (engines 0).mapHeld (testMap 0).addr 64 = false ∧
    PlainPlace (engines 0) ((spanAt testSpans 2).1, 0x70000 + 192) (4 * 1) ∧
    PlainPlace (engines 0) (⟨2, dataSlot⟩, (testMap 0).addr) 64 ∧
    ∀ o q, o < 4 * 1 → q < 64 → performedAt (engines 0) (0x70000 + 192 + o) ≠ performedAt (engines 0) (0x20100 + q) := by
  refine ⟨map_ready 0 (.inl rfl), ⟨bench_prompt, rfl⟩, by decide, by decide, noMember, rfl, rfl, rfl, rfl, plain_low _ _ _ rfl rfl rfl rfl (by show 0x700C0 + 4 < _; omega),
    plain_low _ _ _ rfl rfl rfl rfl (by show 0x20100 + 64 < _; omega), fun o q ho hq => ?_⟩
  rw [performedAt_low _ rfl _ (by omega), performedAt_low _ rfl _ (by omega)]
  omega
theorem hyp_map_commit : MapWritable (engines 1) 11 (testMap 1) testSpans ⟨2, dataSlot⟩ ∧ Fresh (engines 1) ∧
    Memory.wf (engines 1).mem = true ∧ (engines 1).copying ((engines 1).mapKey (testMap 1)) = false ∧
    PlainPlace (engines 1) (⟨2, dataSlot⟩, (testMap 1).addr) 64 ∧ (testMap 1).staged = 1 ∧ (testMap 0).staged ≠ 1 := by
  refine ⟨map_ready 1 (.inr rfl), ⟨bench_prompt, rfl⟩, engine_memory.2, rfl, plain_low _ _ _ rfl rfl rfl rfl (by show 0x20100 + 64 < _; omega), rfl, by decide⟩

def testDesc : Desc := ⟨0, 0x20000, descriptor⟩
set_option maxRecDepth 20000 in
theorem hyp_near_search : let s := engines 0
    NoOlderWriter s.hart 3 ∧ Fresh s ∧
    Memory.wf (s.hart.kreg.toList.getD 3 []) = true ∧ StructAt s (s.hart.tagOf 12) 0x20140 64 queryPacket ∧
    fieldOfBytes queryPacket 4 2 < 2 ^ 12 ∧ fieldOfBytes queryPacket 4 2 ≠ 0 ∧ 1 ≤ fieldOfBytes queryPacket 6 1 ∧
    fieldOfBytes queryPacket 6 1 ≤ fieldOfBytes queryPacket 8 2 ∧ fieldOfBytes queryPacket 7 1 = 0 ∧
    fieldOfBytes queryPacket 10 1 = 0 ∧ fieldOfBytes queryPacket 12 4 = 0xFFFFFFFF ∧
    fieldOfBytes queryPacket 36 4 = 0 ∧ fieldOfBytes queryPacket 40 8 % 8 = 0 ∧
    (∀ o, o < 64 → 48 ≤ o → queryPacket.getD o 0 = 0) ∧ s.slotWord s.ctx.table 2 = some dataSlot ∧
    StructAt s (some 2) testDesc.addr 64 testDesc.bytes ∧ testDesc.badExtent 0x23 4 = false ∧ testDesc.badRest 0 = false ∧
    testDesc.badIds [testDesc] = false ∧
    s.probeAll s.ctx (querySpans queryPacket [testDesc] 1 4) =
      .ok [(⟨2, dataSlot⟩, 0x20400), (⟨2, dataSlot⟩, 0x20500), (⟨2, dataSlot⟩, 0x20200), (⟨2, dataSlot⟩, 0x20300)] ∧
    ReadsAs s (⟨2, dataSlot⟩, 0x20200) 4 [0, 0, 0, 0] ∧ s.inStack dataSlot.lo dataSlot.len.toNat 0 = true ∧
    ScalarPerformed s ∧ s.engineLoad 0 < 512 := by
  refine ⟨noMember, ⟨bench_prompt, rfl⟩, rfl,
    struct_data _ rfl rfl rfl rfl _ _ _ (by decide) (by decide) (by decide) (by decide) rfl rfl, by decide, by decide, by decide,
    by decide, by decide, by decide, by decide, by decide, by decide, by decide, rfl,
    struct_data _ rfl rfl rfl rfl _ _ _ (by decide) (by decide) (by decide) (by decide) rfl rfl, rfl, rfl, rfl, rfl,
    ⟨rfl, local_low _ _ (by show 0x20200 < _; omega), .inl rfl, rfl⟩, rfl, ⟨noMember, noMember, noMember⟩, by decide⟩
/-- The form whose query vector is a vector register. -/
theorem hyp_near_search_register : fieldOfBytes (queryPacket.set 7 1) 7 1 = 1 ∧ fieldOfBytes (queryPacket.set 7 1) 10 1 ≤ 31 ∧
    4 * 1 ≤ inLanes.hart.c ∧ NoOlderVector inLanes.hart 0 := by
  exact ⟨rfl, by decide, by decide, noMember⟩
theorem hyp_ticket_status : bench.hart.issue.toNat < (bench.hart.xr 1).toNat ∧ (bench.hart.xr 0).toNat = 0 ∧
    (bench.hart.xr 1).toNat ≤ ({ bench.hart with issue := 7 } : Hart).issue.toNat ∧
    ¬ ∃ k ∈ bench.tickets, k.ser = bench.hart.ser ∧ k.num = 7 ∧ k.mute = false := by
  refine ⟨by decide, rfl, by decide, fun h => ?_⟩
  obtain ⟨k, hk, _⟩ := h
  exact absurd hk List.not_mem_nil
set_option maxRecDepth 20000 in
theorem hyp_split_product : let s := engines 0
    NoOlderWriter s.hart 3 ∧ Fresh s ∧ StructAt s (s.hart.tagOf 13) 0x20180 48 productPacket ∧
    s.slotWord s.ctx.table 2 = some dataSlot ∧ (testMap 0).addr = dataSlot.lo + fieldOfBytes productPacket 16 8 ∧
    StructAt s (some 2) (testMap 0).addr 64 (testMap 0).bytes ∧ (testMap 0).badExtent = false ∧ (testMap 0).badRest = false ∧
    fieldOfBytes productPacket 32 8 % 4 = 0 ∧ (∀ o, o < 48 → 40 ≤ o → productPacket.getD o 0 = 0) ∧
    fieldOfBytes productPacket 12 4 < 8 * s.hart.c ∧
    s.probeAll s.ctx ((testMap 0).spans ++
      [⟨fieldOfBytes productPacket 4 4, fieldOfBytes productPacket 24 8, (testMap 0).cols * (testMap 0).w, (testMap 0).w,
        (testMap 0).w, needRead⟩,
      ⟨fieldOfBytes productPacket 8 4, fieldOfBytes productPacket 32 8, 4 * (testMap 0).rows, 4, 1, needWrite⟩]) =
      .ok (testSpans ++ [(⟨2, dataSlot⟩, 0x20200), (⟨2, dataSlot⟩, 0x20600)]) ∧ (testMap 0).nhot (testMap 0).cur = 0 ∧
    ReadsAs s (⟨2, dataSlot⟩, 0x20200) 4 [0, 0, 0, 0] ∧ ScalarPerformed s ∧
    (s.products (s.mapKey (testMap 0))).length < 64 := by
  refine ⟨noMember, ⟨bench_prompt, rfl⟩, struct_data _ rfl rfl rfl rfl _ _ _ (by decide) (by decide) (by decide) (by decide) rfl rfl, rfl, by decide,
    (map_ready 0 (.inl rfl)).1.2.2.2.2.1, rfl, rfl, by decide, by decide, by decide, rfl, by decide,
    ⟨rfl, local_low _ _ (by show 0x20200 < _; omega), .inl rfl, rfl⟩, ⟨noMember, noMember, noMember⟩, by decide⟩

/-! ### Worklists and gangs -/

/-- The table of the tests with these bytes as data. -/
def dataMemory (bs : List Byte) : Bytes := Bytes.write (Bytes.write [] 0x8000 tableBytes) 0x20000 bs
def holding (s : State) (bs : List Byte) : State := { s with mem := dataMemory bs }

/-- The hart in its gang, which has worklist 0 in the given state. -/
def listing (l : Worklist) : State := { inGang with gangs := [{ soloGang with lists := [l] }] }
def shut : Worklist := Worklist.fresh 0
def listWords : List Byte :=
  [1, 63, 59, 0] ++ Crypto.leBytes 4 2 ++ Crypto.leBytes 8 0x400 ++ Crypto.leBytes 8 64 ++ Crypto.leBytes 4 0xFFFFFFFF ++
    List.replicate 36 0
def opened : Worklist :=
  { shut with
    state := .opened, desc := listWords, delta := 63, shift := 59, spill := some ⟨2, dataSlot⟩, soff := 0x400, slen := 64 }
/-- An armed worklist whose one task lies at the top of the window, with an outstanding token of serial number 1. -/
def armed : Worklist :=
  { opened with
    state := .armed, tasks := [⟨7, 63, 0, none⟩], tokens := [⟨1, 0, 0, 0⟩], serial := 1, floor := 0, pushes := 2 }
def finishedList : Worklist := { opened with state := .done }

theorem listing_traps (l : Worklist) : CanTrap (listing l) := ⟨rfl, rfl, rfl, bench_traps.2.2.2.1, bench_settled⟩
theorem listing_performed (l : Worklist) : AllPerformed (listing l) ∧ ScalarPerformed (listing l) :=
  ⟨⟨rfl, noMember, noMember, noMember⟩, noMember, noMember, noMember⟩
theorem listing_list (l : Worklist) (h : l.w = 0) : (listing l).listOf (listing l).hart.gid 0 = some l := by
  have e : ([l] : List Worklist).find? (fun x => x.w == 0) = some l := by simp [h]
  exact e

theorem hyp_worklist_opening : let s := holding (listing shut) listWords
    Fresh s ∧ s.gang s.hart.gid = some { soloGang with lists := [shut] } ∧
    StructAt s (s.hart.tagOf 10) 0x20000 64 listWords ∧ WorklistDescriptor 1 listWords ∧
    s.listOf s.hart.gid (fieldOfBytes listWords 3 1) = some shut ∧ shut.state = .closed ∧ opened.desc = listWords ∧
    s.probeAll s.ctx [⟨fieldOfBytes listWords 4 4, 0x400, 64, 16, 1, 3⟩] = .ok [(⟨2, dataSlot⟩, 0x20400)] ∧
    BalancingRecord s 1 listWords [] ∧ ({ opened with desc := [] } : Worklist).desc ≠ listWords := by
  refine ⟨⟨bench_prompt, rfl⟩, rfl, struct_data _ rfl rfl rfl rfl _ _ _ (by decide) (by decide) (by decide) (by decide) rfl rfl,
    ⟨rfl, by decide, by decide, by decide, by decide, by decide, by decide, by decide, fun _ => rfl, ?_⟩, rfl, rfl, rfl, rfl,
    .inl ⟨rfl, rfl⟩, by decide⟩
  intro o h
  have hn : o < 64 := by omega
  have hz : ∀ o, o < 64 → (28 ≤ o ∧ o < 32) ∨ (40 ≤ o ∧ o < 64) → listWords.getD o 0 = 0 := by decide
  exact hz o hn h
/-- A balancing record of one step, from member 0 to member 1, of at most one task. -/
theorem hyp_balancing_step : BalancingStep 2 0x2000100000010000 := by unfold BalancingStep; decide
theorem hyp_worklist_push : (listing opened).listOf (listing opened).hart.gid 0 = some opened ∧
    ScalarPerformed (listing opened) ∧ levelsOf opened = [] ∧ (listing opened).unitRoom = true ∧
    (∀ x ∈ armed.tasks, x.level < min armed.floor 63 + 64) ∧ levelsOf armed = [63, 0] ∧ shut.state = .closed ∧
    finishedList.state = .done ∧ CanTrap (listing finishedList) := by
  refine ⟨rfl, (listing_performed _).2, rfl, by decide, by decide, rfl, rfl, rfl, listing_traps _⟩
theorem hyp_worklist_order : ¬ ScalarPerformed { listing armed with packets := [⟨.scalar 0, 1, 0, []⟩] } :=
  fun h => h.2.1 _ (List.mem_singleton_self _) rfl
theorem hyp_worklist_pop : (10 : BitVec 5) ≠ 0 ∧ (4 : BitVec 5) ≠ 10 ∧
    ((listing armed).hart.xr 10).toNat % 16 = 0 ∧ (listing armed).listOf (listing armed).hart.gid 0 = some armed ∧
    (∃ t, t ∈ armed.tasks ∧ t.dev = (listing armed).devIndex ∧ t.level ≤ armed.floor + armed.delta) ∧
    (∀ t ∈ armed.tasks, t.spilled = none) ∧ (¬ ∃ t, t ∈ opened.tasks ∧ t.dev = 0 ∧ t.level ≤ opened.floor + opened.delta) ∧
    ((listing armed).hart.xr 10).getLsbD 4 = false ∧ (0x10 : Word).getLsbD 4 = true := by
  refine ⟨by decide, by decide, rfl, rfl, ⟨_, List.mem_singleton_self _, rfl, by decide⟩, by decide, ?_, by decide, by decide⟩
  rintro ⟨t, h, -⟩
  exact absurd h List.not_mem_nil
theorem hyp_token_retirement : (∃ t ∈ armed.tokens, t.serial = (0x10 : Word).toNat / 16) ∧
    (¬ ∃ t ∈ armed.tokens, t.serial = (0x20 : Word).toNat / 16) ∧ ScalarPerformed (listing armed) := by
  refine ⟨by decide, by decide, (listing_performed _).2⟩
theorem hyp_worklist_refusals : inGang.listOf inGang.hart.gid 0 = none ∧ CanTrap inGang := by
  exact ⟨rfl, rfl, rfl, rfl, by decide, bench_settled⟩

/-- A gang descriptor of one group of one hart on one device, in world 0, with worklist 15. -/
def gangWords : List Byte := [1, 0, 1, 0, 5, 0, 1, 0, 0, 0, 0, 0x80, 32, 0, 0, 0, 1, 0, 2, 4, 0xFC, 0xFF, 0, 0] ++ List.replicate 8 0
def launching : State := holding bench gangWords
theorem hyp_gang_launch : let head := gangWords.take 16
    let bs := gangWords.drop 16
    Fresh launching ∧ StructAt launching (launching.hart.tagOf 10) 0x20000 16 head ∧
    fieldOfBytes head 6 2 = 1 ∧ StructAt launching (launching.hart.tagOf 10) 0x20010 16 bs ∧ AllPerformed launching ∧
    launching.badGang head (groupsOf 1 bs) (launching.newest (2 ^ 46) (tabAddr launching.hart.slottab)) = false ∧
    (launching.queued 0).length < 64 ∧ launching.worldFaulted 0 = false ∧ CanTrap launching ∧ launching.gangs.length < 2 ^ 32 - 1 ∧
    launching.chainLost (2 ^ 46) (tabAddr launching.hart.slottab) = none ∧
    launching.badGang head (groupsOf 1 (bs.set 4 0xFD)) 0x8000 = true := by
  refine ⟨⟨bench_prompt, rfl⟩, struct_data _ rfl rfl rfl rfl _ _ _ (by decide) (by decide) (by decide) (by decide) rfl rfl, rfl,
    struct_data _ rfl rfl rfl rfl _ _ _ (by decide) (by decide) (by decide) (by decide) rfl rfl,
    ⟨rfl, noMember, noMember, noMember⟩, rfl,
    by decide, rfl, ⟨rfl, rfl, rfl, by decide, bench_settled⟩, by decide, rfl, rfl⟩
theorem hyp_gang_launch_waits : 64 ≤ ({ launching with
    gangs := List.replicate 64 { soloGang with phase := .waiting } }.queued 0).length := by decide
theorem hyp_gang_status : inGang.gang 0 = none ∧ inGang.gang 1 = some soloGang ∧ soloGang.wid = inGang.ctx.world ∧
    { inGang with gangs := [{ soloGang with phase := .retired 1 }] }.gang 1 = some { soloGang with phase := .retired 1 } := by
  decide
theorem hyp_barrier_arrival : inGang.gang inGang.hart.gid = some soloGang ∧
    soloGang.memberOf inGang.hart.ser = some ⟨0, 0, some 0, 0, 1, 0, true, 0, 0⟩ ∧
    (∀ x ∈ soloGang.members, x.rank = 0 → x = ⟨0, 0, some 0, 0, 1, 0, true, 0, 0⟩) ∧
    inGang.hart.arrivals.getLsbD 15 = false ∧ AllPerformed inGang ∧ ({ inGang.hart with arrivals := 1 }).arrivals.getLsbD 0 = true := by
  refine ⟨rfl, rfl, ?_, by decide, ⟨rfl, noMember, noMember, noMember⟩, by decide⟩
  intro x h _
  exact List.mem_singleton.1 h
/-- A descheduled hart of the run set of the core. -/
def heir : Hart := { bench.hart with ser := 1, gid := 1, life := .descheduled, csa := 0x50000 }
theorem hyp_yielding : inGang.hart.life = .running ∧ inHandler.hart.hm = true ∧
    (∀ h ∈ bench.others, h.life ≠ .descheduled ∨ h.core ≠ bench.hart.core ∨ bench.gangRuns h = false) ∧ Settled bench ∧
    inGang.hart.hm = false ∧ inGang.hart.hostBusy = false ∧ inGang.hart.holdReq = false ∧
    (({ inGang with others := [heir] }.hart :: [heir]).map Hart.ser).Nodup ∧ MayInherit { inGang with others := [heir] } heir := by
  refine ⟨rfl, rfl, noMember, bench_settled, rfl, rfl, rfl, by decide,
    ⟨List.mem_singleton_self _, rfl, rfl, by decide, by decide, by decide, ?_⟩⟩
  exact ⟨soloGang, rfl, by decide⟩

/-- A gang of two live members, of which the hart is the first. -/
def pairGang : Gang :=
  { soloGang with members := [⟨0, 0, some 0, 0, 1, 0, true, 0, 0⟩, ⟨1, 0, some 1, 0, 1, 0, true, 0, 0⟩] }
/-- A reduction packet over one FP32 element, and a schedule of the four steps of its tree. -/
def reductionPacket : List Byte :=
  [2, 0, 0, 0, 2, 0, 0, 0] ++ Crypto.leBytes 8 0x400 ++ Crypto.leBytes 8 0x100 ++ [1, 0, 0, 0, 0xFF, 0xFF, 0, 0, 2, 0x35] ++
    List.replicate 14 0
def scheduleHead : List Byte := [1, 0, 1, 0, 4, 0, 0, 0] ++ List.replicate 8 0
def scheduleSteps : List Word := [0x1000000000000000, 0x1100000000000000, 0x1200000000000000, 0x1300000000000000]
def reducing : State :=
  holding { inGang with gangs := [pairGang] }
    (reductionPacket ++ List.replicate 208 0 ++ scheduleHead ++
      scheduleSteps.flatMap fun v => Crypto.leBytes 8 v.toNat)
set_option maxRecDepth 20000 in
theorem hyp_reduction_joining : let s := reducing
    let p := reductionPacket
    NoOlderWriter s.hart 11 ∧ (11 : BitVec 4).toNat < 12 ∧ Fresh s ∧
    Memory.wf (s.hart.kreg.toList.getD 11 []) = true ∧ StructAt s (s.hart.tagOf 10) 0x20000 48 p ∧
    s.gang s.hart.gid = some pairGang ∧ pairGang.memberOf s.hart.ser = some ⟨0, 0, some 0, 0, 1, 0, true, 0, 0⟩ ∧
    fieldOfBytes p 33 1 = 0x35 ∧ fieldOfBytes p 24 4 = 1 ∧ fieldOfBytes p 8 8 % 4 = 0 ∧ fieldOfBytes p 16 8 % 16 = 0 ∧
    s.probeAll s.ctx [⟨fieldOfBytes p 0 4, fieldOfBytes p 8 8, 1 * 4, 4, 1, 3⟩] = .ok [(⟨2, dataSlot⟩, 0x20400)] ∧
    s.slotWord s.ctx.table (fieldOfBytes p 4 4) = some dataSlot ∧
    StructAt s (some (BitVec.ofNat 16 (fieldOfBytes p 4 4))) (dataSlot.lo + fieldOfBytes p 16 8) 16 scheduleHead ∧
    fieldOfBytes scheduleHead 0 2 = 1 ∧ fieldOfBytes scheduleHead 2 2 = pairGang.devs.length ∧
    fieldOfBytes scheduleHead 4 4 = (treeNodes pairGang.members.length).length ∧
    StructAt s (some (BitVec.ofNat 16 (fieldOfBytes p 4 4))) (dataSlot.lo + fieldOfBytes p 16 8 + 16) 32
      (scheduleSteps.flatMap fun v => Crypto.leBytes 8 v.toNat) ∧
    badSchedule 2 1 [] scheduleSteps = false ∧ fieldOfBytes p 28 4 < 8 * 65536 ∧ fieldOfBytes p 32 1 ≤ 2 ∧
    (∀ o, o < 48 → 34 ≤ o → p.getD o 0 = 0) ∧ ScalarPerformed s ∧ pairGang.inFlight 0 < 4 ∧
    (∀ x ∈ pairGang.members, x.rank = 0 → x = ⟨0, 0, some 0, 0, 1, 0, true, 0, 0⟩) := by
  refine ⟨noMember, by decide, ⟨bench_prompt, rfl⟩, rfl,
    struct_data _ rfl rfl rfl rfl _ _ _ (by decide) (by decide) (by decide) (by decide) rfl rfl, rfl, rfl, rfl, rfl, rfl, rfl, rfl,
    rfl, struct_data _ rfl rfl rfl rfl _ _ _ (by decide) (by decide) (by decide) (by decide) rfl rfl, rfl, rfl, rfl,
    struct_data _ rfl rfl rfl rfl _ _ _ (by decide) (by decide) (by decide) (by decide) rfl rfl, by decide, by decide, by decide,
    by decide, ⟨noMember, noMember, noMember⟩, by decide, by decide⟩
theorem hyp_hart_exit : inGang.gang inGang.hart.gid = some soloGang ∧
    soloGang.memberOf inGang.hart.ser = some ⟨0, 0, some 0, 0, 1, 0, true, 0, 0⟩ ∧ AllPerformed inGang ∧
    soloGang.phase = .started ∧
    (∀ x ∈ soloGang.members, x.live = true → x = ⟨0, 0, some 0, 0, 1, 0, true, 0, 0⟩) ∧ inGang.events.length < 1024 ∧
    ¬ ∀ x ∈ pairGang.members, x.live = true → x = ⟨0, 0, some 0, 0, 1, 0, true, 0, 0⟩ := by
  refine ⟨rfl, rfl, ⟨rfl, noMember, noMember, noMember⟩, rfl, fun x h _ => List.mem_singleton.1 h, by decide, ?_⟩
  intro h
  exact absurd (h ⟨1, 0, some 1, 0, 1, 0, true, 0, 0⟩ (by decide) rfl) (by decide)

/-! ### Worlds -/

theorem fwdAt_free (s : State) (h : s.fwd = Vector.replicate 64 .free) (m : BitVec 2) (hm : m ≠ 0) (k : Nat) :
    s.fwdAt m k = none := by
  unfold State.fwdAt
  rw [h]
  have : m = 1 ∨ m = 2 ∨ m = 3 := by revert hm; revert m; decide
  rcases this with rfl | rfl | rfl <;> rfl

theorem whole_free (s : State) (h : s.fwd = Vector.replicate 64 .free) : WholeLines s := by
  intro e he
  rw [h] at he
  have := Vector.mem_replicate.1 (Vector.mem_toList_iff.1 he)
  rw [this.2]
  rfl

/-- A buffer within the data passes its checks, whoever asks. -/
theorem buffer_data (s : State) (hw : s.slotWordAt s.ctx.core s.ctx.table 2 = some dataSlot) (hr : s.retired = [])
    (hz : s.slotLost s.ctx.core s.ctx.table 2 = none)
    (hl : s.lost = []) (hf : s.fwd = Vector.replicate 64 .free) (a n : Nat) (h1 : 0x20000 ≤ a) (h2 : a + n ≤ 0x30000) (h3 : a % 64 = 0)
    (hn : n % 8 = 0) : BufferAt s (some 2) a n ⟨2, dataSlot⟩ := by
  refine ⟨h3, whole_free s hf, fun o ho h8 => ?_, fun o ho => ⟨local_low s _ (by omega), .inr (fwdAt_free s hf 1 (by decide) _)⟩,
    fun o p ho hp h => ?_, fun o _ => by rw [hl]; exact List.not_mem_nil, .inl rfl⟩
  · exact probe_data s hw hr hz _ _ _ _ _ _ _ (by omega) (by omega) (by omega) rfl
  · rw [performedAt_low s hf _ (by omega), performedAt_low s hf _ (by omega)] at h
    omega

/-- World 5, with seven grants, one to world 1023, and a ready key version 3. -/
def openWorld : World where
  wid := 5
  versions := [⟨0, 0, false⟩, ⟨3, 1, false⟩]
  devs := [0, 1]
  ready := []
  grants := [1, 2, 3, 4, 6, 7, 1023]
  revokes := []
  allow := 1
  log := [⟨0, 9, 1, 1⟩]
  lost := 0
  attempts := 1
  imgm := 0
  report := none
  lstat := 0
  qaddr := 0x100000
  qlen := 4096
  qpos := 0
  qlost := 0
  qseq := 0
  faulted := false
def worldAt (w : BitVec 10) : World := { openWorld with wid := w, grants := [] }
def inWorld : State := { tenant with worlds := [openWorld, worldAt 8] }
theorem hyp_world_settings : bench.ctx.world = 0 ∧ inWorld.ctx.world ≠ 0 ∧ inWorld.world inWorld.ctx.world = some openWorld ∧
    (8 : Word).toNat ≠ 0 ∧ ((8 : Word).setWidth 10 : BitVec 10) ≠ openWorld.wid ∧ inWorld.world 8 = some (worldAt 8) ∧
    8 ∉ openWorld.grants ∧ openWorld.grants.length < 8 ∧ (1023 : BitVec 10) ∈ openWorld.grants ∧
    inWorld.usesKey 1023 5 = false ∧
    { inWorld with stores := [⟨{ inWorld.ctx with world := 1023 }, { dataSlot with keyid := 5 }, 0, []⟩] }.usesKey 1023 5 = true := by
  refine ⟨rfl, by decide, rfl, by decide, by decide, rfl, by decide, by decide, by decide, rfl, rfl⟩
theorem hyp_disclosure_log : Fresh inWorld ∧ Memory.wf inWorld.mem = true ∧ inWorld.ctx.world ≠ 0 ∧
    inWorld.world inWorld.ctx.world = some openWorld ∧ openWorld.log.length ≤ 256 ∧
    BufferAt inWorld (inWorld.hart.tagOf 10) (inWorld.hart.xr 10).toNat 4160 ⟨2, dataSlot⟩ := by
  refine ⟨⟨bench_prompt, rfl⟩, bench_memory, by decide, rfl, by decide, ?_⟩
  exact buffer_data _ rfl rfl rfl rfl rfl _ _ (by decide) (by decide) (by decide) (by decide)
def asking : State := holding inWorld (List.replicate 32 0xA5)
theorem hyp_world_report : Fresh asking ∧ Memory.wf asking.mem = true ∧ asking.world asking.ctx.world ≠ none ∧
    StructAt asking (asking.hart.tagOf 10) 0x20000 32 (List.replicate 32 0xA5) ∧
    BufferAt asking (asking.hart.tagOf 10) 0x20000 280 ⟨2, dataSlot⟩ := by
  refine ⟨⟨bench_prompt, rfl⟩, by decide, by decide, ⟨by decide, ⟨2, dataSlot⟩, fun o ho h => ?_, local_low _ _ (by omega), ?_, rfl⟩, ?_⟩
  · exact probe_data asking rfl rfl rfl _ _ _ _ _ _ _ (by omega) (by omega) (by omega) rfl
  · exact .inr rfl
  · exact buffer_data _ rfl rfl rfl rfl rfl _ _ (by decide) (by decide) (by decide) (by decide)

/-- The hart of world 0 with a block in the data, and world 5 open. -/
def binding (b : List Byte) : State := holding { bench with worlds := [openWorld] } b
theorem block_data (b : List Byte) (n : Nat) (hl : b.length = n) (hn : n % 8 = 0) (hm : n ≤ 192)
    (hb : (binding b).readBytes (binding b).ctx dataSlot 0x20000 n = some b)
    (hw : (binding b).slotWordAt (binding b).ctx.core (binding b).ctx.table 2 = some dataSlot)
    (hz : (binding b).slotLost (binding b).ctx.core (binding b).ctx.table 2 = none) : BlockOf (binding b) 10 n b := by
  refine ⟨rfl, ⟨bench_prompt, rfl⟩, by show 0x20000 % 64 = 0; decide, ?_⟩
  exact struct_data (binding b) hw rfl hz rfl 0x20000 n b (by omega) (by omega) (by decide) hn hl hb

def openWords (w : Byte) : List Byte :=
  [w, 0, 1, 0] ++ Crypto.leBytes 4 4096 ++ Crypto.leBytes 8 0x100000 ++ List.replicate 176 0
set_option maxRecDepth 20000 in
theorem hyp_world_opening : BlockOf (binding (openWords 6)) 10 192 (openWords 6) ∧ fieldOfBytes (openWords 6) 0 2 = 6 ∧
    fieldOfBytes (openWords 6) 2 1 = 1 ∧ fieldOfBytes (openWords 6) 4 4 = 4096 ∧ fieldOfBytes (openWords 6) 3 1 = 0 ∧
    (binding (openWords 6)).populated 0x100000 4096 = true ∧ LocalMemory (binding (openWords 6)) 0x100000 ∧
    ((openWords 6).drop 16).take 1 = [(binding (openWords 6)).devIndex] ∧
    (∀ o, o < 192 → 17 ≤ o → (openWords 6).getD o 0 = 0) ∧ (binding (openWords 6)).world 6 = none ∧
    BlockOf (binding (openWords 5)) 10 192 (openWords 5) ∧ (binding (openWords 5)).world 5 = some openWorld ∧
    BlockOf (binding (openWords 0)) 10 192 (openWords 0) ∧ fieldOfBytes (openWords 0) 0 2 = 0 := by
  refine ⟨block_data _ _ rfl rfl (by decide) rfl rfl rfl, rfl, rfl, rfl, rfl, by decide, local_low _ _ (by omega),
    rfl, by decide, rfl, block_data _ _ rfl rfl (by decide) rfl rfl rfl, rfl, block_data _ _ rfl rfl (by decide) rfl rfl rfl, rfl⟩

/-- A block of 64 bytes that names world `w` and version `v`. -/
def shortWords (w v : Byte) : List Byte := [w, 0, v, 0] ++ List.replicate 60 0
theorem hyp_key_versions : BlockOf (binding (shortWords 5 4)) 10 64 (shortWords 5 4) ∧
    fieldOfBytes (shortWords 5 4) 2 2 = 4 ∧ (∀ o, o < 64 → 4 ≤ o → (shortWords 5 4).getD o 0 = 0) ∧
    (binding (shortWords 5 4)).world 5 = some openWorld ∧ (∀ k ∈ openWorld.versions, k.ver.toNat ≠ 4) ∧
    (∃ k ∈ openWorld.versions, k.ver.toNat = 3) ∧ (binding (shortWords 6 4)).world 6 = none ∧
    BlockOf (binding (shortWords 6 4)) 10 64 (shortWords 6 4) ∧ fieldOfBytes (shortWords 5 0) 2 2 = 0 := by
  refine ⟨block_data _ _ rfl rfl (by decide) rfl rfl rfl, rfl, by decide, rfl, by decide, by decide, rfl,
    block_data _ _ rfl rfl (by decide) rfl rfl rfl, rfl⟩
theorem hyp_world_closing : BlockOf (binding (shortWords 5 0)) 10 64 (shortWords 5 0) ∧
    (∀ o, o < 64 → 2 ≤ o → (shortWords 5 0).getD o 0 = 0) ∧ (binding (shortWords 5 0)).world 5 = some openWorld ∧
    (¬ ∃ h ∈ [(binding (shortWords 5 0)).hart], h.alive = true ∧ h.wid = 5) ∧ (binding (shortWords 5 0)).gangs = [] ∧
    tenant.hart.alive = true ∧ tenant.hart.wid = 5 := by
  refine ⟨block_data _ _ rfl rfl (by decide) rfl rfl rfl, by decide, rfl, ?_, rfl, rfl, rfl⟩
  rintro ⟨h, hm, -, hw⟩
  rw [List.mem_singleton.1 hm] at hw
  exact absurd hw (by decide)

/-- A section of 16 bytes of the block itself and 48 zeros, placed at 0x110000 under version 3. -/
def placeWords : List Byte :=
  [5, 0, 3, 0, 1, 0, 0, 0] ++ Crypto.leBytes 8 0x20000 ++ Crypto.leBytes 8 0x110000 ++ Crypto.leBytes 8 0 ++
    Crypto.leBytes 8 16 ++ Crypto.leBytes 8 48 ++ List.replicate 16 0
theorem canon_low (s : State) (a : Nat) (ha : a < 12 * 2 ^ 37) : s.canon a = a := by
  have e : regionOf a = .hbm (a / 2 ^ 37) (a % 2 ^ 37) := if_pos ha
  unfold State.canon
  rw [e]
theorem hyp_section_placing : let b := placeWords
    let s := binding b
    BlockOf s 10 64 b ∧ fieldOfBytes b 2 2 ≤ 4095 ∧ 1 ≤ fieldOfBytes b 4 2 ∧ fieldOfBytes b 4 2 ≤ 11 ∧
    (∀ o, o < 8 → 6 ≤ o → b.getD o 0 = 0) ∧ fieldOfBytes b 16 8 = 0x110000 ∧ fieldOfBytes b 24 8 % 64 = 0 ∧
    fieldOfBytes b 32 8 + fieldOfBytes b 40 8 = 64 ∧ (∀ o, o < 64 → 48 ≤ o → b.getD o 0 = 0) ∧
    s.populated (fieldOfBytes b 8 8) 16 = true ∧ (∀ o, regionOf (s.canon 0x20000) ≠ .window o) ∧
    s.inMemory 0x110000 64 = true ∧
    s.world 5 = some openWorld ∧ s.versionReady 5 3 = true ∧ s.versionReady 5 2 = false ∧ Memory.wf s.mem = true ∧
    WholeLines s ∧ (∀ o q, o < 64 → q < 64 → s.forward (s.canon (0x110000 + o)) = s.forward (s.canon (0x110000 + q)) → o = q) ∧
    11 < fieldOfBytes (b.set 4 12) 4 2 := by
  refine ⟨block_data _ _ rfl rfl (by decide) rfl rfl rfl, by decide, by decide, by decide, by decide, by decide, by decide,
    by decide, by decide, rfl, ?_, rfl, rfl, rfl, rfl, by decide, whole_free _ rfl, fun o q ho hq h => ?_, by decide⟩
  · intro o
    rw [canon_low _ _ (by omega)]
    exact nofun
  · rw [canon_low _ _ (by omega), canon_low _ _ (by omega), forward_free _ rfl, forward_free _ rfl] at h
    omega

/-- A load of one shard into version 3, or its installation as entry `e`: the manifest is at 0x20100 and the wrapped key
at 0x20200. -/
def sealWords (w e : Byte) : List Byte :=
  [w, 0, 3, 0, 0, 0, 0, 0, e, 0, 0, 0, 0, 0, 0, 0] ++ Crypto.leBytes 8 0x20100 ++ Crypto.leBytes 4 208 ++
    Crypto.leBytes 4 0 ++ Crypto.leBytes 8 0x20200 ++ Crypto.leBytes 8 0x120000 ++ Crypto.leBytes 8 0 ++ Crypto.leBytes 8 64
def manifestWords : List Byte := [1, 0, 0, 0, 1, 0, 0, 0] ++ List.replicate 200 0
def sealing (b : List Byte) : State := binding (b ++ List.replicate 192 0 ++ manifestWords)
theorem sealing_block (b : List Byte) (hl : b.length = 64)
    (hb : (sealing b).readBytes (sealing b).ctx dataSlot 0x20000 64 = some b)
    (hw : (sealing b).slotWordAt (sealing b).ctx.core (sealing b).ctx.table 2 = some dataSlot)
    (hz : (sealing b).slotLost (sealing b).ctx.core (sealing b).ctx.table 2 = none) : BlockOf (sealing b) 10 64 b := by
  refine ⟨rfl, ⟨bench_prompt, rfl⟩, by show 0x20000 % 64 = 0; decide, ?_⟩
  exact struct_data (sealing b) hw rfl hz rfl 0x20000 64 b (by omega) (by omega) (by decide) (by decide) hl hb
def storedEntry : StoreEntry := ⟨7, [], 0, 0, []⟩
/-- A version is unused where no block of memory reads as a table with a resident word of it. -/
theorem unused (s : State) (w : BitVec 10) (v : BitVec 12)
    (h : ((s.knownTables ++ (s.mem.map fun c : Host.Cell => c.1 / 64 * 64).eraseDups).all fun t =>
      (List.range (min (s.tabLast t) 65535 + 1)).all fun i =>
        let sw := SlotWord.ofNat (Crypto.leNat (Bytes.read s.mem (s.forward (s.canon t + 64 + 16 * i)) 16))
        !(sw.keyid == w && sw.version == v && sw.state == 0)) = true) : s.versionUsed w v = false := by
  unfold State.versionUsed
  rw [List.any_eq_false]
  intro t ht
  rw [List.mem_eraseDups, List.mem_append] at ht
  have m : t ∈ s.knownTables ++ (s.mem.map fun c : Host.Cell => c.1 / 64 * 64).eraseDups := by
    rw [List.mem_append]
    refine ht.imp_right fun x => ?_
    unfold State.otherTables at x
    exact (List.mem_filter.1 x).1
  have k := List.all_eq_true.1 h t m
  rw [Bool.and_eq_true, not_and, Bool.not_eq_true, List.any_eq_false]
  intro _ i hi
  have := List.all_eq_true.1 k i hi
  rw [Bool.not_eq_true'] at this
  rw [this]
  exact Bool.false_ne_true
set_option maxRecDepth 20000 in
theorem hyp_sealed_loads : let b := sealWords 5 9
    let s := sealing b
    let m := s.manifestOf b
    BlockOf s 10 64 b ∧ SourcesRead s b ∧ sealSources s b = s ∧ 1 ≤ fieldOfBytes b 2 2 ∧ fieldOfBytes b 4 1 = 0 ∧
    (∀ o, o < 8 → 5 ≤ o → b.getD o 0 = 0) ∧ (∀ o, o < 32 → 28 ≤ o → b.getD o 0 = 0) ∧ fieldOfBytes b 56 8 = 64 ∧
    m = manifestWords ∧ fieldOfBytes m 0 2 = 1 ∧ fieldOfBytes m 2 1 ≤ 15 ∧ fieldOfBytes m 3 1 = 0 ∧ fieldOfBytes m 4 4 = 1 ∧
    (∀ o, o < 16 → 12 ≤ o → m.getD o 0 = 0) ∧ m.length = 176 + 32 * 1 ∧ 1 = (64 + 2 ^ 26 - 1) / 2 ^ 26 ∧
    s.populated (fieldOfBytes b 32 8) 104 = true ∧ fieldOfBytes b 40 8 % 64 = 0 ∧ fieldOfBytes b 48 8 % 64 = 0 ∧
    s.inMemory 0x120000 64 = true ∧
    s.world 5 = some openWorld ∧ s.versionReady 5 3 = true ∧ s.versionUsed 5 3 = false ∧
    (∀ x ∈ s.store, x.num ≠ 9) ∧ (∀ j ∈ s.seals, j.install = true → j.src ≠ 9) ∧ s.storeUsed + 64 ≤ 2 ^ 44 ∧
    (¬ ∀ x ∈ { s with store := [storedEntry] }.store, x.num ≠ 7) ∧ s.versionReady 5 2 = false := by
  refine ⟨sealing_block _ rfl rfl rfl rfl, ?_, rfl, by decide, by decide, by decide, by decide, by decide, rfl, rfl, by decide, rfl, rfl,
    ?_, rfl, by decide, rfl, by decide, by decide, rfl, rfl, rfl, unused _ _ _ (by decide), noMember, noMember, by decide, ?_, rfl⟩
  · intro _ p h
    simp only [List.mem_cons, List.not_mem_nil, or_false] at h
    rcases h with rfl | rfl <;> exact ⟨rfl, rfl⟩
  · show ∀ o, o < 16 → 12 ≤ o → manifestWords.getD o 0 = 0
    decide
  · intro h
    exact h storedEntry (List.mem_singleton_self _) rfl
theorem hyp_store_erasure : BlockOf (binding (shortWords 7 0)) 10 64 (shortWords 7 0) ∧ fieldOfBytes (shortWords 7 0) 0 4 = 7 ∧
    (∀ o, o < 64 → 4 ≤ o → (shortWords 7 0).getD o 0 = 0) ∧
    (∃ x ∈ { bench with store := [storedEntry] }.store, x.num = 7) ∧ ∀ x ∈ bench.store, x.num ≠ 7 := by
  refine ⟨block_data _ _ rfl rfl (by decide) rfl rfl rfl, rfl, by decide, ⟨storedEntry, List.mem_singleton_self _, rfl⟩, noMember⟩

/-- Another hart has begun an event of the map. -/
def mapTaking : State :=
  { engines 0 with others := [{ bench.hart with ser := 1, capture := some ⟨[], none, some 0x20100⟩ }] }
theorem hyp_map_order : (testMap 0).addr = (mapTaking.hart.xr 11).toNat ∧ (testMap 0).addr % 64 = 0 ∧
    ¬ MapFree mapTaking (testMap 0) ∧ NoOlderWriter mapTaking.hart 3 := by
  refine ⟨rfl, rfl, fun h => ?_, noMember⟩
  have c : mapTaking.mapKey (testMap 0) = 0x20100 := rfl
  have e : mapTaking.mapTaken 0x20100 = true := rfl
  unfold MapFree at h
  rw [c, e] at h
  exact Bool.noConfusion h

/-! ### Events of the device -/

/-- A hart that waits. -/
def waiting (w : Wait) : State := { bench with hart := { bench.hart with wait := some w } }
theorem hyp_wait_ends : (∀ w, (waiting w).findHart 0 = some (waiting w).hart ∧ (waiting w).hart.life = .running ∧
      (waiting w).hart.wait = some w ∧ ((waiting w).focus 0).hart.world0 = true) ∧
    ((waiting .fence).focus 0).hart.iw.getLsbD 1 = false ∧ ((waiting (.wfe 4 10)).focus 0).hart.xr 10 ≠ 0 ∧
    (10 : BitVec 5) ≠ 0 ∧ (4 : BitVec 5) ≠ 10 := by
  refine ⟨fun w => ⟨rfl, rfl, rfl, rfl⟩, by decide, by decide, by decide, by decide⟩
def anEvent : Event := ⟨0x8000000000008003, 5, 0⟩
theorem hyp_event_delivery : { bench with events := [anEvent] }.events = [anEvent] ∧ CanTrap { bench with events := [anEvent] } ∧
    Listens { bench.hart with ie := true } ∧ (∀ h ∈ bench.others, Listens h → bench.hart.ser.toNat ≤ h.ser.toNat) ∧
    (∀ h ∈ [bench.hart], ¬ Listens h) ∧ { bench with hvec := 0 }.hvec = 0 := by
  refine ⟨rfl, ⟨rfl, rfl, rfl, by decide, bench_settled⟩, ⟨rfl, rfl, rfl, rfl⟩, noMember, ?_, rfl⟩
  intro h hm hl
  rw [List.mem_singleton.1 hm] at hl
  exact absurd hl.2.2.1 (by decide)
theorem hyp_switching_out : CanStop growing 0 growing.hart ∧ ({ bench.hart with preempt := true }).preempt = true ∧
    CanStop { bench with hart := { bench.hart with pv := true, share := 2, pend := 1 } } 0
      { bench.hart with pv := true, share := 2, pend := 1 } ∧ (1 : BitVec 3).toNat < (2 : BitVec 3).toNat ∧
    inHandler.findHart 0 = some inHandler.hart ∧ inHandler.hart.hm = true := by
  refine ⟨⟨rfl, rfl, rfl, rfl, rfl, bench_settled⟩, rfl, ⟨rfl, rfl, rfl, rfl, rfl, bench_settled⟩, by decide, rfl, rfl⟩

/-- A second hart of the gang, descheduled, whose CSA at 0x50000 is clear. -/
def second : Hart := { bench.hart with ser := 1, gid := 1, life := .descheduled, csa := 0x50000 }
def resuming : State := { inGang with others := [second] }
set_option maxRecDepth 40000 in
theorem hyp_switching_in : resuming.findHart 1 = some second ∧ (resuming.focus 1).hart = second ∧
    second.life = .descheduled ∧ resuming.gangRuns second = true ∧ resuming.slotFree second = true ∧
    resuming.shareFits second = true ∧ resuming.mayRun second = true ∧
    (resuming.focus 1).csaBad second.wid second.csa.toNat = none ∧
    fieldOfBytes ((resuming.focus 1).readCsa second.wid second.csa.toNat).1 24 2 = 0 ∧
    fieldOfBytes ((resuming.focus 1).readCsa second.wid second.csa.toNat).1 6 1 = 0 ∧ pfxBad 0 = false ∧
    second.share = 0 ∧ second.hm = false ∧ resuming.hvec ≠ 0 ∧ Settled (resuming.focus 1) := by
  refine ⟨rfl, rfl, rfl, by decide, by decide, by decide, by decide, rfl, rfl, rfl, rfl, rfl, rfl, by decide,
    noMember, noMember⟩
/-- Harts with a share in its place: one whose vector state lies nowhere, for which a lane group is free; and one that takes
all four, of which the first hart, switched out, holds one. -/
def sharing : Hart := { second with share := 1 }
def crowded : Hart := { second with share := 4 }
def crowding : State :=
  { inGang with hart := { inGang.hart with life := .descheduled, share := 1, quanta := 0 }, others := [crowded] }
set_option maxRecDepth 40000 in
theorem hyp_switching_in_vacates :
    let s : State := { inGang with others := [sharing] }
    let f := crowding.focus 1
    s.shareFits sharing = true ∧ sharing.vloc = 0 ∧ ((s.focus 1).assign sharing.core sharing.ser 1).length = 1 ∧
    (∀ g ∈ (s.focus 1).assign sharing.core sharing.ser 1, (s.focus 1).holder sharing.core sharing.ser g = none) ∧
    crowding.findHart 1 = some crowded ∧ f.hart = crowded ∧ crowded.life = .descheduled ∧ crowding.gangRuns crowded = true ∧
    crowding.slotFree crowded = true ∧ crowding.shareFits crowded = true ∧ crowding.mayRun crowded = true ∧
    f.csaBad crowded.wid crowded.csa.toNat = none ∧
    pfxBad (BitVec.ofNat 64 (fieldOfBytes (f.readCsa crowded.wid crowded.csa.toNat).2 312 8)) = false ∧
    crowded.share ≠ 0 ∧ crowded.vloc ≠ 1 ∧ crowding.hvec ≠ 0 ∧ Settled f ∧
    ¬ (∀ g ∈ f.assign crowded.core crowded.ser crowded.share.toNat, f.holder crowded.core crowded.ser g = none) := by
  refine ⟨by decide, rfl, by decide, by decide, rfl, rfl, rfl, by decide, by decide, by decide, by decide, rfl, rfl,
    by decide, by decide, by decide, ⟨noMember, noMember⟩, by decide⟩
/-- A round in which the second hart has quanta left. -/
def midRound : State := { resuming with others := [{ second with quanta := 2 }] }
theorem hyp_scheduling : inLanes.findHart 0 = some inLanes.hart ∧ inLanes.hart.life = .running ∧
    (({ inLanes.hart with weight := 1, cap := 2 }) : Hart).weight ≠ 0 ∧
    ((inLanes.onCore inLanes.hart.core 0).map Hart.grant).sum + max 2 1 ≤ 4 ∧ inLanes.slice ≠ some inLanes.hart.gid ∧
    (∃ x ∈ midRound.runSet midRound.hart.core, if x.ser = midRound.hart.ser then 2 ≤ x.quanta else x.quanta ≠ 0) ∧
    (∀ x ∈ inGang.runSet inGang.hart.core, if x.ser = inGang.hart.ser then x.quanta ≤ 1 else x.quanta = 0) ∧
    (queued loading).hart.queue = [] ++ loading :: [] ∧ loading.aged = false ∧ (queued loading).issueOf 0 0 ≠ none ∧
    (∀ k x, (inLanes.hart.queue)[k]? = some x → x.aged = true ∨ inLanes.issueOf 0 k = none) ∧
    (inGang.hart :: inGang.others).Pairwise (fun x y => x.ser ≠ y.ser) := by
  refine ⟨rfl, rfl, by decide, by decide, nofun, by decide, by decide, rfl, rfl, ?_, ?_, by decide⟩
  · exact Option.ne_none_iff_isSome.2 rfl
  · intro k x h
    exact nomatch (List.getElem?_nil.symm.trans h)
/-- A gang whose domain slice runs, with a hart on its slot that may stop and one in handler mode. -/
def sliced : State :=
  { inGang with
    gangs := [{ soloGang with devs := [0, 1], inSlice := true, sliceReady := true }], slice := some 1
    others := [{ inGang.hart with ser := 1, csa := 0x50000, hm := true }] }
theorem hyp_slice_ends : sliced.gang 1 = some { soloGang with devs := [0, 1], inSlice := true, sliceReady := true } ∧
    sliced.findHart 0 = some sliced.hart ∧ sliced.slice = some 1 ∧ sliced.hart.gid = 1 ∧
    (sliced.hart :: sliced.others).Pairwise (fun x y => x.ser ≠ y.ser) ∧ Memory.wf sliced.mem = true ∧
    (∀ x ∈ sliced.hart :: sliced.others, x.life = .running → x.gid = 1 → x.hm = true ∨ CanStop sliced x.ser x) ∧
    ((sliced.hart :: sliced.others).filter fun x => x.life == .running && x.gid == 1).Pairwise (fun x y =>
      x.csa.toNat + contextBytes ≤ y.csa.toNat ∨ y.csa.toNat + contextBytes ≤ x.csa.toNat) ∧
    sliced.midSlice sliced.hart = true := by
  refine ⟨rfl, rfl, rfl, rfl, by decide, bench_memory, fun x h _ _ => ?_, by decide, rfl⟩
  rcases List.mem_cons.1 h with rfl | h
  · exact .inr ⟨rfl, rfl, rfl, rfl, rfl, noMember, noMember⟩
  · rw [List.mem_singleton.1 h]
    exact .inl rfl

/-- A started gang on two devices of a domain. -/
def wideGang : Gang :=
  { soloGang with devs := [0, 1], members := [⟨0, 0, some 0, 0, 1, 0, true, 0, 0⟩, ⟨1, 1, none, 0, 1, 0, true, 0, 0⟩] }
def inDomain : State := { inGang with gangs := [wideGang], domain := [0, 1] }
theorem hyp_domain_slices : inDomain.gang 1 = some wideGang ∧ wideGang.phase = .started ∧ 2 ≤ wideGang.devs.length ∧
    inDomain.reachable wideGang = true ∧ wideGang.sliceReady = false ∧ wideGang.inSlice = false ∧ inDomain.slice = none ∧
    (∀ c ∈ inDomain.coresOf 1, inDomain.inTheWay 1 c = []) ∧ inDomain.events.length < 1024 ∧
    (∀ x ∈ [bench.hart], x.life = .running → x.gid ≠ 1) := by
  refine ⟨rfl, rfl, by decide, by decide, rfl, rfl, rfl, by decide, by decide, fun x h _ => ?_⟩
  rw [List.mem_singleton.1 h]
  decide

/-- A waiting gang of one member without a hart, and one free CSA. -/
def waitingGang : Gang := { soloGang with phase := .waiting, members := [⟨0, 0, none, 0, 1, 0, true, 0, 0⟩] }
def placing : State := { bench with gangs := [waitingGang], csafree := [0x50000] }
set_option maxRecDepth 20000 in
theorem hyp_gang_placement : placing.gang 1 = some waitingGang ∧ placing.mayPlace waitingGang = true ∧
    (waitingGang.members.find? fun m => m.dev == placing.devIndex && m.ser.isNone) = some ⟨0, 0, none, 0, 1, 0, true, 0, 0⟩ ∧
    placing.csafree = [0x50000] ∧ placing.freeSer = some 1 ∧ waitingGang.members.Pairwise (fun x y => x.rank ≠ y.rank) ∧
    Memory.wf placing.mem = true ∧ ∃ core, placing.homeCore = some core := by
  refine ⟨rfl, by decide, rfl, rfl, rfl, by decide, bench_memory, ?_⟩
  have hl : (((List.range 256).map (BitVec.ofNat 8)).filter placing.coreGood).length = 256 := by decide
  unfold State.homeCore
  exact ⟨_, List.getElem?_eq_getElem (by rw [hl]; exact Nat.mod_lt _ (by decide))⟩
theorem hyp_gang_starts : ({ soloGang with phase := .placed } : Gang).phase = .placed ∧ inGang.reachable soloGang = true ∧
    inGang.reachable wideGang = false ∧ soloGang.devs.length ≤ 1 ∧
    (∃ m ∈ [(⟨0, 0, some 0, 0, 1, 0, true, 0, 0x8000⟩ : Member)], m.arrived.getLsbD 15 = true) ∧
    (∀ m ∈ [(⟨0, 0, some 0, 0, 1, 0, true, 0, 0x8000⟩ : Member)], m.live = true → m.arrived.getLsbD 15 = true) ∧
    ∃ m ∈ soloGang.members, m.live = true ∧ m.arrived.getLsbD 15 = false := by
  refine ⟨rfl, by decide, by decide, by decide, by decide, by decide, by decide⟩

/-- Parts of two members in reduction 0: one FP32 element each, at 0x20400 and 0x20500. -/
def joinAt (r : Nat) (a : Nat) : Join := ⟨r, BitVec.ofNat 16 r, 1, 0, 0x35, scheduleSteps, ⟨2, dataSlot⟩, a, 3, r⟩
def joined : Reduction := ⟨0, [joinAt 0 0x20400, joinAt 1 0x20500], false⟩
def endingGang : Gang := { pairGang with reds := [joined] }
def ending : State := { inGang with gangs := [endingGang] }
theorem hyp_reduction_ends : let l := [joinAt 0 0x20400, joinAt 1 0x20500]
    ending.gang 1 = some endingGang ∧ (endingGang.reds.find? fun x => x.k == 0) = some joined ∧
    joined.joins.Pairwise (fun i j => i.ser ≠ j.ser ∧ i.rank ≠ j.rank) ∧
    (endingGang.members.filterMap fun m => joined.joins.find? fun j => j.rank == m.rank) = l ∧ endingGang.cancel = none ∧
    (∀ m ∈ endingGang.members, m.live = true → ∃ j ∈ joined.joins, j.rank = m.rank) ∧
    (∀ i ∈ l, i.op = 0 ∧ i.etype = 0x35 ∧ i.count = 1 ∧ ∀ j ∈ l, i.count = j.count ∧ i.op = j.op ∧ i.etype = j.etype ∧
      i.steps = j.steps) ∧
    Memory.wf ending.mem = true ∧ WholeLines ending ∧ ending.gather endingGang l [] =
      (.ok [[0, 0, 0, 0], [0, 0, 0, 0]], counted ending (ending.gather endingGang l []).2) ∧ endingGang.devs.length ≤ 1 ∧
    (∀ j ∈ l, j.buf.word.keyid = 0 ∧ ending.engineWaits (j.ctx ending endingGang) j.boff 4 = false ∧
      ∀ o, o < 4 → LocalMemory ending (j.boff + o) ∧
        (endingGang.wid = 0 ∨ ending.fwdAt 1 (ending.canon (j.boff + o)) = none)) ∧
    (∀ i ∈ l, ∀ j ∈ l, ∀ o p, o < 4 → p < 4 →
      performedAt ending (i.boff + o) = performedAt ending (j.boff + p) → i = j ∧ o = p) ∧
    joined.sent = false ∧ ({ joined with sent := true } : Reduction).sent = true ∧
    ¬ ∃ j ∈ l, endingGang.joinedHere j = true ∧ ending.heldAt j.stream (j.ctx ending endingGang) j.boff j.bytes = true := by
  refine ⟨rfl, rfl, by decide, rfl, rfl, by decide, by decide, bench_memory, whole_free _ rfl, rfl, by decide, fun j hj => ?_,
    fun i hi j hj o p ho hp h => ?_, rfl, rfl, fun ⟨j, _, _, h⟩ => nomatch h⟩
  · simp only [List.mem_cons, List.not_mem_nil, or_false] at hj
    rcases hj with rfl | rfl
    · exact ⟨rfl, rfl, fun o ho => ⟨local_low _ _ (by show 0x20400 + o < _; omega), .inl rfl⟩⟩
    · exact ⟨rfl, rfl, fun o ho => ⟨local_low _ _ (by show 0x20500 + o < _; omega), .inl rfl⟩⟩
  · simp only [List.mem_cons, List.not_mem_nil, or_false] at hi hj
    have a1 : (joinAt 0 0x20400).boff = 0x20400 := rfl
    have a2 : (joinAt 1 0x20500).boff = 0x20500 := rfl
    have b : i.boff = 0x20400 ∨ i.boff = 0x20500 := by rcases hi with rfl | rfl <;> simp [a1, a2]
    have c : j.boff = 0x20400 ∨ j.boff = 0x20500 := by rcases hj with rfl | rfl <;> simp [a1, a2]
    rw [performedAt_low _ rfl _ (by omega), performedAt_low _ rfl _ (by omega)] at h
    rcases hi with rfl | rfl <;> rcases hj with rfl | rfl
    · exact ⟨rfl, by omega⟩
    · rw [a1, a2] at h; omega
    · rw [a1, a2] at h; omega
    · exact ⟨rfl, by omega⟩
theorem hyp_reduction_disagrees : ∃ i ∈ joined.joins, ∃ j ∈ [{ joinAt 1 0x20500 with count := 2 }],
    ¬ (i.count = j.count ∧ i.op = j.op ∧ i.etype = j.etype ∧ i.steps = j.steps) := by decide
theorem hyp_reduction_cancelled : ({ endingGang with cancel := some 0 } : Gang).cancel = some 0 ∧ 0 ≤ joined.k ∧
    ∃ m ∈ endingGang.members, ¬ ∃ j ∈ [joinAt 0 0x20400], j.rank = m.rank := by decide

/-- A worklist whose every push is retired, on which the hart waits in `wlpop`. -/
def drained : Worklist := { armed with tasks := [], tokens := [], retired := 2 }
def popping : State := { listing drained with hart := { inGang.hart with wait := some (.wlpop 4 10) } }
theorem hyp_detection : popping.listOf 1 0 = some drained ∧ drained.state = .armed ∧ drained.wave = none ∧
    popping.popWaits 1 0 = true ∧ (∀ t ∈ drained.tasks, t.dev ≠ popping.devIndex) ∧
    (∀ t ∈ drained.tokens, t.dev ≠ popping.devIndex) ∧ drained.pushes = drained.retired ∧
    ({ drained with wave := some (2, 2) }).pushes = 2 ∧ shut.state ≠ .armed := by
  refine ⟨rfl, rfl, rfl, rfl, noMember, noMember, rfl, rfl, by decide⟩
/-- One step from member 0 to member 1, and a task at the top of the window. -/
def balanced : Worklist := { armed with record := [0x2000100000010000], waiters := [1] }
def balancing : State := { listing balanced with gangs := [{ wideGang with lists := [balanced] }] }
theorem hyp_balancing : balancing.listOf 1 0 = some balanced ∧ balanced.record[0]? = some 0x2000100000010000 ∧
    wideGang.devs[stepFrom 0x2000100000010000]? = some 0 ∧ wideGang.devs[stepTo 0x2000100000010000]? = some 1 ∧
    stepMax 0x2000100000010000 = 1 ∧ (1 : BitVec 8) ≠ balancing.devIndex ∧ 1 ∈ balanced.waiters ∧
    (∀ t ∈ balanced.tasks, t.dev = 1 → balanced.floor + balanced.delta < t.level) ∧
    (⟨7, 63, 0, none⟩ : Task) ∈ balanced.tasks ∧ 63 ≤ balanced.floor + balanced.delta ∧
    ∀ r ∈ balanced.tasks, r.dev = 0 → r ≠ ⟨7, 63, 0, none⟩ → 63 < r.level := by decide
/-- A spilled task whose record lies in place 0 of its device's part. -/
def record0 : Spill := ⟨0, 9⟩
def spilledList : Worklist := { armed with tasks := [⟨7, 63, 0, some record0⟩] }
def spilling : State := { listing spilledList with mem := Bytes.write benchMemory 0x20400 record0.bytes }
theorem hyp_unspilling : spilling.listOf 1 0 = some spilledList ∧ spilledList.tasks = [⟨7, 63, 0, some record0⟩] ∧
    63 < spilledList.floor + 64 ∧ spilling.unitRoom = true ∧
    spilling.readRecord { soloGang with lists := [spilledList] } spilledList record0 = some (true, spilling) := by
  refine ⟨rfl, rfl, by decide, by decide, ?_⟩
  have h : Bytes.read spilling.mem 0x20400 16 = record0.bytes := Bytes.read_write bench_memory 0x20400 record0.bytes
  have e : (some (Bytes.read spilling.mem 0x20400 16 ++ []) == some record0.bytes) = true := by
    rw [h, List.append_nil]
    exact beq_self_eq_true _
  show some ((some (Bytes.read spilling.mem 0x20400 16 ++ []) == some record0.bytes), spilling) = _
  rw [e]
/-- Every spilled task comes back while the units have room, and one far above F stays. -/
theorem hyp_unspilling_many : spilling.heldWords +
    (spilledList.tasks.filter fun t => t.spilled.isSome && decide (t.dev = spilling.devIndex ∧ t.level < spilledList.floor + 64)).length ≤
      4 * 2 ^ 18 ∧ ¬ (127 < ({ spilledList with tasks := [⟨7, 127, 0, some record0⟩] } : Worklist).floor + 64) := by decide

/-! ### Ends of work, the memory side and the outside -/

/-- A place within the data is a plain place for the engines. -/
theorem engine_low (s : State) (wid : BitVec 10) (p : SlotRef × Nat) (n : Nat) (hk : p.1.word.keyid = 0)
    (hf : s.fwd = Vector.replicate 64 .free) (hl : s.lost = []) (hn : p.2 + n < 12 * 2 ^ 37) : EnginePlace s wid p n := by
  refine ⟨hk, whole_free s hf, fun o ho => ⟨local_low s _ (by omega), ?_, .inr (fwdAt_free s hf 1 (by decide) _)⟩,
    fun o q ho hq h => ?_⟩
  · rw [hl]
    exact List.not_mem_nil
  rw [performedAt_low s hf _ (by omega), performedAt_low s hf _ (by omega)] at h
  omega

def boundStream : State :=
  { bench with hart := { bench.hart with streams := bench.hart.streams.set 7 dataStream } }
theorem hyp_stream_fetching : let b := boundStream.hart.streams[7]
    boundStream.findHart 0 = some (boundStream.focus 0).hart ∧ (boundStream.focus 0).hart.hm = false ∧ b.bound = true ∧
    ETy.ofCode b.et.toNat = some (.sint 32) ∧ (ETy.sint 32).byteWidth = true ∧ b.pos.toNat + b.ready.length < b.extent.toNat ∧
    (b.ready.length + 1) * 4 ≤ 1024 ∧ b.slot = some ⟨2, dataSlot⟩ ∧ LocalMemory boundStream 0x20004 ∧
    boundStream.engineWaits ⟨0, 0, 0, 0x8000, none, 0⟩ 0x20004 4 = false ∧
    boundStream.readBytes ⟨0, 0, 0, 0x8000, none, 0⟩ dataSlot 0x20004 4 = some [4, 5, 6, 7] := by
  refine ⟨rfl, rfl, rfl, rfl, rfl, by decide, by decide, rfl, local_low _ _ (by omega), rfl, rfl⟩

/-- A shard of one node of four INT8 elements at 0x20400, to be searched for a query of K 1. -/
def testShard : Shard := ⟨0, 1, 1, 0, 0, ⟨2, dataSlot⟩, 0x20400, 0x20500, 4, 8, none⟩
def testQuery (r : Option (List Near × Nat × Nat × Nat)) : Query :=
  ⟨[{ testShard with result := r }], 1, 1, 1, 0x23, 0, 4, [0, 0, 0, 0], ⟨2, dataSlot⟩, 0x20300⟩
def testProduct : Product :=
  ⟨0x20100, 0, [1], 0x23, 2, 4, 2, 64, ⟨2, dataSlot⟩, ⟨2, dataSlot⟩, ⟨2, dataSlot⟩, 0x20800, 0x20900, 0x20A00, [1, 2, 3, 4]⟩
def ticketOf (w : Work) : Ticket := ⟨0, 0, 0, 5, 3, 2, w, false, false⟩
def flying (w : Work) : State := { inLanes with tickets := [ticketOf w] }
theorem hyp_tickets : (∀ w, ((flying w).tickets.find? fun y => y.ser == 0 && y.num == 5) = some (ticketOf w)) ∧
    ((testQuery none).shards.find? fun y => y.stack == 0 && y.result.isNone) = some testShard ∧
    (flying (.query (testQuery none))).shardHeld (ticketOf (.query (testQuery none))) testShard = false ∧
    (∀ h ∈ (testQuery (some ([], 0, 0, 0))).shards, h.result.isSome = true) ∧
    Memory.wf (flying (.product testProduct)).mem = true ∧
    (ticketOf (.product testProduct)).sent = false ∧ (flying (.product testProduct)).held = [] ∧
    EnginePlace (flying (.query (testQuery none))) 0 (⟨2, dataSlot⟩, 0x20300) 40 ∧
    (flying (.product testProduct)).productHeld (ticketOf (.product testProduct)) testProduct = false ∧
    (∀ i, i < 2 → (flying (.product testProduct)).readBytes (ticketOf (.product testProduct)).ctx
      (testProduct.rowAt i).1.word (testProduct.rowAt i).2 4 = some [0, 0, 0, 0]) ∧
    EnginePlace (flying (.product testProduct)) 0 (⟨2, dataSlot⟩, 0x20A00) 8 := by
  refine ⟨fun w => rfl, rfl, rfl, by decide, bench_memory, rfl, rfl, engine_low _ _ _ _ rfl rfl rfl (by show 0x20300 + 40 < _; omega), rfl,
    fun i hi => ?_, engine_low _ _ _ _ rfl rfl rfl (by show 0x20A00 + 8 < _; omega)⟩
  obtain rfl | rfl : i = 0 ∨ i = 1 := by omega
  · rfl
  · rfl
/-- A ticket whose record has left, with and without a write of it that a forwarding entry holds. -/
def sentTicket : Ticket := { ticketOf (.query (testQuery (some ([], 0, 0, 0)))) with sent := true }
def sentOff : State := { inLanes with tickets := [sentTicket] }
def sentHeld : State := { sentOff with held := [⟨0, .ticket 0 5, ⟨0x20300, [1], 0, 0, 0, 0, true, false⟩, none⟩] }
theorem hyp_tickets_sent : (sentOff.tickets.find? fun y => y.ser == 0 && y.num == 5) = some sentTicket ∧
    sentTicket.work = .query (testQuery (some ([], 0, 0, 0))) ∧ sentTicket.sent = true ∧ sentOff.held = [] ∧
    (∃ w ∈ sentHeld.held, w.stream = .ticket sentTicket.ser sentTicket.num) ∧ ∀ y ∈ sentHeld.tickets, y = sentTicket :=
  ⟨rfl, rfl, rfl, rfl, ⟨_, List.mem_singleton.2 rfl, rfl⟩, fun _ h => List.mem_singleton.1 h⟩
theorem hyp_shard_searched : ∃ r, testShard.search (testQuery none) (fun a m => if m = 0 then some [] else
    (flying (.query (testQuery none))).readBytes (ticketOf (.query (testQuery none))).ctx dataSlot a m) = .ok r :=
  ⟨_, rfl⟩

/-- A copy of row 1 of a map to its row area, and a piece of a transfer. -/
def rowCopy : HotCopy := ⟨0x20100, 0, 0, 0, [1], 0x20800, 0x20C00, 64, 4, ⟨2, dataSlot⟩, ⟨2, dataSlot⟩, false⟩
def transfer : Job := ⟨0, 1, 0, 0, 3, [some ⟨0x20000, 0x20200, 8, 0, false⟩], ⟨2, dataSlot⟩, ⟨2, dataSlot⟩, false, false⟩
def moves : State := { inLanes with copies := [rowCopy], jobs := [transfer] }
theorem hyp_copies : moves.copies[0]? = some rowCopy ∧ moves.jobs[0]? = some transfer ∧ Memory.wf moves.mem = true ∧
    moves.engineWaits (engineCtx 0 0 0) dataSlot.lo 0x10000 = false ∧
    moves.heldAt rowCopy.stream (engineCtx 0 0 0) 0x20C00 64 = false ∧ moves.engineWaits (engineCtx 0 0 0) 0x20000 8 = false ∧
    moves.heldAt transfer.stream (engineCtx 0 0 0) 0x20200 8 = false ∧ EnginePlace moves 0 (⟨2, dataSlot⟩, 0x20C00) 64 ∧
    (∀ e i : Nat, rowCopy.rows[e]? = some i → LocalMemory moves (0x20800 + i * 64) ∧
      moves.readBytes (engineCtx 0 0 0) dataSlot (0x20800 + i * 64) 4 = some [0, 0, 0, 0] ∧
      ∀ o q, o < 4 → q < 64 →
        performedAt moves (0x20800 + i * 64 + o) / 64 ≠ performedAt moves (0x20C00 + q) / 64) ∧
    transfer.pieces[0]? = some (some ⟨0x20000, 0x20200, 8, 0, false⟩) ∧
    (∀ i x, moves.jobs[i]? = some x → x.ser = transfer.ser → x.num = transfer.num → i = 0) ∧
    moves.readBytes (engineCtx 0 0 0) dataSlot 0x20000 8 = some [0x80, 1, 2, 3, 4, 5, 6, 7] ∧
    EnginePlace moves 0 (⟨2, dataSlot⟩, 0x20200) 8 := by
  refine ⟨rfl, rfl, bench_memory, rfl, rfl, rfl, rfl, engine_low _ _ _ _ rfl rfl rfl (by show 0x20C00 + 64 < _; omega), ?_, rfl, ?_, rfl,
    engine_low _ _ _ _ rfl rfl rfl (by show 0x20200 + 8 < _; omega)⟩
  · intro e i h
    have : i = 1 := by
      rcases e with _ | e
      · exact (Option.some.inj h).symm
      · exact absurd h (by simp [rowCopy])
    subst this
    refine ⟨local_low _ _ (by omega), rfl, fun o q ho hq => ?_⟩
    rw [performedAt_low moves rfl _ (by omega), performedAt_low moves rfl _ (by omega)]
    omega
  · intro i x h _ _
    rcases i with _ | i
    · rfl
    · exact absurd h (by simp [moves])

def dirtyLine : DirtyLine := ⟨0x20000, 0, [0], List.replicate 64 9, 0⟩
def aWrite : MemWrite := ⟨0x20000, [1, 2], 0, 0, 0, 0, false, false⟩
def sending : State := { bench with packets := [⟨.scalar 0, 1, 7, [aWrite]⟩, ⟨.scalar 0, 1, 8, [aWrite]⟩], dirty := [dirtyLine] }
/-- A tenant's slot word of KEYID 5 over the data. -/
def keyedSlot : SlotWord := { dataSlot with keyid := 5, version := 3 }
def keyed : State :=
  { tenant with
    worlds := [openWorld]
    mem := Bytes.write (Bytes.write [] 0x8000 tableBytes) 0x8060 (Crypto.leBytes 16 keyedSlot.toNat) }
theorem hyp_memory_side : (∃ d ∈ sending.dirty, d.line = 0x20000) ∧ (∀ d ∈ bench.dirty, d.line ≠ 0x20000) ∧
    bench.hart.alive = true ∧ bench.localLine 0x20000 = true ∧
    bench.coveringSlot 0x20000 (fun w => decide (2 ≤ w.attr.toNat)) = none ∧
    bench.coveringSlot 0x20000 (fun w => decide (w.attr.toNat < 2)) = some dataSlot ∧
    (bench.readBytes bench.ctx dataSlot 0x20000 64).isSome = true ∧
    bench.coveringSlot 0x40000 (fun w => decide (w.attr.toNat < 2)) = none ∧
    sending.packets[0]? = some ⟨.scalar 0, 1, 7, [aWrite]⟩ ∧ sending.packets[1]? = some ⟨.scalar 0, 1, 8, [aWrite]⟩ ∧
    sending.forward aWrite.key / 64 * 64 ∉ sending.lost ∧
    aWrite.keyid = 0 ∧ Memory.wf sending.mem = true := by
  refine ⟨⟨dirtyLine, List.mem_singleton_self _, rfl⟩, noMember, rfl, rfl, rfl, rfl, rfl, rfl, rfl, rfl, ?_, rfl, bench_memory⟩
  exact List.not_mem_nil
/-- A packet of a vector instruction whose entry is still in the queue. -/
def unfinished : State := { queued { loading with stamp := 7 } with packets := [⟨.vector 0, 1, 7, [aWrite]⟩] }
theorem hyp_unfinished_packet : unfinished.packets[0]? = some ⟨.vector 0, 1, 7, [aWrite]⟩ ∧
    ∃ h ∈ unfinished.hart :: unfinished.others, h.alive = true ∧ h.ser = 0 ∧ ∃ e ∈ h.queue, e.stamp = 7 :=
  ⟨rfl, _, List.mem_cons_self .., rfl, rfl, _, List.mem_singleton_self _, rfl⟩
/-- A fill that a tenant's slot covers. -/
theorem hyp_line_fault : keyed.hart.alive = true ∧ keyed.localLine 0x20000 = true ∧ keyed.hart.wid ≠ 0 ∧
    keyed.hart.hm = false ∧
    keyed.coveringSlot 0x20000 (fun w => decide (2 ≤ w.attr.toNat)) = none ∧
    keyed.coveringSlot 0x20000 (fun w => decide (w.attr.toNat < 2)) = some keyedSlot := by
  refine ⟨rfl, rfl, by decide, rfl, rfl, rfl⟩
/-- A hart that waits for the host, and an entry of a queue that does. -/
def askedEntry : QEntry := { loading with asked := true }
theorem hyp_host_link : (waiting .host).findHart 0 = some (waiting .host).hart ∧ (waiting .host).hart.answer = none ∧
    (queued askedEntry).hart.wait ≠ some .host ∧ (queued askedEntry).hart.queue = [] ++ askedEntry :: [] ∧
    askedEntry.asked = true ∧ askedEntry.answer = none ∧ (waiting .hostFetch).findHart 0 = some (waiting .hostFetch).hart ∧
    (waiting .hostFetch).hart.answer = none := by
  refine ⟨rfl, rfl, nofun, rfl, rfl, rfl, rfl, rfl⟩
theorem hyp_corrected_errors : (bench.lastSecond 5 0).length < 8 ∧
    { bench with corrected := [(5, 0, 3, 0x20000)] }.corrected = [] ++ (5, 0, 3, 0x20000) :: [] ∧
    bench.corrected.any (fun x => x.1 == 5 && x.2.1 == 0) = false ∧ (0 : BitVec 16).toNat < unitCount 8 ∧
    ((8 : BitVec 8), (0 : BitVec 16)) ∉ bench.retired ∧
    { bench with tests := [(8, 0, 2)] }.tests.find? (fun x => x.1 == 8 && x.2.1 == 0) = some (8, 0, 2) := by
  refine ⟨by decide, rfl, rfl, by decide, by decide, rfl⟩
set_option maxRecDepth 20000 in
/-- Lane group 0, which serves the hart of core 0, fails its self-test; root port 7 has a mapped extent. -/
theorem hyp_unit_retirement : (0 : BitVec 16).toNat < unitCount 1 ∧ ((1 : BitVec 8), (0 : BitVec 16)) ∉ inLanes.retired ∧
    (inLanes.hart :: inLanes.others).Pairwise (fun x y => x.ser ≠ y.ser) ∧ inLanes.findHart 0 = some inLanes.hart ∧
    inLanes.hart.core = BitVec.ofNat 8 ((0 : BitVec 16).toNat / 4) ∧ inLanes.hart.vloc = 1 ∧ 0 ∈ inLanes.hart.groups ∧
    inLanes.hart.life = .running ∧ (3 : BitVec 16).toNat < unitCount 10 ∧ (1 : BitVec 16).toNat < unitCount 11 ∧
    (7 : BitVec 16).toNat < unitCount 13 ∧
    ({ bench with extents := bench.extents.set 511 ⟨8191, 1, 2⟩ }.extentAt (7 * 64 + 63)).state = 2 := by
  refine ⟨by decide, by decide, List.pairwise_singleton _ _, rfl, rfl, rfl, by decide, rfl, by decide, by decide, by decide, rfl⟩
/-- The same dirty line under a key. -/
def keyedLine : DirtyLine := { dirtyLine with keyid := 5 }
theorem hyp_keyed_line_lost : let s := { bench with dirty := [keyedLine], worlds := [openWorld] }
    keyedLine ∈ s.dirty ∧ (∀ x ∈ s.dirty, x.line = keyedLine.line → x = keyedLine) ∧ keyedLine.keyid ≠ 0 ∧
    s.world keyedLine.keyid = some openWorld ∧ (∀ h ∈ s.hart :: s.others, h.wid = keyedLine.keyid → h.alive = false) ∧
    keyedLine.backing.length = 64 := by
  refine ⟨List.mem_singleton_self _, fun x h _ => List.mem_singleton.1 h, by decide, rfl, fun h m w => ?_, rfl⟩
  rw [List.mem_singleton.1 m] at w
  exact absurd w (by decide)
/-- Writes of a whole line and of a part of it, at a line in the data. -/
theorem hyp_line_writes : let w : MemWrite := ⟨0x20000, List.replicate 64 1, 0, 0, 0, 0, false, true⟩
    bench.forward w.key / 64 * 64 = 0x20000 ∧ w.whole = true ∧ w.data.length = 64 ∧ aWrite.whole = false := by
  refine ⟨rfl, rfl, rfl, rfl⟩
theorem hyp_uncorrectable_errors : (listing armed).listOf 1 0 = some armed ∧ 0 < armed.tasks.length ∧
    (∀ g, (listing armed).gang 1 = some g → g.lists.Pairwise fun x y => x.w ≠ y.w) ∧ dirtyLine ∈ sending.dirty ∧
    (∀ x ∈ sending.dirty, x.line = dirtyLine.line → x = dirtyLine) ∧ dirtyLine.keyid = 0 ∧ dirtyLine.backing.length = 64 ∧
    bench.hart.alive = true ∧ bench.localLine 0x20000 = true ∧ (∀ d ∈ bench.dirty, d.line ≠ 0x20000) ∧
    bench.forward (bench.key bench.ctx.core 0x20004) / 64 * 64 = 0x20000 := by
  refine ⟨rfl, by decide, ?_, List.mem_singleton_self _, fun x h _ => List.mem_singleton.1 h, rfl, rfl, rfl, rfl, noMember, rfl⟩
  intro g h
  have e : (listing armed).gang 1 = some { soloGang with lists := [armed] } := rfl
  rw [e] at h
  cases h
  exact List.pairwise_singleton _ _
/-! The words of a flit bit by bit, and a flit whose word 0 is damaged on slice link 32 (R391). -/

theorem arriving_bit (d c dmg k i) (h : k < 8) : ((arriving d c dmg).getD k 0).getLsbD i =
    (((c.extractLsb' (8 * k) 8 ++ d.extractLsb' (64 * k) 64 : BitVec 72) ^^^ dmg.getD k 0)).getLsbD i := by
  simp [arriving, fabricWords, List.getD_eq_getElem?_getD, List.getElem?_range h]
theorem fabric_bit (d c k i) (h : k < 8) : ((fabricWords d c).getD k 0).getLsbD i =
    ((c.extractLsb' (8 * k) 8 ++ d.extractLsb' (64 * k) 64 : BitVec 72)).getLsbD i := by
  simp [fabricWords, List.getD_eq_getElem?_getD, List.getElem?_range h]

theorem damaged_flit (n d d') : arriving d (Config.crc64 d n) [0x10000000000000000] ≠ flitWords n d' := by
  intro h
  have bit (k i) (hk : k < 8) := (arriving_bit d (Config.crc64 d n) [0x10000000000000000] k i hk).symm.trans
    ((congrArg (fun l : List (BitVec 72) => (l.getD k 0).getLsbD i) h).trans (fabric_bit d' (Config.crc64 d' n) k i hk))
  have e : d = d' := by
    apply BitVec.eq_of_getLsbD_eq
    intro i hi
    have := bit (i / 64) (i % 64) (by omega)
    have m : i % 64 < 64 := by omega
    have q : 64 * (i / 64) + i % 64 = i := by omega
    have z : (List.getD [0x10000000000000000] (i / 64) (0 : BitVec 72)).getLsbD (i % 64) = false := by
      obtain h0 | h0 : i / 64 = 0 ∨ 1 ≤ i / 64 := by omega
      · rw [h0]
        have : ∀ j < 64, (0x10000000000000000 : BitVec 72).getLsbD j = false := by decide
        exact this _ m
      · rw [List.getD_eq_default _ _ (by simpa using h0)]; simp
    rw [BitVec.getLsbD_xor, z, Bool.xor_false, BitVec.getLsbD_append, BitVec.getLsbD_append] at this
    simp only [m, decide_true, if_true, BitVec.getLsbD_extractLsb', Bool.true_and, q] at this
    exact this
  subst e
  have := bit 0 64 (by omega)
  rw [BitVec.getLsbD_xor] at this
  have z : (List.getD [0x10000000000000000] 0 (0 : BitVec 72)).getLsbD 64 = true := by decide
  rw [z] at this
  simp at this

theorem intact_flit (n d) : arriving d (Config.crc64 d n) [] = flitWords n d := by
  simp [arriving, flitWords, fabricWords]

/-- Check bits that are not those of the flit. -/
theorem wrong_check (n d d') : arriving d (~~~(Config.crc64 d n)) [] ≠ flitWords n d' := by
  intro h
  have z (k i : Nat) : (List.getD [] k (0 : BitVec 72)).getLsbD i = false := by simp
  have bit (k i) (hk : k < 8) := (arriving_bit d (~~~(Config.crc64 d n)) [] k i hk).symm.trans
    ((congrArg (fun l : List (BitVec 72) => (l.getD k 0).getLsbD i) h).trans (fabric_bit d' (Config.crc64 d' n) k i hk))
  have e : d = d' := by
    apply BitVec.eq_of_getLsbD_eq
    intro i hi
    have := bit (i / 64) (i % 64) (by omega)
    have m : i % 64 < 64 := by omega
    have q : 64 * (i / 64) + i % 64 = i := by omega
    rw [BitVec.getLsbD_xor, z, Bool.xor_false, BitVec.getLsbD_append, BitVec.getLsbD_append] at this
    simp only [m, decide_true, if_true, BitVec.getLsbD_extractLsb', Bool.true_and, q] at this
    exact this
  subst e
  have := bit 0 64 (by omega)
  rw [BitVec.getLsbD_xor, z, Bool.xor_false, BitVec.getLsbD_append, BitVec.getLsbD_append] at this
  simp [-BitVec.getLsbD_eq_getElem] at this

/-- A port with two flits unacknowledged, and one that retrains. -/
def sentTwo : Link := { bench.link with retry := [(7, 0), (8, 0)] }
def training : Link := { sentTwo with training := true }
theorem hyp_fabric_port : sentTwo.up = true ∧ sentTwo.training = false ∧ sentTwo.room ≠ 0 ∧
    sentTwo.retry = [(7, 0)] ++ (8, 0) :: [] ∧ (∀ y ∈ [((7 : BitVec 10), (0 : BitVec 512))], y.1 ≠ 8) ∧
    sentTwo.discard = false ∧ arriving 0 (Config.crc64 0 sentTwo.expect) [] = flitWords sentTwo.expect 0 ∧
    (∀ d, arriving 0 (Config.crc64 0 sentTwo.expect) [0x10000000000000000] ≠ flitWords sentTwo.expect d) ∧
    training.up = true ∧ training.training = true ∧ training.retry ≠ [] ∧ (∀ k, (10, k) ∉ bench.retired) ∧
    ({ sentTwo with up := false } : Link).up = false ∧ damagedLinks [] = [] ∧
    damagedLinks [0x10000000000000000] = [32] ∧
    (∀ d, arriving 0 (~~~(Config.crc64 0 sentTwo.expect)) [] ≠ flitWords sentTwo.expect d) ∧ (10, 3) ∈ { bench with retired := [(10, 3)] }.retired := by
  refine ⟨rfl, rfl, by decide, rfl, ?_, rfl, intact_flit _ _, damaged_flit _ _, rfl, rfl, by decide, fun k => List.not_mem_nil, rfl, rfl,
    by decide, wrong_check _ _,
    List.mem_singleton_self _⟩
  · intro y h
    rw [List.mem_singleton.1 h]
    show (7 : BitVec 10) ≠ 8
    decide

/-- A started gang with members on two devices when the port goes down, and one that has not started. -/
def cutOff : State := { inDomain with link := training }
theorem hyp_port_down : cutOff.link.up = true ∧ cutOff.link.training = true ∧ cutOff.findHart 0 = some cutOff.hart ∧
    cutOff.gang cutOff.hart.gid = some wideGang ∧ wideGang.phase = .started ∧
    (cutOff.hart :: cutOff.others).Pairwise (fun x y => x.ser ≠ y.ser) ∧
    (∀ x ∈ cutOff.gangs, x.gid = cutOff.hart.gid → x = wideGang) ∧ cutOff.farGang wideGang = true ∧
    cutOff.farGang { wideGang with phase := .placed } = true := by
  refine ⟨rfl, rfl, rfl, rfl, rfl, List.pairwise_singleton _ _, fun x h _ => List.mem_singleton.1 h, rfl, rfl⟩

/-- Entry 63 of root port 7, which a mapped extent of one unit at the end of the port takes. -/
def tiered (n : BitVec 3) : State := { bench with extents := bench.extents.set 511 ⟨8191, 1, n⟩ }
theorem idle_reaches (s t : State) (r : Range) (h : s.hart.streams = Vector.replicate 8 .unbound) (q : s.hart.queue = [])
    (c : s.hart.capture = none) : t.reaches s.hart r = false := by
  unfold State.reaches
  rw [h, q, c]
  simp [State.streamMeets, Stream.unbound]
theorem idle_busy (n : BitVec 3) (mine : BitVec 16 → Bool) (r : Range) : (tiered n).busyAt mine r = false := by
  have o : ∀ x, (tiered n).busyIn mine x = false := fun x => by
    have e : (tiered n).reaches (tiered n).hart x = false := idle_reaches (tiered n) (tiered n) x rfl rfl rfl
    have hh : (tiered n).harts = [(tiered n).hart] := rfl
    unfold State.busyIn
    rw [hh]
    simp only [List.any_cons, e, Bool.and_false]
    rfl
  unfold State.busyAt
  rw [List.any_eq_false]
  exact fun x _ => by rw [o x]; exact Bool.false_ne_true
set_option maxRecDepth 20000 in
theorem hyp_capacity_tier : ((tiered 0).extentAt 511).state = 0 ∧ 8191 + (1 : BitVec 14).toNat ≤ 8192 ∧
    ((tiered 1).extentAt 511).state = 1 ∧ (tiered 1).extentClash 511 = false ∧ ((tiered 2).extentAt 511).state = 2 ∧
    ((tiered 3).extentAt 511).state = 3 ∧ (tiered 3).busyAt (fun _ => true) ((tiered 3).extentRange 511) = false ∧
    (∀ j ∈ (tiered 3).seals, j.meets (tiered 3) ((tiered 3).extentRange 511) = false) ∧
    (∀ h ∈ [(tiered 3).hart], h.alive = true → (tiered 3).inFlight h ((tiered 3).extentRange 511) = false) ∧
    (tiered 3).dirty = [] ∧
    { tiered 1 with extents := (tiered 1).extents.set 510 ⟨8190, 2, 2⟩ }.extentClash 511 = true := by
  refine ⟨rfl, rfl.le, rfl, rfl, rfl, rfl, idle_busy .., noMember, fun _ _ _ => idle_busy .., rfl, rfl⟩
/-- A dirty line of the extent that a tenant's hart has written. -/
def tierLine : DirtyLine := ⟨2 ^ 44 + 7 * 2 ^ 41 + 8191 * 2 ^ 28, 5, [5], List.replicate 64 9, 0⟩
def withdrawn : State := { tiered 2 with hart := tenant.hart, dirty := [tierLine] }
set_option maxRecDepth 20000 in
theorem hyp_forced_release : (withdrawn.extentAt 511).state = 2 ∧
    (withdrawn.hart :: withdrawn.others).Pairwise (fun y z => y.ser ≠ z.ser) ∧ Memory.wf withdrawn.mem = true ∧
    withdrawn.dirty.Pairwise (fun y z => y.line ≠ z.line) ∧ (∀ d ∈ withdrawn.dirty, d.line % 64 = 0) ∧
    (withdrawn.extentRange 511).meets tierLine.line 64 = true ∧ tierLine.backing.length = 64 ∧
    withdrawn.hart.wid ∈ tierLine.writers ∧ withdrawn.world withdrawn.hart.wid = none := by
  refine ⟨rfl, List.pairwise_singleton _ _, bench_memory, List.pairwise_singleton _ _, ?_, by decide, rfl, by decide, rfl⟩
  intro d h
  rw [List.mem_singleton.1 h]
  decide
theorem hyp_management : { bench with clock := 1900 }.clock.toNat < 2000 ∧ 800 < bench.clock.toNat ∧
    2000 ≤ bench.clock.toNat ∧ { bench with clock := 800 }.clock = 800 ∧ 1200 ≤ (1200 : BitVec 16).toNat ∧
    (3600 : BitVec 16).toNat ≤ 3600 := by
  refine ⟨by decide, by decide, by decide, rfl, by decide, by decide⟩
theorem hyp_counter_disclosure : inWorld.world 5 = some openWorld ∧ openWorld.allow.getLsbD 0 = true ∧
    openWorld.allow.getLsbD 6 = false := by
  refine ⟨rfl, by decide, by decide⟩
/-- An entry over one line of the data, and its new place. -/
def lineEntry (m : BitVec 2) : FwdEntry := { FwdEntry.free with old := 0x800, new := 0x900, len := 64, mode := m }
def entered (m : BitVec 2) : State := { bench with fwd := bench.fwd.set 63 (lineEntry m) }
theorem hyp_device_window : (entered 0).fwd[63].mode = 0 ∧ (entered 0).holdRefused 63 (lineEntry 0) = false ∧
    (entered 1).fwd[63].mode = 1 ∧ (∀ w ∈ (entered 1).held, w.entry ≠ 63) ∧ (entered 2).fwd[63].mode = 2 ∧
    (entered 0).holdRefused 63 { lineEntry 0 with new := 0x800 } = true ∧ bench.csafree.length < 65536 ∧
    (0x50000 : BitVec 64).toNat % 64 = 0 ∧ bench.findHart 0 = some bench.hart ∧ resuming.findHart 1 = some second ∧
    second.life = .descheduled ∧ (63 : BitVec 64).toNat < 64 := by
  refine ⟨rfl, rfl, rfl, noMember, rfl, rfl, by decide, by decide, rfl, rfl, rfl, by decide⟩
/-- An entry that holds one write. -/
def holdsOne : State := { entered 1 with held := [⟨63, .scalar 0, aWrite, none⟩] }
theorem hyp_held_writes : holdsOne.fwd[63].mode = 1 ∧ ∀ w ∈ holdsOne.held.filter (fun w => w.entry == 63),
    w.amo = none ∧ w.wr.keyid = 0 ∧
      ({ holdsOne with fwd := holdsOne.fwd.set 63 (lineEntry 2) }).forward w.wr.key / 64 * 64 ∉ holdsOne.lost := by
  refine ⟨rfl, fun w h => ?_⟩
  have e : w = ⟨63, .scalar 0, aWrite, none⟩ := List.mem_singleton.1 h
  subst e
  exact ⟨rfl, rfl, List.not_mem_nil⟩
def loadJob (inst : Bool) : SealJob := ⟨inst, 0, 5, 3, 0, 9, manifestWords, List.replicate 104 0, 0x120000, 0, 64, []⟩
def ending2 (inst : Bool) : State :=
  { bench with worlds := [openWorld], seals := [loadJob inst], domain := [0, 1] }
theorem hyp_sealed_ends : (ending2 false).world 5 = some openWorld ∧ (ending2 false).link.up = true ∧
    (1 : BitVec 8) ∈ (ending2 false).domain ∧ (1 : BitVec 8) ≠ (ending2 false).devIndex ∧ 1 ∈ openWorld.devs ∧
    1 ∉ openWorld.ready ∧ (ending2 false).seals[0]? = some (loadJob false) ∧ (ending2 true).seals[0]? = some (loadJob true) ∧
    (loadJob false).wid ≠ 0 ∧ (loadJob false).srck = 0 := by
  refine ⟨rfl, rfl, by decide, by decide, by decide, by decide, rfl, rfl, by decide, rfl⟩

/-- An image of a slot table of one word, at 192, and a gang section of one descriptor, at 256. -/
def imageSection (type : Byte) (align offset size : Nat) : List Byte :=
  [type, 0, 1, 0] ++ Crypto.leBytes 4 align ++ Crypto.leBytes 8 offset ++ Crypto.leBytes 8 size ++
    Crypto.leBytes 8 size ++ List.replicate 4 0 ++ [if type = 5 then 16 else 0] ++ List.replicate 11 0
def smallImage (kind : Byte) : List Byte :=
  [0x41, 0x4F, 0x46, 0x1A, 1, 0, kind, 0, 2, 0, 0, 0, 0, 0, 0, 0] ++ Crypto.leBytes 8 64 ++ Crypto.leBytes 8 0x1000 ++
    List.replicate 32 0 ++ imageSection 5 6 192 16 ++ imageSection 7 6 256 32 ++ List.replicate 32 0 ++
    Crypto.leBytes 16 dataSlot.toNat ++ List.replicate 48 0 ++ gangWords
set_option maxRecDepth 20000 in
theorem hyp_booting : imageGood (smallImage 2) = true ∧ imageGood (smallImage 1) = false ∧ State.reset.boot = .awaiting ∧
    State.reset.hostUp = true ∧ { State.reset with boot := .placed 0x8000 0x40000 gangWords }.boot = .placed 0x8000 0x40000 gangWords ∧
    bench.slotWord (0x8000 : Word).toNat (bench.tabCode (0x8000 : Word).toNat).toNat = some (slotAt 0x10000 9) ∧
    Memory.wf State.reset.mem = true := by
  refine ⟨rfl, rfl, rfl, rfl, rfl, rfl, rfl⟩

/-! ### Decoding -/

/-- The word `w` at the code's start, with a pending loan or none. -/
def coded (w : BitVec 32) (o : Option Loan := none) : State :=
  { bench with mem := Bytes.write benchMemory 0x10000 (Crypto.leBytes 4 w.toNat), hart := { bench.hart with loan := o } }
/-- The state once `w` is fetched. -/
def fetched (w : BitVec 32) (o : Option Loan := none) : State :=
  let v := (begun (coded w o)).codeReady ⟨1, slotAt 0x10000 9⟩
  { v with hart := { v.hart with iw := w } }
theorem at_coded (w : BitVec 32) (o : Option Loan)
    (h : ((begun (coded w o)).codeReady ⟨1, slotAt 0x10000 9⟩).readCode ⟨1, slotAt 0x10000 9⟩ 0x10000 = some (Crypto.leBytes 4 w.toNat))
    (l : ((begun (coded w o)).codeReady ⟨1, slotAt 0x10000 9⟩).hart.life = .running)
    (p : (begun (coded w o)).fetchProbe 0x10000 = .ok ⟨1, slotAt 0x10000 9⟩)
    (e : w = BitVec.ofNat 32 (littleEndian (Crypto.leBytes 4 w.toNat))) : AtWord (coded w o) (fetched w o) w :=
  have q : ∀ a, regionOf ((begun (coded w o)).canon 0x10000) ≠ .host a := fun a => by
    rw [canon_low _ _ (by omega)]
    exact nofun
  ⟨rfl, rfl, rfl, rfl, .inr ⟨.inl rfl, (by decide : 0x10000 % 4 = 0), q, _, _, p, .inr (.inl rfl), l, h, e, rfl⟩⟩
theorem hyp_at_word : AtWord (coded 0x0509500E) (fetched 0x0509500E) 0x0509500E ∧ (coded 0x0509500E).hart.loan = none ∧
    decode (coded 0x0509500E).hart.half 0x0509500E = .ok (.mulhu 8 9 10) ∧ storesMayWait (.mulhu 8 9 10) = true ∧
    storesMayWait .fence = false ∧ LocalMemory (coded 0x0509500E) (coded 0x0509500E).hart.pc.toNat ∧
    AtWord (coded 0xBC000009) (fetched 0xBC000009) 0xBC000009 ∧ CanTrap (fetched 0xBC000009) ∧
    decode (coded 0xBC000009).hart.half 0xBC000009 = .error .unassignedFn := by
  refine ⟨at_coded _ _ rfl rfl rfl rfl, rfl, rfl, rfl, rfl, local_low _ _ (by decide), at_coded _ _ rfl rfl rfl rfl,
    ⟨rfl, rfl, rfl, by decide, noMember, noMember⟩, rfl⟩
/-- The second half of a pair that is held, and harts that wait. -/
def secondHalf : State := { bench with hart := { bench.hart with half := true, pairHeld := true, iw := 0xFC000000 } }
theorem hyp_steps : AtWord secondHalf (begun secondHalf) 0xFC000000 ∧ (waiting .retry).hart.wait ≠ none ∧
    (waiting .retry).hart.queue = [] ∧ (begun (waiting .retry)).awaits = false ∧ (begun (waiting .host)).awaits = true ∧
    (queued loading).hart.answer = none ∧ (queued loading).hart.queue ≠ [] ∧
    ({ bench with agenda := [.run 0] }).agenda = .run 0 :: [] := by
  refine ⟨⟨rfl, rfl, rfl, rfl, .inl ⟨rfl, rfl, rfl, rfl⟩⟩, nofun, rfl, rfl, rfl, rfl, nofun, rfl⟩
/-- A hart that a lost line stops, one whose fetch the host has failed or answered, and one whose stirrup word stands before a
word that may not follow it. -/
def badLined : State := { bench with hart := { bench.hart with badLine := some 0x20000 } }
def fetchedFar (ok : Bool) : State :=
  { bench with hart := { bench.hart with wait := some .hostFetch, answer := some (ok, [0x0E, 0x50, 0x09, 0x05]) } }
/-- A pc that is misaligned, one beyond the code, and the others. -/
theorem hyp_fetch_traps : CanTrap (begun bench) ∧ bench.agenda = [] ∧ bench.hart.wait = none ∧ bench.hart.half = false ∧
    bench.hart.badLine = none ∧ ({ bench.hart with pc := 0x10002 } : Hart).pc.toNat % 4 ≠ 0 ∧
    (begun bench).fetchProbe 0x20000 = .error 3 ∧ 0x20000 % 4 = 0 ∧ bench.hart.wid = 0 ∧
    CanTrap (begun badLined) ∧ badLined.hart.badLine = some 0x20000 ∧
    (fetchedFar false).hart.answer = some (false, [0x0E, 0x50, 0x09, 0x05]) ∧
    CanTrap { begun (fetchedFar false) with hart := { (begun (fetchedFar false)).hart with wait := none, answer := none } } ∧
    (fetchedFar true).hart.answer = some (true, [0x0E, 0x50, 0x09, 0x05]) ∧
    decode (fetchedFar true).hart.half (BitVec.ofNat 32 (littleEndian [0x0E, 0x50, 0x09, 0x05])) = .ok (.mulhu 8 9 10) ∧
    AtWord (coded 0x0509500E (some ⟨2, false, 0⟩)) (fetched 0x0509500E (some ⟨2, false, 0⟩)) 0x0509500E ∧
    CanTrap (fetched 0x0509500E (some ⟨2, false, 0⟩)) ∧ classOf (.mulhu 8 9 10) = none ∧
    (fetched 0x0509500E (some ⟨2, false, 0⟩)).earlierTrap (.mulhu 8 9 10) = none ∧ (encode (.stir 2)).isSome = true := by
  refine ⟨⟨rfl, rfl, rfl, by decide, noMember, noMember⟩, rfl, rfl, rfl, rfl, by decide, rfl, rfl, rfl,
    ⟨rfl, rfl, rfl, by decide, noMember, noMember⟩, rfl, rfl, ⟨rfl, rfl, rfl, by decide, noMember, noMember⟩, rfl, rfl, at_coded _ _ rfl rfl rfl rfl,
    ⟨rfl, rfl, rfl, by decide, noMember, noMember⟩, rfl, rfl, rfl⟩
theorem hyp_step_keeps_memory : State.reset.memOk = true ∧ bench.memOk = true := by
  exact ⟨State.reset_memOk, bench_memory⟩
theorem hyp_decode_encode : (Instr.jal 0x3FFFFFF).wf = true ∧ (encode (.amoadd 31 0 31 5)).isSome = true ∧
    (encodePair (.cmov 4) (.caddi 4 7)).isSome = true := by decide

theorem test_decode_mulhu : decode false 0x0509500E = .ok (.mulhu 8 9 10) := rfl
theorem test_decode_clz : decode false 0x04A60013 = .ok (.clz 5 6) := rfl
theorem test_decode_fmad : decode false 0x08642805 = .ok (.fmad 3 4 5) := rfl
theorem test_decode_fcvtld : decode false 0x098B0010 = .ok (.fcvtld 12 11) := rfl
theorem test_decode_srai : decode false 0x24C6003F = .ok (.srai 6 6 63) := rfl
theorem test_decode_jalr : decode false 0x28010000 = .ok (.jalr 0 1 0) := rfl
theorem test_decode_lui : decode false 0x59212000 = .ok (.lui 9 0x12000) := rfl
theorem test_decode_bcnt : decode false 0x78E0FFFC = .ok (.bcnt 7 0xFFFC) := rfl
theorem test_decode_ld : decode false 0x44ED0000 = .ok (.ld 7 13 0) := rfl
theorem test_decode_sb : decode false 0x48AAFFFF = .ok (.sb 5 10 0xFFFF) := rfl
theorem test_decode_amoadd : decode false 0x0CAA0900 = .ok (.amoadd 5 10 1 1) := rfl
theorem test_decode_amocas : decode false 0x0CCA3B07 = .ok (.amocas 6 10 7 3) := rfl
theorem test_decode_lslot : decode false 0xD0005001 = .ok (.lslot 10 0 1) := rfl
theorem test_decode_pchk : decode false 0xD0013281 = .ok (.pchk 6 10 1) := rfl
theorem test_decode_ptag : decode false 0xD0024A80 = .ok (.ptag 9 10) := rfl
theorem test_decode_pstrip : decode false 0xD0036A80 = .ok (.pstrip 13 10) := rfl
theorem test_decode_slotsync : decode false 0xD0050000 = .ok .slotsync := rfl
theorem test_decode_svl : decode false 0xD4052900 = .ok (.svl 5 4) := rfl
theorem test_decode_vmvx : decode false 0xA0281216 = .ok (.vmvx 0 0 5 9) := rfl
theorem test_decode_vcmplt : decode false 0xA1088613 = .ok (.vcmplt 0 1 1 2 3) := rfl
theorem test_decode_vfsmul : decode false 0xA420460C = .ok (.vfsmul 0 0 4 1 3) := rfl
theorem test_decode_vfcvt : decode false 0xAA408000 = .ok (.vfcvt 1 0 8 2) := rfl
theorem test_decode_vtopk : decode false 0xA8311008 = .ok (.vtopk 0 0 6 4 8) := rfl
theorem test_decode_kbefore : decode false 0xAC104005 = .ok (.kbefore 0 0 2 1) := rfl
theorem test_decode_kpop : decode false 0xD40A4080 = .ok (.kpop 8 2) := rfl
theorem test_decode_mmadd : decode false 0xB8531C41 = .ok (.mmadd 0 0 10 12 14 0) := rfl
theorem test_decode_vldx : decode false 0xB2229002 = .ok (.vldx 1 0 4 10 8 0) := rfl
theorem test_decode_vsts : decode false 0xB41A9781 = .ok (.vsts 0 0 3 10 11 3) := rfl
theorem test_decode_vamocas : decode false 0xB8329027 = .ok (.vamocas 0 0 6 10 8 0 4) := rfl
theorem test_decode_tshp : decode false 0xBE00F800 = .ok (.tshp 1 31) := rfl
theorem test_decode_mopk : decode false 0xBE022002 = .ok (.mopk 1 0 0 2 4) := rfl
theorem test_decode_mrow : decode false 0xBC2C0006 = .ok (.mrow 0 0 1 12) := rfl
theorem test_decode_qbind : decode false 0xC02E0000 = .ok (.qbind 0 11 16) := rfl
theorem test_decode_btgather : decode false 0xC029E602 = .ok (.btgather 10 15 3) := rfl
theorem test_decode_kwait : decode false 0xC002E605 = .ok (.kwait 0 23 3) := rfl
theorem test_decode_nsq : decode false 0xC414C400 = .ok (.nsq 5 6 2) := rfl
theorem test_decode_hcmv : decode false 0xC4212602 = .ok (.hcmv 8 9 3) := rfl
theorem test_decode_hcrank : decode false 0xC4298005 = .ok (.hcrank 10 12) := rfl
theorem test_decode_glaunch : decode false 0xCC154000 = .ok (.glaunch 5 10) := rfl
theorem test_decode_xred : decode false 0xCC280403 = .ok (.xred 10 2) := rfl
theorem test_decode_gexit : decode false 0xCC000005 = .ok .gexit := rfl
theorem test_unassigned : decode false 0xBC000009 = .error .unassignedFn ∧ decode false 0xCC000006 = .error .unassignedFn :=
  ⟨rfl, rfl⟩
theorem test_unused_field : decode false 0xBD000004 = .error .unusedField := rfl
theorem test_reserved_major : decode false 0x00000000 = .error .reservedMajor := rfl

/-! ### Well-formedness -/

/-- A step size beyond 5, a predicate beyond k11, a stream beyond 7 and a control register that is not listed. -/
theorem test_ill_formed_sizes : Instr.wf (.amoadd 1 2 3 6) = false ∧ Instr.wf (.vamocas 0 0 1 2 3 0 7) = false ∧
    Instr.wf (.amocas 1 2 3 5) = true := by decide
theorem test_ill_formed_predicates : Instr.wf (.stir 12) = false ∧ Instr.wf (.stirCopy 15 0) = false ∧
    Instr.wf (.vcmpeq 0 0 12 1 2) = false ∧ Instr.wf (.vfcmple 0 0 31 1 2) = false ∧ Instr.wf (.kand 0 0 12 1 2) = false ∧
    Instr.wf (.kand 0 0 1 12 2) = false ∧ Instr.wf (.kand 0 0 1 2 12) = false ∧ Instr.wf (.kbefore 0 0 1 12) = false ∧
    Instr.wf (.kset 0 0 12) = false ∧ Instr.wf (.vlrPredicate 0 12 3) = false ∧ Instr.wf (.vsrPredicate 0 12 3) = false ∧
    Instr.wf (.btcopy 1 2 12) = false ∧ Instr.wf (.kwait 1 2 12) = false ∧ Instr.wf (.xred 1 12) = false ∧
    Instr.wf (.kpop 1 12) = false ∧ Instr.wf (.kset 0 0 11) = true := by decide
theorem test_ill_formed_streams : Instr.wf (.vqrd 0 0 1 8 0) = false ∧ Instr.wf (.vqrd 0 0 1 7 0) = true := by decide
theorem test_ill_formed_registers : Instr.wf (.mtcr 1 0x3FF) = false ∧ Instr.wf (.mfcr 1 0x3FF) = false ∧
    Instr.wf (.mfcr 1 0x000) = true := by decide

/-! ### Single steps -/

/-- The state after an instruction. -/
def after (r : Out) (s : State) : State := match r with | .next t => t | _ => s
/-- The hart with three values in x4, x5 and x6. -/
def with3 (a b c : Word) : State := { bench with hart := { bench.hart with x := bench.hart.x.set 4 a |>.set 5 b |>.set 6 c } }

/-- Sums wrap, and the high half of a signed product is that of −2^63 · 3 (R118). -/
theorem test_add_wraps : (after (execAdd 4 2 2 bench) bench).hart.xr 4 = 0 := by decide
theorem test_mulh : (after (execMulh 4 2 3 bench) bench).hart.xr 4 = 0xFFFFFFFFFFFFFFFE := by decide
/-- R119: −2^63 ÷ −1 and the remainder by 0. -/
theorem test_div_overflow : (after (execDiv 7 4 5 (with3 0x8000000000000000 0xFFFFFFFFFFFFFFFF 0)) bench).hart.xr 7 =
    0x8000000000000000 := by decide
theorem test_rem_zero : (after (execRem 7 2 0 bench) bench).hart.xr 7 = 0x8000000000000000 := by decide
/-- The worked address of section 07: 0x1_2000_0000. -/
theorem test_lui : (after (execLui 9 0x12000 bench) bench).hart.xr 9 = 0x120000000 := by decide
/-- The worked fused multiply-add of section 07, and the rounded product beside it. -/
theorem test_fmad : (after (execFmad 6 4 5 (with3 0x3FF0000000400000 0x3FEFFFFFFF800000 0xBFF0000000000000)) bench).hart.xr 6 =
    0xBC30000000000000 := by decide
theorem test_fmuld :
    let t := after (execFmuld 6 4 5 (with3 0x3FF0000000400000 0x3FEFFFFFFF800000 0)) bench
    t.hart.xr 6 = 0x3FF0000000000000 ∧ t.hart.fflags = 1 := by decide
/-- The worked conversions of section 07: 2.5 and 2^63. -/
theorem test_fcvtld :
    let t := after (execFcvtld 6 4 (with3 0x4004000000000000 0 0)) bench
    t.hart.xr 6 = 2 ∧ t.hart.fflags = 1 := by decide
theorem test_fcvtld_limit :
    let t := after (execFcvtld 6 4 (with3 0x43E0000000000000 0 0)) bench
    t.hart.xr 6 = 0x7FFFFFFFFFFFFFFF ∧ t.hart.fflags = 0x10 := by decide
theorem test_fcvtdl :
    let t := after (execFcvtdl 6 4 (with3 0x20000000000001 0 0)) bench
    t.hart.xr 6 = 0x4340000000000000 ∧ t.hart.fflags = 1 := by decide
/-- The worked conversions of section 06 into narrow formats, from FP32. -/
theorem test_narrow_formats :
    Fmt.convert .fp32 .e4m3 .rne 0 0x43FA0000 = (0x7E, 5) ∧ Fmt.convert .fp32 .e4m3 .rne 0 0x43E80000 = (0x7E, 1) ∧
    Fmt.convert .fp32 .e3m2 .rne 0 0x41F00000 = (0x1F, 5) ∧ Fmt.convert .fp32 .e2m1 .rne 0 0xBE4CCCCD = (0x8, 3) ∧
    Fmt.convert .e4m3 .e3m2 .rne 0 0x7F = (0x1F, 0x10) := by decide
/-- The worked canonical sum of section 06: 16,777,218 with NX. -/
theorem test_canonical_sum : canonSum ([.num false 1 0, .num false 1 24, .num false 1 0, .num false 1 0].map fun x => (x, true)) =
    (0x4B800001, 1) := by decide
/-- Sign extension, and the byte that a store changes. -/
theorem test_lb : (after (execLb 4 10 0 bench) bench).hart.xr 4 = 0xFFFFFFFFFFFFFF80 := by decide
theorem test_sb :
    let t := after (execSb 1 10 0xFFFF { bench with hart := { bench.hart with x := bench.hart.x.set 10 0x20001 } }) bench
    Bytes.get t.mem 0x20000 = 7 ∧ Bytes.get t.mem 0x20001 = 1 := by decide
/-- An atomic returns the old doubleword (R129). -/
theorem test_amoadd :
    let t := after (execAmoadd 4 10 1 1 bench) bench
    t.hart.xr 4 = 0x0706050403020180 ∧ Bytes.get t.mem 0x20000 = 0x87 := by decide
theorem test_jal :
    let t := after (execJal 0x3FFFFFF bench) bench
    t.hart.pc = 0xFFFC ∧ t.hart.xr 1 = 0x10004 := by decide
theorem test_bcnt :
    let t := after (execBcnt 1 0xFFFC bench) bench
    t.hart.xr 1 = 6 ∧ t.hart.pc = 0xFFF0 := by decide
/-- A system call enters the handler (R358, R360). -/
theorem test_ecall :
    let t := after (execEcall 4 10 5 bench) bench
    t.hart.hm = true ∧ t.hart.pc = 0x10000 ∧ t.hart.tpc = 0x10004 ∧ t.hart.tcause = 10 ∧ t.hart.tdetail = 0x405 ∧ t.hart.tval = 0x20000 := by decide
/-- R137: VL is the lesser of the request and VLMAX. -/
theorem test_svl : (after (execSvl 5 1 inLanes) bench).hart.vl = 7 := by decide
theorem test_gwait :
    (after (execGwait 4 5 { inGang with gangs := [{ soloGang with phase := .retired 4, gid := 0 }] }) bench).hart.xr 4 = 4 := by
  decide
theorem test_wlstat : (after (execWlstat 4 0 (listing armed)) bench).hart.xr 4 = 0x100010002 := by decide
/-- Memory reads as zero where nothing has written. -/
theorem test_reset_memory : Bytes.get State.reset.mem 0x123456789 = 0 := by decide

/-! ### The catalogue of ordering tests of spec/11

Place 0 is word a, 1 is b and 2 is s, one byte for each; the events 0, 1 and 2 are their initial writes. -/

def side (h : Nat) (p : Part) : Agent := ⟨0, h, h, p⟩
def initial (a : Nat) : MemEvent := { agent := ⟨0, 0, 0, .start⟩, pos := 0, act := .write, addr := a }
/-- Scalar and vector accesses of hart `h` at place `n` of its program order; `e` counts queue entries before it. -/
def sld (h n a : Nat) : MemEvent := { agent := side h .scalar, pos := n, act := .read, addr := a }
def sst (h n a : Nat) (e : Nat := 0) : MemEvent := { agent := side h .scalar, pos := n, act := .write, addr := a, entries := e }
def vld' (h n a : Nat) (c : Nat := n) : MemEvent := { agent := side h .vector, pos := n, act := .read, addr := a, convoy := c }
def vst' (h n a : Nat) (c : Nat := n) : MemEvent := { agent := side h .vector, pos := n, act := .write, addr := a, convoy := c }
def fenceAt (h n : Nat) (vs sv : Bool) : MemEvent := { agent := side h .scalar, pos := n, act := .fence vs sv }
def sync (h n : Nat) (act : Act) : MemEvent := { agent := side h .scalar, pos := n, act := act }
/-- An execution over a, b and s whose events follow the initial writes. -/
def outcome (es : List MemEvent) (rf : List (Nat × Nat × Nat)) (co : List (Nat × List Nat)) : Execution :=
  { events := initial 0 :: initial 1 :: initial 2 :: es, rf := rf, co := co }

/-- Test 1: message passing. -/
def passing (r5 r6 : Nat) : Execution :=
  outcome [sst 0 0 0, sst 0 1 1, sld 1 0 1, sld 1 1 0] [(5, 1, r5), (6, 0, r6)] [(0, [0, 3]), (1, [1, 4]), (2, [2])]
theorem test_order_1 : (passing 4 0).allowed = false ∧ (passing 1 0).allowed = true ∧ (passing 1 3).allowed = true ∧
    (passing 4 3).allowed = true := by decide
/-- Test 2: store buffering, without and with a fence on each hart. -/
def buffering (f : List MemEvent) : Execution :=
  outcome ([sst 0 0 0, sld 0 2 1, sst 1 0 1, sld 1 2 0] ++ f) [(4, 1, 1), (6, 0, 0)] [(0, [0, 3]), (1, [1, 5]), (2, [2])]
theorem test_order_2 : (buffering []).allowed = true ∧
    (buffering [fenceAt 0 1 false false, fenceAt 1 1 false false]).allowed = false := by decide
/-- Tests 3 and 4: the two sides of one hart. -/
def storeThenLoad (f : List MemEvent) : Execution :=
  outcome ([sst 0 0 0, vld' 0 2 0] ++ f) [(4, 0, 0)] [(0, [0, 3]), (1, [1]), (2, [2])]
theorem test_order_3 : (storeThenLoad []).allowed = true ∧ (storeThenLoad [fenceAt 0 1 false true]).allowed = false := by decide
def loadThenStore (f : List MemEvent) (e : Nat) : Execution :=
  outcome ([vld' 0 0 0, sst 0 2 0 e] ++ f) [(3, 0, 4)] [(0, [0, 4]), (1, [1]), (2, [2])]
theorem test_order_4 : (loadThenStore [] 1).allowed = true ∧ (loadThenStore [fenceAt 0 1 true false] 1).allowed = false ∧
    (loadThenStore [] 64).allowed = true ∧ (loadThenStore [] 65).allowed = false := by decide
/-- Test 5: one convoy, store then load. -/
def convoyRead (w : Nat) : Execution :=
  outcome [vst' 0 0 0 1, vld' 0 1 0 1] [(4, 0, w)] [(0, [0, 3]), (1, [1]), (2, [2])]
theorem test_order_5 : (convoyRead 3).allowed = true ∧ (convoyRead 0).allowed = false := by decide
/-- Test 6: message passing of vector data. -/
def vectorPassing (f : List MemEvent) : Execution :=
  outcome ([vst' 0 0 0, sst 0 2 1, sld 1 0 1, vld' 1 1 0] ++ f) [(5, 1, 4), (6, 0, 0)] [(0, [0, 3]), (1, [1, 4]), (2, [2])]
theorem test_order_6 : (vectorPassing [fenceAt 0 1 true false]).allowed = false ∧ (vectorPassing []).allowed = true := by decide
/-- Test 7: a stream against an earlier store. -/
def streamedRead (f : List MemEvent) : Execution :=
  outcome ([sst 0 0 0, { agent := side 0 (.stream 0), pos := 2, act := .read, addr := 0 }] ++ f) [(4, 0, 0)]
    [(0, [0, 3]), (1, [1]), (2, [2])]
theorem test_order_7 : (streamedRead []).allowed = true ∧ (streamedRead [sync 0 1 (.sbar [0] false [])]).allowed = false := by decide
/-- Test 8: a transfer chunk under its bit; the mask of the load sees the bit, or the load has no mask. -/
def chunk (mask : List MemEvent) (bits : List Nat) : Execution :=
  { outcome ([sync 0 0 (.issue 9 false), { agent := side 0 (.work 9), pos := 0, act := .read, addr := 0 },
      { agent := side 0 (.work 9), pos := 0, act := .write, addr := 2 },
      { agent := side 0 (.work 9), pos := 0, act := .setBit 0 9 (some 0) }, vld' 0 2 2] ++ mask)
      [(4, 0, 0), (7, 2, 2)] [(0, [0]), (1, [1]), (2, [2, 5])] with bits := [bits] }
theorem test_order_8 : (chunk [{ agent := side 0 .vector, pos := 2, act := .seeBit 0 true }] [6, 8]).allowed = false ∧
    (chunk [] [6]).allowed = true := by decide
/-- Test 9: a strip published by watermark. -/
def published (w : Nat) : Execution :=
  { outcome [vst' 0 0 0, sync 0 1 (.wmark 0 1), sync 1 0 (.svlw 0 1), vld' 1 1 0] [(6, 0, w)]
      [(0, [0, 3]), (1, [1]), (2, [2])] with marks := [(0, [4])] }
theorem test_order_9 : (published 3).allowed = true ∧ (published 0).allowed = false := by decide
/-- Test 10: scopes of two atomics that both read 0, and one after the other. -/
def added (code r : Nat) : Execution :=
  { outcome [sld 0 0 0, { sst 0 0 0 with step := 1 }, sld 1 0 0, { sst 1 0 0 with step := 1 }] [(3, 0, 0), (5, 0, r)]
      [(0, [0, 4, 6]), (1, [1]), (2, [2])] with atomics := [(3, 4, code), (5, 6, code)] }
theorem test_order_10 : (added 1 0).allowed = true ∧ (added 3 0).allowed = false ∧ (added 1 4).allowed = true ∧
    (added 3 4).allowed = true := by decide
/-- Test 11: fabric order of two vector stores, and of a vector and a scalar store. -/
def remote (e : MemEvent) : Execution :=
  outcome [{ vst' 0 0 0 with dest := .device 1 }, { e with dest := .device 1 },
      { sld 1 0 1 with agent := ⟨1, 0, 7, .scalar⟩ }, { sld 1 1 0 with agent := ⟨1, 0, 7, .scalar⟩ }]
    [(5, 1, 4), (6, 0, 0)] [(0, [0, 3]), (1, [1, 4]), (2, [2])]
theorem test_order_11 : (remote (vst' 0 1 1)).allowed = false ∧ (remote (sst 0 1 1)).allowed = true := by decide
/-- Test 12: two elements to one word of two bytes, at place 0; a reader that sees a byte of each is forbidden. -/
def scattered (r : Nat) : Execution :=
  { events := [{ initial 0 with len := 2 }, { vst' 0 0 0 with len := 2 }, { vst' 0 0 0 with len := 2 }, { sld 1 0 0 with len := 2 }]
    rf := [(3, 0, 2), (3, 1, r)], co := [(0, [0, 1, 2]), (1, [0, 1, 2])] }
theorem test_order_12 : (scattered 2).allowed = true ∧ (scattered 1).allowed = false := by decide
/-- Test 13: the issue of a query after a scalar and after a vector store. -/
def queried (e : MemEvent) : Execution :=
  outcome [e, sync 0 1 (.issue 9 true), { agent := side 0 (.work 9), pos := 0, act := .read, addr := 0 }] [(5, 0, 0)]
    [(0, [0, 3]), (1, [1]), (2, [2])]
theorem test_order_13 : (queried (sst 0 0 0)).allowed = false ∧ (queried (vst' 0 0 0)).allowed = true := by decide
/-- Test 14: coherence of two reads, scalar and vector. -/
def readTwice (e f : MemEvent) : Execution :=
  outcome [sst 0 0 0, e, f] [(4, 0, 3), (5, 0, 0)] [(0, [0, 3]), (1, [1]), (2, [2])]
theorem test_order_14 : (readTwice (sld 1 0 0) (sld 1 1 0)).allowed = false ∧
    (readTwice (vld' 1 0 0) (vld' 1 1 0)).allowed = false := by decide
/-- Test 15: independent reads of independent writes. -/
def independent (r8 : Nat) : Execution :=
  outcome [sst 0 0 0, sst 1 0 1, sld 2 0 0, sld 2 1 1, sld 3 0 1, sld 3 1 0]
    [(5, 0, 3), (6, 1, 1), (7, 1, 4), (8, 0, r8)] [(0, [0, 3]), (1, [1, 4]), (2, [2])]
theorem test_order_15 : (independent 0).allowed = false ∧ (independent 3).allowed = true := by decide
/-- The barrier of R274 and the worklist of R286. -/
def barred (f : List MemEvent) : Execution :=
  outcome ([sst 0 0 0, sld 1 1 0] ++ f) [(4, 0, 0)] [(0, [0, 3]), (1, [1]), (2, [2])]
theorem test_order_barrier : (barred [sync 0 1 (.barrier 1 0 0), sync 1 0 (.barrier 1 0 0)]).allowed = false ∧
    (barred []).allowed = true := by decide
theorem test_order_worklist : (barred [sync 0 1 (.push 5), sync 1 0 (.pop 5)]).allowed = false := by decide

end Sys2Proof.Tests
end

/-! ## Every step keeps memory in its canonical form (R5, R200)

The model changes memory by `Bytes.write`, `Bytes.clear` and `Bytes.keep` alone, and each of these keeps the form
`Memory.wf`. So there is one lemma per operation of the machine, in the order of the model, that says it keeps
`State.memOk`: `f_keeps : Keeps (f …)` for an operation that takes the state last, `State.f_memOk` for the others. What
an operation answers instead of a state (`Reach`, `Moved`, `Gathered`, `Fetched`, `Out`) has a predicate that says the
same of the state in it. -/

namespace Sys2Proof.Machine
section
variable {s : State}

/-- An operation keeps the canonical form of memory, whatever state it begins in. -/
def Keeps (f : State → State) : Prop := ∀ s, s.memOk = true → (f s).memOk = true

theorem State.setX_memOk {r : BitVec 5} {v : Word} {t : Option (BitVec 16)} (h : s.memOk = true) :
    (s.setX r v t).memOk = true := s.mapHart_memOk _ h

theorem State.retire_memOk {r : Option (BitVec 5)} (h : s.memOk = true) :
    (s.retire r).memOk = true := s.mapHart_memOk _ h

theorem State.writeBack_memOk {r : BitVec 5} {v : Word} {t : Option (BitVec 16)} (h : s.memOk = true) :
    (s.writeBack r v t).memOk = true := State.retire_memOk (State.setX_memOk h)

theorem State.waitFor_memOk {w : Wait} (h : s.memOk = true) : (s.waitFor w).memOk = true := s.mapHart_memOk _ h

/-! ### Scalar loads and stores -/

/-- Where an access ends before it is performed, memory has its form. -/
def Reach.memOk : Reach → Prop
  | .ended s => s.memOk = true
  | .window _ | .host _ | .memory _ => True

theorem State.reach_memOk (acc : Access) (h : s.memOk = true) : (s.reach acc).memOk := by
  unfold State.reach
  split
  · exact s.accessFault_memOk _ _ _ h
  · split
    · trivial
    · trivial
    · split
      · exact State.waitFor_memOk h
      · trivial

/-- What comes before a read that is counted keeps the form. -/
theorem State.countedRead_memOk {sw : SlotWord} {c : Ctx} {st : FabricStream} {a b m n : Nat} (h : s.memOk = true) :
    ((s.countAccess sw a n).beforeRead c st b m).memOk = true :=
  State.beforeRead_memOk _ _ _ _ _ (s.countAccess_memOk _ _ _ h)

theorem State.hostAccess_memOk {a n size : Nat} {os : List Outbound} {f : List Byte → State → State}
    (hf : ∀ bs, Keeps (f bs)) (h : s.memOk = true) : (s.hostAccess a n size os f).memOk = true := by
  unfold State.hostAccess
  split
  · exact memOk_ite (hf _ _ (s.mapHart_memOk _ h)) (State.accessFault_memOk _ _ _ _ (s.mapHart_memOk _ h))
  · exact memOk_ite (State.waitFor_memOk h)
      (State.waitFor_memOk (memOk_foldl State.emit (fun t o ht => t.emit_memOk o ht) os s h))

theorem State.seeStores_memOk {a n : Nat} (h : s.memOk = true) : (s.seeStores a n).memOk = true :=
  memOk_ite (s.drainStores_memOk _ h) h

theorem State.scalarRead_memOk {t : Option (BitVec 16)} {a n : Nat} {f : List Byte → State → State}
    (hf : ∀ bs, Keeps (f bs)) (h : s.memOk = true) : (s.scalarRead t a n f).memOk = true := by
  have h := State.seeStores_memOk (a := a) (n := n) h
  unfold State.scalarRead
  dsimp only
  generalize s.seeStores a n = s at h ⊢
  split
  · exact h
  · have hr := State.reach_memOk (plainAccess t a n needRead) h
    generalize s.reach _ = r at hr ⊢
    cases r with
    | ended u => exact hr
    | window off => exact hf _ _ h
    | host bus => exact State.hostAccess_memOk hf h
    | memory sw =>
      dsimp only
      split
      · exact State.countedRead_memOk h
      · split
        · exact State.lineFault_memOk _ _ _ _ (State.countedRead_memOk h)
        · exact hf _ _ (State.countedRead_memOk h)

theorem State.scalarWrite_memOk {t : Option (BitVec 16)} {a : Nat} {bs : List Byte} {f : State → State} (hf : Keeps f)
    (h : s.memOk = true) : (s.scalarWrite t a bs f).memOk = true := by
  have hr := State.reach_memOk (plainAccess t a bs.length needWrite) h
  unfold State.scalarWrite
  generalize s.reach _ = r at hr ⊢
  cases r with
  | ended u => exact hr
  | window off => exact hf _ (memOk_ite h (s.writeWindow_memOk _ _ h))
  | host bus => exact hf _ (memOk_of_mem (s.sendHost_mem ..) h)
  | memory sw =>
    have hu := s.countWrite_memOk s.ctx sw a bs.length h
    dsimp only
    split
    · exact hf _ h
    · split
      · exact State.lineFault_memOk _ _ _ _ hu
      · exact hf _ (State.writeBytes_memOk hu ‹_›)

theorem load_keeps (n : Nat) (signed : Bool) (d a : BitVec 5) (i : BitVec 16) : Keeps (load n signed d a i) :=
  fun _ h => State.scalarRead_memOk (fun _ _ hu => State.writeBack_memOk hu) h

theorem store_keeps (n : Nat) (d a : BitVec 5) (i : BitVec 16) : Keeps (store n d a i) :=
  fun _ h => State.scalarWrite_memOk (fun _ hu => State.retire_memOk hu) h

/-! ### Atomics -/

theorem State.atomicAt_memOk {c : Ctx} {sw : SlotWord} {a n m : Nat} {f : Nat → Option Nat} {t : State}
    (h : s.memOk = true) (e : s.atomicAt c sw a n f = some (m, t)) : t.memOk = true := by
  unfold State.atomicAt at e
  split at e
  · cases e
  · dsimp only at e
    split at e
    · cases e; exact h
    · rw [Option.map_eq_some_iff] at e
      obtain ⟨u, hu, he⟩ := e
      cases he
      exact State.commit_memOk h hu

theorem issueAtomic_keeps (op : AmoOp) (d a b : BitVec 5) (scope : BitVec 3) : Keeps (issueAtomic op d a b scope) := by
  intro s h
  unfold issueAtomic
  dsimp only
  have hr (acc : Access) := State.reach_memOk acc h
  generalize hr' : s.reach _ = r
  have hr := hr' ▸ hr _
  cases r with
  | ended u => exact hr
  | window off => exact s.accessFault_memOk _ _ _ h
  | host bus => exact State.hostAccess_memOk (fun _ _ hu => State.writeBack_memOk hu) h
  | memory sw =>
    dsimp only
    split
    · exact State.waitFor_memOk h
    · split
      · exact State.waitFor_memOk h
      · split
        · exact State.countedRead_memOk h
        · split
          · exact State.lineFault_memOk _ _ _ _ (State.countedRead_memOk h)
          · exact State.writeBack_memOk (State.atomicAt_memOk (State.countedRead_memOk h) ‹_›)

theorem atomic_keeps (op : AmoOp) (d a b : BitVec 5) (scope : BitVec 3) : Keeps (atomic op d a b scope) := by
  intro s h
  unfold atomic
  split
  · exact State.writeBack_memOk h
  · exact memOk_ite (State.waitFor_memOk h) (issueAtomic_keeps op d a b scope s h)

/-! ### Slot words -/

theorem rpatch_keeps (d a : BitVec 5) (f : Nat → Nat) {g : Nat → Nat → State → State} (hg : ∀ x m, Keeps (g x m)) :
    Keeps (rpatch d a f g) := by
  intro s h
  unfold rpatch
  dsimp only
  split
  · exact s.privileged_memOk _ h
  · split
    · exact s.illegal_memOk h
    · have hr := State.reach_memOk
        ⟨slotIndex (s.hart.tagOf a), (s.hart.xr a).toNat, 16, 16, needAtomic, true, false, false⟩ h
      generalize s.reach _ = r at hr ⊢
      cases r with
      | ended u => exact hr
      | window off => exact s.accessFault_memOk _ _ _ h
      | host bus => exact s.accessFault_memOk _ _ _ h
      | memory sw =>
        dsimp only
        split
        · exact State.countedRead_memOk h
        · split
          · exact State.lineFault_memOk _ _ _ _ (State.countedRead_memOk h)
          · exact hg _ _ _ (State.atomicAt_memOk (State.countedRead_memOk h) ‹_›)

theorem moveCaptured_keeps (x : Word) (addr old : Nat) : Keeps (moveCaptured x addr old) := fun _ h => h

/-! ### Control registers and the view of the handler -/

theorem State.putVloc_memOk {csa : BitVec 52} {v : BitVec 8} (h : s.memOk = true) : (s.putVloc csa v).memOk = true :=
  Bytes.write_wf _ _ h

theorem State.viewAt_memOk {a : BitVec 52} (h : s.memOk = true) : (s.viewAt a).memOk = true := by
  unfold State.viewAt
  split
  · exact memOk_ite h h
  · exact h

theorem State.evict_memOk (h : s.memOk = true) : s.evict.memOk = true := by
  unfold State.evict
  split
  · exact h
  · split
    · exact h
    · exact State.putVloc_memOk (s.updHart_memOk _ _ h)

theorem State.install_memOk (h : s.memOk = true) : s.install.memOk = true := memOk_ite (State.putVloc_memOk h) h

theorem State.writeView_memOk {v : Word} (h : s.memOk = true) : (s.writeView v).memOk = true := by
  unfold State.writeView
  split
  · exact h
  · split
    · exact h
    · exact State.viewAt_memOk h
    · exact State.evict_memOk h
    · exact State.install_memOk h

theorem State.setSchedcfg_memOk {v : Word} (h : s.memOk = true) : ({ s with schedcfg := v } : State).memOk = true := h

theorem State.writeCr_memOk {c : Nat} {v : Word} (h : s.memOk = true) : (s.writeCr c v).memOk = true := by
  unfold State.writeCr
  split
  case h_15 => exact State.setSchedcfg_memOk h
  case h_21 | h_22 => exact memOk_of_mem rfl h
  case h_23 => exact State.writeView_memOk h
  case h_24 => exact h
  all_goals exact s.mapHart_memOk _ h

theorem readMove_keeps (x : BitVec 5) (c : BitVec 10) : Keeps (readMove x c) := by
  intro s h
  unfold readMove
  split
  · exact s.privileged_memOk _ h
  · exact State.writeBack_memOk h
  · exact memOk_ite (State.waitFor_memOk h) (State.writeBack_memOk h)

theorem writeMove_keeps (x : BitVec 5) (c : BitVec 10) : Keeps (writeMove x c) := by
  intro s h
  unfold writeMove
  split
  · exact memOk_ite (State.waitFor_memOk h) (State.retire_memOk (State.writeCr_memOk h))
  · exact s.privileged_memOk _ h

theorem viewMove_keeps (v : Word) : Keeps (viewMove v) :=
  fun s h => memOk_ite (State.retire_memOk (State.writeView_memOk h)) (s.privileged_memOk _ h)

/-! ### Fences, waits and the strip -/

theorem State.stopIfAsked_memOk (h : s.memOk = true) : s.stopIfAsked.memOk = true := memOk_ite (s.switchOff_memOk _ h) h

theorem fence_keeps (vs : Bool) : Keeps (fence vs) :=
  fun _ h => memOk_ite (State.retire_memOk h) (State.waitFor_memOk h)

theorem slotsync_keeps : Keeps slotsync :=
  fun _ h => memOk_ite (State.retire_memOk h) (State.waitFor_memOk h)

theorem State.resume_memOk {ser : BitVec 16} {f : Wait → Option (State → State)} (hf : ∀ w, ∀ g ∈ f w, Keeps g)
    (h : s.memOk = true) : (s.resume ser f).memOk = true := by
  unfold State.resume
  split
  · exact h
  · split
    · exact h
    · split
      · exact h
      · rename_i g hg
        obtain ⟨w, -, hg⟩ := Option.bind_eq_some_iff.1 hg
        exact State.asHart_memOk _ _ _ (fun t ht => hf w g hg _ ht) h

theorem State.applyShare_memOk {t : State} (h : s.memOk = true) (e : s.applyShare = .ok t) : t.memOk = true := by
  unfold State.applyShare at e
  dsimp only at e
  split at e
  · cases e; exact h
  · split at e
    · cases e; exact h
    · split at e
      · split at e
        · cases e
        · cases e; exact h
      · split at e
        · cases e; exact h
        · cases e

theorem setStrip_keeps (d a : BitVec 5) : Keeps (setStrip d a) :=
  fun s h => State.writeBack_memOk (s.mapHart_memOk _ h)

theorem setStripWait_keeps (d a : BitVec 5) : Keeps (setStripWait d a) :=
  fun s h => memOk_ite (State.waitFor_memOk h) (setStrip_keeps d a _ (s.mapHart_memOk _ h))

theorem withShare_keeps {f : State → State} (hf : Keeps f) : Keeps (withShare f) := by
  intro s h
  unfold withShare
  split
  · exact h
  · split
    · exact s.takeTrap_memOk _ _ _ h
    · exact hf _ (State.applyShare_memOk h ‹_›)

/-! ### What the engine instructions share -/

theorem State.remember_memOk {i a : Nat} {bs : List Byte} (h : s.memOk = true) : (s.remember i a bs).memOk = true :=
  s.mapHart_memOk _ h

theorem State.readStruct_memOk {t : Option (BitVec 16)} {a n : Nat} {f : List Byte → State → State}
    (hf : ∀ bs, Keeps (f bs)) (h : s.memOk = true) : (s.readStruct t a n f).memOk = true := by
  unfold State.readStruct
  split
  · exact hf _ _ h
  · have h := State.seeStores_memOk (a := a) (n := n) h
    dsimp only
    generalize s.seeStores a n = s at h ⊢
    split
    · exact h
    · split
      · split
        · exact s.accessFault_memOk _ _ _ h
        · exact h
      · have hr := State.reach_memOk (plainAccess t a 8 needRead) h
        generalize s.reach _ = r at hr ⊢
        cases r with
        | ended u => exact hr
        | window off => exact hf _ _ (State.remember_memOk h)
        | host bus => exact State.hostAccess_memOk (fun bs u hu => hf bs _ (State.remember_memOk hu)) h
        | memory sw =>
          dsimp only
          split
          · exact State.waitFor_memOk h
          · split
            · exact State.countedRead_memOk h
            · split
              · exact State.lineFault_memOk _ _ _ _ (State.countedRead_memOk h)
              · exact hf _ _ (State.remember_memOk (State.countedRead_memOk h))

theorem State.readNamed_memOk {idx off n : Nat} {f : Nat → List Byte → State → State}
    (hf : ∀ a bs, Keeps (f a bs)) (h : s.memOk = true) : (s.readNamed idx off n f).memOk = true := by
  unfold State.readNamed
  split
  · exact s.accessFault_memOk _ _ _ h
  · split
    · exact s.accessFault_memOk _ _ _ h
    · exact State.readStruct_memOk (hf _) h

theorem State.extentFault_memOk {e : ProbeFail} (h : s.memOk = true) : (s.extentFault e).memOk = true :=
  s.accessFault_memOk _ _ _ h

theorem State.withExtents_memOk {xs : List Span} {f : List (SlotRef × Nat) → State} (hf : ∀ rs, (f rs).memOk = true)
    (h : s.memOk = true) : (s.withExtents xs f).memOk = true := by
  unfold State.withExtents
  split
  · exact State.extentFault_memOk h
  · exact hf _

theorem State.checked_memOk {addr : Nat} {l : List (Nat × Bool)} {t : State} (ht : t.memOk = true)
    (h : s.memOk = true) : (s.checked addr l t).memOk = true := by
  unfold State.checked
  split
  · exact s.malformed_memOk _ _ h
  · exact ht

theorem State.beginCapture_memOk {r : SlotRef} {a n size : Nat} (h : s.memOk = true) :
    (s.beginCapture r a n size).memOk = true := State.waitFor_memOk (s.mapHart_memOk _ h)

theorem State.ownRead_memOk {r : SlotRef} {a n size : Nat} {f : List Byte → State → State}
    (hf : ∀ bs, Keeps (f bs)) (h : s.memOk = true) : (s.ownRead r a n size f).memOk = true := by
  unfold State.ownRead
  split
  · exact hf _ _ h
  · split
    · exact hf _ _ h
    · have h := State.seeStores_memOk (a := a) (n := n) h
      dsimp only
      generalize s.seeStores a n = s at h ⊢
      split
      · exact h
      · split
        · exact State.hostAccess_memOk (fun bs u hu => hf bs _ (State.remember_memOk hu)) h
        · split
          · exact State.waitFor_memOk h
          · split
            · exact State.countedRead_memOk h
            · split
              · exact State.lineFault_memOk _ _ _ _ (State.countedRead_memOk h)
              · exact hf _ _ (State.countedRead_memOk h)

theorem State.captureVector_memOk {r : SlotRef} {a n size : Nat} {f : List Byte → State → State}
    (hf : ∀ bs, Keeps (f bs)) (h : s.memOk = true) : (s.captureVector r a n size f).memOk = true := by
  unfold State.captureVector
  split
  · exact hf _ _ h
  · split
    · split
      · exact memOk_ite (hf _ _ h) (State.beginCapture_memOk h)
      · exact State.waitFor_memOk h
    · split
      · exact memOk_ite (State.seeStores_memOk h) (State.beginCapture_memOk (State.seeStores_memOk h))
      · exact State.ownRead_memOk hf h

theorem State.captureOne_memOk {i : Nat} (h : s.memOk = true) : (s.captureOne i).memOk = true := by
  unfold State.captureOne
  split
  · exact h
  · dsimp only
    split
    · exact h
    · split
      · exact State.countedRead_memOk h
      · split
        · exact State.lineFault_memOk _ _ _ _ (State.countedRead_memOk h)
        · exact State.mapHart_memOk _ _ (State.countedRead_memOk h)

theorem State.ownWrite_memOk {r : SlotRef} {a : Nat} {bs : List Byte} {f : State → State} (hf : Keeps f)
    (h : s.memOk = true) : (s.ownWrite r a bs f).memOk = true := by
  have hu := s.countWrite_memOk s.ctx r.word a bs.length h
  unfold State.ownWrite
  dsimp only
  split
  · exact State.lineFault_memOk _ _ _ _ hu
  · exact hf _ (State.writeBytes_memOk hu ‹_›)

theorem State.nearRead_memOk {c : Ctx} {st : FabricStream} {r : SlotRef} {a n : Nat} {o : Option (List Byte)}
    {t : State}
    (h : s.memOk = true) (e : s.nearRead c st r a n = (o, t)) : t.memOk = true := by
  unfold State.nearRead at e
  split at e
  · cases e; exact h
  · split at e
    · cases e; exact s.emit_memOk _ h
    · cases e; exact s.beforeRead_memOk _ _ _ _ h

theorem State.engineRead_memOk {c : Ctx} {st : FabricStream} {r : SlotRef} {a n : Nat} {o : Option (List Byte)}
    {t : State}
    (h : s.memOk = true) (e : s.engineRead c st r a n = (o, t)) : t.memOk = true :=
  State.nearRead_memOk (s.countAccess_memOk _ _ _ h) e

theorem State.engineWrite_memOk {c : Ctx} {st : FabricStream} {r : SlotRef} {a : Nat} {bs : List Byte} {t : State}
    (h : s.memOk = true) (e : s.engineWrite c st r a bs = some t) : t.memOk = true :=
  State.writeBytes_memOk (s.countWrite_memOk _ _ _ _ h) e

theorem State.arriveAt_memOk {st : FabricStream} {a : Nat} (h : s.memOk = true) : (s.arriveAt st a).memOk = true := by
  unfold State.arriveAt
  split
  · exact s.flush_memOk _ _ h
  · exact h

theorem State.engineLoss_memOk {c : Ctx} {r : SlotRef} {a n : Nat} (h : s.memOk = true) :
    (s.engineLoss c r a n).memOk = true := s.lineLoss_memOk _ _ _ h

theorem State.afterPred_memOk {k : BitVec 4} {f : State → State} (hf : Keeps f) (h : s.memOk = true) :
    (s.afterPred k f).memOk = true := memOk_ite (State.waitFor_memOk h) (hf _ h)

theorem State.clearBits_memOk {k : BitVec 4} {l : List Nat} (h : s.memOk = true) : (s.clearBits k l).memOk = true :=
  s.mapHart_memOk _ h

/-! ### Streams -/

theorem bindStream_keeps (q : BitVec 3) (a b : BitVec 5) : Keeps (bindStream q a b) := by
  intro s h
  unfold bindStream
  dsimp only
  split
  · exact State.retire_memOk (s.mapHart_memOk _ h)
  · split
    · exact s.illegal_memOk h
    · split
      · exact s.illegal_memOk h
      · split
        · exact s.accessFault_memOk _ _ _ h
        · split
          · exact s.accessFault_memOk _ _ _ h
          · split
            · exact State.extentFault_memOk h
            · exact State.retire_memOk (s.mapHart_memOk _ h)

theorem fetchElement_keeps (q : BitVec 3) : Keeps (fetchElement q) := by
  intro s h
  unfold fetchElement
  dsimp only
  split
  · exact h
  · split
    · exact h
    · split
      · split
        · exact s.mapHart_memOk _ h
        · exact h
      · split
        · exact State.engineLoss_memOk (State.engineRead_memOk h ‹_›)
        · exact State.mapHart_memOk _ _ (State.engineRead_memOk h ‹_›)

theorem readStream'_keeps (q : BitVec 3) (a : BitVec 5) : Keeps (readStream' q a) := by
  intro s h
  unfold readStream'
  dsimp only
  split
  · exact s.takeTrap_memOk _ _ _ h
  · split
    · split
      · exact State.accessFault_memOk _ _ _ _ (s.mapHart_memOk _ h)
      · exact State.waitFor_memOk h
    · exact State.writeBack_memOk (s.mapHart_memOk _ h)

theorem awaitBits_keeps (a b : BitVec 5) (k : BitVec 4) : Keeps (awaitBits a b k) :=
  fun s h => memOk_ite (State.retire_memOk h) (memOk_ite (s.malformed_memOk _ _ h)
    (memOk_ite (State.retire_memOk h) (State.waitFor_memOk h)))

theorem State.publish_memOk {gid : BitVec 32} {v : Word} (h : s.memOk = true) : (s.publish gid v).memOk = true := by
  unfold State.publish
  exact memOk_of_mem rfl h

theorem publishMark_keeps (a : BitVec 5) : Keeps (publishMark a) :=
  fun _ h => memOk_ite (State.retire_memOk (State.publish_memOk h)) (State.waitFor_memOk h)

/-! ### Block transfers -/

theorem State.setJobs_memOk {l : List Job} (h : s.memOk = true) : ({ s with jobs := l } : State).memOk = true := h

theorem State.issueJob_memOk {k : BitVec 4} {bits : Nat} {done : List Nat} {pieces : List Piece} {src dst : SlotRef}
    {raw : Bool} (h : s.memOk = true) : (s.issueJob k bits done pieces src dst raw).memOk = true := by
  unfold State.issueJob
  refine State.checked_memOk (State.retire_memOk (memOk_ite ?_ (State.setJobs_memOk ?_))) h
  · exact State.mapHart_memOk _ _ (State.clearBits_memOk h)
  · exact State.mapHart_memOk _ _ (State.clearBits_memOk h)

theorem copyBlock_keeps (a b : BitVec 5) (k : BitVec 4) : Keeps (copyBlock a b k) := by
  intro s h
  unfold copyBlock
  dsimp only
  split
  · exact State.retire_memOk h
  · split
    · exact s.malformed_memOk _ _ h
    · split
      · exact s.malformed_memOk _ _ h
      · split
        · exact State.extentFault_memOk h
        · exact State.issueJob_memOk h

theorem gatherRows_keeps (a b : BitVec 5) (k : BitVec 4) : Keeps (gatherRows a b k) := by
  intro s h
  unfold gatherRows
  dsimp only
  split
  · exact s.malformed_memOk _ _ h
  · split
    · exact State.extentFault_memOk h
    · exact State.issueJob_memOk h
    · exact State.issueJob_memOk h

theorem State.putRaw_memOk {p : Nat} {stored : List Byte} {mac : BitVec 32} (h : s.memOk = true) :
    (s.putRaw p stored mac).memOk = true := memOk_of_mem rfl (s.putLine_memOk p stored mac h)

theorem State.rawMove_memOk {c : Ctx} {st : FabricStream} {cached : Bool} {src dst n : Nat} (h : s.memOk = true) :
    (s.rawMove c st cached src dst n).memOk = true := by
  unfold State.rawMove
  refine memOk_foldl _ (fun t p ht => ?_) _ _ h
  have hc (x y : Nat) := State.claimAll_memOk _ c.world y p.2 (t.claimAll_memOk c.world x p.2 ht)
  dsimp only
  split
  · refine memOk_of_mem (State.sendHost_mem ..) ?_
    split
    · exact State.emit_memOk _ _ (hc _ _)
    · exact hc _ _
  · refine State.putRaw_memOk (memOk_ite (memOk_of_mem (State.markDirty_mem ..) ?_) ?_)
    · split
      · exact State.emit_memOk _ _ (hc _ _)
      · exact hc _ _
    · split
      · exact State.emit_memOk _ _ (hc _ _)
      · exact hc _ _

theorem State.movePiece_memOk {j : Job} {p : Piece} {b : Bool} {t : State} (h : s.memOk = true)
    (e : s.movePiece j p = some (b, t)) : t.memOk = true := by
  unfold State.movePiece at e
  dsimp only at e
  split at e
  · cases e
  · split at e
    · cases e; exact State.engineLoss_memOk h
    · split at e
      · cases e; exact State.engineLoss_memOk h
      · split at e
        · cases e
          exact State.rawMove_memOk (State.countWrite_memOk _ _ _ _ _ (s.countAccess_memOk _ _ _ h))
        · split at e
          · cases e; exact State.engineLoss_memOk (State.engineRead_memOk h ‹_›)
          · rename_i hr
            have hu := State.engineRead_memOk h hr
            split at e
            · cases e; exact State.engineLoss_memOk hu
            · cases e; exact State.arriveAt_memOk (State.engineWrite_memOk hu ‹_›)

theorem State.setJob_memOk {j : Job} {f : Job → List Job} (h : s.memOk = true) : (s.setJob j f).memOk = true :=
  State.setJobs_memOk h

theorem State.completeBit_memOk {ser : BitVec 16} {k : BitVec 4} {n : Nat} (h : s.memOk = true) :
    (s.completeBit ser k n).memOk = true := s.updHart_memOk _ _ h

theorem State.endPiece_memOk {j : Job} {k : Nat} {p : Piece} (h : s.memOk = true) : (s.endPiece j k p).memOk = true :=
  memOk_ite (State.setJob_memOk h)
    (memOk_ite (State.setJob_memOk h) (State.completeBit_memOk (State.setJob_memOk h)))

/-! ### Searches -/

theorem State.badDesc_memOk {reason : Nat} {l : List Desc} (h : s.memOk = true) :
    (s.badDesc reason l).memOk = true := by
  unfold State.badDesc
  split
  · exact s.malformed_memOk _ _ h
  · exact s.malformed_memOk _ _ h

theorem State.readDescs_memOk {gslot : Nat} {f : List Desc → State → State} (hf : ∀ ds, Keeps (f ds)) (l : List Nat)
    (acc : List Desc) (h : s.memOk = true) : (s.readDescs gslot l acc f).memOk = true := by
  induction l generalizing s acc with
  | nil => exact hf _ _ h
  | cons k l ih => exact State.readNamed_memOk (fun _ _ _ hu => ih _ hu) h

theorem State.setTickets_memOk {l : List Ticket} (h : s.memOk = true) :
    ({ s with tickets := l } : State).memOk = true := h

theorem State.issueTicket_memOk {a : BitVec 5} {k : BitVec 4} {cbit : Nat} {w : Work} (h : s.memOk = true) :
    (s.issueTicket a k cbit w).memOk = true :=
  State.writeBack_memOk (State.mapHart_memOk _ _ (State.setTickets_memOk h))

theorem issueQuery_keeps (a : BitVec 5) (k : BitVec 4) (p : List Byte) (ds : List Desc) (rs : List (SlotRef × Nat)) :
    Keeps (issueQuery a k p ds rs) := by
  intro s h
  unfold issueQuery
  extract_lets et dim w cbit shards go
  have hgo (q : List Nat) : Keeps (go q) := fun u hu =>
    memOk_ite (State.waitFor_memOk (State.clearBits_memOk hu)) (State.issueTicket_memOk (State.clearBits_memOk hu))
  split
  · exact State.waitFor_memOk h
  · split
    · split
      · exact hgo _ _ h
      · exact h
    · exact State.captureVector_memOk (fun bs u hu => hgo _ u hu) h

theorem checkQuery_keeps (a : BitVec 5) (k : BitVec 4) (addr : Nat) (p : List Byte) (ds : List Desc) :
    Keeps (checkQuery a k addr p ds) := by
  intro s h
  unfold checkQuery
  dsimp only
  split
  · exact s.malformed_memOk _ _ h
  · split
    · exact State.badDesc_memOk h
    · refine State.withExtents_memOk (fun rs => ?_) h
      exact memOk_ite (s.malformed_memOk _ _ h) (memOk_ite (State.badDesc_memOk h) (memOk_ite (State.badDesc_memOk h)
        (memOk_ite (State.badDesc_memOk h) (memOk_ite (s.malformed_memOk _ _ h) (issueQuery_keeps a k p ds rs s h)))))

theorem startQuery_keeps (a b : BitVec 5) (k : BitVec 4) : Keeps (startQuery a b k) := by
  intro s h
  unfold startQuery
  dsimp only
  split
  · exact s.malformed_memOk _ _ h
  · refine State.readStruct_memOk (fun p u hu => ?_) h
    exact memOk_ite (State.waitFor_memOk hu) (State.readDescs_memOk (checkQuery_keeps a k _ p) _ _ hu)

theorem State.setTicket_memOk {ser : BitVec 16} {n : Nat} {f : Ticket → List Ticket} (h : s.memOk = true) :
    (s.setTicket ser n f).memOk = true := State.setTickets_memOk h

theorem State.loseTicket_memOk {t : Ticket} {r : SlotRef} {a n : Nat} (h : s.memOk = true) :
    (s.loseTicket t r a n).memOk = true := State.setTicket_memOk (State.engineLoss_memOk h)

theorem State.finishTicket_memOk {t : Ticket} (h : s.memOk = true) : (s.finishTicket t).memOk = true :=
  have h1 := State.setTicket_memOk (State.arriveAt_memOk h)
  memOk_ite h1 (State.completeBit_memOk h1)

theorem State.endTicket_memOk {t : Ticket} (h : s.memOk = true) : (s.endTicket t).memOk = true :=
  memOk_ite (State.setTicket_memOk h) (State.finishTicket_memOk h)

theorem State.searchShard_memOk {t : Ticket} {q : Query} {k : Nat} (h : s.memOk = true) :
    (s.searchShard t q k).memOk = true := by
  unfold State.searchShard
  split
  · exact h
  · split
    · exact h
    · split
      · exact State.loseTicket_memOk h
      · exact State.setTicket_memOk h

theorem State.mergeQuery_memOk {t : Ticket} {q : Query} (h : s.memOk = true) : (s.mergeQuery t q).memOk = true := by
  unfold State.mergeQuery
  split
  · exact h
  · split
    · exact State.endTicket_memOk h
    · dsimp only
      split
      · exact State.loseTicket_memOk h
      · exact State.endTicket_memOk (State.arriveAt_memOk (State.engineWrite_memOk h ‹_›))

/-! ### Split products -/

theorem State.beginMap_memOk {map : Nat} {f : State → State} (hf : Keeps f) (h : s.memOk = true) :
    (s.beginMap map f).memOk = true := memOk_ite (State.waitFor_memOk h) (hf _ (s.mapHart_memOk _ h))

theorem issueProduct_keeps (a : BitVec 5) (k : BitVec 4) (p : List Byte) (m : MapBlock) (rs : List (SlotRef × Nat)) :
    Keeps (issueProduct a k p m rs) := by
  intro s h
  unfold issueProduct
  dsimp only
  split
  · exact State.waitFor_memOk h
  · refine State.ownRead_memOk (fun list u hu => State.captureVector_memOk (fun xs v hv => ?_) hu) h
    exact memOk_ite (State.waitFor_memOk (State.clearBits_memOk hv))
      (State.issueTicket_memOk (State.clearBits_memOk hv))

theorem checkProduct_keeps (a : BitVec 5) (k : BitVec 4) (addr : Nat) (p : List Byte) (m : MapBlock) :
    Keeps (checkProduct a k addr p m) := by
  intro s h
  unfold checkProduct
  split
  · exact s.malformed_memOk _ _ h
  · split
    · exact s.malformed_memOk _ _ h
    · refine State.withExtents_memOk (fun rs => ?_) h
      exact memOk_ite (s.malformed_memOk _ _ h) (memOk_ite (s.malformed_memOk _ _ h)
        (memOk_ite (s.malformed_memOk _ _ h) (issueProduct_keeps a k p m rs s h)))

theorem State.readMap_memOk {idx off : Nat} {f : MapBlock → State → State} (hf : ∀ m, Keeps (f m))
    (h : s.memOk = true) :
    (s.readMap idx off f).memOk = true := by
  unfold State.readMap
  split
  · exact s.accessFault_memOk _ _ _ h
  · split
    · exact s.accessFault_memOk _ _ _ h
    · split
      · exact s.malformed_memOk _ _ h
      · exact State.beginMap_memOk (fun u hu => State.readNamed_memOk (fun _ _ => hf _) hu) h

theorem startProduct_keeps (a b : BitVec 5) (k : BitVec 4) : Keeps (startProduct a b k) := by
  intro s h
  unfold startProduct
  dsimp only
  split
  · exact s.malformed_memOk _ _ h
  · exact State.readStruct_memOk (fun p u hu => State.readMap_memOk (checkProduct_keeps a k _ p) hu) h

theorem withMap_keeps (a : BitVec 5) (write : Bool) {f : MapBlock → List (SlotRef × Nat) → State → State}
    (hf : ∀ m rs, Keeps (f m rs)) : Keeps (withMap a write f) := by
  intro s h
  unfold withMap
  dsimp only
  split
  · exact s.malformed_memOk _ _ h
  · refine State.beginMap_memOk (fun u hu => State.readStruct_memOk (fun bs v hv => ?_) hu) h
    split
    · exact v.malformed_memOk _ _ hv
    · split
      · exact State.extentFault_memOk hv
      · exact State.withExtents_memOk (fun rs => memOk_ite (v.malformed_memOk _ _ hv) (hf _ _ _ hv)) hv

theorem State.readCounters_memOk {r : SlotRef} {f : List Nat → State → State} (hf : ∀ cs, Keeps (f cs))
    (l acc : List Nat)
    (h : s.memOk = true) : (s.readCounters r l acc f).memOk = true := by
  induction l generalizing s acc with
  | nil => exact hf _ _ h
  | cons a l ih => exact State.ownRead_memOk (fun _ _ hu => ih _ hu) h

theorem State.writeAll_memOk {r : SlotRef} {f : State → State} (hf : Keeps f) (l : List (Nat × List Byte))
    (h : s.memOk = true) : (s.writeAll r l f).memOk = true := by
  induction l generalizing s with
  | nil => exact hf _ h
  | cons p l ih => exact State.ownWrite_memOk (fun _ hu => ih (State.arriveAt_memOk hu)) h

theorem retire_keeps (r : Option (BitVec 5)) : Keeps fun s => s.retire r := fun _ h => State.retire_memOk h

theorem fireRows_keeps (b : BitVec 5) (k : BitVec 4) (m : MapBlock) (rs : List (SlotRef × Nat)) :
    Keeps (fireRows b k m rs) := by
  intro s h
  unfold fireRows
  dsimp only
  split
  · exact s.malformed_memOk _ _ h
  · split
    · exact State.waitFor_memOk h
    · exact State.readCounters_memOk (fun cs t ht => State.writeAll_memOk (retire_keeps none) _ ht) _ _ h

theorem ageRows_keeps (m : MapBlock) (rs : List (SlotRef × Nat)) : Keeps (ageRows m rs) := by
  intro s h
  unfold ageRows
  dsimp only
  split
  · exact State.waitFor_memOk h
  · exact State.ownRead_memOk (fun bs t ht => State.writeAll_memOk (retire_keeps none) _ ht) h

theorem State.setCopies_memOk {l : List HotCopy} (h : s.memOk = true) :
    ({ s with copies := l } : State).memOk = true := h

theorem stageRows_keeps (m : MapBlock) (rs : List (SlotRef × Nat)) (rows : List Nat) : Keeps (stageRows m rs rows) := by
  intro s h
  unfold stageRows
  dsimp only
  refine State.writeAll_memOk (fun t ht => State.writeAll_memOk (fun u hu => ?_) _ ht) _ h
  exact State.retire_memOk (State.setCopies_memOk hu)

theorem rankRows_keeps (b : BitVec 5) (m : MapBlock) (rs : List (SlotRef × Nat)) : Keeps (rankRows b m rs) := by
  intro s h
  unfold rankRows
  dsimp only
  split
  · exact s.malformed_memOk _ _ h
  · split
    · exact State.waitFor_memOk h
    · exact State.ownRead_memOk (fun bs t ht => stageRows_keeps m rs _ t ht) h

theorem commitMap_keeps (m : MapBlock) (rs : List (SlotRef × Nat)) : Keeps (commitMap m rs) := by
  intro s h
  unfold commitMap
  dsimp only
  split
  · exact State.waitFor_memOk h
  · split
    · exact State.writeAll_memOk (retire_keeps none) _ h
    · exact State.retire_memOk h

theorem State.computeRows_memOk {t : Ticket} {p : Product} {l : List Nat} {ys : List Byte} {u : State}
    {r : Except (SlotRef × Nat × Nat) (List Byte)} (h : s.memOk = true) (e : s.computeRows t p l ys = (r, u)) :
    u.memOk = true := by
  induction l generalizing s ys with
  | nil => cases e; exact h
  | cons i l ih =>
    unfold State.computeRows at e
    dsimp only at e
    have hread {o : Option (List Byte)} {v : State} {a n : Nat} {sr : SlotRef}
        (he : (if p.hot.contains i then s.engineRead t.ctx t.stream sr a n else s.nearRead t.ctx t.stream sr a n) =
          (o, v)) : v.memOk = true := by
      split at he
      · exact State.engineRead_memOk h he
      · exact State.nearRead_memOk h he
    split at e
    · cases e; exact hread ‹_›
    · exact ih (hread ‹_›) e

theorem State.finishProduct_memOk {t : Ticket} {p : Product} (h : s.memOk = true) :
    (s.finishProduct t p).memOk = true := by
  unfold State.finishProduct
  split
  · exact State.endTicket_memOk h
  · split
    · exact h
    · split
      · exact State.loseTicket_memOk (State.computeRows_memOk h ‹_›)
      · rename_i hc
        have hu := State.computeRows_memOk h hc
        split
        · exact State.loseTicket_memOk hu
        · exact State.endTicket_memOk (State.arriveAt_memOk (State.engineWrite_memOk hu ‹_›))

theorem State.copyRows_memOk {c : HotCopy} (e : Nat) (l : List Nat) (h : s.memOk = true) :
    (s.copyRows c e l).memOk = true := by
  induction l generalizing s e with
  | nil => unfold State.copyRows; exact h
  | cons i l ih =>
    unfold State.copyRows
    split
    · exact State.engineLoss_memOk (State.engineRead_memOk h ‹_›)
    · rename_i hr
      have hu := State.engineRead_memOk h hr
      split
      · exact State.engineLoss_memOk hu
      · exact ih _ (State.arriveAt_memOk (State.engineWrite_memOk hu ‹_›))

theorem State.endCopy_memOk {n : Nat} {c : HotCopy} (h : s.memOk = true) : (s.endCopy n c).memOk = true :=
  memOk_ite (State.setCopies_memOk h) (State.setCopies_memOk h)

/-! ### Worklists -/

theorem State.updList_memOk {gid : BitVec 32} {w : Nat} {f : Worklist → Worklist} (h : s.memOk = true) :
    (s.updList gid w f).memOk = true := s.updGang_memOk _ _ h

theorem State.withList_memOk {w addr : Nat} {f : Worklist → State → State} (hf : ∀ l, Keeps (f l))
    (h : s.memOk = true) :
    (s.withList w addr f).memOk = true := by
  unfold State.withList
  split
  · exact s.malformed_memOk _ _ h
  · exact hf _ _ h

theorem State.readBalance_memOk {desc : List Byte} {n : Nat} {f : Nat → List Byte → List Word → State → State}
    (hf : ∀ a head l, Keeps (f a head l)) (h : s.memOk = true) : (s.readBalance desc n f).memOk = true := by
  unfold State.readBalance
  split
  · exact hf _ _ _ _ h
  · refine State.readNamed_memOk (fun a head u hu => ?_) h
    exact memOk_ite (u.malformed_memOk _ _ hu) (State.readNamed_memOk (fun _ _ => hf _ _ _) hu)

theorem openList_keeps (a : BitVec 5) (addr : Nat) (desc : List Byte) (spill : SlotRef) (record : List Word)
    (l : Worklist) : Keeps (openList a addr desc spill record l) := by
  intro s h
  unfold openList
  dsimp only
  split
  · exact State.writeBack_memOk (State.updList_memOk h)
  · exact memOk_ite (State.writeBack_memOk h) (s.malformed_memOk _ _ h)
  · exact memOk_ite (State.writeBack_memOk h) (s.malformed_memOk _ _ h)
  · exact memOk_ite (State.writeBack_memOk h) (s.malformed_memOk _ _ h)

theorem checkList_keeps (a : BitVec 5) (addr : Nat) (desc : List Byte) (g : Gang) :
    Keeps (checkList a addr desc g) := by
  intro s h
  unfold checkList
  dsimp only
  split
  · exact s.malformed_memOk _ _ h
  · refine State.withExtents_memOk (fun rs => State.readBalance_memOk (fun ra head record u hu => ?_) h) h
    exact memOk_ite (u.malformed_memOk _ _ hu) (memOk_ite (u.malformed_memOk _ _ hu)
      (State.withList_memOk (openList_keeps a addr desc _ record) hu))

theorem State.spillTask_memOk {g : Gang} {l : Worklist} {r : Spill} {t : State} (h : s.memOk = true)
    (e : s.spillTask g l = .ok (r, t)) : t.memOk = true := by
  unfold State.spillTask at e
  split at e
  · dsimp only at e
    split at e
    · cases e; exact State.engineWrite_memOk h ‹_›
    · cases e
  · cases e

theorem State.readRecord_memOk {g : Gang} {l : Worklist} {r : Spill} {b : Bool} {t : State} (h : s.memOk = true)
    (e : s.readRecord g l r = some (b, t)) : t.memOk = true := by
  unfold State.readRecord at e
  split at e
  · cases e; exact h
  · dsimp only at e
    split at e
    · cases e
    · cases e; exact s.beforeRead_memOk _ _ _ _ h

theorem State.queueTask_memOk {g : Gang} {l : Worklist} {word : Word} {level floor : Nat} {k : Task} {t : State}
    (h : s.memOk = true) (e : s.queueTask g l word level floor = .ok (k, t)) : t.memOk = true := by
  unfold State.queueTask at e
  split at e
  · cases hs : s.spillTask g l with
    | error x => rw [hs] at e; cases e
    | ok p => rw [hs] at e; cases e; exact State.spillTask_memOk h hs
  · cases e; exact h

theorem State.spillFar_memOk {gid : BitVec 32} {w : Nat} {t : Task} (h : s.memOk = true) :
    (s.spillFar gid w t).memOk = true := by
  unfold State.spillFar
  split
  · split
    · split
      · exact State.updList_memOk (State.spillTask_memOk h ‹_›)
      · exact s.lineReport_memOk _ h
      · exact h
    · exact h
  · exact h

theorem pushTask_keeps (a b : BitVec 5) (g : Gang) (l : Worklist) : Keeps (pushTask a b g l) := by
  intro s h
  unfold pushTask
  dsimp only
  split
  · exact State.waitFor_memOk (State.updList_memOk h)
  · exact s.lineFault_memOk _ _ _ h
  · refine State.retire_memOk (memOk_foldl _ (fun x t hx => State.spillFar_memOk hx) _ _ ?_)
    exact State.updList_memOk (State.queueTask_memOk h ‹_›)

theorem pushList_keeps (a b : BitVec 5) (l : Worklist) : Keeps (pushList a b l) := by
  intro s h
  unfold pushList
  split
  · exact State.waitFor_memOk h
  · split
    · exact State.waitFor_memOk h
    · exact s.malformed_memOk _ _ h
    · exact pushTask_keeps a b _ l s h
    · exact h

theorem State.takeTask_memOk {a b : BitVec 5} {gid : BitVec 32} {l : Worklist} {t : Task} (h : s.memOk = true) :
    (s.takeTask a b gid l t).memOk = true :=
  State.retire_memOk (State.setX_memOk (State.setX_memOk (State.updList_memOk h)))

theorem State.popTask_memOk {a b : BitVec 5} {gid : BitVec 32} {w fuel : Nat} {passed : List Task} {p : Popped}
    {t : State} (h : s.memOk = true) (e : s.popTask a b gid w fuel passed = (t, p)) : t.memOk = true := by
  induction fuel generalizing s passed with
  | zero => cases e; exact h
  | succ fuel ih =>
    unfold State.popTask at e
    split at e
    · dsimp only at e
      split at e
      · cases e; exact h
      · split at e
        · cases e; exact State.takeTask_memOk h
        · split at e
          · exact ih h e
          · cases e; exact State.takeTask_memOk (State.readRecord_memOk h ‹_›)
          · exact ih (State.updList_memOk (State.readRecord_memOk h ‹_›)) e
    · cases e; exact h

theorem popList_keeps (a b : BitVec 5) (l : Worklist) : Keeps (popList a b l) := by
  intro s h
  unfold popList
  extract_lets two idle
  have htwo (st : Word) : Keeps (two st) :=
    fun u hu => State.retire_memOk (State.setX_memOk (State.setX_memOk hu))
  have hidle : Keeps idle := fun u hu => memOk_ite (htwo 1 u hu) (State.waitFor_memOk hu)
  split
  · exact htwo 0 s h
  · exact hidle s h
  · exact hidle s h
  · split
    · exact State.popTask_memOk h ‹_›
    · exact hidle _ (State.popTask_memOk h ‹_›)

theorem retireToken_keeps (a : BitVec 5) (l : Worklist) : Keeps (retireToken a l) :=
  fun s h => memOk_ite (State.waitFor_memOk h) (memOk_ite (s.malformed_memOk _ _ h)
    (State.retire_memOk (State.updList_memOk h)))

theorem State.moveTasks_memOk {gid : BitVec 32} {w : Nat} {source dest : BitVec 8} (n : Nat) (h : s.memOk = true) :
    (s.moveTasks gid w source dest n).memOk = true := by
  induction n generalizing s with
  | zero => exact h
  | succ n ih =>
    unfold State.moveTasks
    split
    · split
      · exact h
      · rename_i g l _ _ _ t _
        have hread {b : Bool} {u : State} (e : (match t.spilled with
            | some r => s.readRecord g l r
            | none => some (true, s)) = some (b, u)) : u.memOk = true := by
          split at e
          · exact State.readRecord_memOk h e
          · cases e; exact h
        split
        · exact h
        · exact ih (State.updList_memOk (hread ‹_›))
        · rename_i hr
          have hu := hread hr
          split
          · split
            · exact hu
            · exact State.lineReport_memOk _ _ hu
            · exact ih (State.updList_memOk (State.queueTask_memOk hu ‹_›))
          · exact ih (State.updList_memOk hu)
    · exact h

theorem State.unspillTask_memOk {gid : BitVec 32} {w : Nat} {t : Task} (h : s.memOk = true) :
    (s.unspillTask gid w t).memOk = true := by
  unfold State.unspillTask
  split
  · split
    · exact h
    · split
      · exact h
      · split
        · exact h
        · exact State.updList_memOk (State.readRecord_memOk h ‹_›)
        · exact State.updList_memOk (State.readRecord_memOk h ‹_›)
  · exact h

/-! ### Gangs -/

theorem State.setGangs_memOk {l : List Gang} (h : s.memOk = true) : ({ s with gangs := l } : State).memOk = true := h

theorem launchGang_keeps (a : BitVec 5) (head : List Byte) (gs : List Group) (table : Nat) :
    Keeps (launchGang a head gs table) := by
  intro s h
  unfold launchGang
  dsimp only
  split
  · exact State.waitFor_memOk h
  · exact State.writeBack_memOk (memOk_of_mem rfl h)

theorem startLaunch_keeps (a b : BitVec 5) : Keeps (startLaunch a b) := by
  intro s h
  unfold startLaunch
  dsimp only
  split
  · exact s.malformed_memOk _ _ h
  · refine State.readStruct_memOk (fun head u hu => memOk_ite (u.malformed_memOk _ _ hu) ?_) h
    refine State.readStruct_memOk (fun bs v hv => ?_) hu
    split
    · exact v.accessFault_memOk _ _ _ hv
    · exact memOk_ite (v.malformed_memOk _ _ hv) (launchGang_keeps a head _ _ v hv)

theorem State.saveContext_memOk (h : s.memOk = true) : s.saveContext.memOk = true := s.saveContext_wf h

theorem State.addHart_memOk {g : Hart} (h : s.memOk = true) : (s.addHart g).memOk = true :=
  State.asHart_memOk _ _ _ (fun _ ht => State.saveContext_memOk ht) (memOk_of_mem rfl h)

theorem State.takeTurn_memOk {g : Gang} (h : s.memOk = true) : (s.takeTurn g).memOk = true := by
  unfold State.takeTurn
  split
  · exact memOk_ite h (memOk_of_mem rfl h)
  · exact h

theorem State.placeMember_memOk {g : Gang} {m : Member} (h : s.memOk = true) : (s.placeMember g m).memOk = true := by
  unfold State.placeMember
  split
  · exact State.updGang_memOk _ _ _ (State.addHart_memOk (memOk_of_mem rfl (State.takeTurn_memOk h)))
  · exact h

theorem State.failStart_memOk {g : Gang} (h : s.memOk = true) : (s.failStart g).memOk = true := by
  unfold State.failStart
  exact memOk_of_mem rfl h

theorem awaitGang_keeps (a b : BitVec 5) : Keeps (awaitGang a b) := by
  intro s h
  unfold awaitGang
  dsimp only
  split
  · exact State.writeBack_memOk h
  · split
    · exact State.writeBack_memOk h
    · split
      · exact State.writeBack_memOk (s.updGang_memOk _ _ h)
      · exact State.writeBack_memOk h
      · exact State.waitFor_memOk h
      · exact State.waitFor_memOk h
      · exact State.waitFor_memOk h

theorem arriveBar_keeps (a : BitVec 5) : Keeps (arriveBar a) :=
  fun s h => memOk_ite
    (memOk_ite (State.retire_memOk (s.mapHart_memOk _ h)) (State.waitFor_memOk h))
    (memOk_ite (State.waitFor_memOk h)
      (State.waitFor_memOk (State.mapHart_memOk _ _ (s.updGang_memOk _ _ h))))

theorem joinReduction_keeps (k : BitVec 4) (p : List Byte) (g : Gang) (buf : SlotRef × Nat) (steps : List Word) :
    Keeps (joinReduction k p g buf steps) := by
  intro s h
  unfold joinReduction
  dsimp only
  split
  · exact State.waitFor_memOk h
  · split
    · exact State.clearBits_memOk h
    · exact memOk_ite (State.waitFor_memOk (State.clearBits_memOk h))
        (State.retire_memOk (State.updGang_memOk _ _ _ (State.clearBits_memOk h)))

theorem checkReduction_keeps (k : BitVec 4) (addr : Nat) (p : List Byte) (g : Gang) :
    Keeps (checkReduction k addr p g) := by
  intro s h
  unfold checkReduction
  dsimp only
  split
  · exact s.malformed_memOk _ _ h
  · refine State.readNamed_memOk (fun ra head u hu => memOk_ite (u.malformed_memOk _ _ hu) ?_) h
    refine State.withExtents_memOk (fun rs => State.readNamed_memOk (fun x bs v hv => ?_) hu) hu
    exact memOk_ite (v.malformed_memOk _ _ hv) (memOk_ite (v.malformed_memOk _ _ hv)
      (memOk_ite (v.malformed_memOk _ _ hv) (joinReduction_keeps k p g _ _ v hv)))

theorem startReduction_keeps (a : BitVec 5) (k : BitVec 4) : Keeps (startReduction a k) := by
  intro s h
  unfold startReduction
  dsimp only
  split
  · exact s.malformed_memOk _ _ h
  · refine State.readStruct_memOk (fun p u hu => ?_) h
    split
    · exact checkReduction_keeps k _ p _ u hu
    · exact hu

theorem State.gather_memOk {g : Gang} {l : List Join} {acc : List (List Byte)} {r : Except Join (List (List Byte))}
    {t : State} (h : s.memOk = true) (e : s.gather g l acc = (r, t)) : t.memOk = true := by
  induction l generalizing s acc with
  | nil => cases e; exact h
  | cons j l ih =>
    unfold State.gather at e
    split at e
    · cases e; exact State.engineRead_memOk h ‹_›
    · exact ih (State.engineRead_memOk h ‹_›) e

theorem State.bufferLoss_memOk {g : Gang} {j : Join} (h : s.memOk = true) : (s.bufferLoss g j).memOk = true :=
  memOk_ite (State.engineLoss_memOk h) (s.lineReport_memOk _ h)

theorem State.scatter_memOk {g : Gang} {out : List Byte} (l : List Join) (h : s.memOk = true) :
    (s.scatter g out l).memOk = true := by
  induction l generalizing s with
  | nil => exact h
  | cons j l ih =>
    unfold State.scatter
    split
    · exact ih h
    · split
      · exact ih (State.engineLoss_memOk h)
      · exact ih (State.arriveAt_memOk (State.engineWrite_memOk h ‹_›))

theorem State.endReduction_memOk {g : Gang} {r : Reduction} {last : BitVec 2} (h : s.memOk = true) :
    (s.endReduction g r last).memOk = true :=
  memOk_foldl _ (fun u _ hu => u.updHart_memOk _ _ hu) _ _ (s.updGang_memOk _ _ h)

theorem State.sendReduction_memOk {g : Gang} {r : Reduction} {l : List Join} (h : s.memOk = true) :
    (s.sendReduction g r l).memOk = true := memOk_ite (s.updGang_memOk _ _ h) (State.endReduction_memOk h)

theorem State.reduce_memOk {g : Gang} {r : Reduction} (h : s.memOk = true) : (s.reduce g r).memOk = true := by
  unfold State.reduce
  dsimp only
  split
  · exact State.sendReduction_memOk h
  · split
    · exact State.endReduction_memOk h
    · split
      · exact h
      · split
        · exact State.endReduction_memOk (State.bufferLoss_memOk (State.gather_memOk h ‹_›))
        · exact State.sendReduction_memOk (State.scatter_memOk _ (State.gather_memOk h ‹_›))

theorem State.exitHart_memOk (h : s.memOk = true) : s.exitHart.memOk = true := by
  unfold State.exitHart
  exact State.finishGang_memOk _ _ (State.updGang_memOk _ _ _ (memOk_of_mem rfl h))

theorem leaveGang_keeps : Keeps leaveGang := fun _ h => memOk_ite (State.exitHart_memOk h) (State.waitFor_memOk h)

/-! ### Worlds and attestation -/

theorem State.storeWords_memOk {t : Option (BitVec 16)} {a : Nat} {bs : List Byte} {f : State → State} (hf : Keeps f)
    (h : s.memOk = true) : (s.storeWords t a bs f).memOk = true := by
  have hr := State.reach_memOk (plainAccess t a 8 needWrite) h
  unfold State.storeWords
  generalize s.reach _ = r at hr ⊢
  cases r with
  | ended u => exact hr
  | window off =>
    refine hf _ (memOk_foldl _ (fun u o hu => ?_) _ _ h)
    split
    · exact u.writeWindow_memOk _ _ hu
    · exact hu
  | host bus => exact hf _ (memOk_foldl _ (fun u o hu => memOk_of_mem (State.sendHost_mem ..) hu) _ _ h)
  | memory sw => exact State.ownWrite_memOk hf h

theorem State.bufferOk_memOk {t : Option (BitVec 16)} {a n : Nat} {f : State → State} (hf : Keeps f)
    (h : s.memOk = true) : (s.bufferOk t a n f).memOk = true := by
  unfold State.bufferOk
  dsimp only
  split
  · exact hf _ h
  · split
    · exact s.accessFault_memOk _ _ _ h
    · split
      · split
        · exact s.accessFault_memOk _ _ _ h
        · exact h
      · exact hf _ h

theorem State.newReportKey_memOk {w : BitVec 10} (h : s.memOk = true) : (s.newReportKey w).memOk = true :=
  memOk_ite (memOk_of_mem rfl h) (State.updWorld_memOk _ _ _ (memOk_of_mem rfl h))

theorem report_keeps (d a : BitVec 5) : Keeps (report d a) := by
  intro s h
  unfold report
  dsimp only
  refine State.bufferOk_memOk (fun u hu => State.readStruct_memOk (fun nonce v hv => ?_) hu) h
  exact State.storeWords_memOk (fun w hw => State.writeBack_memOk (State.newReportKey_memOk hw)) hv

theorem ownWorld_keeps (d : BitVec 5) {f : World → State → State} (hf : ∀ w, Keeps (f w)) : Keeps (ownWorld d f) := by
  intro s h
  unfold ownWorld
  split
  · exact State.writeBack_memOk h
  · exact hf _ _ h

theorem State.addGrant_memOk {a b : BitVec 10} (h : s.memOk = true) : (s.addGrant a b).memOk = true :=
  s.updWorld_memOk _ _ h

theorem State.dropGrant_memOk {a b : BitVec 10} (h : s.memOk = true) : (s.dropGrant a b).memOk = true :=
  s.updWorld_memOk _ _ h

theorem revoke_keeps (d : BitVec 5) (wb : BitVec 10) (w : World) : Keeps (revoke d wb w) := by
  intro s h
  have ht (f : World → World) := State.updWorld_memOk _ w.wid f (State.dropGrant_memOk (a := w.wid) (b := wb) h)
  exact memOk_ite (State.writeBack_memOk h) (memOk_ite (State.waitFor_memOk (ht _))
    (State.writeBack_memOk (State.updWorld_memOk _ _ _ (ht _))))

/-! ### Keys and sealed models -/

theorem withBlock_keeps (a : BitVec 5) (n : Nat) {f : List Byte → State → State} (hf : ∀ bs, Keeps (f bs)) :
    Keeps (withBlock a n f) :=
  fun s h => s.ifWorld0_memOk _ (memOk_ite (s.accessFault_memOk _ _ _ h) (State.readStruct_memOk hf h)) h

theorem State.answers_memOk {d : BitVec 5} {n : Nat} (h : s.memOk = true) : (s.answers d n).memOk = true :=
  State.writeBack_memOk h

theorem openWorld_keeps (d : BitVec 5) (b : List Byte) : Keeps (openWorld d b) :=
  fun _ h => memOk_ite (State.answers_memOk h) (memOk_ite (State.answers_memOk h)
    (State.answers_memOk (memOk_of_mem rfl h)))

theorem State.addVersion_memOk {w : BitVec 10} {v : BitVec 12} {b : Bool} (h : s.memOk = true) :
    (s.addVersion w v b).memOk = true := h

theorem State.farVersion_memOk {w : BitVec 10} {v : BitVec 12} {b : Bool} (h : s.memOk = true) :
    (s.farVersion w v b).memOk = true :=
  memOk_ite (s.updWorld_memOk _ _ h) (memOk_ite (State.addVersion_memOk h) h)

theorem newVersion_keeps (d : BitVec 5) (b : List Byte) : Keeps (newVersion d b) := by
  intro s h
  unfold newVersion
  dsimp only
  split
  · exact State.answers_memOk h
  · split
    · exact State.answers_memOk h
    · exact memOk_ite (State.answers_memOk h) (State.answers_memOk (State.addVersion_memOk h))

theorem State.clearRegions_memOk {w : BitVec 10} (h : s.memOk = true) : (s.clearRegions w).memOk = true :=
  memOk_foldl _ (fun t _ ht => memOk_ite (t.claim_memOk _ _ ht) ht) _ _ h

theorem State.endWorld_memOk {w : BitVec 10} (h : s.memOk = true) : (s.endWorld w).memOk = true :=
  memOk_of_mem rfl (State.clearRegions_memOk (w := w) h)

theorem State.farClose_memOk {w : BitVec 10} (h : s.memOk = true) : (s.farClose w).memOk = true :=
  memOk_ite h (State.endWorld_memOk h)

theorem closeWorld_keeps (d : BitVec 5) (b : List Byte) : Keeps (closeWorld d b) := by
  intro s h
  unfold closeWorld
  split
  · exact State.answers_memOk h
  · split
    · exact State.answers_memOk h
    · exact memOk_ite (State.answers_memOk h) (State.answers_memOk (State.endWorld_memOk h))

theorem State.beforePlain_memOk {core : BitVec 8} {a n : Nat} (h : s.memOk = true) :
    (s.beforePlain core a n).memOk = true := by
  unfold State.beforePlain
  split
  · exact h
  · split
    · exact s.emit_memOk _ h
    · exact s.claimAll_memOk _ _ _ h

/-- What comes of an operation that may fail, or else the state before it. -/
theorem getD_memOk {o : Option State} (ho : ∀ t, o = some t → t.memOk = true) (h : s.memOk = true) :
    (o.getD s).memOk = true := by
  cases o with
  | none => exact h
  | some t => exact ho t rfl

theorem State.placeBytes_memOk {w : BitVec 10} {v : BitVec 12} {dst doff : Nat} {bs : List Byte} (h : s.memOk = true) :
    (s.placeBytes w v dst doff bs).memOk = true := by
  unfold State.placeBytes
  generalize linesOf dst bs.length = l
  induction l generalizing s bs with
  | nil => exact h
  | cons _ l ih => exact ih (getD_memOk (fun t ht => State.commit_memOk h ht) h)

theorem placeSection_keeps (d : BitVec 5) (b : List Byte) : Keeps (placeSection d b) := by
  intro s h
  unfold placeSection
  split
  · exact State.answers_memOk h
  · split
    · exact State.answers_memOk h
    · dsimp only
      split
      · exact State.answers_memOk h
      · split
        · exact State.waitFor_memOk h
        · split
          · exact State.lineFault_memOk _ _ _ _ (State.beforePlain_memOk h)
          · exact State.answers_memOk (State.updWorld_memOk _ _ _ (State.placeBytes_memOk (State.beforePlain_memOk h)))

theorem withManifest_keeps (b : List Byte) {f : State → State} (hf : Keeps f) : Keeps (withManifest b f) := by
  intro s h
  unfold withManifest
  dsimp only
  split
  · exact hf _ h
  · split
    · exact State.waitFor_memOk h
    · split
      · exact State.lineFault_memOk _ _ _ _ (State.beforePlain_memOk (State.beforePlain_memOk h))
      · exact hf _ (State.beforePlain_memOk (State.beforePlain_memOk h))

theorem State.setSeals_memOk {l : List SealJob} (h : s.memOk = true) : ({ s with seals := l } : State).memOk = true := h

theorem sealReady_keeps (d : BitVec 5) (b : List Byte) : Keeps (sealReady d b) := by
  intro s h
  unfold sealReady
  dsimp only
  split
  · exact State.answers_memOk h
  · split
    · exact State.answers_memOk h
    · exact memOk_ite (State.answers_memOk h) (State.answers_memOk (State.setSeals_memOk (s.updWorld_memOk _ _ h)))

theorem installReady_keeps (d : BitVec 5) (b : List Byte) : Keeps (installReady d b) :=
  fun _ h => memOk_ite (State.answers_memOk h) (memOk_ite (State.answers_memOk h)
    (State.answers_memOk (State.setSeals_memOk h)))

theorem State.setStore_memOk {l : List StoreEntry} (h : s.memOk = true) :
    ({ s with store := l } : State).memOk = true := h

theorem eraseEntry_keeps (d : BitVec 5) (b : List Byte) : Keeps (eraseEntry d b) :=
  fun _ h => memOk_ite (State.answers_memOk h) (memOk_ite (State.answers_memOk (State.setStore_memOk h))
    (State.answers_memOk h))

theorem State.dropReport_memOk {w : BitVec 10} (h : s.memOk = true) : (s.dropReport w).memOk = true :=
  memOk_ite (memOk_of_mem rfl h) (s.updWorld_memOk _ _ h)

theorem State.advance_memOk {c n : Nat} (h : s.memOk = true) : (s.advance c n).memOk = true := by
  unfold State.advance
  split
  · exact memOk_of_mem rfl h
  · exact h

theorem State.endSeal_memOk {j : SealJob} {code shard : Nat} (h : s.memOk = true) :
    (s.endSeal j code shard).memOk = true :=
  State.post_memOk _ _ _ _ (s.updWorld_memOk _ _ h)

/-- The search for a line of a shard that is lost goes by a name of its own here: the kernel would begin to evaluate it,
over 64 MiB, when it compares the two matches. -/
theorem State.shardReport_memOk {j : SealJob} {bad : Option Nat} (h : s.memOk = true) :
    (s.shardReport j bad).memOk = true := by
  obtain ⟨lost, hlost⟩ : ∃ f, f = State.plainLost := ⟨_, rfl⟩
  unfold State.shardReport
  rw [← hlost]
  split
  · exact h
  · dsimp only
    split
    · exact s.lineReport_memOk _ h
    · exact h

theorem State.storeSealed_memOk {j : SealJob} {bs : List Byte} (h : s.memOk = true) :
    (s.storeSealed j bs).memOk = true :=
  State.placeBytes_memOk h

theorem State.loadShards_memOk {j : SealJob} {m plain : List Byte} {bad : Option Nat} (h : s.memOk = true) :
    (s.loadShards j m plain bad).memOk = true := by
  have ht := State.storeSealed_memOk (j := j) (bs := plain) h
  unfold State.loadShards
  dsimp only
  split
  · exact State.endSeal_memOk h
  · split
    · exact State.endSeal_memOk h
    · split
      · exact State.endSeal_memOk ht
      · exact memOk_ite (State.endSeal_memOk ht) (State.endSeal_memOk (State.advance_memOk ht))

theorem State.completeLoad_memOk {n : Nat} (h : s.memOk = true) : (s.completeLoad n).memOk = true := by
  unfold State.completeLoad
  split
  · exact h
  · split
    · exact h
    · have hs := State.setSeals_memOk (l := s.seals.eraseIdx n) h
      dsimp only
      split
      · split
        · exact State.endSeal_memOk hs
        · exact State.loadShards_memOk (State.shardReport_memOk (State.beforePlain_memOk (State.dropReport_memOk hs)))
      · split
        · exact State.loadShards_memOk hs
        · exact State.loadShards_memOk hs

theorem State.endInstall_memOk {code shard : Nat} (h : s.memOk = true) : (s.endInstall code shard).memOk = true :=
  s.post_memOk _ _ _ h

/-! ### Reset, boot and the memory side -/

theorem State.deviceReset_memOk (h : s.memOk = true) : s.deviceReset.memOk = true := Bytes.keep_wf _ h

theorem State.cutAdvance_memOk {c : BitVec 4} {k : Nat} (h : s.memOk = true) : (s.cutAdvance c k).memOk = true := by
  unfold State.cutAdvance
  split
  · exact h
  · exact State.deviceReset_memOk (memOk_of_mem rfl (State.completeLoad_memOk h))

theorem State.setBoot_memOk {b : Boot} (h : s.memOk = true) : ({ s with boot := b } : State).memOk = true := h

theorem State.placeImage_memOk {file : List Byte} (h : s.memOk = true) : (s.placeImage file).memOk = true := by
  unfold State.placeImage
  dsimp only
  refine State.setBoot_memOk (memOk_foldl _ (fun t o ht => t.rawWrite_memOk _ _ ht) _ _ ?_)
  refine memOk_foldl _ (fun t p ht => t.rawWrite_memOk _ _ ht) _ _ (State.rawWrite_memOk _ _ _ ?_)
  exact memOk_foldl _ (fun t p ht => t.rawWrite_memOk _ _ ht) _ _ h

theorem State.checkFill_memOk {line : Nat} (h : s.memOk = true) : (s.checkFill line).memOk = true := by
  unfold State.checkFill
  split
  · exact memOk_ite (s.countLine_memOk _ h) (State.lineFault_memOk _ _ _ _ (s.countLine_memOk _ h))
  · exact h

theorem State.setPackets_memOk {l : List Packet} (h : s.memOk = true) :
    ({ s with packets := l } : State).memOk = true := h

theorem State.packetWrite_memOk {n j : Nat} (h : s.memOk = true) : (s.packetWrite n j).memOk = true := by
  unfold State.packetWrite
  split
  · exact h
  · split
    · exact h
    · exact State.commitFor_memOk _ _ _ (State.setPackets_memOk h)

/-! ### Entry of vector instructions -/

theorem State.badStirrup_memOk (h : s.memOk = true) : s.badStirrup.memOk = true := by
  unfold State.badStirrup
  split
  · exact s.illegal_memOk h
  · exact State.illegal_memOk _ (s.mapHart_memOk _ h)

theorem State.push_memOk {e : QEntry} {after : Hart → Hart} (h : s.memOk = true) : (s.push e after).memOk = true :=
  memOk_ite (State.waitFor_memOk h) (State.retire_memOk (s.mapHart_memOk _ h))

theorem State.joining_memOk {i : Instr} {c : Class} {f : List Class → State} (hf : ∀ cv, (f cv).memOk = true)
    (h : s.memOk = true) : (s.joining i c f).memOk = true := by
  unfold State.joining
  split
  · exact State.badStirrup_memOk h
  · split
    · exact s.illegal_memOk h
    · exact hf _

theorem State.enqueue_memOk {i : Instr} {c : Class} {ops : List (BitVec 5)} {strides : Vector Word 3} {f : Form}
    (h : s.memOk = true) : (s.enqueue i c ops strides f).memOk = true := by
  unfold State.enqueue
  dsimp only
  split
  · exact s.illegal_memOk h
  · split
    · exact s.illegal_memOk h
    · refine memOk_ite (State.badStirrup_memOk h) (State.joining_memOk (fun cv => ?_) h)
      exact memOk_ite (State.retire_memOk (s.mapHart_memOk _ h)) (State.push_memOk h)

theorem State.inLanes_memOk {f : State → State} (hf : Keeps f) (h : s.memOk = true) : (s.inLanes f).memOk = true :=
  s.withLanes_memOk _ (fun t ht => memOk_ite (t.takeTrap_memOk _ _ _ ht) (hf t ht)) h

theorem enter_keeps (i : Instr) (ops : List (BitVec 5)) (f : State → Form) (strides : Hart → Vector Word 3) :
    Keeps (enter i ops f strides) := by
  intro s h
  unfold enter
  split
  · exact s.illegal_memOk h
  · exact memOk_ite (s.illegal_memOk h) (State.inLanes_memOk (fun t ht => State.enqueue_memOk ht) h)

theorem State.readVector_memOk {k : BitVec 5} {f : State → State} (hf : Keeps f) (h : s.memOk = true) :
    (s.readVector k f).memOk = true :=
  State.inLanes_memOk (fun t ht => memOk_ite (State.waitFor_memOk ht) (hf t ht)) h

/-! ### What a queued instruction does to memory -/

/-- The state that a queued instruction leaves, where it leaves one, has the form. -/
def Moved.memOk : Moved → Prop
  | .done s | .more _ s | .ask s | .bad _ _ _ s | .lost s => s.memOk = true
  | .wait | .fault _ _ _ | .stream _ | .illegal => True

theorem Moved.wait_memOk : Moved.wait.memOk := trivial

theorem Moved.illegal_memOk : Moved.illegal.memOk := trivial

theorem Moved.memOk_ite {p : Prop} [Decidable p] {a b : Moved} (ha : a.memOk) (hb : b.memOk) :
    (if p then a else b).memOk := by
  split
  · exact ha
  · exact hb

/-- The state in which reads or writes end has the form. -/
def Gathered.memOk : Gathered → Prop
  | .ok _ s | .bad _ _ s | .lost s => s.memOk = true

theorem State.updHead_memOk {f : QEntry → QEntry} (h : s.memOk = true) :
    (s.updHead f).memOk = true := s.mapHart_memOk _ h

theorem State.probedThen_memOk {e : QEntry} {x : Reached} {ff : Bool} {k : QEntry → State → Moved}
    (hk : ∀ e u, u.memOk = true → (k e u).memOk) (h : s.memOk = true) : (s.probedThen e x ff k).memOk := by
  unfold State.probedThen
  split
  · exact hk _ _ h
  · split
    · exact hk _ _ (State.updHead_memOk h)
    · split
      · dsimp only
        split
        · exact hk _ _ (State.updHead_memOk h)
        · trivial
      · trivial

theorem State.withHost_memOk {e : QEntry} {n : Nat} {parts : List (Nat × Nat)} {o : Outbound}
    {k : List (List Byte) → Moved} (hk : ∀ l, (k l).memOk) (h : s.memOk = true) : (s.withHost e n parts o k).memOk := by
  unfold State.withHost
  split
  · exact hk _
  · split
    · exact s.emit_memOk _ h
    · trivial
    · split
      · exact hk _
      · trivial

theorem gather_memOk {c : Ctx} {r : SlotRef} {n : Nat} {l : List Nat} {host : List (List Byte)} {g : Gathered}
    (h : s.memOk = true) (e : gather c r n l host s = g) : g.memOk := by
  subst e
  induction l generalizing host s with
  | nil => exact h
  | cons a l ih =>
    unfold gather
    split
    · have hg := ih (host := host.drop 1) h
      generalize gather c r n l (host.drop 1) s = g at hg ⊢
      cases g with
      | ok l u => exact hg
      | bad b l u => exact hg
      | lost u => exact hg
    · dsimp only
      split
      · exact State.countedRead_memOk h
      · split
        · exact State.countedRead_memOk h
        · have hg := ih (host := host)
            (State.countedRead_memOk (sw := r.word) (c := c) (st := .vector s.hart.ser) (a := a) (b := a) (m := n)
              (n := n) h)
          generalize gather c r n l host _ = g at hg ⊢
          cases g with
          | ok l u => exact hg
          | bad b l u => exact hg
          | lost u => exact hg

theorem scatter_memOk {c : Ctx} {r : SlotRef} {l : List (Nat × List Byte)} {g : Gathered} (h : s.memOk = true)
    (e : scatter c r l s = g) : g.memOk := by
  subst e
  induction l generalizing s with
  | nil => exact h
  | cons p l ih =>
    unfold scatter
    split
    · exact h
    · exact ih (State.writeBytes_memOk (s.countWrite_memOk _ _ _ _ h) ‹_›)

/-! ### Vector loads and stores -/

theorem State.keepEarly_memOk {e : QEntry} {u : Nat} {bs : List Byte} (h : s.memOk = true) :
    (s.keepEarly e u bs).memOk :=
  State.updHead_memOk h

theorem loadStep_memOk {v : BitVec 5} {x : Reached} {ff : Bool} {e : QEntry} (h : s.memOk = true) :
    (loadStep v x ff e s).memOk := by
  refine State.probedThen_memOk (fun e u hu => State.withHost_memOk (fun host => Moved.memOk_ite trivial ?_) hu) h
  split
  · rename_i hg
    exact (gather_memOk hu hg :)
  · rename_i hg
    exact (gather_memOk hu hg :)
  · rename_i hg
    have hw (f : Hart → Hart) := State.mapHart_memOk _ f (gather_memOk hu hg :)
    exact Moved.memOk_ite (hw _) (State.mapHart_memOk _ _ (hw _))

theorem loadUnit_memOk {x : Reached} {ff : Bool} {i : Nat} {e : QEntry} (h : s.memOk = true) :
    (loadUnit x ff i e s).memOk := by
  refine State.probedThen_memOk (fun e u hu => ?_) h
  split
  · trivial
  · refine Moved.memOk_ite trivial ?_
    split
    · rename_i hg
      exact (gather_memOk hu hg :)
    · rename_i hg
      exact (gather_memOk hu hg :)
    · rename_i hg
      exact State.keepEarly_memOk (gather_memOk hu hg :)

theorem storeUnit_memOk {v : BitVec 5} {x : Reached} {i : Nat} {e : QEntry} (h : s.memOk = true) :
    (storeUnit v x i e s).memOk := by
  refine State.probedThen_memOk (fun e u hu => ?_) h
  split
  · trivial
  · split
    · rename_i hg
      exact (scatter_memOk hu hg :)
    · rename_i hg
      exact (scatter_memOk hu hg :)
    · rename_i hg
      exact State.keepEarly_memOk (scatter_memOk hu hg :)

theorem storeStep_memOk {v : BitVec 5} {x : Reached} {e : QEntry} (h : s.memOk = true) : (storeStep v x e s).memOk := by
  refine State.probedThen_memOk (fun e u hu => ?_) h
  dsimp only
  split
  · rename_i hg
    exact (scatter_memOk hu hg :)
  · rename_i hg
    exact (scatter_memOk hu hg :)
  · rename_i hg
    exact Moved.memOk_ite (scatter_memOk hu hg :) (scatter_memOk hu hg :)

/-! ### Vector atomics -/

/-- The state that atomics end in, whether or not a line has failed. -/
def endState {α β : Type} : Except (α × State) (β × State) → State
  | .error p => p.2
  | .ok p => p.2

theorem atomics_memOk {c : Ctx} {r : SlotRef} {n : Nat} {addr : Nat → Nat} {f : Nat → Nat → Option Nat} {l : List Nat}
    {x : Except (Nat × State) (List (Nat × Nat) × State)} (h : s.memOk = true) (e : atomics c r n addr f l s = x) :
    (endState x).memOk = true := by
  subst e
  induction l generalizing s with
  | nil => exact h
  | cons i l ih =>
    unfold atomics
    dsimp only
    split
    · exact State.countedRead_memOk h
    · rename_i w hw
      have hx := ih (State.atomicAt_memOk (State.countedRead_memOk h) hw)
      generalize atomics c r n addr f l w = x at hx ⊢
      cases x with
      | error p => exact hx
      | ok p => exact hx

theorem State.holdAmo_memOk {c : Ctx} {st : FabricStream} {sw : SlotWord} {e a n : Nat} {q : AmoReq}
    (h : s.memOk = true) :
    (s.holdAmo c st sw e a n q).memOk = true := h

theorem amoDone_memOk {v : BitVec 5} {e : QEntry} {vals : List (Nat × Nat)} {hi : Nat} (h : s.memOk = true) :
    (amoDone v e vals hi s).memOk :=
  Moved.memOk_ite (s.mapHart_memOk _ h) (State.mapHart_memOk _ _ (s.mapHart_memOk _ h))

theorem amoHere_memOk {v : BitVec 5} {e : QEntry} {addr : Nat → Nat} {req : Nat → AmoReq} {here : List Nat}
    {others : List (Nat × Nat)} {hi : Nat} (h : s.memOk = true) : (amoHere v e addr req here others hi s).memOk := by
  unfold amoHere
  refine Moved.memOk_ite trivial ?_
  split
  · rename_i hx
    exact (atomics_memOk h hx :)
  · rename_i hx
    have hu := (atomics_memOk h hx :)
    exact Moved.memOk_ite hu (amoDone_memOk hu)

theorem amoGroup_memOk {v : BitVec 5} {e : QEntry} {addr : Nat → Nat} {req : Nat → AmoReq} (h : s.memOk = true) :
    (amoGroup v e addr req s).memOk := by
  unfold amoGroup
  dsimp only
  split
  · exact amoDone_memOk h
  · refine Moved.memOk_ite trivial ?_
    split
    · exact amoHere_memOk h
    · exact memOk_foldl _ (fun u i hu => State.holdAmo_memOk hu) _ _ h

theorem amoUnit_memOk {op : AmoOp} {v x : BitVec 5} {sc : BitVec 3} {i : Nat} {e : QEntry} (h : s.memOk = true) :
    (amoUnit op v x sc i e s).memOk := by
  unfold amoUnit
  dsimp only
  refine State.probedThen_memOk (fun e u hu => ?_) h
  split
  · trivial
  · refine Moved.memOk_ite trivial ?_
    split
    · rename_i hx
      exact (atomics_memOk hu hx :)
    · rename_i hx
      have hw := (atomics_memOk hu hx :)
      exact Moved.memOk_ite hw (State.keepEarly_memOk hw)

theorem amoStep_memOk {op : AmoOp} {v x : BitVec 5} {sc : BitVec 3} {e : QEntry} (h : s.memOk = true) :
    (amoStep op v x sc e s).memOk := by
  unfold amoStep
  dsimp only
  refine State.probedThen_memOk (fun e u hu => ?_) h
  refine Moved.memOk_ite (amoGroup_memOk hu) (Moved.memOk_ite trivial ?_)
  exact State.withHost_memOk (fun _ => amoHere_memOk hu) hu

/-! ### Stream reads, whole registers and memory-to-memory forms -/

theorem vqrdStep_memOk {v q : BitVec 5} {e : QEntry} (h : s.memOk = true) : (vqrdStep v q e s).memOk := by
  unfold vqrdStep
  dsimp only
  refine Moved.memOk_ite trivial (Moved.memOk_ite trivial (Moved.memOk_ite trivial ?_))
  split
  · split
    · trivial
    · trivial
  · exact s.mapHart_memOk _ h

theorem wholeStore_memOk {pred : Bool} {v : BitVec 5} {a : Operand} (h : s.memOk = true) :
    (wholeStore pred v a s).memOk := by
  unfold wholeStore
  dsimp only
  refine Moved.memOk_ite h ?_
  split
  · trivial
  · split
    · exact h
    · exact State.writeBytes_memOk (s.countWrite_memOk _ _ _ _ h) ‹_›

theorem wholeLoad_memOk {pred : Bool} {vs : List Nat} {a : Operand} {asked : Bool} {answer : Option (Bool × List Byte)}
    (h : s.memOk = true) : (wholeLoad pred vs a asked answer s).memOk := by
  unfold wholeLoad
  dsimp only
  refine Moved.memOk_ite h ?_
  split
  · trivial
  · split
    · split
      · exact s.emit_memOk _ h
      · trivial
      · exact Moved.memOk_ite (s.updHart_memOk _ _ h) trivial
    · refine Moved.memOk_ite trivial ?_
      refine Moved.memOk_ite (State.countedRead_memOk h) ?_
      split
      · exact State.countedRead_memOk h
      · exact State.updHart_memOk _ _ _ (State.countedRead_memOk h)

theorem mmElement_memOk {op : MmOp} {e : QEntry} {i : Nat} (h : s.memOk = true) : (mmElement op e i s).memOk := by
  unfold mmElement
  dsimp only
  refine State.withHost_memOk (fun host => Moved.memOk_ite trivial ?_) h
  split
  · rename_i hg
    exact (gather_memOk h hg :)
  · rename_i hg
    exact (gather_memOk h hg :)
  · rename_i hg
    have hu := (gather_memOk h hg :)
    split
    · rename_i hg
      exact (gather_memOk hu hg :)
    · rename_i hg
      exact (gather_memOk hu hg :)
    · rename_i hg
      have hv := (gather_memOk hu hg :)
      split
      · rename_i hs
        exact (scatter_memOk hv hs :)
      · rename_i hs
        exact (scatter_memOk hv hs :)
      · rename_i hs
        exact State.mapHart_memOk _ _ (scatter_memOk hv hs :)

theorem mmStep_memOk {op : MmOp} {e : QEntry} (h : s.memOk = true) : (mmStep op e s).memOk := by
  unfold mmStep
  split
  · trivial
  · dsimp only
    split
    · exact h
    · exact mmElement_memOk (State.updHead_memOk h)

/-! ### The matrix shape, tiles and whole registers at once -/

theorem setShape_keeps (i : Instr) (b : BitVec 5) : Keeps (setShape i b) :=
  fun s h => memOk_ite (s.illegal_memOk h) (memOk_ite (s.illegal_memOk h)
    (State.joining_memOk (fun _ => State.retire_memOk (s.mapHart_memOk _ h)) h))

theorem State.viewInLanes_memOk {f : State → State} (hf : Keeps f) (h : s.memOk = true) :
    (s.viewInLanes f).memOk = true := by
  unfold State.viewInLanes
  split
  · exact State.inLanes_memOk hf h
  · exact hf _ h

theorem State.inView_memOk {i : Instr} {c : Class} {f : State → State} (hf : Keeps f) (h : s.memOk = true) :
    (s.inView i c f).memOk = true := State.joining_memOk (fun _ => hf _ (s.mapHart_memOk _ h)) h

theorem moveTile_keeps (i : Instr) (f : Hart → Hart) : Keeps (moveTile i f) :=
  fun _ h => State.viewInLanes_memOk (fun u hu => memOk_ite (u.illegal_memOk hu)
    (State.inView_memOk (fun t ht => State.retire_memOk (memOk_ite ht (t.updHart_memOk _ _ ht))) hu)) h

theorem State.moved_memOk {i : Instr} {cv : List Class} {sr : Bool} {m : Moved} (hm : m.memOk) (h : s.memOk = true) :
    (s.moved i cv sr m).memOk = true := by
  cases m with
  | done t => exact State.retire_memOk (t.mapHart_memOk _ hm)
  | more n t => exact hm
  | wait => exact State.waitFor_memOk h
  | ask t => exact State.waitFor_memOk hm
  | fault d i a => exact s.accessFault_memOk _ _ _ h
  | bad i a l t => exact t.lineFault_memOk _ _ _ hm
  | lost t => exact hm
  | stream q => exact s.takeTrap_memOk _ _ _ h
  | illegal => exact s.illegal_memOk h

theorem enterWhole_keeps (i : Instr) (c : Class) (x : BitVec 5) {f : Operand → State → Moved}
    (hf : ∀ a u, u.memOk = true → (f a u).memOk) : Keeps (enterWhole i c x f) := by
  intro s h
  refine memOk_ite (State.viewInLanes_memOk (fun u hu => State.joining_memOk (fun cv => ?_) hu) h)
    (State.inLanes_memOk (fun t ht => State.joining_memOk (fun cv => State.push_memOk ht) ht) h)
  exact State.moved_memOk (hf _ _ (u.mapHart_memOk _ hu)) (u.mapHart_memOk _ hu)

theorem State.setHart_memOk {x : Hart} (h : s.memOk = true) : ({ s with hart := x } : State).memOk = true := h

theorem State.went_memOk {r : Hart × Went} (h : s.memOk = true) : (s.went r).memOk := by
  unfold State.went
  split
  · exact State.setHart_memOk h
  · exact State.setHart_memOk h

theorem byGroup_memOk {e : QEntry} {f : QEntry → Hart → Lane} (h : s.memOk = true) : (byGroup e s f).memOk :=
  State.went_memOk h

theorem atOnce_memOk {e : QEntry} {f : QEntry → Hart → Hart × Went} (h : s.memOk = true) : (atOnce e s f).memOk :=
  Moved.memOk_ite trivial (State.went_memOk h)

theorem wholeLane_memOk {e : QEntry} {f : QEntry → Hart → Lane} (h : s.memOk = true) : (wholeLane e s f).memOk :=
  atOnce_memOk h

/-! ### The issue of micro-operations -/

theorem performHead_memOk {e : QEntry} (h : s.memOk = true) : (performHead e s).memOk := by
  unfold performHead
  split <;> simp only [byGroup_memOk h, atOnce_memOk h, wholeLane_memOk h, loadStep_memOk h, storeStep_memOk h,
    amoStep_memOk h, mmStep_memOk h, vqrdStep_memOk h, Moved.memOk_ite Moved.illegal_memOk (wholeLoad_memOk h),
    Moved.memOk_ite Moved.illegal_memOk (wholeStore_memOk h), Moved.illegal_memOk]

theorem State.popHead_memOk (h : s.memOk = true) : s.popHead.memOk = true := s.mapHart_memOk _ h

theorem State.started_memOk {e : QEntry} (h : s.memOk = true) : (s.started e).memOk = true :=
  State.mapHart_memOk _ _ (State.updHead_memOk h)

theorem issueHead_memOk {t : State} (h : s.memOk = true) (e : issueHead s = some t) : t.memOk = true := by
  unfold issueHead at e
  split at e
  · cases e
  · rename_i e0 _ _
    split at e
    · cases e; exact State.popHead_memOk h
    · split at e
      · cases e
      · have ht := State.started_memOk (e := e0.withMask s.hart) h
        have hm := performHead_memOk (e := e0.withMask s.hart) ht
        dsimp only at e
        generalize performHead _ _ = m at e hm
        cases m with
        | wait => cases e
        | done u => cases e; exact State.popHead_memOk hm
        | more n u => cases e; exact State.updHead_memOk (u.mapHart_memOk _ hm)
        | ask u =>
          dsimp only at e
          split at e
          · cases e
          · cases e; exact State.updHead_memOk hm
        | fault d i a => cases e; exact State.accessFault_memOk _ _ _ _ (State.updHead_memOk ht)
        | bad i a l u => cases e; exact State.lineFault_memOk _ _ _ _ (State.updHead_memOk hm)
        | lost u => cases e; exact hm
        | stream q => cases e; exact State.takeTrap_memOk _ _ _ _ ht
        | illegal => cases e; exact State.takeTrap_memOk _ _ _ _ ht

theorem unitOf_memOk {i : Nat} {e : QEntry} (h : s.memOk = true) : (unitOf i e s).memOk := by
  unfold unitOf
  split <;> simp only [loadUnit_memOk h, storeUnit_memOk h, amoUnit_memOk h, Moved.wait_memOk]

theorem issueHeadUnit_memOk {i : Nat} {t : State} (h : s.memOk = true) (e : issueHeadUnit i s = some t) :
    t.memOk = true := by
  unfold issueHeadUnit at e
  split at e
  · cases e
  · rename_i e0 _ _
    split at e
    · cases e
    · have hm := unitOf_memOk (i := i) (e := e0.withMask s.hart) (State.started_memOk (e := e0.withMask s.hart) h)
      dsimp only at e
      generalize unitOf _ _ _ = m at e hm
      cases m with
      | more n u => cases e; exact State.updHead_memOk hm
      | _ => cases e

theorem issueYounger_memOk {n : Nat} {t : State} (h : s.memOk = true) (e : issueYounger n s = some t) :
    t.memOk = true := by
  unfold issueYounger at e
  split at e
  · cases e
  · dsimp only at e
    split at e
    · cases e
    · rename_i e0 _ _
      have hm := performHead_memOk (e := e0.withMask s.hart)
        (State.started_memOk (e := e0.withMask s.hart) (s.mapHart_memOk (fun h => h.bringForward n) h))
      generalize performHead _ _ = m at e hm
      cases m with
      | done u => cases e; exact u.mapHart_memOk _ hm
      | more k u => cases e; exact u.mapHart_memOk _ hm
      | _ => cases e

theorem State.issueOf_memOk {ser : BitVec 16} {n : Nat} {t : State} (h : s.memOk = true)
    (e : s.issueOf ser n = some t) : t.memOk = true := by
  obtain ⟨u, hu, rfl⟩ := Option.map_eq_some_iff.1 e
  have hf := s.focus_memOk ser h
  unfold issueEntry at hu
  refine u.focus_memOk _ ?_
  split at hu
  · exact issueHead_memOk hf hu
  · exact issueYounger_memOk hf hu

theorem State.issueUnit_memOk {core : BitVec 8} {u : Nat} (h : s.memOk = true) : (s.issueUnit core u).memOk = true := by
  unfold State.issueUnit
  split
  · exact h
  · refine memOk_ite h (getD_memOk (fun t ht => ?_) h)
    obtain ⟨v, hv, rfl⟩ := Option.map_eq_some_iff.1 ht
    exact v.focus_memOk _ (issueHeadUnit_memOk (s.focus_memOk _ h) hv)

/-! ### Errors, retirement and losses -/

theorem State.quarantineAll_memOk {p : Hart → Bool} {c : Nat} {d : Word} (h : s.memOk = true) :
    (s.quarantineAll p c d).memOk = true :=
  memOk_foldl _ (fun t _ ht => t.asHart_memOk _ _ (fun u hu => u.quarantine_memOk _ _ hu) ht) _ _ h

theorem State.dropDirty_memOk {d : DirtyLine} (h : s.memOk = true) :
    (s.dropDirty d).memOk = true := Bytes.write_wf _ _ h

theorem State.dropFar_memOk (h : s.memOk = true) : s.dropFar.memOk = true := memOk_of_mem rfl h

theorem State.setLink_memOk {l : Link} (h : s.memOk = true) : ({ s with link := l } : State).memOk = true := h

theorem State.portDown_memOk (h : s.memOk = true) : s.portDown.memOk = true := by
  unfold State.portDown
  extract_lets link u far t gone t₁ sent hit t₂ t₃
  have hl : u.memOk = true := State.setLink_memOk h
  have ht : t.memOk = true := memOk_foldl _ (fun u g hu => State.failStart_memOk hu) _ _ hl
  have ht₁ : t₁.memOk = true := memOk_foldl _ (fun u g hu => u.updGang_memOk _ _ hu) _ _ ht
  have ht₂ : t₂.memOk = true := State.dropFar_memOk (State.quarantineAll_memOk (State.setPackets_memOk ht₁))
  have ht₃ : t₃.memOk = true := memOk_foldl _ (fun u g hu => u.finishGang_memOk g hu) _ _ ht₂
  exact t₃.report_memOk _ _ _ _ _ ht₃

theorem State.withdraw_memOk {i : Nat} (h : s.memOk = true) : (s.withdraw i).memOk = true := by
  have hd (l : List DirtyLine) := memOk_foldl State.dropDirty (fun _ _ ht => State.dropDirty_memOk ht) l s h
  unfold State.withdraw
  dsimp only
  exact memOk_ite h (State.report_memOk _ _ _ _ _ _ (State.setExtent_memOk _ _ _ (State.quarantineAll_memOk (hd _))))

theorem State.setHarts_memOk {x : Hart} {l : List Hart} (h : s.memOk = true) :
    ({ s with hart := x, others := l } : State).memOk = true := h

theorem State.retireGroup_memOk {u : Nat} (h : s.memOk = true) : (s.retireGroup u).memOk = true :=
  State.setHarts_memOk h

theorem State.retireDie_memOk {d : Nat} (h : s.memOk = true) : (s.retireDie d).memOk = true :=
  State.quarantineAll_memOk (State.setGangs_memOk (memOk_foldl _ (fun _ _ ht => State.dropDirty_memOk ht) _ _ h))

theorem State.setRetired_memOk {l : List (BitVec 8 × BitVec 16)} {ts : List (BitVec 8 × BitVec 16 × Nat)}
    (h : s.memOk = true) : ({ s with retired := l, tests := ts } : State).memOk = true := h

theorem State.retireUnit_memOk {c : BitVec 8} {u : BitVec 16} (h : s.memOk = true) :
    (s.retireUnit c u).memOk = true := by
  unfold State.retireUnit
  refine memOk_ite h ?_
  extract_lets rest t
  have ht : t.memOk = true := State.report_memOk _ _ _ _ _ _ (State.setRetired_memOk h)
  split
  · exact State.retireGroup_memOk ht
  · exact memOk_ite (State.portDown_memOk ht) ht
  · exact State.retireDie_memOk ht
  · exact memOk_foldl _ (fun v e hv => State.withdraw_memOk hv) _ _ ht
  · exact ht

theorem State.setRecent_memOk {l : List (BitVec 8 × BitVec 16 × List Nat)} (h : s.memOk = true) :
    ({ s with recent := l } : State).memOk = true := h

theorem State.setCorrected_memOk {l : List Held} (h : s.memOk = true) :
    ({ s with corrected := l } : State).memOk = true := h

theorem State.correct_memOk {c : BitVec 8} {u : BitVec 16} {line : Word} (h : s.memOk = true) :
    (s.correct c u line).memOk = true := by
  unfold State.correct
  extract_lets mine l others t t₁
  have ht : t.memOk = true := State.setRecent_memOk h
  have ht₁ : t₁.memOk = true :=
    memOk_ite (State.setCorrected_memOk ht) (State.report_memOk _ _ _ _ _ _ (State.setCorrected_memOk ht))
  exact memOk_ite (State.retireUnit_memOk ht₁) ht₁

theorem State.loseLine_memOk {line : Nat} (h : s.memOk = true) : (s.loseLine line).memOk = true := memOk_ite h h

theorem State.registersLost_memOk (h : s.memOk = true) : s.registersLost.memOk = true :=
  State.quarantine_memOk _ _ _ (s.report_memOk _ _ _ _ _ h)

theorem State.regionLost_memOk {core : BitVec 8} {i : Nat} (h : s.memOk = true) : (s.regionLost core i).memOk = true :=
  Bytes.clear_wf _ _ (State.quarantineAll_memOk (s.report_memOk _ _ _ _ _ h))

theorem State.taskLost_memOk {gid : BitVec 32} {w n : Nat} (h : s.memOk = true) :
    (s.taskLost gid w n).memOk = true := by
  unfold State.taskLost
  split
  · exact h
  · exact memOk_ite (State.report_memOk _ _ _ _ _ _ (s.updGang_memOk _ _ h)) h

theorem State.dirtyLost_memOk {cache : Option (BitVec 8)} {line : Nat} {k : BitVec 10} (h : s.memOk = true) :
    (s.dirtyLost cache line k).memOk = true := by
  unfold State.dirtyLost
  split
  · exact h
  · have ht (c k u v : Nat) (w : Word) (d : DirtyLine) :=
      State.report_memOk (s.dropDirty d) c k u v w (State.dropDirty_memOk h)
    exact memOk_ite (ht ..) (State.updWorld_memOk _ _ _ (State.quarantineAll_memOk (ht ..)))

/-! ### The fabric link -/

theorem State.onLink_memOk {f : State → State} (hf : Keeps f) (h : s.memOk = true) : (s.onLink f).memOk = true :=
  memOk_ite (hf _ h) h

theorem deliverFlit_keeps (d : BitVec 512) : Keeps (deliverFlit d) :=
  fun _ h => State.emit_memOk _ _ (State.setLink_memOk h)

theorem State.flitError_memOk {l : List (BitVec 72)} (h : s.memOk = true) : (s.flitError l).memOk = true := by
  unfold State.flitError
  split
  · exact State.correct_memOk h
  · exact h

theorem dropFlit_keeps : Keeps dropFlit := fun _ h => memOk_ite h (State.emit_memOk _ _ (State.setLink_memOk h))

theorem State.setRoom_memOk {n : Nat} (h : s.memOk = true) : (s.setRoom n).memOk = true :=
  State.onLink_memOk (fun _ ht => State.emit_memOk _ _ (State.setLink_memOk ht)) h

theorem State.sendAgain_memOk {l : List (BitVec 10 × BitVec 512)} (h : s.memOk = true) : (s.sendAgain l).memOk = true :=
  memOk_ite h (s.emit_memOk _ h)

theorem State.replayFlits_memOk {l : List (BitVec 10 × BitVec 512)} (h : s.memOk = true) :
    (s.replayFlits l).memOk = true := by
  cases l with
  | nil => exact h
  | cons p l => exact memOk_ite (State.setLink_memOk h) (State.sendAgain_memOk (State.setLink_memOk h))

theorem State.loseLock_memOk (h : s.memOk = true) : s.loseLock.memOk = true :=
  State.onLink_memOk (fun _ ht => State.setLink_memOk ht) h

theorem State.sendOut_memOk {l : Link} {o : List Outbound} (h : s.memOk = true) :
    ({ s with link := l, outbox := o } : State).memOk = true := h

theorem State.pump_memOk (h : s.memOk = true) : s.pump.memOk = true := State.sendOut_memOk h

/-! ### The host's registers and the clock -/

theorem State.hostRegisterRead_memOk {m : Bool} {off n : Nat} (h : s.memOk = true) :
    (s.hostRegisterRead m off n).memOk = true := memOk_ite h (s.emit_memOk _ h)

theorem State.setHostSpace_memOk {m p : Bytes} (h : s.memOk = true) :
    ({ s with mailbox := m, pcie := p } : State).memOk = true := h

theorem State.hostRegisterWrite_memOk {m : Bool} {off : Nat} {bs : List Byte} (h : s.memOk = true) :
    (s.hostRegisterWrite m off bs).memOk = true :=
  memOk_ite h (memOk_ite (State.setHostSpace_memOk h) (State.setHostSpace_memOk h))

theorem State.setClock_memOk {c : BitVec 16} (h : s.memOk = true) : (s.setClock c).memOk = true :=
  memOk_ite (memOk_of_mem rfl h) (memOk_of_mem rfl h)

/-! ### What other devices do -/

theorem State.setHeld_memOk {l : List HeldWrite} (h : s.memOk = true) : ({ s with held := l } : State).memOk = true := h

theorem State.peerWrite_memOk {w : MemWrite} {q : Option AmoReq} (h : s.memOk = true) :
    (s.peerWrite w q).memOk = true := by
  have hw (o : Option Nat) (x : Nat → HeldWrite) : (match o with
      | some e => { s with held := s.held ++ [x e] }
      | none => s.applyOne (x 64)).memOk = true := by
    cases o with
    | none => exact s.applyOne_memOk _ h
    | some e => exact State.setHeld_memOk h
  unfold State.peerWrite
  dsimp only
  split
  · exact hw _ _
  · exact hw _ _
  · exact h

theorem State.peerRead_memOk {a : Nat} (h : s.memOk = true) : (s.peerRead a).memOk = true := by
  unfold State.peerRead
  split
  · exact s.countLine_memOk _ h
  · exact h

theorem State.asMember_memOk {gid : BitVec 32} {rank : Nat} {f : Gang → Member → State → State} {always : Bool}
    (hf : ∀ g m, Keeps (f g m)) (h : s.memOk = true) : (s.asMember gid rank f always).memOk = true := by
  unfold State.asMember
  split
  · exact h
  · refine memOk_ite h ?_
    split
    · exact h
    · exact hf _ _ _ h

theorem peerArrive_keeps (b : BitVec 4) (g : Gang) (m : Member) : Keeps (peerArrive b g m) :=
  fun s h => memOk_ite h (s.updGang_memOk _ _ h)

theorem peerJoin_keeps (j : Join) (g : Gang) (m : Member) : Keeps (peerJoin j g m) :=
  fun s h => memOk_ite h (s.updGang_memOk _ _ h)

theorem peerExit_keeps (bad : Bool) (g : Gang) (m : Member) : Keeps (peerExit bad g m) :=
  fun s h => State.finishGang_memOk _ _ (s.updGang_memOk _ _ h)

theorem State.peerLaunch_memOk {g : Gang} (h : s.memOk = true) : (s.peerLaunch g).memOk = true :=
  memOk_ite (State.setGangs_memOk h) h

theorem State.beginSlice_memOk {gid : BitVec 32} (h : s.memOk = true) : (s.beginSlice gid).memOk = true :=
  memOk_ite (s.updGang_memOk _ _ h) h

theorem State.peerMark_memOk {gid : BitVec 32} {v : Word} (h : s.memOk = true) : (s.peerMark gid v).memOk = true :=
  memOk_ite (State.publish_memOk h) h

theorem State.onList_memOk {gid : BitVec 32} {w : Nat} {p : Gang → Worklist → Bool} {f : Worklist → Worklist}
    (h : s.memOk = true) : (s.onList gid w p f).memOk = true := by
  unfold State.onList
  split
  · exact memOk_ite (State.updList_memOk h) h
  · exact h

theorem State.peerOpen_memOk {gid : BitVec 32} {l : Worklist} (h : s.memOk = true) : (s.peerOpen gid l).memOk = true :=
  State.onList_memOk h

theorem State.peerPush_memOk {gid : BitVec 32} {w : Nat} {dev : BitVec 8} {task : Word} {level : Nat}
    (h : s.memOk = true) :
    (s.peerPush gid w dev task level).memOk = true := by
  unfold State.peerPush
  extract_lets t
  have ht : t.memOk = true := State.onList_memOk h
  split
  · exact ht
  · exact memOk_foldl _ (fun u k hu => State.spillFar_memOk hu) _ _ ht

theorem State.peerDrop_memOk {gid : BitVec 32} {w : Nat} {dev : BitVec 8} {n : Nat} (h : s.memOk = true) :
    (s.peerDrop gid w dev n).memOk = true := State.onList_memOk h

theorem State.setFarLists_memOk {l : List (BitVec 8 × Nat)} (h : s.memOk = true) :
    ({ s with farLists := l } : State).memOk = true := h

theorem State.peerLists_memOk {dev : BitVec 8} {n : Nat} (h : s.memOk = true) : (s.peerLists dev n).memOk = true :=
  memOk_ite h (State.setFarLists_memOk h)

theorem peerPop_keeps (w n : Nat) (g : Gang) (m : Member) : Keeps (peerPop w n g m) := by
  intro s h
  unfold peerPop
  split
  · exact h
  · split
    · exact h
    · exact memOk_ite (State.updList_memOk h) h

theorem peerRetire_keeps (w serial : Nat) (g : Gang) (m : Member) : Keeps (peerRetire w serial g m) :=
  fun _ h => State.onList_memOk h

theorem State.peerWaits_memOk {gid : BitVec 32} {w : Nat} {dev : BitVec 8} {on : Bool} (h : s.memOk = true) :
    (s.peerWaits gid w dev on).memOk = true := State.onList_memOk h

theorem State.peer_memOk (p : PeerAct) (h : s.memOk = true) : (s.peer p).memOk = true := by
  cases p with
  | write w => exact State.peerWrite_memOk h
  | atomic w q => exact State.peerWrite_memOk h
  | read a => exact State.peerRead_memOk h
  | mark gid v => exact State.peerMark_memOk h
  | arrive gid rank b => exact State.asMember_memOk (peerArrive_keeps b) h
  | join gid j => exact State.asMember_memOk (peerJoin_keeps j) h
  | push gid w dev task level => exact State.peerPush_memOk h
  | pop gid w rank n => exact State.asMember_memOk (peerPop_keeps _ n) h
  | retire gid w rank serial => exact State.asMember_memOk (peerRetire_keeps _ serial) h
  | popWaits gid w dev on => exact State.peerWaits_memOk h
  | exit gid rank bad => exact State.asMember_memOk (peerExit_keeps bad) h
  | sliceAgreed gid => exact State.beginSlice_memOk h
  | launch g => exact State.peerLaunch_memOk h
  | openList gid l => exact State.peerOpen_memOk h
  | dropRecord gid w dev n => exact State.peerDrop_memOk h
  | holdsLists dev n => exact State.peerLists_memOk h
  | grant a b => exact State.addGrant_memOk h
  | revoke a b => exact State.dropGrant_memOk h
  | newVersion a ver pending => exact State.farVersion_memOk h
  | closeWorld a => exact State.farClose_memOk h

/-! ### What goes on inside the device -/

theorem State.setSlotCache_memOk {l : List CachedSlot} (h : s.memOk = true) :
    ({ s with slotCache := l } : State).memOk = true := h

theorem State.fillSlot_memOk {core : BitVec 8} {addr : Nat} {past : Option Nat} (h : s.memOk = true) :
    (s.fillSlot core addr past).memOk = true := by
  unfold State.fillSlot
  dsimp only
  split
  · exact h
  · exact State.setSlotCache_memOk h

theorem State.noteSlot_memOk {addr : Nat} (h : s.memOk = true) : (s.noteSlot addr).memOk = true := by
  unfold State.noteSlot
  dsimp only
  split
  · exact h
  · exact memOk_of_mem rfl h

theorem State.setIcache_memOk {l : List CachedLine} (h : s.memOk = true) :
    ({ s with icache := l } : State).memOk = true := h

theorem State.fillCode_memOk {a : Nat} (h : s.memOk = true) : (s.fillCode a).memOk = true := by
  unfold State.fillCode
  dsimp only
  split
  · exact h
  · split
    · exact h
    · exact h
    · have hc := s.claimAll_memOk s.ctx.world (s.key s.hart.core (a / 64 * 64)) 64 h
      split
      · exact hc
      · exact State.setIcache_memOk hc

theorem State.dropCodeLine_memOk {core : BitVec 8} {line : Nat} (h : s.memOk = true) :
    (s.dropCodeLine core line).memOk = true := State.setIcache_memOk h

theorem State.dropCode_memOk {a l : Nat} (h : s.memOk = true) : (s.dropCode a l).memOk = true := State.setIcache_memOk h

theorem State.setSlow_memOk {n : BitVec 16} {on : Bool} (h : s.memOk = true) : (s.setSlow n on).memOk = true :=
  memOk_of_mem rfl h

theorem State.setStores_memOk {l : List PendingStore} (h : s.memOk = true) :
    ({ s with stores := l } : State).memOk = true := h

theorem State.performOldest_memOk {n : BitVec 16} {window : Bool} (h : s.memOk = true) :
    (s.performOldest n window).memOk = true := by
  unfold State.performOldest
  dsimp only
  split
  · exact h
  · exact State.performStore_memOk _ _ (State.setStores_memOk h)

theorem State.whileRunning_memOk {n : BitVec 16} {f : State → State} (hf : Keeps f) (h : s.memOk = true) :
    (s.whileRunning n f).memOk = true := by
  unfold State.whileRunning
  split
  · exact memOk_ite (s.asHart_memOk _ _ hf h) h
  · exact h

theorem State.shardError_memOk {n shard : Nat} (h : s.memOk = true) : (s.shardError n shard).memOk = true :=
  State.setSeals_memOk h

theorem State.inner_memOk (e : Inner) (h : s.memOk = true) : (s.inner e).memOk = true := by
  cases e with
  | fillSlot core addr past => exact State.fillSlot_memOk h
  | noteSlot addr => exact State.noteSlot_memOk h
  | dropSlot core addr => exact State.setSlotCache_memOk h
  | fillCode ser a => exact State.whileRunning_memOk (fun _ ht => State.fillCode_memOk ht) h
  | dropCode core line => exact State.dropCodeLine_memOk h
  | slow ser on => exact State.setSlow_memOk h
  | performStore ser window => exact State.performOldest_memOk h
  | captureElement ser i => exact State.whileRunning_memOk (fun _ ht => State.captureOne_memOk ht) h
  | issueUnit core u => exact State.issueUnit_memOk h
  | packetWrite n j => exact State.packetWrite_memOk h
  | peer p => exact State.peer_memOk p h
  | lockLost => exact State.loseLock_memOk h
  | receiverRoom n => exact State.setRoom_memOk h
  | hostRegisterRead mailbox off n => exact State.hostRegisterRead_memOk h
  | hostRegisterWrite mailbox off data => exact State.hostRegisterWrite_memOk h
  | certificateRead => exact s.emit_memOk _ h
  | shardReadError n shard => exact State.shardError_memOk h
  | advanceCut counter k => exact State.cutAdvance_memOk h

/-! ### Time, slices and events -/

theorem State.goto_memOk {t : Word} (h : s.memOk = true) : (s.goto t).memOk = true := s.mapHart_memOk _ h

theorem State.pushCsa_memOk {v : Word} (h : s.memOk = true) : (s.pushCsa v).memOk = true :=
  memOk_ite (memOk_of_mem rfl h) h

theorem State.raiseMsix_memOk {v : Word} (h : s.memOk = true) : (s.raiseMsix v).memOk = true :=
  memOk_ite (s.emit_memOk _ h) h

theorem State.setEvents_memOk {l : List Event} {b : Bool} (h : s.memOk = true) :
    ({ s with events := l, eventLost := b } : State).memOk = true := h

theorem State.takeEvent_memOk (h : s.memOk = true) : s.takeEvent.memOk = true := by
  have ht := s.settle_memOk h
  unfold State.takeEvent
  refine memOk_ite ht ?_
  split
  · exact ht
  · exact State.enterTrap_memOk _ _ _ _ (State.mapHart_memOk _ _ (State.setEvents_memOk ht))

theorem State.stopHart_memOk {n : BitVec 16} (h : s.memOk = true) : (s.stopHart n).memOk = true := by
  unfold State.stopHart
  split
  · exact h
  · exact memOk_ite (s.asHart_memOk _ _ (fun t ht => t.switchOff_memOk _ ht) h) h

theorem State.stopOrAsk_memOk {n : BitVec 16} (h : s.memOk = true) : (s.stopOrAsk n).memOk = true :=
  State.stopHart_memOk (s.updHart_memOk _ _ h)

theorem State.newRound_memOk {core : BitVec 8} (h : s.memOk = true) : (s.newRound core).memOk = true :=
  memOk_ite h (memOk_foldl _ (fun t _ ht => t.updHart_memOk _ _ ht) _ _ h)

theorem State.setSlice_memOk {o : Option (BitVec 32)} (h : s.memOk = true) :
    ({ s with slice := o } : State).memOk = true := h

theorem State.endSlice_memOk (h : s.memOk = true) : s.endSlice.memOk = true := by
  unfold State.endSlice
  split
  · exact h
  · exact memOk_foldl _ (fun _ _ ht => State.stopOrAsk_memOk ht) _ _
      (State.updGang_memOk _ _ _ (State.setSlice_memOk h))

theorem State.startSlice_memOk {gid : BitVec 32} (h : s.memOk = true) : (s.startSlice gid).memOk = true := by
  have ht (l : List (BitVec 16)) := memOk_foldl State.stopOrAsk (fun _ _ ht => State.stopOrAsk_memOk ht) l _
    (State.setSlice_memOk (o := some gid) h)
  unfold State.startSlice
  exact memOk_ite (State.updGang_memOk _ _ _ (ht _)) (ht _)

/-! ### The fetch -/

/-- The state that a fetch ends in has the form. -/
def Fetched.memOk : Fetched → Prop
  | .instr _ t | .trapped t => t.memOk = true

theorem State.rejected_memOk {e : Reject} (h : s.memOk = true) : (s.rejected e).memOk = true := by
  unfold State.rejected
  split
  · exact s.ifWorld0_memOk _ (s.illegal_memOk h) h
  · exact s.illegal_memOk h

theorem State.readTrap_memOk {typed : Bool} (h : s.memOk = true) : ∀ t, s.readTrap typed = some t → t.memOk = true := by
  intro t e
  unfold State.readTrap at e
  split at e
  · cases e; exact s.takeTrap_memOk _ _ _ h
  · have hu := memOk_of_mem (State.bringLanes_mem ‹_›) h
    split at e
    · cases e; exact State.takeTrap_memOk _ _ _ _ hu
    · split at e
      · cases e; exact State.illegal_memOk _ hu
      · cases e

/-- A trap taken unless a condition holds. -/
theorem memOk_unless {b : Bool} {u : State} (hu : u.memOk = true) :
    ∀ t, (if b then none else some u) = some t → t.memOk = true := by
  intro t e
  split at e
  · cases e
  · cases e; exact hu

theorem State.earlierTrap_memOk {i : Instr} (h : s.memOk = true) :
    ∀ t, s.earlierTrap i = some t → t.memOk = true := by
  have hp (d : Word) := s.privileged_memOk d h
  have hi := s.illegal_memOk h
  cases i with
  | bcnt a o | wlpop a b | qbind q a b => exact memOk_unless hi
  | rpatchWrite d a | rpatchMove d a =>
    intro t e
    unfold State.earlierTrap at e
    dsimp only at e
    split at e
    · cases e; exact hp _
    · exact memOk_unless hi _ e
  | chdemote | slotsync | eret | wbindOpen | wbindNewver | wbindPlace | wbindSeal | wbindInstall | wbindErase
  | wbindClose | mfcr | mtcr => exact memOk_unless (hp _)
  | vmvxs d a => exact State.readTrap_memOk h
  | kpop d a | kfirst d a => exact State.readTrap_memOk h
  | _ =>
    intro t e
    cases e

theorem State.nonFollower_memOk {i : Instr} (h : s.memOk = true) : (s.nonFollower i).memOk = true := by
  unfold State.nonFollower
  split
  · exact State.earlierTrap_memOk h _ ‹_›
  · exact State.badStirrup_memOk h

theorem decodeFetched_memOk (h : s.memOk = true) : (decodeFetched s).memOk := by
  unfold decodeFetched
  split
  · exact State.rejected_memOk h
  · split
    · exact State.nonFollower_memOk h
    · exact h

theorem State.codeReady_memOk {r : SlotRef} (h : s.memOk = true) : (s.codeReady r).memOk = true := by
  have hc := s.claimAll_memOk s.ctx.world (s.key s.hart.core s.hart.pc.toNat) 4 h
  exact memOk_ite hc (State.countedRead_memOk hc)

theorem State.codeFault_memOk {line : Nat} (h : s.memOk = true) : (s.codeFault line).memOk = true := by
  have ht := s.lineReport_memOk line h
  exact memOk_ite (State.takeTrap_memOk _ _ _ _ ht) (State.quarantine_memOk _ _ _ ht)

theorem State.askCode_memOk {bus : Nat} (h : s.memOk = true) : (s.askCode bus).memOk = true :=
  memOk_ite (State.waitFor_memOk h) (State.waitFor_memOk (s.emit_memOk _ h))

theorem fetchThrough_memOk {r : SlotRef} (h : s.memOk = true) : (fetchThrough r s).memOk := by
  have hu := State.codeReady_memOk (r := r) h
  unfold fetchThrough
  dsimp only
  split
  · exact State.askCode_memOk h
  · split
    · exact State.waitFor_memOk h
    · split
      · exact hu
      · split
        · exact State.codeFault_memOk hu
        · exact decodeFetched_memOk (State.mapHart_memOk _ _ hu)

theorem State.meetBadLine_memOk {line : Nat} (h : s.memOk = true) : (s.meetBadLine line).memOk = true :=
  memOk_ite (State.waitFor_memOk h) (State.faultAt_memOk _ _ _ _ (s.mapHart_memOk _ h))

theorem fetch_memOk (h : s.memOk = true) : (fetch s).memOk := by
  unfold fetch
  dsimp only
  split
  · exact State.meetBadLine_memOk h
  · split
    · exact decodeFetched_memOk h
    · split
      · exact s.takeTrap_memOk _ _ _ h
      · split
        · exact memOk_ite (s.takeTrap_memOk _ _ _ h) (State.codeFault_memOk h)
        · exact fetchThrough_memOk h

theorem resumed_memOk (h : s.memOk = true) : (resumed s).memOk := by
  have ht (f : Hart → Hart) := s.mapHart_memOk f h
  have hu (f g : Hart → Hart) := State.mapHart_memOk _ g (ht f)
  unfold resumed
  dsimp only
  split
  · split
    · split
      · exact decodeFetched_memOk (State.mapHart_memOk _ _ (hu _ _))
      · exact State.takeTrap_memOk _ _ _ _ (hu _ _)
    · exact State.takeTrap_memOk _ _ _ _ (hu _ _)
  · exact decodeFetched_memOk (ht _)

/-- Where an instruction or an occurrence has a next state, memory has its form in it. -/
def nextOk : Out → Prop
  | .next t => t.memOk = true
  | .fault _ | .refused _ => True

/-! ### Shared forms of the scalar side -/

theorem alu_nextOk {d : BitVec 5} {v : Word} (h : s.memOk = true) : nextOk (alu d v s) := State.writeBack_memOk h

theorem branch_nextOk {b : Bool} {o : BitVec 16} (h : s.memOk = true) : nextOk (branch b o s) := State.goto_memOk h

theorem compact_nextOk {d : BitVec 5} {f : Operand → Operand} (h : s.memOk = true) : nextOk (compact d f s) := by
  unfold compact
  split
  · exact s.illegal_memOk h
  · exact memOk_ite (State.writeBack_memOk h) (State.mapHart_memOk _ _ (State.setX_memOk h))

theorem scalarFloat_keeps (d : BitVec 5) (f : RMode → Word → Nat × Flags) : Keeps (scalarFloat d f) :=
  fun s h => State.writeBack_memOk (s.mapHart_memOk _ h)

theorem execBcnt_nextOk {a : BitVec 5} {o : BitVec 16} (h : s.memOk = true) : nextOk (execBcnt a o s) := by
  unfold execBcnt
  split
  · exact s.illegal_memOk h
  · exact memOk_ite (State.writeBack_memOk h) (State.mapHart_memOk _ _ (State.writeBack_memOk h))

theorem execJalr_nextOk {d a : BitVec 5} {i : BitVec 16} (h : s.memOk = true) : nextOk (execJalr d a i s) := by
  unfold execJalr
  dsimp only
  split
  · exact s.takeTrap_memOk _ _ _ h
  · exact State.mapHart_memOk _ _ (State.writeBack_memOk h)

theorem execLslot_nextOk {d a : BitVec 5} {n : BitVec 6} (h : s.memOk = true) : nextOk (execLslot d a n s) := by
  unfold execLslot
  dsimp only
  split
  · exact s.accessFault_memOk _ _ _ h
  · split
    · exact s.accessFault_memOk _ _ _ h
    · exact State.writeBack_memOk h

theorem execPchk_nextOk {d a : BitVec 5} {n : BitVec 4} (h : s.memOk = true) : nextOk (execPchk d a n s) :=
  memOk_ite (State.writeBack_memOk h) (s.accessFault_memOk _ _ _ h)

theorem execEcall_nextOk {d a : BitVec 5} {n : BitVec 6} (h : s.memOk = true) : nextOk (execEcall d a n s) :=
  memOk_ite (State.waitFor_memOk h) (State.takeTrap_memOk _ _ _ _ (State.retire_memOk h))

theorem execEbreak_nextOk {n : BitVec 6} (h : s.memOk = true) : nextOk (execEbreak n s) :=
  memOk_ite (State.waitFor_memOk h) (State.takeTrap_memOk _ _ _ _ (State.retire_memOk h))

theorem execEret_nextOk (h : s.memOk = true) : nextOk (execEret s) := by
  have ht := s.settle_memOk h
  refine memOk_ite (s.privileged_memOk _ h) (memOk_ite (s.illegal_memOk h) (memOk_ite (State.waitFor_memOk h) ?_))
  exact memOk_ite ht (State.stopIfAsked_memOk (State.returnFromTrap_memOk _ ht))

theorem execWfe_nextOk {d a : BitVec 5} (h : s.memOk = true) : nextOk (execWfe d a s) :=
  memOk_ite (State.writeBack_memOk (s.mapHart_memOk _ h)) (State.waitFor_memOk h)

theorem execCsync_nextOk {d a : BitVec 5} (h : s.memOk = true) : nextOk (execCsync d a s) :=
  memOk_ite (State.retire_memOk (State.dropCode_memOk h)) (State.waitFor_memOk h)

/-! ### Control events of the host and of world 0 -/

theorem execExtentDecline_nextOk {p : BitVec 3} {e : BitVec 6} (h : s.memOk = true) :
    nextOk (execExtentDecline p e s) :=
  memOk_ite (s.writeExtentState_memOk _ _ h) h

theorem execExtentFree_nextOk {p : BitVec 3} {e : BitVec 6} (h : s.memOk = true) : nextOk (execExtentFree p e s) :=
  memOk_ite (s.writeExtentState_memOk _ _ h) h

/-! ### Instructions that wait, and what ends their waits -/

theorem execFenceDrained_nextOk {n : BitVec 16} (h : s.memOk = true) : nextOk (execFenceDrained n s) :=
  State.resume_memOk (fun w g hg => by
    cases w with
    | fence => cases hg; exact fun t ht => fence_keeps _ t ht
    | _ => cases hg) h

theorem execSlotsyncComplete_nextOk {n : BitVec 16} (h : s.memOk = true) : nextOk (execSlotsyncComplete n s) :=
  State.resume_memOk (fun w g hg => by
    cases w with
    | slotsync => cases hg; exact slotsync_keeps
    | _ => cases hg) h

theorem execWfeTimeout_nextOk {n : BitVec 16} (h : s.memOk = true) : nextOk (execWfeTimeout n s) :=
  State.resume_memOk (fun w g hg => by
    cases w with
    | wfe d a => cases hg; exact fun t ht => memOk_ite (State.waitFor_memOk ht) (State.writeBack_memOk ht)
    | _ => cases hg) h

theorem execSvlWPass_nextOk {n : BitVec 16} (h : s.memOk = true) : nextOk (execSvlWPass n s) :=
  State.resume_memOk (fun w g hg => by
    cases w with
    | svlW d a => cases hg; exact withShare_keeps (setStripWait_keeps d a)
    | _ => cases hg) h

theorem execQbind_nextOk {q : BitVec 3} {a b : BitVec 5} (h : s.memOk = true) : nextOk (execQbind q a b s) :=
  memOk_ite (State.waitFor_memOk h) (bindStream_keeps q a b s h)

theorem execStreamFetch_nextOk {n : BitVec 16} {q : BitVec 3} (h : s.memOk = true) : nextOk (execStreamFetch n q s) :=
  State.whileRunning_memOk (fetchElement_keeps q) h

theorem execQrd_nextOk {q : BitVec 3} {a : BitVec 5} (h : s.memOk = true) : nextOk (execQrd q a s) :=
  memOk_ite (State.waitFor_memOk h) (readStream'_keeps q a s h)

theorem execQrdReturn_nextOk {n : BitVec 16} (h : s.memOk = true) : nextOk (execQrdReturn n s) :=
  State.resume_memOk (fun w g hg => by
    cases w with
    | qrd q a => cases hg; exact readStream'_keeps q a
    | _ => cases hg) h

theorem execSbar_nextOk {a : BitVec 5} (h : s.memOk = true) : nextOk (execSbar a s) :=
  memOk_ite (State.retire_memOk h) (State.waitFor_memOk h)

theorem execKwaitReturn_nextOk {n : BitVec 16} (h : s.memOk = true) : nextOk (execKwaitReturn n s) :=
  State.resume_memOk (fun w g hg => by
    cases w with
    | kwait a b k => cases hg; exact fun t ht => State.afterPred_memOk (awaitBits_keeps a b k) ht
    | _ => cases hg) h

theorem execWmarkPublish_nextOk {n : BitVec 16} (h : s.memOk = true) : nextOk (execWmarkPublish n s) :=
  State.resume_memOk (fun w g hg => by
    cases w with
    | wmark a => cases hg; exact publishMark_keeps a
    | _ => cases hg) h

theorem execChdemote_nextOk {a : BitVec 5} (h : s.memOk = true) : nextOk (execChdemote a s) :=
  s.ifWorld0_memOk _ (State.retire_memOk h) h

/-! ### Engines: copies, searches and products -/

theorem execBtcopy_nextOk {a b : BitVec 5} {k : BitVec 4} (h : s.memOk = true) : nextOk (execBtcopy a b k s) :=
  memOk_ite (State.retire_memOk h) (State.afterPred_memOk (copyBlock_keeps a b k) h)

theorem execBtgather_nextOk {a b : BitVec 5} {k : BitVec 4} (h : s.memOk = true) : nextOk (execBtgather a b k s) :=
  memOk_ite (State.waitFor_memOk h) (State.afterPred_memOk (gatherRows_keeps a b k) h)

theorem execBtPieceComplete_nextOk {n k : Nat} (h : s.memOk = true) : nextOk (execBtPieceComplete n k s) := by
  unfold execBtPieceComplete nextOk
  dsimp only
  split
  · exact h
  · split
    · refine memOk_ite (State.endPiece_memOk h) ?_
      split
      · exact h
      · have ht := State.movePiece_memOk h ‹_›
        exact memOk_ite (State.endPiece_memOk ht) (State.setJob_memOk ht)
    · exact h

theorem execShardSearchComplete_nextOk {n : BitVec 16} {t : Nat} {k : BitVec 4} (h : s.memOk = true) :
    nextOk (execShardSearchComplete n t k s) := by
  unfold execShardSearchComplete nextOk
  dsimp only
  split
  · split
    · exact State.searchShard_memOk h
    · exact h
  · exact h

theorem execSearchComplete_nextOk {n : BitVec 16} {t : Nat} (h : s.memOk = true) :
    nextOk (execSearchComplete n t s) := by
  unfold execSearchComplete nextOk
  dsimp only
  split
  · split
    · exact State.mergeQuery_memOk h
    · exact h
  · exact h

theorem execSplitProductComplete_nextOk {n : BitVec 16} {t : Nat} (h : s.memOk = true) :
    nextOk (execSplitProductComplete n t s) := by
  unfold execSplitProductComplete nextOk
  dsimp only
  split
  · split
    · exact State.finishProduct_memOk h
    · exact h
  · exact h

theorem execHcrankCopyDone_nextOk {n : Nat} (h : s.memOk = true) : nextOk (execHcrankCopyDone n s) := by
  unfold execHcrankCopyDone nextOk
  dsimp only
  split
  · exact h
  · exact memOk_ite (State.endCopy_memOk h) (memOk_ite h (State.endCopy_memOk (State.copyRows_memOk _ _ h)))

theorem execHcfire_nextOk {a b : BitVec 5} {k : BitVec 4} (h : s.memOk = true) : nextOk (execHcfire a b k s) :=
  State.afterPred_memOk (withMap_keeps a false (fireRows_keeps b k)) h

/-! ### Worklists -/

theorem execWlopen_nextOk {a b : BitVec 5} (h : s.memOk = true) : nextOk (execWlopen a b s) := by
  refine memOk_ite (s.malformed_memOk _ _ h) (State.readStruct_memOk (fun desc t ht => ?_) h)
  split
  · exact t.malformed_memOk _ _ ht
  · exact memOk_ite (t.malformed_memOk _ _ ht) (checkList_keeps _ _ _ _ _ ht)

theorem execWlpop_nextOk {a b : BitVec 5} (h : s.memOk = true) : nextOk (execWlpop a b s) :=
  memOk_ite (s.illegal_memOk h) (State.withList_memOk (popList_keeps a b) h)

theorem execWlpopReturn_nextOk {n : BitVec 16} (h : s.memOk = true) : nextOk (execWlpopReturn n s) :=
  State.resume_memOk (fun w g hg => by
    cases w with
    | wlpop a b => cases hg; exact fun t ht => State.withList_memOk (popList_keeps a b) ht
    | _ => cases hg) h

theorem execWlstat_nextOk {a b : BitVec 5} (h : s.memOk = true) : nextOk (execWlstat a b s) :=
  State.withList_memOk (fun _ _ ht => State.writeBack_memOk ht) h

theorem execWlfloor_nextOk {a b : BitVec 5} (h : s.memOk = true) : nextOk (execWlfloor a b s) :=
  State.withList_memOk (fun _ _ ht => State.writeBack_memOk ht) h

theorem execWlDetectionWave_nextOk {gid : BitVec 32} {w : BitVec 4} (h : s.memOk = true) :
    nextOk (execWlDetectionWave gid w s) := by
  unfold execWlDetectionWave nextOk
  dsimp only
  split
  · split
    · exact memOk_ite (State.updList_memOk h) h
    · exact State.updList_memOk h
    · exact h
  · exact h

theorem execWlBalanceMove_nextOk {gid : BitVec 32} {w : BitVec 4} {i : Nat} (h : s.memOk = true) :
    nextOk (execWlBalanceMove gid w i s) := by
  unfold execWlBalanceMove nextOk
  dsimp only
  split
  · split
    · exact h
    · exact memOk_ite (State.moveTasks_memOk _ h) h
  · exact h

theorem execWlUnspill_nextOk {gid : BitVec 32} {w : BitVec 4} (h : s.memOk = true) :
    nextOk (execWlUnspill gid w s) := by
  unfold execWlUnspill nextOk
  dsimp only
  split
  · exact h
  · exact memOk_foldl _ (fun _ _ ht => State.unspillTask_memOk ht) _ _ h

/-! ### Gangs -/

theorem execGlaunch_nextOk {a b : BitVec 5} (h : s.memOk = true) : nextOk (execGlaunch a b s) :=
  memOk_ite (startLaunch_keeps a b s h) (State.waitFor_memOk h)

theorem execGangPlacement_nextOk {gid : BitVec 32} (h : s.memOk = true) : nextOk (execGangPlacement gid s) := by
  unfold execGangPlacement nextOk
  dsimp only
  split
  · exact h
  · refine memOk_ite h (State.updGang_memOk _ _ _ ?_)
    split
    · exact State.placeMember_memOk h
    · exact h

theorem execGangStart_nextOk {gid : BitVec 32} (h : s.memOk = true) : nextOk (execGangStart gid s) := by
  unfold execGangStart nextOk
  dsimp only
  split
  · exact h
  · exact memOk_ite (State.failStart_memOk h) (memOk_ite (s.updGang_memOk _ _ h) h)

theorem execGwaitReturn_nextOk {n : BitVec 16} (h : s.memOk = true) : nextOk (execGwaitReturn n s) :=
  State.resume_memOk (fun w g hg => by
    cases w with
    | gwait a b => cases hg; exact awaitGang_keeps a b
    | _ => cases hg) h

theorem execXredComplete_nextOk {gid : BitVec 32} {k : Nat} (h : s.memOk = true) :
    nextOk (execXredComplete gid k s) := by
  unfold execXredComplete nextOk
  dsimp only
  split
  · exact h
  · split
    · exact h
    · exact memOk_ite h (memOk_ite (State.endReduction_memOk h) (memOk_ite (State.reduce_memOk h) h))

theorem execGexitComplete_nextOk {n : BitVec 16} (h : s.memOk = true) : nextOk (execGexitComplete n s) :=
  State.resume_memOk (fun w g hg => by
    cases w with
    | gexit => cases hg; exact leaveGang_keeps
    | _ => cases hg) h

/-! ### Worlds and sealed storage -/

theorem execWattestAllow_nextOk {d a : BitVec 5} (h : s.memOk = true) : nextOk (execWattestAllow d a s) :=
  ownWorld_keeps d (fun _ t ht => State.writeBack_memOk (t.updWorld_memOk _ _ ht)) s h

theorem execWattestLog_nextOk {d a : BitVec 5} (h : s.memOk = true) : nextOk (execWattestLog d a s) :=
  ownWorld_keeps d (fun _ _ ht => State.bufferOk_memOk (fun _ hu => State.storeWords_memOk
    (fun v hv => State.writeBack_memOk (v.updWorld_memOk _ _ hv)) hu) ht) s h

theorem execWattestGrant_nextOk {d a : BitVec 5} (h : s.memOk = true) : nextOk (execWattestGrant d a s) :=
  ownWorld_keeps d (fun _ _ ht => memOk_ite (State.writeBack_memOk ht)
    (State.writeBack_memOk (State.addGrant_memOk ht))) s h

theorem execWattestRevoke_nextOk {d a : BitVec 5} (h : s.memOk = true) : nextOk (execWattestRevoke d a s) :=
  ownWorld_keeps d (fun w _ ht => memOk_ite (State.writeBack_memOk ht) (revoke_keeps d _ w _ ht)) s h

theorem execKeyExchangeComplete_nextOk {w : BitVec 10} {dev : BitVec 8} (h : s.memOk = true) :
    nextOk (execKeyExchangeComplete w dev s) := memOk_ite (s.updWorld_memOk _ _ h) h

theorem State.setDraws_memOk {l : List StoreEntry} {n : Nat} (h : s.memOk = true) :
    ({ s with store := l, draws := n } : State).memOk = true := h

theorem execInstallComplete_nextOk {n : Nat} (h : s.memOk = true) : nextOk (execInstallComplete n s) := by
  unfold execInstallComplete nextOk
  dsimp only
  split
  · exact h
  · refine memOk_ite h ?_
    have hs := State.setSeals_memOk (l := s.seals.eraseIdx n) h
    split
    · exact State.endInstall_memOk hs
    · have hd (w : BitVec 10) := State.dropReport_memOk (w := w) hs
      refine memOk_ite (State.endInstall_memOk (hd _)) ?_
      split
      · exact State.endInstall_memOk (hd _)
      · exact State.endInstall_memOk (State.setDraws_memOk (hd _))

/-! ### Boot, lines, packets and the host link -/

theorem execBoot_nextOk {image : List Byte} (h : s.memOk = true) : nextOk (execBoot image s) := by
  unfold execBoot nextOk
  dsimp only
  split
  · exact memOk_ite (State.placeImage_memOk h) (s.emit_memOk _ h)
  · exact h
  · exact h

theorem State.setBooted_memOk {b : Boot} {gs : List Gang} {n : Nat} {x : Hart} {ta ve : Word} (h : s.memOk = true) :
    ({ s with boot := b, gangs := gs, handles := n, htab := ta, hvec := ve, hart := x } : State).memOk = true := h

theorem execBootHartStart_nextOk (h : s.memOk = true) : nextOk (execBootHartStart s) := by
  unfold execBootHartStart nextOk
  dsimp only
  split
  · split
    · exact State.saveContext_memOk (State.setBooted_memOk h)
    · exact h
  · exact h
  · exact h

theorem execLineFill_nextOk {n : BitVec 16} {a : BitVec 52} (h : s.memOk = true) : nextOk (execLineFill n a s) :=
  memOk_ite h (s.asHart_memOk _ _ (fun _ ht => State.checkFill_memOk ht) h)

theorem State.setDirty_memOk {l : List DirtyLine} (h : s.memOk = true) :
    ({ s with dirty := l } : State).memOk = true := h

theorem execLineWriteBack_nextOk {a : BitVec 52} (h : s.memOk = true) : nextOk (execLineWriteBack a s) :=
  memOk_ite (State.countLine_memOk _ _ (State.setDirty_memOk h)) h

theorem execRemotePacketArrival_nextOk {n : Nat} (h : s.memOk = true) : nextOk (execRemotePacketArrival n s) := by
  unfold execRemotePacketArrival nextOk
  dsimp only
  split
  · exact h
  · exact State.arrive_memOk _ _ (State.setPackets_memOk h)

theorem State.setHostUp_memOk {b : Bool} (h : s.memOk = true) : ({ s with hostUp := b } : State).memOk = true := h

/-! ### The vector side -/

theorem execVmvxs_nextOk {d a : BitVec 5} (h : s.memOk = true) : nextOk (execVmvxs d a s) := by
  refine State.inLanes_memOk (fun t ht => ?_) h
  dsimp only
  split
  · exact t.illegal_memOk ht
  · exact memOk_ite (State.waitFor_memOk ht) (State.writeBack_memOk ht)

theorem execKpop_nextOk {d a : BitVec 5} (h : s.memOk = true) : nextOk (execKpop d a s) :=
  State.readVector_memOk (fun _ ht => State.writeBack_memOk ht) h

theorem execKfirst_nextOk {d a : BitVec 5} (h : s.memOk = true) : nextOk (execKfirst d a s) :=
  State.readVector_memOk (fun _ ht => State.writeBack_memOk ht) h

theorem execTshp_nextOk {c : BitVec 1} {k : BitVec 5} (h : s.memOk = true) : nextOk (execTshp c k s) :=
  memOk_ite (s.illegal_memOk h) (State.inLanes_memOk (setShape_keeps _ k) h)

theorem execTsave_nextOk {c : BitVec 1} {t : BitVec 3} {a : BitVec 5} (h : s.memOk = true) :
    nextOk (execTsave c t a s) :=
  memOk_ite (moveTile_keeps _ _ s h) (enter_keeps _ _ _ _ s h)

theorem execTrest_nextOk {c : BitVec 1} {t : BitVec 3} {a : BitVec 5} (h : s.memOk = true) :
    nextOk (execTrest c t a s) :=
  memOk_ite (moveTile_keeps _ _ s h) (enter_keeps _ _ _ _ s h)

theorem execVsr_nextOk {c : BitVec 1} {v x : BitVec 5} (h : s.memOk = true) : nextOk (execVsr c v x s) :=
  enterWhole_keeps _ _ _ (fun _ _ hu => wholeStore_memOk hu) s h

theorem execVsrPredicate_nextOk {c : BitVec 1} {v x : BitVec 5} (h : s.memOk = true) :
    nextOk (execVsrPredicate c v x s) :=
  enterWhole_keeps _ _ _ (fun _ _ hu => wholeStore_memOk hu) s h

theorem execVlr_nextOk {c : BitVec 1} {v x : BitVec 5} (h : s.memOk = true) : nextOk (execVlr c v x s) :=
  enterWhole_keeps _ _ _ (fun _ _ hu => wholeLoad_memOk hu) s h

theorem execVlrPredicate_nextOk {c : BitVec 1} {v x : BitVec 5} (h : s.memOk = true) :
    nextOk (execVlrPredicate c v x s) :=
  enterWhole_keeps _ _ _ (fun _ _ hu => wholeLoad_memOk hu) s h

theorem execMicroopIssue_nextOk {core : BitVec 8} (h : s.memOk = true) : nextOk (execMicroopIssue core s) := by
  refine getD_memOk (fun t e => ?_) h
  obtain ⟨x, -, hx⟩ := List.exists_of_findSome?_eq_some e
  exact State.issueOf_memOk h hx

theorem execMicroopAged_nextOk {n : BitVec 16} (h : s.memOk = true) : nextOk (execMicroopAged n s) := by
  unfold execMicroopAged nextOk
  dsimp only
  split
  · exact h
  · refine memOk_ite h ?_
    split
    · exact h
    · exact s.updHart_memOk _ _ h

/-! ### Errors and the fabric link -/

theorem execCorrectedErrorReportDue_nextOk {c : BitVec 8} {u : BitVec 16} (h : s.memOk = true) :
    nextOk (execCorrectedErrorReportDue c u s) := by
  unfold execCorrectedErrorReportDue nextOk
  dsimp only
  split
  · exact h
  · exact memOk_ite (State.setCorrected_memOk h) (State.report_memOk _ _ _ _ _ _ (State.setCorrected_memOk h))

theorem State.setTests_memOk {l : List (BitVec 8 × BitVec 16 × Nat)} (h : s.memOk = true) :
    ({ s with tests := l } : State).memOk = true := h

theorem execSelfTestComplete_nextOk {c : BitVec 8} {u : BitVec 16} {passed : Bool} (h : s.memOk = true) :
    nextOk (execSelfTestComplete c u passed s) := by
  refine memOk_ite h (memOk_ite (State.retireUnit_memOk h) ?_)
  exact memOk_ite (State.report_memOk _ _ _ _ _ _ (State.setTests_memOk h)) (State.setTests_memOk h)

theorem execUncorrectableError_nextOk {site : ErrorSite} (h : s.memOk = true) :
    nextOk (execUncorrectableError site s) := by
  cases site with
  | line a => exact State.loseLine_memOk h
  | hart ser => exact s.asHart_memOk _ _ (fun _ ht => State.registersLost_memOk ht) h
  | scratch core n => exact State.regionLost_memOk h
  | task gid w n => exact State.taskLost_memOk h
  | clean cache a => exact State.correct_memOk h
  | dirty cache a k => exact State.dirtyLost_memOk h

theorem execFlitReceive_nextOk {d : BitVec 512} {c : BitVec 64} {l : List (BitVec 72)} (h : s.memOk = true) :
    nextOk (execFlitReceive d c l s) :=
  State.onLink_memOk (fun _ ht => memOk_ite (memOk_ite ht (deliverFlit_keeps _ _ ht))
    (State.onLink_memOk dropFlit_keeps (State.flitError_memOk ht))) h

theorem execNakReceive_nextOk {g : BitVec 10} (h : s.memOk = true) : nextOk (execNakReceive g s) :=
  State.onLink_memOk (fun _ ht => State.replayFlits_memOk ht) h

theorem execAckReceive_nextOk {g : BitVec 10} (h : s.memOk = true) : nextOk (execAckReceive g s) :=
  State.onLink_memOk (fun _ ht => memOk_ite (State.pump_memOk (State.setLink_memOk ht)) ht) h

theorem execReadyWindowReceive_nextOk {w : BitVec 10} (h : s.memOk = true) : nextOk (execReadyWindowReceive w s) :=
  State.onLink_memOk (fun _ ht => State.pump_memOk (State.setLink_memOk ht)) h

theorem execReplayTimeout_nextOk (h : s.memOk = true) : nextOk (execReplayTimeout s) :=
  State.onLink_memOk (fun _ ht => State.replayFlits_memOk ht) h

theorem execPortRetrain_nextOk {ok : Bool} (h : s.memOk = true) : nextOk (execPortRetrain ok s) :=
  memOk_ite h (memOk_ite (State.pump_memOk (State.sendAgain_memOk (State.setLink_memOk h))) (State.portDown_memOk h))

theorem State.setLinkWorlds_memOk {l : Link} {ws : List World} (h : s.memOk = true) :
    ({ s with link := l, worlds := ws } : State).memOk = true := h

theorem execPortUp_nextOk (h : s.memOk = true) : nextOk (execPortUp s) :=
  memOk_ite h (State.report_memOk _ _ _ _ _ _ (State.setLinkWorlds_memOk h))

/-! ### Management -/

theorem execClockStep_nextOk {up : Bool} (h : s.memOk = true) : nextOk (execClockStep up s) :=
  memOk_ite (memOk_ite (State.setClock_memOk h) h) (memOk_ite (State.setClock_memOk h) h)

theorem execThermalAlarm_nextOk {die : BitVec 2} (h : s.memOk = true) : nextOk (execThermalAlarm die s) :=
  memOk_ite (State.quarantineAll_memOk h) h

theorem State.setLimits_memOk {w t : BitVec 16} (h : s.memOk = true) :
    ({ s with powerLimit := w, tempLimit := t } : State).memOk = true := h

theorem execPowerLimitSet_nextOk {w t : BitVec 16} (h : s.memOk = true) : nextOk (execPowerLimitSet w t s) :=
  memOk_ite (State.setLimits_memOk h) h

theorem State.setFirmware_memOk {o : Option FirmwareImage} (h : s.memOk = true) :
    ({ s with fwInactive := o } : State).memOk = true := h

theorem execFirmwareUpdate_nextOk {image : FirmwareImage} (h : s.memOk = true) : nextOk (execFirmwareUpdate image s) :=
  memOk_ite (State.emit_memOk _ _ (State.setFirmware_memOk h)) (s.emit_memOk _ h)

theorem execMgmtCounterRead_nextOk {w : BitVec 10} {c : BitVec 6} {host : Bool} (h : s.memOk = true) :
    nextOk (execMgmtCounterRead w c host s) := by
  unfold execMgmtCounterRead nextOk
  dsimp only
  split
  · exact s.emit_memOk _ h
  · exact memOk_ite (s.emit_memOk _ h) (State.emit_memOk _ _ (s.updWorld_memOk _ _ h))

theorem State.setPowerState_memOk {n : BitVec 8} (h : s.memOk = true) :
    ({ s with powerState := n } : State).memOk = true := h

theorem execExtentOffered_nextOk {p : BitVec 3} {e : BitVec 6} {off : BitVec 13} {n : BitVec 14} (h : s.memOk = true) :
    nextOk (execExtentOffered p e off n s) :=
  memOk_ite (State.report_memOk _ _ _ _ _ _ (s.setExtent_memOk _ _ h)) h

theorem execReleaseRequest_nextOk {p : BitVec 3} {e : BitVec 6} (h : s.memOk = true) :
    nextOk (execReleaseRequest p e s) :=
  memOk_ite (s.startRelease_memOk _ h) h

theorem execReleaseComplete_nextOk {p : BitVec 3} {e : BitVec 6} (h : s.memOk = true) :
    nextOk (execReleaseComplete p e s) :=
  memOk_ite h (State.emit_memOk _ _ (State.setExtent_memOk _ _ _ (State.setDirty_memOk h)))

theorem execRootPortFailure_nextOk {p : BitVec 3} (h : s.memOk = true) : nextOk (execRootPortFailure p s) :=
  memOk_foldl _ (fun _ _ ht => State.withdraw_memOk ht) _ _ h

/-! ### Scheduling -/

theorem execEventDelivery_nextOk (h : s.memOk = true) : nextOk (execEventDelivery s) := by
  refine memOk_ite h ?_
  split
  · exact h
  · exact memOk_ite h (s.asHart_memOk _ _ (fun _ ht => State.takeEvent_memOk ht) h)

theorem execPreemption_nextOk {n : BitVec 16} (h : s.memOk = true) : nextOk (execPreemption n s) := by
  unfold execPreemption nextOk
  dsimp only
  split
  · exact h
  · exact memOk_ite (State.stopHart_memOk h) h

theorem execSwitchOut_nextOk {n : BitVec 16} (h : s.memOk = true) : nextOk (execSwitchOut n s) := by
  unfold execSwitchOut nextOk
  dsimp only
  split
  · exact h
  · exact memOk_ite h (State.stopHart_memOk h)

theorem execSwitchIn_nextOk {n : BitVec 16} (h : s.memOk = true) : nextOk (execSwitchIn n s) := by
  unfold execSwitchIn nextOk
  dsimp only
  split
  · exact h
  · exact memOk_ite (s.asHart_memOk _ _ (fun t ht => t.switchOn_memOk ht) h) h

theorem execHyield_nextOk (h : s.memOk = true) : nextOk (execHyield s) := by
  have ht := State.retire_memOk (r := none) h
  refine memOk_ite ht ?_
  dsimp only
  split
  · exact ht
  · exact State.asHart_memOk _ _ _ (fun t ht => t.switchOn_memOk ht)
      (State.newRound_memOk (State.mapHart_memOk _ _ (State.switchOff_memOk _ _ ht)))

theorem execShareGrantChange_nextOk {ser : BitVec 16} {n : BitVec 3} (h : s.memOk = true) :
    nextOk (execShareGrantChange ser n s) := by
  unfold execShareGrantChange nextOk
  dsimp only
  split
  · exact h
  · exact memOk_ite (s.updHart_memOk _ _ h) h

theorem execLpgraceExpiry_nextOk {n : BitVec 16} (h : s.memOk = true) : nextOk (execLpgraceExpiry n s) := by
  unfold execLpgraceExpiry nextOk
  dsimp only
  split
  · exact h
  · exact memOk_ite (State.stopOrAsk_memOk (s.updHart_memOk _ _ h)) h

theorem execQuantumExpiry_nextOk {n : BitVec 16} (h : s.memOk = true) : nextOk (execQuantumExpiry n s) := by
  unfold execQuantumExpiry nextOk
  dsimp only
  split
  · exact h
  · exact memOk_ite (State.endSlice_memOk h) (memOk_ite h (State.newRound_memOk (s.updHart_memOk _ _ h)))

theorem execDomainSliceStart_nextOk {gid : BitVec 32} (h : s.memOk = true) : nextOk (execDomainSliceStart gid s) := by
  unfold execDomainSliceStart nextOk
  dsimp only
  split
  · exact h
  · exact memOk_ite h (State.startSlice_memOk (memOk_ite h (State.endSlice_memOk h)))

theorem execSliceForfeit_nextOk {gid : BitVec 32} (h : s.memOk = true) : nextOk (execSliceForfeit gid s) := by
  unfold execSliceForfeit nextOk
  dsimp only
  split
  · exact h
  · have ht (f : Gang → Gang) := State.updGang_memOk _ gid f (State.setSlice_memOk (o := none) h)
    exact memOk_ite h (memOk_ite (ht _) (State.post_memOk _ _ _ _ (ht _)))

/-! ### Every instruction and occurrence -/

theorem exec_nextOk (i : Instr) (h : s.memOk = true) : nextOk (exec i s) := by
  unfold exec
  cases i with
  | add | sub | addi | nsstat | ptag | pstrip => exact State.writeBack_memOk h
  | and | or | xor | sll | srl | sra | slt | sltu | min | max | mul | mulh | mulhu | div | divu | rem | remu | clz |
    ctz | popc | sextb | sexth | sextw | zexth | zextw | andi | ori | slli | srli | srai | lui | auipc =>
    exact alu_nextOk h
  | faddd | fsubd | fmuld | fdivd | fsqrtd | fmad | fmind | fmaxd | feqd | fltd | fled | fadds | fmuls | fmas |
    fcvtsd | fcvtds | fcvtld | fcvtdl => exact scalarFloat_keeps _ _ s h
  | amoadd | amomin | amomax | amoand | amoor | amoxor | amoswap | amocas => exact atomic_keeps _ _ _ _ _ s h
  | jalr => exact execJalr_nextOk h
  | lb | lbu | lh | lhu | lw | lwu | ld => exact load_keeps _ _ _ _ _ s h
  | sb | sh | sw | sd => exact store_keeps _ _ _ _ s h
  | beq | bne | blt | bge | bltu | bgeu => exact branch_nextOk h
  | bcnt => exact execBcnt_nextOk h
  | j => exact State.goto_memOk h
  | jal => exact State.mapHart_memOk _ _ (State.writeBack_memOk h)
  | stir | stirCopy => exact s.mapHart_memOk _ h
  | cmov | caddi | csubi | cslli | csrli | csrai | candi | cadd | csub | cand | cor | cxor => exact compact_nextOk h
  | vadd | vsub | vmul | vmulh | vmin | vmax | vand | vor | vxor | vsadd | vssub | vmacc | vaddx | vmulx | vaddi |
    vslli | vsrli | vsrai | vcmpeq | vcmplt | vcmple | vsel | vmvx | vfadd | vfsub | vfmul | vfdiv | vfsqrt | vfma |
    vfmin | vfmax | vfcmpeq | vfcmplt | vfcmple | vfmulx | vfsmul | vfsmacc | vfcvt | vfcvti | vicvtf | vicvt |
    vredsum | vredmax | vfredsum | vfredmax | vtopk | vperm | vslideup | vslidedn | vcompress | viota | vskv | kand |
    kor | kxor | kandn | knot | kbefore | kset | vld | vlds | vldx | vldff | vqrd | vst | vsts | vstx | vamoadd |
    vamomin | vamomax | vamoand | vamoor | vamoxor | vamoswap | vamocas | mmcpy | mmadd | mmsub | mmmul | mmmin |
    mmmax | mxacc | mopk | mxsub | mzero | mdrain | mrow => exact enter_keeps _ _ _ _ s h
  | vlr => exact execVlr_nextOk h
  | vlrPredicate => exact execVlrPredicate_nextOk h
  | vsr => exact execVsr_nextOk h
  | vsrPredicate => exact execVsrPredicate_nextOk h
  | tshp => exact execTshp_nextOk h
  | tsave => exact execTsave_nextOk h
  | trest => exact execTrest_nextOk h
  | qbind => exact execQbind_nextOk h
  | btcopy => exact execBtcopy_nextOk h
  | btgather => exact execBtgather_nextOk h
  | qrd => exact execQrd_nextOk h
  | sbar => exact execSbar_nextOk h
  | kwait => exact State.afterPred_memOk (awaitBits_keeps _ _ _) h
  | wmark => exact publishMark_keeps _ s h
  | chdemote => exact execChdemote_nextOk h
  | pref => exact State.retire_memOk h
  | nsq => exact State.afterPred_memOk (startQuery_keeps _ _ _) h
  | hcmv => exact State.afterPred_memOk (startProduct_keeps _ _ _) h
  | hcfire => exact execHcfire_nextOk h
  | hcage => exact withMap_keeps _ _ ageRows_keeps s h
  | hcrank => exact withMap_keeps _ _ (rankRows_keeps _) s h
  | hccommit => exact withMap_keeps _ _ commitMap_keeps s h
  | wlopen => exact execWlopen_nextOk h
  | wlpush => exact State.withList_memOk (pushList_keeps _ _) h
  | wlpop => exact execWlpop_nextOk h
  | wldone => exact State.withList_memOk (retireToken_keeps _) h
  | wlstat => exact execWlstat_nextOk h
  | wlfloor => exact execWlfloor_nextOk h
  | glaunch => exact execGlaunch_nextOk h
  | gwait => exact awaitGang_keeps _ _ s h
  | gbar => exact arriveBar_keeps _ s h
  | xred => exact State.afterPred_memOk (startReduction_keeps _ _) h
  | lslot => exact execLslot_nextOk h
  | pchk => exact execPchk_nextOk h
  | rpatchWrite => exact rpatch_keeps _ _ _ (fun _ _ _ ht => ht) s h
  | rpatchMove => exact rpatch_keeps _ _ _ (moveCaptured_keeps _) s h
  | wattestReport => exact report_keeps _ _ s h
  | wattestAllow => exact execWattestAllow_nextOk h
  | wattestLog => exact execWattestLog_nextOk h
  | wattestGrant => exact execWattestGrant_nextOk h
  | wattestRevoke => exact execWattestRevoke_nextOk h
  | wbindOpen => exact withBlock_keeps _ _ (openWorld_keeps _) s h
  | wbindNewver => exact withBlock_keeps _ _ (newVersion_keeps _) s h
  | wbindPlace => exact withBlock_keeps _ _ (placeSection_keeps _) s h
  | wbindSeal => exact withBlock_keeps _ _ (fun _ => withManifest_keeps _ (sealReady_keeps _ _)) s h
  | wbindInstall => exact withBlock_keeps _ _ (fun _ => withManifest_keeps _ (installReady_keeps _ _)) s h
  | wbindErase => exact withBlock_keeps _ _ (eraseEntry_keeps _) s h
  | wbindClose => exact withBlock_keeps _ _ (closeWorld_keeps _) s h
  | ecall => exact execEcall_nextOk h
  | ebreak => exact execEbreak_nextOk h
  | mtcr | vtypeWrite | tshpWrite | frmWrite | fflagsWrite | vlcapWrite | schedcfgWrite | registerWrite =>
    exact writeMove_keeps _ _ s h
  | mfcr | fflagsRead | vlffRead => exact readMove_keeps _ _ s h
  | svl => exact withShare_keeps (setStrip_keeps _ _) s h
  | svlW => exact withShare_keeps (setStripWait_keeps _ _) s h
  | wfe => exact execWfe_nextOk h
  | csync => exact execCsync_nextOk h
  | vmvxs => exact execVmvxs_nextOk h
  | kpop => exact execKpop_nextOk h
  | kfirst => exact execKfirst_nextOk h
  | hyield => exact execHyield_nextOk h
  | gexit => exact leaveGang_keeps s h
  | slotsync => exact s.ifWorld0_memOk _ (slotsync_keeps s h) h
  | eret => exact execEret_nextOk h
  | fence | fenceSv | fenceVs | fenceSvVs => exact fence_keeps _ s h
  | vviewOwn | vviewAddr | vviewEvict | vviewInstall => exact viewMove_keeps _ s h
  | fwdHold | fwdForward | fwdFree => exact s.setMode_memOk _ _ h
  | csafreePush => exact State.pushCsa_memOk h
  | hartHold | hartRelease => exact s.writeCtl_memOk _ _ h
  | extentAccept | extentRelease => exact s.writeExtentState_memOk _ _ h
  | extentDecline => exact execExtentDecline_nextOk h
  | extentFree => exact execExtentFree_nextOk h
  | msixRaise => exact State.raiseMsix_memOk h
  | reset => exact State.deviceReset_memOk h
  | boot => exact execBoot_nextOk h
  | bootHartStart => exact execBootHartStart_nextOk h
  | microopIssue => exact execMicroopIssue_nextOk h
  | microopAged => exact execMicroopAged_nextOk h
  | eventDelivery => exact execEventDelivery_nextOk h
  | quantumExpiry => exact execQuantumExpiry_nextOk h
  | lpgraceExpiry => exact execLpgraceExpiry_nextOk h
  | shareGrantChange => exact execShareGrantChange_nextOk h
  | preemption => exact execPreemption_nextOk h
  | switchOut => exact execSwitchOut_nextOk h
  | switchIn => exact execSwitchIn_nextOk h
  | domainSliceStart => exact execDomainSliceStart_nextOk h
  | sliceForfeit => exact execSliceForfeit_nextOk h
  | gangPlacement => exact execGangPlacement_nextOk h
  | gangStart => exact execGangStart_nextOk h
  | gwaitReturn => exact execGwaitReturn_nextOk h
  | gbarRelease => exact s.updGang_memOk _ _ h
  | gexitComplete => exact execGexitComplete_nextOk h
  | xredComplete => exact execXredComplete_nextOk h
  | svlWPass => exact execSvlWPass_nextOk h
  | kwaitReturn => exact execKwaitReturn_nextOk h
  | qrdReturn => exact execQrdReturn_nextOk h
  | wmarkPublish => exact execWmarkPublish_nextOk h
  | fenceDrained => exact execFenceDrained_nextOk h
  | slotsyncComplete => exact execSlotsyncComplete_nextOk h
  | streamFetch => exact execStreamFetch_nextOk h
  | lineFill => exact execLineFill_nextOk h
  | remotePacketArrival => exact execRemotePacketArrival_nextOk h
  | hostCompletion | hostCompletionTimeout => exact s.updHart_memOk _ _ h
  | hostWriteFailure => exact s.report_memOk _ _ _ _ _ h
  | hostLinkDown | hostLinkUp => exact State.setHostUp_memOk h
  | shardSearchComplete => exact execShardSearchComplete_nextOk h
  | searchComplete => exact execSearchComplete_nextOk h
  | splitProductComplete => exact execSplitProductComplete_nextOk h
  | hcrankCopyDone => exact execHcrankCopyDone_nextOk h
  | btPieceComplete => exact execBtPieceComplete_nextOk h
  | wlpopReturn => exact execWlpopReturn_nextOk h
  | wlDetectionWave => exact execWlDetectionWave_nextOk h
  | wlBalanceMove => exact execWlBalanceMove_nextOk h
  | wlUnspill => exact execWlUnspill_nextOk h
  | keyExchangeComplete => exact execKeyExchangeComplete_nextOk h
  | sealedLoadComplete => exact State.completeLoad_memOk h
  | installComplete => exact execInstallComplete_nextOk h
  | correctedError => exact State.correct_memOk h
  | uncorrectableError => exact execUncorrectableError_nextOk h
  | selfTestComplete => exact execSelfTestComplete_nextOk h
  | flitReceive => exact execFlitReceive_nextOk h
  | nakReceive => exact execNakReceive_nextOk h
  | ackReceive => exact execAckReceive_nextOk h
  | readyWindowReceive => exact execReadyWindowReceive_nextOk h
  | replayTimeout => exact execReplayTimeout_nextOk h
  | portRetrain => exact execPortRetrain_nextOk h
  | portUp => exact execPortUp_nextOk h
  | extentOffered => exact execExtentOffered_nextOk h
  | releaseRequest => exact execReleaseRequest_nextOk h
  | releaseComplete => exact execReleaseComplete_nextOk h
  | forcedRelease => exact State.withdraw_memOk h
  | rootPortFailure => exact execRootPortFailure_nextOk h
  | clockStep => exact execClockStep_nextOk h
  | thermalAlarm => exact execThermalAlarm_nextOk h
  | powerLimitSet => exact execPowerLimitSet_nextOk h
  | firmwareUpdate => exact execFirmwareUpdate_nextOk h
  | mgmtCounterRead => exact execMgmtCounterRead_nextOk h
  | fuseRead | errorLogRead | retirementMapRead => exact s.emit_memOk _ h
  | powerStateSet => exact State.setPowerState_memOk h
  | lineWriteBack => exact execLineWriteBack_nextOk h
  | wfeTimeout => exact execWfeTimeout_nextOk h
  | correctedErrorReportDue => exact execCorrectedErrorReportDue_nextOk h

/-! ### A turn, and a step -/

theorem runFetched_nextOk {f : Fetched} (hf : f.memOk) : nextOk (runFetched f) := by
  cases f with
  | trapped t => exact hf
  | instr i t =>
    have hu := t.drainStores_memOk t.hart.ser hf
    unfold runFetched
    dsimp only
    split
    · exact exec_nextOk i hf
    · split
      · exact hu
      · exact exec_nextOk i hu

theorem passOn_nextOk {o : Out} (ho : nextOk o) : nextOk (passOn o) := by
  cases o with
  | next t => exact memOk_ite (t.rotate_memOk ho) ho
  | fault f => trivial
  | refused r => trivial

theorem queueTurn_nextOk (h : s.memOk = true) : nextOk (queueTurn s) := by
  have ht := execMicroopIssue_nextOk (core := s.hart.core) h
  unfold queueTurn
  generalize execMicroopIssue s.hart.core s = o at ht ⊢
  cases o with
  | next t => exact memOk_ite ht (memOk_ite (t.rotate_memOk ht) (State.rotate_memOk _ (t.mapHart_memOk _ ht)))
  | fault f => trivial
  | refused r => trivial

theorem turn_nextOk (h : s.memOk = true) : nextOk (turn s) := by
  unfold turn
  split
  · exact s.rotate_memOk h
  · split
    · split
      · exact passOn_nextOk (runFetched_nextOk (resumed_memOk h))
      · split
        · exact queueTurn_nextOk h
        · split
          · exact s.rotate_memOk h
          · exact passOn_nextOk (runFetched_nextOk (fetch_memOk (s.mapHart_memOk _ h)))
    · exact runFetched_nextOk (fetch_memOk h)

theorem State.setAgenda_memOk {l : List Cue} (h : s.memOk = true) : ({ s with agenda := l } : State).memOk = true := h

theorem step_nextOk (h : s.memOk = true) : nextOk (step s) := by
  have hb (l : List Cue) := State.begin_memOk _ (State.setAgenda_memOk (l := l) h)
  unfold step
  split
  · exact turn_nextOk (s.begin_memOk h)
  · exact exec_nextOk _ (hb _)
  · exact State.focus_memOk _ _ (hb _)
  · exact State.inner_memOk _ (hb _)

end

/-- Settles O58: whatever a step begins with, an occurrence of the agenda or the turn of a hart, memory is changed by
`Bytes.write`, `Bytes.clear` and `Bytes.keep` alone, and each of these keeps the form. -/
theorem stepKeepsMemory : Obligations.StepKeepsMemory := by
  unfold Obligations.StepKeepsMemory
  intro s t h e
  have ht := step_nextOk h
  rw [e] at ht
  exact ht

end Sys2Proof.Machine

/-! ## Entry of the V, W and M instructions into the queue (R14, R29, R136, R138, R141, R357)

Every V, W or M instruction goes through `enter`, `setShape` or `enterWhole`. `Entry` names these three ways, and
`Entry.of_classOf` is the one case split over the instructions: it finds the way of each, and shows that its `Form` is
what the row asks of it (`askedOf`). What the three ways do is said once, about `State.enqueue` and `State.joining`. -/

namespace Sys2Proof.Machine
open Sys2Proof.Claims
section
variable {i : Instr} {c : Class} {s : State} {x : Asked} {f : Form}

/-! ### Element types by their codes (R134, R135) -/

/-- A type has the width, the kind and the packing unit that the claims read off its code. -/
structure TypeOf (n : Nat) (t : ETy) : Prop where
  code : ETy.ofCode n = some t
  width : t.width = widthOf n
  isFloat : t.isFloat = decide (n ∈ floatCodes)
  packedInt : t.packedInt = decide (n ∈ packedCodes)
  sliced : t.sliced = decide (n ∈ 0x81 :: slicedCodes)
  byteWidth : t.byteWidth = decide (n ∈ byteCodes)
  unitElems : n ∉ byteCodes → t.unitElems = unitOfCode n

theorem typeOf_validCodes {n : Nat} (h : n ∈ validCodes) : ∃ t, TypeOf n t := by
  have key : ∀ n ∈ validCodes, (ETy.ofCode n).any (fun t => decide (t.width = widthOf n ∧
      t.isFloat = decide (n ∈ floatCodes) ∧ t.packedInt = decide (n ∈ packedCodes) ∧
      t.sliced = decide (n ∈ 0x81 :: slicedCodes) ∧ t.byteWidth = decide (n ∈ byteCodes) ∧
      (n ∉ byteCodes → t.unitElems = unitOfCode n))) = true := by decide
  obtain ⟨t, ht, hp⟩ := (Option.any_eq_true _ _).mp (key n h)
  obtain ⟨h1, h2, h3, h4, h5, h6⟩ := of_decide_eq_true hp
  exact ⟨t, ht, h1, h2, h3, h4, h5, h6⟩

/-- Every code of the list is that of a type of the kind. -/
def OfKind (codes : List Nat) (p : ETy → Bool) : Prop := ∀ n ∈ codes, (ETy.ofCode n).any p = true

theorem integerCodes_plainInt : OfKind integerCodes ETy.plainInt := by unfold OfKind; decide
theorem wideFloatCodes_wideFloat : OfKind wideFloatCodes ETy.wideFloat := by unfold OfKind; decide
theorem byteCodes_byteWidth : OfKind byteCodes ETy.byteWidth := by unfold OfKind; decide
theorem byteCodes_mmcpyType : OfKind byteCodes mmcpyType := by unfold OfKind; decide
theorem mmCodes_mmType : OfKind (packedCodes ++ wideFloatCodes) mmType := by unfold OfKind; decide
theorem amoCodes_amoType : OfKind [0x15, 0x16, 0x25, 0x26] amoType := by unfold OfKind; decide
theorem sumCodes_sumType : OfKind [0x34, 0x35, 0x44] sumType := by unfold OfKind; decide
theorem topkCodes_topkType : OfKind [0x35, 0x34, 0x44, 0x13, 0x14, 0x15, 0x23, 0x24, 0x25] topkType := by
  unfold OfKind; decide
theorem notFloatCodes_intType : OfKind (integerCodes ++ [0x81]) intType := by unfold OfKind; decide
theorem validCodes_anyType : OfKind validCodes anyType := by unfold OfKind; decide

theorem vtVill_eq (v : Word) : vtVill v = v.getLsbD 63 := BitVec.msb_eq_getLsbD_last v

theorem vtET_eq {v : Word} (hv : v.getLsbD 63 = false) : vtET v = ETy.ofCode (fieldOf v 0 8) := by
  rw [vtET, vtVill_eq, hv]
  simp [vtCode, fieldOf]

theorem etIs_of_mem {codes : List Nat} {p : ETy → Bool} (hp : OfKind codes p) (hv : s.hart.vtype.getLsbD 63 = false)
    (h : fieldOf s.hart.vtype 0 8 ∈ codes) : s.etIs p = true := by
  obtain ⟨t, ht, hpt⟩ := (Option.any_eq_true _ _).mp (hp _ h)
  simp [State.etIs, vtET_eq hv, ht, hpt]

theorem sourceGroup_eq (g wc we : Nat) : sourceGroup g wc we = groupFor g wc we := by
  unfold sourceGroup groupFor
  split_ifs <;> simp [List.find?, *]

theorem viewed_own (hw : s.hart.view = .own) : s.viewed = s.hart := by simp [State.viewed, hw]

/-! ### Groups (R141) and the loan (R32) -/

/-- The sources of a row, as the checks of entry take them. -/
def sourcesOf (l : List (BitVec 5 × Nat × Bool)) : List Src := l.map fun y => ⟨y.1, y.2.1, y.2.2⟩

theorem sourcesOf_groupList (s : State) (apart : Bool) (l : List (BitVec 5)) :
    sourcesOf (groupList (vtG s.hart.vtype) apart l) = s.groups apart l := by
  simp [sourcesOf, groupList, State.groups]

/-- A form meets the sources and the copy condition of a row: its own conditions hold, its sources are the row's, and it
asks no more of a copy register. -/
structure Form.Meets (f : Form) (srcs : List (BitVec 5 × Nat × Bool)) (copy : Nat → Prop) : Prop where
  srcs : f.srcs = sourcesOf srcs
  ok : f.ok = true
  copy : ∀ r, copy r → f.copy r = true

theorem destFits_of {l : List (BitVec 5 × Nat × Bool)} {d n : Nat} (h : DestFits l d n) :
    destFits (sourcesOf l) d n = true := by
  obtain ⟨ha, hs⟩ := h
  simp only [destFits, sourcesOf, List.all_map, Bool.and_eq_true, decide_eq_true_eq, List.all_eq_true, Function.comp]
  refine ⟨ha, fun y hy => ?_⟩
  rcases hs y hy with h | h | ⟨h1, h2, h3⟩
  · simp [Src.fits, h]
  · simp [Src.fits, h]
  · simp [Src.fits, h1, h2, h3]

theorem ownFits_of (hf : f.Meets x.srcs x.copy) (hg : GroupsFit i s.hart x) :
    ownFits (destOf i) (vtG s.hart.vtype) f.srcs = true := by
  obtain ⟨hs, hd⟩ := hg
  simp only [ownFits, hf.srcs, Bool.and_eq_true]
  constructor
  · simpa [sourcesOf] using hs
  · cases he : destOf i with
    | group d | single d => rw [he] at hd; exact destFits_of hd.1
    | pred k | nothing => rfl

/-- A copy register is lent only to an instruction with a vector destination, and fits as that destination does. -/
theorem groupsFit_copy (hg : GroupsFit i s.hart x) {l : Loan} (hl : s.hart.loan = some l) (hdc : l.dc = true) :
    writesVector i = true ∧ DestFits x.srcs l.vdc.toNat ((destOf i).size (vtG s.hart.vtype)) ∧ x.copy l.vdc.toNat := by
  obtain ⟨-, hd⟩ := hg
  cases he : destOf i with
  | group d | single d => rw [he] at hd; exact ⟨by simp [writesVector, he], hd.2 l hl hdc⟩
  | pred k | nothing => rw [he] at hd; exact absurd hdc (by simp [hd l hl])

theorem copyFits_of (hf : f.Meets x.srcs x.copy) (hg : GroupsFit i s.hart x) {l : Loan} (hl : s.hart.loan = some l) :
    (l.dc && writesVector i &&
      !(destFits f.srcs l.vdc.toNat ((destOf i).size (vtG s.hart.vtype)) && f.copy l.vdc.toNat)) = false := by
  cases hdc : l.dc
  · rfl
  · obtain ⟨-, hfit, hcopy⟩ := groupsFit_copy hg hl hdc
    simp [hf.srcs, destFits_of hfit, hf.copy _ hcopy]

theorem loanFits_of (hl : LoanFits i s.hart) (hg : GroupsFit i s.hart x) : s.hart.loanFits i = true := by
  cases hn : s.hart.loan with
  | none => simp [Hart.loanFits, hn]
  | some l =>
    have hmask : l.k = 0 ∨ masked i = true := or_iff_not_imp_left.mpr (hl l hn)
    have hcopy : l.dc = false ∨ writesVector i = true := by
      cases hdc : l.dc
      · exact .inl rfl
      · exact .inr (groupsFit_copy hg hn hdc).1
    simpa [Hart.loanFits, hn] using And.intro hmask hcopy

/-! ### The convoy (R28, R29) and the captured entry (R138, R357) -/

theorem joinConvoy_of {h : Hart} {cv : List Class} (hj : JoinsConvoy i c h cv) : h.joinConvoy i c = some cv := by
  unfold JoinsConvoy at hj
  unfold Hart.joinConvoy
  cases hc : h.convoy with
  | none => simp_all
  | some l => cases ho : opensConvoy i <;> simp_all

/-- The convoy that is open holds the class already, and the instruction begins none (R29). -/
def SecondOfClass (i : Instr) (c : Class) (h : Hart) : Prop := opensConvoy i = false ∧ ∃ l, h.convoy = some l ∧ c ∈ l

theorem joinConvoy_none_of_second {h : Hart} (hs : SecondOfClass i c h) : h.joinConvoy i c = none := by
  obtain ⟨ho, l, hc, hm⟩ := hs
  simp [Hart.joinConvoy, ho, hc, hm]

theorem convoyOf_eq (h : Hart) (i : Instr) : h.convoyOf i = convoyNumber i h := by
  simp [Hart.convoyOf, convoyNumber]

/-- A seed is captured, and SEED advances, just under SR and outside the matrix class (R101; log entry 72). -/
theorem drawsSeed_iff (h : Hart) (c : Class) :
    h.drawsSeed c = true ↔ c ≠ .feed ∧ vectorMode h.vtype h.frm = .sr := by
  simp [Hart.drawsSeed]

theorem entryOf_eq (h : Hart) (i : Instr) (c : Class) (x : Asked) (stamp : Nat) :
    h.entryOf i c (h.operands x.ops) (Vector.ofFn fun j : Fin 3 => x.strides.getD j.val 0)
      (if h.drawsSeed c then h.seed else 0) stamp = entryFor i c x h stamp := by
  simp only [Hart.entryOf, entryFor, convoyOf_eq, drawsSeed_iff]
  rfl

/-- What an instruction leaves in the hart when it joins its convoy, under SR with SEED advanced. -/
def Hart.afterEntry (h : Hart) (i : Instr) (cv : List Class) (sr : Bool) : Hart :=
  { h.joined i cv with seed := if sr then h.seed + 1 else h.seed }

theorem leavesFrontEnd (s : State) (i : Instr) (c : Class) (cv : List Class) (q : List QEntry) :
    LeavesFrontEnd i c cv q s
      ((s.mapHart fun h => { h with queue := q }.afterEntry i cv (s.hart.drawsSeed c)).retire none) := by
  refine ⟨⟨rfl, fun _ => rfl⟩, ?_⟩
  simp only [State.retire_hart, State.mapHart_hart, Hart.afterEntry, Hart.joined, convoyOf_eq, drawsSeed_iff]
  rfl

/-! ### The checks of entry -/

/-- An instruction that passes every check joins its convoy, and then retires at once or takes an entry. -/
theorem enqueue_passes {cv : List Class} (hv : s.hart.vtype.getLsbD 63 = false)
    (hvl : s.hart.vl.toNat ≤ vlmax s.hart.vtype s.hart.c) (hw : s.hart.view = .own) (hf : f.Meets x.srcs x.copy)
    (hg : GroupsFit i s.hart x) (hl : LoanFits i s.hart) (hj : JoinsConvoy i c s.hart cv) (strides : Vector Word 3) :
    s.enqueue i c x.ops strides f =
      if s.hart.vl = 0 then (s.mapHart fun h => h.afterEntry i cv (s.hart.drawsSeed c)).retire none
      else s.push (s.hart.entryOf i c (s.hart.operands x.ops) strides (if s.hart.drawsSeed c then s.hart.seed else 0)
        s.stamp) fun h => h.afterEntry i cv (s.hart.drawsSeed c) := by
  have h6 : ¬ (vtVill s.hart.vtype || decide (vlmax s.hart.vtype s.viewed.c < s.hart.vl.toNat)) = true := by
    rw [vtVill_eq, hv, viewed_own hw]
    simpa using hvl
  have h6' : ¬ (!f.ok || !ownFits (destOf i) (vtG s.hart.vtype) f.srcs) = true := by
    simp [hf.ok, ownFits_of hf hg]
  have hjoin (k : List Class → State) : s.joining i c k = k cv := by
    simp [State.joining, loanFits_of hl hg, joinConvoy_of hj]
  unfold State.enqueue
  refine (if_neg h6).trans ((if_neg h6').trans ((if_neg ?_).trans (hjoin _)))
  split
  · rw [copyFits_of hf hg ‹_›]
    exact Bool.false_ne_true
  · exact Bool.false_ne_true

theorem enqueue_illegal_of_vlmax (hw : s.hart.view = .own)
    (h : s.hart.vtype.getLsbD 63 = true ∨ vlmax s.hart.vtype s.hart.c < s.hart.vl.toNat)
    (ops : List (BitVec 5)) (strides : Vector Word 3) (f : Form) : s.enqueue i c ops strides f = s.illegal := by
  unfold State.enqueue
  exact if_pos (by simpa [vtVill_eq, viewed_own hw] using h)

theorem setShape_illegal_of_vlmax (hw : s.hart.view = .own)
    (h : s.hart.vtype.getLsbD 63 = true ∨ vlmax s.hart.vtype s.hart.c < s.hart.vl.toNat) (k : BitVec 5) :
    setShape i k s = s.illegal := by
  unfold setShape
  exact if_pos (by simpa [vtVill_eq, viewed_own hw] using h)

theorem joining_illegal_of_second (hl : s.hart.loan = none) (hs : SecondOfClass i c s.hart) (k : List Class → State) :
    s.joining i c k = s.illegal := by
  simp [State.joining, Hart.loanFits, hl, joinConvoy_none_of_second hs]

/-- Whatever the checks before it say, the second of its class in a convoy is illegal. -/
theorem enqueue_illegal_of_second (hl : s.hart.loan = none) (hs : SecondOfClass i c s.hart)
    (ops : List (BitVec 5)) (strides : Vector Word 3) (f : Form) : s.enqueue i c ops strides f = s.illegal := by
  unfold State.enqueue
  simp only [hl, joining_illegal_of_second hl hs, Bool.false_eq_true, if_false]
  split_ifs <;> rfl

theorem setShape_illegal_of_second (hl : s.hart.loan = none) (hs : SecondOfClass i .feed s.hart) (k : BitVec 5) :
    setShape i k s = s.illegal := by
  unfold setShape
  simp only [joining_illegal_of_second hl hs]
  split_ifs <;> rfl

/-- With its vector state in lanes a hart goes on at once. -/
theorem inLanes_of (h : InLanes s.hart) (f : State → State) : s.inLanes f = f s := by
  obtain ⟨-, hloc, hsh⟩ := h
  have hb : s.bringLanes = .ok s := by simp [State.bringLanes, hloc]
  simp only [State.inLanes, State.withLanes, hb]
  exact if_neg hsh

theorem inLanes_noShare (h : s.hart.share = 0) (f : State → State) :
    s.inLanes f = s.takeTrap 9 0 (s.hart.iw.zeroExtend 64) := by
  simp [State.inLanes, State.withLanes, State.bringLanes, h]

theorem enter_eq (hc : classOf i = some c) (hm : s.hart.hm = false) (ops : List (BitVec 5)) (f : State → Form)
    (strides : Hart → Vector Word 3) :
    enter i ops f strides s = s.inLanes fun t => t.enqueue i c ops (strides t.hart) (f t) := by
  simp [enter, hc, hm]

/-! ### The form of each kind of row -/

/-- ET and CT of the hart's VTYPE. -/
abbrev State.et (s : State) : Nat := fieldOf s.hart.vtype 0 8
abbrev State.ct (s : State) : Nat := fieldOf s.hart.vtype 24 8

theorem floatPair_of {m n : Nat} {t u : ETy} (ht : TypeOf m t) (hu : TypeOf n u) (h : m ∈ floatCodes ∧ n ∈ floatCodes) :
    floatPair t u = true := by
  simp [floatPair, ht.isFloat, hu.isFloat, h]

theorem toIntPair_of {m n : Nat} {t u : ETy} (ht : TypeOf m t) (hu : TypeOf n u) (h : m ∈ floatCodes ∧ n ∉ floatCodes) :
    toIntPair t u = true := by
  simp [toIntPair, ht.isFloat, hu.isFloat, h]

theorem fromIntPair_of {m n : Nat} {t u : ETy} (ht : TypeOf m t) (hu : TypeOf n u)
    (h : m ∉ floatCodes ∧ n ∈ floatCodes) : fromIntPair t u = true := by
  simp [fromIntPair, ht.isFloat, hu.isFloat, h]

theorem intPair_of {m n : Nat} {t u : ETy} (ht : TypeOf m t) (hu : TypeOf n u) (h : m ∉ floatCodes ∧ n ∉ floatCodes) :
    intPair t u = true := by
  simp [intPair, ht.isFloat, hu.isFloat, h]

theorem skiverPair_of {m n : Nat} {t u : ETy} (ht : TypeOf m t) (hu : TypeOf n u)
    (h : (m ∈ packedCodes ∧ n ∈ 0x81 :: slicedCodes ∧ widthOf n ≤ widthOf m) ∨
      (n ∈ packedCodes ∧ m ∈ 0x81 :: slicedCodes ∧ widthOf m ≤ widthOf n)) : skiverPair t u = true := by
  simp only [skiverPair, ht.packedInt, ht.sliced, ht.width, hu.packedInt, hu.sliced, hu.width]
  rcases h with ⟨h1, h2, h3⟩ | ⟨h1, h2, h3⟩ <;> simp [h1, h2, h3, -List.mem_cons]

section
variable {codes : List Nat} {p : ETy → Bool} {l : List (BitVec 5)}

theorem plainForm_meets (hp : OfKind codes p) (hv : s.hart.vtype.getLsbD 63 = false) (h : s.et ∈ codes) :
    (plainForm l p s).Meets (groupList (vtG s.hart.vtype) false l) fun _ => True :=
  ⟨(sourcesOf_groupList ..).symm, etIs_of_mem hp hv h, fun _ _ => rfl⟩

theorem apartForm_meets (hp : OfKind codes p) (hv : s.hart.vtype.getLsbD 63 = false) (h : s.et ∈ codes) :
    (apartForm l p s).Meets (groupList (vtG s.hart.vtype) true l) fun _ => True :=
  ⟨(sourcesOf_groupList ..).symm, etIs_of_mem hp hv h, fun _ _ => rfl⟩

theorem shiftForm_meets {a n : BitVec 5} (hv : s.hart.vtype.getLsbD 63 = false)
    (h : s.et ∈ integerCodes ∧ 0 ≤ n.toInt) :
    (shiftForm a n s).Meets (groupList (vtG s.hart.vtype) false [a]) fun _ => True := by
  have hn : n.msb = false := by simpa [BitVec.msb_eq_toInt] using h.2
  refine ⟨(sourcesOf_groupList ..).symm, ?_, fun _ _ => rfl⟩
  simp [shiftForm, etIs_of_mem integerCodes_plainInt hv h.1, hn]

theorem mmForm_meets (hp : OfKind codes p) (hv : s.hart.vtype.getLsbD 63 = false)
    (h : s.et ∈ codes ∧ ∀ r ∈ l, r ≠ 0 ∧ r ≠ 31) : (mmForm l p s).Meets [] fun _ => True :=
  ⟨rfl, by simpa [mmForm, etIs_of_mem hp hv h.1] using h.2, fun _ _ => rfl⟩

theorem unitForm_meets {b : BitVec 5} {m : BitVec 1} {store : Bool} (hv : s.hart.vtype.getLsbD 63 = false)
    (h : s.et ∈ byteCodes ∨ (s.et ∈ validCodes ∧ (s.hart.xr b).toNat % 8 = 0 ∧
      s.hart.vl.toNat % unitOfCode s.et = 0 ∧ (store = true → m = 0))) :
    (unitForm l b store m s).Meets (groupList (vtG s.hart.vtype) false l) fun _ => True := by
  refine ⟨(sourcesOf_groupList ..).symm, ?_, fun _ _ => rfl⟩
  have hmem : s.et ∈ validCodes := h.elim ((show ∀ n ∈ byteCodes, n ∈ validCodes by decide) _) And.left
  obtain ⟨t, ht⟩ := typeOf_validCodes hmem
  simp only [unitForm, State.etIs, vtET_eq hv, ht.code, ht.byteWidth]
  by_cases hb : s.et ∈ byteCodes
  · simp [hb]
  · obtain ⟨-, hx, hl, hs⟩ := h.resolve_left hb
    rw [ht.unitElems hb]
    cases store <;> simp_all

theorem topkForm_meets {a b : BitVec 5} (hv : s.hart.vtype.getLsbD 63 = false) (hw : s.hart.view = .own)
    (h : s.et ∈ [0x35, 0x34, 0x44, 0x13, 0x14, 0x15, 0x23, 0x24, 0x25] ∧ (s.hart.xr b).toNat ≤ s.hart.c / 8) :
    Form.Meets ⟨s.groups true [a], s.etIs topkType && decide ((s.hart.xr b).toNat ≤ s.viewed.c / 8), fun _ => true⟩
      (groupList (vtG s.hart.vtype) true [a]) fun _ => True := by
  refine ⟨(sourcesOf_groupList ..).symm, ?_, fun _ _ => rfl⟩
  rw [viewed_own hw, etIs_of_mem topkCodes_topkType hv h.1]
  simpa using h.2

theorem scaledForm_meets {d a b : BitVec 5} (hv : s.hart.vtype.getLsbD 63 = false) (hw : s.hart.view = .own)
    (h : s.et = 0x35 ∧ s.hart.vl.toNat ≤ (if s.hart.vtype.getLsbD 15 then s.hart.c else s.hart.c / 4) ∧
      d.toNat + vtG s.hart.vtype ≤ 31 ∧ a.toNat + vtG s.hart.vtype ≤ 31 ∧ b.toNat + vtG s.hart.vtype ≤ 31) :
    (scaledForm d a b s).Meets (groupList (vtG s.hart.vtype) false [a, b]) fun r => r + vtG s.hart.vtype ≤ 31 := by
  obtain ⟨ht, hl, hd, ha, hb⟩ := h
  refine ⟨(sourcesOf_groupList ..).symm, ?_, fun r hr => decide_eq_true hr⟩
  have hcode : ETy.ofCode s.et = some (.flt .fp32) := by rw [ht]; rfl
  simpa [scaledForm, State.etIs, vtET_eq hv, hcode, viewed_own hw, vtSF, hd, ha, hb] using hl

/-- The types of a conversion are valid, so that its source group and its VLMAX are those of their widths. -/
theorem convertForm_meets {a : BitVec 5} {P : Prop} {q : ETy → ETy → Bool} {far : Bool}
    (hq : ∀ {t u}, TypeOf s.ct t → TypeOf s.et u → P → q t u = true)
    (hv : s.hart.vtype.getLsbD 63 = false) (hw : s.hart.view = .own)
    (h : s.ct ∈ validCodes ∧ s.et ∈ validCodes ∧ P ∧
      groupFor (vtG s.hart.vtype) (widthOf s.ct) (widthOf s.et) ≤ 8 ∧
      s.hart.vl.toNat ≤ limitOf s.ct (groupFor (vtG s.hart.vtype) (widthOf s.ct) (widthOf s.et)) s.hart.c) :
    (convertForm a q far s).Meets
      [(a, groupFor (vtG s.hart.vtype) (widthOf s.ct) (widthOf s.et), far || decide (widthOf s.ct ≠ widthOf s.et))]
      fun _ => True := by
  obtain ⟨hct, het, hP, hg, hl⟩ := h
  obtain ⟨t, ht⟩ := typeOf_validCodes hct
  obtain ⟨u, hu⟩ := typeOf_validCodes het
  have hct : vtCT s.hart.vtype = some t := ht.code
  simp only [limitOf, ht.code] at hl
  simp only [convertForm, hct, vtET_eq hv, hu.code, ht.width, hu.width, sourceGroup_eq, viewed_own hw]
  refine ⟨by simp [sourcesOf, bne, beq_eq_decide], by simp [hq ht hu hP, hg, hl], fun _ _ => rfl⟩

theorem indexForm_meets {v n : BitVec 5} {more : Prop} (hp : OfKind codes p) (hvalid : ∀ m ∈ codes, m ∈ validCodes)
    (hv : s.hart.vtype.getLsbD 63 = false) (hw : s.hart.view = .own)
    (h : s.et ∈ codes ∧ groupFor (vtG s.hart.vtype) 32 (widthOf s.et) ≤ 8 ∧
      s.hart.vl.toNat ≤ limitOf 0x15 (groupFor (vtG s.hart.vtype) 32 (widthOf s.et)) s.hart.c ∧
      (v.toNat + vtG s.hart.vtype ≤ n.toNat ∨
        n.toNat + groupFor (vtG s.hart.vtype) 32 (widthOf s.et) ≤ v.toNat) ∧ more) :
    (indexForm l v n p s).Meets
      ((n, groupFor (vtG s.hart.vtype) 32 (widthOf s.et), true) :: groupList (vtG s.hart.vtype) false l)
      fun _ => True := by
  obtain ⟨hmem, hg, hl, hfit, -⟩ := h
  obtain ⟨t, ht⟩ := typeOf_validCodes (hvalid _ hmem)
  have hl : s.hart.vl.toNat ≤ vlmaxFor (.uint 32) (groupFor (vtG s.hart.vtype) 32 (widthOf s.et)) s.hart.c := hl
  simp only [indexForm, vtET_eq hv, ht.code, ht.width, sourceGroup_eq, viewed_own hw, etIs_of_mem hp hv hmem]
  refine ⟨?_, by simp [hg, hl, Src.fits, hfit], fun _ _ => rfl⟩
  rw [← sourcesOf_groupList]
  rfl

theorem casForm_meets {v n : BitVec 5} (hv : s.hart.vtype.getLsbD 63 = false) (hw : s.hart.view = .own)
    (h : s.et ∈ [0x15, 0x16, 0x25, 0x26] ∧ groupFor (vtG s.hart.vtype) 32 (widthOf s.et) ≤ 8 ∧
      s.hart.vl.toNat ≤ limitOf 0x15 (groupFor (vtG s.hart.vtype) 32 (widthOf s.et)) s.hart.c ∧
      (v.toNat + vtG s.hart.vtype ≤ n.toNat ∨
        n.toNat + groupFor (vtG s.hart.vtype) 32 (widthOf s.et) ≤ v.toNat) ∧
      v.toNat + vtG s.hart.vtype ≤ 31 ∧
      (v.toNat + 2 * vtG s.hart.vtype ≤ n.toNat ∨
        n.toNat + groupFor (vtG s.hart.vtype) 32 (widthOf s.et) ≤ v.toNat + vtG s.hart.vtype)) :
    (casForm v n s).Meets
      ((n, groupFor (vtG s.hart.vtype) 32 (widthOf s.et), true) :: groupList (vtG s.hart.vtype) false [])
      fun _ => True := by
  have hi := indexForm_meets (l := []) amoCodes_amoType (by decide) hv hw h
  obtain ⟨-, -, -, -, hlast, hpair⟩ := h
  have hpair : v.toNat + vtG s.hart.vtype + vtG s.hart.vtype ≤ n.toNat ∨
      n.toNat + groupFor (vtG s.hart.vtype) 32 (widthOf s.et) ≤ v.toNat + vtG s.hart.vtype := by omega
  refine ⟨hi.srcs, ?_, fun _ _ => rfl⟩
  simp [casForm, hi.ok, hi.srcs, hlast, sourcesOf, groupList, Src.fits, hpair]

theorem shapeRows_eq (v : Word) : shapeRows v = fieldOf v 0 7 := by simp [shapeRows, fieldOf]

/-- R163: the shape is valid, and VL is within the columns that its rows leave. -/
theorem shapeFits_of (h : s.hart.tshp.getLsbD 63 = false ∧ 0 < fieldOf s.hart.tshp 0 7 ∧
      s.hart.vl.toNat ≤ min 256 (s.hart.c / 4 / fieldOf s.hart.tshp 0 7)) :
    (!s.hart.tshp.msb && decide (s.hart.vl.toNat ≤ tcolmax s.hart.c (shapeRows s.hart.tshp))) = true := by
  obtain ⟨ht, hr, hl⟩ := h
  have hmsb : s.hart.tshp.msb = false := (BitVec.msb_eq_getLsbD_last _).trans ht
  simpa [hmsb, tcolmax, shapeRows_eq, Nat.pos_iff_ne_zero.mp hr] using hl

theorem tileForm_meets (hw : s.hart.view = .own)
    (h : s.hart.tshp.getLsbD 63 = false ∧ 0 < fieldOf s.hart.tshp 0 7 ∧
      s.hart.vl.toNat ≤ min 256 (s.hart.c / 4 / fieldOf s.hart.tshp 0 7)) :
    (tileForm s).Meets [] fun _ => True :=
  ⟨rfl, by simpa only [tileForm, viewed_own hw] using shapeFits_of h, fun _ _ => rfl⟩

theorem feedForm_meets {n : Hart → Nat} {k : Nat} (hk : n s.hart = k) (hw : s.hart.view = .own)
    (h : s.hart.tshp.getLsbD 63 = false ∧ 0 < fieldOf s.hart.tshp 0 7 ∧
      s.hart.vl.toNat ≤ min 256 (s.hart.c / 4 / fieldOf s.hart.tshp 0 7) ∧
      ETy.ofCode (fieldOf s.hart.tshp 24 8) ≠ none ∧ ETy.ofCode (fieldOf s.hart.tshp 16 8) ≠ none ∧
      k * fieldOf s.hart.tshp 0 7 ≤ limitOf (fieldOf s.hart.tshp 24 8) (vtG s.hart.vtype) s.hart.c ∧
      k * s.hart.vl.toNat ≤ limitOf (fieldOf s.hart.tshp 16 8) (vtG s.hart.vtype) s.hart.c) :
    (feedForm l n s).Meets (groupList (vtG s.hart.vtype) false l) fun _ => True := by
  obtain ⟨ht, hr, hl, hA, hB, hrows, hcols⟩ := h
  obtain ⟨t, hA⟩ := Option.ne_none_iff_exists'.mp hA
  obtain ⟨u, hB⟩ := Option.ne_none_iff_exists'.mp hB
  have hsA : ETy.ofCode (shapeA s.hart.tshp) = some t := hA
  have hsB : ETy.ofCode (shapeB s.hart.tshp) = some u := hB
  simp only [limitOf, hA] at hrows
  simp only [limitOf, hB] at hcols
  refine ⟨(sourcesOf_groupList ..).symm, ?_, fun _ _ => rfl⟩
  simp only [feedForm, viewed_own hw, shapeFits_of ⟨ht, hr, hl⟩, hsA, hsB]
  simp [shapeRows_eq, hk, hrows, hcols]

/-- The forms of `mzero`, `tsave` and `trest`, whose rows ask nothing. -/
theorem freeForm_meets : Form.Meets ⟨[], true, fun _ => true⟩ [] fun _ => True := ⟨rfl, rfl, fun _ _ => rfl⟩

end

/-! ### The way in of each instruction -/

/-- What `enter` captures and checks is what the row of the instruction asks. -/
def AsksFor (i : Instr) (ops : List (BitVec 5)) (f : State → Form) (strides : Hart → Vector Word 3) (s : State) :
    Prop :=
  ∀ x, askedOf i s.hart = some x →
    ops = x.ops ∧ strides s.hart = (Vector.ofFn fun j : Fin 3 => x.strides.getD j.val 0) ∧
    (s.hart.vtype.getLsbD 63 = false → s.hart.view = .own → x.ok → (f s).Meets x.srcs x.copy)

theorem noStrides_eq : noStrides = Vector.ofFn fun j : Fin 3 => ([] : List Word).getD j.val 0 := by decide

theorem AsksFor.of_row {ops : List (BitVec 5)} {f : State → Form} {ok : Prop} {srcs : List (BitVec 5 × Nat × Bool)}
    {copy : Nat → Prop} (ha : askedOf i s.hart = some ⟨ops, [], ok, srcs, copy⟩)
    (hf : s.hart.vtype.getLsbD 63 = false → s.hart.view = .own → ok → (f s).Meets srcs copy) :
    AsksFor i ops f (fun _ => noStrides) s := by
  intro x hx
  obtain rfl := Option.some.inj (ha.symm.trans hx)
  exact ⟨rfl, noStrides_eq, hf⟩

/-- A memory-to-memory form captures the register after each of its bases as a stride (R157). -/
theorem AsksFor.of_mmRow {l : List (BitVec 5)} {codes : List Nat} {p : ETy → Bool} (hp : OfKind codes p)
    (ha : askedOf i s.hart =
      some ⟨l, l.map fun r => s.hart.xr (r + 1), s.et ∈ codes ∧ ∀ r ∈ l, r ≠ 0 ∧ r ≠ 31, [], fun _ => True⟩) :
    AsksFor i l (mmForm l p) (mmStrides l) s := by
  intro x hx
  obtain rfl := Option.some.inj (ha.symm.trans hx)
  refine ⟨rfl, ?_, fun hv _ h => mmForm_meets hp hv h⟩
  simp only [mmStrides, strideOf, List.getD_eq_getElem?_getD, List.getElem?_map]
  congr
  funext j
  cases l[j.val]? <;> rfl

/-- The three ways in which a V, W or M instruction enters outside handler mode. -/
inductive Entry (i : Instr) (c : Class) (s : State) : Prop
  | queued {ops : List (BitVec 5)} {f : State → Form} {strides : Hart → Vector Word 3}
      (exec_eq : exec i s = .next (enter i ops f strides s)) (asks : AsksFor i ops f strides s)
  | shape {k : BitVec 5} (exec_eq : exec i s = .next (s.inLanes (setShape i k))) (class_eq : c = .feed)
      (unasked : askedOf i s.hart = none)
  | whole {x : BitVec 5} {f : Operand → State → Moved} (exec_eq : exec i s = .next (enterWhole i c x f s))
      (isMove : wholeMoveOf i ≠ none) (unasked : askedOf i s.hart = none)

theorem Entry.of_classOf (hc : classOf i = some c) (hm : s.hart.hm = false) : Entry i c s := by
  have hm' : ¬ s.hart.hm = true := by simp [hm]
  cases i
  case vadd | vsub | vmulh | vmin | vmax | vand | vor | vxor | vsadd | vssub | vmacc | vaddx | vmulx | vaddi | vredsum |
      vredmax | viota =>
    exact .queued rfl (.of_row rfl fun hv _ => plainForm_meets integerCodes_plainInt hv)
  case vmul | vcmpeq | vcmplt | vcmple =>
    exact .queued rfl (.of_row rfl fun hv _ => plainForm_meets notFloatCodes_intType hv)
  case vslli | vsrli | vsrai => exact .queued rfl (.of_row rfl fun hv _ => shiftForm_meets hv)
  case vmvx | kand | kor | kxor | kandn | knot | kbefore | kset =>
    exact .queued rfl (.of_row rfl fun hv _ => plainForm_meets validCodes_anyType hv)
  case vfadd | vfsub | vfmul | vfdiv | vfsqrt | vfma | vfmin | vfmax | vfcmpeq | vfcmplt | vfcmple | vfmulx |
      vfredmax =>
    exact .queued rfl (.of_row rfl fun hv _ => plainForm_meets wideFloatCodes_wideFloat hv)
  case vfredsum => exact .queued rfl (.of_row rfl fun hv _ => plainForm_meets sumCodes_sumType hv)
  case vfsmul | vfsmacc => exact .queued rfl (.of_row rfl scaledForm_meets)
  case vfcvt => exact .queued rfl (.of_row rfl (convertForm_meets floatPair_of))
  case vfcvti => exact .queued rfl (.of_row rfl (convertForm_meets toIntPair_of))
  case vicvtf => exact .queued rfl (.of_row rfl (convertForm_meets fromIntPair_of))
  case vicvt => exact .queued rfl (.of_row rfl (convertForm_meets intPair_of))
  case vskv => exact .queued rfl (.of_row rfl (convertForm_meets skiverPair_of))
  case vtopk => exact .queued rfl (.of_row rfl topkForm_meets)
  case vperm | vslideup | vslidedn | vcompress =>
    exact .queued rfl (.of_row rfl fun hv _ => apartForm_meets validCodes_anyType hv)
  case vld | vst => exact .queued rfl (.of_row rfl fun hv _ => unitForm_meets hv)
  case vlds | vsts | vldff | vqrd =>
    exact .queued rfl (.of_row rfl fun hv _ => plainForm_meets byteCodes_byteWidth hv)
  case vldx | vstx =>
    exact .queued rfl (.of_row rfl (indexForm_meets byteCodes_byteWidth (by decide)))
  case vamoadd | vamomin | vamomax | vamoand | vamoor | vamoxor | vamoswap =>
    exact .queued rfl (.of_row rfl (indexForm_meets amoCodes_amoType (by decide)))
  case vamocas => exact .queued rfl (.of_row rfl casForm_meets)
  case mmcpy => exact .queued rfl (.of_mmRow byteCodes_mmcpyType rfl)
  case mmadd | mmsub | mmmul | mmmin | mmmax => exact .queued rfl (.of_mmRow mmCodes_mmType rfl)
  case mxacc | mxsub | mopk => exact .queued rfl (.of_row rfl fun _ => feedForm_meets rfl)
  case mdrain | mrow => exact .queued rfl (.of_row rfl fun _ => tileForm_meets)
  case mzero => exact .queued rfl (.of_row rfl fun _ _ _ => freeForm_meets)
  case tsave | trest =>
    exact .queued (f := fun _ => ⟨[], true, fun _ => true⟩) (congrArg Host.Outcome.next (if_neg hm'))
      (.of_row rfl fun _ _ _ => freeForm_meets)
  case vsel cb m d a b =>
    by_cases h : m = 1
    · subst h
      exact .queued rfl (.of_row rfl fun hv _ => plainForm_meets validCodes_anyType hv)
    · have ha : askedOf (.vsel cb m d a b) s.hart = none := if_neg h
      exact .queued rfl fun x hx => nomatch ha.symm.trans hx
  case tshp => exact .shape (congrArg Host.Outcome.next (if_neg hm')) (Option.some.inj hc).symm rfl
  case vsr | vsrPredicate | vlr | vlrPredicate =>
    obtain rfl := Option.some.inj hc
    exact .whole rfl (Option.some_ne_none _) rfl
  all_goals exact nomatch hc

/-! ### What an instruction does at its entry -/

/-- R138, R141: the outcomes of a queued instruction that passes its checks, by VL and the room in the queue. -/
theorem queued_yields {strides : Hart → Vector Word 3} {form : State → Form} {cv : List Class}
    (he : exec i s = .next (enter i x.ops form strides s))
    (hs : strides s.hart = Vector.ofFn fun j : Fin 3 => x.strides.getD j.val 0)
    (hc : classOf i = some c) (hlanes : InLanes s.hart) (hv : s.hart.vtype.getLsbD 63 = false)
    (hvl : s.hart.vl.toNat ≤ vlmax s.hart.vtype s.hart.c) (hw : s.hart.view = .own) (hf : (form s).Meets x.srcs x.copy)
    (hg : GroupsFit i s.hart x) (hl : LoanFits i s.hart) (hj : JoinsConvoy i c s.hart cv) :
    (s.hart.vl = 0 → Yields i s (LeavesFrontEnd i c cv s.hart.queue s)) ∧
    (s.hart.vl ≠ 0 → s.hart.queue.length < 64 →
      Yields i s (LeavesFrontEnd i c cv (s.hart.queue ++ [entryFor i c x s.hart (64 * s.tick)]) s)) ∧
    (s.hart.vl ≠ 0 → 64 ≤ s.hart.queue.length → Yields i s (Waits .retry s)) := by
  rw [enter_eq hc hlanes.1, inLanes_of hlanes, enqueue_passes hv hvl hw hf hg hl hj, hs, entryOf_eq] at he
  refine ⟨fun h0 => ⟨_, he, ?_⟩, fun h0 hq => ⟨_, he, ?_⟩, fun h0 hq => ⟨_, he, ?_⟩⟩
  · rw [if_pos h0]
    exact leavesFrontEnd s i c cv s.hart.queue
  · rw [if_neg h0, State.push, if_neg (Nat.not_le.mpr hq)]
    exact leavesFrontEnd s i c cv _
  · rw [if_neg h0, State.push, if_pos hq]
    exact s.waitFor_waits .retry

/-- Every V, W or M instruction acts once the state is in lanes, and is then illegal in the two cases of the claim. -/
theorem Entry.exec_eq_inLanes (h : Entry i c s) (hc : classOf i = some c) (hm : s.hart.hm = false) :
    ∃ body, exec i s = .next (s.inLanes body) ∧
      (s.hart.view = .own → wholeMoveOf i = none →
        s.hart.vtype.getLsbD 63 = true ∨ vlmax s.hart.vtype s.hart.c < s.hart.vl.toNat → body s = s.illegal) ∧
      (s.hart.loan = none → SecondOfClass i c s.hart → body s = s.illegal) := by
  cases h with
  | queued he _ =>
    rw [enter_eq hc hm] at he
    exact ⟨_, he, fun hw _ h => enqueue_illegal_of_vlmax hw h .., fun hl hs => enqueue_illegal_of_second hl hs ..⟩
  | shape he hf _ =>
    subst hf
    exact ⟨_, he, fun hw _ h => setShape_illegal_of_vlmax hw h _, fun hl hs => setShape_illegal_of_second hl hs _⟩
  | whole he hmove _ =>
    have hm' : ¬ s.hart.hm = true := by simp [hm]
    rw [enterWhole, if_neg hm'] at he
    exact ⟨_, he, fun _ h => absurd h hmove, fun hl hs => joining_illegal_of_second hl hs _⟩

theorem claims_vectorEntry : Claims.VectorEntry := by
  intro i c x cv s ha hc hlanes hv hvl hw hok hg hl hj
  cases Entry.of_classOf hc hlanes.1 with
  | queued he hasks =>
    obtain ⟨rfl, hs, hf⟩ := hasks x ha
    exact queued_yields he hs hc hlanes hv hvl hw (hf hv hw hok) hg hl hj
  | shape _ _ hn => exact nomatch hn.symm.trans ha
  | whole _ _ hn => exact nomatch hn.symm.trans ha

theorem claims_vectorEntryTraps : Claims.VectorEntryTraps := by
  intro i c s hc htrap hloan
  have hm : s.hart.hm = false := htrap.2.1
  obtain ⟨body, he, hvlmax, hsecond⟩ := (Entry.of_classOf hc hm).exec_eq_inLanes hc hm
  refine ⟨fun h0 => ⟨_, he, ?_⟩, fun hlanes hw hmove h => ⟨_, he, ?_⟩, fun hlanes _ ho hl => ⟨_, he, ?_⟩⟩
  · rw [inLanes_noShare h0]
    exact s.takeTrap_enters 9 0 _ htrap (.inr rfl)
  · rw [inLanes_of hlanes, hvlmax hw hmove h]
    exact s.illegal_traps htrap
  · rw [inLanes_of hlanes, hsecond hloan ⟨ho, hl⟩]
    exact s.illegal_traps htrap

end

/-- Settles O23: each V, W or M instruction enters by one of three ways (`Entry`), whose checks are those of its row; a
passing one takes its entry with the captured values, and the trap clauses fail one of the checks. -/
theorem vectorEntry : Obligations.VectorEntry := ⟨claims_vectorEntry, claims_vectorEntryTraps⟩

end Sys2Proof.Machine

/-! ## The decoder and the encoder agree (R18 to R27, R34, R50)

A word is read through its major opcode, which fixes its format. For each format one lemma says that the decoder reads
back what the encoder puts into the fields (`reads_A` and so on), and one that a word is what the encoder makes of its
fields (`encodes_A` and so on). -/

namespace Sys2Proof

section

/-! ### Fields, and what both directions say of an instruction -/

theorem toNat_field (n lo w : Nat) : (field n lo w).toNat = w / 2 ^ lo % 2 ^ n := by
  rw [field, BitVec.toNat_ofNat]

theorem field_eq {n lo w : Nat} {x : BitVec n} (h : w / 2 ^ lo % 2 ^ n = x.toNat) : field n lo w = x :=
  BitVec.eq_of_toNat_eq (by rw [toNat_field, h])

/-- A field under what stands above it. -/
theorem join_field (w lo n : Nat) {hi : Nat} (h : hi = lo + n := by rfl) :
    w / 2 ^ hi * 2 ^ hi + w / 2 ^ lo % 2 ^ n * 2 ^ lo = w / 2 ^ lo * 2 ^ lo := by
  subst h
  rw [Nat.pow_add, ← Nat.div_div_eq_div_mul, Nat.mul_comm (2 ^ lo) (2 ^ n), ← Nat.mul_assoc, ← Nat.add_mul,
    Nat.div_add_mod']

theorem major_of_lt {w : Nat} (hw : w < 2 ^ 32) : w / 2 ^ 26 % 64 = w / 2 ^ 26 := by omega

theorem ifRange_of_wf {i : Instr} (h : i.wf = true) : ifRange i = .ok i := if_pos h

/-- The word of the instruction, where it has one, is of a format other than H and is read as the instruction. -/
def Reads (i : Instr) : Prop := ∀ n, encodeNat i = some n → decodeMajor n = .ok i ∧ n / 2 ^ 26 < 63

theorem Reads.of_word {i : Instr} {n : Nat} (e : encodeNat i = some n) (h : decodeMajor n = .ok i)
    (hn : n / 2 ^ 26 < 63) : Reads i := fun m hm => by
  cases e.symm.trans hm; exact ⟨h, hn⟩

theorem Reads.of_none {i : Instr} (e : encodeNat i = none) : Reads i := fun _ h => nomatch e.symm.trans h

/-- An instruction that is read is well formed, and its word is `n`. -/
def Encodes (r : Except Reject Instr) (n : Nat) : Prop := ∀ i, r = .ok i → i.wf = true ∧ encodeNat i = some n

theorem Encodes.ok {i : Instr} {n : Nat} (hw : i.wf = true) (he : encodeNat i = some n) : Encodes (.ok i) n :=
  fun j e => by cases e; exact ⟨hw, he⟩

theorem Encodes.error {e : Reject} {n : Nat} : Encodes (.error e) n := fun _ h => nomatch h

theorem Encodes.range {i : Instr} {n : Nat} (he : encodeNat i = some n) : Encodes (ifRange i) n := by
  unfold ifRange
  split
  · exact .ok ‹_› he
  · exact .error

/-- A field that must be zero is zero in every word that is read (check 3 of R20). -/
theorem Encodes.zero {z : Bool} {r : Except Reject Instr} {n : Nat} (h : z = true → Encodes r n) :
    Encodes (ifZero z r) n := by
  cases z
  · exact .error
  · exact h rfl

theorem Encodes.unused {k n : Nat} {x : BitVec k} {r : Except Reject Instr} (h : x = 0 → Encodes r n) :
    Encodes (ifZero (x == 0) r) n := .zero fun hz => h (eq_of_beq hz)

theorem Encodes.unused2 {j k n : Nat} {x : BitVec j} {y : BitVec k} {r : Except Reject Instr}
    (h : x = 0 → y = 0 → Encodes r n) : Encodes (ifZero (x == 0 && y == 0) r) n :=
  .zero fun hz => have hz := Bool.and_eq_true_iff.1 hz; h (eq_of_beq hz.1) (eq_of_beq hz.2)

theorem Encodes.unused3 {j k l n : Nat} {x : BitVec j} {y : BitVec k} {z : BitVec l} {r : Except Reject Instr}
    (h : x = 0 → y = 0 → z = 0 → Encodes r n) : Encodes (ifZero (x == 0 && y == 0 && z == 0) r) n :=
  .zero fun hz => have hz := Bool.and_eq_true_iff.1 hz; have hxy := Bool.and_eq_true_iff.1 hz.1
    h (eq_of_beq hxy.1) (eq_of_beq hxy.2) (eq_of_beq hz.2)

/-! ### One pair of lemmas a format -/

/-! #### Format A (R22) -/

/-- The words of major opcode `op` are read by `f`, from the fields of the format. -/
def FormatA (op : Nat) (f : BitVec 5 → BitVec 5 → BitVec 5 → Nat → Except Reject Instr) : Prop :=
  ∀ w, w / 2 ^ 26 % 64 = op → decodeMajor w = f (field 5 21 w) (field 5 16 w) (field 5 11 w) (w / 2 ^ 0 % 2 ^ 11)

theorem reads_A {op : Nat} {f : BitVec 5 → BitVec 5 → BitVec 5 → Nat → Except Reject Instr}
    {d : BitVec 5} {a : BitVec 5} {b : BitVec 5} {fn : Nat} {i : Instr}
    (hf : FormatA op f) (hop : op < 63) (e : encodeNat i = some (encA op d a b fn)) (hfn : fn < 2 ^ 11)
    (h : f d a b fn = .ok i) : Reads i := by
  refine Reads.of_word e ?_ (by unfold encA; omega)
  have hd : field 5 21 (encA op d a b fn) = d := field_eq (by unfold encA; omega)
  have ha : field 5 16 (encA op d a b fn) = a := field_eq (by unfold encA; omega)
  have hb : field 5 11 (encA op d a b fn) = b := field_eq (by unfold encA; omega)
  have hfield : encA op d a b fn / 2 ^ 0 % 2 ^ 11 = fn := by unfold encA; omega
  rw [hf _ (by unfold encA; omega), hd, ha, hb, hfield, h]

theorem encodes_A {op w : Nat} {f : BitVec 5 → BitVec 5 → BitVec 5 → Nat → Except Reject Instr}
    (h : w / 2 ^ 26 % 64 = op) (hw : w < 2 ^ 32)
    (hf : ∀ d a b fn, fn < 2 ^ 11 → Encodes (f d a b fn) (encA op d a b fn)) :
    Encodes (f (field 5 21 w) (field 5 16 w) (field 5 11 w) (w / 2 ^ 0 % 2 ^ 11)) w := by
  have e : encA op (field 5 21 w) (field 5 16 w) (field 5 11 w) (w / 2 ^ 0 % 2 ^ 11) = w := by
    simp only [encA, toNat_field, ← h, major_of_lt hw, join_field w 21 5, join_field w 16 5, join_field w 11 5]
    omega
  have hd := hf (field 5 21 w) (field 5 16 w) (field 5 11 w) (w / 2 ^ 0 % 2 ^ 11) (Nat.mod_lt _ (Nat.two_pow_pos _))
  rwa [e] at hd

/-! #### Format I (R22) -/

/-- The words of major opcode `op` are read by `f`, from the fields of the format. -/
def FormatI (op : Nat) (f : BitVec 5 → BitVec 5 → BitVec 16 → Except Reject Instr) : Prop :=
  ∀ w, w / 2 ^ 26 % 64 = op → decodeMajor w = f (field 5 21 w) (field 5 16 w) (field 16 0 w)

theorem reads_I {op : Nat} {f : BitVec 5 → BitVec 5 → BitVec 16 → Except Reject Instr}
    {d : BitVec 5} {a : BitVec 5} {z : BitVec 16} {i : Instr}
    (hf : FormatI op f) (hop : op < 63) (e : encodeNat i = some (encI op d a z))
    (h : f d a z = .ok i) : Reads i := by
  refine Reads.of_word e ?_ (by unfold encI; omega)
  have hd : field 5 21 (encI op d a z) = d := field_eq (by unfold encI; omega)
  have ha : field 5 16 (encI op d a z) = a := field_eq (by unfold encI; omega)
  have hz : field 16 0 (encI op d a z) = z := field_eq (by unfold encI; omega)
  rw [hf _ (by unfold encI; omega), hd, ha, hz, h]

theorem encodes_I {op w : Nat} {f : BitVec 5 → BitVec 5 → BitVec 16 → Except Reject Instr}
    (h : w / 2 ^ 26 % 64 = op) (hw : w < 2 ^ 32) (hf : ∀ d a z, Encodes (f d a z) (encI op d a z)) :
    Encodes (f (field 5 21 w) (field 5 16 w) (field 16 0 w)) w := by
  have e : encI op (field 5 21 w) (field 5 16 w) (field 16 0 w) = w := by
    simp only [encI, toNat_field, ← h, major_of_lt hw, join_field w 21 5, join_field w 16 5]
    omega
  have hd := hf (field 5 21 w) (field 5 16 w) (field 16 0 w)
  rwa [e] at hd

/-! #### Format U (R22) -/

/-- The words of major opcode `op` are read by `f`, from the fields of the format. -/
def FormatU (op : Nat) (f : BitVec 5 → BitVec 21 → Except Reject Instr) : Prop :=
  ∀ w, w / 2 ^ 26 % 64 = op → decodeMajor w = f (field 5 21 w) (field 21 0 w)

theorem reads_U {op : Nat} {f : BitVec 5 → BitVec 21 → Except Reject Instr}
    {d : BitVec 5} {z : BitVec 21} {i : Instr}
    (hf : FormatU op f) (hop : op < 63) (e : encodeNat i = some (encU op d z))
    (h : f d z = .ok i) : Reads i := by
  refine Reads.of_word e ?_ (by unfold encU; omega)
  have hd : field 5 21 (encU op d z) = d := field_eq (by unfold encU; omega)
  have hz : field 21 0 (encU op d z) = z := field_eq (by unfold encU; omega)
  rw [hf _ (by unfold encU; omega), hd, hz, h]

theorem encodes_U {op w : Nat} {f : BitVec 5 → BitVec 21 → Except Reject Instr}
    (h : w / 2 ^ 26 % 64 = op) (hw : w < 2 ^ 32) (hf : ∀ d z, Encodes (f d z) (encU op d z)) :
    Encodes (f (field 5 21 w) (field 21 0 w)) w := by
  have e : encU op (field 5 21 w) (field 21 0 w) = w := by
    simp only [encU, toNat_field, ← h, major_of_lt hw, join_field w 21 5]
    omega
  have hd := hf (field 5 21 w) (field 21 0 w)
  rwa [e] at hd

/-! #### Format B (R22) -/

/-- The words of major opcode `op` are read by `f`, from the fields of the format. -/
def FormatB (op : Nat) (f : BitVec 5 → BitVec 5 → BitVec 16 → Except Reject Instr) : Prop :=
  ∀ w, w / 2 ^ 26 % 64 = op → decodeMajor w = f (field 5 21 w) (field 5 16 w) (field 16 0 w)

theorem reads_B {op : Nat} {f : BitVec 5 → BitVec 5 → BitVec 16 → Except Reject Instr}
    {a : BitVec 5} {b : BitVec 5} {o : BitVec 16} {i : Instr}
    (hf : FormatB op f) (hop : op < 63) (e : encodeNat i = some (encB op a b o))
    (h : f a b o = .ok i) : Reads i := by
  refine Reads.of_word e ?_ (by unfold encB; omega)
  have ha : field 5 21 (encB op a b o) = a := field_eq (by unfold encB; omega)
  have hb : field 5 16 (encB op a b o) = b := field_eq (by unfold encB; omega)
  have ho : field 16 0 (encB op a b o) = o := field_eq (by unfold encB; omega)
  rw [hf _ (by unfold encB; omega), ha, hb, ho, h]

theorem encodes_B {op w : Nat} {f : BitVec 5 → BitVec 5 → BitVec 16 → Except Reject Instr}
    (h : w / 2 ^ 26 % 64 = op) (hw : w < 2 ^ 32) (hf : ∀ a b o, Encodes (f a b o) (encB op a b o)) :
    Encodes (f (field 5 21 w) (field 5 16 w) (field 16 0 w)) w := by
  have e : encB op (field 5 21 w) (field 5 16 w) (field 16 0 w) = w := by
    simp only [encB, toNat_field, ← h, major_of_lt hw, join_field w 21 5, join_field w 16 5]
    omega
  have hd := hf (field 5 21 w) (field 5 16 w) (field 16 0 w)
  rwa [e] at hd

/-! #### Format J (R22) -/

/-- The words of major opcode `op` are read by `f`, from the fields of the format. -/
def FormatJ (op : Nat) (f : BitVec 26 → Except Reject Instr) : Prop :=
  ∀ w, w / 2 ^ 26 % 64 = op → decodeMajor w = f (field 26 0 w)

theorem reads_J {op : Nat} {f : BitVec 26 → Except Reject Instr}
    {o : BitVec 26} {i : Instr}
    (hf : FormatJ op f) (hop : op < 63) (e : encodeNat i = some (encJ op o))
    (h : f o = .ok i) : Reads i := by
  refine Reads.of_word e ?_ (by unfold encJ; omega)
  have ho : field 26 0 (encJ op o) = o := field_eq (by unfold encJ; omega)
  rw [hf _ (by unfold encJ; omega), ho, h]

theorem encodes_J {op w : Nat} {f : BitVec 26 → Except Reject Instr}
    (h : w / 2 ^ 26 % 64 = op) (hw : w < 2 ^ 32) (hf : ∀ o, Encodes (f o) (encJ op o)) :
    Encodes (f (field 26 0 w)) w := by
  have e : encJ op (field 26 0 w) = w := by
    simp only [encJ, toNat_field]; omega
  have hd := hf (field 26 0 w)
  rwa [e] at hd

/-! #### Format V (R24) -/

/-- The words of major opcode `op` are read by `f`, from the fields of the format. -/
def FormatV (op : Nat) (f : BitVec 1 → BitVec 1 → BitVec 5 → BitVec 5 → BitVec 5 → Nat → Except Reject Instr) : Prop :=
  ∀ w, w / 2 ^ 26 % 64 = op → decodeMajor w =
    f (field 1 25 w) (field 1 24 w) (field 5 19 w) (field 5 14 w) (field 5 9 w) (w / 2 ^ 0 % 2 ^ 9)

theorem reads_V {op : Nat} {f : BitVec 1 → BitVec 1 → BitVec 5 → BitVec 5 → BitVec 5 → Nat → Except Reject Instr}
    {c : BitVec 1} {m : BitVec 1} {d : BitVec 5} {a : BitVec 5} {b : BitVec 5} {fn : Nat} {i : Instr}
    (hf : FormatV op f) (hop : op < 63) (e : encodeNat i = some (encV op c m d a b fn)) (hfn : fn < 2 ^ 9)
    (h : f c m d a b fn = .ok i) : Reads i := by
  refine Reads.of_word e ?_ (by unfold encV; omega)
  have hc : field 1 25 (encV op c m d a b fn) = c := field_eq (by unfold encV; omega)
  have hm : field 1 24 (encV op c m d a b fn) = m := field_eq (by unfold encV; omega)
  have hd : field 5 19 (encV op c m d a b fn) = d := field_eq (by unfold encV; omega)
  have ha : field 5 14 (encV op c m d a b fn) = a := field_eq (by unfold encV; omega)
  have hb : field 5 9 (encV op c m d a b fn) = b := field_eq (by unfold encV; omega)
  have hfield : encV op c m d a b fn / 2 ^ 0 % 2 ^ 9 = fn := by unfold encV; omega
  rw [hf _ (by unfold encV; omega), hc, hm, hd, ha, hb, hfield, h]

theorem encodes_V {op w : Nat} {f : BitVec 1 → BitVec 1 → BitVec 5 → BitVec 5 → BitVec 5 → Nat → Except Reject Instr}
    (h : w / 2 ^ 26 % 64 = op) (hw : w < 2 ^ 32)
    (hf : ∀ c m d a b fn, fn < 2 ^ 9 → Encodes (f c m d a b fn) (encV op c m d a b fn)) :
    Encodes (f (field 1 25 w) (field 1 24 w) (field 5 19 w) (field 5 14 w) (field 5 9 w) (w / 2 ^ 0 % 2 ^ 9)) w := by
  have e : encV op (field 1 25 w) (field 1 24 w) (field 5 19 w) (field 5 14 w) (field 5 9 w) (w / 2 ^ 0 % 2 ^ 9) = w := by
    simp only [encV, toNat_field, ← h, major_of_lt hw,
      join_field w 25 1, join_field w 24 1, join_field w 19 5, join_field w 14 5, join_field w 9 5]
    omega
  have hd := hf (field 1 25 w) (field 1 24 w) (field 5 19 w) (field 5 14 w) (field 5 9 w) (w / 2 ^ 0 % 2 ^ 9)
    (Nat.mod_lt _ (Nat.two_pow_pos _))
  rwa [e] at hd

/-! #### Format W (R24) -/

/-- The words of major opcode `op` are read by `f`, from the fields of the format. -/
def FormatW (op : Nat) (f : BitVec 1 → BitVec 1 → BitVec 5 → BitVec 5 → BitVec 5 → BitVec 2 → Nat → Except Reject Instr) : Prop :=
  ∀ w, w / 2 ^ 26 % 64 = op → decodeMajor w =
    f (field 1 25 w) (field 1 24 w) (field 5 19 w) (field 5 14 w) (field 5 9 w) (field 2 7 w) (w / 2 ^ 0 % 2 ^ 7)

theorem reads_W {op : Nat} {f : BitVec 1 → BitVec 1 → BitVec 5 → BitVec 5 → BitVec 5 → BitVec 2 → Nat → Except Reject Instr}
    {c : BitVec 1} {m : BitVec 1} {v : BitVec 5} {x : BitVec 5} {s : BitVec 5} {p : BitVec 2} {fn : Nat} {i : Instr}
    (hf : FormatW op f) (hop : op < 63) (e : encodeNat i = some (encW op c m v x s p fn)) (hfn : fn < 2 ^ 7)
    (h : f c m v x s p fn = .ok i) : Reads i := by
  refine Reads.of_word e ?_ (by unfold encW; omega)
  have hc : field 1 25 (encW op c m v x s p fn) = c := field_eq (by unfold encW; omega)
  have hm : field 1 24 (encW op c m v x s p fn) = m := field_eq (by unfold encW; omega)
  have hv : field 5 19 (encW op c m v x s p fn) = v := field_eq (by unfold encW; omega)
  have hx : field 5 14 (encW op c m v x s p fn) = x := field_eq (by unfold encW; omega)
  have hs : field 5 9 (encW op c m v x s p fn) = s := field_eq (by unfold encW; omega)
  have hp : field 2 7 (encW op c m v x s p fn) = p := field_eq (by unfold encW; omega)
  have hfield : encW op c m v x s p fn / 2 ^ 0 % 2 ^ 7 = fn := by unfold encW; omega
  rw [hf _ (by unfold encW; omega), hc, hm, hv, hx, hs, hp, hfield, h]

theorem encodes_W {op w : Nat} {f : BitVec 1 → BitVec 1 → BitVec 5 → BitVec 5 → BitVec 5 → BitVec 2 → Nat → Except Reject Instr}
    (h : w / 2 ^ 26 % 64 = op) (hw : w < 2 ^ 32)
    (hf : ∀ c m v x s p fn, fn < 2 ^ 7 → Encodes (f c m v x s p fn) (encW op c m v x s p fn)) :
    Encodes (f (field 1 25 w) (field 1 24 w) (field 5 19 w) (field 5 14 w) (field 5 9 w) (field 2 7 w) (w / 2 ^ 0 % 2 ^ 7)) w := by
  have e : encW op (field 1 25 w) (field 1 24 w) (field 5 19 w) (field 5 14 w) (field 5 9 w) (field 2 7 w) (w / 2 ^ 0 % 2 ^ 7) = w := by
    simp only [encW, toNat_field, ← h, major_of_lt hw,
      join_field w 25 1, join_field w 24 1, join_field w 19 5, join_field w 14 5, join_field w 9 5, join_field w 7 2]
    omega
  have hd := hf (field 1 25 w) (field 1 24 w) (field 5 19 w) (field 5 14 w) (field 5 9 w) (field 2 7 w) (w / 2 ^ 0 % 2 ^ 7)
    (Nat.mod_lt _ (Nat.two_pow_pos _))
  rwa [e] at hd

/-! #### Format M (R24) -/

/-- The words of major opcode `op` are read by `f`, from the fields of the format. -/
def FormatM (op : Nat) (f : BitVec 1 → BitVec 1 → BitVec 3 → BitVec 5 → BitVec 5 → Nat → Except Reject Instr) : Prop :=
  ∀ w, w / 2 ^ 26 % 64 = op → decodeMajor w =
    f (field 1 25 w) (field 1 24 w) (field 3 21 w) (field 5 16 w) (field 5 11 w) (w / 2 ^ 0 % 2 ^ 11)

theorem reads_M {op : Nat} {f : BitVec 1 → BitVec 1 → BitVec 3 → BitVec 5 → BitVec 5 → Nat → Except Reject Instr}
    {c : BitVec 1} {m : BitVec 1} {t : BitVec 3} {a : BitVec 5} {b : BitVec 5} {fn : Nat} {i : Instr}
    (hf : FormatM op f) (hop : op < 63) (e : encodeNat i = some (encM op c m t a b fn)) (hfn : fn < 2 ^ 11)
    (h : f c m t a b fn = .ok i) : Reads i := by
  refine Reads.of_word e ?_ (by unfold encM; omega)
  have hc : field 1 25 (encM op c m t a b fn) = c := field_eq (by unfold encM; omega)
  have hm : field 1 24 (encM op c m t a b fn) = m := field_eq (by unfold encM; omega)
  have ht : field 3 21 (encM op c m t a b fn) = t := field_eq (by unfold encM; omega)
  have ha : field 5 16 (encM op c m t a b fn) = a := field_eq (by unfold encM; omega)
  have hb : field 5 11 (encM op c m t a b fn) = b := field_eq (by unfold encM; omega)
  have hfield : encM op c m t a b fn / 2 ^ 0 % 2 ^ 11 = fn := by unfold encM; omega
  rw [hf _ (by unfold encM; omega), hc, hm, ht, ha, hb, hfield, h]

theorem encodes_M {op w : Nat} {f : BitVec 1 → BitVec 1 → BitVec 3 → BitVec 5 → BitVec 5 → Nat → Except Reject Instr}
    (h : w / 2 ^ 26 % 64 = op) (hw : w < 2 ^ 32)
    (hf : ∀ c m t a b fn, fn < 2 ^ 11 → Encodes (f c m t a b fn) (encM op c m t a b fn)) :
    Encodes (f (field 1 25 w) (field 1 24 w) (field 3 21 w) (field 5 16 w) (field 5 11 w) (w / 2 ^ 0 % 2 ^ 11)) w := by
  have e : encM op (field 1 25 w) (field 1 24 w) (field 3 21 w) (field 5 16 w) (field 5 11 w) (w / 2 ^ 0 % 2 ^ 11) = w := by
    simp only [encM, toNat_field, ← h, major_of_lt hw,
      join_field w 25 1, join_field w 24 1, join_field w 21 3, join_field w 16 5, join_field w 11 5]
    omega
  have hd := hf (field 1 25 w) (field 1 24 w) (field 3 21 w) (field 5 16 w) (field 5 11 w) (w / 2 ^ 0 % 2 ^ 11)
    (Nat.mod_lt _ (Nat.two_pow_pos _))
  rwa [e] at hd

/-! #### Format Q (R26) -/

/-- The words of major opcode `op` are read by `f`, from the fields of the format. -/
def FormatQ (op : Nat) (f : BitVec 3 → BitVec 5 → BitVec 5 → BitVec 4 → Nat → Except Reject Instr) : Prop :=
  ∀ w, w / 2 ^ 26 % 64 = op → decodeMajor w =
    f (field 3 23 w) (field 5 18 w) (field 5 13 w) (field 4 9 w) (w / 2 ^ 0 % 2 ^ 9)

theorem reads_Q {op : Nat} {f : BitVec 3 → BitVec 5 → BitVec 5 → BitVec 4 → Nat → Except Reject Instr}
    {q : BitVec 3} {a : BitVec 5} {b : BitVec 5} {k : BitVec 4} {fn : Nat} {i : Instr}
    (hf : FormatQ op f) (hop : op < 63) (e : encodeNat i = some (encQ op q a b k fn)) (hfn : fn < 2 ^ 9)
    (h : f q a b k fn = .ok i) : Reads i := by
  refine Reads.of_word e ?_ (by unfold encQ; omega)
  have hq : field 3 23 (encQ op q a b k fn) = q := field_eq (by unfold encQ; omega)
  have ha : field 5 18 (encQ op q a b k fn) = a := field_eq (by unfold encQ; omega)
  have hb : field 5 13 (encQ op q a b k fn) = b := field_eq (by unfold encQ; omega)
  have hk : field 4 9 (encQ op q a b k fn) = k := field_eq (by unfold encQ; omega)
  have hfield : encQ op q a b k fn / 2 ^ 0 % 2 ^ 9 = fn := by unfold encQ; omega
  rw [hf _ (by unfold encQ; omega), hq, ha, hb, hk, hfield, h]

theorem encodes_Q {op w : Nat} {f : BitVec 3 → BitVec 5 → BitVec 5 → BitVec 4 → Nat → Except Reject Instr}
    (h : w / 2 ^ 26 % 64 = op) (hw : w < 2 ^ 32)
    (hf : ∀ q a b k fn, fn < 2 ^ 9 → Encodes (f q a b k fn) (encQ op q a b k fn)) :
    Encodes (f (field 3 23 w) (field 5 18 w) (field 5 13 w) (field 4 9 w) (w / 2 ^ 0 % 2 ^ 9)) w := by
  have e : encQ op (field 3 23 w) (field 5 18 w) (field 5 13 w) (field 4 9 w) (w / 2 ^ 0 % 2 ^ 9) = w := by
    simp only [encQ, toNat_field, ← h, major_of_lt hw,
      join_field w 23 3, join_field w 18 5, join_field w 13 5, join_field w 9 4]
    omega
  have hd := hf (field 3 23 w) (field 5 18 w) (field 5 13 w) (field 4 9 w) (w / 2 ^ 0 % 2 ^ 9)
    (Nat.mod_lt _ (Nat.two_pow_pos _))
  rwa [e] at hd

/-! #### Format S (R27) -/

/-- The words of major opcode `op` are read by `f`, from the fields of the format. -/
def FormatS (op : Nat) (f : Nat → BitVec 5 → BitVec 5 → BitVec 6 → Except Reject Instr) : Prop :=
  ∀ w, w / 2 ^ 26 % 64 = op → decodeMajor w = f (w / 2 ^ 16 % 2 ^ 10) (field 5 11 w) (field 5 6 w) (field 6 0 w)

theorem reads_S {op : Nat} {f : Nat → BitVec 5 → BitVec 5 → BitVec 6 → Except Reject Instr}
    {d : BitVec 5} {a : BitVec 5} {n : BitVec 6} {fn : Nat} {i : Instr}
    (hf : FormatS op f) (hop : op < 63) (e : encodeNat i = some (encS op fn d a n)) (hfn : fn < 2 ^ 10)
    (h : f fn d a n = .ok i) : Reads i := by
  refine Reads.of_word e ?_ (by unfold encS; omega)
  have hd : field 5 11 (encS op fn d a n) = d := field_eq (by unfold encS; omega)
  have ha : field 5 6 (encS op fn d a n) = a := field_eq (by unfold encS; omega)
  have hn : field 6 0 (encS op fn d a n) = n := field_eq (by unfold encS; omega)
  have hfield : encS op fn d a n / 2 ^ 16 % 2 ^ 10 = fn := by unfold encS; omega
  rw [hf _ (by unfold encS; omega), hd, ha, hn, hfield, h]

theorem encodes_S {op w : Nat} {f : Nat → BitVec 5 → BitVec 5 → BitVec 6 → Except Reject Instr}
    (h : w / 2 ^ 26 % 64 = op) (hw : w < 2 ^ 32)
    (hf : ∀ fn d a n, fn < 2 ^ 10 → Encodes (f fn d a n) (encS op fn d a n)) :
    Encodes (f (w / 2 ^ 16 % 2 ^ 10) (field 5 11 w) (field 5 6 w) (field 6 0 w)) w := by
  have e : encS op (w / 2 ^ 16 % 2 ^ 10) (field 5 11 w) (field 5 6 w) (field 6 0 w) = w := by
    simp only [encS, toNat_field]; omega
  have hd := hf (w / 2 ^ 16 % 2 ^ 10) (field 5 11 w) (field 5 6 w) (field 6 0 w) (Nat.mod_lt _ (Nat.two_pow_pos _))
  rwa [e] at hd

/-! #### The stirrup word (R31) -/

/-- The words of major opcode `op` are read by `f`, from the fields of the format. -/
def FormatP (op : Nat) (f : BitVec 4 → BitVec 1 → BitVec 5 → BitVec 16 → Except Reject Instr) : Prop :=
  ∀ w, w / 2 ^ 26 % 64 = op → decodeMajor w = f (field 4 22 w) (field 1 21 w) (field 5 16 w) (field 16 0 w)

theorem reads_P {op : Nat} {f : BitVec 4 → BitVec 1 → BitVec 5 → BitVec 16 → Except Reject Instr}
    {k : BitVec 4} {dc : BitVec 1} {v : BitVec 5} {z : BitVec 16} {i : Instr}
    (hf : FormatP op f) (hop : op < 63) (e : encodeNat i = some (encP op k dc v z))
    (h : f k dc v z = .ok i) : Reads i := by
  refine Reads.of_word e ?_ (by unfold encP; omega)
  have hk : field 4 22 (encP op k dc v z) = k := field_eq (by unfold encP; omega)
  have hdc : field 1 21 (encP op k dc v z) = dc := field_eq (by unfold encP; omega)
  have hv : field 5 16 (encP op k dc v z) = v := field_eq (by unfold encP; omega)
  have hz : field 16 0 (encP op k dc v z) = z := field_eq (by unfold encP; omega)
  rw [hf _ (by unfold encP; omega), hk, hdc, hv, hz, h]

theorem encodes_P {op w : Nat} {f : BitVec 4 → BitVec 1 → BitVec 5 → BitVec 16 → Except Reject Instr}
    (h : w / 2 ^ 26 % 64 = op) (hw : w < 2 ^ 32) (hf : ∀ k dc v z, Encodes (f k dc v z) (encP op k dc v z)) :
    Encodes (f (field 4 22 w) (field 1 21 w) (field 5 16 w) (field 16 0 w)) w := by
  have e : encP op (field 4 22 w) (field 1 21 w) (field 5 16 w) (field 16 0 w) = w := by
    simp only [encP, toNat_field, ← h, major_of_lt hw, join_field w 22 4, join_field w 21 1, join_field w 16 5]
    omega
  have hd := hf (field 4 22 w) (field 1 21 w) (field 5 16 w) (field 16 0 w)
  rwa [e] at hd

/-! ### The majors (R19), and fields that the encoder splits or widens -/

theorem major01 : FormatA 0x01 decA01 := fun w h => by delta decodeMajor; generalize w / 2 ^ 26 % 64 = m at h; subst h; rfl
theorem major02 : FormatA 0x02 decA02 := fun w h => by delta decodeMajor; generalize w / 2 ^ 26 % 64 = m at h; subst h; rfl
theorem major03 : FormatA 0x03 decA03 := fun w h => by delta decodeMajor; generalize w / 2 ^ 26 % 64 = m at h; subst h; rfl
theorem major04 : FormatI 0x04 decI04 := fun w h => by delta decodeMajor; generalize w / 2 ^ 26 % 64 = m at h; subst h; rfl
theorem major05 : FormatI 0x05 decI05 := fun w h => by delta decodeMajor; generalize w / 2 ^ 26 % 64 = m at h; subst h; rfl
theorem major06 : FormatI 0x06 decI06 := fun w h => by delta decodeMajor; generalize w / 2 ^ 26 % 64 = m at h; subst h; rfl
theorem major07 : FormatI 0x07 decI07 := fun w h => by delta decodeMajor; generalize w / 2 ^ 26 % 64 = m at h; subst h; rfl
theorem major08 : FormatI 0x08 decI08 := fun w h => by delta decodeMajor; generalize w / 2 ^ 26 % 64 = m at h; subst h; rfl
theorem major09 : FormatI 0x09 decI09 := fun w h => by delta decodeMajor; generalize w / 2 ^ 26 % 64 = m at h; subst h; rfl
theorem major0A : FormatI 0x0a decI0A := fun w h => by delta decodeMajor; generalize w / 2 ^ 26 % 64 = m at h; subst h; rfl
theorem major0B : FormatI 0x0b decI0B := fun w h => by delta decodeMajor; generalize w / 2 ^ 26 % 64 = m at h; subst h; rfl
theorem major0C : FormatI 0x0c decI0C := fun w h => by delta decodeMajor; generalize w / 2 ^ 26 % 64 = m at h; subst h; rfl
theorem major0D : FormatI 0x0d decI0D := fun w h => by delta decodeMajor; generalize w / 2 ^ 26 % 64 = m at h; subst h; rfl
theorem major0E : FormatI 0x0e decI0E := fun w h => by delta decodeMajor; generalize w / 2 ^ 26 % 64 = m at h; subst h; rfl
theorem major0F : FormatI 0x0f decI0F := fun w h => by delta decodeMajor; generalize w / 2 ^ 26 % 64 = m at h; subst h; rfl
theorem major10 : FormatI 0x10 decI10 := fun w h => by delta decodeMajor; generalize w / 2 ^ 26 % 64 = m at h; subst h; rfl
theorem major11 : FormatI 0x11 decI11 := fun w h => by delta decodeMajor; generalize w / 2 ^ 26 % 64 = m at h; subst h; rfl
theorem major12 : FormatI 0x12 decI12 := fun w h => by delta decodeMajor; generalize w / 2 ^ 26 % 64 = m at h; subst h; rfl
theorem major13 : FormatI 0x13 decI13 := fun w h => by delta decodeMajor; generalize w / 2 ^ 26 % 64 = m at h; subst h; rfl
theorem major14 : FormatI 0x14 decI14 := fun w h => by delta decodeMajor; generalize w / 2 ^ 26 % 64 = m at h; subst h; rfl
theorem major15 : FormatI 0x15 decI15 := fun w h => by delta decodeMajor; generalize w / 2 ^ 26 % 64 = m at h; subst h; rfl
theorem major16 : FormatU 0x16 decU16 := fun w h => by delta decodeMajor; generalize w / 2 ^ 26 % 64 = m at h; subst h; rfl
theorem major17 : FormatU 0x17 decU17 := fun w h => by delta decodeMajor; generalize w / 2 ^ 26 % 64 = m at h; subst h; rfl
theorem major18 : FormatB 0x18 decB18 := fun w h => by delta decodeMajor; generalize w / 2 ^ 26 % 64 = m at h; subst h; rfl
theorem major19 : FormatB 0x19 decB19 := fun w h => by delta decodeMajor; generalize w / 2 ^ 26 % 64 = m at h; subst h; rfl
theorem major1A : FormatB 0x1a decB1A := fun w h => by delta decodeMajor; generalize w / 2 ^ 26 % 64 = m at h; subst h; rfl
theorem major1B : FormatB 0x1b decB1B := fun w h => by delta decodeMajor; generalize w / 2 ^ 26 % 64 = m at h; subst h; rfl
theorem major1C : FormatB 0x1c decB1C := fun w h => by delta decodeMajor; generalize w / 2 ^ 26 % 64 = m at h; subst h; rfl
theorem major1D : FormatB 0x1d decB1D := fun w h => by delta decodeMajor; generalize w / 2 ^ 26 % 64 = m at h; subst h; rfl
theorem major1E : FormatB 0x1e decB1E := fun w h => by delta decodeMajor; generalize w / 2 ^ 26 % 64 = m at h; subst h; rfl
theorem major1F : FormatJ 0x1f decJ1F := fun w h => by delta decodeMajor; generalize w / 2 ^ 26 % 64 = m at h; subst h; rfl
theorem major20 : FormatJ 0x20 decJ20 := fun w h => by delta decodeMajor; generalize w / 2 ^ 26 % 64 = m at h; subst h; rfl
theorem major28 : FormatV 0x28 decV28 := fun w h => by delta decodeMajor; generalize w / 2 ^ 26 % 64 = m at h; subst h; rfl
theorem major29 : FormatV 0x29 decV29 := fun w h => by delta decodeMajor; generalize w / 2 ^ 26 % 64 = m at h; subst h; rfl
theorem major2A : FormatV 0x2a decV2A := fun w h => by delta decodeMajor; generalize w / 2 ^ 26 % 64 = m at h; subst h; rfl
theorem major2B : FormatV 0x2b decV2B := fun w h => by delta decodeMajor; generalize w / 2 ^ 26 % 64 = m at h; subst h; rfl
theorem major2C : FormatW 0x2c decW2C := fun w h => by delta decodeMajor; generalize w / 2 ^ 26 % 64 = m at h; subst h; rfl
theorem major2D : FormatW 0x2d decW2D := fun w h => by delta decodeMajor; generalize w / 2 ^ 26 % 64 = m at h; subst h; rfl
theorem major2E : FormatW 0x2e decW2E := fun w h => by delta decodeMajor; generalize w / 2 ^ 26 % 64 = m at h; subst h; rfl
theorem major2F : FormatM 0x2f decM2F := fun w h => by delta decodeMajor; generalize w / 2 ^ 26 % 64 = m at h; subst h; rfl
theorem major30 : FormatQ 0x30 decQ30 := fun w h => by delta decodeMajor; generalize w / 2 ^ 26 % 64 = m at h; subst h; rfl
theorem major31 : FormatQ 0x31 decQ31 := fun w h => by delta decodeMajor; generalize w / 2 ^ 26 % 64 = m at h; subst h; rfl
theorem major32 : FormatQ 0x32 decQ32 := fun w h => by delta decodeMajor; generalize w / 2 ^ 26 % 64 = m at h; subst h; rfl
theorem major33 : FormatQ 0x33 decQ33 := fun w h => by delta decodeMajor; generalize w / 2 ^ 26 % 64 = m at h; subst h; rfl
theorem major34 : FormatS 0x34 decS34 := fun w h => by delta decodeMajor; generalize w / 2 ^ 26 % 64 = m at h; subst h; rfl
theorem major35 : FormatS 0x35 decS35 := fun w h => by delta decodeMajor; generalize w / 2 ^ 26 % 64 = m at h; subst h; rfl
theorem major3E : FormatP 0x3e decP3E := fun w h => by delta decodeMajor; generalize w / 2 ^ 26 % 64 = m at h; subst h; rfl

theorem scope_of_fn (s : BitVec 3) (k : Nat) (hk : k < 256) :
    BitVec.ofNat 3 ((s.toNat * 256 + k) / 256) = s ∧ (s.toNat * 256 + k) % 256 = k := by
  have e : (s.toNat * 256 + k) / 256 = s.toNat := by omega
  exact ⟨by rw [e, BitVec.ofNat_toNat, BitVec.setWidth_eq], by omega⟩

theorem order_of_fn (s : BitVec 3) (k : Nat) (hk : k < 8) :
    s.toNat * 8 + k < 64 ∧ BitVec.ofNat 3 ((s.toNat * 8 + k) / 8) = s ∧ (s.toNat * 8 + k) % 8 = k := by
  have e : (s.toNat * 8 + k) / 8 = s.toNat := by omega
  exact ⟨by omega, by rw [e, BitVec.ofNat_toNat, BitVec.setWidth_eq], by omega⟩

theorem shift_lt (s : BitVec 6) : s.toNat % 65536 = s.toNat ∧ s.toNat < 64 := by omega

theorem selector_lt (n : BitVec 4) : n.toNat % 64 = n.toNat ∧ n.toNat < 16 := by omega

/-- The number of a control register stands in two fields, the low bits above bit 0 of the second (R27). -/
theorem crn_of_fields (c : BitVec 10) :
    BitVec.ofNat 10 (c.toNat / 32 % 32 * 32 + c.toNat % 32 * 2 % 64 / 2) = c := by
  apply BitVec.eq_of_toNat_eq
  rw [BitVec.toNat_ofNat]
  omega

/-- Every well-formed instruction that has a word is read back from it. -/
theorem reads_of_wf {i : Instr} (hwf : i.wf = true) : Reads i := by
  cases i
  case add | sub | and | or | xor | sll | srl | sra | slt | sltu | min | max | mul | mulh | mulhu | div | divu
      | rem | remu | clz | ctz | popc | sextb | sexth | sextw | zexth | zextw =>
    exact reads_A major01 (by decide) rfl (by decide) rfl
  case faddd | fsubd | fmuld | fdivd | fsqrtd | fmad | fmind | fmaxd | feqd | fltd | fled | fadds | fmuls | fmas
      | fcvtsd | fcvtds | fcvtld | fcvtdl =>
    exact reads_A major02 (by decide) rfl (by decide) rfl
  case amoadd | amomin | amomax | amoand | amoor | amoxor | amoswap | amocas =>
    exact reads_A major03 (by decide) rfl (by omega) (by simp [decA03, scope_of_fn, ifRange_of_wf hwf])
  case addi =>
    exact reads_I major04 (by decide) rfl rfl
  case andi =>
    exact reads_I major05 (by decide) rfl rfl
  case ori =>
    exact reads_I major06 (by decide) rfl rfl
  case slli =>
    exact reads_I major07 (by decide) rfl (by simp [decI07, shift_lt])
  case srli =>
    exact reads_I major08 (by decide) rfl (by simp [decI08, shift_lt])
  case srai =>
    exact reads_I major09 (by decide) rfl (by simp [decI09, shift_lt])
  case jalr =>
    exact reads_I major0A (by decide) rfl rfl
  case lb =>
    exact reads_I major0B (by decide) rfl rfl
  case lbu =>
    exact reads_I major0C (by decide) rfl rfl
  case lh =>
    exact reads_I major0D (by decide) rfl rfl
  case lhu =>
    exact reads_I major0E (by decide) rfl rfl
  case lw =>
    exact reads_I major0F (by decide) rfl rfl
  case lwu =>
    exact reads_I major10 (by decide) rfl rfl
  case ld =>
    exact reads_I major11 (by decide) rfl rfl
  case sb =>
    exact reads_I major12 (by decide) rfl rfl
  case sh =>
    exact reads_I major13 (by decide) rfl rfl
  case sw =>
    exact reads_I major14 (by decide) rfl rfl
  case sd =>
    exact reads_I major15 (by decide) rfl rfl
  case lui =>
    exact reads_U major16 (by decide) rfl rfl
  case auipc =>
    exact reads_U major17 (by decide) rfl rfl
  case beq =>
    exact reads_B major18 (by decide) rfl rfl
  case bne =>
    exact reads_B major19 (by decide) rfl rfl
  case blt =>
    exact reads_B major1A (by decide) rfl rfl
  case bge =>
    exact reads_B major1B (by decide) rfl rfl
  case bltu =>
    exact reads_B major1C (by decide) rfl rfl
  case bgeu =>
    exact reads_B major1D (by decide) rfl rfl
  case bcnt =>
    exact reads_B major1E (by decide) rfl rfl
  case j =>
    exact reads_J major1F (by decide) rfl rfl
  case jal =>
    exact reads_J major20 (by decide) rfl rfl
  case stir | stirCopy =>
    exact reads_P major3E (by decide) rfl (ifRange_of_wf hwf)
  case vadd | vsub | vmul | vmulh | vmin | vmax | vand | vor | vxor | vsadd | vssub | vmacc | vaddx | vmulx
      | vaddi | vslli | vsrli | vsrai | vsel | vmvx =>
    exact reads_V major28 (by decide) rfl (by decide) rfl
  case vcmpeq | vcmplt | vcmple =>
    exact reads_V major28 (by decide) rfl (by decide) (ifRange_of_wf hwf)
  case vfadd | vfsub | vfmul | vfdiv | vfsqrt | vfma | vfmin | vfmax | vfmulx | vfsmul | vfsmacc =>
    exact reads_V major29 (by decide) rfl (by decide) rfl
  case vfcmpeq | vfcmplt | vfcmple =>
    exact reads_V major29 (by decide) rfl (by decide) (ifRange_of_wf hwf)
  case vfcvt | vfcvti | vicvtf | vicvt | vredsum | vredmax | vfredsum | vfredmax | vtopk | vperm | vslideup
      | vslidedn | vcompress | viota | vskv =>
    exact reads_V major2A (by decide) rfl (by decide) rfl
  case kand | kor | kxor | kandn | knot | kbefore | kset =>
    exact reads_V major2B (by decide) rfl (by decide) (ifRange_of_wf hwf)
  case vld | vlds | vldx | vldff | vlr =>
    exact reads_W major2C (by decide) rfl (by decide) rfl
  case vqrd | vlrPredicate =>
    exact reads_W major2C (by decide) rfl (by decide) (ifRange_of_wf hwf)
  case vst | vsts | vstx | vsr =>
    exact reads_W major2D (by decide) rfl (by decide) rfl
  case vsrPredicate =>
    exact reads_W major2D (by decide) rfl (by decide) (ifRange_of_wf hwf)
  case vamoadd | vamomin | vamomax | vamoand | vamoor | vamoxor | vamoswap | vamocas =>
    exact reads_W major2E (by decide) rfl (by omega) (by simp only [decW2E, order_of_fn, Nat.reduceLT, if_true, ifRange_of_wf hwf])
  case mmcpy | mmadd | mmsub | mmmul | mmmin | mmmax =>
    exact reads_W major2E (by decide) rfl (by decide) rfl
  case tshp | mxacc | mopk | mxsub | mzero | mdrain | mrow | tsave | trest =>
    exact reads_M major2F (by decide) rfl (by decide) rfl
  case qbind | qrd | sbar | wmark | chdemote | pref =>
    exact reads_Q major30 (by decide) rfl (by decide) rfl
  case btcopy | btgather | kwait =>
    exact reads_Q major30 (by decide) rfl (by decide) (ifRange_of_wf hwf)
  case nsq | hcmv | hcfire =>
    exact reads_Q major31 (by decide) rfl (by decide) (ifRange_of_wf hwf)
  case nsstat | hcage | hcrank | hccommit =>
    exact reads_Q major31 (by decide) rfl (by decide) rfl
  case wlopen | wlpush | wlpop | wldone | wlstat | wlfloor =>
    exact reads_Q major32 (by decide) rfl (by decide) rfl
  case glaunch | gwait | gbar | hyield | gexit =>
    exact reads_Q major33 (by decide) rfl (by decide) rfl
  case xred =>
    exact reads_Q major33 (by decide) rfl (by decide) (ifRange_of_wf hwf)
  case lslot | ptag | pstrip | rpatchWrite | rpatchMove | wattestReport | wattestAllow | wattestLog
      | wattestGrant | wattestRevoke | wbindOpen | wbindNewver | wbindPlace | wbindSeal | wbindInstall
      | wbindErase | wbindClose | slotsync =>
    exact reads_S major34 (by decide) rfl (by decide) rfl
  case pchk =>
    exact reads_S major34 (by decide) rfl (by decide) (by simp [decS34, ifZero, selector_lt])
  case ecall | ebreak | svl | svlW | wfe | csync | vmvxs | eret | fence | fenceSv | fenceVs | fenceSvVs =>
    exact reads_S major35 (by decide) rfl (by decide) rfl
  case mtcr =>
    exact reads_S major35 (by decide) rfl (by decide) (by simp [decS35, ifZero, crn_of_fields, ifRange_of_wf hwf])
  case mfcr =>
    exact reads_S major35 (by decide) rfl (by decide) (by simp [decS35, ifZero, crn_of_fields, ifRange_of_wf hwf])
  case kpop | kfirst =>
    exact reads_S major35 (by decide) rfl (by decide) (ifRange_of_wf hwf)
  all_goals exact Reads.of_none rfl

/-! ### What the decoder reads is written back -/

theorem decA01_encodes (d a b : BitVec 5) (fn : Nat) : Encodes (decA01 d a b fn) (encA 0x01 d a b fn) := by
  unfold decA01
  split
  case h_20 | h_21 | h_22 | h_23 | h_24 | h_25 | h_26 | h_27 => exact .unused fun h => by subst h; exact .ok rfl rfl
  case h_28 => exact .error
  all_goals exact .ok rfl rfl

theorem decA02_encodes (d a b : BitVec 5) (fn : Nat) : Encodes (decA02 d a b fn) (encA 0x02 d a b fn) := by
  unfold decA02
  split
  case h_5 | h_15 | h_16 | h_17 | h_18 => exact .unused fun h => by subst h; exact .ok rfl rfl
  case h_19 => exact .error
  all_goals exact .ok rfl rfl

theorem decA03_encodes (d a b : BitVec 5) (fn : Nat) (h : fn < 2 ^ 11) :
    Encodes (decA03 d a b fn) (encA 0x03 d a b fn) := by
  have e (k : Nat) (hk : fn % 256 = k) : (BitVec.ofNat 3 (fn / 256)).toNat * 256 + k = fn := by
    rw [BitVec.toNat_ofNat]; omega
  unfold decA03
  split
  case h_9 => exact .error
  all_goals exact .range (congrArg (fun n => some (encA 0x03 d a b n)) (e _ ‹_›))

theorem decV28_encodes (c m : BitVec 1) (d a b : BitVec 5) (fn : Nat) :
    Encodes (decV28 c m d a b fn) (encV 0x28 c m d a b fn) := by
  unfold decV28
  split
  case h_19 | h_20 | h_21 => exact .range rfl
  case h_23 => exact .unused fun h => by subst h; exact .ok rfl rfl
  case h_24 => exact .error
  all_goals exact .ok rfl rfl

theorem decV29_encodes (c m : BitVec 1) (d a b : BitVec 5) (fn : Nat) :
    Encodes (decV29 c m d a b fn) (encV 0x29 c m d a b fn) := by
  unfold decV29
  split
  case h_5 => exact .unused fun h => by subst h; exact .ok rfl rfl
  case h_9 | h_10 | h_11 => exact .range rfl
  case h_15 => exact .error
  all_goals exact .ok rfl rfl

theorem decV2A_encodes (c m : BitVec 1) (d a b : BitVec 5) (fn : Nat) :
    Encodes (decV2A c m d a b fn) (encV 0x2a c m d a b fn) := by
  unfold decV2A
  split
  case h_9 | h_10 | h_11 | h_12 => exact .ok rfl rfl
  case h_14 => exact .unused2 fun ha hb => by subst ha hb; exact .ok rfl rfl
  case h_16 => exact .error
  all_goals exact .unused fun h => by subst h; exact .ok rfl rfl

theorem decV2B_encodes (c m : BitVec 1) (d a b : BitVec 5) (fn : Nat) :
    Encodes (decV2B c m d a b fn) (encV 0x2b c m d a b fn) := by
  unfold decV2B
  split
  case h_1 | h_2 | h_3 | h_4 => exact .range rfl
  case h_5 | h_6 => exact .unused fun h => by subst h; exact .range rfl
  case h_7 => exact .unused2 fun ha hb => by subst ha hb; exact .range rfl
  case h_8 => exact .error

theorem decW2C_encodes (c m : BitVec 1) (v x s : BitVec 5) (p : BitVec 2) (fn : Nat) :
    Encodes (decW2C c m v x s p fn) (encW 0x2c c m v x s p fn) := by
  unfold decW2C
  split
  case h_1 | h_4 => exact .unused fun h => by subst h; exact .ok rfl rfl
  case h_2 | h_3 => exact .ok rfl rfl
  case h_5 => exact .unused fun h => by subst h; exact .range rfl
  case h_6 =>
    refine .unused2 fun hm hp => ?_
    subst hm hp
    split
    · next h => subst h; exact .ok rfl rfl
    · split
      · next h => subst h; exact .range rfl
      · exact .error
  case h_7 => exact .error

theorem decW2D_encodes (c m : BitVec 1) (v x s : BitVec 5) (p : BitVec 2) (fn : Nat) :
    Encodes (decW2D c m v x s p fn) (encW 0x2d c m v x s p fn) := by
  unfold decW2D
  split
  case h_1 => exact .unused fun h => by subst h; exact .ok rfl rfl
  case h_2 | h_3 => exact .ok rfl rfl
  case h_4 =>
    refine .unused2 fun hm hp => ?_
    subst hm hp
    split
    · next h => subst h; exact .ok rfl rfl
    · split
      · next h => subst h; exact .range rfl
      · exact .error
  case h_5 => exact .error

theorem decW2E_encodes (c m : BitVec 1) (v x s : BitVec 5) (p : BitVec 2) (fn : Nat) :
    Encodes (decW2E c m v x s p fn) (encW 0x2e c m v x s p fn) := by
  unfold decW2E
  split
  · next h =>
    have e (k : Nat) (hk : fn % 8 = k) : (BitVec.ofNat 3 (fn / 8)).toNat * 8 + k = fn := by
      rw [BitVec.toNat_ofNat]; omega
    have into {i : Instr} {k : Nat} (hk : fn % 8 = k)
        (hi : encodeNat i = some (encW 0x2e c m v x s p ((BitVec.ofNat 3 (fn / 8)).toNat * 8 + k))) :
        Encodes (ifRange i) (encW 0x2e c m v x s p fn) := .range (by rw [hi, e k hk])
    split
    case h_8 => exact into (k := 7) (by simp only [imp_false] at *; omega) rfl
    all_goals exact into ‹_› rfl
  · split
    case h_1 => exact .unused fun h => by subst h; exact .ok rfl rfl
    case h_7 => exact .error
    all_goals exact .ok rfl rfl

theorem decM2F_encodes (c m : BitVec 1) (t : BitVec 3) (a b : BitVec 5) (fn : Nat) :
    Encodes (decM2F c m t a b fn) (encM 0x2f c m t a b fn) := by
  unfold decM2F
  split
  case h_1 | h_5 => exact .unused3 fun hx hy hz => by subst hx hy hz; exact .ok rfl rfl
  case h_2 | h_3 | h_4 => exact .ok rfl rfl
  case h_6 | h_7 => exact .unused fun h => by subst h; exact .ok rfl rfl
  case h_8 | h_9 => exact .unused2 fun hx hy => by subst hx hy; exact .ok rfl rfl
  case h_10 => exact .error

theorem decQ30_encodes (q : BitVec 3) (a b : BitVec 5) (k : BitVec 4) (fn : Nat) :
    Encodes (decQ30 q a b k fn) (encQ 0x30 q a b k fn) := by
  unfold decQ30
  split
  case h_1 => exact .unused fun h => by subst h; exact .ok rfl rfl
  case h_2 | h_3 | h_6 => exact .unused fun h => by subst h; exact .range rfl
  case h_4 | h_9 => exact .unused2 fun hx hy => by subst hx hy; exact .ok rfl rfl
  case h_5 | h_7 | h_8 => exact .unused3 fun hx hy hz => by subst hx hy hz; exact .ok rfl rfl
  case h_10 => exact .error

theorem decQ31_encodes (q : BitVec 3) (a b : BitVec 5) (k : BitVec 4) (fn : Nat) :
    Encodes (decQ31 q a b k fn) (encQ 0x31 q a b k fn) := by
  unfold decQ31
  split
  case h_1 | h_3 | h_4 => exact .unused fun h => by subst h; exact .range rfl
  case h_2 | h_6 => exact .unused2 fun hx hy => by subst hx hy; exact .ok rfl rfl
  case h_5 | h_7 => exact .unused3 fun hx hy hz => by subst hx hy hz; exact .ok rfl rfl
  case h_8 => exact .error

theorem decQ32_encodes (q : BitVec 3) (a b : BitVec 5) (k : BitVec 4) (fn : Nat) :
    Encodes (decQ32 q a b k fn) (encQ 0x32 q a b k fn) := by
  unfold decQ32
  split
  case h_4 => exact .unused3 fun hx hy hz => by subst hx hy hz; exact .ok rfl rfl
  case h_7 => exact .error
  all_goals exact .unused2 fun hx hy => by subst hx hy; exact .ok rfl rfl

theorem decQ33_encodes (q : BitVec 3) (a b : BitVec 5) (k : BitVec 4) (fn : Nat) :
    Encodes (decQ33 q a b k fn) (encQ 0x33 q a b k fn) := by
  unfold decQ33
  split
  case h_1 | h_2 => exact .unused2 fun hx hy => by subst hx hy; exact .ok rfl rfl
  case h_3 => exact .unused3 fun hx hy hz => by subst hx hy hz; exact .ok rfl rfl
  case h_4 => exact .unused2 fun hx hy => by subst hx hy; exact .range rfl
  case h_5 | h_6 =>
    refine .zero fun h => ?_
    simp only [Bool.and_eq_true, beq_iff_eq] at h
    obtain ⟨⟨⟨rfl, rfl⟩, rfl⟩, rfl⟩ := h
    exact .ok rfl rfl
  case h_7 => exact .error

/-- A field is known by its number. -/
theorem eq_ofNat_of_toNat {k n : Nat} {x : BitVec k} (h : x.toNat = n) : x = BitVec.ofNat k n := by
  rw [← h, BitVec.ofNat_toNat, BitVec.setWidth_eq]

theorem selector_of_field {n : BitVec 6} (h : n.toNat < 16) : BitVec.ofNat 6 (BitVec.ofNat 4 n.toNat).toNat = n := by
  apply BitVec.eq_of_toNat_eq
  simp only [BitVec.toNat_ofNat]
  omega

theorem decS34_encodes (d a : BitVec 5) (n : BitVec 6) (fn : Nat) :
    Encodes (decS34 fn d a n) (encS 0x34 fn d a n) := by
  unfold decS34
  split
  case h_1 => exact .ok rfl rfl
  case h_2 =>
    exact .zero fun h => .ok rfl (congrArg (fun n => some (encS 0x34 1 d a n)) (selector_of_field (of_decide_eq_true h)))
  case h_3 | h_4 => exact .unused fun h => by subst h; exact .ok rfl rfl
  case h_5 =>
    split
    · next h => subst h; exact .ok rfl rfl
    · split
      · next h => subst h; exact .ok rfl rfl
      · exact .error
  case h_6 => exact .unused3 fun hx hy hz => by subst hx hy hz; exact .ok rfl rfl
  case h_7 =>
    split
    case h_6 => exact .error
    all_goals rw [eq_ofNat_of_toNat (x := n) ‹_›]; exact .ok rfl rfl
  case h_8 =>
    split
    case h_8 => exact .error
    all_goals rw [eq_ofNat_of_toNat (x := n) ‹_›]; exact .ok rfl rfl
  case h_9 => exact .error

theorem fields_of_crn {a : BitVec 5} {n : BitVec 6} (h : n.toNat % 2 = 0) :
    let c := BitVec.ofNat 10 (a.toNat * 32 + n.toNat / 2)
    BitVec.ofNat 5 (c.toNat / 32) = a ∧ BitVec.ofNat 6 (c.toNat % 32 * 2) = n := by
  intro c
  constructor <;> apply BitVec.eq_of_toNat_eq <;> simp only [c, BitVec.toNat_ofNat] <;> omega

theorem decS35_encodes (d a : BitVec 5) (n : BitVec 6) (fn : Nat) :
    Encodes (decS35 fn d a n) (encS 0x35 fn d a n) := by
  have crn (h : n.toNat % 2 = 0) (k : Nat) : _ = some (encS 0x35 k d a n) :=
    congrArg₂ (fun x y => some (encS 0x35 k d x y)) (fields_of_crn (a := a) h).1 (fields_of_crn (a := a) h).2
  unfold decS35
  split
  case h_1 => exact .ok rfl rfl
  case h_2 => exact .unused3 fun hx hy hz => by subst hx hy hz; exact .ok rfl rfl
  case h_3 => exact .unused2 fun hx hy => by subst hx hy; exact .ok rfl rfl
  case h_4 | h_5 => exact .zero fun h => .range (crn (of_decide_eq_true h) _)
  case h_6 =>
    refine .zero fun h => ?_
    have h2 := of_decide_eq_true h
    split
    · next h => subst h; exact .ok rfl rfl
    · next h0 =>
      obtain rfl : n = 1 := by bv_omega
      exact .ok rfl rfl
  case h_7 =>
    refine .zero fun h => ?_
    simp only [Bool.and_eq_true, beq_iff_eq, decide_eq_true_eq] at h
    obtain ⟨⟨rfl, rfl⟩, h4⟩ := h
    split
    case h_4 =>
      have h3 : n.toNat = 3 := by simp only [imp_false] at *; omega
      rw [eq_ofNat_of_toNat h3]
      exact .ok rfl rfl
    all_goals rw [eq_ofNat_of_toNat (x := n) ‹_›]; exact .ok rfl rfl
  case h_8 | h_9 | h_10 => exact .unused fun h => by subst h; exact .ok rfl rfl
  case h_11 | h_12 => exact .unused fun h => by subst h; exact .range rfl
  case h_13 => exact .error

theorem decP3E_encodes (k : BitVec 4) (dc : BitVec 1) (v : BitVec 5) (z : BitVec 16) :
    Encodes (decP3E k dc v z) (encP 0x3e k dc v z) := by
  unfold decP3E
  refine .unused fun h => ?_
  subst h
  split
  · next h => subst h; exact .range rfl
  · obtain rfl : dc = 0 := by bv_omega
    exact .unused fun h => by subst h; exact .range rfl

/-- A shift amount below 64 stands in the immediate field. -/
theorem shift_encodes {d a : BitVec 5} {z : BitVec 16} {op : Nat} {i : Instr} (hw : i.wf = true)
    (hi : encodeNat i = some (encI op d a (BitVec.ofNat 16 (BitVec.ofNat 6 z.toNat).toNat))) :
    Encodes (if z.toNat < 64 then .ok i else .error .operand) (encI op d a z) := by
  split
  · next h =>
    have e : BitVec.ofNat 16 (BitVec.ofNat 6 z.toNat).toNat = z := by
      apply BitVec.eq_of_toNat_eq
      simp only [BitVec.toNat_ofNat]
      omega
    rw [e] at hi
    exact .ok hw hi
  · exact .error

theorem decB1E_encodes (a b : BitVec 5) (o : BitVec 16) : Encodes (decB1E a b o) (encB 0x1e a b o) :=
  .unused fun h => by subst h; exact .ok rfl rfl

/-- What a word of a format other than H is read as is well formed, and has that word. -/
theorem decodeMajor_encodes {w : Nat} (hw : w < 2 ^ 32) : Encodes (decodeMajor w) w := by
  unfold decodeMajor
  split
  · next h => exact encodes_A h hw (fun a b c d _ => decA01_encodes a b c d)
  · next h => exact encodes_A h hw (fun a b c d _ => decA02_encodes a b c d)
  · next h => exact encodes_A h hw (fun d a b fn h => decA03_encodes d a b fn h)
  · next h => exact encodes_I h hw (fun _ _ _ => .ok rfl rfl)
  · next h => exact encodes_I h hw (fun _ _ _ => .ok rfl rfl)
  · next h => exact encodes_I h hw (fun _ _ _ => .ok rfl rfl)
  · next h => exact encodes_I h hw (fun _ _ _ => shift_encodes rfl rfl)
  · next h => exact encodes_I h hw (fun _ _ _ => shift_encodes rfl rfl)
  · next h => exact encodes_I h hw (fun _ _ _ => shift_encodes rfl rfl)
  · next h => exact encodes_I h hw (fun _ _ _ => .ok rfl rfl)
  · next h => exact encodes_I h hw (fun _ _ _ => .ok rfl rfl)
  · next h => exact encodes_I h hw (fun _ _ _ => .ok rfl rfl)
  · next h => exact encodes_I h hw (fun _ _ _ => .ok rfl rfl)
  · next h => exact encodes_I h hw (fun _ _ _ => .ok rfl rfl)
  · next h => exact encodes_I h hw (fun _ _ _ => .ok rfl rfl)
  · next h => exact encodes_I h hw (fun _ _ _ => .ok rfl rfl)
  · next h => exact encodes_I h hw (fun _ _ _ => .ok rfl rfl)
  · next h => exact encodes_I h hw (fun _ _ _ => .ok rfl rfl)
  · next h => exact encodes_I h hw (fun _ _ _ => .ok rfl rfl)
  · next h => exact encodes_I h hw (fun _ _ _ => .ok rfl rfl)
  · next h => exact encodes_I h hw (fun _ _ _ => .ok rfl rfl)
  · next h => exact encodes_U h hw (fun _ _ => .ok rfl rfl)
  · next h => exact encodes_U h hw (fun _ _ => .ok rfl rfl)
  · next h => exact encodes_B h hw (fun _ _ _ => .ok rfl rfl)
  · next h => exact encodes_B h hw (fun _ _ _ => .ok rfl rfl)
  · next h => exact encodes_B h hw (fun _ _ _ => .ok rfl rfl)
  · next h => exact encodes_B h hw (fun _ _ _ => .ok rfl rfl)
  · next h => exact encodes_B h hw (fun _ _ _ => .ok rfl rfl)
  · next h => exact encodes_B h hw (fun _ _ _ => .ok rfl rfl)
  · next h => exact encodes_B h hw (decB1E_encodes)
  · next h => exact encodes_J h hw (fun _ => .ok rfl rfl)
  · next h => exact encodes_J h hw (fun _ => .ok rfl rfl)
  · next h => exact encodes_V h hw (fun a b c d e f _ => decV28_encodes a b c d e f)
  · next h => exact encodes_V h hw (fun a b c d e f _ => decV29_encodes a b c d e f)
  · next h => exact encodes_V h hw (fun a b c d e f _ => decV2A_encodes a b c d e f)
  · next h => exact encodes_V h hw (fun a b c d e f _ => decV2B_encodes a b c d e f)
  · next h => exact encodes_W h hw (fun a b c d e f g _ => decW2C_encodes a b c d e f g)
  · next h => exact encodes_W h hw (fun a b c d e f g _ => decW2D_encodes a b c d e f g)
  · next h => exact encodes_W h hw (fun a b c d e f g _ => decW2E_encodes a b c d e f g)
  · next h => exact encodes_M h hw (fun a b c d e f _ => decM2F_encodes a b c d e f)
  · next h => exact encodes_Q h hw (fun a b c d e _ => decQ30_encodes a b c d e)
  · next h => exact encodes_Q h hw (fun a b c d e _ => decQ31_encodes a b c d e)
  · next h => exact encodes_Q h hw (fun a b c d e _ => decQ32_encodes a b c d e)
  · next h => exact encodes_Q h hw (fun a b c d e _ => decQ33_encodes a b c d e)
  · next h => exact encodes_S h hw (fun fn d a n _ => decS34_encodes d a n fn)
  · next h => exact encodes_S h hw (fun fn d a n _ => decS35_encodes d a n fn)
  · next h => exact encodes_P h hw (decP3E_encodes)
  · exact .error

/-! ### Pair words (R34, R50) -/

theorem decodeHalf_wf {h : Nat} {i : Instr} (e : decodeHalf h = .ok i) : i.wf = true := by
  have one {j : Instr} (hj : j.wf = true) (he : Except.ok j = (Except.ok i : Except Reject Instr)) : i.wf = true := by
    cases he; exact hj
  unfold decodeHalf at e
  split at e
  case h_1 =>
    simp only [ifZero] at e
    split at e
    · exact one rfl e
    · cases e
  case h_13 => cases e
  all_goals exact one rfl e

theorem half_fields {cop : Nat} {d : BitVec 5} {e : BitVec 3} {h : BitVec 13} (hc : cop < 32)
    (hh : encHalf cop d e = some h) :
    h.toNat / 256 % 32 = cop ∧ field 5 3 h.toNat = d ∧ field 3 0 h.toNat = e := by
  cases hh
  refine ⟨?_, field_eq ?_, field_eq ?_⟩ <;> rw [BitVec.toNat_ofNat] <;> omega

/-- A compact operation is read back from its half word. -/
theorem decodeHalf_encodeHalf {i : Instr} {h : BitVec 13} (e : encodeHalf i = some h) : decodeHalf h.toNat = .ok i := by
  cases i
  case cmov =>
    obtain ⟨hc, hd, he⟩ := half_fields (by decide) e
    simp only [decodeHalf, hc, hd, he]
    rfl
  case caddi | csubi | cslli | csrli | csrai | candi | cadd | csub | cand | cor | cxor =>
    obtain ⟨hc, hd, he⟩ := half_fields (by decide) e
    simp only [decodeHalf, hc, hd, he]
  all_goals cases e

theorem major_lt_of_toNat {n : Nat} (hn : n < 2 ^ 32) : major (BitVec.ofNat 32 n) = n / 2 ^ 26 := by
  rw [major, BitVec.toNat_ofNat, Nat.mod_eq_of_lt hn]

/-- A word of a format other than H is read by its major opcode. -/
theorem decode_of_major {w : BitVec 32} (h : major w ≠ 0x3F) : decode false w = decodeMajor w.toNat := by
  simp only [decode, h, Bool.false_eq_true, if_false]

/-- The first half of a pair word is read when both can be (R35). -/
theorem decode_pair {w : BitVec 32} (h : major w = 0x3F) {i j : Instr} (hi : decodeHalf (w.toNat % 2 ^ 13) = .ok i)
    (hj : decodeHalf (w.toNat / 2 ^ 13 % 2 ^ 13) = .ok j) : decode false w = .ok i ∧ decode true w = .ok j := by
  constructor
  · simp only [decode, decodePair, h, hi, hj, Bool.false_eq_true, if_false, if_true]
  · simp only [decode, h, hj, if_true]

theorem decode_pair_wf {w : BitVec 32} (h : major w = 0x3F) {i : Instr} (e : decode false w = .ok i) : i.wf = true := by
  simp only [decode, decodePair, h, Bool.false_eq_true, if_false, if_true] at e
  cases hi : decodeHalf (w.toNat % 2 ^ 13) with
  | error => simp only [hi] at e; cases e
  | ok i0 =>
    cases hj : decodeHalf (w.toNat / 2 ^ 13 % 2 ^ 13) with
    | error => simp only [hi, hj] at e; cases e
    | ok i1 =>
      simp only [hi, hj, Except.ok.injEq] at e
      exact e ▸ decodeHalf_wf hi

/-! ### The statement -/

theorem decode_encode {i : Instr} {w : BitVec 32} (hwf : i.wf = true) (e : encode i = some w) : decode false w = .ok i := by
  obtain ⟨n, hn, rfl⟩ := Option.map_eq_some_iff.1 e
  obtain ⟨hd, hm⟩ := reads_of_wf hwf n hn
  have hlt : n < 2 ^ 32 := by omega
  rw [decode_of_major (by rw [major_lt_of_toNat hlt]; omega), BitVec.toNat_ofNat, Nat.mod_eq_of_lt hlt, hd]

theorem encode_decode {i : Instr} {w : BitVec 32} (h : major w ≠ 0x3F) (e : decode false w = .ok i) :
    i.wf = true ∧ encode i = some w := by
  rw [decode_of_major h] at e
  obtain ⟨hwf, hn⟩ := decodeMajor_encodes w.isLt i e
  exact ⟨hwf, by rw [encode, hn, Option.map_some, BitVec.ofNat_toNat, BitVec.setWidth_eq]⟩

theorem decode_encodePair {i j : Instr} {w : BitVec 32} (e : encodePair i j = some w) :
    decode false w = .ok i ∧ decode true w = .ok j := by
  unfold encodePair at e
  split at e
  · next h0 h1 e0 e1 =>
    cases e
    have hlt : encH 0x3F h1 h0 < 2 ^ 32 := by unfold encH; omega
    have hw : (BitVec.ofNat 32 (encH 0x3F h1 h0)).toNat = encH 0x3F h1 h0 := by
      rw [BitVec.toNat_ofNat, Nat.mod_eq_of_lt hlt]
    have l0 : encH 0x3F h1 h0 % 2 ^ 13 = h0.toNat := by unfold encH; omega
    have l1 : encH 0x3F h1 h0 / 2 ^ 13 % 2 ^ 13 = h1.toNat := by unfold encH; omega
    refine decode_pair ?_ ?_ ?_
    · rw [major_lt_of_toNat hlt]; unfold encH; omega
    · rw [hw, l0, decodeHalf_encodeHalf e0]
    · rw [hw, l1, decodeHalf_encodeHalf e1]
  · cases e

end

/-- Settles O59: each format is read back field by field, each major writes back what it reads, and the halves of a pair
word are read by themselves. -/
theorem decodeEncode : Obligations.DecodeEncode := by
  refine ⟨fun i w => decode_encode, fun i w e => ?_, fun i j w => decode_encodePair⟩
  by_cases h : major w = 0x3F
  · exact ⟨decode_pair_wf h e, fun hn => absurd h hn⟩
  · obtain ⟨hwf, henc⟩ := encode_decode h e
    exact ⟨hwf, fun _ => henc⟩

/-- Settles O60: the decoder evaluates each word. -/
theorem decodeWords : Obligations.DecodeWords := by
  unfold Obligations.DecodeWords
  and_intros <;> rfl

end Sys2Proof


/-! ## Privileged instructions and the Access column (R20, R368) -/

namespace Sys2Proof.Machine
open Sys2Proof.Claims

section

/-- A register that a move may write is one of the lists of R368. -/
theorem listed_of_write {c : BitVec 10} {w0 : Bool} (h : crAccess c.toNat w0 = .write) :
    c ∈ writtenByAll ∨ w0 = true ∧ c ∈ writtenByWorld0 := by
  have at_num {n : Nat} (hn : c.toNat = n) : c = BitVec.ofNat 10 n := by
    rw [← hn, BitVec.ofNat_toNat, BitVec.setWidth_eq]
  unfold crAccess at h
  split at h
  case h_1 | h_2 | h_3 | h_4 | h_5 | h_6 | h_7 => rw [at_num ‹_›]; exact .inl (by decide)
  all_goals cases w0 <;> cases h
  all_goals rw [at_num ‹_›]; exact .inr ⟨rfl, by decide⟩

/-- A register that a hart outside world 0 may not read is in neither list of those that it may. -/
theorem none_of_unlisted {c : BitVec 10} (hr : c ∉ readByAll) (hz : c ∉ hiddenTables) : crAccess c.toNat false = .none := by
  have at_num {n : Nat} (hn : c.toNat = n) : c = BitVec.ofNat 10 n := by
    rw [← hn, BitVec.ofNat_toNat, BitVec.setWidth_eq]
  unfold crAccess
  split
  case h_19 | h_20 => rw [at_num ‹_›] at hz; exact absurd (by decide) hz
  any_goals rfl
  all_goals rw [at_num ‹_›] at hr; exact absurd (by decide) hr

theorem readMove_privileged {c : BitVec 10} {s : State} (x : BitVec 5) (h : crAccess c.toNat s.hart.world0 = .none) :
    readMove x c s = s.privileged (c.zeroExtend 64) := by
  rw [readMove, h]

theorem writeMove_privileged {c : BitVec 10} {s : State} (x : BitVec 5) (h : crAccess c.toNat s.hart.world0 ≠ .write) :
    writeMove x c s = s.privileged (c.zeroExtend 64) := by
  unfold writeMove
  split
  · exact absurd ‹_› h
  · rfl

theorem exec_readMove {i : Instr} {x : BitVec 5} {c : BitVec 10} (h : readMoveOf i = some (x, c)) (s : State) :
    exec i s = .next (readMove x c s) := by
  cases i
  case mfcr | fflagsRead | vlffRead => cases h; rfl
  all_goals cases h

theorem exec_writeMove {i : Instr} {x : BitVec 5} {c : BitVec 10} (h : writeMoveOf i = some (x, c)) (s : State) :
    exec i s = .next (writeMove x c s) := by
  cases i
  case mtcr | registerWrite | vtypeWrite | tshpWrite | frmWrite | fflagsWrite | vlcapWrite | schedcfgWrite => cases h; rfl
  all_goals cases h

/-- A privileged instruction looks at the world before anything else (check 5 of R20). -/
theorem exec_privileged {i : Instr} {s : State} (h : isPrivileged i = true) (hw : s.hart.world0 = false) :
    exec i s = .next s.privileged := by
  have hne : ¬ s.hart.world0 = true := by simp [hw]
  have hnot : (!s.hart.world0) = true := by simp [hw]
  cases i
  case eret => exact congrArg Host.Outcome.next (if_pos hnot)
  case rpatchWrite | rpatchMove => exact congrArg Host.Outcome.next (if_pos hnot)
  case slotsync | chdemote | wbindOpen | wbindNewver | wbindPlace | wbindSeal | wbindInstall | wbindErase | wbindClose =>
    exact congrArg Host.Outcome.next (if_neg hne)
  all_goals cases h

/-- A trap in handler mode, as the claims describe it. -/
theorem State.takeTrap_nests {s : State} (cause : Nat) (detail val : Word) (h : CanNest s) :
    NestsTrap cause detail val s.hart.pc (prefixState s.hart.loan s.hart.half s.hart.last) s
      (s.takeTrap cause detail val) := by
  obtain ⟨hl, hhm, hb, hvec, hp⟩ := h
  rw [s.takeTrap_nested cause detail val hl hhm hb hvec hp, NestsTrap, ← s.hart.pfxNow_eq]
  rfl

theorem claims_privilegedTraps : Claims.PrivilegedTraps := by
  intro s i x c hw ht
  refine ⟨fun hi => ⟨_, exec_privileged hi hw, s.privileged_traps _ ht⟩, fun hi hr hz => ?_, fun hi hn => ?_⟩
  · refine ⟨_, exec_readMove hi s, ?_⟩
    rw [readMove_privileged x (by rw [hw]; exact none_of_unlisted hr hz)]
    exact s.privileged_traps _ ht
  · refine ⟨_, exec_writeMove hi s, ?_⟩
    rw [writeMove_privileged x fun h => ?_]
    · exact s.privileged_traps _ ht
    · rw [hw] at h
      exact (listed_of_write h).elim hn fun h0 => nomatch h0.1

theorem claims_readOnlyRegisters : Claims.ReadOnlyRegisters := by
  intro s i x c hi ha h0
  have e : exec i s = .next (s.privileged (c.zeroExtend 64)) := by
    rw [exec_writeMove hi, writeMove_privileged x fun h => (listed_of_write h).elim ha fun h => h0 h.2]
  exact ⟨fun _ ht => ⟨_, e, s.privileged_traps _ ht⟩, fun hn => ⟨_, e, State.takeTrap_nests 2 _ _ hn⟩⟩

end

/-- Settles O16: the world is looked at before the operands, and the Access column of R368 decides every move. -/
theorem privilegedTraps : Obligations.PrivilegedTraps := ⟨claims_privilegedTraps, claims_readOnlyRegisters⟩

end Sys2Proof.Machine


/-! ## The stirrup word and the compact operations (R31 to R36, R50) -/

namespace Sys2Proof.Machine
open Sys2Proof.Claims

section

theorem claims_stirrupLends : Claims.StirrupLends := fun _ _ _ =>
  ⟨⟨_, rfl, ⟨rfl, fun _ => rfl⟩, rfl⟩, ⟨_, rfl, ⟨rfl, fun _ => rfl⟩, rfl⟩⟩

/-! ### Compact operations -/

/-- The register results of a write to x[d]: every other register is kept, and x[d] holds the value. -/
theorem Hart.setX_holds (h : Hart) (d : BitVec 5) (v : Word) (t : Option (BitVec 16)) :
    (∀ r, r ≠ d → (h.setX d v t).xr r = h.xr r ∧ (h.setX d v t).tagOf r = h.tagOf r) ∧ HoldsX (h.setX d v t) d v t := by
  refine ⟨fun r hr => ?_, ?_⟩
  · rw [Hart.setX_xr, Hart.setX_tagOf, if_neg (by simp [hr]), if_neg (by simp [hr])]
    exact ⟨rfl, rfl⟩
  · unfold HoldsX
    split
    · exact ⟨rfl, rfl⟩
    · next hd =>
      rw [Hart.setX_xr, Hart.setX_tagOf, if_pos ⟨rfl, hd⟩, if_pos ⟨rfl, hd⟩]
      exact ⟨rfl, rfl⟩

/-- What a compact operation leaves: as h1 the completed word, as h0 the word with h1 pending. -/
def CompactLeaves (d : BitVec 5) (v : Word) (tag : Option (BitVec 16)) (s t : State) : Prop :=
  OnlyHart s t ∧
    t.hart = { (if s.hart.half then s.hart.completed (some d)
        else { s.hart with last := some d, loan := none, half := true, pairHeld := true }) with
      x := t.hart.x, tag := t.hart.tag } ∧
    (∀ r, r ≠ d → t.hart.xr r = s.hart.xr r ∧ t.hart.tagOf r = s.hart.tagOf r) ∧
    HoldsX t.hart d v tag

theorem compact_leaves {s : State} {l : BitVec 5} (hl : s.hart.last = some l) (d : BitVec 5) (f : Operand → Operand) :
    ∃ t, compact d f s = .next t ∧
      CompactLeaves d (f (s.hart.operand l)).val (f (s.hart.operand l)).tag s t := by
  obtain ⟨hother, hd⟩ := s.hart.setX_holds d (f (s.hart.operand l)).val (f (s.hart.operand l)).tag
  simp only [compact, hl]
  by_cases hh : s.hart.half = true
  · rw [if_pos hh]
    refine ⟨_, rfl, ⟨rfl, fun _ => rfl⟩, ?_, hother, hd⟩
    rw [if_pos hh, State.writeBack_hart, Hart.setX_eq]
    rfl
  · rw [if_neg hh]
    refine ⟨_, rfl, ⟨rfl, fun _ => rfl⟩, ?_, hother, hd⟩
    rw [if_neg hh, State.mapHart_hart, State.setX_hart, Hart.setX_eq]

theorem regOf_eq (e : BitVec 3) : regOf e = BitVec.ofNat 5 e.toNat := by
  apply BitVec.eq_of_toNat_eq
  simp [regOf]

theorem ofNat_toNat_small (e : BitVec 3) : BitVec.ofNat 64 e.toNat = e.zeroExtend 64 := by
  apply BitVec.eq_of_toNat_eq
  simp

theorem ofInt_add_small (v : Word) (e : BitVec 3) :
    BitVec.ofInt 64 (v.toInt + (e.toNat : Int)) = v + e.zeroExtend 64 := by
  rw [BitVec.ofInt_add, BitVec.ofInt_toInt, BitVec.ofInt_natCast, ofNat_toNat_small]

theorem ofInt_sub_small (v : Word) (e : BitVec 3) :
    BitVec.ofInt 64 (v.toInt - (e.toNat : Int)) = v - e.zeroExtend 64 := by
  rw [Int.sub_eq_add_neg, BitVec.ofInt_add, BitVec.ofInt_neg, BitVec.ofInt_toInt, BitVec.ofInt_natCast,
    ofNat_toNat_small, BitVec.sub_eq_add_neg]

theorem ofInt_div_pow (v : Word) (n : Nat) : BitVec.ofInt 64 (v.toInt / 2 ^ n) = v.sshiftRight n := by
  rw [BitVec.sshiftRight, Int.shiftRight_eq_div_pow]
  rfl

theorem addTag_eq (a b : Option (BitVec 16)) : addTag a b = if b = none then a else if a = none then b else none := by
  cases a <;> cases b <;> rfl

theorem subTag_eq (a b : Option (BitVec 16)) : subTag a b = if b = none then a else none := by
  cases b <;> rfl

/-- Each compact operation is `compact` of its row, whose result is that of R50. -/
theorem exec_compact {i : Instr} (hi : isCompact i = true) (s : State) : ∃ d f, exec i s = compact d f s ∧
    ∀ l, compactResult i s.hart l = some (d, (f l).val, (f l).tag) := by
  cases i
  case cmov d => exact ⟨d, id, rfl, fun l => rfl⟩
  case caddi d e =>
    exact ⟨d, fun l => ⟨l.val + e.zeroExtend 64, l.tag⟩, rfl, fun l => by simp only [compactResult, ofInt_add_small]⟩
  case csubi d e =>
    exact ⟨d, fun l => ⟨l.val - e.zeroExtend 64, l.tag⟩, rfl, fun l => by simp only [compactResult, ofInt_sub_small]⟩
  case cslli d e => exact ⟨d, fun l => ⟨l.val <<< e.toNat, none⟩, rfl, fun l => rfl⟩
  case csrli d e => exact ⟨d, fun l => ⟨l.val >>> e.toNat, none⟩, rfl, fun l => rfl⟩
  case csrai d e =>
    exact ⟨d, fun l => ⟨l.val.sshiftRight e.toNat, none⟩, rfl, fun l => by simp only [compactResult, ofInt_div_pow]⟩
  case candi d e =>
    exact ⟨d, fun l => ⟨l.val &&& e.zeroExtend 64, none⟩, rfl, fun l => by simp only [compactResult, ofNat_toNat_small]⟩
  case cadd d e =>
    exact ⟨d, fun l => ⟨l.val + s.hart.xr (regOf e), addTag l.tag (s.hart.tagOf (regOf e))⟩, rfl, fun l => by
      simp only [compactResult, addTag_eq, regOf_eq]⟩
  case csub d e =>
    exact ⟨d, fun l => ⟨l.val - s.hart.xr (regOf e), subTag l.tag (s.hart.tagOf (regOf e))⟩, rfl, fun l => by
      simp only [compactResult, subTag_eq, regOf_eq]⟩
  case cand d e =>
    exact ⟨d, fun l => ⟨l.val &&& s.hart.xr (regOf e), none⟩, rfl, fun l => by simp only [compactResult, regOf_eq]⟩
  case cor d e =>
    exact ⟨d, fun l => ⟨l.val ||| s.hart.xr (regOf e), none⟩, rfl, fun l => by simp only [compactResult, regOf_eq]⟩
  case cxor d e =>
    exact ⟨d, fun l => ⟨l.val ^^^ s.hart.xr (regOf e), none⟩, rfl, fun l => by simp only [compactResult, regOf_eq]⟩
  all_goals cases hi

theorem compact_unrecorded {s : State} (hl : s.hart.last = none) (d : BitVec 5) (f : Operand → Operand) :
    compact d f s = .next s.illegal := by
  rw [compact, hl]

theorem claims_compactOperations : Claims.CompactOperations := by
  intro i s hi
  obtain ⟨d, f, he, hf⟩ := exec_compact hi s
  refine ⟨fun l d' v tag hl hr => ?_, fun hl ht => ⟨_, he.trans (compact_unrecorded hl d f), s.illegal_traps ht⟩⟩
  cases (hf _).symm.trans hr
  obtain ⟨t, ht, hp⟩ := compact_leaves hl d f
  exact ⟨t, he.trans ht, hp⟩

/-! ### Followers that cannot take the loan (R32) -/

variable {i : Instr} {c : Class} {s : State} {x : Asked} {l : Loan}

/-- The trap of a loan that its follower cannot take, at the stirrup word. -/
theorem badStirrup_traps {w : BitVec 32} (hl : s.hart.loan = some l) (ht : CanTrap s)
    (hw : encode (if l.dc then .stirCopy l.k l.vdc else .stir l.k) = some w) :
    TrapsIllegal (atStirrup s w) s.badStirrup := by
  have e : s.badStirrup = (atStirrup s w).illegal := by simp only [State.badStirrup, hl, hw]; rfl
  rw [e]
  exact (atStirrup s w).illegal_traps ht

/-- The conditions of R32 that the two words decide alone, as the claim has them. -/
theorem loanFits_iff (hl : s.hart.loan = some l) :
    s.hart.loanFits i = true ↔ LoanFits i s.hart ∧ (l.dc = true → writesVector i = true) := by
  have hmask : LoanFits i s.hart ↔ (l.k ≠ 0 → masked i = true) :=
    ⟨fun h => h l hl, fun h m hm => by cases hl.symm.trans hm; exact h⟩
  have hcopy : (l.dc = true → writesVector i = true) ↔ l.dc = false ∨ writesVector i = true := by
    cases l.dc <;> simp
  rw [hmask, hcopy, ne_eq, ← or_iff_not_imp_left]
  simp [Hart.loanFits, hl]

theorem joining_badStirrup (h : s.hart.loanFits i = false) (k : List Class → State) : s.joining i c k = s.badStirrup :=
  if_pos (by simp [h])

theorem destFits_iff {ys : List (BitVec 5 × Nat × Bool)} {d n : Nat} :
    destFits (sourcesOf ys) d n = true ↔ DestFits ys d n := by
  refine ⟨fun h => ?_, destFits_of⟩
  simp only [destFits, sourcesOf, List.all_map, Bool.and_eq_true, decide_eq_true_eq, List.all_eq_true, Function.comp,
    Src.fits, Bool.or_eq_true, Bool.not_eq_true', beq_iff_eq] at h
  refine ⟨h.1, fun y hy => ?_⟩
  rcases h.2 y hy with (h1 | h1) | ⟨⟨h1, h2⟩, h3⟩
  · exact .inl h1
  · exact .inr (.inl h1)
  · exact .inr (.inr ⟨h1, h2.symm, h3.symm⟩)

/-- The group rules hold with a loan where they hold without it, and the copy register meets its own. -/
theorem groupsFit_of_copy (hl : s.hart.loan = some l) (hg : GroupsFit i { s.hart with loan := none } x)
    (hwr : l.dc = true → writesVector i = true)
    (hcopy : l.dc = true → writesVector i = true →
      DestFits x.srcs l.vdc.toNat ((destOf i).size (vtG s.hart.vtype)) ∧ x.copy l.vdc.toNat) :
    GroupsFit i s.hart x := by
  obtain ⟨hs, hd⟩ := hg
  refine ⟨hs, ?_⟩
  have only {P : Loan → Prop} (h : P l) : ∀ m, s.hart.loan = some m → P m := fun m hm => by
    cases hl.symm.trans hm; exact h
  cases he : destOf i with
  | group d | single d =>
    rw [he] at hd hcopy
    exact ⟨hd.1, only fun hdc => hcopy hdc (by simp [writesVector, he])⟩
  | pred k | nothing =>
    refine only ?_
    cases hdc : l.dc
    · rfl
    · exact absurd (hwr hdc) (by simp [writesVector, he])

/-- Where the instruction's own groups fit and its loan does not, entry ends in the trap at the stirrup word. -/
theorem enqueue_badStirrup {f : Form} (hv : s.hart.vtype.getLsbD 63 = false)
    (hvl : s.hart.vl.toNat ≤ vlmax s.hart.vtype s.hart.c) (hw : s.hart.view = .own) (hf : f.Meets x.srcs x.copy)
    (hc : ∀ r, f.copy r = true → x.copy r)
    (hl : s.hart.loan = some l) (hg : GroupsFit i { s.hart with loan := none } x)
    (hn : ¬ (LoanFits i s.hart ∧ GroupsFit i s.hart x)) (ops : List (BitVec 5)) (strides : Vector Word 3) :
    s.enqueue i c ops strides f = s.badStirrup := by
  have h6 : ¬ (vtVill s.hart.vtype || decide (vlmax s.hart.vtype s.viewed.c < s.hart.vl.toNat)) = true := by
    rw [vtVill_eq, hv, viewed_own hw]
    simpa using hvl
  have h6' : ¬ (!f.ok || !ownFits (destOf i) (vtG s.hart.vtype) f.srcs) = true := by
    simp [hf.ok, ownFits_of (s := { s with hart := { s.hart with loan := none } }) hf hg]
  unfold State.enqueue
  refine (if_neg h6).trans ((if_neg h6').trans ?_)
  simp only [hl]
  split
  · rfl
  · next hcopy =>
    cases hfit : s.hart.loanFits i
    · exact joining_badStirrup hfit _
    · obtain ⟨hmask, hwr⟩ := (loanFits_iff hl).1 hfit
      refine absurd ⟨hmask, groupsFit_of_copy hl hg hwr fun hdc hwv => ?_⟩ hn
      have hboth : destFits f.srcs l.vdc.toNat ((destOf i).size (vtG s.hart.vtype)) = true ∧ f.copy l.vdc.toNat = true := by
        simpa [hdc, hwv] using hcopy
      exact ⟨destFits_iff.1 (hf.srcs ▸ hboth.1), hc _ hboth.2⟩

/-- Only the scaled multiplications ask anything of a copy register. -/
theorem copy_free_or_scaled (ha : askedOf i s.hart = some x) :
    (∀ r, x.copy r) ∨ ∃ cb m d a b, i = .vfsmul cb m d a b ∨ i = .vfsmacc cb m d a b := by
  cases i
  case vfsmul => exact .inr ⟨_, _, _, _, _, .inl rfl⟩
  case vfsmacc => exact .inr ⟨_, _, _, _, _, .inr rfl⟩
  case vsel cb m d a b =>
    by_cases h : m = 1
    · cases (if_pos h).symm.trans ha
      exact .inl fun _ => trivial
    · cases (if_neg h).symm.trans ha
  all_goals cases ha
  all_goals exact .inl fun _ => trivial

/-- A queued instruction enters with a form that asks just what its row asks, of a copy register too. -/
theorem enters_with_form (ha : askedOf i s.hart = some x) (hc : classOf i = some c) (hm : s.hart.hm = false)
    (hv : s.hart.vtype.getLsbD 63 = false) (hw : s.hart.view = .own) (hok : x.ok) :
    ∃ f strides, exec i s = .next (enter i x.ops f strides s) ∧ (f s).Meets x.srcs x.copy ∧
      ∀ r, (f s).copy r = true → x.copy r := by
  rcases copy_free_or_scaled ha with hfree | ⟨cb, m, d, a, b, rfl | rfl⟩
  · cases Entry.of_classOf hc hm with
    | queued he hasks =>
      obtain ⟨rfl, -, hf⟩ := hasks x ha
      exact ⟨_, _, he, hf hv hw hok, fun r _ => hfree r⟩
    | shape _ _ hn => exact nomatch hn.symm.trans ha
    | whole _ _ hn => exact nomatch hn.symm.trans ha
  all_goals
    cases ha
    exact ⟨scaledForm d a b, fun _ => noStrides, rfl, scaledForm_meets hv hw hok, fun r hr => of_decide_eq_true hr⟩

/-- A whole-register move joins its convoy whatever VTYPE and VL hold, and asks for its loan there. -/
theorem wholeMove_badStirrup (hmove : wholeMoveOf i ≠ none) (hlanes : InLanes s.hart)
    (hfit : s.hart.loanFits i = false) : exec i s = .next s.badStirrup := by
  have hm : ¬ s.hart.hm = true := by simp [hlanes.1]
  have key {c : Class} {x : BitVec 5} {f : Operand → State → Moved} : enterWhole i c x f s = s.badStirrup := by
    rw [enterWhole, if_neg hm, inLanes_of hlanes]
    exact joining_badStirrup hfit _
  cases i
  case vsr | vsrPredicate | vlr | vlrPredicate => exact congrArg Host.Outcome.next key
  all_goals exact absurd rfl hmove

theorem claims_stirrupFailures : Claims.StirrupFailures := by
  intro i c l w s fails hc hlanes hw ht hl henc
  have hbad (he : exec i s = .next s.badStirrup) : fails := ⟨_, he, badStirrup_traps hl ht henc⟩
  refine ⟨fun x ha hv hvl hok hg hn => hbad ?_, fun hmove hn => hbad (wholeMove_badStirrup hmove hlanes ?_)⟩
  · obtain ⟨f, strides, he, hf, hcopy⟩ := enters_with_form ha hc hlanes.1 hv hw hok
    rw [he, enter_eq hc hlanes.1, inLanes_of hlanes, enqueue_badStirrup hv hvl hw hf hcopy hl hg hn]
  · exact Bool.eq_false_iff.2 fun h => hn ((loanFits_iff hl).1 h)

end

/-- Settles O8: a compact operation is `compact` of its row; a follower passes its own checks and then fails one of the
two that concern its loan. -/
theorem stirrupsAndCompacts : Obligations.StirrupsAndCompacts :=
  ⟨claims_stirrupLends, claims_compactOperations, claims_stirrupFailures⟩

end Sys2Proof.Machine


/-! ## A step runs the decoded instruction (R18, R20, R32, R36, R211, R306, R360, R385) -/

namespace Sys2Proof.Machine
open Sys2Proof.Claims

section
variable {s t u : State}

/-! ### No instruction stops the machine -/

theorem exec_compact_next {i : Instr} (hi : isCompact i = true) (s : State) : ∃ t, exec i s = .next t := by
  obtain ⟨d, f, he, -⟩ := exec_compact hi s
  rw [he]
  unfold compact
  split <;> exact ⟨_, rfl⟩

theorem execJalr_next (d a : BitVec 5) (o : BitVec 16) (s : State) : ∃ t, execJalr d a o s = .next t := by
  unfold execJalr
  dsimp only
  split <;> exact ⟨_, rfl⟩

theorem execBcnt_next (a : BitVec 5) (o : BitVec 16) (s : State) : ∃ t, execBcnt a o s = .next t := by
  unfold execBcnt
  split
  · exact ⟨_, rfl⟩
  · dsimp only
    split <;> exact ⟨_, rfl⟩

theorem execLslot_next (d a : BitVec 5) (n : BitVec 6) (s : State) : ∃ t, execLslot d a n s = .next t := by
  unfold execLslot
  dsimp only
  split
  · exact ⟨_, rfl⟩
  · split <;> exact ⟨_, rfl⟩

theorem exec_next (i : Instr) (s : State) : ∃ t, exec i s = .next t := by
  cases i
  case cmov | caddi | csubi | cslli | csrli | csrai | candi | cadd | csub | cand | cor | cxor => exact exec_compact_next rfl s
  case jalr d a o => exact execJalr_next d a o s
  case bcnt a o => exact execBcnt_next a o s
  case lslot d a n => exact execLslot_next d a n s
  all_goals exact ⟨_, rfl⟩

theorem runFetched_next (f : Fetched) : ∃ t, runFetched f = .next t := by
  cases f with
  | trapped t => exact ⟨_, rfl⟩
  | instr i t =>
    unfold runFetched
    dsimp only
    split
    · exact exec_next i t
    · split
      · exact ⟨_, rfl⟩
      · exact exec_next i _

theorem passOn_next {o : Out} (h : ∃ t, o = .next t) : ∃ t, passOn o = .next t := by
  obtain ⟨t, rfl⟩ := h
  exact ⟨_, rfl⟩

/-- The turn of a waiting hart with queued work, by the micro-operation that issues. -/
theorem queueTurn_eq {v : State} (h : exec (.microopIssue s.hart.core) s = .next v) :
    queueTurn s = .next (if v.hart.wait = none then v else if v.awaits = true then v.rotate
      else (v.mapHart fun h => { h with wait := none }).rotate) := by
  have h' : execMicroopIssue s.hart.core s = .next v := h
  simp only [queueTurn, h', Option.isNone_iff_eq_none]

theorem turn_next (s : State) : ∃ t, turn s = .next t := by
  unfold turn
  split
  · exact ⟨_, rfl⟩
  · split
    · split
      · exact passOn_next (runFetched_next _)
      · split
        · obtain ⟨v, hv⟩ := exec_next (.microopIssue s.hart.core) s
          exact ⟨_, queueTurn_eq hv⟩
        · split
          · exact ⟨_, rfl⟩
          · exact passOn_next (runFetched_next _)
    · exact runFetched_next _

theorem step_next (s : State) : ∃ t, step s = .next t := by
  unfold step
  split
  · exact turn_next _
  · exact exec_next _ _
  · exact ⟨_, rfl⟩
  · exact ⟨_, rfl⟩

/-! ### Counting of lines (R206) and the room of a slice (R15) -/

theorem State.post_counts (s : State) (c : Nat) (d v : Word) : s.post c d v = counted s (s.post c d v) := by
  unfold State.post
  split <;> rfl

theorem State.countLine_counts (s : State) (line : Nat) : s.countLine line = counted s (s.countLine line) := by
  unfold State.countLine
  split
  · exact iteInduction (motive := fun t => t = counted s t) (fun _ => State.post_counts _ _ _ _) fun _ => rfl
  · rfl

theorem counted_trans (hu : t = counted s t) (hv : u = counted t u) : u = counted s u := by
  rw [hv, hu]
  rfl

/-- Counting lines, one after another, changes only the page counters and the events that they post. -/
theorem foldl_counts {α : Type} (f : State → α → Nat) (l : List α) (s : State) :
    l.foldl (fun t x => t.countLine (f t x)) s = counted s (l.foldl (fun t x => t.countLine (f t x)) s) := by
  induction l generalizing s with
  | nil => rfl
  | cons x xs ih => exact counted_trans (s.countLine_counts (f s x)) (ih (s.countLine (f s x)))

theorem State.countAccess_counts (s : State) (sw : SlotWord) (a n : Nat) :
    s.countAccess sw a n = counted s (s.countAccess sw a n) := by
  by_cases h : sw.attr.toNat < 2
  · rw [State.countAccess, if_pos h]
    rfl
  · rw [State.countAccess, if_neg h]
    exact foldl_counts (fun t (p : Nat × Nat) => t.forward p.1 / 64 * 64) _ s

theorem mem_keptLines (l : List DirtyLine) : ∀ d ∈ keptLines l, d ∈ l := by
  have key (l : List DirtyLine) : ∀ acc, ∀ d ∈ l.foldl (fun kept d =>
      if (kept.filter fun x => sliceUnit x.line == sliceUnit d.line).length < sliceLines then kept ++ [d] else kept) acc,
      d ∈ acc ∨ d ∈ l := by
    induction l with
    | nil => exact fun acc d h => .inl h
    | cons x xs ih =>
      intro acc d h
      rw [List.foldl_cons] at h
      rcases ih _ d h with h | h
      · split at h
        · rcases List.mem_append.1 h with h | h
          · exact .inl h
          · exact .inr (List.mem_cons.2 (.inl (List.mem_singleton.1 h)))
        · exact .inl h
      · exact .inr (List.mem_cons_of_mem _ h)
  exact fun d h => (key l [] d h).resolve_left List.not_mem_nil

/-- No slice is left with more dirty lines than it has room for. -/
theorem keptLines_room (l : List DirtyLine) (n : Nat) :
    ((keptLines l).filter fun d => sliceUnit d.line == n).length ≤ sliceLines := by
  have key (l : List DirtyLine) : ∀ acc : List DirtyLine, (acc.filter fun d => sliceUnit d.line == n).length ≤ sliceLines →
      ((l.foldl (fun kept d =>
        if (kept.filter fun x => sliceUnit x.line == sliceUnit d.line).length < sliceLines then kept ++ [d] else kept)
        acc).filter fun d => sliceUnit d.line == n).length ≤ sliceLines := by
    induction l with
    | nil => exact fun acc h => h
    | cons x xs ih =>
      intro acc h
      rw [List.foldl_cons]
      refine ih _ ?_
      split
      · next hlt =>
        rw [List.filter_append, List.length_append]
        by_cases hx : sliceUnit x.line = n
        · subst hx
          have h1 : ([x].filter fun d => sliceUnit d.line == sliceUnit x.line).length ≤ 1 := List.length_filter_le _ _
          omega
        · simpa [hx] using h
      · exact h
  exact key l [] (Nat.zero_le _)

/-- A slice that holds more dirty lines than it has room for writes the oldest back. -/
theorem State.begin_trims (h : ¬ s.dirty.length ≤ sliceLines) :
    s.begin = counted { s with tick := s.tick + 1, dirty := keptLines s.dirty } s.begin :=
  (if_neg h).trans ((foldl_counts (fun _ (d : DirtyLine) => d.line) _ _).trans (congrArg _ (if_neg h).symm))

/-- What the start of a step changes, and the room that it leaves. -/
theorem State.begin_changes (s : State) : ∃ dirty pages events lost,
    s.begin = { s with tick := s.tick + 1, dirty := dirty, pages := pages, events := events, eventLost := lost } ∧
    (∀ d ∈ dirty, d ∈ s.dirty) ∧ ∀ n, (dirty.filter fun d => sliceUnit d.line == n).length ≤ sliceLines := by
  by_cases h : s.dirty.length ≤ sliceLines
  · exact ⟨s.dirty, s.pages, s.events, s.eventLost, State.begin_eq s h, fun d hd => hd,
      fun n => Nat.le_trans (List.length_filter_le _ _) h⟩
  · exact ⟨_, _, _, _, State.begin_trims h, mem_keptLines s.dirty, keptLines_room s.dirty⟩

theorem State.begin_hart (s : State) : s.begin.hart = s.hart := by
  obtain ⟨d, p, e, l, h, -⟩ := s.begin_changes
  generalize s.begin = u at h
  subst h
  rfl

/-! ### What a fetch changes of the acting hart (R221, R326) -/

/-- The hart is the same one, and while it still runs, its pending half and its loan are as they were. -/
def KeepsFetch (h g : Hart) : Prop :=
  g.ser = h.ser ∧ (g.life = .running → h.life = .running ∧ g.half = h.half ∧ g.loan = h.loan)

theorem KeepsFetch.refl (h : Hart) : KeepsFetch h h := ⟨rfl, fun hr => ⟨hr, rfl, rfl⟩⟩

theorem KeepsFetch.of_eq {h g : Hart} (e : g = h) : KeepsFetch h g := e ▸ .refl h

theorem KeepsFetch.trans {h g k : Hart} (a : KeepsFetch h g) (b : KeepsFetch g k) : KeepsFetch h k := by
  refine ⟨b.1.trans a.1, fun hr => ?_⟩
  obtain ⟨hr, hhalf, hloan⟩ := b.2 hr
  obtain ⟨hr, hhalf', hloan'⟩ := a.2 hr
  exact ⟨hr, hhalf.trans hhalf', hloan.trans hloan'⟩

theorem State.claim_hart (s : State) (w : BitVec 10) (r : Nat) : (s.claim w r).hart = s.hart := by
  unfold State.claim
  exact iteInduction (motive := fun t : State => t.hart = s.hart) (fun _ => rfl) fun _ => rfl

theorem State.claimFold_hart (w : BitVec 10) (r : Nat) (l : List Nat) (s : State) :
    (l.foldl (fun t i => t.claim w (r + i)) s).hart = s.hart := by
  induction l generalizing s with
  | nil => rfl
  | cons x xs ih => exact (ih _).trans (s.claim_hart w (r + x))

/-- What holds of a state, and after any claims of one region each, holds after the claims of an access. -/
theorem State.claimAll_induction (P : State → Prop) (w : BitVec 10) (k n : Nat) (hs : P s)
    (h : ∀ r (l : List Nat), P (l.foldl (fun t i => t.claim w (r + i)) s)) : P (s.claimAll w k n) := by
  unfold State.claimAll
  exact iteInduction (motive := P) (fun _ => hs) fun _ => h (regionNo k) (List.range _)

theorem State.claimAll_hart (s : State) (w : BitVec 10) (k n : Nat) : (s.claimAll w k n).hart = s.hart :=
  State.claimAll_induction (fun t => t.hart = s.hart) w k n rfl fun r l => State.claimFold_hart w r l s

theorem State.commit_hart {w : MemWrite} (h : s.commit w = some t) : t.hart = s.hart := by
  have hm (line : Nat) (k v : BitVec 10) : (s.markDirty line k v).hart = s.hart := by
    unfold State.markDirty
    dsimp only
    split
    · split <;> rfl
    · split <;> rfl
    · rfl
  have hd (b : Bool) (line : Nat) (k v : BitVec 10) (p : Nat) (bs : List Byte) (m : BitVec 32) :
      ((if b then s.markDirty line k v else s).putLine p bs m).hart = s.hart := by
    cases b
    · rfl
    · exact hm line k v
  unfold State.commit at h
  dsimp only at h
  split at h
  · cases h
  · split at h
    · cases h; exact hd _ _ _ _ _ _ _
    · split at h
      · cases h
      · split at h
        · cases h; exact hd _ _ _ _ _ _ _
        · cases h

theorem State.report_hart (s : State) (c k u n : Nat) (a : Word) : (s.report c k u n a).hart = s.hart :=
  s.post_hart 0x8007 _ _

theorem State.lineReport_hart (s : State) (line : Nat) : (s.lineReport line).hart = s.hart := by
  unfold State.lineReport
  split <;> exact s.report_hart _ _ _ _ _

theorem State.writeRecord_hart (s : State) (cause : Nat) (d : Word) : (s.writeRecord cause d).hart = s.hart := by
  unfold State.writeRecord
  dsimp only
  split
  · rfl
  · split
    · exact State.post_hart _ _ _ _
    · exact iteInduction (motive := fun t : State => t.hart = s.hart) (fun _ => rfl) fun _ => State.post_hart _ _ _ _

theorem State.finishGang_hart (s : State) (gid : BitVec 32) : (s.finishGang gid).hart = s.hart := by
  unfold State.finishGang
  split
  · rfl
  · dsimp only
    split
    · exact State.post_hart _ _ _ _
    · rfl

/-- A hart whose context is quarantined has stopped for good (R351). -/
theorem State.quarantine_stops (s : State) (cause : Nat) (d : Word) :
    (s.quarantine cause d).hart.life = .quarantined ∧ (s.quarantine cause d).hart.ser = s.hart.ser := by
  have e : (s.quarantine cause d).hart = (s.writeRecord cause d).hart.stop .quarantined :=
    (State.post_hart _ _ _ _).trans ((State.finishGang_hart _ _).trans rfl)
  rw [e, s.writeRecord_hart]
  exact ⟨rfl, rfl⟩

/-- A line that fails its check for a stream of the acting hart stops the hart, or is kept for its next turn (R335). -/
theorem State.lineLoss_keeps (s : State) (w : BitVec 10) (line : Nat) :
    KeepsFetch s.hart (s.lineLoss w s.hart.ser line).hart := by
  have hr : (s.lineReport line).hart = s.hart := s.lineReport_hart line
  unfold State.lineLoss
  dsimp only
  generalize s.lineReport line = t at hr
  rw [← hr]
  split
  · unfold State.updHart
    split
    · exact ⟨rfl, fun hr => ⟨hr, rfl, rfl⟩⟩
    · exact .refl t.hart
  · unfold State.asHart
    have hf (u : State) (n : BitVec 16) (h : u.hart.ser = n) : u.focus n = u := if_pos (beq_iff_eq.2 h)
    split
    · exact .refl t.hart
    · rw [hf t _ rfl]
      obtain ⟨hq, hser⟩ := t.quarantine_stops (t.lineCause line) (BitVec.ofNat 64 line)
      rw [hf _ _ hser]
      exact ⟨hser, fun hrun => absurd (hq.symm.trans hrun) nofun⟩

theorem State.arrive_keeps (pk : Packet) (hp : pk.stream = .scalar s.hart.ser) : KeepsFetch s.hart (s.arrive pk).hart := by
  have key (l : List MemWrite) (n : BitVec 16) : ∀ t : State, t.hart.ser = n →
      KeepsFetch t.hart (l.foldl (fun t w => t.commitFor (.scalar n) w) t).hart := by
    induction l with
    | nil => exact fun t _ => .refl t.hart
    | cons w l ih =>
      rintro t rfl
      have one : KeepsFetch t.hart (t.commitFor (.scalar t.hart.ser) w).hart := by
        unfold State.commitFor
        split
        · next u hu => exact .of_eq (State.commit_hart hu)
        · exact t.lineLoss_keeps w.world (w.key / 64 * 64)
      exact one.trans (ih _ one.1)
  unfold State.arrive
  rw [hp]
  exact key pk.writes _ s rfl

theorem State.flush_keeps (s : State) (dev : Nat) : KeepsFetch s.hart (s.flush (.scalar s.hart.ser) dev).hart := by
  have key (l : List Packet) (n : BitVec 16) (hl : ∀ p ∈ l, p.stream = .scalar n) : ∀ t : State, t.hart.ser = n →
      KeepsFetch t.hart (l.foldl State.arrive t).hart := by
    induction l with
    | nil => exact fun t _ => .refl t.hart
    | cons p l ih =>
      rintro t rfl
      have one := t.arrive_keeps p (hl p List.mem_cons_self)
      exact one.trans (ih (fun q hq => hl q (List.mem_cons_of_mem _ hq)) _ one.1)
  refine key _ s.hart.ser (fun p hp => ?_) { s with packets := s.packets.filter fun p => !_ } rfl
  have h := (List.mem_filter.1 hp).2
  exact beq_iff_eq.1 (Bool.and_eq_true_iff.1 h).1

theorem counted_hart (h : t = counted s t) : t.hart = s.hart := by rw [h]; rfl

theorem State.beforeRead_keeps (s : State) (c : Ctx) (a n : Nat) :
    KeepsFetch s.hart (s.beforeRead c (.scalar s.hart.ser) a n).hart := by
  have hc := s.claimAll_hart c.world (s.key c.core a) n
  unfold State.beforeRead
  dsimp only
  generalize s.claimAll c.world (s.key c.core a) n = t at hc
  rw [← hc]
  split
  · exact t.flush_keeps _
  · exact .refl t.hart

theorem State.codeReady_keeps (s : State) (r : SlotRef) : KeepsFetch s.hart (s.codeReady r).hart := by
  have hc := s.claimAll_hart s.ctx.world (s.key s.hart.core s.hart.pc.toNat) 4
  unfold State.codeReady
  dsimp only
  generalize s.claimAll s.ctx.world (s.key s.hart.core s.hart.pc.toNat) 4 = t at hc
  rw [← hc]
  split
  · exact .refl t.hart
  · have ha := counted_hart (t.countAccess_counts r.word t.hart.pc.toNat 4)
    have hb := (t.countAccess r.word t.hart.pc.toNat 4).beforeRead_keeps t.ctx t.hart.pc.toNat 4
    rw [ha] at hb
    exact hb

/-! ### The word that a fetch finds (R18, R20, R306) -/

theorem littleEndian_eq (l : List Byte) : littleEndian l = wordOfBytes l := by
  induction l with
  | nil => rfl
  | cons b l ih => exact congrArg (fun n => b.toNat + 256 * n) ih

theorem decodeFetched_instr {i : Instr} (hd : decode t.hart.half t.hart.iw = .ok i)
    (hi : t.hart.loan = none ∨ (classOf i).isSome = true) : decodeFetched t = .instr i t := by
  unfold decodeFetched
  rw [hd]
  refine if_neg ?_
  rcases hi with h | h <;> simp [h, Option.isNone_eq_false_iff.2]

theorem decodeFetched_rejected {e : Reject} (hd : decode t.hart.half t.hart.iw = .error e) :
    decodeFetched t = .trapped (t.rejected e) := by
  unfold decodeFetched
  rw [hd]

theorem decodeFetched_nonFollower {i : Instr} {l : Loan} (hd : decode t.hart.half t.hart.iw = .ok i)
    (hl : t.hart.loan = some l) (hi : classOf i = none) : decodeFetched t = .trapped (t.nonFollower i) := by
  unfold decodeFetched
  rw [hd]
  exact if_pos (by rw [hl, hi]; rfl)

theorem runFetched_executes {i : Instr} (hr : t.hart.life = .running) : Executes i t (runFetched (.instr i t)) := by
  unfold Executes runFetched
  dsimp only
  cases storesMayWait i with
  | true => exact ⟨fun _ => rfl, nofun⟩
  | false =>
    refine ⟨fun h => ?_, fun _ => ite_not _ _ _⟩
    rw [t.drainStores_eq _ (h.resolve_left nofun)]
    exact if_neg (not_not_intro hr)

theorem fetch_pairHeld (hb : s.hart.badLine = none) (h1 : s.hart.half = true) (h2 : s.hart.pairHeld = true) :
    fetch s = decodeFetched s := by
  unfold fetch
  simp only [hb, h1, h2, Bool.and_self, if_true]

section
variable (hb : s.hart.badLine = none) (hp : s.hart.half = false ∨ s.hart.pairHeld = false)
include hb hp

/-- A pc that is no multiple of 4 traps before any fetch. -/
theorem fetch_misaligned (hpc : s.hart.pc.toNat % 4 ≠ 0) : fetch s = .trapped (s.takeTrap 3 0 s.hart.pc) := by
  have h : (s.hart.half && s.hart.pairHeld) = false := by rcases hp with h | h <;> simp [h]
  unfold fetch
  simp only [hb, h, Bool.false_eq_true, if_false]
  exact if_pos hpc

variable (hpc : s.hart.pc.toNat % 4 = 0)
include hpc

theorem fetch_probed {r : SlotRef} (hr : s.fetchProbe s.hart.pc.toNat = .ok r) : fetch s = fetchThrough r s := by
  have h : (s.hart.half && s.hart.pairHeld) = false := by rcases hp with h | h <;> simp [h]
  unfold fetch
  simp only [hb, h, Bool.false_eq_true, if_false, hr]
  exact if_neg (not_not_intro hpc)

/-- A pc that the code slot does not let through traps with the detail of the check. -/
theorem fetch_unprobed {d : Nat} (hr : s.fetchProbe s.hart.pc.toNat = .error d) (hd : d < 16) :
    fetch s = .trapped (s.takeTrap 6 (BitVec.ofNat 64 d) s.hart.pc) := by
  have h : (s.hart.half && s.hart.pairHeld) = false := by rcases hp with h | h <;> simp [h]
  unfold fetch
  simp only [hb, h, Bool.false_eq_true, if_false, hr, hd, if_true]
  exact if_neg (not_not_intro hpc)

end

theorem fetchThrough_reads {r : SlotRef} {bs : List Byte} (hh : ∀ a, regionOf (s.canon s.hart.pc.toNat) ≠ .host a)
    (hn : s.codeCached r = true ∨ NoHeldWrite s s.hart.pc.toNat 4) (hl : (s.codeReady r).hart.life = .running)
    (hc : (s.codeReady r).readCode r s.hart.pc.toNat = some bs) :
    fetchThrough r s =
      decodeFetched ((s.codeReady r).mapHart fun h => { h with iw := BitVec.ofNat 32 (littleEndian bs) }) := by
  have hw : (!s.codeCached r && s.ctx.world != 0 && s.heldOver (s.key s.hart.core s.hart.pc.toNat) 4) = false := by
    rcases hn with h | h | h <;> simp [h]
  unfold fetchThrough
  dsimp only
  split
  · next bus hr => exact absurd hr (hh bus)
  · rw [if_neg (by rw [hw]; nofun), if_neg (not_not_intro hl), hc, littleEndian_eq]

/-- At a word, the fetch finds it, in the state that the claim names; what decides how it executes is as before. -/
theorem fetch_atWord {w : BitVec 32} (h : AtWord s u w) : step s = runFetched (decodeFetched u) ∧
    u.hart.life = .running ∧ u.hart.half = s.hart.half ∧ u.hart.loan = s.hart.loan ∧ u.hart.iw = w := by
  obtain ⟨ha, hl, hw, hb, h⟩ := h
  have hh := s.begin_hart
  have hs : step s = runFetched (fetch s.begin) := by
    unfold step turn fetchExec
    rw [ha]
    dsimp only
    rw [hh, hl, hw]
    rfl
  rw [hs]
  unfold begun at h
  generalize s.begin = b at h hh
  rw [← hh] at hl hw hb h ⊢
  rcases h with ⟨h1, h2, rfl, rfl⟩ | ⟨hp, hpc, hr, r, bs, hprobe, hn, hrun, hc, rfl, rfl⟩
  · exact ⟨congrArg runFetched (fetch_pairHeld hb h1 h2), hl, rfl, rfl, rfl⟩
  · obtain ⟨-, hhalf, hloan⟩ := (b.codeReady_keeps r).2 hrun
    refine ⟨?_, hrun, hhalf, hloan, rfl⟩
    rw [fetch_probed hb hp hpc hprobe, fetchThrough_reads hr hn hrun hc]
    rfl

/-- An instruction that waited for the host, but not for its word, goes on as it was fetched. -/
theorem resumed_instr (h : s.hart.wait ≠ some .hostFetch) :
    resumed s = decodeFetched (s.mapHart fun h => { h with wait := none }) := if_neg (by simpa using h)

section
variable (h : s.hart.wait = some .hostFetch)
include h

/-- The word that the host has answered is what the fetch finds. -/
theorem resumed_word {bs : List Byte} (ha : s.hart.answer = some (true, bs)) (hlen : bs.length = 4) :
    resumed s = decodeFetched (s.mapHart fun h =>
      { h with wait := none, answer := none, iw := BitVec.ofNat 32 (littleEndian bs) }) := by
  unfold resumed
  dsimp only
  rw [if_pos (by simpa using h), ha]
  dsimp only
  rw [if_pos hlen, littleEndian_eq]
  rfl

/-- A fetch that the host fails takes the fetch fault with detail 2. -/
theorem resumed_failed {ok : Bool} {bs : List Byte} (ha : s.hart.answer = some (ok, bs))
    (hf : ok = false ∨ bs.length ≠ 4) (ht : t = s.mapHart fun h => { h with wait := none, answer := none }) :
    resumed s = .trapped (t.takeTrap 6 2 t.hart.pc) := by
  subst ht
  unfold resumed
  dsimp only
  rw [if_pos (by simpa using h), ha]
  cases ok with
  | false => rfl
  | true =>
    dsimp only
    rw [if_neg (hf.resolve_left nofun)]
    rfl

end

theorem resumed_answered (h : Answered s u) : resumed s.begin = decodeFetched u ∧
    u.hart.life = s.hart.life ∧ u.hart.loan = s.hart.loan := by
  have hh := s.begin_hart
  unfold Answered begun at h
  generalize s.begin = b at h hh
  rw [← hh] at h ⊢
  rcases h with ⟨h, rfl⟩ | ⟨h, bs, hbs, hlen, rfl⟩
  · exact ⟨resumed_instr h, rfl, rfl⟩
  · exact ⟨resumed_word h hbs hlen, rfl, rfl⟩

/-! ### Whose turn it is -/

section
variable (ha : s.agenda = [])
include ha

theorem step_turn : step s = turn s.begin := by
  unfold step
  rw [ha]

theorem step_fetches (hl : s.hart.life = .running) (hw : s.hart.wait = none) : step s = runFetched (fetch s.begin) := by
  rw [step_turn ha]
  unfold turn fetchExec
  rw [s.begin_hart, hl, hw]
  rfl

theorem step_notRunning (hl : s.hart.life ≠ .running) : step s = .next s.begin.rotate := by
  rw [step_turn ha]
  exact if_pos (by rwa [s.begin_hart])

variable (hl : s.hart.life = .running) (hw : s.hart.wait ≠ none)
include hl hw

/-- The turn of a hart that waits. -/
theorem step_waiting : step s =
    if s.hart.answer.isSome then passOn (runFetched (resumed s.begin))
    else if !s.hart.queue.isEmpty then queueTurn s.begin
    else if s.begin.awaits then .next s.begin.rotate
    else passOn (fetchExec (s.begin.mapHart fun h => { h with wait := none })) := by
  rw [step_turn ha]
  unfold turn
  rw [s.begin_hart, if_neg (not_not_intro hl), if_pos (Option.isSome_iff_ne_none.2 hw)]

end

/-! ### A fetch from local memory (R200, R206) -/

theorem regionOf_local {a : Nat} (h : (∃ st off, regionOf a = .hbm st off) ∨ ∃ p off, regionOf a = .tier p off) :
    a < 2 ^ 52 := by
  by_contra hle
  have e : regionOf a = .nowhere := by
    unfold regionOf scratchBase windowBase
    iterate 10 rw [if_neg (by omega)]
  rcases h with ⟨_, _, h⟩ | ⟨_, _, h⟩ <;> exact Region.noConfusion (e.symm.trans h)

theorem LocalMemory.key_low {a : Nat} (h : LocalMemory s a) (core : BitVec 8) : s.key core a < 2 ^ 52 := by
  have hlow := regionOf_local h
  unfold State.key
  rcases h with ⟨_, _, h⟩ | ⟨_, _, h⟩ <;> simpa only [h] using hlow

theorem LocalMemory.farDev_none {a : Nat} (h : LocalMemory s a) : s.farDev a = none := by
  unfold State.farDev
  rcases h with ⟨_, _, h⟩ | ⟨_, _, h⟩ <;> simp only [h]

/-- A read of local memory needs nothing to be made ready. -/
theorem LocalMemory.beforeRead_eq {a : Nat} (h : LocalMemory s a) (c : Ctx) (st : FabricStream) (n : Nat) :
    s.beforeRead c st a n = s := by
  unfold State.beforeRead
  dsimp only
  rw [s.claimAll_low _ _ _ (h.key_low c.core), h.farDev_none]

theorem LocalMemory.counted {a : Nat} (h : LocalMemory s a) (ht : t = counted s t) : LocalMemory t a := by
  rw [ht]
  exact h

theorem LocalMemory.codeReady_counts (h : LocalMemory s s.hart.pc.toNat) (r : SlotRef) :
    s.codeReady r = Claims.counted s (s.codeReady r) := by
  unfold State.codeReady
  dsimp only
  rw [s.claimAll_low _ _ _ (h.key_low s.hart.core)]
  have hc := s.countAccess_counts r.word s.hart.pc.toNat 4
  rw [(h.counted hc).beforeRead_eq]
  split
  · rfl
  · exact hc

/-- The fetch from local memory changes nothing but page counts. -/
theorem fetch_local {w : BitVec 32} (h : AtWord s u w) (hm : LocalMemory s s.hart.pc.toNat)
    (hd : s.dirty.length ≤ 8192) : u = { s with
      tick := s.tick + 1, hart := { s.hart with iw := w }, pages := u.pages, events := u.events
      eventLost := u.eventLost } := by
  obtain ⟨-, -, -, -, h⟩ := h
  unfold begun at h
  rw [State.begin_eq s hd] at h
  rcases h with ⟨-, -, rfl, rfl⟩ | ⟨-, -, -, r, bs, -, -, -, -, rfl, rfl⟩
  · rfl
  · have hm' : LocalMemory { s with tick := s.tick + 1 } s.hart.pc.toNat := hm
    have hc := hm'.codeReady_counts r
    generalize State.codeReady _ r = v at hc
    generalize BitVec.ofNat 32 (littleEndian bs) = w
    rw [hc]
    rfl

/-! ### What a step does, by the claim's clauses -/

theorem step_executes {w : BitVec 32} {i : Instr} (h : AtWord s u w) (hd : decode s.hart.half w = .ok i)
    (hi : s.hart.loan = none ∨ (classOf i).isSome = true) : Executes i u (step s) := by
  obtain ⟨e, hrun, hhalf, hloan, rfl⟩ := fetch_atWord h
  rw [← hhalf] at hd
  rw [← hloan] at hi
  rw [e, decodeFetched_instr hd hi]
  exact runFetched_executes hrun

theorem step_resumes {i : Instr} (ha : s.agenda = []) (hl : s.hart.life = .running) (hw : s.hart.wait ≠ none)
    (hans : s.hart.answer ≠ none) (h : Answered s u) (hd : decode u.hart.half u.hart.iw = .ok i)
    (hi : s.hart.loan = none ∨ (classOf i).isSome = true) : ∃ o, step s = passOn o ∧ Executes i u o := by
  obtain ⟨e, hlife, hloan⟩ := resumed_answered h
  rw [← hloan] at hi
  rw [step_waiting ha hl hw, if_pos (Option.isSome_iff_ne_none.2 hans), e, decodeFetched_instr hd hi]
  exact ⟨_, rfl, runFetched_executes (hlife.trans hl)⟩

theorem step_issues (ha : s.agenda = []) (hl : s.hart.life = .running) (hw : s.hart.wait ≠ none)
    (hans : s.hart.answer = none) (hq : s.hart.queue ≠ []) : step s = queueTurn s.begin := by
  rw [step_waiting ha hl hw, if_neg (by simp [hans]), if_pos (by simpa using hq)]

section
variable (ha : s.agenda = []) (hl : s.hart.life = .running) (hw : s.hart.wait ≠ none) (hans : s.hart.answer = none)
  (hq : s.hart.queue = [])
include ha hl hw hans hq

theorem step_idle : step s = if s.begin.awaits then .next s.begin.rotate
    else passOn (fetchExec (s.begin.mapHart fun h => { h with wait := none })) := by
  rw [step_waiting ha hl hw, if_neg (by simp [hans]), if_neg (by simp [hq])]

/-- A hart that waits for no answer fetches its instruction again, as it would without the wait. -/
theorem step_retries (hb : s.begin.awaits = false) (hd : s.dirty.length ≤ 8192) :
    step s = passOn (step { s with hart := { s.hart with wait := none } }) := by
  have e : State.begin { s with hart := { s.hart with wait := none } } =
      s.begin.mapHart fun h => { h with wait := none } := by
    rw [State.begin_eq s hd, State.begin_eq { s with hart := { s.hart with wait := none } } hd]
    rfl
  rw [step_idle ha hl hw hans hq, if_neg (by simp [hb]), step_fetches (s := { s with hart := { s.hart with wait := none } })
    ha hl rfl, e]
  rfl

end

/-! ### Traps at the fetch (R18, R20, R32, R360, R385) -/

/-- A trap into the handler ends any wait. -/
theorem State.takeTrap_wait (s : State) (cause : Nat) (detail val : Word) (h : CanTrap s)
    (hv : s.hart.wid = 0 ∨ violation cause detail = false) : (s.takeTrap cause detail val).hart.wait = none := by
  obtain ⟨hl, hhm, hb, hvec, hp⟩ := h
  have hq : (s.hart.wid != 0 && violation cause detail) = false := by rcases hv with hv | hv <;> simp [hv]
  have e : s.takeTrap cause detail val = s.enterTrap cause detail val := by
    unfold State.takeTrap
    simp only [Hart.not_busy hb, Bool.false_eq_true, if_false, s.settle_eq hp, hl, hhm, ne_eq, not_true_eq_false, hq]
  obtain ⟨v, q, b, m, c, l, hs⟩ := s.saveContext_eq
  rw [e, State.enterTrap, hs]
  exact congrArg (fun t : State => t.hart.wait) (if_neg hvec)

section
variable (hc : CanTrap s.begin) (ha : s.agenda = []) (hw : s.hart.wait = none)
include hc ha hw

theorem step_trapped (hf : fetch s.begin = .trapped t) : step s = .next t := by
  rw [step_fetches ha (s.begin_hart ▸ hc.1) hw, hf]
  rfl

theorem step_badLine_traps {line : Nat} (hb : s.hart.badLine = some line) (hwid : s.hart.wid = 0) :
    ∃ t, step s = .next t ∧ TrapsHere 5 9 (BitVec.ofNat 64 line)
      { s.begin with hart := { s.begin.hart with badLine := none } } t := by
  have hh := s.begin_hart
  have hf : fetch s.begin = .trapped (s.begin.meetBadLine line) := by
    unfold fetch
    rw [hh, hb]
  have hq : s.begin.hart.queueAsks = false := (Bool.or_eq_false_iff.1 (Hart.not_busy hc.2.2.1)).2
  refine ⟨_, step_trapped hc ha hw hf, ?_⟩
  unfold State.meetBadLine
  rw [if_neg (by simp [hq])]
  exact State.takeTrap_enters { s.begin with hart := { s.begin.hart with badLine := none } } 5 9 _ hc
    (.inl ((congrArg Hart.wid hh).trans hwid))

variable (hb : s.hart.badLine = none) (hp : s.hart.half = false ∨ s.hart.pairHeld = false)
include hb hp

theorem step_misaligned_traps (hpc : s.hart.pc.toNat % 4 ≠ 0) :
    ∃ t, step s = .next t ∧ TrapsHere 3 0 s.hart.pc s.begin t := by
  have hh := s.begin_hart
  rw [← hh] at hb hp hpc ⊢
  exact ⟨_, step_trapped hc ha hw (fetch_misaligned hb hp hpc), s.begin.takeTrap_enters 3 0 _ hc (.inr rfl)⟩

theorem step_unprobed_traps {d : Nat} (hpc : s.hart.pc.toNat % 4 = 0) (hr : s.begin.fetchProbe s.hart.pc.toNat = .error d)
    (hd : s.hart.wid = 0 ∧ d < 16 ∨ d = 1 ∨ d = 2 ∨ d = 5) :
    ∃ t, step s = .next t ∧ TrapsHere 6 (BitVec.ofNat 64 d) s.hart.pc s.begin t := by
  have hh := s.begin_hart
  rw [← hh] at hb hp hpc hr hd ⊢
  have hlt : d < 16 := by omega
  have hv : s.begin.hart.wid = 0 ∨ violation 6 (BitVec.ofNat 64 d) = false := by
    rcases hd with ⟨h, -⟩ | rfl | rfl | rfl
    · exact .inl h
    all_goals exact .inr rfl
  exact ⟨_, step_trapped hc ha hw (fetch_unprobed hb hp hpc hr hlt), s.begin.takeTrap_enters 6 _ _ hc hv⟩

end

theorem step_hostFailed_traps {ok : Bool} {bs : List Byte} (ha : s.agenda = []) (hw : s.hart.wait = some .hostFetch)
    (hans : s.hart.answer = some (ok, bs)) (hf : ok = false ∨ bs.length ≠ 4)
    (hu : u = { s.begin with hart := { s.begin.hart with wait := none, answer := none } }) (hc : CanTrap u) :
    ∃ t, step s = .next t ∧ TrapsHere 6 2 s.hart.pc u t := by
  have hh := s.begin_hart
  have hlife : s.hart.life = .running := by rw [← hh]; rw [hu] at hc; exact hc.1
  have hpc : u.hart.pc = s.hart.pc := by rw [hu, ← hh]
  have hwait := u.takeTrap_wait 6 2 s.hart.pc hc (.inr rfl)
  refine ⟨u.takeTrap 6 2 s.hart.pc, ?_, ?_⟩
  · rw [step_waiting ha hlife (by rw [hw]; nofun), if_pos (by rw [hans]; rfl),
      resumed_failed ((congrArg Hart.wait hh).trans hw) ((congrArg Hart.answer hh).trans hans) hf hu, hpc]
    exact congrArg Host.Outcome.next (if_neg (by rw [hwait]; nofun))
  · exact u.takeTrap_enters 6 2 s.hart.pc hc (.inr rfl)

theorem step_rejected_traps {w : BitVec 32} {e : Reject} (h : AtWord s u w) (hc : CanTrap u)
    (hd : decode s.hart.half w = .error e) (he : e ≠ .operandPrivileged) : ∃ t, step s = .next t ∧ TrapsIllegal u t := by
  obtain ⟨hs, -, hhalf, -, rfl⟩ := fetch_atWord h
  rw [← hhalf] at hd
  refine ⟨u.illegal, ?_, u.illegal_traps hc⟩
  rw [hs, decodeFetched_rejected hd]
  cases e with
  | operandPrivileged => exact absurd rfl he
  | _ => rfl

theorem step_nonFollower_traps {w w0 : BitVec 32} {i : Instr} {l : Loan} (h : AtWord s u w) (hc : CanTrap u)
    (hd : decode s.hart.half w = .ok i) (hl : s.hart.loan = some l) (hi : classOf i = none)
    (hn : u.earlierTrap i = none) (hw0 : encode (if l.dc then .stirCopy l.k l.vdc else .stir l.k) = some w0) :
    ∃ t, step s = .next t ∧ TrapsIllegal (atStirrup u w0) t := by
  obtain ⟨hs, -, hhalf, hloan, rfl⟩ := fetch_atWord h
  rw [← hhalf] at hd
  rw [← hloan] at hl
  refine ⟨u.badStirrup, ?_, badStirrup_traps hl hc hw0⟩
  rw [hs, decodeFetched_nonFollower hd hl hi]
  unfold State.nonFollower
  rw [hn]
  rfl

end

/-- The turns of a step, one clause each. -/
theorem stepRunsDecoded_claim : Claims.StepRunsDecoded := by
  intro s
  refine ⟨s.begin_changes, fun hd => State.begin_eq s hd, fun u w i h hd hi => step_executes h hd hi,
    fun u w h hm hd => fetch_local h hm hd, fun ha hl hw hans u i h hd hi => step_resumes ha hl hw hans h hd hi,
    fun ha hl hw hans hq => ?_, fun ha hl hw hans hq hb => ?_, fun ha hl hw hans hq hb hd => ?_,
    fun ha hl => step_notRunning ha hl, fun i l ha => ?_, fun n l ha => ?_, fun e l ha => ?_, step_next s⟩
  · obtain ⟨v, hv⟩ := exec_next (.microopIssue s.hart.core) s.begin
    refine ⟨v, hv, ?_⟩
    rw [step_issues ha hl hw hans hq]
    exact queueTurn_eq (by rw [s.begin_hart]; exact hv)
  · rw [step_idle ha hl hw hans hq]
    exact if_pos hb
  · exact step_retries ha hl hw hans hq hb hd
  all_goals
    unfold step
    rw [ha]
    rfl

/-- The traps that a step takes at the fetch. -/
theorem fetchTraps_claim : Claims.FetchTraps := by
  intro s
  exact ⟨fun ⟨⟨hc, ha, hw⟩, hb, hp⟩ hpc => step_misaligned_traps hc ha hw hb hp hpc,
    fun d ⟨⟨hc, ha, hw⟩, hb, hp⟩ hpc hr hd => step_unprobed_traps hc ha hw hb hp hpc hr hd,
    fun line ⟨hc, ha, hw⟩ hb hwid => step_badLine_traps hc ha hw hb hwid,
    fun ok bs u ha hw hans hf hu hc => step_hostFailed_traps ha hw hans hf hu hc,
    fun u w e h hc hd he => step_rejected_traps h hc hd he,
    fun u w w0 i l h hc hd hl hi hn hw0 => step_nonFollower_traps h hc hd hl hi hn hw0⟩

end Sys2Proof.Machine

/-- Settles O57: each clause is the lemma that names the branch of the step, or of the fetch, that it speaks of. -/
theorem stepRunsDecoded : Obligations.StepRunsDecoded := by
  unfold Obligations.StepRunsDecoded
  exact ⟨Sys2Proof.Machine.stepRunsDecoded_claim, Sys2Proof.Machine.fetchTraps_claim⟩


/-! ## Packing units: what is encoded is decoded (R83, R84, R110) -/

namespace Sys2Proof.Machine

section
variable {α : Type}

/-- Blocks of one length, one after the other: the block of an index. -/
theorem block_flatMap_range (f : Nat → List α) (k : Nat) (hf : ∀ b, (f b).length = k) {n b : Nat} (hb : b < n) :
    (((List.range n).flatMap f).drop (k * b)).take k = f b := by
  induction n with
  | zero => omega
  | succ n ih =>
    have hlen : ((List.range n).flatMap f).length = k * n := by
      simp [List.length_flatMap, hf, Nat.mul_comm]
    rw [List.range_succ, List.flatMap_append, List.flatMap_singleton]
    rcases Nat.lt_succ_iff_lt_or_eq.1 hb with h | rfl
    · have hk : k * b + k ≤ k * n := by rw [← Nat.mul_succ]; exact Nat.mul_le_mul_left k h
      rw [List.drop_append_of_le_length (by omega), List.take_append_of_le_length (by rw [List.length_drop]; omega), ih h]
    · rw [← hlen, List.drop_left, ← hf b, List.take_length]

theorem length_flatMap_range (f : Nat → List α) (k : Nat) (hf : ∀ b, (f b).length = k) (n : Nat) :
    ((List.range n).flatMap f).length = k * n := by
  simp [List.length_flatMap, hf, Nat.mul_comm]

theorem getElem?_flatMap_range (f : Nat → List α) (k : Nat) (hf : ∀ b, (f b).length = k) {n b j : Nat} (hb : b < n)
    (hj : j < k) : ((List.range n).flatMap f)[k * b + j]? = (f b)[j]? := by
  rw [← block_flatMap_range f k hf hb, List.getElem?_take_of_lt hj, List.getElem?_drop]

end

theorem leNat_leBytes (n v : Nat) : Crypto.leNat (Crypto.leBytes n v) = v % 256 ^ n := by
  induction n generalizing v with
  | zero => exact (Nat.mod_one v).symm
  | succ n ih =>
    rw [Crypto.leBytes, Crypto.leNat, ih, Nat.pow_succ']
    exact Nat.mod_mul.symm

/-- Numbers side by side, each below the base. -/
theorem sum_zipIdx_pow (g : Nat → Nat) (B : Nat) (es : List Nat) :
    (es.zipIdx.map fun p => g p.1 * B ^ p.2).sum = Nat.ofDigits B (es.map g) := by
  rw [Nat.ofDigits_eq_sum_mapIdx, List.mapIdx_eq_zipIdx_map, List.zipIdx_map, List.map_map]
  rfl

theorem digit_ofDigits {B : Nat} (hB : 0 < B) (l : List Nat) (h : ∀ x ∈ l, x < B) (j : Nat) :
    Nat.ofDigits B l / B ^ j % B = l.getD j 0 := by
  rw [Nat.ofDigits_div_pow_eq_ofDigits_drop j hB l h, List.getD_eq_getElem?_getD, ← List.head?_drop]
  cases hd : l.drop j with
  | nil => simp
  | cons x xs =>
    have hx : x < B := h x (List.mem_of_mem_drop (hd ▸ List.mem_cons_self))
    rw [Nat.ofDigits_cons, Nat.add_mul_mod_self_left, Nat.mod_eq_of_lt hx]
    rfl

theorem ofDigits_lt {B : Nat} (hB : 1 < B) (l : List Nat) (h : ∀ x ∈ l, x < B) : Nat.ofDigits B l < B ^ l.length :=
  Nat.ofDigits_lt_base_pow_length hB (fun {x} => h x)

/-- A number from its lowest bits, one bit of each of the numbers in turn. -/
theorem foldr_bits (x w : Nat) : ((List.range w).map fun b => x / 2 ^ b % 2).foldr (fun p acc => 2 * acc + p) 0 =
    x % 2 ^ w := by
  induction w generalizing x with
  | zero => exact (Nat.mod_one x).symm
  | succ w ih =>
    have hs (b : Nat) : x / 2 ^ (b + 1) % 2 = x / 2 / 2 ^ b % 2 := by rw [Nat.pow_succ', ← Nat.div_div_eq_div_mul]
    rw [List.range_succ_eq_map, List.map_cons, List.map_map, List.foldr_cons]
    have e : ((fun b => x / 2 ^ b % 2) ∘ Nat.succ) = fun b => x / 2 / 2 ^ b % 2 := funext hs
    rw [e, ih, Nat.pow_succ', Nat.mod_mul, Nat.pow_zero, Nat.div_one]
    omega

/-- A type that a code of R135 names: its packing units hold whole elements. -/
structure ETy.Whole (t : ETy) : Prop where
  width_pos : 0 < t.width
  elems_width : t.unitElems * t.width = 8 * t.unitBytes
  bytes_pos : 0 < t.unitBytes
  bytes_le : t.unitBytes ≤ 128
  elems_dvd : t.unitElems ∣ 64

theorem ETy.whole_of_sliced {t : ETy} (hs : t.sliced = true) (h1 : 1 ≤ t.width) (h2 : t.width ≤ 16) : t.Whole := by
  have he : t.unitElems = 64 := if_pos hs
  have hb : t.unitBytes = 8 * t.width := if_pos hs
  exact ⟨h1, by rw [he, hb]; omega, by omega, by omega, by rw [he]⟩

theorem ETy.ofCode_whole {c : Nat} {t : ETy} (h : ETy.ofCode c = some t) : t.Whole := by
  unfold ETy.ofCode at h
  split at h
  · cases h
    exact ETy.whole_of_sliced rfl (show 1 ≤ c - 0x80 by omega) (show c - 0x80 ≤ 16 by omega)
  · split at h
    · cases h
      exact ETy.whole_of_sliced rfl (show 1 ≤ c - 0xA0 by omega) (show c - 0xA0 ≤ 16 by omega)
    · split at h <;> cases h <;> constructor <;> decide

section
variable {t : ETy} (ht : t.Whole)
include ht

theorem ETy.Whole.elems_pos : 0 < t.unitElems := Nat.pos_of_dvd_of_pos ht.elems_dvd (by decide)

end

theorem ETy.encodeUnit_length (t : ETy) (es : List Nat) : (t.encodeUnit es).length = t.unitBytes := by
  unfold ETy.encodeUnit ETy.unitBytes
  cases t.sliced with
  | true =>
    simp only [if_true]
    exact length_flatMap_range _ 8 (fun b => Crypto.leBytes_length _ _) _
  | false => simp only [Bool.false_eq_true, if_false, Crypto.leBytes_length]

theorem ETy.decodeUnit_length (t : ETy) (bs : List Byte) : (t.decodeUnit bs).length = t.unitElems := by
  unfold ETy.decodeUnit ETy.unitElems
  cases t.sliced <;> simp

/-- What a packing unit decodes, element by element. -/
theorem ETy.decodeUnit_sliced {t : ETy} (hs : t.sliced = true) (bs : List Byte) :
    t.decodeUnit bs = (List.range 64).map fun j =>
      ((List.range t.width).map fun b => Crypto.leNat ((bs.drop (8 * b)).take 8) / 2 ^ j % 2).foldr
        (fun p acc => 2 * acc + p) 0 := by
  unfold ETy.decodeUnit
  rw [if_pos hs]
  simp only [List.foldr_map]

theorem ETy.decodeUnit_packed {t : ETy} (hs : t.sliced = false) (bs : List Byte) :
    t.decodeUnit bs = (List.range t.unitElems).map fun j => Crypto.leNat bs / 2 ^ (t.width * j) % 2 ^ t.width := by
  unfold ETy.decodeUnit
  rw [if_neg (by simp [hs])]

theorem foldr_bits_lt (f : Nat → Nat) (w : Nat) (hf : ∀ b, f b < 2) :
    ((List.range w).map f).foldr (fun p acc => 2 * acc + p) 0 < 2 ^ w := by
  induction w generalizing f with
  | zero => exact Nat.one_pos
  | succ w ih =>
    rw [List.range_succ_eq_map, List.map_cons, List.map_map, List.foldr_cons, Nat.pow_succ]
    have h0 := hf 0
    have h := ih (f ∘ Nat.succ) fun b => hf (b + 1)
    omega

theorem ETy.decodeUnit_lt (t : ETy) (bs : List Byte) : ∀ x ∈ t.decodeUnit bs, x < 2 ^ t.width := by
  intro x hx
  cases hs : t.sliced with
  | true =>
    rw [ETy.decodeUnit_sliced hs] at hx
    obtain ⟨j, -, rfl⟩ := List.mem_map.1 hx
    exact foldr_bits_lt _ _ fun b => Nat.mod_lt _ (by decide)
  | false =>
    rw [ETy.decodeUnit_packed hs] at hx
    obtain ⟨j, -, rfl⟩ := List.mem_map.1 hx
    exact Nat.mod_lt _ (Nat.two_pow_pos _)

section
variable {t : ETy} (es : List Nat) (he : es.length = t.unitElems)
include he

/-- The planes of a bit-sliced unit hold the bits of its elements. -/
theorem ETy.decode_encode_sliced (hs : t.sliced = true) :
    t.decodeUnit (t.encodeUnit es) = es.map (· % 2 ^ t.width) := by
  have he' : es.length = 64 := he.trans (if_pos hs)
  have enc : t.encodeUnit es = (List.range t.width).flatMap fun b =>
      Crypto.leBytes 8 (Nat.ofDigits 2 (es.map fun e => e / 2 ^ b % 2)) := by
    unfold ETy.encodeUnit
    rw [if_pos hs]
    congr 1
    funext b
    exact congrArg _ (sum_zipIdx_pow (fun e => e / 2 ^ b % 2) 2 es)
  have bits (b : Nat) : ∀ x ∈ es.map fun e => e / 2 ^ b % 2, x < 2 := by
    intro x hx
    obtain ⟨e, -, rfl⟩ := List.mem_map.1 hx
    exact Nat.mod_lt _ (by decide)
  have plane (b : Nat) (hb : b ∈ List.range t.width) :
      Crypto.leNat (((t.encodeUnit es).drop (8 * b)).take 8) = Nat.ofDigits 2 (es.map fun e => e / 2 ^ b % 2) := by
    rw [enc, block_flatMap_range _ 8 (fun _ => Crypto.leBytes_length _ _) (List.mem_range.1 hb), leNat_leBytes]
    refine Nat.mod_eq_of_lt (Nat.lt_of_lt_of_eq (ofDigits_lt (by decide) _ (bits b)) ?_)
    rw [List.length_map, he']
    norm_num
  rw [ETy.decodeUnit_sliced hs]
  refine List.ext_getElem (by simp [he']) fun j h1 h2 => ?_
  have hj : j < es.length := by simpa using h2
  rw [List.getElem_map, List.getElem_range, List.getElem_map, ← foldr_bits]
  congr 1
  refine List.map_congr_left fun b hb => ?_
  rw [plane b hb, digit_ofDigits (by decide) _ (bits b), List.getD_eq_getElem?_getD, List.getElem?_map,
    List.getElem?_eq_getElem hj]
  rfl

variable (ht : t.Whole)
include ht

/-- A packed unit holds its elements side by side. -/
theorem ETy.Whole.decode_encode_packed (hs : t.sliced = false) :
    t.decodeUnit (t.encodeUnit es) = es.map (· % 2 ^ t.width) := by
  have hB : 1 < 2 ^ t.width := Nat.one_lt_two_pow ht.width_pos.ne'
  have digits : ∀ x ∈ es.map (· % 2 ^ t.width), x < 2 ^ t.width := by
    intro x hx
    obtain ⟨e, -, rfl⟩ := List.mem_map.1 hx
    exact Nat.mod_lt _ (by omega)
  have enc : Crypto.leNat (t.encodeUnit es) = Nat.ofDigits (2 ^ t.width) (es.map (· % 2 ^ t.width)) := by
    unfold ETy.encodeUnit
    rw [if_neg (by simp [hs]), leNat_leBytes]
    simp only [Nat.pow_mul]
    rw [sum_zipIdx_pow (fun e => e % 2 ^ t.width) (2 ^ t.width) es]
    refine Nat.mod_eq_of_lt (Nat.lt_of_lt_of_eq (ofDigits_lt hB _ digits) ?_)
    rw [List.length_map, he, show (256 : Nat) = 2 ^ 8 from rfl, ← Nat.pow_mul, ← Nat.pow_mul, ← ht.elems_width,
      Nat.mul_comm]
  rw [ETy.decodeUnit_packed hs]
  refine List.ext_getElem (by simp [he]) fun j h1 h2 => ?_
  have hj : j < es.length := by simpa using h2
  rw [List.getElem_map, List.getElem_range, enc, Nat.pow_mul, digit_ofDigits (by omega) _ digits,
    List.getD_eq_getElem?_getD, List.getElem?_eq_getElem (by simpa using hj)]
  rfl

/-- What a packing unit encodes it decodes, each element to its width. -/
theorem ETy.Whole.decode_encode : t.decodeUnit (t.encodeUnit es) = es.map (· % 2 ^ t.width) := by
  cases hs : t.sliced with
  | true => exact ETy.decode_encode_sliced es he hs
  | false => exact ETy.Whole.decode_encode_packed es he ht hs

end

/-- A packing unit of zero bytes holds zeros. -/
theorem ETy.decodeUnit_zero (t : ETy) (n : Nat) : t.decodeUnit (List.replicate n 0) = List.replicate t.unitElems 0 := by
  have zero (n : Nat) : Crypto.leNat (List.replicate n 0) = 0 := by
    induction n with
    | zero => rfl
    | succ n ih => rw [List.replicate_succ, Crypto.leNat, ih]; rfl
  cases hs : t.sliced with
  | true =>
    have he : t.unitElems = 64 := if_pos hs
    have fold (l : List Nat) : (l.map fun _ => 0).foldr (fun p acc => 2 * acc + p) 0 = 0 := by
      induction l with
      | nil => rfl
      | cons x l ih => rw [List.map_cons, List.foldr_cons, ih]
    rw [ETy.decodeUnit_sliced hs, he]
    simp only [List.drop_replicate, List.take_replicate, zero, Nat.zero_div, Nat.zero_mod, fold]
    rw [List.map_const', List.length_range]
  | false =>
    rw [ETy.decodeUnit_packed hs]
    simp only [zero, Nat.zero_div, Nat.zero_mod]
    rw [List.map_const', List.length_range]

end Sys2Proof.Machine


/-! ## Bytes of a register group (R110) -/

namespace Sys2Proof.Machine
open Sys2Proof.Claims

/-- A cleared byte reads as 0, and every other byte as before. -/
theorem Bytes.get_clear {m : Bytes} (hm : Memory.wf m = true) (a n x : Nat) :
    Bytes.get (Bytes.clear m a n) x = if a ≤ x ∧ x < a + n then 0 else Bytes.get m x := by
  have mem (v : Byte) : (x, v) ∈ Bytes.clear m a n ↔ (x, v) ∈ m ∧ (x < a ∨ a + n ≤ x) := by
    rw [Bytes.clear, List.mem_append, (Bytes.mem_split a (x, v) hm).1, (Bytes.mem_split (a + n) (x, v) hm).2]
    exact and_or_left.symm
  split
  · next h =>
    refine Bytes.get_eq_zero fun c hc hx => ?_
    subst hx
    have := ((mem c.2).1 hc).2
    omega
  · next h => exact Bytes.get_congr (Bytes.clear_wf a n hm) hm fun v => (mem v).trans (and_iff_left (by omega))

/-- A byte after a write of a block. -/
theorem Bytes.get_write {m : Bytes} (hm : Memory.wf m = true) (a : Nat) (bs : List Byte) (x : Nat) :
    Bytes.get (Bytes.write m a bs) x = if a ≤ x ∧ x < a + bs.length then bs.getD (x - a) 0 else Bytes.get m x := by
  split
  · next h =>
    have hx : x - a < bs.length := by omega
    have e := Bytes.get_write_same hm a bs (List.getElem?_eq_getElem hx)
    rw [Nat.add_sub_cancel' h.1] at e
    rw [e, List.getD_eq_getElem?_getD, List.getElem?_eq_getElem hx]
    rfl
  · next h => exact Bytes.get_write_other hm a bs (by omega)

/-! ### One register -/

/-- Register `k`; a blank one beyond the last. -/
def regAt (regs : Vector VReg 32) (k : Nat) : VReg := regs.toList.getD k .blank

/-- Every register holds canonical bytes. -/
def Images (regs : Vector VReg 32) : Prop := ∀ r : Fin 32, Memory.wf regs[r].img = true

theorem regAt_eq (regs : Vector VReg 32) {k : Nat} (h : k < 32) : regAt regs k = regs[k] := by
  unfold regAt
  rw [List.getD_eq_getElem?_getD, List.getElem?_eq_getElem (by simpa using h), Vector.getElem_toList]
  rfl

theorem regAt_beyond (regs : Vector VReg 32) {k : Nat} (h : 32 ≤ k) : regAt regs k = .blank := by
  unfold regAt
  rw [List.getD_eq_getElem?_getD, List.getElem?_eq_none (by simpa using h)]
  rfl

theorem images_iff (regs : Vector VReg 32) : Images regs ↔ ∀ k, Memory.wf (regAt regs k).img = true := by
  constructor
  · intro h k
    by_cases hk : k < 32
    · rw [regAt_eq regs hk]
      exact h ⟨k, hk⟩
    · rw [regAt_beyond regs (by omega)]
      rfl
  · intro h r
    have := h r.val
    rwa [regAt_eq regs r.isLt] at this

theorem regAt_setReg (regs : Vector VReg 32) (r k : Nat) (f : VReg → VReg) :
    regAt (setReg regs r f) k = if k = r ∧ k < 32 then f (regAt regs k) else regAt regs k := by
  unfold setReg
  by_cases hr : r < 32
  · rw [dif_pos hr]
    by_cases hk : k < 32
    · rw [regAt_eq _ hk, regAt_eq _ hk, Vector.getElem_set]
      by_cases e : r = k
      · subst e
        simp [hr]
      · rw [if_neg e, if_neg (fun h => e h.1.symm)]
    · rw [regAt_beyond _ (by omega), regAt_beyond _ (by omega), if_neg (fun h => hk h.2)]
  · rw [dif_neg hr, if_neg (by omega)]

/-- A change of some of the registers `v` to `v + g - 1` that keeps every width and the canonical form of the images. -/
structure Rewrites (v g : Nat) (regs regs' : Vector VReg 32) : Prop where
  outside : ∀ k, k < v ∨ v + g ≤ k → regAt regs' k = regAt regs k
  width : ∀ k, (regAt regs' k).width = (regAt regs k).width
  images : Images regs → Images regs'

theorem Rewrites.refl (v g : Nat) (regs : Vector VReg 32) : Rewrites v g regs regs :=
  ⟨fun _ _ => rfl, fun _ => rfl, id⟩

theorem Rewrites.trans {v g : Nat} {a b c : Vector VReg 32} (h : Rewrites v g a b) (k : Rewrites v g b c) :
    Rewrites v g a c :=
  ⟨fun r hr => (k.outside r hr).trans (h.outside r hr), fun r => (k.width r).trans (h.width r),
    fun hi => k.images (h.images hi)⟩

theorem setReg_rewrites {v g r : Nat} (regs : Vector VReg 32) {f : Bytes → Bytes}
    (hf : ∀ m, Memory.wf m = true → Memory.wf (f m) = true) (h1 : v ≤ r) (h2 : r < v + g) :
    Rewrites v g regs (setReg regs r fun x => { x with img := f x.img }) := by
  refine ⟨fun k hk => ?_, fun k => ?_, fun hi => (images_iff _).2 fun k => ?_⟩
  · rw [regAt_setReg, if_neg (by omega)]
  · rw [regAt_setReg]
    split <;> rfl
  · rw [regAt_setReg]
    have := (images_iff _).1 hi k
    split
    · exact hf _ this
    · exact this

/-! ### Bytes of a group -/

/-- Byte `p` of the group that starts at register `v`. -/
def groupByte (regs : Vector VReg 32) (c v p : Nat) : Byte := Bytes.get (regAt regs (v + p / c)).img (p % c)

theorem groupByte_at (regs : Vector VReg 32) {c o : Nat} (v q : Nat) (h : o < c) :
    groupByte regs c v (c * q + o) = Bytes.get (regAt regs (v + q)).img o := by
  unfold groupByte
  rw [Nat.mul_add_div (by omega), Nat.mul_add_mod, Nat.div_eq_of_lt h, Nat.mod_eq_of_lt h, Nat.add_zero]

section
variable {c : Nat} (hc : 0 < c) {regs : Vector VReg 32} (hi : Images regs)
include hc hi

/-- Bytes of a group are read over the border of two registers. -/
theorem groupRead_eq (v pos n : Nat) (hn : n ≤ c) :
    groupRead regs c v pos n = (List.range n).map fun i => groupByte regs c v (pos + i) := by
  have hp := Nat.div_add_mod pos c
  have ho := Nat.mod_lt pos hc
  have hw := (images_iff regs).1 hi
  unfold groupRead
  rw [if_neg (by omega)]
  change (if min n (c - pos % c) = n then Bytes.read (regAt regs (v + pos / c)).img (pos % c) (min n (c - pos % c))
    else Bytes.read (regAt regs (v + pos / c)).img (pos % c) (min n (c - pos % c)) ++
      Bytes.read (regAt regs (v + pos / c + 1)).img 0 (n - min n (c - pos % c))) = _
  generalize pos / c = q at hp ⊢
  generalize pos % c = o at hp ho ⊢
  have near (k : Nat) (hk : o + k ≤ c) : Bytes.read (regAt regs (v + q)).img o k =
      (List.range k).map fun i => groupByte regs c v (pos + i) := by
    rw [Bytes.read_eq (hw _)]
    refine List.map_congr_left fun i hi => ?_
    have := List.mem_range.1 hi
    rw [← hp, Nat.add_assoc, groupByte_at regs v q (by omega)]
  split
  · next h => rw [h]; exact near n (by omega)
  · next h =>
    have hk : min n (c - o) = c - o := by omega
    rw [hk, near _ (by omega), Bytes.read_eq (hw _)]
    have e : n = (c - o) + (n - (c - o)) := by omega
    conv_rhs => rw [e, List.range_add, List.map_append, List.map_map]
    congr 1
    refine List.map_congr_left fun i hi => ?_
    have := List.mem_range.1 hi
    have e : pos + (c - o + i) = c * (q + 1) + i := by rw [Nat.mul_succ]; omega
    rw [Function.comp_apply, e, groupByte_at regs v (q + 1) (by omega), Nat.zero_add, Nat.add_assoc]

/-- A write within one register of a group. -/
theorem groupByte_setReg {v p : Nat} (q o : Nat) (bs : List Byte) (ho : o + bs.length ≤ c) (hp : v + p / c < 32) :
    groupByte (setReg regs (v + q) fun x => { x with img := Bytes.write x.img o bs }) c v p =
      if c * q + o ≤ p ∧ p < c * q + o + bs.length then bs.getD (p - (c * q + o)) 0 else groupByte regs c v p := by
  have hd := Nat.div_add_mod p c
  have hm := Nat.mod_lt p hc
  have hw := (images_iff regs).1 hi
  unfold groupByte
  generalize p / c = k at hd hp ⊢
  generalize p % c = j at hd hm ⊢
  rw [regAt_setReg]
  by_cases hk : k = q
  · subst hk
    rw [if_pos ⟨rfl, hp⟩, Bytes.get_write (hw _)]
    by_cases h : o ≤ j ∧ j < o + bs.length
    · rw [if_pos h, if_pos (by omega)]
      congr 1
      omega
    · rw [if_neg h, if_neg (by omega)]
  · rw [if_neg (by omega), if_neg]
    rcases Nat.lt_or_gt_of_ne hk with h | h
    · have := Nat.mul_le_mul_left c h
      rw [Nat.mul_succ] at this
      omega
    · have := Nat.mul_le_mul_left c h
      rw [Nat.mul_succ] at this
      omega

/-- A write to a group that starts at a position of one of its registers and ends in it, or at the start of the next. -/
theorem groupByte_groupWrite {v p : Nat} (pos : Nat) (bs : List Byte) (hb : pos % c + bs.length ≤ c)
    (hp : v + p / c < 32) :
    groupByte (groupWrite regs c v pos bs) c v p =
      if pos ≤ p ∧ p < pos + bs.length then bs.getD (p - pos) 0 else groupByte regs c v p := by
  have hd := Nat.div_add_mod pos c
  have hk : min bs.length (c - pos % c) = bs.length := by omega
  unfold groupWrite
  rw [if_neg (by omega)]
  dsimp only
  rw [hk, if_pos rfl, List.take_length, groupByte_setReg hc hi _ _ _ hb hp, hd]

omit hi in
theorem groupWrite_rewrites {v g : Nat} (pos : Nat) (bs : List Byte) (hb : pos % c + bs.length ≤ c)
    (hpos : pos < c * g) : Rewrites v g regs (groupWrite regs c v pos bs) := by
  have hk : min bs.length (c - pos % c) = bs.length := by omega
  have hq : pos / c < g := Nat.div_lt_of_lt_mul hpos
  unfold groupWrite
  rw [if_neg (by omega)]
  dsimp only
  rw [hk, if_pos rfl]
  exact setReg_rewrites regs (fun m hm => Bytes.write_wf _ _ hm) (Nat.le_add_right _ _) (Nat.add_lt_add_left hq _)

end

theorem groupWrite_nil (regs : Vector VReg 32) (c v pos : Nat) : groupWrite regs c v pos [] = regs := by
  have hw (m : Bytes) (a : Nat) : Bytes.write m a [] = m := by
    unfold Bytes.write Bytes.cells
    rw [List.append_nil]
    exact List.takeWhile_append_dropWhile
  have hs (r o : Nat) : setReg regs r (fun x => { x with img := Bytes.write x.img o [] }) = regs := by
    unfold setReg
    simp only [hw]
    split
    · exact Vector.set_getElem_self _
    · rfl
  unfold groupWrite
  dsimp only
  rw [List.take_nil, hs, List.length_nil, Nat.zero_min, if_pos rfl]
  exact ite_self _

/-- Bytes written to a group, the first part in one register and the rest in the next. -/
def writeOver (regs : Vector VReg 32) (c v pos : Nat) (new : List Byte) : Vector VReg 32 :=
  groupWrite (groupWrite regs c v pos (new.take (c - pos % c))) c v (pos + (c - pos % c)) (new.drop (c - pos % c))

section
variable {c g v pos : Nat} {new : List Byte} (hc : 0 < c) (hn : new.length ≤ c) (hp : pos + new.length ≤ c * g)
  (regs : Vector VReg 32)
include hc hn hp

omit hn hp in
theorem writeOver_second : (pos + (c - pos % c)) % c = 0 := by
  have hm := Nat.mod_lt pos hc
  have hd := Nat.div_add_mod pos c
  have e : pos + (c - pos % c) = c * (pos / c + 1) := by
    rw [Nat.mul_succ]
    omega
  rw [e, Nat.mul_mod_right]

omit hn in
theorem writeOver_first_rewrites : Rewrites v g regs (groupWrite regs c v pos (new.take (c - pos % c))) := by
  have hm := Nat.mod_lt pos hc
  cases new with
  | nil => rw [List.take_nil, groupWrite_nil]; exact .refl _ _ _
  | cons b l =>
    refine groupWrite_rewrites hc pos _ ?_ ?_
    · rw [List.length_take]; omega
    · rw [List.length_cons] at hp; omega

theorem writeOver_rewrites : Rewrites v g regs (writeOver regs c v pos new) := by
  refine (writeOver_first_rewrites hc hp regs).trans ?_
  unfold writeOver
  by_cases hd : new.length ≤ c - pos % c
  · rw [List.drop_of_length_le hd, groupWrite_nil]
    exact .refl _ _ _
  · refine groupWrite_rewrites hc _ _ ?_ (by omega)
    rw [writeOver_second hc, List.length_drop]
    omega

theorem groupByte_writeOver (hi : Images regs) {p : Nat} (hpv : v + p / c < 32) :
    groupByte (writeOver regs c v pos new) c v p =
      if pos ≤ p ∧ p < pos + new.length then new.getD (p - pos) 0 else groupByte regs c v p := by
  have hm := Nat.mod_lt pos hc
  unfold writeOver
  rw [groupByte_groupWrite hc ((writeOver_first_rewrites (g := g) hc hp regs).images hi) _ _
      (by rw [writeOver_second hc, List.length_drop]; omega) hpv,
    groupByte_groupWrite hc hi _ _ (by rw [List.length_take]; omega) hpv, List.length_take, List.length_drop]
  simp only [List.getD_eq_getElem?_getD, List.getElem?_drop]
  by_cases h2 : pos + (c - pos % c) ≤ p ∧ p < pos + new.length
  · rw [if_pos (by omega), if_pos (by omega)]
    congr 3
    omega
  · rw [if_neg (by omega)]
    by_cases h1 : pos ≤ p ∧ p < pos + new.length
    · rw [if_pos (by omega), if_pos h1, List.getElem?_take_of_lt (by omega)]
    · rw [if_neg (by omega), if_neg h1]

end

/-! ### Elements of a group -/

/-- The encodings in packing unit `u` of a group. -/
def unitAt (regs : Vector VReg 32) (c v : Nat) (t : ETy) (u : Nat) : List Nat :=
  t.decodeUnit (groupRead regs c v (u * t.unitBytes) t.unitBytes)

theorem unitAt_length (regs : Vector VReg 32) (c v : Nat) (t : ETy) (u : Nat) :
    (unitAt regs c v t u).length = t.unitElems := ETy.decodeUnit_length t _

theorem readElem_eq (regs : Vector VReg 32) (c v : Nat) (t : ETy) (i : Nat) :
    readElem regs c v t i = (unitAt regs c v t (i / t.unitElems)).getD (i % t.unitElems) 0 := by
  unfold readElem readUnits unitAt
  simp

theorem readElem_lt (regs : Vector VReg 32) (c v : Nat) (t : ETy) (i : Nat) : readElem regs c v t i < 2 ^ t.width := by
  rw [readElem_eq, List.getD_eq_getElem?_getD]
  cases h : (unitAt regs c v t (i / t.unitElems))[i % t.unitElems]? with
  | none => exact Nat.two_pow_pos _
  | some x => exact ETy.decodeUnit_lt t _ x (List.mem_of_getElem? h)

/-- Element `lo + i`, counted from the packing unit of element `lo`. -/
theorem readElem_add {t : ETy} (ht : t.Whole) (regs : Vector VReg 32) (c v lo i : Nat) :
    readElem regs c v t (lo + i) = (unitAt regs c v t (lo / t.unitElems + (lo % t.unitElems + i) / t.unitElems)).getD
      ((lo % t.unitElems + i) % t.unitElems) 0 := by
  have e : lo + i = t.unitElems * (lo / t.unitElems) + (lo % t.unitElems + i) := by
    rw [← Nat.add_assoc, Nat.div_add_mod]
  rw [readElem_eq, e, Nat.mul_add_div ht.elems_pos, Nat.mul_add_mod]

/-- Elements `lo` on, one by one. -/
theorem readElems_eq {t : ETy} (ht : t.Whole) (regs : Vector VReg 32) (c v lo n : Nat) :
    readElems regs c v t lo n = (List.range n).map fun i => readElem regs c v t (lo + i) := by
  have hpos := ht.elems_pos
  have hd := Nat.div_add_mod lo t.unitElems
  have hceil := Nat.div_add_mod (lo + n + t.unitElems - 1) t.unitElems
  have hcm := Nat.mod_lt (lo + n + t.unitElems - 1) hpos
  have hlen := length_flatMap_range _ _ (fun i => unitAt_length regs c v t (lo / t.unitElems + i))
    ((lo + n + t.unitElems - 1) / t.unitElems - lo / t.unitElems)
  rw [Nat.mul_sub] at hlen
  refine List.ext_getElem? fun i => ?_
  by_cases hi : i < n
  · have hj := Nat.mod_lt (lo % t.unitElems + i) hpos
    have hb : (lo % t.unitElems + i) / t.unitElems < (lo + n + t.unitElems - 1) / t.unitElems - lo / t.unitElems := by
      refine Nat.div_lt_of_lt_mul ?_
      rw [Nat.mul_sub]
      omega
    have hu := getElem?_flatMap_range _ _ (fun i => unitAt_length regs c v t (lo / t.unitElems + i)) hb hj
    rw [Nat.div_add_mod] at hu
    unfold readElems
    rw [List.getElem?_take_of_lt hi, List.getElem?_drop, List.getElem?_map, List.getElem?_range hi, Option.map_some,
      readElem_add ht, List.getD_eq_getElem?_getD]
    refine hu.trans ?_
    rw [List.getElem?_eq_getElem (by rw [unitAt_length]; exact hj)]
    rfl
  · have h1 : (readElems regs c v t lo n).length ≤ i := by
      unfold readElems
      rw [List.length_take]
      omega
    rw [List.getElem?_eq_none h1, List.getElem?_eq_none (by simpa using hi)]

end Sys2Proof.Machine


/-! ## Elements of a register group after a write (R83, R84, R110) -/

namespace Sys2Proof.Machine
open Sys2Proof.Claims

/-- A group of `g` registers of `c` bytes, as a hart with a share has them. -/
structure Room (c g v : Nat) : Prop where
  big : 16384 ≤ c
  dvd : 8 ∣ c
  fits : v + g ≤ 32
  small : g ≤ 8

theorem Room.pos {c g v : Nat} (h : Room c g v) : 0 < c := by have := h.big; omega

theorem Room.reg_lt {c g v p : Nat} (h : Room c g v) (hp : p < c * g) : v + p / c < 32 := by
  have h1 : p / c < g := Nat.div_lt_of_lt_mul hp
  have h2 := h.fits
  generalize p / c = q at h1 ⊢
  omega

/-- The elements of a group fill whole packing units, which lie in it. -/
theorem vlmaxFor_units {t : ETy} (ht : t.Whole) {c g v : Nat} (h : Room c g v) :
    ∃ n, vlmaxFor t g c = t.unitElems * n ∧ n * t.unitBytes ≤ c * g := by
  have hpos := ht.elems_pos
  have hub : g * c / t.unitBytes * t.unitBytes ≤ c * g := by
    rw [Nat.mul_comm c g]
    exact Nat.div_mul_le_self _ _
  unfold vlmaxFor
  by_cases hm : t.unitElems * (g * c / t.unitBytes) ≤ 8 * c
  · exact ⟨_, Nat.min_eq_left hm, hub⟩
  · obtain ⟨k, hk⟩ : t.unitElems ∣ 8 * c := ht.elems_dvd.trans (Nat.mul_dvd_mul_left 8 h.dvd)
    refine ⟨k, (Nat.min_eq_right (by omega)).trans hk, Nat.le_trans (Nat.mul_le_mul_right _ ?_) hub⟩
    rw [hk, not_le] at hm
    exact Nat.le_of_lt (Nat.lt_of_mul_lt_mul_left hm)

/-- The bytes of a packing unit below VLMAX lie in the group. -/
theorem unit_fits {t : ETy} (ht : t.Whole) {c g v i : Nat} (h : Room c g v) (hi : i < vlmaxFor t g c) :
    (i / t.unitElems) * t.unitBytes + t.unitBytes ≤ c * g := by
  obtain ⟨n, hn, hb⟩ := vlmaxFor_units ht h
  rw [hn] at hi
  have hq : i / t.unitElems + 1 ≤ n := Nat.div_lt_of_lt_mul hi
  have := Nat.mul_le_mul_right t.unitBytes hq
  rw [Nat.succ_mul] at this
  omega

section
variable {t : ETy} (ht : t.Whole) {c g v : Nat} (hr : Room c g v) {regs regs' : Vector VReg 32} (hi : Images regs)
include ht hr hi

theorem unitAt_bytes (u : Nat) :
    unitAt regs c v t u = t.decodeUnit ((List.range t.unitBytes).map fun i => groupByte regs c v (u * t.unitBytes + i)) := by
  have h1 := ht.bytes_le
  have h2 := hr.big
  unfold unitAt
  rw [groupRead_eq hr.pos hi v _ _ (by omega)]

/-- A packing unit depends on its bytes alone. -/
theorem unitAt_congr (hi' : Images regs') {u : Nat} (h : ∀ i, i < t.unitBytes →
    groupByte regs' c v (u * t.unitBytes + i) = groupByte regs c v (u * t.unitBytes + i)) :
    unitAt regs' c v t u = unitAt regs c v t u := by
  rw [unitAt_bytes ht hr hi, unitAt_bytes ht hr hi']
  congr 1
  exact List.map_congr_left fun i hi => h i (List.mem_range.1 hi)

omit hi in
theorem unitAt_of_bytes (hi' : Images regs') {u : Nat} {bs : List Byte} (hb : bs.length = t.unitBytes)
    (h : ∀ i, i < t.unitBytes → groupByte regs' c v (u * t.unitBytes + i) = bs.getD i 0) :
    unitAt regs' c v t u = t.decodeUnit bs := by
  rw [unitAt_bytes ht hr hi']
  congr 1
  refine List.ext_getElem (by simp [hb]) fun i h1 h2 => ?_
  rw [List.getElem_map, List.getElem_range, h i (by omega), List.getD_eq_getElem?_getD, List.getElem?_eq_getElem h2]
  rfl

end

/-- Elements of a group depend on its own registers alone. -/
theorem readElem_of_outside {t : ETy} (ht : t.Whole) {c g v : Nat} (hr : Room c g v) {regs regs' : Vector VReg 32}
    (hi : Images regs) (hi' : Images regs') (h : ∀ k, v ≤ k → k < v + g → (regAt regs' k).img = (regAt regs k).img)
    {i : Nat} (hlt : i < vlmaxFor t g c) : readElem regs' c v t i = readElem regs c v t i := by
  rw [readElem_eq, readElem_eq, unitAt_congr ht hr hi hi' fun j hj => ?_]
  have hf := unit_fits ht hr hlt
  have hq : (i / t.unitElems * t.unitBytes + j) / c < g := Nat.div_lt_of_lt_mul (by omega)
  unfold groupByte
  rw [h _ (Nat.le_add_right _ _) (Nat.add_lt_add_left hq _)]

/-- Element `i` after a write of values from element `lo` on, where it was `x`. -/
def placed (w lo : Nat) (vals : List (Option Nat)) (i x : Nat) : Nat :=
  (if i < lo then x else (vals.getD (i - lo) none).getD x) % 2 ^ w

/-- The elements of unit `u` after a write of values from element `lo` on. -/
def newElems (regs : Vector VReg 32) (c v : Nat) (t : ETy) (lo : Nat) (vals : List (Option Nat)) (u : Nat) : List Nat :=
  (unitAt regs c v t u).zipIdx.map fun p =>
    if u * t.unitElems + p.2 < lo then p.1 else (vals.getD (u * t.unitElems + p.2 - lo) none).getD p.1

theorem newElems_length (regs : Vector VReg 32) (c v : Nat) (t : ETy) (lo : Nat) (vals : List (Option Nat)) (u : Nat) :
    (newElems regs c v t lo vals u).length = t.unitElems := by
  simp [newElems, unitAt_length]

/-- Packing units that a write of `n` elements from element `lo` on changes. -/
def reachedUnits (t : ETy) (lo n : Nat) : Nat := (lo + n + t.unitElems - 1) / t.unitElems - lo / t.unitElems

theorem writeElems_eq {c : Nat} (hc : 0 < c) (regs : Vector VReg 32) (v : Nat) (t : ETy) (lo : Nat)
    (vals : List (Option Nat)) : writeElems regs c v t lo vals = writeOver regs c v (lo / t.unitElems * t.unitBytes)
      ((List.range (reachedUnits t lo vals.length)).flatMap fun i =>
        t.encodeUnit (newElems regs c v t lo vals (lo / t.unitElems + i))) := by
  unfold writeElems writeOver
  dsimp only
  rw [if_neg (by omega)]
  rfl

section
variable {t : ETy} (ht : t.Whole) {c g v : Nat} (hr : Room c g v) {regs : Vector VReg 32} {lo : Nat}
  {vals : List (Option Nat)} (hlo : lo + vals.length ≤ vlmaxFor t g c) (hn : vals.length ≤ t.perGroup)
include ht

omit ht in
theorem newBytes_length (n : Nat) : ((List.range n).flatMap fun i =>
    t.encodeUnit (newElems regs c v t lo vals (lo / t.unitElems + i))).length = t.unitBytes * n :=
  length_flatMap_range _ _ (fun _ => ETy.encodeUnit_length t _) _

include hn hr in
/-- What an element group writes is less than a register. -/
theorem reachedUnits_le : t.unitBytes * reachedUnits t lo vals.length ≤ c := by
  have hpos := ht.elems_pos
  have h1 : reachedUnits t lo vals.length ≤ 1024 / t.unitBytes + 1 := by
    have hd := Nat.div_add_mod lo t.unitElems
    have hm := Nat.mod_lt lo hpos
    have : (lo + vals.length + t.unitElems - 1) / t.unitElems < lo / t.unitElems + (1024 / t.unitBytes + 2) := by
      refine Nat.div_lt_of_lt_mul ?_
      unfold ETy.perGroup at hn
      rw [Nat.mul_add, Nat.mul_add]
      omega
    have := Nat.zero_le (1024 / t.unitBytes)
    unfold reachedUnits
    omega
  have h2 := Nat.mul_le_mul_left t.unitBytes h1
  have h3 := Nat.mul_div_le 1024 t.unitBytes
  have h4 := ht.bytes_le
  have h5 := hr.big
  rw [Nat.mul_add] at h2
  omega

include hlo hr in
theorem reachedUnits_fits : lo / t.unitElems * t.unitBytes + t.unitBytes * reachedUnits t lo vals.length ≤ c * g := by
  have hpos := ht.elems_pos
  obtain ⟨n, he, hb⟩ := vlmaxFor_units ht hr
  rw [he] at hlo
  have hle : lo / t.unitElems ≤ (lo + vals.length + t.unitElems - 1) / t.unitElems := Nat.div_le_div_right (by omega)
  have h1 : (lo + vals.length + t.unitElems - 1) / t.unitElems ≤ n := by
    refine Nat.le_of_lt_succ (Nat.div_lt_of_lt_mul ?_)
    rw [Nat.mul_succ]
    omega
  have h2 : lo / t.unitElems + reachedUnits t lo vals.length ≤ n := by
    unfold reachedUnits
    omega
  rw [Nat.mul_comm t.unitBytes, ← Nat.add_mul]
  exact Nat.le_trans (Nat.mul_le_mul_right _ h2) hb

include hlo hn hr

theorem writeElems_rewrites : Rewrites v g regs (writeElems regs c v t lo vals) := by
  rw [writeElems_eq hr.pos]
  refine writeOver_rewrites hr.pos ?_ ?_ regs <;> rw [newBytes_length]
  · exact reachedUnits_le ht hr hn
  · exact reachedUnits_fits ht hr hlo

variable (hi : Images regs)
include hi

theorem groupByte_writeElems {p : Nat} (hp : p < c * g) : groupByte (writeElems regs c v t lo vals) c v p =
    if lo / t.unitElems * t.unitBytes ≤ p ∧
        p < lo / t.unitElems * t.unitBytes + t.unitBytes * reachedUnits t lo vals.length then
      ((List.range (reachedUnits t lo vals.length)).flatMap fun i =>
        t.encodeUnit (newElems regs c v t lo vals (lo / t.unitElems + i))).getD (p - lo / t.unitElems * t.unitBytes) 0
    else groupByte regs c v p := by
  rw [writeElems_eq hr.pos, groupByte_writeOver hr.pos (by rw [newBytes_length]; exact reachedUnits_le ht hr hn)
    (by rw [newBytes_length]; exact reachedUnits_fits ht hr hlo) regs hi (hr.reg_lt hp), newBytes_length]

/-- A packing unit after a write of some elements: encoded anew where the write reaches it. -/
theorem unitAt_writeElems {u : Nat} (hu : u * t.unitBytes + t.unitBytes ≤ c * g) :
    unitAt (writeElems regs c v t lo vals) c v t u =
      if lo / t.unitElems ≤ u ∧ u < lo / t.unitElems + reachedUnits t lo vals.length then
        (newElems regs c v t lo vals u).map (· % 2 ^ t.width)
      else unitAt regs c v t u := by
  have hi' := (writeElems_rewrites ht hr hlo hn).images hi
  split
  · next h =>
    obtain ⟨b, rfl⟩ := Nat.exists_eq_add_of_le h.1
    have hb : b < reachedUnits t lo vals.length := by omega
    rw [unitAt_of_bytes ht hr hi' (ETy.encodeUnit_length t (newElems regs c v t lo vals (lo / t.unitElems + b)))
      fun j hj => ?_, ht.decode_encode _ (newElems_length _ _ _ _ _ _ _)]
    have hle := Nat.mul_le_mul_left t.unitBytes hb
    rw [Nat.mul_succ] at hle
    rw [groupByte_writeElems ht hr hlo hn hi (by omega), Nat.add_mul, Nat.mul_comm b, if_pos (by omega), Nat.add_assoc,
      Nat.add_sub_cancel_left, List.getD_eq_getElem?_getD, List.getD_eq_getElem?_getD,
      getElem?_flatMap_range _ _ (fun _ => ETy.encodeUnit_length t _) hb hj]
  · next h =>
    refine unitAt_congr ht hr hi hi' fun j hj => ?_
    rw [groupByte_writeElems ht hr hlo hn hi (by omega), if_neg]
    intro hp
    refine h ⟨?_, ?_⟩
    · refine Nat.le_of_lt_succ (Nat.lt_of_mul_lt_mul_right (a := t.unitBytes) ?_)
      rw [Nat.succ_mul]
      omega
    · refine Nat.lt_of_mul_lt_mul_right (a := t.unitBytes) ?_
      rw [Nat.add_mul, Nat.mul_comm (reachedUnits _ _ _)]
      omega

/-- Each element of the group after a write of some of them. -/
theorem readElem_writeElems {i : Nat} (hlt : i < vlmaxFor t g c) : readElem (writeElems regs c v t lo vals) c v t i =
    placed t.width lo vals i (readElem regs c v t i) := by
  have hpos := ht.elems_pos
  have hd := Nat.div_add_mod i t.unitElems
  have hm := Nat.mod_lt i hpos
  have hold : readElem regs c v t i % 2 ^ t.width = readElem regs c v t i := Nat.mod_eq_of_lt (readElem_lt _ _ _ _ _)
  have hx : (unitAt regs c v t (i / t.unitElems))[i % t.unitElems]? = some (readElem regs c v t i) := by
    rw [readElem_eq, List.getD_eq_getElem?_getD, List.getElem?_eq_getElem (by rw [unitAt_length]; exact hm)]
    rfl
  rw [readElem_eq (writeElems _ _ _ _ _ _), unitAt_writeElems ht hr hlo hn hi (unit_fits ht hr hlt)]
  unfold placed
  split
  · rw [List.getD_eq_getElem?_getD, List.getElem?_map, newElems, List.getElem?_map, List.getElem?_zipIdx, hx]
    simp only [Option.map_some, Option.getD_some, Nat.zero_add, Nat.mul_comm (i / t.unitElems), hd]
  · next h =>
    rw [List.getD_eq_getElem?_getD, hx, Option.getD_some]
    split
    · exact hold.symm
    · next hlo' =>
      have hout : vals.length ≤ i - lo := by
        by_contra hc
        refine h ⟨Nat.div_le_div_right (by omega), ?_⟩
        have hceil : i / t.unitElems < (lo + vals.length + t.unitElems - 1) / t.unitElems := by
          rw [Nat.div_lt_iff_lt_mul hpos]
          have := Nat.div_add_mod (lo + vals.length + t.unitElems - 1) t.unitElems
          have := Nat.mod_lt (lo + vals.length + t.unitElems - 1) hpos
          rw [Nat.mul_comm]
          omega
        unfold reachedUnits
        omega
      rw [List.getD_eq_getElem?_getD, List.getElem?_eq_none hout]
      exact hold.symm

end

end Sys2Proof.Machine


/-! ## What an instruction writes to its destination groups (R142, R143) -/

namespace Sys2Proof.Machine
open Sys2Proof.Claims

/-! ### Many elements -/

theorem placed_lt (w lo : Nat) (vals : List (Option Nat)) (i x : Nat) : placed w lo vals i x < 2 ^ w :=
  Nat.mod_lt _ (Nat.two_pow_pos w)

/-- Values placed in two runs, one after the other. -/
theorem placed_take_add (w lo n m : Nat) (vals : List (Option Nat)) (i x : Nat) :
    placed w (lo + n) ((vals.drop n).take m) i (placed w lo (vals.take n) i x) = placed w lo (vals.take (n + m)) i x := by
  unfold placed
  simp only [List.getD_eq_getElem?_getD, List.getElem?_take, List.getElem?_drop]
  by_cases h1 : i < lo
  · rw [if_pos h1, if_pos h1, if_pos (by omega), Nat.mod_mod]
  · rw [if_neg h1, if_neg h1]
    by_cases h2 : i - lo < n
    · rw [if_pos (by omega), if_pos h2, if_pos (by omega), Nat.mod_mod]
    · rw [if_neg (by omega), if_neg h2]
      have e : n + (i - (lo + n)) = i - lo := by omega
      by_cases h3 : i - lo < n + m
      · rw [if_pos (by omega), if_pos h3, e]
        cases (vals[i - lo]?).getD none with
        | none => simp
        | some y => rfl
      · rw [if_neg (by omega), if_neg h3]
        simp

theorem ETy.Whole.perGroup_pos {t : ETy} (ht : t.Whole) : t.unitElems ≤ t.perGroup :=
  Nat.le_mul_of_pos_right _ (Nat.div_pos (Nat.le_trans ht.bytes_le (by decide)) ht.bytes_pos)

section
variable {t : ETy} (ht : t.Whole) {c g v : Nat} (hr : Room c g v) {regs : Vector VReg 32} (hi : Images regs)
include ht hr hi

/-- The first `k` element groups of many elements. -/
theorem putLong_groups {lo : Nat} {vals : List (Option Nat)} (hlo : lo + vals.length ≤ vlmaxFor t g c) (k : Nat)
    (hk : k ≤ (vals.length + t.perGroup - 1) / t.perGroup) :
    let rs := (List.range k).foldl (fun rs k =>
      writeElems rs c v t (lo + k * t.perGroup) ((vals.drop (k * t.perGroup)).take t.perGroup)) regs
    Rewrites v g regs rs ∧ ∀ i, i < vlmaxFor t g c →
      readElem rs c v t i = placed t.width lo (vals.take (k * t.perGroup)) i (readElem regs c v t i) := by
  have hpos : 0 < t.perGroup := Nat.lt_of_lt_of_le ht.elems_pos ht.perGroup_pos
  induction k with
  | zero =>
    refine ⟨.refl _ _ _, fun i _ => ?_⟩
    rw [Nat.zero_mul, List.take_zero]
    unfold placed
    simp [Nat.mod_eq_of_lt (readElem_lt _ _ _ _ _)]
  | succ k ih =>
    obtain ⟨hrw, hel⟩ := ih (by omega)
    rw [List.range_succ, List.foldl_append]
    dsimp only [List.foldl_cons, List.foldl_nil]
    have hlt : k * t.perGroup < vals.length := by
      have h := (Nat.le_div_iff_mul_le hpos).1 hk
      rw [Nat.succ_mul] at h
      omega
    have hn : ((vals.drop (k * t.perGroup)).take t.perGroup).length ≤ t.perGroup := List.length_take_le _ _
    have hfit : lo + k * t.perGroup + ((vals.drop (k * t.perGroup)).take t.perGroup).length ≤ vlmaxFor t g c := by
      rw [List.length_take, List.length_drop]
      omega
    refine ⟨hrw.trans (writeElems_rewrites ht hr hfit hn), fun i hlt => ?_⟩
    rw [readElem_writeElems ht hr hfit hn (hrw.images hi) hlt, hel i hlt, placed_take_add, Nat.succ_mul]

theorem putLong_spec {lo : Nat} {vals : List (Option Nat)} (hlo : lo + vals.length ≤ vlmaxFor t g c) :
    Rewrites v g regs (putLong regs c v t lo vals) ∧ ∀ i, i < vlmaxFor t g c →
      readElem (putLong regs c v t lo vals) c v t i = placed t.width lo vals i (readElem regs c v t i) := by
  have hpos : 0 < t.perGroup := Nat.lt_of_lt_of_le ht.elems_pos ht.perGroup_pos
  have h := putLong_groups ht hr hi hlo _ (Nat.le_refl _)
  have hall : vals.length ≤ (vals.length + t.perGroup - 1) / t.perGroup * t.perGroup := by
    have := Nat.div_add_mod (vals.length + t.perGroup - 1) t.perGroup
    have := Nat.mod_lt (vals.length + t.perGroup - 1) hpos
    rw [Nat.mul_comm]
    omega
  rw [List.take_of_length_le hall] at h
  exact h

end

/-! ### Cleared elements -/

section
variable {c g v : Nat} (hr : Room c g v) {regs : Vector VReg 32} (hi : Images regs) {pos n : Nat}
  (hp : pos + n ≤ c * g)
include hr hi hp

/-- The part of a cleared range in the first `k` registers of a group. -/
theorem clearBytes_regs (k : Nat) :
    let rs := (List.range k).foldl (fun rs j =>
      if max pos (j * c) < min (pos + n) ((j + 1) * c) then
        setReg rs (v + j) fun x => { x with
          img := Bytes.clear x.img (max pos (j * c) - j * c) (min (pos + n) ((j + 1) * c) - max pos (j * c)) }
      else rs) regs
    Rewrites v g regs rs ∧ ∀ p, p < c * g →
      groupByte rs c v p = if p / c < k ∧ pos ≤ p ∧ p < pos + n then 0 else groupByte regs c v p := by
  induction k with
  | zero => exact ⟨.refl _ _ _, fun p _ => (if_neg fun h => Nat.not_lt_zero _ h.1).symm⟩
  | succ k ih =>
    obtain ⟨hrw, hb⟩ := ih
    rw [List.range_succ, List.foldl_append]
    dsimp only [List.foldl_cons, List.foldl_nil]
    generalize (List.range k).foldl _ regs = rs at hrw hb
    have hw := (images_iff rs).1 (hrw.images hi)
    have hkc : (k + 1) * c = k * c + c := Nat.succ_mul k c
    split
    · next h =>
      have hkg : k < g := Nat.lt_of_mul_lt_mul_left (a := c) (by rw [Nat.mul_comm c k]; omega)
      refine ⟨hrw.trans (setReg_rewrites rs (fun m hm => Bytes.clear_wf _ _ hm) (by omega) (by omega)), fun p hlt => ?_⟩
      have hd := Nat.div_add_mod p c
      have hm := Nat.mod_lt p hr.pos
      have hv := hr.reg_lt hlt
      have hb := hb p hlt
      unfold groupByte at hb ⊢
      rw [regAt_setReg]
      generalize p / c = q at hd hv hb ⊢
      generalize p % c = o at hd hm hb ⊢
      by_cases hk : q = k
      · subst hk
        rw [if_neg (fun h => Nat.lt_irrefl _ h.1)] at hb
        rw [Nat.mul_comm] at hd
        rw [if_pos ⟨rfl, hv⟩, Bytes.get_clear (hw _), hb]
        by_cases hin : pos ≤ p ∧ p < pos + n
        · rw [if_pos (by omega), if_pos ⟨Nat.lt_succ_self _, hin⟩]
        · rw [if_neg (by omega), if_neg (fun h => hin h.2)]
      · rw [if_neg (by omega), hb]
        by_cases hq : q < k
        · simp only [hq, Nat.lt_succ_of_lt hq]
        · rw [if_neg (fun h => hq h.1), if_neg (fun h => by omega)]
    · next h =>
      refine ⟨hrw, fun p hlt => (hb p hlt).trans ?_⟩
      have hd := Nat.div_add_mod p c
      have hm := Nat.mod_lt p hr.pos
      generalize p / c = q at hd ⊢
      by_cases hk : q = k
      · subst hk
        rw [Nat.mul_comm] at hd
        rw [if_neg (fun h => Nat.lt_irrefl _ h.1), if_neg (fun h => by omega)]
      · by_cases hq : q < k
        · simp only [hq, Nat.lt_succ_of_lt hq]
        · rw [if_neg (fun h => hq h.1), if_neg (fun h => by omega)]

theorem clearBytes_spec : Rewrites v g regs (clearBytes regs c v pos n) ∧ ∀ p, p < c * g →
    groupByte (clearBytes regs c v pos n) c v p = if pos ≤ p ∧ p < pos + n then 0 else groupByte regs c v p := by
  obtain ⟨hrw, hb⟩ := clearBytes_regs hr hi hp 8
  refine ⟨hrw, fun p hlt => (hb p hlt).trans ?_⟩
  have h8 : p / c < 8 := Nat.lt_of_lt_of_le (Nat.div_lt_of_lt_mul hlt) hr.small
  simp only [h8, true_and]

end

section
variable {t : ETy} (ht : t.Whole) {c g v : Nat} (hr : Room c g v) {regs : Vector VReg 32} (hi : Images regs)
include ht hr hi

/-- Whole packing units from unit `u` to the last of the group are cleared. -/
theorem clearUnits_spec {n u : Nat} (hn : vlmaxFor t g c = t.unitElems * n) (hb : n * t.unitBytes ≤ c * g) (hu : u ≤ n) :
    let rs := clearBytes regs c v (u * t.unitBytes) (n * t.unitBytes - u * t.unitBytes)
    Rewrites v g regs rs ∧ ∀ i, i < vlmaxFor t g c →
      readElem rs c v t i = if u * t.unitElems ≤ i then 0 else readElem regs c v t i := by
  have hle := Nat.mul_le_mul_right t.unitBytes hu
  obtain ⟨hrw, hby⟩ := clearBytes_spec hr hi (pos := u * t.unitBytes) (n := n * t.unitBytes - u * t.unitBytes) (by omega)
  refine ⟨hrw, fun i hlt => ?_⟩
  have hpos := ht.elems_pos
  have hf := unit_fits ht hr hlt
  rw [hn] at hlt
  have hq : i / t.unitElems < n := Nat.div_lt_of_lt_mul hlt
  have hq' := Nat.mul_le_mul_right t.unitBytes hq
  rw [Nat.succ_mul] at hq'
  rw [readElem_eq, readElem_eq]
  by_cases h : u * t.unitElems ≤ i
  · have hui := Nat.mul_le_mul_right t.unitBytes ((Nat.le_div_iff_mul_le hpos).2 h)
    rw [if_pos h, unitAt_of_bytes ht hr (hrw.images hi) (List.length_replicate (n := t.unitBytes) (a := 0)) fun j hj => ?_,
      ETy.decodeUnit_zero]
    · rw [List.getD_eq_getElem?_getD, List.getElem?_replicate]
      split <;> rfl
    · rw [hby _ (by omega), if_pos (by omega), List.getD_eq_getElem?_getD, List.getElem?_replicate, if_pos hj]
      rfl
  · have hui : i / t.unitElems < u := (Nat.div_lt_iff_lt_mul hpos).2 (by omega)
    have hui' := Nat.mul_le_mul_right t.unitBytes hui
    rw [Nat.succ_mul] at hui'
    rw [if_neg h, unitAt_congr ht hr hi (hrw.images hi) fun j hj => ?_]
    rw [hby _ (by omega), if_neg (by omega)]

/-- The elements from `lo` on of a unit begun before are cleared one by one. -/
theorem clearPart_spec {n u lo : Nat} (hn : vlmaxFor t g c = t.unitElems * n) (hu : u ≤ n)
    (hs : u * t.unitElems - lo ≤ t.unitElems) :
    let rs := if u * t.unitElems - lo = 0 then regs
      else writeElems regs c v t lo (List.replicate (u * t.unitElems - lo) (some 0))
    Rewrites v g regs rs ∧ ∀ i, i < vlmaxFor t g c →
      readElem rs c v t i = if lo ≤ i ∧ i < u * t.unitElems then 0 else readElem regs c v t i := by
  have hun := Nat.mul_le_mul_left t.unitElems hu
  rw [Nat.mul_comm u] at *
  dsimp only
  split
  · next h0 => exact ⟨.refl _ _ _, fun i hlt => (if_neg (by omega)).symm⟩
  · next h0 =>
    have hfit : lo + (List.replicate (t.unitElems * u - lo) (some 0)).length ≤ vlmaxFor t g c := by
      rw [List.length_replicate]
      omega
    have hle : (List.replicate (t.unitElems * u - lo) (some 0)).length ≤ t.perGroup := by
      have := ht.perGroup_pos
      rw [List.length_replicate]
      omega
    refine ⟨writeElems_rewrites ht hr hfit hle, fun i hlt => ?_⟩
    rw [readElem_writeElems ht hr hfit hle hi hlt]
    have hx := Nat.mod_eq_of_lt (readElem_lt regs c v t i)
    unfold placed
    rw [List.getD_eq_getElem?_getD, List.getElem?_replicate]
    by_cases h1 : i < lo
    · rw [if_pos h1, if_neg (by omega), hx]
    · by_cases h2 : i < t.unitElems * u
      · rw [if_neg h1, if_pos (by omega), if_pos (by omega)]
        exact Nat.zero_mod _
      · rw [if_neg h1, if_neg (by omega), if_neg (by omega)]
        exact hx

theorem clearElems_spec (lo : Nat) :
    let rs := clearElems regs c v t lo (vlmaxFor t g c)
    Rewrites v g regs rs ∧ ∀ i, i < vlmaxFor t g c →
      readElem rs c v t i = if lo ≤ i then 0 else readElem regs c v t i := by
  have hpos := ht.elems_pos
  unfold clearElems
  split
  · next h => exact ⟨.refl _ _ _, fun i hlt => (if_neg (by omega)).symm⟩
  · next h =>
    obtain ⟨n, hn, hb⟩ := vlmaxFor_units ht hr
    have hceil := Nat.div_add_mod (lo + t.unitElems - 1) t.unitElems
    have hcm := Nat.mod_lt (lo + t.unitElems - 1) hpos
    dsimp only
    generalize (lo + t.unitElems - 1) / t.unitElems = u at hceil ⊢
    generalize (lo + t.unitElems - 1) % t.unitElems = r at hceil hcm
    rw [Nat.mul_comm] at hceil
    have hu : u ≤ n := by
      refine Nat.le_of_lt_succ (Nat.lt_of_mul_lt_mul_right (a := t.unitElems) ?_)
      rw [Nat.succ_mul, Nat.mul_comm n]
      omega
    have hun := Nat.mul_le_mul_right t.unitElems hu
    have hdiv : vlmaxFor t g c / t.unitElems = n := by rw [hn, Nat.mul_div_cancel_left _ hpos]
    have hmin : min (u * t.unitElems) (vlmaxFor t g c) = u * t.unitElems := by
      rw [hn, Nat.mul_comm _ n]
      exact Nat.min_eq_left hun
    rw [hdiv, hmin]
    obtain ⟨hrw, hel⟩ := clearPart_spec ht hr hi hn hu (lo := lo) (by omega)
    generalize (if u * t.unitElems - lo = 0 then regs
      else writeElems regs c v t lo (List.replicate (u * t.unitElems - lo) (some 0))) = rs at hrw hel ⊢
    obtain ⟨hrw2, hel2⟩ := clearUnits_spec ht hr (hrw.images hi) hn hb hu
    refine ⟨hrw.trans hrw2, fun i hlt => ?_⟩
    rw [hel2 i hlt, hel i hlt]
    split
    · rw [if_pos (by omega)]
    · next h1 =>
      by_cases h2 : lo ≤ i
      · rw [if_pos (by omega), if_pos h2]
      · rw [if_neg (by omega), if_neg h2]

end

end Sys2Proof.Machine


/-! ## Destinations: an instruction's own group and its copy (R31, R32, R142) -/

namespace Sys2Proof.Machine
open Sys2Proof.Claims

theorem tagGroup_reg (regs : Vector VReg 32) (v g w k : Nat) : regAt (tagGroup regs v g w) k =
    if v ≤ k ∧ k < v + g ∧ k < 32 then { regAt regs k with width := w } else regAt regs k := by
  unfold tagGroup
  induction g with
  | zero => rw [if_neg (by omega)]; rfl
  | succ g ih =>
    rw [List.range_succ, List.foldl_append]
    dsimp only [List.foldl_cons, List.foldl_nil]
    rw [regAt_setReg, ih]
    by_cases hk : k = v + g ∧ k < 32
    · rw [if_pos hk, if_neg (by omega), if_pos (by omega)]
    · rw [if_neg hk]
      by_cases h : v ≤ k ∧ k < v + g ∧ k < 32
      · rw [if_pos h, if_pos (by omega)]
      · rw [if_neg h, if_neg (by omega)]

/-- C of a hart: nothing, or whole registers. -/
def Capacity (c : Nat) : Prop := c = 0 ∨ 16384 ≤ c ∧ 8 ∣ c

theorem Hart.c_capacity (h : Hart) : Capacity h.c := by
  unfold Hart.c imageBytes
  rcases Nat.eq_zero_or_pos h.share.toNat with h0 | h0
  · exact .inl (by rw [h0])
  · exact .inr ⟨by omega, by omega⟩

/-- A hart without a share has no registers to write. -/
theorem putLong_nowhere (regs : Vector VReg 32) (v : Nat) (t : ETy) (lo : Nat) (vals : List (Option Nat)) :
    putLong regs 0 v t lo vals = regs := by
  unfold putLong
  generalize List.range ((vals.length + t.perGroup - 1) / t.perGroup) = l
  induction l with
  | nil => rfl
  | cons k l ih => exact ih

/-- Group `v` has element `i` as `elem i` of what it was and widths as `wid` of what they were; the other registers stay. -/
structure GroupChange (c g : Nat) (t : ETy) (elem : Nat → Nat → Nat) (wid : Nat → Nat) (v : Nat)
    (regs regs' : Vector VReg 32) : Prop where
  outside : ∀ k, k < v ∨ v + g ≤ k → regAt regs' k = regAt regs k
  width : ∀ k, v ≤ k → k < v + g → (regAt regs' k).width = wid (regAt regs k).width
  images : Images regs'
  elem : ∀ i, i < vlmaxFor t g c → readElem regs' c v t i = elem i (readElem regs c v t i)

theorem GroupChange.trans {c g : Nat} {t : ETy} {e1 e2 : Nat → Nat → Nat} {w1 w2 : Nat → Nat} {v : Nat}
    {a b d : Vector VReg 32} (h : GroupChange c g t e1 w1 v a b) (k : GroupChange c g t e2 w2 v b d) :
    GroupChange c g t (fun i x => e2 i (e1 i x)) (fun x => w2 (w1 x)) v a d where
  outside r hr := (k.outside r hr).trans (h.outside r hr)
  width r h1 h2 := (k.width r h1 h2).trans (congrArg w2 (h.width r h1 h2))
  images := k.images
  elem i hi := (k.elem i hi).trans (congrArg (e2 i) (h.elem i hi))

section
variable {c g : Nat} {t : ETy} (ht : t.Whole) (hc : Capacity c) (hg : g ≤ 8) {regs : Vector VReg 32}
  (hi : Images regs) {v : Nat} (hv : v + g ≤ 32)
include ht hc hg hi hv

/-- Writing elements and marking the width. -/
theorem putLong_change {lo : Nat} {vals : List (Option Nat)} (hlo : c ≠ 0 → lo + vals.length ≤ vlmaxFor t g c) :
    GroupChange c g t (placed t.width lo vals) (fun _ => t.width) v regs
      (tagGroup (putLong regs c v t lo vals) v g t.width) := by
  have hput : Rewrites v g regs (putLong regs c v t lo vals) ∧ ∀ i, i < vlmaxFor t g c →
      readElem (putLong regs c v t lo vals) c v t i = placed t.width lo vals i (readElem regs c v t i) := by
    rcases hc with rfl | ⟨hbig, hdvd⟩
    · rw [putLong_nowhere]
      exact ⟨.refl _ _ _, fun i hi => absurd (Nat.lt_of_lt_of_le hi (Nat.min_le_right _ _)) (Nat.not_lt_zero i)⟩
    · exact putLong_spec ht ⟨hbig, hdvd, hv, hg⟩ hi (hlo (by omega))
  obtain ⟨hrw, hel⟩ := hput
  have himg (k : Nat) : (regAt (tagGroup (putLong regs c v t lo vals) v g t.width) k).img =
      (regAt (putLong regs c v t lo vals) k).img := by
    rw [tagGroup_reg]
    split <;> rfl
  have hi' : Images (tagGroup (putLong regs c v t lo vals) v g t.width) :=
    (images_iff _).2 fun k => by rw [himg]; exact (images_iff _).1 (hrw.images hi) k
  refine ⟨fun k hk => ?_, fun k h1 h2 => ?_, hi', fun i hlt => ?_⟩
  · rw [tagGroup_reg, if_neg (by omega)]
    exact hrw.outside k hk
  · rw [tagGroup_reg, if_pos (by omega)]
  · rw [← hel i hlt]
    rcases hc with rfl | ⟨hbig, hdvd⟩
    · exact absurd (Nat.lt_of_lt_of_le hlt (Nat.min_le_right _ _)) (Nat.not_lt_zero i)
    · exact readElem_of_outside ht ⟨hbig, hdvd, hv, hg⟩ (hrw.images hi) hi' (fun k _ _ => himg k) hlt

/-- Clearing what lies beyond an element. -/
theorem clearElems_change (lo : Nat) :
    GroupChange c g t (fun i x => if lo ≤ i then 0 else x) id v regs (clearElems regs c v t lo (vlmaxFor t g c)) := by
  have h : Rewrites v g regs (clearElems regs c v t lo (vlmaxFor t g c)) ∧ ∀ i, i < vlmaxFor t g c →
      readElem (clearElems regs c v t lo (vlmaxFor t g c)) c v t i = if lo ≤ i then 0 else readElem regs c v t i := by
    rcases hc with rfl | ⟨hbig, hdvd⟩
    · have h0 : vlmaxFor t g 0 = 0 := Nat.min_eq_right (Nat.zero_le _)
      rw [h0]
      have e : clearElems regs 0 v t lo 0 = regs := if_pos (Nat.zero_le lo)
      rw [e]
      exact ⟨.refl _ _ _, fun i hi => absurd hi (Nat.not_lt_zero i)⟩
    · exact clearElems_spec ht ⟨hbig, hdvd, hv, hg⟩ hi lo
  exact ⟨h.1.outside, fun k _ _ => h.1.width k, h.1.images hi, h.2⟩

end

/-- Each group of a list, apart from the others, is changed in one way; the other registers stay. -/
structure GroupsChange (c g : Nat) (t : ETy) (elem : Nat → Nat → Nat) (wid : Nat → Nat) (l : List Nat)
    (regs regs' : Vector VReg 32) : Prop where
  outside : ∀ k, (∀ v ∈ l, k < v ∨ v + g ≤ k) → regAt regs' k = regAt regs k
  width : ∀ v ∈ l, ∀ k, v ≤ k → k < v + g → (regAt regs' k).width = wid (regAt regs k).width
  images : Images regs'
  elem : ∀ v ∈ l, ∀ i, i < vlmaxFor t g c → readElem regs' c v t i = elem i (readElem regs c v t i)

theorem GroupsChange.trans {c g : Nat} {t : ETy} {e1 e2 : Nat → Nat → Nat} {w1 w2 : Nat → Nat} {l : List Nat}
    {a b d : Vector VReg 32} (h : GroupsChange c g t e1 w1 l a b) (k : GroupsChange c g t e2 w2 l b d) :
    GroupsChange c g t (fun i x => e2 i (e1 i x)) (fun x => w2 (w1 x)) l a d where
  outside r hr := (k.outside r hr).trans (h.outside r hr)
  width v hv r h1 h2 := (k.width v hv r h1 h2).trans (congrArg w2 (h.width v hv r h1 h2))
  images := k.images
  elem v hv i hi := (k.elem v hv i hi).trans (congrArg (e2 i) (h.elem v hv i hi))

/-- Aligned groups are one or apart. -/
theorem groups_apart {g v w : Nat} (hv : v % g = 0) (hw : w % g = 0) (h : v ≠ w) : v + g ≤ w ∨ w + g ≤ v := by
  obtain ⟨a, rfl⟩ := Nat.dvd_of_mod_eq_zero hv
  obtain ⟨b, rfl⟩ := Nat.dvd_of_mod_eq_zero hw
  have hab : a ≠ b := fun e => h (e ▸ rfl)
  rcases Nat.lt_or_gt_of_ne hab with h | h
  · exact .inl (Nat.mul_succ g a ▸ Nat.mul_le_mul_left g h)
  · exact .inr (Nat.mul_succ g b ▸ Nat.mul_le_mul_left g h)

section
variable {c g : Nat} {t : ETy} (ht : t.Whole) (hc : Capacity c) (hg : g ≤ 8) {elem : Nat → Nat → Nat} {wid : Nat → Nat}
  {F : Vector VReg 32 → Nat → Vector VReg 32}
  (hF : ∀ regs v, Images regs → v + g ≤ 32 → GroupChange c g t elem wid v regs (F regs v))
include ht hc hg hF

/-- A change made to one group after the other. -/
theorem foldl_groups (l : List Nat) (hl : l.Nodup) (ha : ∀ v ∈ l, v % g = 0 ∧ v + g ≤ 32) {regs : Vector VReg 32}
    (hi : Images regs) : GroupsChange c g t elem wid l regs (l.foldl F regs) := by
  induction l generalizing regs with
  | nil => exact ⟨fun _ _ => rfl, nofun, hi, nofun⟩
  | cons v l ih =>
    obtain ⟨hnot, hl⟩ := List.nodup_cons.1 hl
    obtain ⟨hv, hv32⟩ := ha v List.mem_cons_self
    have one := hF regs v hi hv32
    have rest := ih hl (fun w hw => ha w (List.mem_cons_of_mem _ hw)) one.images
    have apart (w : Nat) (hw : w ∈ l) : v + g ≤ w ∨ w + g ≤ v :=
      groups_apart hv (ha w (List.mem_cons_of_mem _ hw)).1 fun e => hnot (e ▸ hw)
    have same (a b : Vector VReg 32) (hia : Images a) (hib : Images b) (w : Nat) (hw : w + g ≤ 32)
        (h : ∀ k, w ≤ k → k < w + g → regAt b k = regAt a k) (i : Nat) (hlt : i < vlmaxFor t g c) :
        readElem b c w t i = readElem a c w t i := by
      rcases hc with rfl | ⟨hbig, hdvd⟩
      · exact absurd (Nat.lt_of_lt_of_le hlt (Nat.min_le_right _ _)) (Nat.not_lt_zero i)
      · exact readElem_of_outside ht ⟨hbig, hdvd, hw, hg⟩ hia hib (fun k h1 h2 => congrArg VReg.img (h k h1 h2)) hlt
    rw [List.foldl_cons]
    refine ⟨fun k hk => ?_, fun w hw k h1 h2 => ?_, rest.images, fun w hw i hlt => ?_⟩
    · rw [rest.outside k fun w hw => hk w (List.mem_cons_of_mem _ hw), one.outside k (hk v List.mem_cons_self)]
    · rcases List.mem_cons.1 hw with rfl | hw
      · rw [rest.outside k fun u hu => by have := apart u hu; omega, one.width k h1 h2]
      · rw [rest.width w hw k h1 h2, one.outside k (by have := apart w hw; omega)]
    · rcases List.mem_cons.1 hw with rfl | hw
      · rw [same _ _ one.images rest.images w hv32
          (fun k h1 h2 => rest.outside k fun u hu => by have := apart u hu; omega) i hlt, one.elem i hlt]
      · rw [rest.elem w hw i hlt, same _ _ hi one.images w (ha w (List.mem_cons_of_mem _ hw)).2
          (fun k h1 h2 => one.outside k (by have := apart w hw; omega)) i hlt]

end

/-! ### The destinations of an entry -/

theorem mem_copies (e : QEntry) (d : BitVec 5) (v : Nat) : v ∈ e.copies d ↔ ∃ r ∈ destinations e d, r.toNat = v := by
  have one : v ∈ [d.toNat] ↔ ∃ r ∈ [d], r.toNat = v := by simp only [List.mem_singleton, exists_eq_left]; exact eq_comm
  unfold QEntry.copies destinations
  rcases e.loan with _ | l
  · exact one
  · rcases hdc : l.dc with _ | _
    · simpa only [hdc, Bool.false_and, Bool.false_eq_true, if_false] using one
    · by_cases h : l.vdc = d
      · simpa only [hdc, h, bne_self_eq_false, Bool.and_false, Bool.false_eq_true, if_false, if_true, List.mem_cons,
          List.not_mem_nil, or_false, or_self] using one
      · simp only [hdc, bne_iff_ne.2 h, Bool.and_self, if_true, List.mem_cons, List.not_mem_nil, or_false,
          exists_eq_or_imp, exists_eq_left]
        rw [@eq_comm _ v, @eq_comm _ v]

theorem copies_nodup (e : QEntry) (d : BitVec 5) : (e.copies d).Nodup := by
  unfold QEntry.copies
  split
  · next l _ =>
    split
    · next h =>
      have hne : l.vdc ≠ d := by simpa using (Bool.and_eq_true_iff.1 h).2
      simpa using fun h => hne (BitVec.eq_of_toNat_eq h.symm)
    · exact List.nodup_singleton _
  · exact List.nodup_singleton _

/-- A group size that VTYPE or a single register gives. -/
def GroupSize (g : Nat) : Prop := g ∣ 8

theorem GroupSize.le {g : Nat} (h : GroupSize g) : g ≤ 8 := Nat.le_of_dvd (by decide) h

theorem GroupSize.fits {g v : Nat} (h : GroupSize g) (hv : v < 32) (ha : v % g = 0) : v + g ≤ 32 := by
  obtain ⟨a, rfl⟩ := Nat.dvd_of_mod_eq_zero ha
  obtain ⟨b, hb⟩ : g ∣ 32 := Nat.dvd_trans h (by decide)
  rw [hb] at hv ⊢
  rw [← Nat.mul_succ]
  exact Nat.mul_le_mul_left g (Nat.lt_of_mul_lt_mul_left hv)

theorem vtG_size (v : Word) : GroupSize (vtG v) := by
  have h : v.toNat / 2 ^ 8 % 4 ≤ 3 := Nat.le_of_lt_succ (Nat.mod_lt _ (by decide))
  exact Nat.pow_dvd_pow 2 h

section
variable {e : QEntry} {d : BitVec 5} {g : Nat} (hg : GroupSize g) (ha : Aligned e d g)
include hg ha

theorem copies_fit : ∀ v ∈ e.copies d, v % g = 0 ∧ v + g ≤ 32 := by
  intro v hv
  obtain ⟨r, hr, rfl⟩ := (mem_copies e d v).1 hv
  exact ⟨ha r hr, hg.fits r.isLt (ha r hr)⟩

variable {t : ETy} (ht : t.Whole) {h : Hart} (hi : RegistersOk h)
include ht hi

/-- What a write of elements does to the destinations. -/
theorem Hart.put_change {lo : Nat} {vals : List (Option Nat)} (hlo : h.c ≠ 0 → lo + vals.length ≤ vlmaxFor t g h.c) :
    GroupsChange h.c g t (placed t.width lo vals) (fun _ => t.width) (e.copies d) h.vreg (h.put e d g t lo vals).vreg :=
  foldl_groups ht h.c_capacity hg.le (fun _ _ hi hv => putLong_change ht h.c_capacity hg.le hi hv hlo) _
    (copies_nodup e d) (copies_fit hg ha) hi

/-- What the tail policy does to them. -/
theorem Hart.tail_change (lo : Nat) : GroupsChange h.c g t (fun i x => if lo ≤ i ∧ vtTP e.vtype = true then 0 else x) id
    (e.copies d) h.vreg (h.tail e d g t lo).vreg := by
  unfold Hart.tail
  cases vtTP e.vtype with
  | true =>
    simp only [and_true, if_true]
    exact foldl_groups ht h.c_capacity hg.le (fun _ _ hi hv => clearElems_change ht h.c_capacity hg.le hi hv lo) _
      (copies_nodup e d) (copies_fit hg ha) hi
  | false =>
    simp only [Bool.false_eq_true, and_false, if_false]
    exact ⟨fun _ _ => rfl, fun _ _ _ _ _ => rfl, hi, fun _ _ _ _ => rfl⟩

end

/-- Groups changed as the claim says. -/
theorem GroupsChange.writesEach {e : QEntry} {d : BitVec 5} {g hi n : Nat} {t : ETy} {f : Nat → Option Nat} {s u : State}
    {elem : Nat → Nat → Nat} (h : GroupsChange s.hart.c g t elem (fun _ => t.width) (e.copies d) s.hart.vreg u.hart.vreg)
    (hel : ∀ i x, i < vlmaxFor t g s.hart.c → x < 2 ^ t.width → elem i x =
      if i < e.start then x else if i < hi then (f i).getD x
      else if n ≤ i ∧ n ≤ hi ∧ e.vtype.getLsbD 13 = true then 0 else x) :
    WritesEach e t d g hi n f s u := by
  have hreg (regs : Vector VReg 32) (q : Fin 32) : regs[q] = regAt regs q.val := (regAt_eq regs q.isLt).symm
  refine ⟨fun r hr i hlt => ?_, fun q hq => ?_, fun q ⟨r, hr, h1, h2⟩ => ?_⟩
  · rw [h.elem r.toNat ((mem_copies e d _).2 ⟨r, hr, rfl⟩) i hlt]
    exact hel i _ hlt (readElem_lt _ _ _ _ _)
  · rw [hreg, hreg]
    refine h.outside q.val fun v hv => ?_
    obtain ⟨r, hr, rfl⟩ := (mem_copies e d v).1 hv
    exact hq r hr
  · rw [hreg]
    exact h.width r.toNat ((mem_copies e d _).2 ⟨r, hr, rfl⟩) q.val h1 h2

end Sys2Proof.Machine


/-! ## A micro-operation of the oldest entry (R25, R137, R143, R272) -/

namespace Sys2Proof.Machine
open Sys2Proof.Claims

/-! ### The order of issue -/

theorem mem_issueInsert (m : Nat) (x y : Candidate) (l : List Candidate) : y ∈ issueInsert m x l ↔ y = x ∨ y ∈ l := by
  induction l with
  | nil => exact List.mem_cons
  | cons z l ih =>
    unfold issueInsert
    split
    · exact List.mem_cons
    · rw [List.mem_cons, ih, List.mem_cons, or_left_comm]

theorem mem_foldl_issueInsert (m : Nat) (y : Candidate) (l acc : List Candidate) :
    y ∈ l.foldl (fun l x => issueInsert m x l) acc ↔ y ∈ l ∨ y ∈ acc := by
  induction l generalizing acc with
  | nil => simp
  | cons x l ih => rw [List.foldl_cons, ih, mem_issueInsert, List.mem_cons, or_left_comm, or_assoc]

theorem Hart.mem_candidates (h : Hart) (x : Candidate) :
    x ∈ h.candidates ↔ x.hart = h ∧ h.queue[x.place]? = some x.entry := by
  unfold Hart.candidates
  rw [List.mem_map]
  constructor
  · rintro ⟨⟨e, n⟩, hp, rfl⟩
    exact ⟨rfl, List.mem_zipIdx_iff_getElem?.1 hp⟩
  · rintro ⟨rfl, hq⟩
    exact ⟨(x.entry, x.place), List.mem_zipIdx_iff_getElem?.2 hq, rfl⟩

/-- The candidates of a core are the entries of its running harts. -/
theorem State.mem_issueOrder (s : State) (core : BitVec 8) (x : Candidate) :
    x ∈ s.issueOrder core ↔ x.hart ∈ s.hart :: s.others ∧ x.hart.life = .running ∧ x.hart.core = core ∧
      x.hart.queue[x.place]? = some x.entry := by
  unfold State.issueOrder State.harts
  rw [mem_foldl_issueInsert, List.mem_flatMap]
  simp only [List.not_mem_nil, or_false, List.mem_filter, Bool.and_eq_true, beq_iff_eq, Hart.mem_candidates]
  constructor
  · rintro ⟨h, ⟨hm, hl, hc⟩, rfl, hq⟩
    exact ⟨hm, hl, hc, hq⟩
  · rintro ⟨hm, hl, hc, hq⟩
    exact ⟨x.hart, ⟨hm, hl, hc⟩, rfl, hq⟩

theorem State.focus_self {s : State} {n : BitVec 16} (h : s.hart.ser = n) : s.focus n = s := if_pos (beq_iff_eq.2 h)

/-! ### The oldest entry of the only hart that can issue -/

section
variable {s t : State} {core : BitVec 8} {e : QEntry} (h : SoleIssuer core s e)
include h

/-- Where only the oldest entry can issue, its micro-operation does. -/
theorem sole_exec (hn : issueHead s = some t) (hser : t.hart.ser = s.hart.ser) :
    exec (.microopIssue core) s = .next t := by
  obtain ⟨hl, hc, hq, -, hov, hoth, -⟩ := h
  have own (n : Nat) : s.issueOf s.hart.ser n = if n = 0 then some t else none := by
    unfold State.issueOf issueEntry
    rw [State.focus_self rfl]
    cases n with
    | zero =>
      rw [if_pos rfl, if_pos rfl, hn]
      exact congrArg some (State.focus_self hser)
    | succ n =>
      rw [if_neg (Nat.succ_ne_zero n), if_neg (Nat.succ_ne_zero n), issueYounger, hov n]
      rfl
  have only (x : Candidate) (hx : x ∈ s.issueOrder core) : x.hart = s.hart := by
    obtain ⟨hm, hl, hc, hq⟩ := (s.mem_issueOrder core x).1 hx
    rcases List.mem_cons.1 hm with hm | hm
    · exact hm
    · rw [hoth _ hm hl hc] at hq
      cases hq
  have first : (s.issueOrder core).findSome? (fun x => s.issueOf x.hart.ser x.place) = some t := by
    have hmem : ⟨s.hart, 0, e⟩ ∈ s.issueOrder core :=
      (s.mem_issueOrder core _).2 ⟨List.mem_cons_self, hl, hc, by rw [← List.head?_eq_getElem?]; exact hq⟩
    generalize s.issueOrder core = l at hmem only
    induction l with
    | nil => cases hmem
    | cons y l ih =>
      rw [List.findSome?_cons, only y List.mem_cons_self, own]
      by_cases hy : y.place = 0
      · rw [if_pos hy]
      · rw [if_neg hy]
        refine ih ?_ fun x hx => only x (List.mem_cons_of_mem _ hx)
        rcases List.mem_cons.1 hmem with rfl | hm
        · exact absurd rfl hy
        · exact hm
  change Host.Outcome.next (((s.issueOrder core).findSome? fun x => s.issueOf x.hart.ser x.place).getD s) = _
  rw [first]
  rfl

theorem sole_queue : s.hart.queue = e :: s.hart.queue.tail := (List.head?_eq_some_iff.1 h.2.2.1).elim fun l hl => by
  rw [hl]
  rfl

theorem sole_convoy : s.convoyHeld e = false := by
  obtain ⟨-, -, -, -, -, -, hheld⟩ := h
  unfold State.convoyHeld State.heldOf
  rw [Bool.and_eq_false_iff]
  exact .inr (List.any_eq_false.2 fun w hw => by simpa using hheld w hw)

variable (ho : e.over = false)
include ho

/-- The oldest entry, its mask captured (R25), completes. -/
theorem sole_done (hp : performHead (e.withMask s.hart) (s.started (e.withMask s.hart)) = .done t) :
    issueHead s = some t.popHead := by
  unfold issueHead
  rw [sole_queue h]
  simp only [ho, sole_convoy h, Bool.false_eq_true, if_false, hp]

/-- It goes on at an element. -/
theorem sole_more {n : Nat} (hp : performHead (e.withMask s.hart) (s.started (e.withMask s.hart)) = .more n t) :
    issueHead s = some ((t.mapHart fun h => h.advance n).updHead fun e => e.goOn n) := by
  unfold issueHead
  rw [sole_queue h]
  simp only [ho, sole_convoy h, Bool.false_eq_true, if_false, hp]

end

/-! ### What a micro-operation leaves -/

/-- A hart that differs in its registers, predicates, tiles and flags alone. -/
def Performs (h g : Hart) : Prop := ∃ v k t f, g = { h with vreg := v, kreg := k, tile := t, fflags := f }

/-- A mask that has been captured is the mask. -/
theorem withMask_active (e : QEntry) (h : Hart) (i : Nat) : (e.withMask h).active i = isActive e h i := by
  have hk (k : Nat) : bitOf (h.kreg.toList.getD k []) i = h.kbit k i := by
    unfold Hart.kbit bitOf
    by_cases hk : k < 12
    · rw [dif_pos hk, List.getD_eq_getElem?_getD, List.getElem?_eq_getElem (by simpa using hk)]
      rfl
    · rw [dif_neg hk, List.getD_eq_getElem?_getD, List.getElem?_eq_none (by simpa using hk)]
      exact BitVec.getLsbD_zero
  unfold QEntry.withMask isActive QEntry.active
  cases hm : e.mask with
  | some img => simp [hm, bitOf]
  | none =>
    cases masked e.instr with
    | true =>
      simp only [Option.isNone_none, Bool.and_self, if_true, Bool.not_true, Bool.false_or]
      exact hk e.maskReg
    | false => simp [hm]

/-- A hart that differs in what a micro-operation may change. -/
def Kept (h g : Hart) : Prop := ∃ v k t f q n c, g = { h with
  vreg := v, kreg := k, tile := t, fflags := f, queue := q, vstart := n, convoyRun := c }

theorem Kept.trans {a b c : Hart} (h : Kept a b) (k : Kept b c) : Kept a c := by
  obtain ⟨_, _, _, _, _, _, _, rfl⟩ := h
  obtain ⟨_, _, _, _, _, _, _, rfl⟩ := k
  exact ⟨_, _, _, _, _, _, _, rfl⟩

theorem Performs.kept {h g : Hart} (p : Performs h g) : Kept h g := by
  obtain ⟨_, _, _, _, rfl⟩ := p
  exact ⟨_, _, _, _, _, _, _, rfl⟩

theorem Kept.eq {h g : Hart} (p : Kept h g) : g = { h with
    vreg := g.vreg, kreg := g.kreg, tile := g.tile, fflags := g.fflags, queue := g.queue, vstart := g.vstart
    convoyRun := g.convoyRun } := by
  obtain ⟨_, _, _, _, _, _, _, rfl⟩ := p
  rfl

theorem State.started_kept (s : State) (e : QEntry) : Kept s.hart (s.started e).hart := ⟨_, _, _, _, _, _, _, rfl⟩

theorem Hart.popHead_kept (h : Hart) : Kept h h.popHead := ⟨_, _, _, _, _, _, _, rfl⟩

/-- What follows a micro-operation: memory and the other harts stay, and of the hart what it writes has changed. -/
structure Follows (s : State) (g : Hart) (u : State) : Prop where
  memory : SameMemory s u
  others : u.others = s.others
  vreg : u.hart.vreg = g.vreg
  kreg : u.hart.kreg = g.kreg
  tile : u.hart.tile = g.tile
  fflags : u.hart.fflags = g.fflags
  kept : Kept s.hart u.hart

theorem started_queue (s : State) (e x : QEntry) {l : List QEntry} (hq : s.hart.queue = x :: l) :
    (s.started e).hart.queue = e :: l := by
  unfold State.started State.updHead State.mapHart
  dsimp only
  rw [hq]

/-- The oldest entry leaves the queue of a hart, whose others are as they were. -/
theorem popHead_completes {s t : State} {e x : QEntry} {l : List QEntry} (hs : s.hart.queue = x :: l)
    (ht : t.hart.queue = e :: l) (hv : t.hart.vstart = s.hart.vstart) (hr : e.resumed = x.resumed) :
    Completes s t.popHead := by
  have hany (n : Nat) : ((e :: l).take n).any QEntry.resumed = ((x :: l).take n).any QEntry.resumed := by
    cases n with
    | zero => rfl
    | succ n => rw [List.take_succ_cons, List.take_succ_cons, List.any_cons, List.any_cons, hr]
  have hvs : t.popHead.hart.vstart = match (l.dropWhile QEntry.over).head? with
      | some y => if y.goesOn then BitVec.ofNat 20 y.start
        else if ((e :: l).take ((e :: l).length - (l.dropWhile QEntry.over).length)).any QEntry.resumed then 0
        else t.hart.vstart
      | none => if ((e :: l).take ((e :: l).length - (l.dropWhile QEntry.over).length)).any QEntry.resumed then 0
        else t.hart.vstart := by
    change t.hart.popHead.vstart = _
    unfold Hart.popHead
    rw [ht]
    rfl
  unfold Completes
  rw [hs]
  refine ⟨(congrArg (fun q : List QEntry => q.tail.dropWhile QEntry.over) ht).trans rfl, hvs.trans ?_⟩
  rw [hany, hv]
  rfl

/-- An entry whose mask has been captured is the entry but for that. -/
theorem withMask_eq (e : QEntry) (h : Hart) : e.withMask h = { e with mask := (e.withMask h).mask } := by
  unfold QEntry.withMask
  split <;> rfl

theorem isActive_withMask (e : QEntry) (h : Hart) (i : Nat) : isActive (e.withMask h) h i = isActive e h i := by
  have idem : (e.withMask h).withMask h = e.withMask h := by
    unfold QEntry.withMask
    split
    · rw [if_neg (by simp)]
    · rfl
  rw [← withMask_active (e.withMask h) h i, idem, withMask_active]

/-- A hart whose oldest entry goes on at element `n`. -/
def Hart.goesOn (h : Hart) (n : Nat) : Hart :=
  { h.advance n with queue := match h.queue with
    | e :: t => e.goOn n :: t
    | [] => [] }

theorem Hart.goesOn_kept (h : Hart) (n : Nat) : Kept h (h.goesOn n) := ⟨_, _, _, _, _, _, _, rfl⟩

theorem goesOn_state (s : State) (g : Hart) (n : Nat) :
    ((({ s with hart := g } : State).mapHart fun h => h.advance n).updHead fun e => e.goOn n) =
      { s with hart := g.goesOn n } := rfl

section
variable {s : State} {core : BitVec 8} {e : QEntry} (h : SoleIssuer core s e) (ho : e.over = false) {g : Hart}
  (hg : Performs (s.started (e.withMask s.hart)).hart g)
include h ho hg

/-- The oldest entry completes. -/
theorem sole_completes (hp : performHead (e.withMask s.hart) (s.started (e.withMask s.hart)) =
      (s.started (e.withMask s.hart)).went (g, .done)) :
    Yields (.microopIssue core) s fun u => Completes s u ∧ Follows s g u := by
  have hk := (s.started_kept _).trans (hg.kept.trans g.popHead_kept)
  have hq : g.queue = e.withMask s.hart :: s.hart.queue.tail := by
    obtain ⟨_, _, _, _, rfl⟩ := hg
    exact started_queue s _ e (sole_queue h)
  have hv : g.vstart = s.hart.vstart := by
    obtain ⟨_, _, _, _, rfl⟩ := hg
    rfl
  have hser : g.popHead.ser = s.hart.ser := by
    obtain ⟨_, _, _, _, _, _, _, e⟩ := hk
    rw [e]
  exact ⟨_, sole_exec h (sole_done h ho hp) hser,
    popHead_completes (sole_queue h) hq hv (by rw [withMask_eq]),
    fun _ => rfl, rfl, rfl, rfl, rfl, rfl, hk⟩

/-- It goes on at an element. -/
theorem sole_goesOn {n : Nat} (hp : performHead (e.withMask s.hart) (s.started (e.withMask s.hart)) =
      (s.started (e.withMask s.hart)).went (g, .more n)) :
    Yields (.microopIssue core) s fun u => GoesOn e n s u ∧ Follows s g u := by
  have hk := (s.started_kept _).trans (hg.kept.trans (g.goesOn_kept n))
  have hq : g.queue = e.withMask s.hart :: s.hart.queue.tail := by
    obtain ⟨_, _, _, _, rfl⟩ := hg
    exact started_queue s _ e (sole_queue h)
  have hv : g.vstart = s.hart.vstart ∧ g.convoyRun = e.convoy := by
    obtain ⟨_, _, _, _, rfl⟩ := hg
    exact ⟨rfl, by rw [withMask_eq]; rfl⟩
  have hser : (g.goesOn n).ser = s.hart.ser := by
    obtain ⟨_, _, _, _, _, _, _, e⟩ := hk
    rw [e]
  have hm := sole_more h ho hp
  rw [goesOn_state] at hm
  refine ⟨_, sole_exec h hm hser, ⟨(e.withMask s.hart).goOn n, ?_, fun i => ?_, ?_, ?_, hv.2⟩,
    fun _ => rfl, rfl, rfl, rfl, rfl, rfl, hk⟩
  · unfold Hart.goesOn
    rw [hq]
  · exact isActive_withMask e s.hart i
  · rw [withMask_eq]
    rfl
  · change (if (g.queue.head?.map QEntry.resumed).getD false then BitVec.ofNat 20 n else g.vstart) = _
    rw [hq, hv.1, withMask_eq]
    rfl

end

end Sys2Proof.Machine


/-! ## Element-wise instructions (R142, R143) -/

namespace Sys2Proof.Machine
open Sys2Proof.Claims

theorem vlmax_eq {v : Word} {t : ETy} (hv : v.getLsbD 63 = false) (ht : ETy.ofCode (fieldOf v 0 8) = some t) (c : Nat) :
    vlmax v c = vlmaxFor t (vtG v) c := by
  unfold vlmax
  rw [vtET_eq hv, ht]

theorem ety_eq {e : QEntry} {t : ETy} (hv : e.vtype.getLsbD 63 = false) (ht : ETy.ofCode (fieldOf e.vtype 0 8) = some t) :
    e.ety = t := by
  unfold QEntry.ety
  rw [vtET_eq hv, ht]
  rfl

/-! ### What a lane writes -/

/-- The element that a lane gives the destination: its result where active, and what MP says elsewhere. -/
def Lane.value (x : Lane) (e : QEntry) (i : Nat) : Option Nat :=
  if x.all || e.active i then (x.f i).1 else if vtMP e.vtype then some 0 else none

/-- The flags that elements `lo` to `hi - 1` of a lane raise. -/
def Lane.flags (x : Lane) (e : QEntry) (hi : Nat) : Flags :=
  (List.range (hi - e.start)).foldl (fun fl j =>
    fl ||| if x.all || e.active (e.start + j) then (x.f (e.start + j)).2 else .none) .none

theorem Lane.run_eq (x : Lane) (e : QEntry) (hi : Nat) (h : Hart) : x.run e hi h =
    (h.put e x.d (vtG e.vtype) x.t e.start ((List.range (hi - e.start)).map fun j => x.value e (e.start + j))).raise
      (x.flags e hi) := by
  unfold Lane.run Lane.flags Lane.value
  dsimp only
  rw [List.map_map, List.foldl_map]
  congr 2
  · refine List.map_congr_left fun j _ => ?_
    rw [Function.comp_apply]
    split <;> rfl
  · funext fl j
    split <;> rfl

theorem placed_range (w lo hi : Nat) (f : Nat → Option Nat) (i x : Nat) :
    placed w lo ((List.range (hi - lo)).map fun j => f (lo + j)) i x =
      (if i < lo then x else if i < hi then (f i).getD x else x) % 2 ^ w := by
  unfold placed
  by_cases h1 : i < lo
  · rw [if_pos h1, if_pos h1]
  · rw [if_neg h1, if_neg h1, List.getD_eq_getElem?_getD, List.getElem?_map]
    by_cases h2 : i < hi
    · rw [List.getElem?_range (by omega), Option.map_some, Option.getD_some, Nat.add_sub_cancel' (by omega), if_pos h2]
    · rw [List.getElem?_eq_none (by rw [List.length_range]; omega), if_neg h2]
      rfl

theorem Hart.put_performs (h : Hart) (e : QEntry) (r : BitVec 5) (g : Nat) (t : ETy) (lo : Nat) (l : List (Option Nat)) :
    Performs h (h.put e r g t lo l) := ⟨_, _, _, _, rfl⟩

theorem Performs.trans {a b c : Hart} (h : Performs a b) (k : Performs b c) : Performs a c := by
  obtain ⟨_, _, _, _, rfl⟩ := h
  obtain ⟨_, _, _, _, rfl⟩ := k
  exact ⟨_, _, _, _, rfl⟩

theorem Hart.raise_performs (h : Hart) (fl : Flags) : Performs h (h.raise fl) := ⟨_, _, _, _, rfl⟩

theorem Hart.tail_performs (h : Hart) (e : QEntry) (r : BitVec 5) (g : Nat) (t : ETy) (lo : Nat) :
    Performs h (h.tail e r g t lo) := by
  unfold Hart.tail
  split
  · exact ⟨_, _, _, _, rfl⟩
  · exact ⟨_, _, _, _, rfl⟩

/-- What a write and the tail policy leave of the predicates, the tiles and the flags. -/
theorem Hart.tail_others (h : Hart) (e : QEntry) (r : BitVec 5) (g : Nat) (t : ETy) (lo : Nat) :
    (h.tail e r g t lo).kreg = h.kreg ∧ (h.tail e r g t lo).tile = h.tile ∧ (h.tail e r g t lo).fflags = h.fflags := by
  unfold Hart.tail
  split <;> exact ⟨rfl, rfl, rfl⟩

section
variable (x : Lane) (e : QEntry) (h : Hart) {hi : Nat} (ht : x.t.Whole) (ha : Aligned e x.d (vtG e.vtype))
  (hr : RegistersOk h) (hhi : hi ≤ e.vl) (hlo : e.start ≤ hi) (hvl : e.vl ≤ vlmaxFor x.t (vtG e.vtype) h.c)
include ht ha hr hhi hlo hvl

theorem Lane.run_change : GroupsChange h.c (vtG e.vtype) x.t
    (fun i y => (if i < e.start then y else if i < hi then (x.value e i).getD y else y) % 2 ^ x.t.width)
    (fun _ => x.t.width) (e.copies x.d) h.vreg (x.run e hi h).vreg := by
  have hc := h.put_change (vtG_size e.vtype) ha ht hr (lo := e.start)
    (vals := (List.range (hi - e.start)).map fun j => x.value e (e.start + j))
    (fun _ => by rw [List.length_map, List.length_range]; omega)
  rw [x.run_eq]
  have e1 : placed x.t.width e.start ((List.range (hi - e.start)).map fun j => x.value e (e.start + j)) =
      fun i y => (if i < e.start then y else if i < hi then (x.value e i).getD y else y) % 2 ^ x.t.width :=
    funext fun i => funext fun y => placed_range _ _ _ _ i y
  rw [e1] at hc
  exact hc

/-- The elements up to `hi`, and then the tail. -/
theorem Lane.run_tail_change : GroupsChange h.c (vtG e.vtype) x.t
    (fun i y => if e.vl ≤ i ∧ vtTP e.vtype = true then 0
      else (if i < e.start then y else if i < hi then (x.value e i).getD y else y) % 2 ^ x.t.width)
    (fun _ => x.t.width) (e.copies x.d) h.vreg ((x.run e hi h).tail e x.d (vtG e.vtype) x.t e.vl).vreg := by
  have hrun := x.run_change e h ht ha hr hhi hlo hvl
  have hcc : (x.run e hi h).c = h.c := by rw [x.run_eq]; rfl
  have htail := (x.run e hi h).tail_change (vtG_size e.vtype) ha ht hrun.images e.vl
  rw [hcc] at htail
  exact hrun.trans htail

end

theorem Lane.run_performs (x : Lane) (e : QEntry) (hi : Nat) (h : Hart) : Performs h (x.run e hi h) := by
  rw [x.run_eq]
  exact (h.put_performs _ _ _ _ _ _).trans (Hart.raise_performs _ _)

theorem Lane.run_others (x : Lane) (e : QEntry) (hi : Nat) (h : Hart) : (x.run e hi h).kreg = h.kreg ∧
    (x.run e hi h).tile = h.tile ∧ (x.run e hi h).fflags = h.fflags ||| x.flags e hi := by
  rw [x.run_eq]
  exact ⟨rfl, rfl, rfl⟩

/-! ### A micro-operation of an element-wise instruction -/

/-- What an element-wise micro-operation up to element `hi` of the oldest entry leaves: the elements of its lane, the flags
that they raise, and nothing else. -/
structure LaneLeaves (x : Lane) (e : QEntry) (hi : Nat) (s u : State) : Prop where
  memory : SameMemory s u
  others : u.others = s.others
  hart : u.hart = { s.hart with
    vreg := u.hart.vreg, fflags := s.hart.fflags ||| x.flags (e.withMask s.hart) hi, queue := u.hart.queue
    vstart := u.hart.vstart, convoyRun := u.hart.convoyRun }
  writes : WritesEach e x.t x.d (vtG e.vtype) hi e.vl (x.value (e.withMask s.hart)) s u

theorem sole_notOver {s : State} {core : BitVec 8} {e : QEntry} (h : SoleIssuer core s e)
    (hst : e.vl = 0 ∨ e.start < e.vl) : e.over = false := by
  have hd : e.done = false := h.2.2.2.1
  unfold QEntry.over
  rw [hd, decide_eq_false (by omega), Bool.and_false]
  rfl

theorem groupEnd_bounds {t : ETy} (ht : t.Whole) {lo n : Nat} (h : lo < n) : lo ≤ t.groupEnd lo n ∧ t.groupEnd lo n ≤ n := by
  have hpos := Nat.lt_of_lt_of_le ht.elems_pos ht.perGroup_pos
  have hd := Nat.div_add_mod lo t.perGroup
  have hm := Nat.mod_lt lo hpos
  unfold ETy.groupEnd
  rw [Nat.mul_comm]
  exact ⟨Nat.le_min.2 ⟨by omega, by omega⟩, Nat.min_le_left _ _⟩

section
variable {s : State} {core : BitVec 8} {e : QEntry} (h : SoleIssuer core s e) {x : Lane} (ht : x.t.Whole)
  (hr : RegistersOk s.hart) (hst : e.start < e.vl) (hvl : e.vl ≤ vlmaxFor x.t (vtG e.vtype) s.hart.c)
  (ha : Aligned e x.d (vtG e.vtype)) (hf : ∀ i v, x.value (e.withMask s.hart) i = some v → v < 2 ^ x.t.width)
include h ht hr hst hvl ha hf

omit h in
/-- The lane's elements have been written, and the tail where they were the last. -/
theorem lane_leaves {g : Hart} {u : State} {hi : Nat} (hhi : hi ≤ e.vl) (hlo : e.start ≤ hi) (hu : Follows s g u)
    (hg : g = if hi < e.vl then x.run (e.withMask s.hart) hi (s.started (e.withMask s.hart)).hart
      else (x.run (e.withMask s.hart) hi (s.started (e.withMask s.hart)).hart).tail (e.withMask s.hart) x.d
        (vtG e.vtype) x.t e.vl) :
    LaneLeaves x e hi s u := by
  have hm := withMask_eq e s.hart
  generalize he : e.withMask s.hart = e' at hm hg hf
  obtain ⟨hk, htile, hfl⟩ : g.kreg = s.hart.kreg ∧ g.tile = s.hart.tile ∧ g.fflags = s.hart.fflags ||| x.flags e' hi := by
    have hrun := x.run_others e' hi (s.started e').hart
    have htl := (x.run e' hi (s.started e').hart).tail_others e' x.d (vtG e.vtype) x.t e.vl
    rw [hg]
    split
    · exact hrun
    · exact ⟨htl.1.trans hrun.1, htl.2.1.trans hrun.2.1, htl.2.2.trans hrun.2.2⟩
  have hh : u.hart = { s.hart with
      vreg := u.hart.vreg, fflags := s.hart.fflags ||| x.flags e' hi, queue := u.hart.queue
      vstart := u.hart.vstart, convoyRun := u.hart.convoyRun } := by
    have hk' := hu.kept.eq
    rw [hu.kreg, hk, hu.tile, htile, hu.fflags, hfl] at hk'
    exact hk'
  have hch : GroupsChange s.hart.c (vtG e.vtype) x.t
      (fun i y => if ¬ hi < e.vl ∧ e.vl ≤ i ∧ vtTP e.vtype = true then 0
        else (if i < e.start then y else if i < hi then (x.value e' i).getD y else y) % 2 ^ x.t.width)
      (fun _ => x.t.width) (e.copies x.d) s.hart.vreg u.hart.vreg := by
    rw [hu.vreg, hg, hm]
    rw [hm] at hf
    by_cases hlt : hi < e.vl
    · simp only [hlt, not_true_eq_false, false_and, if_false, if_true]
      exact x.run_change { e with mask := e'.mask } (s.started _).hart ht ha hr hhi hlo hvl
    · simp only [hlt, not_false_eq_true, true_and, if_false]
      exact x.run_tail_change { e with mask := e'.mask } (s.started _).hart ht ha hr hhi hlo hvl
  refine ⟨hu.memory, hu.others, by rw [he]; exact hh, hch.writesEach fun i y hi' hy => ?_⟩
  rw [he]
  have hy' := Nat.mod_eq_of_lt hy
  by_cases h1 : i < e.start
  · rw [if_neg (by omega), if_pos h1, if_pos h1, hy']
  · rw [if_neg h1, if_neg h1]
    by_cases h2 : i < hi
    · rw [if_neg (by omega), if_pos h2, if_pos h2]
      cases hv : x.value e' i with
      | none => exact hy'
      | some v => exact Nat.mod_eq_of_lt (hf i v hv)
    · rw [if_neg h2, if_neg h2, hy']
      by_cases h3 : e.vl ≤ i ∧ e.vl ≤ hi ∧ e.vtype.getLsbD 13 = true
      · rw [if_pos h3, if_pos ⟨by omega, h3.1, h3.2.2⟩]
      · rw [if_neg h3, if_neg fun h => h3 ⟨h.2.1, by omega, h.2.2⟩]

/-- An element-wise instruction that performs whole. -/
theorem lane_whole (hp : performHead (e.withMask s.hart) (s.started (e.withMask s.hart)) =
      (s.started (e.withMask s.hart)).went (x.whole (e.withMask s.hart) (s.started (e.withMask s.hart)).hart)) :
    Yields (.microopIssue core) s fun u => Completes s u ∧ LaneLeaves x e e.vl s u := by
  have hm := withMask_eq e s.hart
  obtain ⟨u, hx, hc, hu⟩ := sole_completes h (sole_notOver h (.inr hst))
    (g := ((x.run (e.withMask s.hart) e.vl (s.started (e.withMask s.hart)).hart).tail (e.withMask s.hart) x.d
        (vtG e.vtype) x.t e.vl)) ((x.run_performs _ _ _).trans (Hart.tail_performs _ _ _ _ _ _)) (by
    rw [hp]
    unfold Lane.whole
    rw [hm])
  exact ⟨u, hx, hc, lane_leaves ht hr hst hvl ha hf (Nat.le_refl _) (Nat.le_of_lt hst) hu
    (if_neg (Nat.lt_irrefl _)).symm⟩

/-- An element-wise instruction that performs by element groups. -/
theorem lane_group (hp : performHead (e.withMask s.hart) (s.started (e.withMask s.hart)) =
      (s.started (e.withMask s.hart)).went (x.group (e.withMask s.hart) (s.started (e.withMask s.hart)).hart)) :
    Yields (.microopIssue core) s fun u =>
      Advances e (x.t.groupEnd e.start e.vl) e.vl s u ∧ LaneLeaves x e (x.t.groupEnd e.start e.vl) s u := by
  have hm := withMask_eq e s.hart
  obtain ⟨hlo, hhi⟩ := groupEnd_bounds ht hst
  have ho := sole_notOver h (.inr hst)
  have hgroup : x.group (e.withMask s.hart) (s.started (e.withMask s.hart)).hart =
      if x.t.groupEnd e.start e.vl < e.vl then
        (x.run (e.withMask s.hart) (x.t.groupEnd e.start e.vl) (s.started (e.withMask s.hart)).hart,
          .more (x.t.groupEnd e.start e.vl))
      else ((x.run (e.withMask s.hart) (x.t.groupEnd e.start e.vl) (s.started (e.withMask s.hart)).hart).tail
        (e.withMask s.hart) x.d (vtG e.vtype) x.t e.vl, .done) := by
    unfold Lane.group
    rw [hm]
  rw [hgroup] at hp
  unfold Advances
  by_cases hlt : x.t.groupEnd e.start e.vl < e.vl
  · rw [if_pos hlt] at hp
    obtain ⟨u, hx, hc, hu⟩ := sole_goesOn h ho (x.run_performs _ _ _) hp
    exact ⟨u, hx, by rwa [if_pos hlt], lane_leaves ht hr hst hvl ha hf hhi hlo hu (if_pos hlt).symm⟩
  · rw [if_neg hlt] at hp
    obtain ⟨u, hx, hc, hu⟩ := sole_completes h ho ((x.run_performs _ _ _).trans (Hart.tail_performs _ _ _ _ _ _)) hp
    exact ⟨u, hx, by rwa [if_neg hlt], lane_leaves ht hr hst hvl ha hf hhi hlo hu (if_neg hlt).symm⟩

end

end Sys2Proof.Machine


/-! ## Integer vector elements (R145) -/

namespace Sys2Proof.Machine
open Sys2Proof.Claims

theorem ETy.encInt_eq (t : ETy) (v : Int) :
    t.encInt v = if t = .bipolar then (if 0 < v then 1 else 0) else (v % 2 ^ t.width).toNat := by
  cases t <;> rfl

theorem toNat_emod_lt (v : Int) (w : Nat) : (v % 2 ^ w).toNat < 2 ^ w := by
  have hpos : (0 : Int) < 2 ^ w := Int.pow_pos (by decide)
  have h1 := Int.emod_nonneg v hpos.ne'
  have h2 := Int.emod_lt_of_pos v hpos
  zify
  rw [Int.toNat_of_nonneg h1]
  exact_mod_cast h2

theorem ETy.encInt_lt (t : ETy) (v : Int) : t.encInt v < 2 ^ t.width := by
  rw [ETy.encInt_eq]
  split
  · next h => subst h; split <;> decide
  · exact toNat_emod_lt v _

/-- Sat by its bounds (R93). -/
theorem ETy.encSat_eq {t : ETy} (hb : t ≠ .bipolar) (v : Int) :
    let lo : Int := if t.signed then -2 ^ (t.width - 1) else 0
    let hi : Int := if t.signed then 2 ^ (t.width - 1) - 1 else 2 ^ t.width - 1
    t.encSat v = ((min (max v lo) hi % 2 ^ t.width).toNat, if decide (v < lo ∨ hi < v) then .sat else .none) := by
  dsimp only
  have hle : (if t.signed then -2 ^ (t.width - 1) else 0 : Int) ≤
      if t.signed then 2 ^ (t.width - 1) - 1 else 2 ^ t.width - 1 := by
    have h1 : (0 : Int) < 2 ^ (t.width - 1) := Int.pow_pos (by decide)
    have h2 : (0 : Int) < 2 ^ t.width := Int.pow_pos (by decide)
    split <;> omega
  unfold ETy.encSat satInt intLo intHi
  dsimp only
  generalize (if t.signed then -2 ^ (t.width - 1) else 0 : Int) = lo at hle ⊢
  generalize (if t.signed then 2 ^ (t.width - 1) - 1 else 2 ^ t.width - 1 : Int) = hi at hle ⊢
  by_cases h1 : v < lo
  · rw [if_pos h1, decide_eq_true (.inl h1), ETy.encInt_eq, if_neg hb]
    congr 4
    omega
  · rw [if_neg h1]
    by_cases h2 : hi < v
    · rw [if_pos h2, decide_eq_true (.inr h2), ETy.encInt_eq, if_neg hb]
      congr 4
      omega
    · rw [if_neg h2, decide_eq_false (by omega), ETy.encInt_eq, if_neg hb]
      congr 4
      omega

/-- The entry performs by element groups, each active element as `f` says, with SAT where it saturates. -/
def IntegerPerforms (e : QEntry) (s : State) (t : ETy) (d : BitVec 5) (f : Nat → Nat × Bool) : Prop :=
  ∃ x : Lane, performHead e s = s.went (x.group e s.hart) ∧ x.t = t ∧ x.d = d ∧ x.all = false ∧
    ∀ i, x.f i = (some (f i).1, if (f i).2 then .sat else .none) ∧ (f i).1 < 2 ^ t.width

section
variable {e : QEntry} {s : State} {d : BitVec 5} {f : Nat → Nat × Bool} {F : QEntry → Hart → Lane}
  (hp : performHead e s = byGroup e s F)
include hp

/-- Encodings, without saturation. -/
theorem IntegerPerforms.of_enc (v : Nat → Nat) (hF : F e s.hart = ⟨e.ety, d, false, fun i => (some (v i), .none)⟩)
    (hv : ∀ i, v i < 2 ^ e.ety.width) (hf : ∀ i, f i = (v i, false)) : IntegerPerforms e s e.ety d f :=
  ⟨F e s.hart, hp, by rw [hF], by rw [hF], by rw [hF], fun i => by rw [hF, hf i]; exact ⟨rfl, hv i⟩⟩

/-- Values, wrapped. -/
theorem IntegerPerforms.of_wrap (v : Nat → Int)
    (hF : F e s.hart = ⟨e.ety, d, false, fun i => (some (e.ety.encInt (v i)), .none)⟩)
    (hf : ∀ i, f i = (if e.ety = .bipolar then (if 0 < v i then 1 else 0) else (v i % 2 ^ e.ety.width).toNat, false)) :
    IntegerPerforms e s e.ety d f :=
  .of_enc hp (fun i => e.ety.encInt (v i)) hF (fun i => e.ety.encInt_lt _) fun i => by rw [hf i, ETy.encInt_eq]

/-- Values, saturated. -/
theorem IntegerPerforms.of_sat (hb : e.ety ≠ .bipolar) (v : Nat → Int)
    (hF : F e s.hart = ⟨e.ety, d, false, fun i => (some (e.ety.encSat (v i)).1, (e.ety.encSat (v i)).2)⟩)
    (hf : ∀ i, f i =
      let lo : Int := if e.ety.signed then -2 ^ (e.ety.width - 1) else 0
      let hi : Int := if e.ety.signed then 2 ^ (e.ety.width - 1) - 1 else 2 ^ e.ety.width - 1
      ((min (max (v i) lo) hi % 2 ^ e.ety.width).toNat, decide (v i < lo ∨ hi < v i))) : IntegerPerforms e s e.ety d f := by
  refine ⟨F e s.hart, hp, by rw [hF], by rw [hF], by rw [hF], fun i => ?_⟩
  have hsat := ETy.encSat_eq hb (v i)
  have hlt : (f i).1 < 2 ^ e.ety.width := by
    rw [hf i]
    exact toNat_emod_lt (min (max (v i) _) _) e.ety.width
  refine ⟨?_, hlt⟩
  rw [hF]
  dsimp only
  rw [hsat, hf i]

end

theorem Hart.elem_lt (h : Hart) (e : QEntry) (r : BitVec 5) (i : Nat) : h.elem e r i < 2 ^ e.ety.width :=
  readElem_lt _ _ _ _ _

theorem sintOf_eq {w x : Nat} (h : x < 2 ^ w) : sintOf w x = if x < 2 ^ (w - 1) then (x : Int) else (x : Int) - 2 ^ w := by
  unfold sintOf
  rw [Nat.mod_eq_of_lt h]

/-- Each integer instruction performs the lane that the claim lists. -/
theorem integerLane_performs {e : QEntry} {s : State} {d : BitVec 5} {f : Nat → Nat × Bool} (hrow : RowTakes e e.ety)
    (hl : integerLane e e.ety s.hart = some (d, f)) : IntegerPerforms e s e.ety d f := by
  unfold integerLane at hl
  dsimp only at hl
  split at hl
  case h_1 c m _ a b hi =>
    cases hl
    exact .of_wrap (F := intLane d a b fun x y => x + y) (by unfold performHead; rw [hi]) _ rfl fun i => rfl
  case h_2 c m _ a b hi =>
    cases hl
    exact .of_wrap (F := intLane d a b fun x y => x - y) (by unfold performHead; rw [hi]) _ rfl fun i => rfl
  case h_3 c m _ a b hi =>
    cases hl
    exact .of_wrap (F := intLane d a b fun x y => x * y) (by unfold performHead; rw [hi]) _ rfl fun i => rfl
  case h_4 c m _ a b hi =>
    cases hl
    exact .of_wrap (F := intLane d a b fun x y => x * y / 2 ^ e.ety.width) (by unfold performHead; rw [hi]) _ rfl fun i => rfl
  case h_5 c m _ a b hi =>
    cases hl
    exact .of_wrap (F := intLane d a b fun x y => if x ≤ y then x else y) (by unfold performHead; rw [hi]) _ rfl fun i => by
      simp only [min_def]
      rfl
  case h_6 c m _ a b hi =>
    cases hl
    exact .of_wrap (F := intLane d a b fun x y => if x ≤ y then y else x) (by unfold performHead; rw [hi]) _ rfl fun i => by
      simp only [max_def]
      rfl
  case h_7 c m _ a b hi =>
    cases hl
    exact .of_enc (F := bitLane d a b fun x y => x &&& y) (by unfold performHead; rw [hi]) _ rfl
      (fun i => Nat.and_lt_two_pow _ (Hart.elem_lt _ _ _ _)) fun i => rfl
  case h_8 c m _ a b hi =>
    cases hl
    exact .of_enc (F := bitLane d a b fun x y => x ||| y) (by unfold performHead; rw [hi]) _ rfl
      (fun i => Nat.or_lt_two_pow (Hart.elem_lt _ _ _ _) (Hart.elem_lt _ _ _ _)) fun i => rfl
  case h_9 c m _ a b hi =>
    cases hl
    exact .of_enc (F := bitLane d a b fun x y => x ^^^ y) (by unfold performHead; rw [hi]) _ rfl
      (fun i => Nat.xor_lt_two_pow (Hart.elem_lt _ _ _ _) (Hart.elem_lt _ _ _ _)) fun i => rfl
  case h_10 c m _ a b hi =>
    cases hl
    exact .of_sat (F := satLane d a b fun x y => x + y) (by unfold performHead; rw [hi]) (by unfold RowTakes at hrow; rw [hi] at hrow; exact hrow.2) _ rfl
      fun i => rfl
  case h_11 c m _ a b hi =>
    cases hl
    exact .of_sat (F := satLane d a b fun x y => x - y) (by unfold performHead; rw [hi]) (by unfold RowTakes at hrow; rw [hi] at hrow; exact hrow.2) _ rfl
      fun i => rfl
  case h_12 c m _ a b hi =>
    cases hl
    exact .of_wrap (F := vmaccLane d a b) (by unfold performHead; rw [hi]) _ rfl fun i => rfl
  case h_13 c m _ a b hi =>
    cases hl
    exact .of_wrap (F := intLaneWith d a e.scalarInt fun x y => x + y) (by unfold performHead; rw [hi]) _ rfl fun i => rfl
  case h_14 c m _ a b hi =>
    cases hl
    exact .of_wrap (F := intLaneWith d a e.scalarInt fun x y => x * y) (by unfold performHead; rw [hi]) _ rfl fun i => rfl
  case h_15 c m _ a n hi =>
    cases hl
    exact .of_wrap (F := intLaneWith d a (vecImm n) fun x y => x + y) (by unfold performHead; rw [hi]) _ rfl fun i => rfl
  case h_16 c m _ a n hi =>
    cases hl
    exact .of_wrap (F := intLaneWith d a (2 ^ n.toNat) fun x y => x * y) (by unfold performHead; rw [hi]) _ rfl fun i => rfl
  case h_17 c m _ a n hi =>
    cases hl
    exact .of_enc (F := vsrliLane d a n.toNat) (by unfold performHead; rw [hi]) _ rfl
      (fun i => Nat.lt_of_le_of_lt (Nat.div_le_self _ _) (Hart.elem_lt _ _ _ _)) fun i => rfl
  case h_18 c m _ a n hi =>
    cases hl
    have hb : e.ety ≠ .bipolar := by
      unfold RowTakes at hrow
      rw [hi] at hrow
      exact hrow.2
    refine .of_enc (F := vsraiLane d a n.toNat) (by unfold performHead; rw [hi]) _ rfl (fun i => toNat_emod_lt _ _) fun i => ?_
    rw [if_neg hb, sintOf_eq (Hart.elem_lt _ _ _ _)]
    rfl
  case h_19 c m _ b hi =>
    cases hl
    exact .of_enc (F := vmvxLane d) (by unfold performHead; rw [hi]) _ rfl (fun i => Nat.mod_lt _ (Nat.two_pow_pos _))
      fun i => rfl
  case h_20 => cases hl

theorem foldl_or_sat {α : Type} (b : α → Bool) (l : List α) (acc : Flags) :
    l.foldl (fun fl j => fl ||| if b j then Flags.sat else Flags.none) acc =
      acc ||| if l.any b then Flags.sat else Flags.none := by
  induction l generalizing acc with
  | nil => exact (BitVec.or_zero).symm
  | cons x l ih =>
    rw [List.foldl_cons, ih, List.any_cons, BitVec.or_assoc]
    cases b x <;> cases l.any b <;> rfl

/-- A lane raises SAT where an active element saturates, and nothing else. -/
theorem Lane.flags_sat {x : Lane} {e : QEntry} {hi : Nat} {f : Nat → Nat × Bool}
    (hx : ∀ i, (x.f i).2 = if (f i).2 then Flags.sat else Flags.none) :
    x.flags e hi = if (List.range (hi - e.start)).any (fun j => (x.all || e.active (e.start + j)) && (f (e.start + j)).2)
      then Flags.sat else Flags.none := by
  unfold Lane.flags
  have hj (j : Nat) : (if x.all || e.active (e.start + j) then (x.f (e.start + j)).2 else Flags.none) =
      if (x.all || e.active (e.start + j)) && (f (e.start + j)).2 then Flags.sat else Flags.none := by
    rw [hx]
    cases x.all || e.active (e.start + j) <;> simp
  simp only [hj, foldl_or_sat]
  exact BitVec.zero_or

theorem any_range_sub {lo hi : Nat} (p : Nat → Bool) :
    (List.range (hi - lo)).any (fun j => p (lo + j)) = true ↔ ∃ i, lo ≤ i ∧ i < hi ∧ p i = true := by
  rw [List.any_eq_true]
  constructor
  · rintro ⟨j, hj, hp⟩
    exact ⟨lo + j, Nat.le_add_right _ _, by have := List.mem_range.1 hj; omega, hp⟩
  · rintro ⟨i, h1, h2, hp⟩
    exact ⟨i - lo, List.mem_range.2 (by omega), by rwa [Nat.add_sub_cancel' h1]⟩

theorem integerLane_started (s : State) (e x : QEntry) (t : ETy) (m : Option Bytes) :
    integerLane { e with mask := m } t (s.started x).hart = integerLane e t s.hart := rfl

/-- What a lane gives an element, by the mask (R142). -/
theorem Lane.value_eq {x : Lane} {e : QEntry} {h : Hart} {f : Nat → Option Nat} (hall : x.all = false)
    (hf : ∀ i, (x.f i).1 = f i) : x.value (e.withMask h) = underMask e h f := by
  have hv : (e.withMask h).vtype = e.vtype := by rw [withMask_eq]
  funext i
  unfold Lane.value underMask
  rw [hall, Bool.false_or, withMask_active, hf, hv]
  rfl

theorem underMask_lt {e : QEntry} {h : Hart} {f : Nat → Nat} {w : Nat} (hf : ∀ i, f i < 2 ^ w) :
    ∀ i v, underMask e h (fun i => some (f i)) i = some v → v < 2 ^ w := by
  intro i v hv
  unfold underMask at hv
  split at hv
  · cases hv
    exact hf i
  · split at hv
    · cases hv
      exact Nat.two_pow_pos w
    · cases hv

/-- The integer elements of a micro-operation, as R145 says. -/
theorem vectorIntegerElements_claim : Claims.VectorIntegerElements := by
  intro s core e t d f g hi sats h hv ht hrow hl hr hst hvl ha
  have hety := ety_eq hv ht
  subst hety
  have hm := withMask_eq e s.hart
  have hety' : (e.withMask s.hart).ety = e.ety := by rw [hm]; rfl
  have hrow' : RowTakes (e.withMask s.hart) (e.withMask s.hart).ety := by rw [hm]; exact hrow
  have hl' : integerLane (e.withMask s.hart) (e.withMask s.hart).ety (s.started (e.withMask s.hart)).hart = some (d, f) := by
    rw [hety', ← hl, hm, integerLane_started]
  obtain ⟨x, hp, hxt, rfl, hall, hf⟩ := integerLane_performs hrow' hl'
  rw [hety'] at hxt hf
  have hval : x.value (e.withMask s.hart) = underMask e s.hart fun i => some (f i).1 :=
    Lane.value_eq hall fun i => congrArg Prod.fst (hf i).1
  have hlt : ∀ i v, x.value (e.withMask s.hart) i = some v → v < 2 ^ x.t.width := by
    rw [hval, hxt]
    exact underMask_lt fun i => (hf i).2
  have hwhole : x.t.Whole := hxt ▸ ETy.ofCode_whole ht
  rw [vlmax_eq hv ht] at hvl
  obtain ⟨u, hx, hadv, hlv⟩ := lane_group h hwhole hr hst (hxt ▸ hvl) ha hlt hp
  have hfl := Lane.flags_sat (e := e.withMask s.hart) (hi := x.t.groupEnd e.start e.vl) (f := f)
    fun i => congrArg Prod.snd (hf i).1
  have hstart : (e.withMask s.hart).start = e.start := by rw [hm]
  have hiff : ((List.range (x.t.groupEnd e.start e.vl - (e.withMask s.hart).start)).any fun j =>
      (x.all || (e.withMask s.hart).active ((e.withMask s.hart).start + j)) && (f ((e.withMask s.hart).start + j)).2) =
        true ↔ sats := by
    rw [any_range_sub (fun i => (x.all || (e.withMask s.hart).active i) && (f i).2), hstart, hall, hxt]
    simp only [Bool.false_or, withMask_active, Bool.and_eq_true]
    rfl
  have hw := hlv.writes
  rw [hval, hxt] at hw
  rw [hxt] at hadv
  have hff : u.hart.fflags = s.hart.fflags ||| x.flags (e.withMask s.hart) (x.t.groupEnd e.start e.vl) := by
    rw [hlv.hart]
  refine ⟨u, hx, hadv, hlv.memory, hlv.others, ?_, hw, fun hs => ?_, fun hs => ?_⟩
  · rw [hff]
    exact hlv.hart
  · rw [hff, hfl, if_pos (hiff.2 hs)]
  · rw [hff, hfl, if_neg (fun hc => hs (hiff.1 hc))]
    exact BitVec.or_zero

end Sys2Proof.Machine


/-! ## Predicate results (R142, R146, R155) -/

namespace Sys2Proof.Machine
open Sys2Proof.Claims

theorem testBit_foldr_range (f : Nat → Bool) (n b : Nat) (hb : b < n) :
    ((List.range n).foldr (fun j acc => 2 * acc + if f j then 1 else 0) 0).testBit b = f b := by
  induction n generalizing f b with
  | zero => omega
  | succ n ih =>
    rw [List.range_succ_eq_map, List.foldr_cons, List.foldr_map]
    cases b with
    | zero => rw [Nat.testBit_zero]; cases f 0 <;> simp
    | succ b =>
      rw [Nat.testBit_succ]
      have e (m : Nat) : (2 * m + if f 0 then 1 else 0) / 2 = m := by split <;> omega
      rw [e]
      exact ih (fun j => f (j + 1)) b (by omega)

theorem byteOf_bit (f : Nat → Bool) {b : Nat} (hb : b < 8) : (byteOf f).getLsbD b = f b := by
  unfold byteOf
  rw [BitVec.getLsbD_ofNat, testBit_foldr_range f 8 b hb]
  simp [hb]

/-- Bit `i` of predicate `d` after a write, where it was `old`. -/
def predAfter (e : QEntry) (h : Hart) (f : Nat → Bool) (i : Nat) (old : Bool) : Bool :=
  if i < e.vl then (if e.active i then f i else if vtMP e.vtype then false else old)
  else if i < (if vtTP e.vtype then vlmax e.vtype h.c else e.vl) then false else old

section
variable (h : Hart) (e : QEntry) (f : Nat → Bool) {d : BitVec 5} (hd : d.toNat < 12)

include hd in
theorem kbit_putPred_self (hw : Memory.wf h.kreg[d.toNat] = true) (hvl : e.vl ≤ vlmax e.vtype h.c) (i : Nat) :
    (h.putPred e d f).kbit d.toNat i = predAfter e h f i (h.kbit d.toNat i) := by
  have hn : e.vl ≤ if vtTP e.vtype then vlmax e.vtype h.c else e.vl := by
    split
    · exact hvl
    · exact Nat.le_refl _
  have hbit : h.kbit d.toNat i = predBit h.kreg[d.toNat] i := by
    unfold Hart.kbit predBit
    rw [dif_pos hd]
  have hd8 := Nat.div_add_mod i 8
  have hm8 := Nat.mod_lt i (show 0 < 8 by decide)
  unfold predAfter
  rw [hbit]
  unfold Hart.putPred Hart.kbit
  rw [dif_pos hd, dif_pos hd]
  dsimp only
  generalize (if vtTP e.vtype then vlmax e.vtype h.c else e.vl) = n at hn ⊢
  rw [Vector.getElem_set_self, Bytes.get_write hw, List.length_map, List.length_range, Nat.zero_add]
  by_cases hlen : i / 8 < (n + 7) / 8
  · rw [if_pos ⟨Nat.zero_le _, hlen⟩, Nat.sub_zero, List.getD_eq_getElem?_getD, List.getElem?_map,
      List.getElem?_range hlen, Option.map_some, Option.getD_some, byteOf_bit _ hm8, hd8]
  · have hge : n ≤ i := by omega
    rw [if_neg (fun h => hlen h.2), if_neg (by omega), if_neg (by omega)]
    rfl

theorem kbit_putPred_other {r : Nat} (hr : r ≠ d.toNat) (i : Nat) : (h.putPred e d f).kbit r i = h.kbit r i := by
  unfold Hart.putPred
  split
  · unfold Hart.kbit
    split
    · dsimp only
      rw [Vector.getElem_set_ne _ _ (Ne.symm hr)]
    · rfl
  · rfl

end

/-! ### The instructions -/

theorem le_leastFrom (p : Nat → Bool) (lo n : Nat) : lo ≤ (leastFrom p lo n).getD (lo + n) := by
  induction n generalizing lo with
  | zero => exact Nat.le_refl _
  | succ n ih =>
    unfold leastFrom
    split
    · exact Nat.le_refl _
    · have := ih (lo + 1)
      rw [show lo + (n + 1) = lo + 1 + n by omega]
      omega

/-- The least index from `lo` on with a property lies above an index where none up to it has it. -/
theorem leastFrom_gt (p : Nat → Bool) (lo n i : Nat) (h1 : lo ≤ i) (h2 : i < lo + n) :
    i < (leastFrom p lo n).getD (lo + n) ↔ ∀ j, lo ≤ j → j ≤ i → p j = false := by
  induction n generalizing lo with
  | zero => omega
  | succ n ih =>
    unfold leastFrom
    by_cases hp : p lo = true
    · rw [if_pos hp, Option.getD_some]
      exact ⟨fun h => by omega, fun h => absurd (h lo (Nat.le_refl _) h1) (by simp [hp])⟩
    · rw [if_neg hp]
      have hp' : p lo = false := by simpa using hp
      by_cases hi : i = lo
      · subst hi
        constructor
        · intro _ j h3 h4
          rw [show j = i by omega, hp']
        · intro _
          have := le_leastFrom p (i + 1) n
          rw [show i + (n + 1) = i + 1 + n by omega]
          omega
      · rw [show lo + (n + 1) = lo + 1 + n by omega, ih (lo + 1) (by omega) (by omega)]
        refine ⟨fun h j h3 h4 => ?_, fun h j h3 h4 => h j (by omega) h4⟩
        rcases Nat.eq_or_lt_of_le h3 with rfl | h3
        · exact hp'
        · exact h j h3 h4

/-- Each compare or predicate instruction writes the bits that the claim lists, as far as VL. -/
theorem predicateLane_performs {e : QEntry} {s : State} {d : BitVec 5} {f : Nat → Bool} (hst : e.start = 0)
    (hl : predicateLane e e.ety s.hart = some (d, f)) (hact : ∀ i, e.active i = isActive e s.hart i) :
    ∃ p, performHead e s = s.went (s.hart.putPred e d p, .done) ∧ ∀ i, i < e.vl → p i = f i := by
  have once (F : QEntry → Hart → Hart × Went) (hp : performHead e s = atOnce e s F) :
      performHead e s = s.went (F e s.hart) := hp.trans (if_neg (not_not_intro hst))
  unfold predicateLane at hl
  dsimp only at hl
  split at hl
  case h_1 c m _ a b hi =>
    cases hl
    exact ⟨_, once (intCompare d a b fun x y => decide (x = y)) (by unfold performHead; rw [hi]), fun i _ => rfl⟩
  case h_2 c m _ a b hi =>
    cases hl
    exact ⟨_, once (intCompare d a b fun x y => decide (x < y)) (by unfold performHead; rw [hi]), fun i _ => rfl⟩
  case h_3 c m _ a b hi =>
    cases hl
    exact ⟨_, once (intCompare d a b fun x y => decide (x ≤ y)) (by unfold performHead; rw [hi]), fun i _ => rfl⟩
  case h_4 c m _ a b hi =>
    cases hl
    exact ⟨_, once (fun e h => predLane d (fun i => h.kbit a.toNat i && h.kbit b.toNat i) e h) (by unfold performHead; rw [hi]), fun i _ => rfl⟩
  case h_5 c m _ a b hi =>
    cases hl
    exact ⟨_, once (fun e h => predLane d (fun i => h.kbit a.toNat i || h.kbit b.toNat i) e h) (by unfold performHead; rw [hi]), fun i _ => rfl⟩
  case h_6 c m _ a b hi =>
    cases hl
    exact ⟨_, once (fun e h => predLane d (fun i => h.kbit a.toNat i != h.kbit b.toNat i) e h) (by unfold performHead; rw [hi]), fun i _ => rfl⟩
  case h_7 c m _ a b hi =>
    cases hl
    exact ⟨_, once (fun e h => predLane d (fun i => h.kbit a.toNat i && !h.kbit b.toNat i) e h) (by unfold performHead; rw [hi]), fun i _ => rfl⟩
  case h_8 c m _ a hi =>
    cases hl
    exact ⟨_, once (fun e h => predLane d (fun i => !h.kbit a.toNat i) e h) (by unfold performHead; rw [hi]), fun i _ => rfl⟩
  case h_9 c m _ a hi =>
    cases hl
    refine ⟨_, once (fun e h => predLane d (fun i => decide (i < e.firstSet h a)) e h) (by unfold performHead; rw [hi]), fun i hi => ?_⟩
    rw [Bool.eq_iff_iff, decide_eq_true_eq, List.all_eq_true]
    unfold QEntry.firstSet
    have hlt := leastFrom_gt (fun i => e.active i && s.hart.kbit a.toNat i) 0 e.vl i (Nat.zero_le _) (by omega)
    rw [Nat.zero_add] at hlt
    rw [hlt]
    simp only [List.mem_range, Nat.lt_succ_iff, Nat.zero_le, true_implies, hact, Bool.not_eq_true']
  case h_10 c m _ hi =>
    cases hl
    exact ⟨_, once (predLane d fun _ => true) (by unfold performHead; rw [hi]), fun i _ => rfl⟩
  case h_11 => cases hl

theorem predicateLane_started (s : State) (e : QEntry) (t : ETy) : predicateLane (e.withMask s.hart) t
    (s.started (e.withMask s.hart)).hart = predicateLane e t s.hart := by
  have hact (i : Nat) : isActive (e.withMask s.hart) (s.started (e.withMask s.hart)).hart i = isActive e s.hart i :=
    isActive_withMask e s.hart i
  unfold predicateLane
  simp only [hact]
  rw [withMask_eq]
  rfl

/-- What a predicate write of the oldest entry leaves of the vector registers, the tiles and the flags. -/
theorem Hart.putPred_others (h : Hart) (e : QEntry) (d : BitVec 5) (f : Nat → Bool) : Performs h (h.putPred e d f) ∧
    (h.putPred e d f).vreg = h.vreg ∧ (h.putPred e d f).tile = h.tile ∧ (h.putPred e d f).fflags = h.fflags := by
  unfold Hart.putPred
  split
  · exact ⟨⟨_, _, _, _, rfl⟩, rfl, rfl, rfl⟩
  · exact ⟨⟨_, _, _, _, rfl⟩, rfl, rfl, rfl⟩

/-- The bits of a predicate write of the oldest entry, as the claim says them. -/
theorem predicate_writes {s u : State} {e : QEntry} {d : BitVec 5} {p f : Nat → Bool}
    (hk : u.hart.kreg = ((s.started (e.withMask s.hart)).hart.putPred (e.withMask s.hart) d p).kreg) (hd : d.toNat < 12)
    (hw : Memory.wf (s.hart.kreg.toList.getD d.toNat []) = true) (hvl : e.vl ≤ vlmax e.vtype s.hart.c)
    (hp : ∀ i, i < e.vl → p i = f i) : WritesPred e d f s u := by
  have hw' : Memory.wf s.hart.kreg[d.toNat] = true := by
    rwa [List.getD_eq_getElem?_getD, List.getElem?_eq_getElem (by simpa using hd), Vector.getElem_toList] at hw
  have hkbit (r i : Nat) : u.hart.kbit r i =
      ((s.started (e.withMask s.hart)).hart.putPred (e.withMask s.hart) d p).kbit r i := by
    unfold Hart.kbit
    rw [hk]
  have hm := withMask_eq e s.hart
  have hvt : (e.withMask s.hart).vtype = e.vtype ∧ (e.withMask s.hart).vl = e.vl := by
    rw [hm]
    exact ⟨rfl, rfl⟩
  refine ⟨fun i hi => ?_, fun r hr i => ?_⟩
  · rw [hkbit, kbit_putPred_self (s.started (e.withMask s.hart)).hart _ p hd hw' (by rw [hvt.1, hvt.2]; exact hvl)]
    unfold predAfter
    rw [hvt.1, hvt.2, withMask_active]
    have hold : (s.started (e.withMask s.hart)).hart.kbit d.toNat i = s.hart.kbit d.toNat i := rfl
    have hc : (s.started (e.withMask s.hart)).hart.c = s.hart.c := rfl
    rw [hold, hc]
    by_cases h1 : i < e.vl
    · simp only [h1, if_true, true_and, hp i h1]
      rfl
    · simp only [h1, if_false, false_and]
      by_cases h2 : vtTP e.vtype = true
      · have h3 : e.vtype.getLsbD 13 = true := h2
        rw [if_pos h2, if_pos hi, if_pos h3]
      · have h3 : ¬ e.vtype.getLsbD 13 = true := h2
        rw [if_neg h2, if_neg h1, if_neg h3]
  · rw [hkbit, kbit_putPred_other _ _ p hr]
    rfl

theorem predicateResults_claim : Claims.PredicateResults := by
  intro s core e t d f h hv ht hl hst hvl hd hw
  have hety := ety_eq hv ht
  subst hety
  have hm := withMask_eq e s.hart
  have hety' : (e.withMask s.hart).ety = e.ety := by rw [hm]; rfl
  have hst' : (e.withMask s.hart).start = 0 := by rw [hm]; exact hst
  have hvl' : (e.withMask s.hart).vl = e.vl := by rw [hm]
  rw [← predicateLane_started, ← hety'] at hl
  obtain ⟨p, hp, hpf⟩ := predicateLane_performs hst' hl fun i =>
    (withMask_active e s.hart i).trans (isActive_withMask e s.hart i).symm
  rw [hvl'] at hpf
  obtain ⟨hperf, hvreg, htile, hfl⟩ := (s.started (e.withMask s.hart)).hart.putPred_others (e.withMask s.hart) d p
  obtain ⟨u, hx, hc, hu⟩ := sole_completes h (sole_notOver h (by omega)) hperf hp
  have hk := hu.kept.eq
  rw [hu.vreg, hvreg, hu.tile, htile, hu.fflags, hfl] at hk
  exact ⟨u, hx, hc, hu.memory, hu.others, hk, predicate_writes hu.kreg hd hw hvl hpf⟩

end Sys2Proof.Machine

/-- Settles O26: each instruction is a lane, or a predicate write, of the entry's own kind. -/
theorem vectorIntegerElements : Obligations.VectorIntegerElements := by
  unfold Obligations.VectorIntegerElements
  exact ⟨Sys2Proof.Machine.vectorIntegerElements_claim, Sys2Proof.Machine.predicateResults_claim⟩


/-! ## Selects, permutations, slides (R146, R150, R153, R154) -/

namespace Sys2Proof.Machine
open Sys2Proof.Claims

/-- A lane without flags raises none. -/
theorem Lane.flags_none {x : Lane} {e : QEntry} {hi : Nat} (hx : ∀ i, (x.f i).2 = Flags.none) :
    x.flags e hi = Flags.none := by
  have h := Lane.flags_sat (x := x) (e := e) (hi := hi) (f := fun _ => (0, false)) hx
  simpa using h

/-- The entry performs whole, each active element as `f` says. -/
def RearrangePerforms (e : QEntry) (s : State) (d : BitVec 5) (f : Nat → Option Nat) : Prop :=
  ∃ x : Lane, performHead e s = s.went (x.whole e s.hart) ∧ x.t = e.ety ∧ x.d = d ∧ x.all = false ∧
    ∀ i, x.f i = (f i, .none) ∧ ∀ v, f i = some v → v < 2 ^ e.ety.width

theorem wholeLane_performs {e : QEntry} {s : State} {F : QEntry → Hart → Lane} (hst : e.start = 0)
    (hp : performHead e s = wholeLane e s F) : performHead e s = s.went ((F e s.hart).whole e s.hart) :=
  hp.trans (if_neg (not_not_intro hst))

theorem RearrangePerforms.of_lane {e : QEntry} {s : State} {d : BitVec 5} {f : Nat → Option Nat} (hst : e.start = 0)
    (F : QEntry → Hart → Lane) (hp : performHead e s = wholeLane e s F)
    (hF : F e s.hart = ⟨e.ety, d, false, fun i => (f i, .none)⟩)
    (hf : ∀ i v, f i = some v → v < 2 ^ e.ety.width) : RearrangePerforms e s d f :=
  ⟨F e s.hart, wholeLane_performs hst hp, by rw [hF], by rw [hF], by rw [hF], fun i => by rw [hF]; exact ⟨rfl, hf i⟩⟩

theorem some_ite_zero_lt {p : Prop} [Decidable p] {x v w : Nat} (hx : x < 2 ^ w) (h : some (if p then x else 0) = some v) :
    v < 2 ^ w := by
  cases h
  split
  · exact hx
  · exact Nat.two_pow_pos w

theorem ETy.encInt_natCast {t : ETy} (hb : t ≠ .bipolar) (n : Nat) : t.encInt (n : Int) = n % 2 ^ t.width := by
  rw [ETy.encInt_eq, if_neg hb]
  exact_mod_cast Int.toNat_natCast (n % 2 ^ t.width)

/-- Each rearrangement performs the lane that the claim lists. -/
theorem rearranged_performs {e : QEntry} {s : State} {d : BitVec 5} {f : Nat → Option Nat} (hst : e.start = 0)
    (htakes : RearrangeTakes e e.ety) (hact : ∀ i, e.active i = isActive e s.hart i)
    (hl : rearranged e e.ety s.hart = some (d, f)) : RearrangePerforms e s d f := by
  unfold rearranged at hl
  unfold RearrangeTakes at htakes
  dsimp only at hl
  split at hl
  case h_1 c m _ a b hi =>
    cases hl
    exact .of_lane hst (vpermLane d a b) (by unfold performHead; rw [hi]) rfl fun i v =>
      some_ite_zero_lt (readElem_lt _ _ _ _ _)
  case h_2 c m _ a b hi =>
    cases hl
    refine .of_lane hst (vslideupLane d a) (by unfold performHead; rw [hi]) rfl fun i v hv => ?_
    split at hv
    · cases hv
      exact readElem_lt _ _ _ _ _
    · cases hv
  case h_3 c m _ a b hi =>
    cases hl
    exact .of_lane hst (vslidednLane d a) (by unfold performHead; rw [hi]) rfl fun i v =>
      some_ite_zero_lt (readElem_lt _ _ _ _ _)
  case h_4 c m _ hi =>
    cases hl
    rw [hi] at htakes
    refine .of_lane hst (viotaLane d) (by unfold performHead; rw [hi]) ?_ fun i v hv => ?_
    · unfold viotaLane QEntry.countBelow
      have hact' : e.active = isActive e s.hart := funext hact
      simp only [ETy.encInt_natCast htakes.2, hact']
    · cases hv
      exact Nat.mod_lt _ (Nat.two_pow_pos _)
  case h_5 c m _ a hi =>
    cases hl
    have hcty : e.cty = sourceTy e := rfl
    refine .of_lane hst (convertLane d a cvtSkiver) (by unfold performHead; rw [hi]) ?_ fun i v hv => ?_
    · unfold convertLane cvtSkiver
      rw [hcty]
      rfl
    · cases hv
      split
      · exact toNat_emod_lt _ _
      · exact Nat.mod_lt _ (Nat.two_pow_pos _)
  case h_6 => cases hl

/-- A lane without flags changes vector registers alone. -/
theorem LaneLeaves.hart_noFlags {x : Lane} {e : QEntry} {hi : Nat} {s u : State} (h : LaneLeaves x e hi s u)
    (hx : ∀ i, (x.f i).2 = Flags.none) : u.hart = { s.hart with
      vreg := u.hart.vreg, queue := u.hart.queue, vstart := u.hart.vstart, convoyRun := u.hart.convoyRun } := by
  have hh := h.hart
  have hz : s.hart.fflags ||| Flags.none = s.hart.fflags := BitVec.or_zero
  rw [Lane.flags_none hx, hz] at hh
  exact hh

theorem underMask_some_lt {e : QEntry} {h : Hart} {f : Nat → Option Nat} {w : Nat} (hf : ∀ i v, f i = some v → v < 2 ^ w) :
    ∀ i v, underMask e h f i = some v → v < 2 ^ w := by
  intro i v hv
  unfold underMask at hv
  split at hv
  · exact hf i v hv
  · split at hv
    · cases hv
      exact Nat.two_pow_pos w
    · cases hv

theorem rearranged_started (s : State) (e : QEntry) (t : ETy) : rearranged (e.withMask s.hart) t
    (s.started (e.withMask s.hart)).hart = rearranged e t s.hart := by
  have hact (i : Nat) : isActive (e.withMask s.hart) (s.started (e.withMask s.hart)).hart i = isActive e s.hart i :=
    isActive_withMask e s.hart i
  unfold rearranged
  simp only [hact]
  rw [withMask_eq]
  rfl

theorem rearrangeTakes_withMask {e : QEntry} {t : ETy} (h : RearrangeTakes e t) (g : Hart) :
    RearrangeTakes (e.withMask g) t := by
  rw [withMask_eq]
  exact h

/-- A lane without flags that performs whole leaves what its elements are under the mask. -/
theorem lane_writesLanes {s : State} {core : BitVec 8} {e : QEntry} {x : Lane} {f : Nat → Option Nat}
    (h : SoleIssuer core s e) (ht : x.t.Whole) (hr : RegistersOk s.hart) (hst : e.start < e.vl)
    (hvl : e.vl ≤ vlmaxFor x.t (vtG e.vtype) s.hart.c) (ha : Aligned e x.d (vtG e.vtype)) (hall : x.all = false)
    (hf : ∀ i, x.f i = (f i, .none) ∧ ∀ v, f i = some v → v < 2 ^ x.t.width)
    (hp : performHead (e.withMask s.hart) (s.started (e.withMask s.hart)) =
      (s.started (e.withMask s.hart)).went (x.whole (e.withMask s.hart) (s.started (e.withMask s.hart)).hart)) :
    Yields (.microopIssue core) s fun u => Completes s u ∧
      (SameMemory s u ∧ u.others = s.others ∧ u.hart = { s.hart with
        vreg := u.hart.vreg, queue := u.hart.queue, vstart := u.hart.vstart, convoyRun := u.hart.convoyRun }) ∧
      WritesLanes e x.t x.d (vtG e.vtype) e.vl e.vl f s u := by
  have hval : x.value (e.withMask s.hart) = underMask e s.hart f :=
    Lane.value_eq hall fun i => congrArg Prod.fst (hf i).1
  have hlt : ∀ i v, x.value (e.withMask s.hart) i = some v → v < 2 ^ x.t.width := by
    rw [hval]
    exact underMask_some_lt fun i => (hf i).2
  obtain ⟨u, hx, hc, hlv⟩ := lane_whole h ht hr hst hvl ha hlt hp
  have hw := hlv.writes
  rw [hval] at hw
  exact ⟨u, hx, hc, ⟨hlv.memory, hlv.others, hlv.hart_noFlags fun i => congrArg Prod.snd (hf i).1⟩, hw⟩

theorem rearranged_writes {s : State} {core : BitVec 8} {e : QEntry} {t : ETy} {d : BitVec 5} {f : Nat → Option Nat}
    (h : SoleIssuer core s e)
    (ht : ETy.ofCode (fieldOf e.vtype 0 8) = some t) (hv : e.vtype.getLsbD 63 = false) (hr : RegistersOk s.hart)
    (hst : e.start < e.vl) (hvl : e.vl ≤ vlmax e.vtype s.hart.c) (ha : Aligned e d (vtG e.vtype))
    (htakes : RearrangeTakes e t) (hl : rearranged e t s.hart = some (d, f)) (h0 : e.start = 0) :
    Yields (.microopIssue core) s fun u => Completes s u ∧
      (SameMemory s u ∧ u.others = s.others ∧ u.hart = { s.hart with
        vreg := u.hart.vreg, queue := u.hart.queue, vstart := u.hart.vstart, convoyRun := u.hart.convoyRun }) ∧
      WritesLanes e t d (vtG e.vtype) e.vl e.vl f s u := by
  have hm := withMask_eq e s.hart
  have hety := ety_eq hv ht
  have hety' : (e.withMask s.hart).ety = t := by rw [← hety, hm]; rfl
  have h0' : (e.withMask s.hart).start = 0 := by rw [hm]; exact h0
  have hperforms : RearrangePerforms (e.withMask s.hart) (s.started (e.withMask s.hart)) d f := by
    rw [← rearranged_started] at hl
    rw [← hety'] at hl htakes
    exact rearranged_performs h0' (rearrangeTakes_withMask htakes s.hart)
      (fun i => (withMask_active e s.hart i).trans (isActive_withMask e s.hart i).symm) hl
  obtain ⟨x, hp, hxt, hxd, hall, hf⟩ := hperforms
  rw [hety'] at hxt hf
  subst hxt
  subst hxd
  rw [vlmax_eq hv ht] at hvl
  exact lane_writesLanes h (ETy.ofCode_whole ht) hr hst hvl ha hall hf hp

theorem vsel_writes {s : State} {core : BitVec 8} {e : QEntry} {t : ETy} {c m : BitVec 1} {d a b : BitVec 5}
    (h : SoleIssuer core s e)
    (ht : ETy.ofCode (fieldOf e.vtype 0 8) = some t) (hv : e.vtype.getLsbD 63 = false) (hr : RegistersOk s.hart)
    (hst : e.start < e.vl) (hvl : e.vl ≤ vlmax e.vtype s.hart.c) (ha : Aligned e d (2 ^ fieldOf e.vtype 8 2))
    (hi : e.instr = .vsel c m d a b) : Yields (.microopIssue core) s fun u =>
      Advances e (groupEndOf t e.start e.vl) e.vl s u ∧
      (SameMemory s u ∧ u.others = s.others ∧ u.hart = { s.hart with
        vreg := u.hart.vreg, queue := u.hart.queue, vstart := u.hart.vstart, convoyRun := u.hart.convoyRun }) ∧
      WritesEach e t d (2 ^ fieldOf e.vtype 8 2) (groupEndOf t e.start e.vl) e.vl (fun i =>
        some (readElem s.hart.vreg s.hart.c (if isActive e s.hart i = true then a else b).toNat t i)) s u := by
  have hety := ety_eq hv ht
  subst hety
  have hm := withMask_eq e s.hart
  have hi' : (e.withMask s.hart).instr = .vsel c m d a b := by rw [hm]; exact hi
  have hety' : (e.withMask s.hart).ety = e.ety := by rw [hm]; rfl
  have hp : performHead (e.withMask s.hart) (s.started (e.withMask s.hart)) =
      byGroup (e.withMask s.hart) (s.started (e.withMask s.hart)) (vselLane d a b) := by
    unfold performHead
    rw [hi']
  generalize hx : vselLane d a b (e.withMask s.hart) (s.started (e.withMask s.hart)).hart = x
  have hp' : performHead (e.withMask s.hart) (s.started (e.withMask s.hart)) = (s.started (e.withMask s.hart)).went
      (x.group (e.withMask s.hart) (s.started (e.withMask s.hart)).hart) := by rw [hp, ← hx]; rfl
  have hxt : x.t = e.ety := by rw [← hx, ← hety']; rfl
  have hxd : x.d = d := by rw [← hx]; rfl
  have hval : x.value (e.withMask s.hart) = fun i =>
      some (readElem s.hart.vreg s.hart.c (if isActive e s.hart i = true then a else b).toNat e.ety i) := by
    funext i
    rw [← hx, ← hety', ← withMask_active]
    unfold Lane.value vselLane
    dsimp only
    rw [Bool.true_or, if_pos rfl]
    cases (e.withMask s.hart).active i <;> rfl
  have hlt : ∀ i v, x.value (e.withMask s.hart) i = some v → v < 2 ^ x.t.width := by
    rw [hval, hxt]
    intro i v hv
    cases hv
    exact readElem_lt _ _ _ _ _
  rw [vlmax_eq hv ht] at hvl
  subst hxd
  obtain ⟨u, hx', hadv, hlv⟩ := lane_group h (hxt ▸ ETy.ofCode_whole ht) hr hst (hxt ▸ hvl) ha hlt hp'
  have hw := hlv.writes
  rw [hval, hxt] at hw
  rw [hxt] at hadv
  exact ⟨u, hx', hadv, ⟨hlv.memory, hlv.others, hlv.hart_noFlags fun i => by rw [← hx]; rfl⟩, hw⟩

theorem vectorRearrangement_claim : Claims.VectorRearrangement := by
  intro s core e t d g hi kept h ht hv hr hst hvl ha
  refine ⟨fun f htakes hl h0 => rearranged_writes h ht hv hr hst hvl ha htakes hl h0, fun c m a b hi =>
    vsel_writes h ht hv hr hst hvl ha hi⟩

end Sys2Proof.Machine


/-! ## Elements written from element 0 on (R151, R152, R154) -/

namespace Sys2Proof.Machine
open Sys2Proof.Claims

/-- A micro-operation that writes values from element 0 of a destination on, and raises flags. -/
def LeavesValues (core : BitVec 8) (s : State) (e : QEntry) (d : BitVec 5) (v : ETy) (g : Nat) (vals : List Nat)
    (fl : Flags) : Prop :=
  Yields (.microopIssue core) s fun u => Completes s u ∧ SameMemory s u ∧ u.others = s.others ∧
    u.hart = { s.hart with
      vreg := u.hart.vreg, queue := u.hart.queue, vstart := u.hart.vstart, convoyRun := u.hart.convoyRun
      fflags := s.hart.fflags ||| fl } ∧
    WritesEach e v d g vals.length vals.length (fun i => vals[i]?) s u

/-- The hart after such a write. -/
def Hart.values (h : Hart) (e : QEntry) (d : BitVec 5) (g : Nat) (v : ETy) (vals : List Nat) (fl : Flags) : Hart :=
  ((h.put e d g v 0 (vals.map some)).tail e d g v vals.length).raise fl

theorem Hart.values_performs (h : Hart) (e : QEntry) (d : BitVec 5) (g : Nat) (v : ETy) (vals : List Nat) (fl : Flags) :
    Performs h (h.values e d g v vals fl) :=
  (h.put_performs _ _ _ _ _ _).trans ((Hart.tail_performs _ _ _ _ _ _).trans (Hart.raise_performs _ _))

theorem Hart.values_others (h : Hart) (e : QEntry) (d : BitVec 5) (g : Nat) (v : ETy) (vals : List Nat) (fl : Flags) :
    (h.values e d g v vals fl).kreg = h.kreg ∧ (h.values e d g v vals fl).tile = h.tile ∧
    (h.values e d g v vals fl).fflags = h.fflags ||| fl := by
  obtain ⟨hk, ht, hf⟩ := (h.put e d g v 0 (vals.map some)).tail_others e d g v vals.length
  exact ⟨hk, ht, congrArg (· ||| fl) hf⟩

theorem Hart.values_change {h : Hart} {e : QEntry} {d : BitVec 5} {g : Nat} {v : ETy} {vals : List Nat} {fl : Flags}
    (hg : GroupSize g) (ha : Aligned e d g) (hv : v.Whole) (hr : RegistersOk h)
    (hlen : h.c ≠ 0 → vals.length ≤ vlmaxFor v g h.c) : GroupsChange h.c g v
      (fun i x => if vals.length ≤ i ∧ vtTP e.vtype = true then 0 else placed v.width 0 (vals.map some) i x)
      (fun _ => v.width) (e.copies d) h.vreg (h.values e d g v vals fl).vreg := by
  have hput := h.put_change hg ha hv hr (lo := 0) (vals := vals.map some)
    (fun hc => by rw [List.length_map, Nat.zero_add]; exact hlen hc)
  exact hput.trans ((h.put e d g v 0 (vals.map some)).tail_change hg ha hv hput.images vals.length)

/-- The oldest entry writes values from element 0 on. -/
theorem sole_values {s : State} {core : BitVec 8} {e : QEntry} (h : SoleIssuer core s e) (hr : RegistersOk s.hart)
    (h0 : e.start = 0) {d : BitVec 5} {g : Nat} {v : ETy} {vals : List Nat} {fl : Flags} (hg : GroupSize g)
    (hv : v.Whole) (hlen : s.hart.c ≠ 0 → vals.length ≤ vlmaxFor v g s.hart.c) (hlt : ∀ x ∈ vals, x < 2 ^ v.width)
    (hp : performHead (e.withMask s.hart) (s.started (e.withMask s.hart)) = (s.started (e.withMask s.hart)).went
      ((s.started (e.withMask s.hart)).hart.values (e.withMask s.hart) d g v vals fl, .done)) (ha : Aligned e d g) :
    LeavesValues core s e d v g vals fl := by
  have hm := withMask_eq e s.hart
  generalize he : e.withMask s.hart = e' at hm hp
  have hcopies : e'.copies d = e.copies d := by rw [hm]; rfl
  have hal : Aligned e' d g := by rw [hm]; exact ha
  have hvt : e'.vtype = e.vtype := by rw [hm]
  obtain ⟨hk, htile, hfl⟩ := (s.started e').hart.values_others e' d g v vals fl
  have hch := Hart.values_change (h := (s.started e').hart) (fl := fl) hg hal hv hr hlen
  have hperf := (s.started e').hart.values_performs e' d g v vals fl
  generalize (s.started e').hart.values e' d g v vals fl = x at hk htile hfl hch hperf hp
  obtain ⟨u, hx, hc, hu⟩ := sole_completes h (sole_notOver h (by omega)) (he ▸ hperf) (by rw [he]; exact hp)
  have hh : u.hart = { s.hart with
      vreg := u.hart.vreg, queue := u.hart.queue, vstart := u.hart.vstart, convoyRun := u.hart.convoyRun
      fflags := s.hart.fflags ||| fl } := by
    have hk' := hu.kept.eq
    rw [hu.kreg, hk, hu.tile, htile, hu.fflags, hfl] at hk'
    exact hk'
  rw [hcopies, hvt] at hch
  rw [← hu.vreg] at hch
  refine ⟨u, hx, hc, hu.memory, hu.others, hh, GroupsChange.writesEach hch fun i y _ hy => ?_⟩
  rw [h0, if_neg (Nat.not_lt_zero i)]
  unfold placed
  rw [if_neg (Nat.not_lt_zero i), Nat.sub_zero, List.getD_eq_getElem?_getD, List.getElem?_map]
  by_cases hi : i < vals.length
  · rw [if_neg (by omega), if_pos hi, List.getElem?_eq_getElem hi]
    exact Nat.mod_eq_of_lt (hlt _ (List.getElem_mem hi))
  · rw [if_neg hi, List.getElem?_eq_none (Nat.le_of_not_lt hi)]
    by_cases htp : vals.length ≤ i ∧ vtTP e.vtype = true
    · exact (if_pos htp).trans (if_pos ⟨htp.1, Nat.le_refl _, htp.2⟩).symm
    · refine (if_neg htp).trans (((Nat.mod_eq_of_lt hy).trans ?_))
      exact (if_neg fun hc => htp ⟨hc.1, hc.2.2⟩).symm

end Sys2Proof.Machine


/-! ## Reductions and compression (R151, R154) -/

namespace Sys2Proof.Machine
open Sys2Proof.Claims

theorem zipIdx_map_range {α : Type} (f : Nat → α) (n : Nat) :
    ((List.range n).map f).zipIdx = (List.range n).map fun i => (f i, i) := by
  refine List.ext_getElem (by simp) fun i h1 h2 => ?_
  simp

theorem zipIdx_readElems {t : ETy} (ht : t.Whole) (regs : Vector VReg 32) (c v n : Nat) :
    (readElems regs c v t 0 n).zipIdx = (List.range n).map fun i => (readElem regs c v t i, i) := by
  rw [readElems_eq ht, zipIdx_map_range]
  simp only [Nat.zero_add]

theorem Hart.activeElems_eq {h : Hart} {e : QEntry} (ht : e.ety.Whole) (a : BitVec 5) : h.activeElems e a =
    ((List.range e.vl).filter e.active).map fun i => (i, readElem h.vreg h.c a.toNat e.ety i) := by
  unfold Hart.activeElems
  rw [zipIdx_readElems ht, List.filter_map, List.map_map]
  rfl

theorem activeElements_lt {e : QEntry} {t : ETy} {h : Hart} {a : BitVec 5} {p : Nat × Nat}
    (hp : p ∈ activeElements e t h a) : p.1 < e.vl ∧ p.2 < 2 ^ t.width := by
  obtain ⟨i, hi, rfl⟩ := List.mem_map.1 hp
  exact ⟨List.mem_range.1 (List.mem_filter.1 hi).1, readElem_lt _ _ _ _ _⟩

theorem activeElements_length (e : QEntry) (t : ETy) (h : Hart) (a : BitVec 5) : (activeElements e t h a).length ≤ e.vl := by
  unfold activeElements
  rw [List.length_map]
  exact (List.length_filter_le _ _).trans (List.length_range (n := e.vl)).le

/-! ### Encodings that a reduction writes -/

theorem Fmt.signed_lt {f : Fmt} {n : Nat} (h : n < f.signBit) (neg : Bool) : f.signed neg n < 2 ^ f.width := by
  have hw : 2 ^ f.width = f.signBit + f.signBit := by cases f <;> rfl
  unfold Fmt.signed
  split <;> omega

theorem Fmt.maxEnc_lt (f : Fmt) : f.maxEnc < f.signBit := by cases f <;> decide

theorem Fmt.infEnc_lt (f : Fmt) : f.infEnc < f.signBit := by cases f <;> decide

theorem Fmt.canonNaN_lt (f : Fmt) : f.canonNaN < 2 ^ f.width := by cases f <;> decide

theorem Fmt.signBit_le (f : Fmt) : f.signBit ≤ 2 ^ f.width := Nat.pow_le_pow_right (by decide) (Nat.sub_le _ _)

theorem Fmt.overflow_lt (f : Fmt) (mode : RMode) (neg : Bool) : f.overflow mode neg < 2 ^ f.width := by
  have hmag (b : Bool) : (if b then f.infEnc else f.maxEnc) < f.signBit := by
    cases b
    · exact f.maxEnc_lt
    · exact f.infEnc_lt
  exact f.signed_lt (hmag _) neg

theorem Fmt.roundMag_lt (f : Fmt) (mode : RMode) (rnd : Word) (neg : Bool) (v : Mag) :
    (f.roundMag mode rnd neg v).1 < 2 ^ f.width := by
  unfold Fmt.roundMag
  split
  · exact f.signed_lt (Nat.two_pow_pos _) neg
  · extract_lets k q lo exact up w mag tiny fl
    split
    · exact f.overflow_lt mode neg
    · next h => exact f.signed_lt (Nat.lt_of_le_of_lt (Nat.le_of_not_lt h) f.maxEnc_lt) neg

/-- A rounded result is an encoding of the format. -/
theorem Fmt.roundTo_lt (f : Fmt) (mode : RMode) (rnd : Word) (v : Ext) : (f.roundTo mode rnd v).1 < 2 ^ f.width := by
  unfold Fmt.roundTo
  cases v with
  | nan =>
    dsimp only
    split
    · exact f.canonNaN_lt
    · exact f.maxEnc_lt.trans_le f.signBit_le
  | inf neg =>
    dsimp only
    split
    · exact f.signed_lt f.infEnc_lt neg
    · exact f.signed_lt f.maxEnc_lt neg
  | num neg m e => exact f.roundMag_lt _ _ _ _

theorem canonSum_lt (l : List (Ext × Bool)) : (canonSum l).1 < 2 ^ Fmt.fp32.width := by
  unfold canonSum
  dsimp only
  split
  · exact Fmt.fp32.roundTo_lt _ _ _
  · exact Nat.two_pow_pos _

theorem Fmt.minmax_lt {f : Fmt} {a b : Nat} (mx : Bool) (ha : a < 2 ^ f.width) (hb : b < 2 ^ f.width) :
    (f.minmax mx a b).1 < 2 ^ f.width := by
  unfold Fmt.minmax
  dsimp only
  split
  · dsimp only
    split
    · exact f.canonNaN_lt
    · exact hb
  · split
    · exact ha
    · split
      · dsimp only
        split <;> assumption
      · dsimp only
        split <;> assumption

/-- One step of the floating maximum. -/
def maxStep (f : Fmt) (acc : Nat × Flags) (q : Nat × Nat) : Nat × Flags :=
  ((f.minmax true acc.1 q.2).1, acc.2 ||| (f.minmax true acc.1 q.2).2)

theorem foldl_maxStep_lt {f : Fmt} {l : List (Nat × Nat)} (hl : ∀ p ∈ l, p.2 < 2 ^ f.width) {acc : Nat × Flags}
    (ha : acc.1 < 2 ^ f.width) : (l.foldl (maxStep f) acc).1 < 2 ^ f.width := by
  induction l generalizing acc with
  | nil => exact ha
  | cons q l ih =>
    exact ih (fun p hp => hl p (List.mem_cons_of_mem _ hp)) (f.minmax_lt true ha (hl q List.mem_cons_self))

/-! ### What each instruction leaves -/

theorem atOnce_started {e : QEntry} {s : State} (h0 : e.start = 0) (F : QEntry → Hart → Hart × Went) :
    atOnce e s F = s.went (F e s.hart) := if_neg (not_not_intro h0)

section
variable {s : State} {core : BitVec 8} {e : QEntry} {t : ETy} (h : SoleIssuer core s e)
  (ht : ETy.ofCode (fieldOf e.vtype 0 8) = some t) (hv : e.vtype.getLsbD 63 = false) (hr : RegistersOk s.hart)
  (h0 : e.start = 0)

theorem ety_withMask (e : QEntry) (g : Hart) : (e.withMask g).ety = e.ety := by rw [withMask_eq]; rfl

include ht hv in
/-- The active elements of a source, as the micro-operation of the oldest entry reads them. -/
theorem activeElems_started (a : BitVec 5) :
    (s.started (e.withMask s.hart)).hart.activeElems (e.withMask s.hart) a = activeElements e t s.hart a := by
  have hm := withMask_eq e s.hart
  have hety := ety_withMask e s.hart
  rw [ety_eq hv ht] at hety
  rw [Hart.activeElems_eq (by rw [hety]; exact ETy.ofCode_whole ht), hety]
  unfold activeElements
  have hact : (e.withMask s.hart).active = isActive e s.hart := funext fun i => withMask_active e s.hart i
  rw [hact, hm]
  rfl

include h hr h0 in
/-- An instruction that completes once started writes values from element 0 on. -/
theorem atOnce_values {d : BitVec 5} {g : Nat} {v : ETy} {vals : List Nat} {fl : Flags} (hg : GroupSize g)
    (hw : v.Whole) (hlen : s.hart.c ≠ 0 → vals.length ≤ vlmaxFor v g s.hart.c) (hlt : ∀ x ∈ vals, x < 2 ^ v.width)
    (F : QEntry → Hart → Hart × Went)
    (hp : performHead (e.withMask s.hart) (s.started (e.withMask s.hart)) =
      atOnce (e.withMask s.hart) (s.started (e.withMask s.hart)) F)
    (hF : F (e.withMask s.hart) (s.started (e.withMask s.hart)).hart =
      ((s.started (e.withMask s.hart)).hart.values (e.withMask s.hart) d g v vals fl, .done)) (ha : Aligned e d g) :
    LeavesValues core s e d v g vals fl := by
  refine sole_values h hr h0 hg hw hlen hlt ?_ ha
  rw [hp, atOnce_started (by rw [withMask_eq]; exact h0), hF]

end

/-! ### Reductions (R151) -/

/-- Flags gathered from the elements that a predicate picks. -/
theorem foldl_or_filter {α : Type} (p : α → Bool) (f : α → Flags) (l : List α) (acc : Flags) :
    l.foldl (fun acc x => if p x then acc ||| f x else acc) acc =
      ((l.filter p).map f).foldl (fun acc x => acc ||| x) acc := by
  rw [List.foldl_map, List.foldl_filter]

/-- A single register has room for an element. -/
theorem vlmaxFor_single_pos {v : ETy} (hw : v.Whole) {c : Nat} (hc : Capacity c) (h : c ≠ 0) : 1 ≤ vlmaxFor v 1 c := by
  have hle := hw.bytes_le
  have hc' : 1 ≤ 1 * c / v.unitBytes := Nat.div_pos (by rcases hc with h0 | ⟨hbig, -⟩ <;> omega) hw.bytes_pos
  exact Nat.le_min.2 ⟨Nat.mul_pos hw.elems_pos hc', by omega⟩

section
variable {s : State} {core : BitVec 8} {e : QEntry} {t : ETy} {c m : BitVec 1} {d a : BitVec 5} (h : SoleIssuer core s e)
  (ht : ETy.ofCode (fieldOf e.vtype 0 8) = some t) (hv : e.vtype.getLsbD 63 = false) (hr : RegistersOk s.hart)
  (h0 : e.start = 0)

include h hr h0 in
/-- A reduction writes one element. -/
theorem single_values {v : ETy} {x : Nat} {fl : Flags} (hw : v.Whole) (hx : x < 2 ^ v.width)
    (F : QEntry → Hart → Hart × Went)
    (hp : performHead (e.withMask s.hart) (s.started (e.withMask s.hart)) =
      atOnce (e.withMask s.hart) (s.started (e.withMask s.hart)) F)
    (hF : F (e.withMask s.hart) (s.started (e.withMask s.hart)).hart =
      (s.started (e.withMask s.hart)).hart.putSingle (e.withMask s.hart) d v [x] fl) (ha : Aligned e d 1) :
    LeavesValues core s e d v 1 [x] fl :=
  atOnce_values h hr h0 (one_dvd 8) hw (vlmaxFor_single_pos hw s.hart.c_capacity) (by simpa using hx) F hp hF ha

include h ht hv hr h0

theorem vredsum_values (hi : e.instr = .vredsum c m d a) (ha : Aligned e d 1) : LeavesValues core s e d t 1
    [((((activeElements e t s.hart a).map fun p => t.intVal p.2).sum % 2 ^ t.width).toNat)] Flags.none := by
  refine single_values h hr h0 (ETy.ofCode_whole ht) (toNat_emod_lt _ _) (vredsum d a) ?_ ?_ ha
  · unfold performHead
    rw [withMask_eq, hi]
  · unfold vredsum
    rw [activeElems_started ht hv, ety_withMask, ety_eq hv ht]
    rfl

theorem vredmax_values (hi : e.instr = .vredmax c m d a) (ha : Aligned e d 1) : LeavesValues core s e d t 1
    [((((activeElements e t s.hart a).map fun p => t.intVal p.2).foldl max
      (if t.signed then -2 ^ (t.width - 1) else 0) % 2 ^ t.width).toNat)] Flags.none := by
  refine single_values h hr h0 (ETy.ofCode_whole ht) (toNat_emod_lt _ _) (vredmax d a) ?_ ?_ ha
  · unfold performHead
    rw [withMask_eq, hi]
  · unfold vredmax
    rw [activeElems_started ht hv, ety_withMask, ety_eq hv ht, List.foldl_map]
    rfl

theorem vfredsum_values {x : Fmt} (hx : t = .flt x) (hi : e.instr = .vfredsum c m d a) (ha : Aligned e d 1) :
    let r := canonSum ((List.range e.vl).map fun i =>
      (x.decode (readElem s.hart.vreg s.hart.c a.toNat t i), isActive e s.hart i))
    LeavesValues core s e d (.flt .fp32) 1 [r.1]
      (r.2 ||| ((activeElements e t s.hart a).map fun p => x.snanFlag p.2).foldl (· ||| ·) Flags.none) := by
  refine single_values h hr h0 (ETy.ofCode_whole (c := 0x35) rfl) (canonSum_lt _) (vfredsum d a) ?_ ?_ ha
  · unfold performHead
    rw [withMask_eq, hi]
  · have hm := withMask_eq e s.hart
    have hw := ETy.ofCode_whole ht
    have hf : t.fmt = x := by rw [hx]; rfl
    have hact : (e.withMask s.hart).active = isActive e s.hart := funext fun i => withMask_active e s.hart i
    have hvl : (e.withMask s.hart).vl = e.vl := by rw [hm]
    have hregs : (s.started (e.withMask s.hart)).hart.vreg = s.hart.vreg := rfl
    have hc : (s.started (e.withMask s.hart)).hart.c = s.hart.c := rfl
    unfold vfredsum activeElements
    rw [ety_withMask, ety_eq hv ht, hvl, hregs, hc, hf, hact, zipIdx_readElems hw]
    simp only [List.map_map, List.foldl_map]
    rw [foldl_or_filter (isActive e s.hart) fun i => x.snanFlag (readElem s.hart.vreg s.hart.c a.toNat t i),
      List.foldl_map]
    rfl

/-- Of no element the floating maximum is -∞. -/
theorem vfredmax_none {x : Fmt} (hx : t = .flt x) (hi : e.instr = .vfredmax c m d a)
    (hl : activeElements e t s.hart a = []) (ha : Aligned e d 1) :
    LeavesValues core s e d t 1 [2 ^ (t.width - 1) + x.infEnc] Flags.none := by
  have hw : 2 ^ (t.width - 1) + x.infEnc = x.signed true x.infEnc := by rw [hx]; rfl
  rw [hw]
  refine single_values h hr h0 (ETy.ofCode_whole ht) (hx ▸ x.signed_lt x.infEnc_lt true) (vfredmax d a) ?_ ?_ ha
  · unfold performHead
    rw [withMask_eq, hi]
  · unfold vfredmax
    rw [activeElems_started ht hv, ety_withMask, ety_eq hv ht, hl, hx]
    rfl

theorem vfredmax_values {x : Fmt} (hx : t = .flt x) (hi : e.instr = .vfredmax c m d a) {p : Nat × Nat}
    {q : List (Nat × Nat)} (hl : activeElements e t s.hart a = p :: q) (ha : Aligned e d 1) :
    let r := (activeElements e t s.hart a).foldl (maxStep x) (p.2, Flags.none)
    LeavesValues core s e d t 1 [r.1] r.2 := by
  have hw : x.width = t.width := by rw [hx]; rfl
  have hel (y : Nat × Nat) (hy : y ∈ activeElements e t s.hart a) : y.2 < 2 ^ x.width :=
    hw ▸ (activeElements_lt hy).2
  refine single_values h hr h0 (ETy.ofCode_whole ht)
    (hw ▸ foldl_maxStep_lt hel (hel p (by rw [hl]; exact List.mem_cons_self))) (vfredmax d a) ?_ ?_ ha
  · unfold performHead
    rw [withMask_eq, hi]
  · unfold vfredmax
    rw [activeElems_started ht hv, ety_withMask, ety_eq hv ht, hl, hx]
    rfl

/-! ### Compression (R154) -/

theorem vcompress_values (hvl : e.vl ≤ vlmax e.vtype s.hart.c) (hi : e.instr = .vcompress c m d a)
    (ha : Aligned e d (2 ^ fieldOf e.vtype 8 2)) :
    LeavesValues core s e d t (2 ^ fieldOf e.vtype 8 2) ((activeElements e t s.hart a).map Prod.snd) Flags.none := by
  refine atOnce_values h hr h0 (vtG_size e.vtype) (ETy.ofCode_whole ht) (fun _ => ?_) (fun x hx => ?_) (vcompress d a) ?_ ?_ ha
  · rw [vlmax_eq hv ht] at hvl
    rw [List.length_map]
    exact (activeElements_length e t s.hart a).trans hvl
  · obtain ⟨p, hp, rfl⟩ := List.mem_map.1 hx
    exact (activeElements_lt hp).2
  · unfold performHead
    rw [withMask_eq, hi]
  · have hraise (g : Hart) : g.raise Flags.none = g := by
      unfold Hart.raise
      rw [show g.fflags ||| Flags.none = g.fflags from BitVec.or_zero]
    have hg : vtG (e.withMask s.hart).vtype = vtG e.vtype := by rw [withMask_eq]
    unfold vcompress Hart.values
    rw [activeElems_started ht hv, ety_withMask, ety_eq hv ht, hraise, hg, List.map_map, List.length_map]
    dsimp only
    rw [List.length_map]
    rfl

end

end Sys2Proof.Machine


/-! ## Selection of the greatest elements (R152) -/

namespace Sys2Proof.Machine
open Sys2Proof.Claims

/-! ### The order of values -/

/-- The value of a number or an infinity. -/
noncomputable def Ext.key : Ext → EReal
  | .nan => 0
  | .inf neg => if neg then ⊥ else ⊤
  | .num neg m e => (((if neg then -(m : ℝ) else m) * 2 ^ e : ℝ) : EReal)

theorem align_scale (neg : Bool) (m : Nat) {e k : Int} (h : k ≤ e) :
    (((if neg then -((m : Int) * 2 ^ (e - k).toNat) else (m : Int) * 2 ^ (e - k).toNat : Int) : ℝ) * 2 ^ k : ℝ) =
      (if neg then -(m : ℝ) else m) * 2 ^ e := by
  have hz : (2 : ℝ) ^ e = 2 ^ (e - k).toNat * 2 ^ k := by
    rw [← zpow_natCast, ← zpow_add₀ two_ne_zero, Int.toNat_of_nonneg (by omega)]
    congr 1
    omega
  cases neg
  · simp only [Bool.false_eq_true, if_false]
    push_cast [hz]
    ring
  · simp only [if_true]
    push_cast [hz]
    ring

/-- Two numbers compare as their values. -/
theorem Ext.cmp_gt {a b : Ext} (ha : a.isNaN = false) (hb : b.isNaN = false) :
    (a.cmp b == some .gt) = true ↔ b.key < a.key := by
  cases a with
  | nan => cases ha
  | inf x =>
    cases b with
    | nan => cases hb
    | inf y => cases x <;> cases y <;> simp [Ext.cmp, Ext.key]
    | num n m e => cases x <;> simp [Ext.cmp, Ext.key]
  | num n m e =>
    cases b with
    | nan => cases hb
    | inf y => cases y <;> simp [Ext.cmp, Ext.key]
    | num n' m' e' =>
      have hpos : (0 : ℝ) < 2 ^ min e e' := zpow_pos two_pos _
      unfold Ext.cmp Ext.key Ext.align
      dsimp only
      rw [beq_iff_eq, Option.some_inj, compare_gt_iff_gt, EReal.coe_lt_coe_iff,
        ← align_scale n m (min_le_left e e'), ← align_scale n' m' (min_le_right e e'), mul_lt_mul_iff_left₀ hpos, Int.cast_lt]

theorem ranksAbove_flt {f : Fmt} {x y : Nat} : ranksAbove (.flt f) x y = true ↔
    (f.decode x).isNaN = false ∧ ((f.decode y).isNaN = true ∨ (f.decode y).key < (f.decode x).key) := by
  unfold ranksAbove
  dsimp only
  generalize f.decode x = a
  generalize f.decode y = b
  cases a with
  | nan => simp [Ext.isNaN]
  | inf n =>
    cases b with
    | nan => simp [Ext.isNaN]
    | inf n' => simp [Ext.isNaN, ← Ext.cmp_gt (a := .inf n) (b := .inf n') rfl rfl]
    | num n' m e => simp [Ext.isNaN, ← Ext.cmp_gt (a := .inf n) (b := .num n' m e) rfl rfl]
  | num n m e =>
    cases b with
    | nan => simp [Ext.isNaN]
    | inf n' => simp [Ext.isNaN, ← Ext.cmp_gt (a := .num n m e) (b := .inf n') rfl rfl]
    | num n' m' e' => simp [Ext.isNaN, ← Ext.cmp_gt (a := .num n m e) (b := .num n' m' e') rfl rfl]

theorem ranksAbove_asymm {t : ETy} {x y : Nat} (h : ranksAbove t x y = true) : ranksAbove t y x = false := by
  rw [← Bool.not_eq_true]
  cases t with
  | flt f =>
    rw [ranksAbove_flt] at h ⊢
    rintro ⟨hy, hx | hlt⟩
    · exact absurd h.1 (by simp [hx])
    · rcases h.2 with hn | hlt'
      · exact absurd hy (by simp [hn])
      · exact lt_asymm hlt hlt'
  | _ =>
    have h' := of_decide_eq_true h
    exact fun hc => lt_asymm h' (of_decide_eq_true hc)

/-- Of two elements that rank apart, a third ranks below the one or above the other. -/
theorem ranksAbove_or {t : ETy} {x y : Nat} (h : ranksAbove t x y = true) (z : Nat) :
    ranksAbove t x z = true ∨ ranksAbove t z y = true := by
  cases t with
  | flt f =>
    rw [ranksAbove_flt] at *
    rw [ranksAbove_flt]
    obtain ⟨hx, hy⟩ := h
    cases hz : (f.decode z).isNaN with
    | true => exact .inl ⟨hx, .inl rfl⟩
    | false =>
      rcases hy with hy | hlt
      · exact .inr ⟨rfl, .inl hy⟩
      · rcases lt_or_ge (f.decode z).key (f.decode x).key with h | h
        · exact .inl ⟨hx, .inr h⟩
        · exact .inr ⟨rfl, .inr (hlt.trans_le h)⟩
  | _ =>
    have h' := of_decide_eq_true h
    rcases lt_or_ge (ETy.intVal _ z) (ETy.intVal _ x) with h1 | h1
    · exact .inl (decide_eq_true h1)
    · exact .inr (decide_eq_true (h'.trans_le h1))

/-! ### The ranking -/

/-- The order of a ranking: by value, and by index among equals. -/
def Ranks (t : ETy) (p q : Nat × Nat) : Prop :=
  ranksAbove t p.2 q.2 = true ∨ ranksAbove t q.2 p.2 = false ∧ p.1 < q.1

theorem Ranks.asymm {t : ETy} {p q : Nat × Nat} (h : Ranks t p q) (h' : Ranks t q p) : False := by
  rcases h with h | ⟨h, hi⟩
  · rcases h' with h' | ⟨h', -⟩
    · rw [ranksAbove_asymm h] at h'
      cases h'
    · rw [h] at h'
      cases h'
  · rcases h' with h' | ⟨-, hj⟩
    · rw [h] at h'
      cases h'
    · exact lt_asymm hi hj

theorem rankInsert_perm (t : ETy) (p : Nat × Nat) (l : List (Nat × Nat)) : (rankInsert t p l).Perm (p :: l) := by
  induction l with
  | nil => exact .refl _
  | cons q l ih =>
    unfold rankInsert
    split
    · exact .refl _
    · exact (ih.cons q).trans (.swap p q l)

/-- An element later than all of a ranking takes its place in it. -/
theorem rankInsert_sorted {t : ETy} {p : Nat × Nat} {l : List (Nat × Nat)} (hl : l.Pairwise (Ranks t))
    (hp : ∀ q ∈ l, q.1 < p.1) : (rankInsert t p l).Pairwise (Ranks t) := by
  induction l with
  | nil => exact List.pairwise_singleton _ _
  | cons q l ih =>
    obtain ⟨hq, hl'⟩ := List.pairwise_cons.1 hl
    unfold rankInsert
    split
    · next h =>
      refine List.pairwise_cons.2 ⟨fun r hr => .inl ?_, hl⟩
      rcases List.mem_cons.1 hr with rfl | hr
      · exact h
      · rcases ranksAbove_or h r.2 with h1 | h1
        · exact h1
        · rcases hq r hr with h2 | ⟨h2, -⟩
          · rw [ranksAbove_asymm h2] at h1
            cases h1
          · rw [h2] at h1
            cases h1
    · next h =>
      refine List.pairwise_cons.2 ⟨fun r hr => ?_, ih hl' fun r hr => hp r (List.mem_cons_of_mem _ hr)⟩
      rcases List.mem_cons.1 ((rankInsert_perm t p l).mem_iff.1 hr) with rfl | hr
      · exact .inr ⟨by simpa using h, hp q List.mem_cons_self⟩
      · exact hq r hr

/-- Elements in ascending order of index, inserted one after the other. -/
theorem foldl_rankInsert {t : ETy} {l acc : List (Nat × Nat)} (hl : l.Pairwise fun p q => p.1 < q.1)
    (ha : acc.Pairwise (Ranks t)) (hlt : ∀ q ∈ acc, ∀ p ∈ l, q.1 < p.1) :
    (l.foldl (fun acc p => rankInsert t p acc) acc).Pairwise (Ranks t) ∧
    (l.foldl (fun acc p => rankInsert t p acc) acc).Perm (l ++ acc) := by
  induction l generalizing acc with
  | nil => exact ⟨ha, .refl _⟩
  | cons p l ih =>
    obtain ⟨hp, hl⟩ := List.pairwise_cons.1 hl
    have hins := rankInsert_perm t p acc
    obtain ⟨h1, h2⟩ := ih hl (rankInsert_sorted ha fun q hq => hlt q hq p List.mem_cons_self) fun q hq r hr => by
      rcases List.mem_cons.1 (hins.mem_iff.1 hq) with rfl | hq
      · exact hp r hr
      · exact hlt q hq r (List.mem_cons_of_mem _ hr)
    exact ⟨h1, h2.trans ((hins.append_left l).trans List.perm_middle)⟩

theorem activeElements_ascending (e : QEntry) (t : ETy) (h : Hart) (a : BitVec 5) :
    (activeElements e t h a).Pairwise fun p q => p.1 < q.1 := by
  unfold activeElements
  rw [List.pairwise_map]
  exact List.pairwise_lt_range.filter _

/-- The ranking is the only one. -/
theorem ranked_eq {t : ETy} {l ranked : List (Nat × Nat)} (hl : l.Pairwise fun p q => p.1 < q.1)
    (hp : ranked.Perm l) (hr : ranked.Pairwise (Ranks t)) :
    l.foldl (fun acc p => rankInsert t p acc) [] = ranked := by
  obtain ⟨h1, h2⟩ := foldl_rankInsert (t := t) (acc := []) hl .nil nofun
  rw [List.append_nil] at h2
  exact (h2.trans hp.symm).eq_of_pairwise (fun p q _ _ hpq hqp => (hpq.asymm hqp).elim) h1 hr

/-! ### What `vtopk` leaves -/

/-- An element of a selection: index and encoding, or the word that says there is none. -/
def selected (p : Option (Nat × Nat)) : Nat :=
  match p with
  | some p => p.1 * 2 ^ 32 + p.2
  | none => 0xFFFFFFFF00000000

theorem selected_lt {p : Option (Nat × Nat)} (h : ∀ q, p = some q → q.1 < 2 ^ 32 - 1 ∧ q.2 < 2 ^ 32) : selected p < 2 ^ 64 := by
  cases p with
  | none => decide
  | some q =>
    have := h q rfl
    unfold selected
    dsimp only
    omega

/-- The types that `vtopk` takes are of at most 32 bits. -/
theorem topk_width {n : Nat} {t : ETy} (h : n ∈ [0x35, 0x34, 0x44, 0x13, 0x14, 0x15, 0x23, 0x24, 0x25])
    (ht : ETy.ofCode n = some t) : t.width ≤ 32 := by
  have hall : ∀ n ∈ [0x35, 0x34, 0x44, 0x13, 0x14, 0x15, 0x23, 0x24, 0x25],
      ((ETy.ofCode n).all fun t => decide (t.width ≤ 32)) = true := by decide
  have := hall n h
  rw [ht] at this
  exact of_decide_eq_true this

theorem vlmaxFor_le (t : ETy) (g : Nat) (h : Hart) : vlmaxFor t g h.c ≤ 2 ^ 20 := by
  have hs := h.share.isLt
  have hc : h.c = h.share.toNat * 16384 := rfl
  exact (Nat.min_le_right _ _).trans (by omega)

theorem vtopk_values {s : State} {core : BitVec 8} {e : QEntry} {t : ETy} {c m : BitVec 1} {d a b : BitVec 5}
    (h : SoleIssuer core s e) (ht : ETy.ofCode (fieldOf e.vtype 0 8) = some t) (hv : e.vtype.getLsbD 63 = false)
    (hr : RegistersOk s.hart) (h0 : e.start = 0) (hvl : e.vl ≤ vlmax e.vtype s.hart.c)
    {ranked : List (Nat × Nat)} (hi : e.instr = .vtopk c m d a b) (hk : e.scalar ≤ s.hart.c / 8)
    (hcode : fieldOf e.vtype 0 8 ∈ [0x35, 0x34, 0x44, 0x13, 0x14, 0x15, 0x23, 0x24, 0x25])
    (hp : ranked.Perm (activeElements e t s.hart a)) (hs : ranked.Pairwise (Ranks t)) (ha : Aligned e d 1) :
    LeavesValues core s e d (.uint 64) 1 ((List.range e.scalar).map fun i => selected ranked[i]?) Flags.none := by
  refine atOnce_values h hr h0 (one_dvd 8) (ETy.ofCode_whole (c := 0x16) rfl) (fun _ => ?_) (fun x hx => ?_) (vtopk d a) ?_ ?_ ha
  · rw [List.length_map, List.length_range]
    have hu : vlmaxFor (.uint 64) 1 s.hart.c = min (1 * (1 * s.hart.c / 8)) (8 * s.hart.c) := rfl
    omega
  · obtain ⟨i, -, rfl⟩ := List.mem_map.1 hx
    refine selected_lt fun q hq => ?_
    obtain ⟨h1, h2⟩ := activeElements_lt (hp.mem_iff.1 (List.mem_of_getElem? hq))
    rw [vlmax_eq hv ht] at hvl
    have := vlmaxFor_le t (vtG e.vtype) s.hart
    exact ⟨by omega, h2.trans_le (Nat.pow_le_pow_right two_pos (topk_width hcode ht))⟩
  · unfold performHead
    rw [withMask_eq, hi]
  · have hsc : (e.withMask s.hart).scalar = e.scalar := by rw [withMask_eq]; rfl
    unfold vtopk
    rw [activeElems_started ht hv, ety_withMask, ety_eq hv ht, hsc, ranked_eq (activeElements_ascending e t s.hart a) hp hs]
    rfl

/-! ### Reductions, selection and compression as the claim says them -/

theorem vectorReductions_claim : Claims.VectorReductions := by
  intro s core e t c m d a b h ht hv hr h0 hvl
  refine ⟨fun _ hi ha => vredsum_values h ht hv hr h0 hi ha, fun _ hi ha => vredmax_values h ht hv hr h0 hi ha,
    fun x hx _ hi ha => vfredsum_values h ht hv hr h0 hx hi ha, fun x hx _ hi => ⟨fun hl ha => ?_, fun p q hl ha => ?_⟩,
    fun ranked hi hk hcode hp hs ha => vtopk_values h ht hv hr h0 hvl hi hk hcode hp hs ha,
    fun hi ha => vcompress_values h ht hv hr h0 hvl hi ha⟩
  · exact vfredmax_none h ht hv hr h0 hx hi hl ha
  · exact vfredmax_values h ht hv hr h0 hx hi hl ha

/-- Settles O28: each instruction's micro-operation performs the lane, or writes the values, that the claim lists. -/
theorem vectorRearrangement : Obligations.VectorRearrangement :=
  ⟨vectorRearrangement_claim, vectorReductions_claim⟩

end Sys2Proof.Machine


/-! ## Accumulators of a tile (R158) -/

namespace Sys2Proof.Machine
open Sys2Proof.Claims

/-- Accumulator `i` of an image, in the order of the image. -/
def cellAt (img : Bytes) (i : Nat) : Nat := Bytes.num img (4 * i) 4

theorem littleEndian_eq_leNat (l : List Byte) : littleEndian l = Crypto.leNat l := by
  induction l with
  | nil => rfl
  | cons b l ih => exact congrArg (b.toNat + 256 * ·) ih

theorem accumulator_eq (img : Bytes) (rows r c : Nat) : accumulator img rows r c = cellAt img (c * rows + r) :=
  littleEndian_eq_leNat _

theorem leNat_lt (l : List Byte) : Crypto.leNat l < 256 ^ l.length := by
  induction l with
  | nil => decide
  | cons b l ih =>
    have hb := b.isLt
    rw [List.length_cons, Nat.pow_succ]
    unfold Crypto.leNat
    omega

theorem cellAt_lt (img : Bytes) (i : Nat) : cellAt img i < 2 ^ 32 := by
  have h := leNat_lt (Bytes.read img (4 * i) 4)
  rwa [Bytes.read_length] at h

/-- An accumulator depends on its four bytes. -/
theorem cellAt_congr {m n : Bytes} (hm : Memory.wf m = true) (hn : Memory.wf n = true) {i : Nat}
    (h : ∀ p, 4 * i ≤ p → p < 4 * i + 4 → Bytes.get n p = Bytes.get m p) : cellAt n i = cellAt m i := by
  unfold cellAt Bytes.num
  rw [Bytes.read_eq hm, Bytes.read_eq hn]
  congr 1
  refine List.map_congr_left fun j hj => h _ (by omega) ?_
  have := List.mem_range.1 hj
  omega

/-- A step on an image that changes accumulator `i` as `g` says, and no other byte. -/
def ChangesCell (T : Bytes → Bytes) (i : Nat) (g : Nat → Nat) : Prop :=
  ∀ img, Memory.wf img = true → Memory.wf (T img) = true ∧
    (∀ p, p < 4 * i ∨ 4 * i + 4 ≤ p → Bytes.get (T img) p = Bytes.get img p) ∧ cellAt (T img) i = g (cellAt img i)

theorem setNum_changes (i : Nat) (f : Nat → Nat) :
    ChangesCell (fun img => Bytes.setNum img (4 * i) 4 (f (cellAt img i))) i fun x => f x % 2 ^ 32 := by
  intro img hm
  dsimp only
  generalize f (cellAt img i) = v
  have hl : (Crypto.leBytes 4 v).length = 4 := Crypto.leBytes_length 4 v
  refine ⟨Bytes.setNum_wf _ _ _ hm, fun p hp => Bytes.get_write_other hm _ _ (by rw [hl]; exact hp), ?_⟩
  have h := Bytes.read_write hm (4 * i) (Crypto.leBytes 4 v)
  rw [hl] at h
  change Crypto.leNat (Bytes.read (Bytes.write img (4 * i) (Crypto.leBytes 4 v)) (4 * i) 4) = _
  rw [h, leNat_leBytes]
  rfl

theorem clear_changes (i : Nat) : ChangesCell (fun img => Bytes.clear img (4 * i) 4) i fun _ => 0 := by
  intro img hm
  have hw := Bytes.clear_wf (4 * i) 4 hm
  refine ⟨hw, fun p hp => (Bytes.get_clear hm _ _ _).trans (if_neg (by omega)), ?_⟩
  have h := cellAt_congr (m := []) (n := Bytes.clear img (4 * i) 4) (i := i) rfl hw
    fun p h1 h2 => (Bytes.get_clear hm _ _ _).trans (if_pos ⟨h1, h2⟩)
  rw [h]
  unfold cellAt Bytes.num
  rw [Bytes.read_eq rfl]
  rfl

section
variable {α : Type} {idx : α → Nat} {T : Bytes → α → Bytes} {G : α → Nat → Nat}
  (hT : ∀ x, ChangesCell (fun img => T img x) (idx x) (G x))
include hT

/-- Steps on accumulators apart from each other. -/
structure CellsChange (idx : α → Nat) (G : α → Nat → Nat) (l : List α) (img img' : Bytes) : Prop where
  wf : Memory.wf img' = true
  outside : ∀ p, (∀ x ∈ l, p < 4 * idx x ∨ 4 * idx x + 4 ≤ p) → Bytes.get img' p = Bytes.get img p
  cell : ∀ x ∈ l, cellAt img' (idx x) = G x (cellAt img (idx x))

omit hT in
theorem CellsChange.other {l : List α} {img img' : Bytes} (h : CellsChange idx G l img img') (hm : Memory.wf img = true)
    {i : Nat} (hi : i ∉ l.map idx) : cellAt img' i = cellAt img i := by
  refine cellAt_congr hm h.wf fun p h1 h2 => h.outside p fun x hx => ?_
  have : i ≠ idx x := fun e => hi (e ▸ List.mem_map_of_mem hx)
  omega

theorem foldl_cells {l : List α} (hl : (l.map idx).Nodup) {img : Bytes} (hm : Memory.wf img = true) :
    CellsChange idx G l img (l.foldl T img) := by
  induction l generalizing img with
  | nil => exact ⟨hm, fun _ _ => rfl, nofun⟩
  | cons x l ih =>
    obtain ⟨hx, hl⟩ := List.nodup_cons.1 hl
    obtain ⟨hw, hout, hin⟩ := hT x img hm
    have rest := ih hl hw
    refine ⟨rest.wf, fun p hp => ?_, fun y hy => ?_⟩
    · exact (rest.outside p fun y hy => hp y (List.mem_cons_of_mem _ hy)).trans (hout p (hp x List.mem_cons_self))
    · rcases List.mem_cons.1 hy with rfl | hy
      · exact (rest.other hw hx).trans hin
      · have hne : idx x ≠ idx y := fun e => hx (e ▸ List.mem_map_of_mem hy)
        refine (rest.cell y hy).trans (congrArg (G y) ?_)
        exact cellAt_congr hm hw fun p h1 h2 => hout p (by omega)

/-- The flags of such steps are those of the accumulators as they were. -/
theorem foldl_cells_flags {H : α → Nat → Flags} {l : List α} (hl : (l.map idx).Nodup) {img : Bytes}
    (hm : Memory.wf img = true) (fl : Flags) :
    l.foldl (fun (st : Bytes × Flags) x => (T st.1 x, st.2 ||| H x (cellAt st.1 (idx x)))) (img, fl) =
      (l.foldl T img, l.foldl (fun acc x => acc ||| H x (cellAt img (idx x))) fl) := by
  induction l generalizing img fl with
  | nil => rfl
  | cons x l ih =>
    obtain ⟨hx, hl⟩ := List.nodup_cons.1 hl
    obtain ⟨hw, hout, -⟩ := hT x img hm
    rw [List.foldl_cons, ih hl hw]
    refine congrArg (Prod.mk _) (List.foldl_ext _ _ _ fun acc y hy => ?_)
    have hne : idx x ≠ idx y := fun e => hx (e ▸ List.mem_map_of_mem hy)
    rw [cellAt_congr hm hw fun p h1 h2 => hout p (by omega)]

end

/-! ### The accumulators of the active columns -/

/-- Rows and columns of the accumulators that an instruction works on. -/
def activeCells (rows n : Nat) (act : Nat → Bool) : List (Nat × Nat) :=
  ((List.range n).filter act).flatMap fun c => (List.range rows).map fun r => (r, c)

theorem mem_activeCells {rows n : Nat} {act : Nat → Bool} {r c : Nat} :
    (r, c) ∈ activeCells rows n act ↔ r < rows ∧ c < n ∧ act c = true := by
  unfold activeCells
  simp only [List.mem_flatMap, List.mem_filter, List.mem_range, List.mem_map, Prod.mk.injEq]
  constructor
  · rintro ⟨c', ⟨hc, ha⟩, r', hr, rfl, rfl⟩
    exact ⟨hr, hc, ha⟩
  · rintro ⟨hr, hc, ha⟩
    exact ⟨c, ⟨hc, ha⟩, r, hr, rfl, rfl⟩

/-- The place of an accumulator in the image. -/
def cellIndex (rows : Nat) (p : Nat × Nat) : Nat := p.2 * rows + p.1

theorem cellIndex_lt {rows n r c : Nat} (hr : r < rows) (hc : c < n) : cellIndex rows (r, c) < rows * n := by
  have := Nat.mul_le_mul_right rows hc
  rw [Nat.succ_mul] at this
  rw [Nat.mul_comm rows n]
  exact Nat.lt_of_lt_of_le (Nat.add_lt_add_left hr _) this

theorem cellIndex_inj {rows : Nat} {p q : Nat × Nat} (hp : p.1 < rows) (hq : q.1 < rows)
    (h : cellIndex rows p = cellIndex rows q) : p = q := by
  unfold cellIndex at h
  have hpos : 0 < rows := by omega
  have h1 := congrArg (· % rows) h
  have h2 := congrArg (· / rows) h
  simp only [Nat.mul_comm _ rows, Nat.mul_add_mod, Nat.mod_eq_of_lt hp, Nat.mod_eq_of_lt hq, Nat.mul_add_div hpos,
    Nat.div_eq_of_lt hp, Nat.div_eq_of_lt hq, Nat.add_zero] at h1 h2
  exact Prod.ext h1 h2

theorem activeCells_nodup (rows n : Nat) (act : Nat → Bool) :
    ((activeCells rows n act).map (cellIndex rows)).Nodup := by
  have hnd : (activeCells rows n act).Nodup := by
    refine List.nodup_flatMap.2 ⟨fun c _ => List.nodup_range.map fun a b h => (Prod.mk.inj h).1, ?_⟩
    refine (List.nodup_range.filter act).imp fun {a b} hab p hp hq => ?_
    obtain ⟨_, _, rfl⟩ := List.mem_map.1 hp
    obtain ⟨_, _, hpq⟩ := List.mem_map.1 hq
    exact hab (Prod.mk.inj hpq).2.symm
  refine List.Nodup.map_on (fun p hp q hq h => cellIndex_inj ?_ ?_ h) hnd
  · exact (mem_activeCells.1 hp).1
  · exact (mem_activeCells.1 hq).1

theorem cellIndex_mem {rows n : Nat} {act : Nat → Bool} {r c : Nat} (hr : r < rows) (ha : act c = false) :
    cellIndex rows (r, c) ∉ (activeCells rows n act).map (cellIndex rows) := by
  intro h
  obtain ⟨q, hq, he⟩ := List.mem_map.1 h
  obtain ⟨hq1, -, hq3⟩ := mem_activeCells.1 hq
  have he' := cellIndex_inj hq1 hr he
  rw [he'] at hq3
  exact absurd hq3 (by simp [ha])

/-- Bytes beyond the accumulators of a shape. -/
theorem activeCells_below {rows n p : Nat} {act : Nat → Bool} (hp : 4 * (rows * n) ≤ p) :
    ∀ x ∈ activeCells rows n act, p < 4 * cellIndex rows x ∨ 4 * cellIndex rows x + 4 ≤ p := by
  rintro ⟨r, c⟩ hx
  obtain ⟨hr, hc, -⟩ := mem_activeCells.1 hx
  have := cellIndex_lt hr hc
  exact .inr (by omega)

end Sys2Proof.Machine


/-! ## Feeds (R169 to R171) -/

namespace Sys2Proof.Machine
open Sys2Proof.Claims

/-! ### The shape -/

theorem ofCode_getD_whole (c : Nat) : ((ETy.ofCode c).getD (.uint 8)).Whole := by
  cases h : ETy.ofCode c with
  | none => exact ETy.ofCode_whole (c := 0x13) rfl
  | some t => exact ETy.ofCode_whole h

theorem matrixKind_of_mem {float : Bool} {n : Nat} (h : n ∈ if float then [0x34, 0x44, 0x50, 0x51, 0x52, 0x53]
    else [0x13, 0x14, 0x23, 0x24, 0x81] ++ slicedCodes) : matrixKind n = some float := by
  have hf : ∀ n ∈ [0x34, 0x44, 0x50, 0x51, 0x52, 0x53], matrixKind n = some true := by decide
  have hi : ∀ n ∈ [0x13, 0x14, 0x23, 0x24, 0x81] ++ slicedCodes, matrixKind n = some false := by decide
  cases float
  · exact hi n h
  · exact hf n h

theorem floating_eq {e : QEntry} {float : Bool} (h : ShapeKind e float) : e.floating = float := by
  have hk : matrixKind (shapeA e.tshp) = some float := matrixKind_of_mem h.1
  unfold QEntry.floating
  rw [hk]
  cases float <;> rfl

theorem rows_eq (e : QEntry) : e.rows = tileRows e := (congrArg (· % 128) (Nat.div_one e.tshp.toNat)).symm

/-! ### One k-step (R107, R108) -/

theorem sintOf_signed32 {x : Nat} (h : x < 2 ^ 32) : sintOf 32 x = signed32 x := by
  unfold sintOf signed32
  rw [Nat.mod_eq_of_lt h]

theorem satInt_clamp (v : Int) : satInt 32 true v =
    (min (max v (-2 ^ 31)) (2 ^ 31 - 1), decide (v < -2 ^ 31 ∨ 2 ^ 31 - 1 < v)) := by
  unfold satInt intLo intHi
  simp only [if_true]
  split
  · next h => exact Prod.ext (by omega) (decide_eq_true (.inl h)).symm
  · next h =>
    split
    · next h' => exact Prod.ext (by omega) (decide_eq_true (.inr h')).symm
    · next h' => exact Prod.ext (by omega) (decide_eq_false (by omega)).symm

/-- ASAT of the one or of the other. -/
theorem asat_or (v w : Bool) : ((if v then Flags.asat else Flags.none) ||| if w then Flags.asat else Flags.none) =
    if v || w then Flags.asat else Flags.none := by
  revert v w
  decide

/-- An integer k-step saturates with ASAT, and raises nothing else. -/
theorem feedAcc_integer {e : QEntry} (hf : e.floating = false) (neg : Bool) {acc : Nat} (hacc : acc < 2 ^ 32) (a b : Nat) :
    ∃ z sat, feedAcc e neg acc a b = (z, if sat then Flags.asat else Flags.none) ∧
      ∀ w, integerStep neg (acc, w) ((rowType e).intVal a) ((columnType e).intVal b) = (z, w || sat) := by
  have hr : e.rowTy = rowType e := rfl
  have hc : e.colTy = columnType e := rfl
  unfold feedAcc
  rw [hf, hr, hc]
  simp only [Bool.false_eq_true, if_false, satInt_clamp, sintOf_signed32 hacc]
  exact ⟨_, _, rfl, fun _ => rfl⟩

theorem feedAcc_floating {e : QEntry} (hf : e.floating = true) (neg : Bool) (acc a b : Nat) :
    (feedAcc e neg acc a b).1 = floatStep e neg acc a b := by
  unfold feedAcc
  rw [hf]
  rfl

theorem feedAcc_lt (e : QEntry) (neg : Bool) (acc a b : Nat) : (feedAcc e neg acc a b).1 < 2 ^ 32 := by
  unfold feedAcc
  split
  · exact Fmt.fp32.roundTo_lt _ _ _
  · exact toNat_emod_lt _ _

/-! ### The k-steps of an accumulator -/

/-- What `n` k-steps make of an accumulator, and the flags that they raise. -/
def feedCell (e : QEntry) (neg : Bool) (n : Nat) (va vb : Nat → Nat) (x : Nat) : Nat × Flags :=
  (List.range n).foldl (fun (v : Nat × Flags) k =>
    ((feedAcc e neg v.1 (va k) (vb k)).1, v.2 ||| (feedAcc e neg v.1 (va k) (vb k)).2)) (x, Flags.none)

/-- Steps that carry flags along add them to those that were there. -/
theorem foldl_flags {F : Nat → Nat → Nat × Flags} (l : List Nat) (x : Nat) (fl : Flags) :
    l.foldl (fun (v : Nat × Flags) k => ((F v.1 k).1, v.2 ||| (F v.1 k).2)) (x, fl) =
      ((l.foldl (fun (v : Nat × Flags) k => ((F v.1 k).1, v.2 ||| (F v.1 k).2)) (x, Flags.none)).1,
        fl ||| (l.foldl (fun (v : Nat × Flags) k => ((F v.1 k).1, v.2 ||| (F v.1 k).2)) (x, Flags.none)).2) := by
  have hz (g : Flags) : Flags.none ||| g = g := BitVec.zero_or
  induction l generalizing x fl with
  | nil => exact Prod.ext rfl BitVec.or_zero.symm
  | cons k l ih =>
    rw [List.foldl_cons, List.foldl_cons, ih, ih (F x k).1 (Flags.none ||| (F x k).2), hz]
    exact Prod.ext rfl (BitVec.or_assoc _ _ _)

theorem feedCell_lt {e : QEntry} {neg : Bool} {va vb : Nat → Nat} {x : Nat} (n : Nat) (hx : x < 2 ^ 32) :
    (feedCell e neg n va vb x).1 < 2 ^ 32 := by
  unfold feedCell
  cases n with
  | zero => exact hx
  | succ n =>
    rw [List.range_succ, List.foldl_append]
    exact feedAcc_lt _ _ _ _ _

theorem feedCell_floating {e : QEntry} (hf : e.floating = true) (neg : Bool) (n : Nat) (va vb : Nat → Nat) (x : Nat) :
    (feedCell e neg n va vb x).1 = (List.range n).foldl (fun v k => floatStep e neg v (va k) (vb k)) x := by
  unfold feedCell
  induction n with
  | zero => rfl
  | succ n ih =>
    rw [List.range_succ, List.foldl_append, List.foldl_append, ← ih]
    exact feedAcc_floating hf _ _ _ _

theorem feedCell_integer {e : QEntry} (hf : e.floating = false) (neg : Bool) (n : Nat) (va vb : Nat → Nat) {x : Nat}
    (hx : x < 2 ^ 32) :
    let r := (List.range n).foldl (fun v k =>
      integerStep neg v ((rowType e).intVal (va k)) ((columnType e).intVal (vb k))) (x, false)
    feedCell e neg n va vb x = (r.1, if r.2 then Flags.asat else Flags.none) := by
  induction n with
  | zero => rfl
  | succ n ih =>
    have hlt := feedCell_lt (e := e) (neg := neg) (va := va) (vb := vb) n hx
    have hs : feedCell e neg (n + 1) va vb x = ((feedAcc e neg (feedCell e neg n va vb x).1 (va n) (vb n)).1,
        (feedCell e neg n va vb x).2 ||| (feedAcc e neg (feedCell e neg n va vb x).1 (va n) (vb n)).2) := by
      unfold feedCell
      rw [List.range_succ, List.foldl_append]
      rfl
    dsimp only at ih ⊢
    rw [hs, List.range_succ, List.foldl_append]
    dsimp only [List.foldl_cons, List.foldl_nil]
    generalize (List.range n).foldl _ (x, false) = r at ih ⊢
    rw [ih] at hlt ⊢
    obtain ⟨y, w⟩ := r
    obtain ⟨z, sat, h1, h2⟩ := feedAcc_integer hf neg hlt (va n) (vb n)
    simp only [h1, h2]
    exact congrArg (Prod.mk z) (asat_or w sat)

/-! ### All accumulators -/

section
variable (t : BitVec 3) (a b : BitVec 5) (neg : Bool) (n : Nat) (e : QEntry) (h : Hart)

/-- What a feed makes of an accumulator. -/
def fed (p : Nat × Nat) (x : Nat) : Nat × Flags :=
  feedCell e neg n (fun k => readElem h.vreg h.c a.toNat (rowType e) (k * tileRows e + p.1))
    (fun k => readElem h.vreg h.c b.toNat (columnType e) (k * e.vl + p.2)) x

/-- The image of a tile after a feed. -/
def fedImage (img : Bytes) : Bytes :=
  (activeCells (tileRows e) e.vl e.active).foldl (fun img p => Bytes.setNum img (4 * cellIndex (tileRows e) p) 4
    (fed a b neg n e h p (cellAt img (cellIndex (tileRows e) p))).1) img

/-- The flags of a feed. -/
def fedFlags (img : Bytes) : Flags :=
  (activeCells (tileRows e) e.vl e.active).foldl (fun acc p =>
    acc ||| (fed a b neg n e h p (cellAt img (cellIndex (tileRows e) p))).2) Flags.none

theorem fed_changes (p : Nat × Nat) : ChangesCell (fun img => Bytes.setNum img (4 * cellIndex (tileRows e) p) 4
    (fed a b neg n e h p (cellAt img (cellIndex (tileRows e) p))).1) (cellIndex (tileRows e) p)
    fun x => (fed a b neg n e h p x).1 % 2 ^ 32 :=
  setNum_changes _ fun x => (fed a b neg n e h p x).1

theorem fedImage_changes {img : Bytes} (hm : Memory.wf img = true) : CellsChange (cellIndex (tileRows e))
    (fun p x => (fed a b neg n e h p x).1 % 2 ^ 32) (activeCells (tileRows e) e.vl e.active) img
    (fedImage a b neg n e h img) :=
  foldl_cells (fed_changes a b neg n e h) (activeCells_nodup _ _ _) hm

theorem getD_readElems {ty : ETy} (ht : ty.Whole) (regs : Vector VReg 32) (c v m : Nat) {i : Nat} (hi : i < m) :
    (readElems regs c v ty 0 m).getD i 0 = readElem regs c v ty i := by
  rw [readElems_eq ht, List.getD_eq_getElem?_getD, List.getElem?_map, List.getElem?_range hi, Option.map_some,
    Option.getD_some, Nat.zero_add]

/-- The k-steps of one accumulator, over the elements that the feed has read. -/
theorem foldl_feedAcc {p : Nat × Nat} (hr : p.1 < tileRows e) (hc : p.2 < e.vl) (x : Nat) (fl : Flags) :
    (List.range n).foldl (fun (v : Nat × Flags) k =>
      ((feedAcc e neg v.1 ((readElems h.vreg h.c a.toNat e.rowTy 0 (n * e.rows)).getD (k * e.rows + p.1) 0)
        ((readElems h.vreg h.c b.toNat e.colTy 0 (n * e.vl)).getD (k * e.vl + p.2) 0)).1,
      v.2 ||| (feedAcc e neg v.1 ((readElems h.vreg h.c a.toNat e.rowTy 0 (n * e.rows)).getD (k * e.rows + p.1) 0)
        ((readElems h.vreg h.c b.toNat e.colTy 0 (n * e.vl)).getD (k * e.vl + p.2) 0)).2)) (x, fl) =
      ((fed a b neg n e h p x).1, fl ||| (fed a b neg n e h p x).2) := by
  have hin {k m j : Nat} (hk : k < n) (hj : j < m) : k * m + j < n * m := by
    have := Nat.mul_le_mul_right m hk
    rw [Nat.succ_mul] at this
    omega
  refine Eq.trans (List.foldl_ext _ _ _ fun v k hk => ?_) (foldl_flags (F := fun x k => feedAcc e neg x
    (readElem h.vreg h.c a.toNat (rowType e) (k * tileRows e + p.1))
    (readElem h.vreg h.c b.toNat (columnType e) (k * e.vl + p.2))) (List.range n) x fl)
  have hk := List.mem_range.1 hk
  rw [rows_eq]
  have hrow : (readElems h.vreg h.c a.toNat e.rowTy 0 (n * tileRows e)).getD (k * tileRows e + p.1) 0 =
    readElem h.vreg h.c a.toNat (rowType e) (k * tileRows e + p.1) := getD_readElems (ofCode_getD_whole _) _ _ _ _ (hin hk hr)
  have hcol : (readElems h.vreg h.c b.toNat e.colTy 0 (n * e.vl)).getD (k * e.vl + p.2) 0 =
    readElem h.vreg h.c b.toNat (columnType e) (k * e.vl + p.2) := getD_readElems (ofCode_getD_whole _) _ _ _ _ (hin hk hc)
  rw [hrow, hcol]

theorem feed_eq (hm : Memory.wf h.tile[t.toNat] = true) : feed t a b neg n e h =
    ((h.setTile t (fedImage a b neg n e h h.tile[t.toNat])).raise (fedFlags a b neg n e h h.tile[t.toNat]), .done) := by
  have hfold := foldl_cells_flags (fed_changes a b neg n e h) (H := fun p x => (fed a b neg n e h p x).2)
    (activeCells_nodup (tileRows e) e.vl e.active) hm Flags.none
  unfold feed
  rw [rows_eq]
  refine congrArg (fun r : Bytes × Flags => ((h.setTile t r.1).raise r.2, Went.done)) (Eq.trans ?_ hfold)
  change List.foldl _ _ (activeCells (tileRows e) e.vl e.active) = _
  refine List.foldl_ext _ _ _ fun st p hp => ?_
  obtain ⟨hr, hc, -⟩ := mem_activeCells.1 hp
  have hk := foldl_feedAcc a b neg n e h hr hc (accGet st.1 (tileRows e) p.1 p.2) st.2
  rw [rows_eq] at hk
  exact congrArg (fun r : Nat × Flags => (accSet st.1 (tileRows e) p.1 p.2 r.1, r.2)) hk

end

end Sys2Proof.Machine


/-! ## The micro-operation of a feed (R169 to R171) -/

namespace Sys2Proof.Machine
open Sys2Proof.Claims

theorem performHead_feed {e : QEntry} {s : State} {t : BitVec 3} {a b : BitVec 5} {neg : Bool} {n : Nat}
    (h : feedOf e = some (t, a, b, neg, n)) : performHead e s = atOnce e s (feed t a b neg n) := by
  unfold feedOf at h
  split at h
  case h_1 c m t' a' b' hi =>
    cases h
    unfold performHead
    rw [hi]
  case h_2 c m t' a' b' hi =>
    cases h
    unfold performHead
    rw [hi]
  case h_3 c m t' a' b' hi =>
    cases h
    unfold performHead
    rw [hi]
    rfl
  case h_4 => cases h

/-- ASAT of one element or of another. -/
theorem foldl_asat {α : Type} (f : α → Bool) (l : List α) (w : Bool) :
    l.foldl (fun acc p => acc ||| if f p then Flags.asat else Flags.none) (if w then Flags.asat else Flags.none) =
      if w || l.any f then Flags.asat else Flags.none := by
  induction l generalizing w with
  | nil => rw [List.foldl_nil, List.any_nil, Bool.or_false]
  | cons p l ih => rw [List.foldl_cons, asat_or, ih, List.any_cons, Bool.or_assoc]

theorem activeCells_any (rows n : Nat) (act : Nat → Bool) (f : Nat × Nat → Bool) : (activeCells rows n act).any f =
    (List.range n).any fun c => act c && (List.range rows).any fun r => f (r, c) := by
  unfold activeCells
  rw [List.any_flatMap, List.any_filter]
  simp only [List.any_map, Function.comp_def]

/-- An instruction that completes once started, and changes what `g` says. -/
theorem sole_atOnce {s : State} {core : BitVec 8} {e : QEntry} (h : SoleIssuer core s e) (h0 : e.start = 0)
    (F : QEntry → Hart → Hart × Went) {g : Hart}
    (hp : performHead (e.withMask s.hart) (s.started (e.withMask s.hart)) =
      atOnce (e.withMask s.hart) (s.started (e.withMask s.hart)) F)
    (hF : F (e.withMask s.hart) (s.started (e.withMask s.hart)).hart = (g, .done))
    (hg : Performs (s.started (e.withMask s.hart)).hart g) :
    Yields (.microopIssue core) s fun u => Completes s u ∧ Follows s g u := by
  refine sole_completes h (sole_notOver h (by omega)) hg ?_
  rw [hp, atOnce_started (by rw [withMask_eq]; exact h0), hF]

theorem Hart.setTile_performs (h : Hart) (t : BitVec 3) (img : Bytes) : Performs h (h.setTile t img) := ⟨_, _, _, _, rfl⟩

theorem Hart.setTile_same (h : Hart) (t : BitVec 3) (img : Bytes) : (h.setTile t img).tile[t.toNat] = img :=
  Vector.getElem_set_self _

theorem Hart.setTile_other (h : Hart) (t : BitVec 3) (img : Bytes) (j : Fin 8) (hj : j.val ≠ t.toNat) :
    (h.setTile t img).tile[j] = h.tile[j] :=
  Vector.getElem_set_ne t.isLt j.isLt (Ne.symm hj)

/-- What a new image of a tile and new flags leave. -/
theorem Hart.setTile_raise (h : Hart) (t : BitVec 3) (img : Bytes) (fl : Flags) : ∃ g, (h.setTile t img).raise fl = g ∧
    Performs h g ∧ g.vreg = h.vreg ∧ g.kreg = h.kreg ∧ (∀ j : Fin 8, j.val ≠ t.toNat → g.tile[j] = h.tile[j]) ∧
    g.tile[t.toNat] = img ∧ g.fflags = h.fflags ||| fl :=
  ⟨_, rfl, (h.setTile_performs t img).trans (Hart.raise_performs _ _), rfl, rfl, h.setTile_other t img,
    h.setTile_same t img, rfl⟩

section
variable {s : State} {core : BitVec 8} {e : QEntry} {t : BitVec 3} {a b : BitVec 5} {neg : Bool} {n : Nat}

/-- The accumulators and the flags after a feed, as the entry and the hart had been. -/
theorem fed_started (p : Nat × Nat) (x : Nat) :
    fed a b neg n (e.withMask s.hart) (s.started (e.withMask s.hart)).hart p x = fed a b neg n e s.hart p x := by
  rw [withMask_eq]
  rfl

theorem activeCells_started : activeCells (tileRows (e.withMask s.hart)) (e.withMask s.hart).vl (e.withMask s.hart).active =
    activeCells (tileRows e) e.vl (isActive e s.hart) := by
  have hact : (e.withMask s.hart).active = isActive e s.hart := funext fun i => withMask_active e s.hart i
  rw [hact, withMask_eq]
  rfl

/-- What a feed leaves. -/
theorem feed_leaves (h : SoleIssuer core s e) (hf : feedOf e = some (t, a, b, neg, n)) (h0 : e.start = 0)
    (hm : Memory.wf s.hart.tile[t.toNat] = true) : Yields (.microopIssue core) s fun u => Completes s u ∧
      ∃ g, Follows s g u ∧ g.vreg = s.hart.vreg ∧ g.kreg = s.hart.kreg ∧
        (∀ j : Fin 8, j.val ≠ t.toNat → g.tile[j] = s.hart.tile[j]) ∧
        CellsChange (cellIndex (tileRows e)) (fun p x => (fed a b neg n e s.hart p x).1 % 2 ^ 32)
          (activeCells (tileRows e) e.vl (isActive e s.hart)) s.hart.tile[t.toNat] g.tile[t.toNat] ∧
        g.fflags = s.hart.fflags ||| (activeCells (tileRows e) e.vl (isActive e s.hart)).foldl (fun acc p =>
          acc ||| (fed a b neg n e s.hart p (cellAt s.hart.tile[t.toNat] (cellIndex (tileRows e) p))).2) Flags.none := by
  have hm' : Memory.wf (s.started (e.withMask s.hart)).hart.tile[t.toNat] = true := hm
  have hrows : tileRows (e.withMask s.hart) = tileRows e := by rw [withMask_eq]; rfl
  have hf' : feedOf (e.withMask s.hart) = some (t, a, b, neg, n) := by
    rw [← hf, withMask_eq]
    rfl
  have hch := fedImage_changes a b neg n (e.withMask s.hart) (s.started (e.withMask s.hart)).hart hm'
  have hfeed := feed_eq t a b neg n (e.withMask s.hart) (s.started (e.withMask s.hart)).hart hm'
  have hfl : fedFlags a b neg n (e.withMask s.hart) (s.started (e.withMask s.hart)).hart
      (s.started (e.withMask s.hart)).hart.tile[t.toNat] =
      (activeCells (tileRows e) e.vl (isActive e s.hart)).foldl (fun acc p =>
        acc ||| (fed a b neg n e s.hart p (cellAt s.hart.tile[t.toNat] (cellIndex (tileRows e) p))).2) Flags.none := by
    unfold fedFlags
    rw [activeCells_started]
    simp only [fed_started, hrows]
    rfl
  rw [activeCells_started] at hch
  simp only [fed_started, hrows] at hch
  rw [hfl] at hfeed
  generalize List.foldl _ Flags.none _ = fl at hfeed ⊢
  generalize fedImage a b neg n _ _ _ = img at hfeed hch
  obtain ⟨g, hg, hperf, hv, hk, hother, himg, hgl⟩ := (s.started (e.withMask s.hart)).hart.setTile_raise t img fl
  rw [hg] at hfeed
  rw [← himg] at hch
  obtain ⟨u, hx, hc, hu⟩ := sole_atOnce h h0 (feed t a b neg n) (performHead_feed hf') hfeed hperf
  exact ⟨u, hx, hc, g, hu, hv, hk, hother, hch, hgl⟩

end

theorem matrixFeeds_claim : Claims.MatrixFeeds := by
  intro s core e t a b neg n h hf h0 hrows hkind hfit hm
  obtain ⟨u, hx, hc, g, hu, hv, hk, hother, hch, hfl⟩ := feed_leaves h hf h0 hm
  rw [← hu.tile] at hother hch
  rw [← hu.fflags] at hfl
  have hlt (p : Nat × Nat) : (fed a b neg n e s.hart p (cellAt s.hart.tile[t.toNat] (cellIndex (tileRows e) p))).1 < 2 ^ 32 :=
    feedCell_lt n (cellAt_lt _ _)
  have hcell (r c : Nat) (hr : r < tileRows e) (hc : c < e.vl) (ha : isActive e s.hart c = true) :
      accumulator u.hart.tile[t.toNat] (tileRows e) r c =
        (fed a b neg n e s.hart (r, c) (accumulator s.hart.tile[t.toNat] (tileRows e) r c)).1 := by
    rw [accumulator_eq, accumulator_eq]
    exact (hch.cell (r, c) (mem_activeCells.2 ⟨hr, hc, ha⟩)).trans (Nat.mod_eq_of_lt (hlt (r, c)))
  refine ⟨u, hx, hc, hu.memory, hu.others, ?_, hother, fun p hp => ?_, fun r c hr _ ha => ?_, fun hi => ⟨?_, ?_⟩, ?_⟩
  · have hk' := hu.kept.eq
    rw [hu.vreg, hv, hu.kreg, hk] at hk'
    exact hk'
  · exact hch.outside p (activeCells_below hp)
  · dsimp only
    rw [accumulator_eq, accumulator_eq]
    exact hch.other hm (cellIndex_mem hr ha)
  · intro r c hr hc ha
    rw [hcell r c hr hc ha, accumulator_eq]
    exact congrArg Prod.fst (feedCell_integer (floating_eq hi) neg n _ _ (cellAt_lt _ _))
  · have hint (p : Nat × Nat) := feedCell_integer (floating_eq hi) neg n
      (fun k => readElem s.hart.vreg s.hart.c a.toNat (rowType e) (k * tileRows e + p.1))
      (fun k => readElem s.hart.vreg s.hart.c b.toNat (columnType e) (k * e.vl + p.2))
      (cellAt_lt s.hart.tile[t.toNat] (cellIndex (tileRows e) p))
    have hflags (p : Nat × Nat) := congrArg Prod.snd (hint p)
    unfold fed at hfl
    simp only [hflags] at hfl
    have hfold := foldl_asat (fun p : Nat × Nat => ((List.range n).foldl (fun v k => integerStep neg v
      ((rowType e).intVal (readElem s.hart.vreg s.hart.c a.toNat (rowType e) (k * tileRows e + p.1)))
      ((columnType e).intVal (readElem s.hart.vreg s.hart.c b.toNat (columnType e) (k * e.vl + p.2))))
      (cellAt s.hart.tile[t.toNat] (cellIndex (tileRows e) p), false)).2)
      (activeCells (tileRows e) e.vl (isActive e s.hart)) false
    rw [Bool.false_or, activeCells_any] at hfold
    rw [hfl]
    simp only [accumulator_eq]
    refine (congrArg (s.hart.fflags ||| ·) hfold).trans ?_
    rw [apply_ite (s.hart.fflags ||| ·)]
    exact if_congr Iff.rfl rfl BitVec.or_zero
  · intro hi r c hr hc ha
    rw [hcell r c hr hc ha]
    exact feedCell_floating (floating_eq hi) neg n _ _ _

end Sys2Proof.Machine


/-! ## Moves between tiles and registers (R168, R173 to R175) -/

namespace Sys2Proof.Machine
open Sys2Proof.Claims

/-! ### A tile alone -/

theorem Hart.setTile_leaves (h : Hart) (t : BitVec 3) (img : Bytes) : ∃ g, h.setTile t img = g ∧
    Performs h g ∧ g.vreg = h.vreg ∧ g.kreg = h.kreg ∧ (∀ j : Fin 8, j.val ≠ t.toNat → g.tile[j] = h.tile[j]) ∧
    g.tile[t.toNat] = img ∧ g.fflags = h.fflags :=
  ⟨_, rfl, h.setTile_performs t img, rfl, rfl, h.setTile_other t img, h.setTile_same t img, rfl⟩

section
variable {s : State} {core : BitVec 8} {e : QEntry} (h : SoleIssuer core s e) (h0 : e.start = 0)
include h h0

/-- An instruction that gives a tile an image, and does no more. -/
theorem tile_leaves {t : BitVec 3} {img : Bytes} (F : QEntry → Hart → Hart × Went)
    (hp : performHead (e.withMask s.hart) (s.started (e.withMask s.hart)) =
      atOnce (e.withMask s.hart) (s.started (e.withMask s.hart)) F)
    (hF : F (e.withMask s.hart) (s.started (e.withMask s.hart)).hart =
      ((s.started (e.withMask s.hart)).hart.setTile t img, .done)) :
    Yields (.microopIssue core) s fun u => (Completes s u ∧ SameMemory s u ∧ u.others = s.others ∧
      ∀ j : Fin 8, j.val ≠ t.toNat → u.hart.tile[j] = s.hart.tile[j]) ∧
      u.hart = { s.hart with
        tile := u.hart.tile, queue := u.hart.queue, vstart := u.hart.vstart, convoyRun := u.hart.convoyRun } ∧
      u.hart.tile[t.toNat] = img := by
  obtain ⟨g, hg, hperf, hv, hk, hother, himg, hfl⟩ := (s.started (e.withMask s.hart)).hart.setTile_leaves t img
  rw [hg] at hF
  obtain ⟨u, hx, hc, hu⟩ := sole_atOnce h h0 F hp hF hperf
  rw [← hu.tile] at hother
  simp only [← hu.tile] at himg
  have hkept := hu.kept.eq
  rw [hu.vreg, hv, hu.kreg, hk, hu.fflags, hfl] at hkept
  exact ⟨u, hx, ⟨hc, hu.memory, hu.others, hother⟩, hkept, himg⟩

theorem mzero_leaves {c : BitVec 1} {t : BitVec 3} (hi : e.instr = .mzero c t) :
    Yields (.microopIssue core) s fun u => (Completes s u ∧ SameMemory s u ∧ u.others = s.others ∧
      ∀ j : Fin 8, j.val ≠ t.toNat → u.hart.tile[j] = s.hart.tile[j]) ∧
      u.hart = { s.hart with
        tile := u.hart.tile, queue := u.hart.queue, vstart := u.hart.vstart, convoyRun := u.hart.convoyRun } ∧
      u.hart.tile[t.toNat] = [] := by
  refine tile_leaves h h0 (fun _ h => mzero t h) ?_ rfl
  unfold performHead
  rw [withMask_eq, hi]

theorem trest_leaves {c : BitVec 1} {t : BitVec 3} {a : BitVec 5} (hi : e.instr = .trest c t a) :
    Yields (.microopIssue core) s fun u => (Completes s u ∧ SameMemory s u ∧ u.others = s.others ∧
      ∀ j : Fin 8, j.val ≠ t.toNat → u.hart.tile[j] = s.hart.tile[j]) ∧
      u.hart = { s.hart with
        tile := u.hart.tile, queue := u.hart.queue, vstart := u.hart.vstart, convoyRun := u.hart.convoyRun } ∧
      u.hart.tile[t.toNat] = s.hart.vreg[a.toNat].img := by
  refine tile_leaves h h0 (fun _ h => (trestWhole t a h, .done)) ?_ rfl
  unfold performHead
  rw [withMask_eq, hi]

end

/-! ### Rows (R174) -/

/-- The image of a tile after its active columns have taken the elements of a register. -/
def rowImage (rows n : Nat) (act : Nat → Bool) (src img : Bytes) : Bytes :=
  (activeCells rows n act).foldl (fun img p =>
    Bytes.setNum img (4 * cellIndex rows p) 4 (Bytes.num src (4 * p.2) 4)) img

theorem rowImage_changes (rows n : Nat) (act : Nat → Bool) (src : Bytes) {img : Bytes} (hm : Memory.wf img = true) :
    CellsChange (cellIndex rows) (fun p _ => cellAt src p.2 % 2 ^ 32) (activeCells rows n act) img
      (rowImage rows n act src img) :=
  foldl_cells (fun p => setNum_changes (cellIndex rows p) fun _ => cellAt src p.2) (activeCells_nodup rows n act) hm

theorem mrow_eq (t : BitVec 3) (a : BitVec 5) (e : QEntry) (h : Hart) : mrow t a e h =
    (h.setTile t (rowImage (tileRows e) e.vl e.active h.vreg[a.toNat].img h.tile[t.toNat]), .done) := by
  unfold mrow
  rw [rows_eq]
  rfl

theorem mrow_started {s : State} {e : QEntry} (src img : Bytes) :
    rowImage (tileRows (e.withMask s.hart)) (e.withMask s.hart).vl (e.withMask s.hart).active src img =
      rowImage (tileRows e) e.vl (isActive e s.hart) src img := by
  have hrows : tileRows (e.withMask s.hart) = tileRows e := by rw [withMask_eq]; rfl
  unfold rowImage
  rw [activeCells_started, hrows]

/-! ### A tile's image to registers (R175) -/

theorem regAt_foldl_setReg (x : VReg) (l : List Nat) (regs : Vector VReg 32) {k : Nat} (hk : k < 32) :
    regAt (l.foldl (fun rs v => setReg rs v fun _ => x) regs) k = if k ∈ l then x else regAt regs k := by
  induction l generalizing regs with
  | nil => rfl
  | cons v l ih =>
    rw [List.foldl_cons, ih, regAt_setReg]
    by_cases h : k ∈ l
    · rw [if_pos h, if_pos (List.mem_cons_of_mem _ h)]
    · rw [if_neg h]
      exact if_congr (by simp [h, hk]) rfl rfl

theorem mem_copies_reg (e : QEntry) (a q : BitVec 5) : q.toNat ∈ e.copies a ↔ q ∈ destinations e a := by
  rw [mem_copies]
  constructor
  · rintro ⟨r, hr, hq⟩
    rwa [← BitVec.eq_of_toNat_eq hq]
  · exact fun h => ⟨q, h, rfl⟩

theorem Hart.tsaveWhole_leaves (h : Hart) (t : BitVec 3) (l : List Nat) : ∃ g, tsaveWhole t l h = g ∧ Performs h g ∧
    (∀ k, k < 32 → regAt g.vreg k = if k ∈ l then ⟨32, h.tile[t.toNat]⟩ else regAt h.vreg k) ∧
    g.kreg = h.kreg ∧ g.tile = h.tile ∧ g.fflags = h.fflags :=
  ⟨_, rfl, ⟨_, _, _, _, rfl⟩, fun _ hk => regAt_foldl_setReg _ l h.vreg hk, rfl, rfl, rfl⟩

theorem tsave_leaves {s : State} {core : BitVec 8} {e : QEntry} (h : SoleIssuer core s e) (h0 : e.start = 0)
    {c : BitVec 1} {t : BitVec 3} {a : BitVec 5} (hi : e.instr = .tsave c t a) :
    Yields (.microopIssue core) s fun u => (Completes s u ∧ SameMemory s u ∧ u.others = s.others ∧
      ∀ j : Fin 8, j.val ≠ t.toNat → u.hart.tile[j] = s.hart.tile[j]) ∧
      u.hart = { s.hart with
        vreg := u.hart.vreg, queue := u.hart.queue, vstart := u.hart.vstart, convoyRun := u.hart.convoyRun } ∧
      ∀ q : BitVec 5, u.hart.vreg[q.toNat] =
        if q ∈ destinations e a then ⟨32, s.hart.tile[t.toNat]⟩ else s.hart.vreg[q.toNat] := by
  have hcopies : (e.withMask s.hart).copies a = e.copies a := by rw [withMask_eq]; rfl
  obtain ⟨g, hg, hperf, hreg, hk, ht, hf⟩ := (s.started (e.withMask s.hart)).hart.tsaveWhole_leaves t (e.copies a)
  have hp : performHead (e.withMask s.hart) (s.started (e.withMask s.hart)) =
      atOnce (e.withMask s.hart) (s.started (e.withMask s.hart)) fun e h => (tsaveWhole t (e.copies a) h, .done) := by
    unfold performHead
    rw [withMask_eq, hi]
  obtain ⟨u, hx, hc, hu⟩ := sole_atOnce h h0 _ hp (by rw [hcopies, hg]) hperf
  have hother : u.hart.tile = s.hart.tile := hu.tile.trans ht
  have hkept := hu.kept.eq
  rw [hu.kreg, hk, hother, hu.fflags, hf] at hkept
  refine ⟨u, hx, ⟨hc, hu.memory, hu.others, fun j _ => by rw [hother]⟩, hkept, fun q => ?_⟩
  rw [← regAt_eq, ← regAt_eq, hu.vreg]
  refine (hreg q.toNat q.isLt).trans ?_
  exact if_congr (mem_copies_reg e a q) rfl rfl

/-! ### Drains (R173) -/

/-- The result of an accumulator that is drained. -/
def drained (e : QEntry) (v : Nat) : Nat × Flags :=
  if e.floating then (v, .none) else Fmt.fp32.ofInt .rne 0 (sintOf 32 v)

/-- The elements that a drain writes: the active accumulators, and what MP says elsewhere. -/
def drainElem (e : QEntry) (img : Bytes) (i : Nat) : Option Nat :=
  if e.active i then some (drained e (cellAt img i)).1 else if vtMP e.vtype then some 0 else none

/-- The image that a drain leaves. -/
def drainedImage (n : Nat) (act : Nat → Bool) (img : Bytes) : Bytes :=
  ((List.range n).filter act).foldl (fun g i => Bytes.clear g (4 * i) 4) img

/-- The flags that a drain raises. -/
def drainFlags (e : QEntry) (n : Nat) (img : Bytes) : Flags :=
  (List.range n).foldl (fun fl i => fl ||| if e.active i then (drained e (cellAt img i)).2 else Flags.none) Flags.none

theorem drainedImage_changes (n : Nat) (act : Nat → Bool) {img : Bytes} (hm : Memory.wf img = true) :
    CellsChange id (fun _ _ => 0) ((List.range n).filter act) img (drainedImage n act img) :=
  foldl_cells clear_changes (by rw [List.map_id']; exact List.nodup_range.filter act) hm

theorem mdrain_eq (t : BitVec 3) (a : BitVec 5) (e : QEntry) (h : Hart) : mdrain t a e h =
    ((((h.put e a 1 (.flt .fp32) 0 ((List.range (tileRows e * e.vl)).map (drainElem e h.tile[t.toNat]))).tail e a 1
      (.flt .fp32) (tileRows e * e.vl)).setTile t (drainedImage (tileRows e * e.vl) e.active h.tile[t.toNat])).raise
      (drainFlags e (tileRows e * e.vl) h.tile[t.toNat]), .done) := by
  unfold mdrain drainFlags
  rw [rows_eq]
  dsimp only
  rw [List.map_map, List.foldl_map]
  have hval : (Prod.fst ∘ fun i => if e.active i = true then
        some' (if e.floating then (Bytes.num h.tile[t.toNat] (4 * i) 4, Flags.none)
          else Fmt.fp32.ofInt .rne 0 (sintOf 32 (Bytes.num h.tile[t.toNat] (4 * i) 4)))
      else (if vtMP e.vtype = true then some 0 else none, Flags.none)) = drainElem e h.tile[t.toNat] := by
    funext i
    unfold drainElem
    rw [Function.comp_apply]
    split <;> rfl
  have hfl : (fun (fl : Flags) (i : Nat) => fl ||| (if e.active i = true then
        some' (if e.floating then (Bytes.num h.tile[t.toNat] (4 * i) 4, Flags.none)
          else Fmt.fp32.ofInt .rne 0 (sintOf 32 (Bytes.num h.tile[t.toNat] (4 * i) 4)))
      else (if vtMP e.vtype = true then some 0 else none, Flags.none)).2) =
      fun fl i => fl ||| if e.active i then (drained e (cellAt h.tile[t.toNat] i)).2 else Flags.none := by
    funext fl i
    split <;> rfl
  rw [hval, hfl]
  rfl

theorem drained_lt (e : QEntry) {v : Nat} (hv : v < 2 ^ 32) : (drained e v).1 < 2 ^ 32 := by
  unfold drained
  split
  · exact hv
  · exact Fmt.fp32.roundTo_lt _ _ _

theorem drainElem_lt (e : QEntry) (img : Bytes) (i v : Nat) (h : drainElem e img i = some v) : v < 2 ^ 32 := by
  unfold drainElem at h
  split at h
  · cases h
    exact drained_lt e (cellAt_lt img i)
  · split at h
    · cases h
      exact Nat.two_pow_pos 32
    · cases h

theorem drainFlags_floating {e : QEntry} (hf : e.floating = true) (n : Nat) (img : Bytes) :
    drainFlags e n img = Flags.none := by
  have hone (fl : Flags) (i : Nat) :
      (fl ||| if e.active i then (drained e (cellAt img i)).2 else Flags.none) = fl := by
    unfold drained
    rw [hf, if_pos rfl, ite_self]
    exact BitVec.or_zero
  unfold drainFlags
  simp only [hone]
  induction List.range n with
  | nil => rfl
  | cons _ _ ih => exact ih

end Sys2Proof.Machine


/-! ## The micro-operation of a drain (R173) -/

namespace Sys2Proof.Machine
open Sys2Proof.Claims

theorem fp32_whole : (ETy.flt .fp32).Whole := ETy.ofCode_whole (c := 0x35) rfl

theorem aligned_single (e : QEntry) (a : BitVec 5) : Aligned e a 1 := fun r _ => Nat.mod_one r.toNat

/-- The hart after a drain: the elements are written, and the tile and the flags follow. -/
theorem Hart.drain_leaves {h : Hart} {e : QEntry} {t : BitVec 3} {a : BitVec 5} {img : Bytes} {n : Nat} {fl : Flags}
    {f : Nat → Option Nat} (hr : RegistersOk h) (hn : n ≤ h.c / 4) :
    ∃ g, (((h.put e a 1 (.flt .fp32) 0 ((List.range n).map f)).tail e a 1 (.flt .fp32) n).setTile t img).raise fl = g ∧
      Performs h g ∧ g.kreg = h.kreg ∧ (∀ j : Fin 8, j.val ≠ t.toNat → g.tile[j] = h.tile[j]) ∧ g.tile[t.toNat] = img ∧
      g.fflags = h.fflags ||| fl ∧
      GroupsChange h.c 1 (.flt .fp32) (fun i x => if n ≤ i ∧ vtTP e.vtype = true then 0
        else (if i < n then (f i).getD x else x) % 2 ^ 32) (fun _ => 32) (e.copies a) h.vreg g.vreg := by
  have hlen : h.c ≠ 0 → 0 + ((List.range n).map f).length ≤ vlmaxFor (.flt .fp32) 1 h.c := fun _ => by
    have hu : vlmaxFor (.flt .fp32) 1 h.c = min (1 * (1 * h.c / 4)) (8 * h.c) := rfl
    rw [List.length_map, List.length_range]
    omega
  have hput := h.put_change (one_dvd 8) (aligned_single e a) fp32_whole hr hlen
  have htail := (h.put e a 1 (.flt .fp32) 0 ((List.range n).map f)).tail_change (one_dvd 8) (aligned_single e a) fp32_whole
    hput.images n
  have hplaced : placed (ETy.flt .fp32).width 0 ((List.range n).map f) =
      fun i x => (if i < n then (f i).getD x else x) % 2 ^ 32 := by
    funext i x
    have h := placed_range 32 0 n f i x
    rw [if_neg (Nat.not_lt_zero i)] at h
    simp only [Nat.zero_add] at h
    exact h
  rw [hplaced] at hput
  obtain ⟨hk, htile, hf⟩ := (h.put e a 1 (.flt .fp32) 0 ((List.range n).map f)).tail_others e a 1 (.flt .fp32) n
  have hperf := (h.put_performs e a 1 (.flt .fp32) 0 ((List.range n).map f)).trans
    (Hart.tail_performs _ e a 1 (.flt .fp32) n)
  have hch := hput.trans htail
  generalize (h.put e a 1 (.flt .fp32) 0 ((List.range n).map f)).tail e a 1 (.flt .fp32) n = x at hk htile hf hperf hch ⊢
  obtain ⟨g, hg, hp, hv, hgk, hother, himg, hgf⟩ := x.setTile_raise t img fl
  refine ⟨g, hg, hperf.trans hp, hgk.trans hk, fun j hj => (hother j hj).trans ?_, himg, hgf.trans ?_, ?_⟩
  · rw [htile]
    rfl
  · rw [hf]
    rfl
  · rw [hv]
    exact hch

section
variable {s : State} {core : BitVec 8} {e : QEntry} (h : SoleIssuer core s e) (h0 : e.start = 0)
  {c m : BitVec 1} {t : BitVec 3} {a : BitVec 5}

theorem drainElem_started (img : Bytes) (i : Nat) : drainElem (e.withMask s.hart) img i =
    underMask e s.hart (fun i => some (drained e (cellAt img i)).1) i := by
  have hact := withMask_active e s.hart i
  unfold drainElem underMask
  rw [hact, withMask_eq]
  rfl

include h h0

/-- What a drain leaves. -/
theorem mdrain_leaves (hi : e.instr = .mdrain c m t a) (hr : RegistersOk s.hart)
    (hm : Memory.wf s.hart.tile[t.toNat] = true) (hn : tileRows e * e.vl ≤ s.hart.c / 4) :
    Yields (.microopIssue core) s fun u => (Completes s u ∧ SameMemory s u ∧ u.others = s.others ∧
      ∀ j : Fin 8, j.val ≠ t.toNat → u.hart.tile[j] = s.hart.tile[j]) ∧
      u.hart = { s.hart with
        tile := u.hart.tile, vreg := u.hart.vreg, fflags := u.hart.fflags, queue := u.hart.queue
        vstart := u.hart.vstart, convoyRun := u.hart.convoyRun } ∧
      (e.floating = true → u.hart.fflags = s.hart.fflags) ∧
      CellsChange id (fun _ _ => 0) ((List.range (tileRows e * e.vl)).filter (isActive e s.hart))
        s.hart.tile[t.toNat] u.hart.tile[t.toNat] ∧
      WritesLanes e (.flt .fp32) a 1 (tileRows e * e.vl) (tileRows e * e.vl)
        (fun i => some (drained e (cellAt s.hart.tile[t.toNat] i)).1) s u := by
  have hcopies : (e.withMask s.hart).copies a = e.copies a := by rw [withMask_eq]; rfl
  have hact : (e.withMask s.hart).active = isActive e s.hart := funext fun i => withMask_active e s.hart i
  have hn' : tileRows (e.withMask s.hart) * (e.withMask s.hart).vl = tileRows e * e.vl := by rw [withMask_eq]; rfl
  have hvt : (e.withMask s.hart).vtype = e.vtype := by rw [withMask_eq]
  have hfloat : (e.withMask s.hart).floating = e.floating := by rw [withMask_eq]; rfl
  have hp : performHead (e.withMask s.hart) (s.started (e.withMask s.hart)) =
      atOnce (e.withMask s.hart) (s.started (e.withMask s.hart)) (mdrain t a) := by
    unfold performHead
    rw [withMask_eq, hi]
  have hF := mdrain_eq t a (e.withMask s.hart) (s.started (e.withMask s.hart)).hart
  rw [hn', hact] at hF
  obtain ⟨g, hg, hperf, hk, hother, himg, hfl, hch⟩ := Hart.drain_leaves (h := (s.started (e.withMask s.hart)).hart)
    (e := e.withMask s.hart) (t := t) (a := a) (n := tileRows e * e.vl)
    (img := drainedImage (tileRows e * e.vl) (isActive e s.hart) (s.started (e.withMask s.hart)).hart.tile[t.toNat])
    (fl := drainFlags (e.withMask s.hart) (tileRows e * e.vl) (s.started (e.withMask s.hart)).hart.tile[t.toNat])
    (f := drainElem (e.withMask s.hart) (s.started (e.withMask s.hart)).hart.tile[t.toNat]) hr hn
  rw [hg] at hF
  have hcells := drainedImage_changes (tileRows e * e.vl) (isActive e s.hart) hm
  have htile : (s.started (e.withMask s.hart)).hart.tile = s.hart.tile := rfl
  simp only [htile] at himg
  rw [← himg] at hcells
  rw [hcopies, hvt] at hch
  obtain ⟨u, hx, hc, hu⟩ := sole_atOnce h h0 (mdrain t a) hp hF hperf
  rw [← hu.tile] at hother
  simp only [← hu.tile] at hcells
  rw [← hu.vreg] at hch
  have hkept := hu.kept.eq
  rw [hu.kreg, hk] at hkept
  refine ⟨u, hx, ⟨hc, hu.memory, hu.others, hother⟩, hkept, fun hf => ?_, hcells, ?_⟩
  · rw [hu.fflags, hfl, drainFlags_floating (by rw [hfloat]; exact hf)]
    exact BitVec.or_zero
  · refine GroupsChange.writesEach hch fun i x _ hlt => ?_
    have hx := Nat.mod_eq_of_lt hlt
    rw [h0, if_neg (Nat.not_lt_zero i), ← drainElem_started]
    by_cases hi : i < tileRows e * e.vl
    · rw [if_neg (by omega), if_pos hi, if_pos hi]
      simp only [htile]
      cases hv : drainElem (e.withMask s.hart) s.hart.tile[t.toNat] i with
      | none => exact hx
      | some v => exact Nat.mod_eq_of_lt (drainElem_lt _ _ _ _ hv)
    · rw [if_neg hi, if_neg hi]
      by_cases htp : tileRows e * e.vl ≤ i ∧ vtTP e.vtype = true
      · rw [if_pos htp]
        exact (if_pos ⟨htp.1, Nat.le_refl _, htp.2⟩).symm
      · rw [if_neg htp]
        exact hx.trans (if_neg fun hc => htp ⟨hc.1, hc.2.2⟩).symm

/-- What a move of a row leaves. -/
theorem mrow_leaves (hi : e.instr = .mrow c m t a) (hm : Memory.wf s.hart.tile[t.toNat] = true) :
    Yields (.microopIssue core) s fun u => (Completes s u ∧ SameMemory s u ∧ u.others = s.others ∧
      ∀ j : Fin 8, j.val ≠ t.toNat → u.hart.tile[j] = s.hart.tile[j]) ∧
      u.hart = { s.hart with
        tile := u.hart.tile, queue := u.hart.queue, vstart := u.hart.vstart, convoyRun := u.hart.convoyRun } ∧
      (∀ p, 4 * (tileRows e * e.vl) ≤ p → Bytes.get u.hart.tile[t.toNat] p = Bytes.get s.hart.tile[t.toNat] p) ∧
      ∀ r c, r < tileRows e → c < e.vl → accumulator u.hart.tile[t.toNat] (tileRows e) r c =
        if isActive e s.hart c = true then littleEndian (Bytes.read s.hart.vreg[a.toNat].img (4 * c) 4)
        else accumulator s.hart.tile[t.toNat] (tileRows e) r c := by
  have hF := mrow_eq t a (e.withMask s.hart) (s.started (e.withMask s.hart)).hart
  have hregs : (s.started (e.withMask s.hart)).hart.vreg = s.hart.vreg := rfl
  have htile : (s.started (e.withMask s.hart)).hart.tile = s.hart.tile := rfl
  rw [mrow_started] at hF
  simp only [hregs, htile] at hF
  have hch := rowImage_changes (tileRows e) e.vl (isActive e s.hart) s.hart.vreg[a.toNat].img hm
  have hp : performHead (e.withMask s.hart) (s.started (e.withMask s.hart)) =
      atOnce (e.withMask s.hart) (s.started (e.withMask s.hart)) (mrow t a) := by
    unfold performHead
    rw [withMask_eq, hi]
  obtain ⟨u, hx, hk, hh, himg⟩ := tile_leaves h h0 (mrow t a) hp hF
  rw [← himg] at hch
  refine ⟨u, hx, hk, hh, fun p hp => hch.outside p (activeCells_below hp), fun r c hr hc => ?_⟩
  rw [accumulator_eq, accumulator_eq, littleEndian_eq_leNat]
  cases ha : isActive e s.hart c with
  | true => exact (hch.cell (r, c) (mem_activeCells.2 ⟨hr, hc, ha⟩)).trans (Nat.mod_eq_of_lt (cellAt_lt _ _))
  | false => exact hch.other hm (cellIndex_mem hr ha)

end

theorem matrixMoves_claim : Claims.MatrixMoves := by
  intro s core e cb m t a h h0 hm hr
  refine ⟨fun hi => mzero_leaves h h0 hi, fun hi => trest_leaves h h0 hi, fun hi => tsave_leaves h h0 hi,
    fun _ _ hi => mrow_leaves h h0 hi hm, fun hrows hn hi float hkind => ?_⟩
  obtain ⟨u, hx, hk, hh, hfl, hch, hw⟩ := mdrain_leaves h h0 hi hr hm hn
  have hf := floating_eq hkind
  have hcell (i : Nat) : accumulator s.hart.tile[t.toNat] (tileRows e) (i % tileRows e) (i / tileRows e) =
      cellAt s.hart.tile[t.toNat] i := by
    rw [accumulator_eq, Nat.mul_comm, Nat.div_add_mod]
  refine ⟨u, hx, hk, hh, fun hfloat => hfl (hf.trans hfloat), fun p hp => hch.outside p fun i hi => ?_,
    fun r c hr hc => ?_, ?_⟩
  · have := List.mem_range.1 (List.mem_filter.1 hi).1
    exact .inr (by dsimp only [id]; omega)
  · have hlt := cellIndex_lt hr hc
    rw [accumulator_eq]
    cases ha : isActive e s.hart (c * tileRows e + r) with
    | true => exact hch.cell _ (List.mem_filter.2 ⟨List.mem_range.2 hlt, ha⟩)
    | false =>
      refine (hch.other hm fun hmem => ?_).trans (accumulator_eq _ _ _ _).symm
      rw [List.map_id] at hmem
      exact absurd (List.mem_filter.1 hmem).2 (by simp [ha])
  · have hval : (fun i => some (drained e (cellAt s.hart.tile[t.toNat] i)).1) = fun i =>
        some (if float then accumulator s.hart.tile[t.toNat] (tileRows e) (i % tileRows e) (i / tileRows e)
          else (Fmt.fp32.ofInt .rne 0 (signed32 (accumulator s.hart.tile[t.toNat] (tileRows e) (i % tileRows e)
            (i / tileRows e)))).1) := by
      funext i
      rw [hcell, ← sintOf_signed32 (cellAt_lt _ _)]
      unfold drained
      rw [hf]
      rw [apply_ite Prod.fst]
    rw [hval] at hw
    exact hw

/-- Settles O29: each feed folds its k-steps over the accumulators, and each move writes a tile or a register. -/
theorem matrixTiles : Obligations.MatrixTiles := ⟨matrixFeeds_claim, matrixMoves_claim⟩

end Sys2Proof.Machine


/-! ## A context that no CSA can hold (R370) -/

namespace Sys2Proof.Machine
open Sys2Proof.Claims

/-- A field of eight bytes is less than 2^64. -/
theorem fieldAt_lt (b : List Byte) (o : Nat) : Claims.fieldAt b o 8 < 2 ^ 64 := by
  have hlen : ((b.drop o).take 8).length ≤ 8 := List.length_take_le _ _
  unfold Claims.fieldAt
  rw [littleEndian_eq_leNat]
  exact (leNat_lt _).trans_le (Nat.pow_le_pow_right (by decide) hlen)

/-- VSTART in a saved context, which is START of the oldest entry, lies in eight bytes. -/
theorem savesContext_start_lt {s : State} {h : Hart} {m : Bytes} (hs : SavesContext s h m) {e : QEntry} {l : List QEntry}
    (hq : queueAtStop h = e :: l) : e.start < 2 ^ 64 := by
  obtain ⟨-, -, -, -, body, -, -, -, hwords, -⟩ := hs
  have hstart : (controlWords h).getD 2 0 = e.start := by
    unfold controlWords
    rw [hq]
    rfl
  rw [← hstart, ← hwords 2 (by decide)]
  exact fieldAt_lt body _

/-! ### A domain slice that ends -/

/-- A queued instruction whose START, which the model does not bound, needs more than eight bytes. -/
def farEntry : QEntry where
  addr := 0
  instr := .mzero 0 0
  cls := .feed
  loan := none
  vl := 0
  start := 2 ^ 64
  vtype := 0
  rm := 0
  tshp := 0
  seed := 0
  ops := Vector.replicate 3 ⟨0, none⟩
  strides := Vector.replicate 3 0
  mask := none
  probed := none
  limit := 0
  asked := false
  answer := none
  early := []
  convoy := 0
  done := false
  aged := false
  resumed := false
  stamp := 0

/-- A gang of two devices in its slice. -/
def slicedGang : Gang where
  gid := 1
  wid := 0
  chain := 0
  devs := [0, 1]
  members := []
  wlmask := 0
  table := 0
  code := 0
  phase := .started
  die := 0
  marks := Vector.replicate 16 0
  epochs := Vector.replicate 16 0
  reds := []
  cancel := none
  lists := []
  sliceReady := true
  inSlice := true
  broken := false

/-- The machine in the slice of a gang whose one hart has that entry in its queue. -/
def farSlice : State :=
  { State.reset with
    hart := { Hart.blank with life := .running, gid := 1, queue := [farEntry] }
    gangs := [slicedGang], slice := some 1 }

theorem farSlice_canStop : CanStop farSlice 0 farSlice.hart :=
  ⟨rfl, rfl, rfl, rfl, rfl, nofun, nofun⟩

theorem farSlice_alone {x : Hart} (hx : x ∈ farSlice.hart :: farSlice.others) : x = farSlice.hart :=
  List.mem_singleton.1 hx

/-- Refutes O46: the clause on the end of a domain slice says that the CSA of a hart that is switched out holds START of
its oldest entry in the eight bytes of VSTART, whatever START is. It bounds no START, and no eight bytes hold the 2^64 of
`farSlice`, where every hypothesis of the clause is met. -/
theorem not_eventsAndScheduling : ¬ Obligations.EventsAndScheduling := by
  rintro ⟨-, hsched, -⟩
  obtain ⟨-, hend, -⟩ := hsched farSlice 0 farSlice.hart 0 slicedGang
  obtain ⟨u, -, -, -, -, hmine, -⟩ := hend rfl rfl rfl rfl (List.pairwise_singleton _ _) rfl
    (fun x hx _ _ => .inr (farSlice_alone hx ▸ farSlice_canStop)) (List.pairwise_singleton _ farSlice.hart)
  obtain ⟨-, hstop⟩ := hmine farSlice.hart (List.mem_singleton.2 rfl)
  have hsaves := (hstop rfl).2 (by decide)
  exact absurd (savesContext_start_lt hsaves (e := farEntry) rfl) (Nat.lt_irrefl _)

end Sys2Proof.Machine


/-! ## Structures read from local memory (R177, R206, R211, R214, R318) -/

namespace Sys2Proof.Machine
open Sys2Proof.Claims

section
variable {s t u : State}

/-- Both sides of the hart are drained when all that they did has performed (R214). -/
theorem State.drained_iff (s : State) : s.drained true = true ↔ AllPerformed s := by
  simp only [State.drained, PendingStore.of, AllPerformed, Bool.and_eq_true, Bool.not_eq_true', List.any_eq_false,
    Bool.true_and, Bool.or_eq_true, not_or, beq_iff_eq, Bool.not_true, Bool.false_or, List.isEmpty_iff]
  constructor
  · rintro ⟨⟨⟨hp, hh⟩, hs⟩, hq⟩
    exact ⟨hq, hs, hp, hh⟩
  · rintro ⟨hq, hs, hp, hh⟩
    exact ⟨⟨⟨hp, hh⟩, hs⟩, hq⟩

/-! ### A state that differs by reads alone -/

/-- Beside the page counters and the events that they post, only what the instruction at pc has read differs. -/
def ReadsOnly (s u : State) : Prop := u = { counted s u with hart := { s.hart with capture := u.hart.capture } }

theorem ReadsOnly.trans (ht : ReadsOnly s t) (hu : ReadsOnly t u) : ReadsOnly s u := by
  rw [ReadsOnly, hu, ht]
  rfl

theorem ReadsOnly.of_counts (h : t = counted s t) : ReadsOnly s t := by
  rw [ReadsOnly, h]
  rfl

theorem State.remember_readsOnly (s : State) (i a : Nat) (bs : List Byte) : ReadsOnly s (s.remember i a bs) := rfl

theorem ReadsOnly.structAt (h : ReadsOnly s u) {tag : Option (BitVec 16)} {a n : Nat} {bs : List Byte}
    (hs : StructAt s tag a n bs) : StructAt u tag a n bs := by
  rw [h]
  exact hs

theorem ReadsOnly.prompt (h : ReadsOnly s u) (hs : Prompt s) : Prompt u := by
  rw [h]
  exact hs

theorem ReadsOnly.canTrap (h : ReadsOnly s u) (hs : CanTrap s) : CanTrap u := by
  rw [h]
  exact hs

theorem ReadsOnly.tagOf (h : ReadsOnly s u) (r : BitVec 5) : u.hart.tagOf r = s.hart.tagOf r := by
  rw [h]
  rfl

theorem ReadsOnly.countsOnly_waitFor (h : ReadsOnly s u) (w : Wait) : CountsOnly s (u.waitFor w) ∧
    (u.waitFor w).hart = { s.hart with wait := some w, capture := (u.waitFor w).hart.capture } := by
  rw [h]
  exact ⟨⟨rfl, fun _ => rfl⟩, rfl⟩

/-- What a trap says of the state that it is taken in does not hang on what the instruction has read. -/
theorem ReadsOnly.trapsHere (h : ReadsOnly s u) {cause : Nat} {detail val : Word} (ht : TrapsHere cause detail val u t) :
    TrapsHere cause detail val (counted s t) t := by
  obtain ⟨hframe, hmem, hregs⟩ := ht
  have hs : u = { counted s t with hart := { s.hart with capture := u.hart.capture } } := by
    rw [hframe]
    exact h
  rw [hs] at hframe hmem hregs
  exact ⟨hframe, hmem, hregs⟩

/-- The malformed-structure fault of a structure that an x register names (R178, R360). -/
theorem State.malformed_traps (reason : Nat) (v : Word) (h : CanTrap s) :
    TrapsHere 7 (BitVec.ofNat 64 reason) v s (s.malformed reason v.toNat) := by
  have hv : BitVec.ofNat 64 v.toNat = v := BitVec.eq_of_toNat_eq (by simp)
  rw [State.malformed, hv]
  exact s.takeTrap_enters 7 _ _ h (.inr rfl)

/-! ### Reading a structure -/

theorem Hart.seenAt_none {h : Hart} (hc : h.capture = none) (i a n : Nat) : h.seenAt i a n = none := by
  rw [Hart.seenAt, hc]
  rfl

/-- What has been read at one address is not taken for what is at another. -/
theorem State.remember_seenAt_other (hc : s.hart.capture = none) {i a b : Nat} (hab : a ≠ b) (j n : Nat)
    (bs : List Byte) : (s.remember i a bs).hart.seenAt j b n = none := by
  simp [State.remember, Hart.seenAt, hc, hab]

theorem State.seeStores_eq (s : State) (a n : Nat) (h : ∀ p ∈ s.stores, p.ctx.ser ≠ s.hart.ser) :
    s.seeStores a n = s := by
  refine if_neg ?_
  simp only [List.any_eq_true, not_exists, not_and]
  intro p hp
  simp [PendingStore.of, h p hp]

theorem NoHeldWrite.free {a n : Nat} (h : NoHeldWrite s a n) :
    (s.ctx.world != 0 && s.heldOver (s.key s.hart.core a) n) = false := by
  rcases h with hw | hh
  · simp [hw]
  · rw [hh, Bool.and_false]

theorem NoHeldWrite.mono {a m n : Nat} (h : NoHeldWrite s a n) (hmn : m ≤ n) : NoHeldWrite s a m := by
  refine h.imp_right fun hh => ?_
  rw [State.heldOver, List.any_eq_false] at hh ⊢
  intro w hw hover
  refine hh w hw ?_
  simp only [decide_eq_true_eq] at hover ⊢
  omega

/-- A scalar access to local memory whose probe has passed, and which no held write overlaps, reaches its bytes. -/
theorem LocalMemory.reach_eq {acc : Access} {ref : SlotRef} (h : LocalMemory s acc.a) (ha : s.hart.answer = none)
    (hp : s.probe s.ctx acc = .ok ref) (hf : NoHeldWrite s acc.a acc.n) : s.reach acc = .memory ref.word := by
  have hfree := hf.free
  unfold State.reach
  rw [ha, hp]
  rcases h with ⟨_, _, hr⟩ | ⟨_, _, hr⟩
  all_goals
    simp only [hr, Option.isSome_none, Option.isNone_none, Bool.false_eq_true, if_false, Bool.true_and]
    refine if_neg fun hw => ?_
    simp only [Bool.and_eq_true] at hw
    obtain ⟨⟨⟨hworld, -⟩, -⟩, hover⟩ := hw
    rw [hworld, hover] at hfree
    exact Bool.noConfusion hfree

/-- A structure in local memory that the instruction has not read yet is read at once, and counted. -/
theorem State.readStruct_eq {tag : Option (BitVec 16)} {a n : Nat} {bs : List Byte} (hs : Prompt s)
    (h : StructAt s tag a n bs) (hn : 8 ≤ n) (hseen : s.hart.seenAt (slotIndex tag) a n = none) :
    ∃ v, v = counted s v ∧ ∀ f, s.readStruct tag a n f = f bs (v.remember (slotIndex tag) a bs) := by
  obtain ⟨hlife, hans, -, hstores⟩ := hs
  obtain ⟨-, ref, hprobe, hlocal, hheld, hread⟩ := h
  have hpass : (wordOffsets n).find? (fun o =>
      (s.probe s.ctx (plainAccess tag (a + o) 8 needRead)).toOption.isNone) = none := by
    rw [List.find?_eq_none]
    intro o ho
    obtain ⟨i, hi, rfl⟩ := List.mem_map.1 ho
    have hi := List.mem_range.1 hi
    rw [plainAccess, hprobe (8 * i) (by omega) (by omega)]
    simp [Except.toOption]
  have hreach : s.reach (plainAccess tag a 8 needRead) = .memory ref.word :=
    hlocal.reach_eq hans (hprobe 0 (by omega) rfl) (hheld.mono hn)
  have hc := s.countAccess_counts ref.word a n
  refine ⟨s.countAccess ref.word a n, hc, fun f => ?_⟩
  unfold State.readStruct
  rw [hseen]
  dsimp only
  rw [s.seeStores_eq a n hstores, if_neg (by simp [hlife]), hans]
  simp only [Option.isSome_none, Bool.false_eq_true, if_false, hpass, hreach, hheld.free]
  rw [(hlocal.counted hc).beforeRead_eq]
  generalize s.countAccess ref.word a n = v at hc ⊢
  have hlife' : v.hart.life = .running := by rw [hc]; exact hlife
  have hread' : v.readBytes v.ctx ref.word a n = some bs := by rw [hc]; exact hread
  simp only [hlife', hread', ne_eq, not_true_eq_false, if_false]

end

theorem fieldAt_eq (bs : List Byte) (o n : Nat) : fieldAt bs o n = fieldOfBytes bs o n :=
  (littleEndian_eq_leNat _).symm

theorem fieldOfBytes_lt (bs : List Byte) (o n : Nat) : fieldOfBytes bs o n < 256 ^ n := by
  rw [← fieldAt_eq]
  exact (leNat_lt _).trans_le (Nat.pow_le_pow_right (by decide) (List.length_take_le _ _))

end Sys2Proof.Machine


/-! ## Gang descriptors (R76, R262) -/

namespace Sys2Proof.Machine
open Sys2Proof.Claims

/-! ### Group entries -/

theorem chunks_eq (k n : Nat) (l : List Byte) :
    Crypto.chunks k n l = (List.range n).map fun i => (l.drop (k * i)).take k := by
  induction n generalizing l with
  | zero => rfl
  | succ n ih =>
    rw [Crypto.chunks, ih, List.range_succ_eq_map, List.map_cons, List.map_map]
    refine congrArg₂ List.cons rfl (List.map_congr_left fun i _ => ?_)
    rw [List.drop_drop, Function.comp_apply, Nat.mul_succ, Nat.add_comm]

theorem take_drop_chunk (bs : List Byte) {k o n : Nat} (i : Nat) (h : o + n ≤ k) :
    (((bs.drop i).take k).drop o).take n = (bs.drop (i + o)).take n := by
  rw [List.drop_take, List.take_take, List.drop_drop, Nat.min_eq_left (by omega)]

/-- Group entry `i` of a gang descriptor (R76). -/
def groupAt (bs : List Byte) (i : Nat) : Group where
  count := fieldOfBytes bs (16 * i) 2
  role := fieldOfBytes bs (16 * i + 2) 1
  weight := fieldOfBytes bs (16 * i + 3) 1
  entry := fieldOfBytes bs (16 * i + 4) 4
  clear := zeroAt bs (16 * i + 8) 8

theorem groupsOf_eq (n : Nat) (bs : List Byte) : groupsOf n bs = (List.range n).map (groupAt bs) := by
  have hfield (i : Nat) {o k : Nat} (h : o + k ≤ 16) :
      fieldAt ((bs.drop (16 * i)).take 16) o k = fieldOfBytes bs (16 * i + o) k := by
    rw [fieldAt_eq, fieldOfBytes, take_drop_chunk bs _ h, fieldOfBytes]
  have hzero (i : Nat) : zeroAt ((bs.drop (16 * i)).take 16) 8 8 = zeroAt bs (16 * i + 8) 8 := by
    rw [zeroAt, take_drop_chunk bs _ (by decide), zeroAt]
  rw [groupsOf, chunks_eq, List.map_map]
  refine List.map_congr_left fun i _ => ?_
  simp only [Function.comp_apply, groupAt, hzero, hfield i (o := 0) (k := 2) (by decide),
    hfield i (o := 2) (k := 1) (by decide), hfield i (o := 3) (k := 1) (by decide),
    hfield i (o := 4) (k := 4) (by decide), Nat.add_zero]

theorem Group.fits_of_good {g : Group} (h : g.bad = false) : g.role ≤ 2 ∧ g.weight ≤ 4 := by
  simp only [Group.bad, Bool.or_eq_false_iff, decide_eq_false_iff_not, Bool.not_eq_false', List.contains_iff_mem] at h
  obtain ⟨⟨⟨⟨-, hrole⟩, hweight⟩, -⟩, -⟩ := h
  have hall : ∀ w ∈ ([0, 1, 2, 4] : List Nat), w ≤ 4 := by decide
  exact ⟨by omega, hall _ hweight⟩

/-! ### Ranks -/

/-- The group of each rank, in rank order. -/
def groupsByRank (gs : List Group) : List Group := gs.flatMap fun g => List.replicate g.count g

theorem groupsByRank_length (gs : List Group) : (groupsByRank gs).length = (gs.map Group.count).sum := by
  rw [groupsByRank, List.length_flatMap]
  simp only [List.length_replicate]

/-- The group of a rank is the first whose harts, with those of the groups before it, are more than the rank. -/
theorem groupsByRank_getElem? {gs : List Group} {r : Nat} {g : Group} (h : (groupsByRank gs)[r]? = some g) :
    ∃ i, gs[i]? = some g ∧ ((gs.take i).map Group.count).sum ≤ r ∧ r < ((gs.take i).map Group.count).sum + g.count := by
  induction gs generalizing r with
  | nil => exact absurd h nofun
  | cons x xs ih =>
    rw [groupsByRank, List.flatMap_cons] at h
    by_cases hr : r < x.count
    · rw [List.getElem?_append_left (by simpa using hr), List.getElem?_replicate_of_lt hr] at h
      cases h
      exact ⟨0, rfl, Nat.zero_le _, by simpa using hr⟩
    · rw [List.getElem?_append_right (by simpa using hr), List.length_replicate] at h
      obtain ⟨i, hi, hlo, hhi⟩ := ih h
      refine ⟨i + 1, by simpa using hi, ?_, ?_⟩ <;> rw [List.take_succ_cons, List.map_cons, List.sum_cons] <;> omega

theorem groupOfRank_of_getElem? {n r : Nat} {bs : List Byte} {g : Group}
    (h : (groupsByRank (groupsOf n bs))[r]? = some g) : ∃ i, i < n ∧ GroupOfRank bs i r ∧ g = groupAt bs i := by
  obtain ⟨i, hi, hlo, hhi⟩ := groupsByRank_getElem? h
  rw [groupsOf_eq, List.getElem?_map, Option.map_eq_some_iff] at hi
  obtain ⟨j, hj, rfl⟩ := hi
  obtain ⟨hin, he⟩ := List.getElem?_eq_some_iff.1 hj
  rw [List.length_range] at hin
  obtain rfl : i = j := by rw [← he, List.getElem_range]
  have hsum : ((groupsOf n bs).take i).map Group.count = (List.range i).map fun k => fieldOfBytes bs (16 * k) 2 := by
    rw [groupsOf_eq, ← List.map_take, List.take_range, Nat.min_eq_left (Nat.le_of_lt hin), List.map_map]
    rfl
  rw [hsum] at hlo hhi
  exact ⟨i, hin, ⟨hlo, hhi⟩, rfl⟩

/-! ### Members and worklists of a new gang -/

theorem membersOf_length (gs : List Group) (devs : List (BitVec 8)) :
    (membersOf gs devs).length = (gs.map Group.count).sum := by
  rw [membersOf, List.length_map, List.length_zipIdx]
  exact groupsByRank_length gs

theorem membersOf_getElem? {gs : List Group} {devs : List (BitVec 8)} {r : Nat} {m : Member}
    (h : (membersOf gs devs)[r]? = some m) : ∃ g, (groupsByRank gs)[r]? = some g ∧ m.rank = r ∧
      m.dev = devs.getD (r * devs.length / (membersOf gs devs).length) 0 ∧ m.ser = none ∧
      m.role = BitVec.ofNat 2 g.role ∧ m.weight = BitVec.ofNat 8 g.weight ∧ m.entry = BitVec.ofNat 32 g.entry ∧
      m.live = true := by
  rw [membersOf_length, ← groupsByRank_length]
  rw [membersOf, List.getElem?_map, List.getElem?_zipIdx, Option.map_map, Option.map_eq_some_iff] at h
  obtain ⟨g, hg, rfl⟩ := h
  refine ⟨g, hg, ?_⟩
  simp [groupsByRank]

/-- A member has the ROLE, WEIGHT and ENTRY of the group of its rank, and its device by its rank (R76, R262). -/
theorem membersOf_spec {n r : Nat} {bs : List Byte} {devs : List (BitVec 8)} {m : Member}
    (hgood : ∀ g ∈ groupsOf n bs, g.bad = false) (hdevs : 0 < devs.length)
    (h : (membersOf (groupsOf n bs) devs)[r]? = some m) :
    m.rank = r ∧ m.ser = none ∧ m.live = true ∧
      some m.dev = devs[r * devs.length / (membersOf (groupsOf n bs) devs).length]? ∧
      ∃ i, i < n ∧ GroupOfRank bs i r ∧ m.role.toNat = fieldOfBytes bs (16 * i + 2) 1 ∧
        m.weight.toNat = fieldOfBytes bs (16 * i + 3) 1 ∧ m.entry.toNat = fieldOfBytes bs (16 * i + 4) 4 := by
  have hlen := (List.getElem?_eq_some_iff.1 h).1
  obtain ⟨g, hg, hrank, hdev, hser, hrole, hweight, hentry, hlive⟩ := membersOf_getElem? h
  obtain ⟨i, hin, hgroup, rfl⟩ := groupOfRank_of_getElem? hg
  have hmem : groupAt bs i ∈ groupsOf n bs := by
    rw [groupsOf_eq]
    exact List.mem_map_of_mem (List.mem_range.2 hin)
  obtain ⟨hr, hw⟩ := Group.fits_of_good (hgood _ hmem)
  have hplace : r * devs.length / (membersOf (groupsOf n bs) devs).length < devs.length :=
    Nat.div_lt_of_lt_mul ((Nat.mul_lt_mul_right hdevs).2 hlen)
  refine ⟨hrank, hser, hlive, ?_, i, hin, hgroup, ?_, ?_, ?_⟩
  · rw [hdev, List.getD_eq_getElem _ _ hplace, List.getElem?_eq_getElem hplace]
  · rw [hrole, BitVec.toNat_ofNat]
    exact Nat.mod_eq_of_lt (Nat.lt_of_le_of_lt hr (by decide))
  · rw [hweight, BitVec.toNat_ofNat]
    exact Nat.mod_eq_of_lt (Nat.lt_of_le_of_lt hw (by decide))
  · rw [hentry, BitVec.toNat_ofNat]
    exact Nat.mod_eq_of_lt (fieldOfBytes_lt bs _ 4)

theorem mem_maskLists {mask v : Nat} : v ∈ maskLists mask ↔ v < 16 ∧ mask.testBit v = true := by
  rw [maskLists, List.mem_filter, List.mem_range]

/-- The worklists of a new gang are those of its mask, and they are CLOSED. -/
theorem fresh_lists (mask v : Nat) :
    (∃ l ∈ (maskLists mask).map Worklist.fresh, l.w = v ∧ l.state = .closed) ↔ v < 16 ∧ mask.testBit v = true := by
  rw [← mem_maskLists]
  constructor
  · rintro ⟨l, hl, rfl, -⟩
    obtain ⟨w, hw, rfl⟩ := List.mem_map.1 hl
    exact hw
  · exact fun hv => ⟨_, List.mem_map_of_mem hv, rfl, rfl⟩

/-- What a descriptor that passes its checks says of its gang's size, world, chain and devices. -/
theorem State.badGang_false {s : State} {head : List Byte} {gs : List Group} {table : Nat}
    (h : s.badGang head gs table = false) :
    fieldOfBytes head 2 1 ≠ 0 ∧ fieldOfBytes head 4 2 < 4096 ∧ (∀ g ∈ gs, g.bad = false) ∧
      (gs.map Group.count).sum = fieldOfBytes head 0 2 ∧ fieldOfBytes head 8 2 < 1024 ∧
      fieldOfBytes head 2 1 ≤ (s.deviceList (fieldOfBytes head 8 2)).length := by
  simp only [State.badGang, fieldAt_eq, Bool.or_eq_false_iff, decide_eq_false_iff_not, ne_eq, Decidable.not_not,
    List.any_eq_false, Bool.not_eq_true] at h
  obtain ⟨⟨⟨⟨⟨⟨⟨⟨⟨⟨⟨⟨⟨⟨⟨-, -⟩, -⟩, hn⟩, -⟩, hchain⟩, -⟩, hgood⟩, hsum⟩, -⟩, hworld⟩, -⟩, hdevs⟩, -⟩, -⟩, -⟩ := h
  exact ⟨hn, by omega, hgood, hsum, by omega, by omega⟩

end Sys2Proof.Machine


/-! ## Launch of a gang (R261, R262, R306) -/

namespace Sys2Proof.Machine
open Sys2Proof.Claims

/-! ### The handle -/

theorem handleOf_toNat (n : Nat) : (handleOf n).toNat = n % (2 ^ 32 - 1) + 1 := by
  rw [handleOf, BitVec.toNat_ofNat]
  omega

theorem handleOf_ne_zero (n : Nat) : handleOf n ≠ 0 := by
  intro h
  have hz := congrArg BitVec.toNat h
  rw [handleOf_toNat] at hz
  exact absurd hz (Nat.succ_ne_zero _)

/-- The handles of fewer than 2^32 launches in a row differ. -/
theorem handleOf_nodup (lo : Nat) {n : Nat} (hn : n ≤ 2 ^ 32 - 1) :
    ((List.range n).map fun i => handleOf (lo + i)).Nodup := by
  refine List.nodup_range.map_on fun i hi j hj h => ?_
  have hi := List.mem_range.1 hi
  have hj := List.mem_range.1 hj
  have h := congrArg BitVec.toNat h
  rw [handleOf_toNat, handleOf_toNat] at h
  omega

theorem leastFrom_some {p : Nat → Bool} {lo n x : Nat} (h : leastFrom p lo n = some x) :
    lo ≤ x ∧ p x = true ∧ ∀ j, lo ≤ j → j < x → p j = false := by
  induction n generalizing lo with
  | zero => exact absurd h nofun
  | succ n ih =>
    unfold leastFrom at h
    split at h
    case isTrue hp =>
      cases h
      exact ⟨Nat.le_refl _, hp, fun j h1 h2 => absurd h1 (by omega)⟩
    case isFalse hp =>
      obtain ⟨hle, hx, hbelow⟩ := ih h
      refine ⟨by omega, hx, fun j h1 h2 => ?_⟩
      rcases Nat.eq_or_lt_of_le h1 with rfl | h1
      · simpa using hp
      · exact hbelow j h1 h2

theorem leastFrom_none {p : Nat → Bool} {lo n : Nat} (h : leastFrom p lo n = none) {j : Nat} (h1 : lo ≤ j)
    (h2 : j < lo + n) : p j = false :=
  (leastFrom_gt p lo n j h1 h2).1 (h ▸ h2) j h1 (Nat.le_refl j)

/-- Among one more handle than there are gangs, one is free: the handle of the next launch is the first such. -/
theorem State.nextHandle_spec {s : State} (h : s.gangs.length < 2 ^ 32 - 1) :
    s.handles ≤ s.nextHandle ∧ (∀ x ∈ s.gangs, x.gid ≠ handleOf s.nextHandle) ∧
      ∀ j, s.handles ≤ j → j < s.nextHandle → ∃ x ∈ s.gangs, x.gid = handleOf j := by
  have taken (j : Nat) : (!s.gangs.any fun g => g.gid == handleOf j) = false ↔ ∃ x ∈ s.gangs, x.gid = handleOf j := by
    simp
  cases hx : leastFrom (fun n => !s.gangs.any fun g => g.gid == handleOf n) s.handles (s.gangs.length + 1) with
  | some x =>
    obtain ⟨hle, hfree, hbelow⟩ := leastFrom_some hx
    have e : s.nextHandle = x := by rw [State.nextHandle, hx, Option.getD_some]
    rw [e]
    refine ⟨hle, fun g hg he => ?_, fun j h1 h2 => (taken j).1 (hbelow j h1 h2)⟩
    rw [(taken x).2 ⟨g, hg, he⟩] at hfree
    exact Bool.noConfusion hfree
  | none =>
    have hsub : ((List.range (s.gangs.length + 1)).map fun i => handleOf (s.handles + i)) ⊆ s.gangs.map Gang.gid := by
      intro y hy
      obtain ⟨i, hi, rfl⟩ := List.mem_map.1 hy
      have hi := List.mem_range.1 hi
      obtain ⟨g, hg, he⟩ := (taken _).1 (leastFrom_none hx (Nat.le_add_right s.handles i) (by omega))
      exact List.mem_map.2 ⟨g, hg, he⟩
    have hlen := (List.subperm_of_subset (handleOf_nodup s.handles h) hsub).length_le
    rw [List.length_map, List.length_map, List.length_range] at hlen
    exact absurd hlen (Nat.not_succ_le_self _)

section
variable {s u : State}

/-! ### What a launch reads does not hang on the reads before it -/

/-- The slot table that a launch into a world follows NEXT from (R261). -/
def firstTable (s : State) (w : Nat) : Word := if w = s.ctx.world.toNat then s.hart.slottab else s.hart.ltab

theorem ReadsOnly.firstTable_eq (h : ReadsOnly s u) (w : Nat) :
    (if w = u.ctx.world.toNat then u.hart.slottab else u.hart.ltab) = firstTable s w := by
  rw [h]
  rfl

theorem ReadsOnly.tabNext (h : ReadsOnly s u) (t : Nat) : u.tabNext t = s.tabNext t := by
  rw [h]
  rfl

theorem ReadsOnly.newest (h : ReadsOnly s u) (n t : Nat) : u.newest n t = s.newest n t := by
  induction n generalizing t with
  | zero => rfl
  | succ n ih => simp only [State.newest, h.tabNext, ih]

theorem ReadsOnly.chainLost (h : ReadsOnly s u) (n t : Nat) : u.chainLost n t = s.chainLost n t := by
  have hl (t : Nat) : u.unitLost u.hart.core (u.canon t) = s.unitLost s.hart.core (s.canon t) := by
    rw [h]
    rfl
  induction n generalizing t with
  | zero => rfl
  | succ n ih => simp only [State.chainLost, h.tabNext, hl, ih]

theorem ReadsOnly.badGang (h : ReadsOnly s u) (head : List Byte) (gs : List Group) (table : Nat) :
    u.badGang head gs table = s.badGang head gs table := by
  rw [h]
  rfl

theorem ReadsOnly.gangs (h : ReadsOnly s u) : u.gangs = s.gangs := by
  rw [h]
  rfl

theorem ReadsOnly.nextHandle (h : ReadsOnly s u) : u.nextHandle = s.nextHandle := by
  rw [h]
  rfl

theorem State.newest_lt (s : State) (n : Nat) {t : Nat} (ht : t < 2 ^ 52) : s.newest n t < 2 ^ 52 := by
  induction n generalizing t with
  | zero => exact ht
  | succ n ih =>
    unfold State.newest
    dsimp only
    split
    · exact ht
    · exact ih (by omega)

theorem tabAddr_lt (w : Word) : tabAddr w < 2 ^ 52 := by
  unfold tabAddr
  omega

/-! ### The gang -/

/-- The gang is the one that a descriptor describes, as it is queued by a hart that uses the slot table (R76, R261,
R262). -/
def Describes (s : State) (head bs : List Byte) (table : Nat) (g : Gang) : Prop :=
  let devs := (s.deviceList (fieldOfBytes head 8 2)).take (fieldOfBytes head 2 1)
  g.wid.toNat = fieldOfBytes head 8 2 ∧ g.chain.toNat = fieldOfBytes head 4 2 ∧ g.devs = devs ∧ g.phase = .waiting ∧
  g.die = s.hart.core.toNat / 64 ∧ g.table.toNat = table ∧ g.code = s.tabCode table ∧
  g.members.length = fieldOfBytes head 0 2 ∧
  (∀ r m, g.members[r]? = some m → m.rank = r ∧ m.ser = none ∧ m.live = true ∧
    some m.dev = devs[r * devs.length / g.members.length]? ∧
    ∃ i, i < fieldOfBytes head 6 2 ∧ GroupOfRank bs i r ∧ m.role.toNat = fieldOfBytes bs (16 * i + 2) 1 ∧
      m.weight.toNat = fieldOfBytes bs (16 * i + 3) 1 ∧ m.entry.toNat = fieldOfBytes bs (16 * i + 4) 4) ∧
  ∀ v, (∃ l ∈ g.lists, l.w = v ∧ l.state = .closed) ↔ v < 16 ∧ (fieldOfBytes head 10 2).testBit v = true

theorem ReadsOnly.describes (h : ReadsOnly s u) {head bs : List Byte} {table : Nat} {g : Gang}
    (hg : Describes u head bs table g) : Describes s head bs table g := by
  rw [h] at hg
  exact hg

/-- A launch whose queue has room queues one gang, and its handle is the result. -/
theorem launchGang_queues {a : BitVec 5} {head : List Byte} {gs : List Group} {table : Nat}
    (hq : (s.queued (s.hart.core.toNat / 64)).length < 64)
    (hf : s.worldFaulted (BitVec.ofNat 10 (fieldOfBytes head 8 2)) = false) : ∃ g : Gang,
    launchGang a head gs table s =
      ({ s with gangs := s.gangs ++ [g], handles := s.nextHandle + 1 } : State).writeBack a (g.gid.zeroExtend 64) ∧
    g.gid = handleOf s.nextHandle ∧ g.wid = BitVec.ofNat 10 (fieldOfBytes head 8 2) ∧
    g.chain = BitVec.ofNat 16 (fieldOfBytes head 4 2) ∧
    g.devs = (s.deviceList (fieldOfBytes head 8 2)).take (fieldOfBytes head 2 1) ∧ g.members = membersOf gs g.devs ∧
    g.table = BitVec.ofNat 64 table ∧ g.code = s.tabCode table ∧ g.phase = .waiting ∧ g.die = s.hart.core.toNat / 64 ∧
    g.lists = (maskLists (fieldOfBytes head 10 2)).map Worklist.fresh := by
  simp only [← fieldAt_eq] at hf ⊢
  unfold launchGang
  dsimp only
  rw [if_neg (Nat.not_le.2 hq), hf]
  exact ⟨_, rfl, rfl, rfl, rfl, rfl, rfl, rfl, rfl, rfl, rfl, rfl⟩

/-- The gang that a launch queues is the one that its descriptor describes. -/
theorem launchGang_describes {a : BitVec 5} {head bs : List Byte} {table : Nat}
    (hbad : s.badGang head (groupsOf (fieldOfBytes head 6 2) bs) table = false) (htable : table < 2 ^ 52)
    (hq : (s.queued (s.hart.core.toNat / 64)).length < 64)
    (hf : s.worldFaulted (BitVec.ofNat 10 (fieldOfBytes head 8 2)) = false) : ∃ g : Gang,
    launchGang a head (groupsOf (fieldOfBytes head 6 2) bs) table s =
      ({ s with gangs := s.gangs ++ [g], handles := s.nextHandle + 1 } : State).writeBack a (g.gid.zeroExtend 64) ∧
    g.gid = handleOf s.nextHandle ∧ Describes s head bs table g := by
  obtain ⟨hcount, hchain, hgood, hsum, hworld, hdevs⟩ := State.badGang_false hbad
  obtain ⟨g, hlaunch, hgid, hgwid, hgchain, hgdevs, hgmembers, hgtable, hgcode, hgphase, hgdie, hglists⟩ :=
    launchGang_queues (a := a) (gs := groupsOf (fieldOfBytes head 6 2) bs) (table := table) hq hf
  have hsome : 0 < ((s.deviceList (fieldOfBytes head 8 2)).take (fieldOfBytes head 2 1)).length := by
    rw [List.length_take]
    omega
  rw [hgdevs] at hgmembers
  refine ⟨g, hlaunch, hgid, ?_, ?_, hgdevs, hgphase, hgdie, ?_, hgcode, ?_, ?_, ?_⟩
  · rw [hgwid, BitVec.toNat_ofNat]
    exact Nat.mod_eq_of_lt hworld
  · rw [hgchain, BitVec.toNat_ofNat]
    exact Nat.mod_eq_of_lt (hchain.trans (by decide))
  · rw [hgtable, BitVec.toNat_ofNat]
    exact Nat.mod_eq_of_lt (htable.trans (by decide))
  · rw [hgmembers, membersOf_length, hsum]
  · rw [hgmembers]
    exact fun r m => membersOf_spec hgood hsome
  · rw [hglists]
    exact fresh_lists _

theorem launchGang_waits {a : BitVec 5} {head : List Byte} {gs : List Group} {table : Nat}
    (hq : 64 ≤ (s.queued (s.hart.core.toNat / 64)).length) : launchGang a head gs table s = s.waitFor .retry :=
  if_pos hq

/-- A launch after its descriptor was read leaves beside the page counts only its gang, its handle's count and its
result. -/
theorem ReadsOnly.launch_writesX (h : ReadsOnly s u) (gs : List Gang) (n : Nat) (a : BitVec 5) (v : Word) :
    let t := ({ u with gangs := gs, handles := n } : State).writeBack a v
    WritesX a v none { counted s t with gangs := gs, handles := n } t := by
  obtain ⟨⟨⟨hframe, hmem⟩, hhart, hregs⟩, hx, hpc⟩ :=
    ({ u with gangs := gs, handles := n } : State).writeBack_writesX a v none
  rw [h] at hframe hmem hhart hregs hx hpc ⊢
  exact ⟨⟨⟨hframe, hmem⟩, hhart, hregs⟩, hx, hpc⟩

/-! ### The instruction -/

/-- `glaunch` reads its descriptor, and then refuses it or launches its gang. -/
theorem exec_glaunch {a b : BitVec 5} {head bs : List Byte}
    (hs : Fresh s) (hperf : AllPerformed s) (halign : (s.hart.xr b).toNat % 16 = 0)
    (hhead : StructAt s (s.hart.tagOf b) (s.hart.xr b).toNat 16 head)
    (hlo : 1 ≤ fieldOfBytes head 6 2) (hhi : fieldOfBytes head 6 2 ≤ 4096)
    (hbs : StructAt s (s.hart.tagOf b) ((s.hart.xr b).toNat + 16) (16 * fieldOfBytes head 6 2) bs)
    (hchain : s.chainLost (2 ^ 46) (tabAddr (firstTable s (fieldOfBytes head 8 2))) = none) :
    let gs := groupsOf (fieldOfBytes head 6 2) bs
    let table := s.newest (2 ^ 46) (tabAddr (firstTable s (fieldOfBytes head 8 2)))
    ∃ u, ReadsOnly s u ∧ exec (.glaunch a b) s =
      .next (if s.badGang head gs table then u.malformed 11 (s.hart.xr b).toNat else launchGang a head gs table u) := by
  simp only [← fieldAt_eq] at hlo hhi hbs hchain ⊢
  obtain ⟨hprompt, hcap⟩ := hs
  obtain ⟨v, hv, hreadHead⟩ := State.readStruct_eq hprompt hhead (by decide) (Hart.seenAt_none hcap _ _ _)
  have hcapV : v.hart.capture = none := by rw [counted_hart hv, hcap]
  have hother := v.remember_seenAt_other hcapV (i := slotIndex (s.hart.tagOf b)) (a := (s.hart.xr b).toNat)
    (b := (s.hart.xr b).toNat + 16) (by omega) (slotIndex (s.hart.tagOf b)) (16 * fieldAt head 6 2) head
  have h1 := (ReadsOnly.of_counts hv).trans (v.remember_readsOnly (slotIndex (s.hart.tagOf b)) (s.hart.xr b).toNat head)
  generalize v.remember _ _ head = v at hreadHead h1 hother
  obtain ⟨w, hw, hreadGroups⟩ := State.readStruct_eq (h1.prompt hprompt) (h1.structAt hbs) (by omega) hother
  have h2 := (h1.trans (ReadsOnly.of_counts hw)).trans
    (w.remember_readsOnly (slotIndex (s.hart.tagOf b)) ((s.hart.xr b).toNat + 16) bs)
  generalize w.remember _ _ bs = u at hreadGroups h2
  have hsize : (decide (fieldAt head 6 2 = 0) || decide (4096 < fieldAt head 6 2)) = false := by
    rw [Bool.or_eq_false_iff, decide_eq_false_iff_not, decide_eq_false_iff_not]
    omega
  refine ⟨u, h2, congrArg Host.Outcome.next ?_⟩
  rw [if_pos (s.drained_iff.2 hperf)]
  unfold startLaunch
  dsimp only
  rw [if_neg (not_not.2 halign), hreadHead, hsize, if_neg Bool.false_ne_true, h1.tagOf, hreadGroups, h2.firstTable_eq,
    h2.newest, h2.chainLost, hchain]
  dsimp only
  rw [h2.badGang]

theorem exec_glaunch_undrained {a b : BitVec 5} (h : ¬ AllPerformed s) :
    exec (.glaunch a b) s = .next (s.waitFor .retry) :=
  congrArg Host.Outcome.next (if_neg fun hd => h (s.drained_iff.1 hd))

end

/-- Settles O38: the reads of the descriptor leave what `glaunch` decides by as it was; it then queues the gang under the
first free handle, waits for room in the queue of its die, or takes the fault of reason 11. -/
theorem gangLaunch : Obligations.GangLaunch := by
  intro s a b head bs addr n w first table groups devs bad handle taken hs halign hhead hlo hhi hbs hchain
  have key (hperf : AllPerformed s) : ∃ u, ReadsOnly s u ∧ exec (.glaunch a b) s =
      .next (if bad = true then u.malformed 11 addr else launchGang a head groups table u) :=
    exec_glaunch hs hperf halign hhead hlo hhi hbs hchain
  refine ⟨fun hperf hbad hroom hgangs hworld => ?_, fun hperf hbad hfull => ?_, fun hperf hbad htrap => ?_,
    fun hperf => ⟨_, exec_glaunch_undrained hperf, s.waitFor_waits .retry⟩⟩
  · obtain ⟨u, hu, he⟩ := key hperf
    rw [if_neg (Bool.eq_false_iff.1 hbad)] at he
    obtain ⟨hle, hfree, htaken⟩ := State.nextHandle_spec hgangs
    obtain ⟨g, hlaunch, hgid, hg⟩ := launchGang_describes (s := u) (a := a) (head := head) (bs := bs) (table := table)
      ((hu.badGang _ _ _).trans hbad) (s.newest_lt _ (tabAddr_lt _)) (by rw [hu]; exact hroom)
      (by rw [hu]; exact hworld)
    rw [hu.nextHandle] at hgid
    rw [hu.nextHandle, hu.gangs] at hlaunch
    refine ⟨_, he.trans (congrArg _ hlaunch), g, s.nextHandle, hu.launch_writesX _ _ _ _, hgid ▸ handleOf_ne_zero _,
      hgid ▸ hfree, hgid ▸ handleOf_toNat _, hle, fun j h1 h2 => ?_, hu.describes hg⟩
    obtain ⟨x, hx, hxj⟩ := htaken j h1 h2
    exact ⟨x, hx, hxj ▸ handleOf_toNat j⟩
  · obtain ⟨u, hu, he⟩ := key hperf
    rw [if_neg (Bool.eq_false_iff.1 hbad), launchGang_waits (by rw [hu]; exact hfull)] at he
    exact ⟨_, he, hu.countsOnly_waitFor .retry⟩
  · obtain ⟨u, hu, he⟩ := key hperf
    rw [if_pos hbad] at he
    exact ⟨_, he, hu.trapsHere (u.malformed_traps 11 _ (hu.canTrap htrap))⟩

end Sys2Proof.Machine


/-! ## Floating vector elements (R147 to R149) -/

namespace Sys2Proof.Machine
open Sys2Proof.Claims

/-! ### Results are encodings of the format -/

theorem Fmt.fma_lt (f : Fmt) (mode : RMode) (rnd : Word) (a b c : Nat) : (f.fma mode rnd a b c).1 < 2 ^ f.width :=
  f.roundTo_lt _ _ _

theorem Fmt.div_lt (f : Fmt) (mode : RMode) (rnd : Word) (a b : Nat) : (f.div mode rnd a b).1 < 2 ^ f.width := by
  have hzero : 0 < f.signBit := Nat.two_pow_pos _
  unfold Fmt.div
  cases f.decode a with
  | nan => exact f.canonNaN_lt
  | inf n =>
    cases f.decode b with
    | nan | inf => exact f.canonNaN_lt
    | num => exact f.signed_lt f.infEnc_lt _
  | num n m x =>
    cases f.decode b with
    | nan => exact f.canonNaN_lt
    | inf => exact f.signed_lt hzero _
    | num n' m' x' =>
      dsimp only
      split
      · split
        · exact f.canonNaN_lt
        · exact f.signed_lt f.infEnc_lt _
      · exact f.roundMag_lt _ _ _ _

theorem Fmt.sqrt_lt (f : Fmt) (mode : RMode) (rnd : Word) (a : Nat) : (f.sqrt mode rnd a).1 < 2 ^ f.width := by
  unfold Fmt.sqrt
  cases f.decode a with
  | nan => exact f.canonNaN_lt
  | inf n =>
    dsimp only
    split
    · exact f.canonNaN_lt
    · exact f.infEnc_lt.trans_le f.signBit_le
  | num n m x =>
    dsimp only
    split
    · exact f.signed_lt (Nat.two_pow_pos _) _
    · split
      · exact f.canonNaN_lt
      · exact f.roundMag_lt _ _ _ _

theorem Fmt.toBipolar_lt (f : Fmt) (a : Nat) : (f.toBipolar a).1 < 2 := by
  unfold Fmt.toBipolar
  split
  · exact Nat.one_lt_two
  · dsimp only
    split <;> decide

theorem ETy.width_fmt {t : ETy} (h : t.isFloat = true) : t.width = t.fmt.width := by
  cases t with
  | flt f => rfl
  | uint | sint | bipolar | bsint | bsuint => cases h

theorem isFloat_of_wideFloatCodes {n : Nat} {t : ETy} (h : n ∈ wideFloatCodes) (ht : ETy.ofCode n = some t) :
    t.isFloat = true := by
  have hall : ∀ n ∈ wideFloatCodes, (ETy.ofCode n).all ETy.isFloat = true := by decide
  have := hall n h
  rwa [ht] at this

/-! ### The lane of each instruction -/

/-- The entry performs by element groups, each active element with the result and the flags that `f` says. -/
def FloatPerforms (e : QEntry) (s : State) (d : BitVec 5) (f : Nat → Nat × Flags) : Prop :=
  ∃ x : Lane, performHead e s = s.went (x.group e s.hart) ∧ x.t = e.ety ∧ x.d = d ∧ x.all = false ∧
    ∀ i, x.f i = some' (f i) ∧ (f i).1 < 2 ^ e.ety.width

theorem FloatPerforms.of_lane {e : QEntry} {s : State} {d : BitVec 5} {f : Nat → Nat × Flags} (F : QEntry → Hart → Lane)
    (hp : performHead e s = byGroup e s F) (hF : F e s.hart = ⟨e.ety, d, false, fun i => some' (f i)⟩)
    (hf : ∀ i, (f i).1 < 2 ^ e.ety.width) : FloatPerforms e s d f :=
  ⟨F e s.hart, hp, by rw [hF], by rw [hF], by rw [hF], fun i => by rw [hF]; exact ⟨rfl, hf i⟩⟩

/-- A conversion to an integer type: what `cvtToInt` gives, by its bounds. -/
theorem cvtToInt_eq (ct et : ETy) (e : QEntry) (i a : Nat) : cvtToInt ct et e i a =
    if et = .bipolar then ct.fmt.toBipolar a
    else (((ct.fmt.toInt e.mode (e.rnd i) (intLo et.width et.signed) (intHi et.width et.signed) a).1 % 2 ^ et.width).toNat,
      (ct.fmt.toInt e.mode (e.rnd i) (intLo et.width et.signed) (intHi et.width et.signed) a).2) := by
  cases et <;> rfl

theorem cvtToInt_lt (ct et : ETy) (e : QEntry) (i a : Nat) : (cvtToInt ct et e i a).1 < 2 ^ et.width := by
  rw [cvtToInt_eq]
  split
  · next h => subst h; exact ct.fmt.toBipolar_lt a
  · exact toNat_emod_lt _ _

/-- A conversion between integer types saturates, or keeps the sign. -/
theorem cvtInt_eq (ct et : ETy) (e : QEntry) (i a : Nat) : cvtInt ct et e i a =
    if et = .bipolar then (if 0 ≤ ct.intVal a then 1 else 0, .none)
    else
      let lo : Int := if et.signed then -2 ^ (et.width - 1) else 0
      let hi : Int := if et.signed then 2 ^ (et.width - 1) - 1 else 2 ^ et.width - 1
      ((min (max (ct.intVal a) lo) hi % 2 ^ et.width).toNat,
        if ct.intVal a < lo ∨ hi < ct.intVal a then Flags.sat else Flags.none) := by
  by_cases hb : et = .bipolar
  · subst hb
    rfl
  · have hsat : cvtInt ct et e i a = et.encSat (ct.intVal a) := by
      cases et with
      | bipolar => exact absurd rfl hb
      | uint | sint | flt | bsint | bsuint => rfl
    rw [if_neg hb, hsat, ETy.encSat_eq hb]
    simp only [decide_eq_true_eq]

theorem cvtInt_lt (ct et : ETy) (e : QEntry) (i a : Nat) : (cvtInt ct et e i a).1 < 2 ^ et.width := by
  rw [cvtInt_eq]
  split
  · next h => subst h; dsimp only; split <;> decide
  · exact toNat_emod_lt _ _

/-- Each floating instruction and conversion performs the lane that the claim lists. -/
theorem floatLane_performs {e : QEntry} {s : State} {d : BitVec 5} {f : Nat → Nat × Flags}
    (htakes : FloatRowTakes e e.ety) (het : ETy.ofCode (fieldOf e.vtype 0 8) = some e.ety)
    (hl : floatLane e e.ety s.hart = some (d, f)) : FloatPerforms e s d f := by
  have wide (h : fieldOf e.vtype 0 8 ∈ wideFloatCodes) : e.ety.fmt.width = e.ety.width :=
    (ETy.width_fmt (isFloat_of_wideFloatCodes h het)).symm
  have fp32 (h : fieldOf e.vtype 0 8 = 0x35) : Fmt.fp32.width = e.ety.width := by
    rw [h] at het
    exact congrArg ETy.width (Option.some.inj het)
  unfold floatLane at hl
  unfold FloatRowTakes at htakes
  dsimp only at hl
  split at hl
  case h_1 c m _ a b hi =>
    cases hl
    rw [hi] at htakes
    exact .of_lane (fltLane d a b Fmt.add) (by unfold performHead; rw [hi]) rfl fun i => wide htakes ▸ Fmt.roundTo_lt _ _ _ _
  case h_2 c m _ a b hi =>
    cases hl
    rw [hi] at htakes
    exact .of_lane (fltLane d a b Fmt.sub) (by unfold performHead; rw [hi]) rfl fun i => wide htakes ▸ Fmt.roundTo_lt _ _ _ _
  case h_3 c m _ a b hi =>
    cases hl
    rw [hi] at htakes
    exact .of_lane (fltLane d a b Fmt.mul) (by unfold performHead; rw [hi]) rfl fun i => wide htakes ▸ Fmt.roundTo_lt _ _ _ _
  case h_4 c m _ a b hi =>
    cases hl
    rw [hi] at htakes
    exact .of_lane (fltLane d a b Fmt.div) (by unfold performHead; rw [hi]) rfl fun i => wide htakes ▸ Fmt.div_lt _ _ _ _ _
  case h_5 c m _ a hi =>
    cases hl
    rw [hi] at htakes
    exact .of_lane (vfsqrtLane d a) (by unfold performHead; rw [hi]) rfl fun i => wide htakes ▸ Fmt.sqrt_lt _ _ _ _
  case h_6 c m _ a b hi =>
    cases hl
    rw [hi] at htakes
    exact .of_lane (vfmaLane d a b) (by unfold performHead; rw [hi]) rfl fun i => wide htakes ▸ Fmt.fma_lt _ _ _ _ _ _
  case h_7 c m _ a b hi =>
    cases hl
    rw [hi] at htakes
    exact .of_lane (vfminmaxLane false d a b) (by unfold performHead; rw [hi]) rfl fun i => wide htakes ▸
      Fmt.minmax_lt _ (wide htakes ▸ readElem_lt _ _ _ _ _) (wide htakes ▸ readElem_lt _ _ _ _ _)
  case h_8 c m _ a b hi =>
    cases hl
    rw [hi] at htakes
    exact .of_lane (vfminmaxLane true d a b) (by unfold performHead; rw [hi]) rfl fun i => wide htakes ▸
      Fmt.minmax_lt _ (wide htakes ▸ readElem_lt _ _ _ _ _) (wide htakes ▸ readElem_lt _ _ _ _ _)
  case h_9 c m _ a b hi =>
    cases hl
    rw [hi] at htakes
    exact .of_lane (vfsmulLane d a b) (by unfold performHead; rw [hi]) rfl fun i => fp32 htakes ▸ Fmt.roundTo_lt _ _ _ _
  case h_10 c m _ a b hi =>
    cases hl
    rw [hi] at htakes
    exact .of_lane (vfsmaccLane d a b) (by unfold performHead; rw [hi]) rfl fun i => fp32 htakes ▸ Fmt.roundTo_lt _ _ _ _
  case h_11 c m _ a b hi =>
    cases hl
    rw [hi] at htakes
    exact .of_lane (vfmulxLane d a) (by unfold performHead; rw [hi]) rfl fun i => wide htakes ▸ Fmt.roundTo_lt _ _ _ _
  case h_12 c m _ a hi =>
    cases hl
    rw [hi] at htakes
    obtain ⟨-, -, hflt⟩ := htakes
    exact .of_lane (convertLane d a cvtFloat) (by unfold performHead; rw [hi]) rfl fun i =>
      ETy.width_fmt hflt ▸ Fmt.roundTo_lt _ _ _ _
  case h_13 c m _ a hi =>
    cases hl
    rw [hi] at htakes
    obtain ⟨-, -, hflt⟩ := htakes
    exact .of_lane (convertLane d a cvtFromInt) (by unfold performHead; rw [hi]) rfl fun i =>
      ETy.width_fmt hflt ▸ Fmt.roundTo_lt _ _ _ _
  case h_14 c m _ a hi =>
    cases hl
    have heq (i : Nat) := cvtToInt_eq e.cty e.ety e i (readElem s.hart.vreg s.hart.c a.toNat e.cty i)
    refine .of_lane (convertLane d a cvtToInt) (by unfold performHead; rw [hi]) ?_ fun i => heq i ▸ cvtToInt_lt _ _ _ _ _
    unfold convertLane
    simp only [heq]
    rfl
  case h_15 c m _ a hi =>
    cases hl
    have heq (i : Nat) := cvtInt_eq e.cty e.ety e i (readElem s.hart.vreg s.hart.c a.toNat e.cty i)
    refine .of_lane (convertLane d a cvtInt) (by unfold performHead; rw [hi]) ?_ fun i => heq i ▸ cvtInt_lt _ _ _ _ _
    unfold convertLane
    simp only [heq]
    rfl
  case h_16 => cases hl

theorem floatLane_started (s : State) (e : QEntry) (t : ETy) :
    floatLane (e.withMask s.hart) t (s.started (e.withMask s.hart)).hart = floatLane e t s.hart := by
  rw [withMask_eq]
  rfl

/-! ### Flags of the active elements (R103) -/

/-- The indices from `lo` to `hi` - 1 that a predicate picks, counted from `lo`. -/
theorem filter_range_from {lo hi : Nat} (h : lo ≤ hi) (p : Nat → Bool) :
    (List.range hi).filter (fun i => decide (lo ≤ i) && p i) =
      ((List.range (hi - lo)).filter fun j => p (lo + j)).map (lo + ·) := by
  have hlow : (List.range lo).filter (fun i => decide (lo ≤ i) && p i) = [] :=
    List.filter_eq_nil_iff.2 fun i hi => by simp [Nat.not_le.2 (List.mem_range.1 hi)]
  obtain ⟨n, rfl⟩ := Nat.exists_eq_add_of_le h
  rw [Nat.add_sub_cancel_left, List.range_add, List.filter_append, hlow, List.nil_append, List.filter_map]
  simp only [Function.comp_def, Nat.le_add_right, decide_true, Bool.true_and]

theorem Lane.flags_active {x : Lane} {s : State} {e : QEntry} {hi : Nat} (hhi : e.start ≤ hi) (hall : x.all = false) :
    x.flags (e.withMask s.hart) hi = activeFlags e s.hart hi fun i => (x.f i).2 := by
  have hst : (e.withMask s.hart).start = e.start := by rw [withMask_eq]
  unfold Lane.flags activeFlags
  rw [filter_range_from hhi, List.foldl_map, List.foldl_filter, hst]
  congr 1
  funext fl j
  rw [hall, Bool.false_or, withMask_active]
  split
  · rfl
  · exact BitVec.or_zero

theorem vectorFloatElements_claim : Claims.VectorFloatElements := by
  intro s core e t d f g hi h ht htakes hv hl hr hst hvl ha
  have hety := ety_eq hv ht
  subst hety
  have hm := withMask_eq e s.hart
  have hety' := ety_withMask e s.hart
  obtain ⟨x, hp, hxt, rfl, hall, hf⟩ := floatLane_performs (e := e.withMask s.hart) (s := s.started (e.withMask s.hart))
    (by rw [hety', hm]; exact htakes) (by rw [hety', hm]; exact ht) (by rw [hety', floatLane_started]; exact hl)
  rw [hety'] at hxt hf
  have hval : x.value (e.withMask s.hart) = underMask e s.hart fun i => some (f i).1 :=
    Lane.value_eq hall fun i => congrArg Prod.fst (hf i).1
  have hlt : ∀ i v, x.value (e.withMask s.hart) i = some v → v < 2 ^ x.t.width := by
    rw [hval, hxt]
    exact underMask_lt fun i => (hf i).2
  have hwhole : x.t.Whole := hxt ▸ ETy.ofCode_whole ht
  rw [vlmax_eq hv ht] at hvl
  obtain ⟨u, hx, hadv, hlv⟩ := lane_group h hwhole hr hst (hxt ▸ hvl) ha hlt hp
  have hfl : x.flags (e.withMask s.hart) (x.t.groupEnd e.start e.vl) = activeFlags e s.hart hi fun i => (f i).2 := by
    have hx2 : (fun i => (x.f i).2) = fun i => (f i).2 := funext fun i => congrArg Prod.snd (hf i).1
    rw [Lane.flags_active (groupEnd_bounds hwhole hst).1 hall, hx2, hxt]
    rfl
  have hw := hlv.writes
  have hh := hlv.hart
  rw [hval, hxt] at hw
  rw [hfl] at hh
  rw [hxt] at hadv
  exact ⟨u, hx, hadv, hlv.memory, hlv.others, hh, hw⟩

/-! ### Compares (R130, R147) -/

theorem Fmt.compare_eq (f : Fmt) (op : FCmp) (a b : Nat) : f.compare op a b =
    match (f.decode a).cmp (f.decode b) with
    | some o => (match op with
        | .eq => o == .eq
        | .lt => o == .lt
        | .le => o != .gt, Flags.none)
    | none => (false, if op = .eq then f.snanFlag a ||| f.snanFlag b else Flags.nv) := by
  unfold Fmt.compare
  cases (f.decode a).cmp (f.decode b) with
  | none => rfl
  | some o => cases op <;> cases o <;> rfl

theorem performHead_floatCompare {e : QEntry} {s : State} {d a b : BitVec 5} {op : FCmp}
    (h : floatCompareOf e = some (d, a, b, op)) : performHead e s = atOnce e s (fltCompare d a b op) := by
  unfold floatCompareOf at h
  split at h
  case h_1 c m _ _ _ hi | h_2 c m _ _ _ hi | h_3 c m _ _ _ hi =>
    cases h
    unfold performHead
    rw [hi]
  case h_4 => cases h

/-- What a compare of the oldest entry leaves: the bits, and the flags of the active elements. -/
theorem fltCompare_started {s : State} {e : QEntry} {x : Fmt} {d a b : BitVec 5} {op : FCmp} {one : Nat → Bool × Flags}
    (hety : e.ety = .flt x) (hst : e.start = 0)
    (hone : ∀ i, x.compare op (readElem s.hart.vreg s.hart.c a.toNat (.flt x) i)
      (readElem s.hart.vreg s.hart.c b.toNat (.flt x) i) = one i) :
    fltCompare d a b op (e.withMask s.hart) (s.started (e.withMask s.hart)).hart =
      (((s.started (e.withMask s.hart)).hart.putPred (e.withMask s.hart) d fun i => (one i).1).raise
        (activeFlags e s.hart e.vl fun i => (one i).2), .done) := by
  have hety' : (e.withMask s.hart).ety = .flt x := (ety_withMask e s.hart).trans hety
  have hvl : (e.withMask s.hart).vl = e.vl := by rw [withMask_eq]
  have helem (r : BitVec 5) (i : Nat) : (s.started (e.withMask s.hart)).hart.elem (e.withMask s.hart) r i =
      readElem s.hart.vreg s.hart.c r.toNat (.flt x) i := by
    unfold Hart.elem
    rw [hety']
    rfl
  unfold fltCompare activeFlags
  simp only [helem, hety', ETy.fmt, hone, hvl, hst, withMask_active, List.foldl_filter, Nat.zero_le, decide_true,
    Bool.true_and]

theorem vectorFloatCompares_claim : Claims.VectorFloatCompares := by
  intro s core e x d a b op el holds one h hv ht _ hop hst hvl hd hw
  have hop' : floatCompareOf (e.withMask s.hart) = some (d, a, b, op) := by rw [withMask_eq]; exact hop
  have hone (i : Nat) : x.compare op (el a i) (el b i) = one i := Fmt.compare_eq _ _ _ _
  have hF := fltCompare_started (s := s) (d := d) (ety_eq hv ht) hst hone
  clear_value one
  obtain ⟨hperf, hvreg, htile, hfl⟩ := (s.started (e.withMask s.hart)).hart.putPred_others (e.withMask s.hart) d
    fun i => (one i).1
  obtain ⟨u, hx, hc, hu⟩ := sole_atOnce h hst _ (performHead_floatCompare hop') hF
    (hperf.trans (Hart.raise_performs _ _))
  have hff : u.hart.fflags = s.hart.fflags ||| activeFlags e s.hart e.vl fun i => (one i).2 :=
    hu.fflags.trans (congrArg (· ||| _) hfl)
  have hk := hu.kept.eq
  rw [hff, hu.vreg.trans hvreg, hu.tile.trans htile] at hk
  exact ⟨u, hx, hc, hu.memory, hu.others, hk, predicate_writes (hu.kreg.trans (Hart.raise_kreg _ _)) hd hw hvl fun _ _ => rfl⟩

/-- Settles O27: each instruction's lane is the model's own, its results are encodings of the type, and the flags are those
of its active elements; a compare is the model's compare of two encodings. -/
theorem vectorFloatElements : Obligations.VectorFloatElements := ⟨vectorFloatElements_claim, vectorFloatCompares_claim⟩

end Sys2Proof.Machine


/-! ## `tshp`, and the entry of whole-register moves (R101, R166, R382) -/

namespace Sys2Proof.Machine
open Sys2Proof.Claims

section
variable {s : State} {i : Instr} {c : Class} {cv : List Class}

/-- An instruction that keeps the stirrup rule and the convoy rule joins its convoy (check 7 of R20). -/
theorem joining_passes (hl : s.hart.loanFits i = true) (hj : JoinsConvoy i c s.hart cv) (k : List Class → State) :
    s.joining i c k = k cv := by
  simp [State.joining, hl, joinConvoy_of hj]

/-! ### The shape (R161, R162, R166) -/

theorem matrixKind_of_operands : (∀ n ∈ floatOperands, matrixKind n = some true) ∧
    ∀ n ∈ integerOperands, matrixKind n = some false := by decide

theorem sameKind_of_operands {m n : Nat}
    (h : m ∈ floatOperands ∧ n ∈ floatOperands ∨ m ∈ integerOperands ∧ n ∈ integerOperands) : sameKind n m = true := by
  obtain ⟨hf, hi⟩ := matrixKind_of_operands
  rcases h with ⟨hm, hn⟩ | ⟨hm, hn⟩
  · simp [sameKind, hf m hm, hf n hn]
  · simp [sameKind, hi m hm, hi n hn]

theorem vtG_le {v : Word} (h : fieldOf v 8 2 ≤ 2) : vtG v ≤ 4 := Nat.pow_le_pow_right (by decide) h

theorem vtCode_eq (v : Word) : vtCode v = fieldOf v 0 8 := by simp [vtCode, fieldOf]

theorem shapeOk_of {v : Word} (hg : fieldOf v 8 2 ≤ 2)
    (h : fieldOf v 0 8 ∈ floatOperands ∧ (if fieldOf v 24 8 = 0 then fieldOf v 0 8 else fieldOf v 24 8) ∈ floatOperands ∨
      fieldOf v 0 8 ∈ integerOperands ∧
        (if fieldOf v 24 8 = 0 then fieldOf v 0 8 else fieldOf v 24 8) ∈ integerOperands) : shapeOk v = true := by
  unfold shapeOk
  rw [vtCode_eq, Bool.and_eq_true, decide_eq_true_eq]
  exact ⟨vtG_le hg, sameKind_of_operands h⟩

theorem shapeSet_eq (v : Word) (k : BitVec 5) : shapeSet v k =
    BitVec.ofNat 64 ((if fieldOf v 24 8 = 0 then fieldOf v 0 8 else fieldOf v 24 8) * 2 ^ 24 + fieldOf v 0 8 * 2 ^ 16 +
      4 * (k.toNat + 1) * 2 ^ 8 + 16 * 2 ^ fieldOf v 8 2) := by
  unfold shapeSet
  rw [vtCode_eq]
  rfl

theorem tileShape_claim : Claims.TileShape := by
  intro c k cv s et at' floats ints hlanes hw hv hvl hg hkinds hloan hj
  have hchecks : ¬ (vtVill s.hart.vtype || decide (vlmax s.hart.vtype s.viewed.c < s.hart.vl.toNat)) = true := by
    rw [vtVill_eq, hv, viewed_own hw]
    simpa using hvl
  have hok : ¬ (!shapeOk s.hart.vtype) = true := by
    rw [shapeOk_of hg hkinds]
    exact Bool.false_ne_true
  have hset : setShape (.tshp c k) k s = (s.mapHart fun h => { h.joined (.tshp c k) cv with
      tshp := if h.vl = 0 then h.tshp else shapeSet h.vtype k }).retire none := by
    unfold setShape
    exact (if_neg hchecks).trans ((if_neg hok).trans (joining_passes (by simp [Hart.loanFits, hloan]) hj _))
  have hx : exec (.tshp c k) s = .next (setShape (.tshp c k) k s) := by
    refine congrArg Host.Outcome.next ((if_neg ?_).trans (inLanes_of hlanes _))
    simp [hlanes.1]
  refine ⟨_, hx, hset ▸ ⟨⟨rfl, fun _ => rfl⟩, ?_⟩⟩
  simp only [State.retire_hart, State.mapHart_hart, Hart.joined, convoyOf_eq, shapeSet_eq]
  rfl

/-! ### Whole-register moves -/

/-- A whole-register move goes in as `enterWhole` of its class and base register. -/
theorem exec_wholeMove {b : BitVec 5} (h : wholeMoveOf i = some (c, b)) (s : State) :
    ∃ f, exec i s = .next (enterWhole i c b f s) := by
  unfold wholeMoveOf at h
  split at h
  case h_1 | h_2 | h_3 | h_4 =>
    cases h
    exact ⟨_, rfl⟩
  case h_5 => cases h

theorem wholeRegisterMoves_claim : Claims.WholeRegisterMoves := by
  intro i c b cv s hmove hlanes hl hcopy hj hq
  obtain ⟨f, hx⟩ := exec_wholeMove hmove s
  have hm : ¬ s.hart.hm = true := by simp [hlanes.1]
  have hfits : s.hart.loanFits i = true := by
    cases hn : s.hart.loan with
    | none => simp [Hart.loanFits, hn]
    | some l =>
      have hmask : l.k = 0 ∨ masked i = true := or_iff_not_imp_left.mpr (hl l hn)
      have hdc : l.dc = false ∨ writesVector i = true := by
        cases hdc : l.dc with
        | false => exact .inl rfl
        | true => exact .inr (hcopy l hn hdc)
      simpa [Hart.loanFits, hn] using And.intro hmask hdc
  rw [enterWhole, if_neg hm, inLanes_of hlanes, joining_passes hfits hj, State.push, if_neg (Nat.not_le.mpr hq)] at hx
  have he := entryOf_eq s.hart i c ⟨[b], [], True, [], fun _ => True⟩ s.stamp
  rw [← noStrides_eq] at he
  rw [he] at hx
  exact ⟨_, hx, leavesFrontEnd s i c cv _⟩

end

end Sys2Proof.Machine


/-! ## Writes of local memory through a slot of KEYID 0 (R200, R318, R333) -/

namespace Sys2Proof.Machine
open Sys2Proof.Claims

/-! ### Places within a line -/

theorem regionOf_remote_iff {a d o : Nat} : regionOf a = .remote d o ↔
    2 ^ 50 ≤ a ∧ a < 2 ^ 51 ∧ (a - 2 ^ 50) / 2 ^ 42 = d ∧ (a - 2 ^ 50) % 2 ^ 42 = o := by
  unfold regionOf scratchBase windowBase
  split_ifs <;> simp <;> omega

theorem State.canon_eq (s : State) (a : Nat) : s.canon a =
    if 2 ^ 50 ≤ a ∧ a < 2 ^ 51 ∧ (a - 2 ^ 50) / 2 ^ 42 = s.devIndex.toNat then (a - 2 ^ 50) % 2 ^ 42 else a := by
  unfold State.canon
  cases hr : regionOf a with
  | remote d o =>
    obtain ⟨h1, h2, rfl, rfl⟩ := regionOf_remote_iff.1 hr
    exact if_congr ⟨fun h => ⟨h1, h2, h⟩, fun h => h.2.2⟩ rfl rfl
  | hbm | tier | scratch | window | host | nowhere =>
    refine (if_neg fun h => ?_).symm
    have := hr.symm.trans (regionOf_remote_iff.2 ⟨h.1, h.2.1, rfl, rfl⟩)
    cases this

section
variable {s : State} {a k : Nat}

/-- The bytes of a line follow one another in the canonical address. -/
theorem State.canon_add (s : State) (h : a % 64 + k < 64) :
    s.canon (a + k) = s.canon a + k ∧ s.canon a % 64 + k < 64 := by
  rw [s.canon_eq, s.canon_eq]
  split_ifs <;> omega

/-- Where entries cover whole lines, the entry of a byte is that of its line. -/
theorem wholeLines_fwdAt (hw : WholeLines s) (h : a % 64 + k < 64) (mode : BitVec 2) :
    s.fwdAt mode (a + k) = s.fwdAt mode a := by
  unfold State.fwdAt
  congr 1
  refine List.find?_congr fun p hp => ?_
  have hlen : p.1.len.toNat % 64 = 0 := hw p.1 (List.mem_of_getElem? (List.mem_zipIdx_iff_getElem?.1 hp))
  have hin : p.1.old.toNat * 64 ≤ a + k ∧ a + k < p.1.old.toNat * 64 + p.1.len.toNat ↔
      p.1.old.toNat * 64 ≤ a ∧ a < p.1.old.toNat * 64 + p.1.len.toNat := by omega
  simp only [hin]

theorem fwdAt_holds {mode : BitVec 2} {i : Nat} {x : FwdEntry} (h : s.fwdAt mode a = some (i, x)) :
    x.old.toNat * 64 ≤ a := by
  obtain ⟨p, hp, hx⟩ := Option.map_eq_some_iff.1 h
  have hp := List.find?_some hp
  simp only [Bool.and_eq_true, decide_eq_true_eq] at hp
  cases hx
  exact hp.2.1

/-- The bytes of a line are performed one after the other. -/
theorem wholeLines_forward (hw : WholeLines s) (h : a % 64 + k < 64) : s.forward (a + k) = s.forward a + k := by
  unfold State.forward
  rw [wholeLines_fwdAt hw h]
  cases hf : s.fwdAt 2 a with
  | none => rfl
  | some p =>
    have := fwdAt_holds hf
    dsimp only
    omega

theorem LocalMemory.key_eq (h : LocalMemory s a) (core : BitVec 8) : s.key core a = s.canon a := by
  unfold State.key
  rcases h with ⟨_, _, h⟩ | ⟨_, _, h⟩ <;> simp only [h]

theorem LocalMemory.performedAt_add (h : LocalMemory s a) (hk : LocalMemory s (a + k)) (hw : WholeLines s)
    (hline : a % 64 + k < 64) : performedAt s (a + k) = performedAt s a + k := by
  obtain ⟨hcanon, hline'⟩ := s.canon_add hline
  rw [performedAt, performedAt, h.key_eq, hk.key_eq, hcanon, wholeLines_forward hw hline']

end

/-! ### One write to a line -/

section
variable {s t u : State} {c : Ctx} {st : FabricStream} {sw : SlotWord} {ref : SlotRef} {w : MemWrite} {a n : Nat}

/-- A state that writes of memory have changed: bytes, line MACs, the lines that are dirty, and no line more is lost. -/
structure WritesLines (s t : State) : Prop where
  frame : t = { s with mem := t.mem, macs := t.macs, lost := t.lost, dirty := t.dirty }
  lost : ∀ l ∈ t.lost, l ∈ s.lost

theorem WritesLines.refl (s : State) : WritesLines s s := ⟨rfl, fun _ => id⟩

theorem WritesLines.trans (h : WritesLines s t) (k : WritesLines t u) : WritesLines s u where
  frame := by rw [k.frame, h.frame]
  lost l hl := h.lost l (k.lost l hl)

theorem State.markDirty_writes (s : State) (line : Nat) (k w : BitVec 10) : WritesLines s (s.markDirty line k w) := by
  unfold State.markDirty
  dsimp only
  split
  · split <;> exact ⟨rfl, fun _ => id⟩
  · split <;> exact ⟨rfl, fun _ => id⟩
  · exact .refl s

theorem State.putLine_writes (s : State) (p : Nat) (bs : List Byte) (m : BitVec 32) : WritesLines s (s.putLine p bs m) :=
  ⟨rfl, fun _ h => (List.mem_filter.1 h).1⟩

theorem State.commit_writes (h : s.commit w = some t) : WritesLines s t := by
  have hd (b : Bool) (line : Nat) (k v : BitVec 10) (p : Nat) (bs : List Byte) (m : BitVec 32) :
      WritesLines s ((if b then s.markDirty line k v else s).putLine p bs m) := by
    refine .trans ?_ (State.putLine_writes _ p bs m)
    cases b
    · exact .refl s
    · exact s.markDirty_writes line k v
  unfold State.commit at h
  dsimp only at h
  split at h
  · cases h
  · split at h
    · cases h; exact hd _ _ _ _ _ _ _
    · split at h
      · cases h
      · split at h
        · cases h; exact hd _ _ _ _ _ _ _
        · cases h

/-- A write to local memory that no forwarding entry holds is performed at once. -/
theorem LocalMemory.sendWrite_eq (h : LocalMemory s a) (hk : w.key = s.key c.core a) (hh : t.holder? c w.key = none) :
    t.sendWrite c st w = t.commit w := by
  have hreg : regionOf w.key = regionOf (s.canon a) := by rw [hk, h.key_eq]
  unfold State.sendWrite
  rcases h with ⟨_, _, h⟩ | ⟨_, _, h⟩ <;> simp only [hreg, h, hh]

theorem NotHeldBack.holder_none (h : NotHeldBack s a) (hw : c.world = s.ctx.world) (hc : c.core = s.hart.core)
    (ht : WritesLines s t) : t.holder? c (s.key c.core a) = none := by
  have hf : t.fwdAt 1 (s.key c.core a) = s.fwdAt 1 (s.key s.hart.core a) := by
    rw [ht.frame, hc]
    rfl
  unfold State.holder?
  rcases h with h | h
  · simp [hw, h]
  · rw [hf, h]
    exact ite_self _

/-! ### The lines of a block -/

/-- The bytes of a block are where they are performed, and every other byte is as before. -/
structure BytesPlaced (s : State) (a : Nat) (bs : List Byte) (t u : State) : Prop where
  inside : ∀ o, o < bs.length → Bytes.get u.mem (performedAt s (a + o)) = bs.getD o 0
  outside : ∀ x, (∀ o, o < bs.length → x ≠ performedAt s (a + o)) → Bytes.get u.mem x = Bytes.get t.mem x

theorem plainPlace_drop (h : PlainPlace s (ref, a) n) {k : Nat} (hk : k < n) : PlainPlace s (ref, a + k) (n - k) := by
  obtain ⟨hkey, hw, -, hloc, hinj, hlost⟩ := h
  refine ⟨hkey, hw, (hloc k hk).1, fun o ho => ?_, fun o q ho hq he => ?_, fun o ho => ?_⟩
  · rw [Nat.add_assoc]
    exact hloc _ (by omega)
  · rw [Nat.add_assoc, Nat.add_assoc] at he
    have := hinj (k + o) (k + q) (by omega) (by omega) he
    omega
  · rw [Nat.add_assoc]
    exact hlost _ (by omega)

/-- The first part of a block, within one line, is performed at its place. -/
theorem plainPlace_sendWrite (h : PlainPlace s (ref, a) n) (hcw : c.world = s.ctx.world)
    (hcc : c.core = s.hart.core) (ht : WritesLines s t) (hm : t.memOk = true) (hk : w.key = s.key c.core a)
    (h0 : w.keyid = 0) (hlen : w.data.length ≤ n) (hpos : 0 < w.data.length) (hline : a % 64 + w.data.length ≤ 64) :
    ∃ u, t.sendWrite c st w = some u ∧ WritesLines s u ∧ u.memOk = true ∧ BytesPlaced s a w.data t u := by
  obtain ⟨-, hw, -, hloc, -, hlost⟩ := h
  obtain ⟨hloc0, hfree⟩ := hloc 0 (by omega)
  have hlost0 := hlost 0 (by omega)
  rw [Nat.add_zero] at hloc0 hfree hlost0
  have hp : t.forward w.key = performedAt s a := by
    rw [hk, hcc, ht.frame]
    rfl
  have hadd (o : Nat) (ho : o < w.data.length) : performedAt s (a + o) = performedAt s a + o :=
    hloc0.performedAt_add (hloc o (by omega)).1 hw (by omega)
  have hnot : t.lost.contains (t.forward w.key / 64 * 64) = false := by
    rw [hp, List.contains_eq_mem, decide_eq_false_iff_not]
    exact fun hl => hlost0 (ht.lost _ hl)
  obtain ⟨u, hu, hout, hin⟩ := t.commit_plain w h0 hm hnot
  rw [hp] at hout hin
  have hmu := State.commit_memOk hm hu
  have hsend : t.sendWrite c st w = t.commit w :=
    hloc0.sendWrite_eq hk (hk ▸ hfree.holder_none hcw hcc ht)
  refine ⟨u, hsend.trans hu, ht.trans (State.commit_writes hu), hmu, fun o ho => ?_, fun x hx => hout x ?_⟩
  · rw [Bytes.read_eq hmu] at hin
    rw [hadd o ho, List.getD_eq_getElem?_getD]
    conv_rhs => rw [← hin]
    rw [List.getElem?_map, List.getElem?_range ho]
    rfl
  · by_contra hc
    refine hx (x - performedAt s a) (by omega) ?_
    rw [hadd _ (by omega)]
    omega

/-- One step of `writeBytes`: the next part of the bytes goes to its line. -/
def State.writePart (s : State) (c : Ctx) (st : FabricStream) (sw : SlotWord) (acc : Option State × List Byte)
    (p : Nat × Nat) : Option State × List Byte :=
  match acc.1 with
  | none => acc
  | some t => (t.sendWrite c st ⟨s.key c.core p.1, acc.2.take p.2, sw.keyid, sw.version, p.1 - sw.lo, c.world,
      sw.attr.toNat < 2, st.wholeLines⟩, acc.2.drop p.2)

theorem State.writeBytes_eq (s : State) (c : Ctx) (st : FabricStream) (sw : SlotWord) (a : Nat) (bs : List Byte) :
    s.writeBytes c st sw a bs = ((linesOf a bs.length).foldl (s.writePart c st sw)
      (some (s.claimAll c.world (s.key c.core a) bs.length), bs)).1 := rfl

/-- A first part and the bytes after it are a block. -/
theorem BytesPlaced.append {bs : List Byte} {k : Nat} {v : State} (h : PlainPlace s (ref, a) bs.length)
    (hk : k ≤ bs.length) (hfirst : BytesPlaced s a (bs.take k) t v)
    (hrest : BytesPlaced s (a + k) (bs.drop k) v u) : BytesPlaced s a bs t u := by
  obtain ⟨-, -, -, -, hinj, -⟩ := h
  have htake : (bs.take k).length = k := List.length_take_of_le hk
  have hdrop : (bs.drop k).length = bs.length - k := List.length_drop
  have hfar (o : Nat) : a + k + o = a + (k + o) := Nat.add_assoc a k o
  refine ⟨fun o ho => ?_, fun x hx => ?_⟩
  · by_cases hok : o < k
    · rw [hrest.outside _ fun q hq he => ?_, hfirst.inside o (by omega)]
      · simp [List.getD_eq_getElem?_getD, List.getElem?_take_of_lt hok]
      · rw [hfar] at he
        have := hinj o (k + q) ho (by omega) he
        omega
    · have := hrest.inside (o - k) (by omega)
      rw [hfar, Nat.add_sub_cancel' (Nat.le_of_not_lt hok)] at this
      rw [this]
      simp [List.getD_eq_getElem?_getD, List.getElem?_drop, Nat.add_sub_cancel' (Nat.le_of_not_lt hok)]
  · rw [hrest.outside x fun o ho => hfar o ▸ hx (k + o) (by omega), hfirst.outside x fun o ho => hx o (by omega)]

theorem BytesPlaced.nil (s : State) (a : Nat) (t : State) : BytesPlaced s a [] t t :=
  ⟨fun o ho => absurd ho (Nat.not_lt_zero o), fun _ _ => rfl⟩

/-- A block is performed line by line. -/
theorem plainPlace_writeParts (hcw : c.world = s.ctx.world) (hcc : c.core = s.hart.core) (fuel : Nat) (a : Nat)
    (bs : List Byte) (hfuel : bs = [] ∨ a % 64 + bs.length ≤ 64 * fuel) (h : bs ≠ [] → PlainPlace s (ref, a) bs.length)
    (t : State) (ht : WritesLines s t) (hm : t.memOk = true) :
    ∃ u, ((lineParts fuel a bs.length).foldl (s.writePart c st ref.word) (some t, bs)).1 = some u ∧ WritesLines s u ∧
      BytesPlaced s a bs t u := by
  induction fuel generalizing a bs t with
  | zero =>
    obtain rfl : bs = [] := hfuel.elim id fun hf => List.eq_nil_of_length_eq_zero (by omega)
    exact ⟨t, rfl, ht, .nil s a t⟩
  | succ fuel ih =>
    by_cases hb : bs = []
    · subst hb
      exact ⟨t, rfl, ht, .nil s a t⟩
    · have hpos : 0 < bs.length := List.length_pos_iff.2 hb
      have hmod := Nat.mod_lt a (show 0 < 64 by decide)
      have hparts : lineParts (fuel + 1) a bs.length = (a, min bs.length (64 - a % 64)) ::
          lineParts fuel (a + min bs.length (64 - a % 64)) (bs.length - min bs.length (64 - a % 64)) :=
        if_neg (by omega)
      generalize hk : min bs.length (64 - a % 64) = k at hparts
      have htake : (bs.take k).length = k := List.length_take_of_le (by omega)
      have hrest : (bs.drop k).length = bs.length - k := List.length_drop
      obtain ⟨v, hv, hwv, hmv, hfirst⟩ := plainPlace_sendWrite (w := ⟨s.key c.core a, bs.take k, ref.word.keyid,
        ref.word.version, a - ref.word.lo, c.world, ref.word.attr.toNat < 2, st.wholeLines⟩) (st := st) (h hb) hcw hcc ht
        hm rfl (h hb).1 (by dsimp only; omega) (by dsimp only; omega) (by dsimp only; omega)
      have hstep : s.writePart c st ref.word (some t, bs) (a, k) = (some v, bs.drop k) := congrArg (·, bs.drop k) hv
      have hfuel' : bs.drop k = [] ∨ (a + k) % 64 + (bs.drop k).length ≤ 64 * fuel := by
        rcases Nat.le_total bs.length (64 - a % 64) with hle | hle
        · exact .inl (List.eq_nil_of_length_eq_zero (by omega))
        · have := hfuel.resolve_left hb
          exact .inr (by omega)
      have hplain : bs.drop k ≠ [] → PlainPlace s (ref, a + k) (bs.drop k).length := fun hne => by
        have := List.length_pos_iff.2 hne
        rw [hrest]
        exact plainPlace_drop (h hb) (by omega)
      obtain ⟨u, hu, hwu, hplaced⟩ := ih (a + k) (bs.drop k) hfuel' hplain v hwv hmv
      rw [hrest] at hu
      refine ⟨u, ?_, hwu, hfirst.append (h hb) (by omega) hplaced⟩
      rw [hparts, List.foldl_cons, hstep]
      exact hu

end

end Sys2Proof.Machine


/-! ## Whole registers: their loads and stores (R382) -/

namespace Sys2Proof.Machine
open Sys2Proof.Claims

/-! ### Blocks of bytes -/

theorem Bytes.get_dropWhile (m : Bytes) {a x : Nat} (h : a ≤ x) :
    Bytes.get (m.dropWhile fun c => decide (c.1 < a)) x = Bytes.get m x := by
  induction m with
  | nil => rfl
  | cons c m ih =>
    rw [List.dropWhile_cons]
    split
    · next hc =>
      have hc := of_decide_eq_true hc
      rw [ih, Bytes.get, if_neg (by omega), if_neg (by omega)]
    · rfl

theorem Bytes.read_get (m : Bytes) (a n : Nat) :
    Bytes.read m a n = (List.range n).map fun i => Bytes.get m (a + i) :=
  List.map_congr_left fun i _ => m.get_dropWhile (Nat.le_add_right a i)

/-- What a long read gives are the bytes at its positions. -/
theorem Bytes.readLong_get (k : Nat) (m : Bytes) (a : Nat) :
    Bytes.readLong k m a (64 * k) = (List.range (64 * k)).map fun i => Bytes.get m (a + i) := by
  induction k generalizing m a with
  | zero => rfl
  | succ k ih =>
    have hn : 64 * (k + 1) = 64 + 64 * k := by omega
    rw [Bytes.readLong, Nat.min_eq_right (by omega), hn, Nat.add_sub_cancel_left, ih, Bytes.read_get, List.range_add,
      List.map_append, List.map_map]
    congr 1
    · exact List.map_congr_left fun i _ => m.get_dropWhile (Nat.le_add_right a i)
    · refine List.map_congr_left fun i _ => ?_
      rw [m.get_dropWhile (by omega), Nat.add_assoc]
      rfl

theorem Bytes.get_cells (bs : List Byte) (o : Nat) : Bytes.get (Bytes.cells 0 bs) o = bs.getD o 0 := by
  have h := Bytes.get_write (m := []) rfl 0 bs o
  have e : Bytes.write [] 0 bs = Bytes.cells 0 bs := List.append_nil _
  rw [e, Nat.sub_zero, Nat.zero_add] at h
  rw [h]
  split
  · rfl
  · rw [List.getD_eq_getElem?_getD, List.getElem?_eq_none (by omega)]
    rfl

theorem imageBytes_lines (share : BitVec 3) : 64 * (imageBytes share / 64) = imageBytes share := by
  unfold imageBytes
  omega

theorem imageBytes_pos {share : BitVec 3} (h : share ≠ 0) : imageBytes share ≠ 0 := by
  have : share.toNat ≠ 0 := fun h0 => h (BitVec.eq_of_toNat_eq h0)
  unfold imageBytes
  omega

/-- A write to a plain place is performed at once, line by line, and every byte gets its place. -/
theorem plainPlace_writeBytes {s : State} {ref : SlotRef} {a : Nat} {bs : List Byte} (h : PlainPlace s (ref, a) bs.length)
    (hm : Memory.wf s.mem = true) (st : FabricStream) :
    ∃ u, s.writeBytes s.ctx st ref.word a bs = some u ∧ WritesLines s u ∧ BytesPlaced s a bs s u := by
  have hloc : LocalMemory s a := h.2.2.1
  rw [s.writeBytes_eq, s.claimAll_low _ _ _ (hloc.key_low _)]
  exact plainPlace_writeParts rfl rfl _ a bs (.inr (by omega)) (fun _ => h) s (.refl s) hm

/-! ### A micro-operation under way -/

section
variable {s t u : State} {core : BitVec 8} {e : QEntry} {ref : SlotRef} {a n : Nat} {bs : List Byte}

/-- Beside the page counters and the events that they post, only what a micro-operation of the acting hart changes differs. -/
def Issuing (s t : State) : Prop :=
  ∃ g p ev l, Kept s.hart g ∧ t = { s with hart := g, pages := p, events := ev, eventLost := l }

theorem State.started_issuing (s : State) (e : QEntry) : Issuing s (s.started e) :=
  ⟨_, _, _, _, s.started_kept e, rfl⟩

theorem Issuing.counts (h : Issuing s t) (hu : u = counted t u) : Issuing s u := by
  obtain ⟨g, _, _, _, hk, rfl⟩ := h
  exact ⟨g, _, _, _, hk, hu⟩

theorem Issuing.kept (h : Issuing s t) : Kept s.hart t.hart := by
  obtain ⟨g, _, _, _, hk, rfl⟩ := h
  exact hk

theorem Issuing.viewed (h : Issuing s t) (hv : s.hart.view = .own) : t.viewed = t.hart := by
  obtain ⟨_, _, _, _, ⟨_, _, _, _, _, _, _, rfl⟩, rfl⟩ := h
  exact viewed_own hv

theorem Issuing.ctx (h : Issuing s t) : t.ctx = s.ctx := by
  obtain ⟨_, _, _, _, ⟨_, _, _, _, _, _, _, rfl⟩, rfl⟩ := h
  rfl

theorem wholeCtx_eq (hm : s.hart.hm = false) : s.wholeCtx = s.ctx := by
  unfold State.wholeCtx
  rw [hm]
  rfl

theorem Issuing.wholeCtx (h : Issuing s t) (hm : s.hart.hm = false) : t.wholeCtx = t.ctx := by
  obtain ⟨_, _, _, _, ⟨_, _, _, _, _, _, _, rfl⟩, rfl⟩ := h
  exact wholeCtx_eq hm

theorem Issuing.c (h : Issuing s t) : t.hart.c = s.hart.c := by
  obtain ⟨_, _, _, _, ⟨_, _, _, _, _, _, _, rfl⟩, rfl⟩ := h
  rfl

theorem Issuing.wholeProbe (h : Issuing s t) (hm : s.hart.hm = false) (hv : s.hart.view = .own) (x : Operand)
    (need : BitVec 4) : t.wholeProbe x need =
      s.probe s.ctx ⟨slotIndex x.tag, x.val.toNat, s.hart.c, 64, need, false, true, false⟩ := by
  rw [State.wholeProbe, h.wholeCtx hm, h.viewed hv, h.c, h.ctx]
  obtain ⟨_, _, _, _, ⟨_, _, _, _, _, _, _, rfl⟩, rfl⟩ := h
  rfl

/-- The access to a whole register at an address passes its probe with a slot. -/
def PassesWhole (s : State) (x : Operand) (need : BitVec 4) (ref : SlotRef) : Prop :=
  s.probe s.ctx ⟨slotIndex x.tag, x.val.toNat, s.hart.c, 64, need, false, true, false⟩ = .ok ref

theorem PassesWhole.wholeProbe {x : Operand} {need : BitVec 4} (hp : PassesWhole s x need ref) (h : Issuing s t)
    (hm : s.hart.hm = false) (hv : s.hart.view = .own) : t.wholeProbe x need = .ok ref :=
  (h.wholeProbe hm hv x need).trans hp

theorem Issuing.plainPlace (h : Issuing s t) (hp : PlainPlace s (ref, a) n) : PlainPlace t (ref, a) n := by
  obtain ⟨_, _, _, _, ⟨_, _, _, _, _, _, _, rfl⟩, rfl⟩ := h
  exact hp

theorem Issuing.readsAs (h : Issuing s t) (hp : ReadsAs s (ref, a) n bs) : ReadsAs t (ref, a) n bs := by
  obtain ⟨_, _, _, _, ⟨_, _, _, _, _, _, _, rfl⟩, rfl⟩ := h
  exact hp

theorem Issuing.bytesPlaced (h : Issuing s t) (hp : BytesPlaced t a bs t u) : BytesPlaced s a bs s u := by
  obtain ⟨_, _, _, _, ⟨_, _, _, _, _, _, _, rfl⟩, rfl⟩ := h
  exact ⟨hp.inside, hp.outside⟩

theorem State.countWrite_counts (s : State) (c : Ctx) (sw : SlotWord) (a n : Nat) :
    s.countWrite c sw a n = counted s (s.countWrite c sw a n) :=
  iteInduction (motive := fun t => t = counted s t) (fun _ => rfl) fun _ => s.countAccess_counts sw a n

/-- Writes of memory are vector writes. -/
theorem Issuing.writes (h : Issuing s t) (hw : WritesLines t u) : VectorWrites s u ∧ u.hart = t.hart := by
  obtain ⟨_, _, _, _, _, rfl⟩ := h
  rw [VectorWrites, hw.frame]
  exact ⟨rfl, rfl⟩

/-! ### The accesses of a whole register -/

section
variable (h : Issuing s t) (hv : s.hart.view = .own) {x : Operand}
include h hv

theorem Issuing.viewed_c : t.viewed.c = s.hart.c := by rw [h.viewed hv, h.c]

variable (hsh : s.hart.share ≠ 0)
include hsh

theorem Issuing.viewed_c_ne : ¬ t.viewed.c = 0 := by
  rw [h.viewed_c hv]
  exact imageBytes_pos hsh

variable (hm : s.hart.hm = false)
include hm

/-- The image of a register or predicate is stored where its bytes are performed. -/
theorem Issuing.wholeStore_eq (hmem : Memory.wf s.mem = true) (hp : PassesWhole s x needWrite ref)
    (hplain : PlainPlace s (ref, x.val.toNat) s.hart.c) (pred : Bool) (v : BitVec 5) :
    ∃ u, wholeStore pred v x t = .done u ∧ u.hart = t.hart ∧ VectorWrites s u ∧
      OnlyBytes x.val.toNat s.hart.c s u ∧ ∀ o, o < s.hart.c →
        Bytes.get u.mem (performedAt s (x.val.toNat + o)) = Bytes.get (t.hart.image pred v) o := by
  have hread := Bytes.readLong_get (s.hart.c / 64) (t.hart.image pred v) 0
  rw [show 64 * (s.hart.c / 64) = s.hart.c from imageBytes_lines _] at hread
  generalize hbs : (List.range s.hart.c).map (fun i => Bytes.get (t.hart.image pred v) (0 + i)) = bs at hread
  have hlen : bs.length = s.hart.c := by rw [← hbs, List.length_map, List.length_range]
  have hcount := t.countWrite_counts t.ctx ref.word x.val.toNat s.hart.c
  unfold wholeStore
  dsimp only
  rw [if_neg (h.viewed_c_ne hv hsh), hp.wholeProbe h hm hv, h.wholeCtx hm, h.viewed_c hv, h.viewed hv, hread]
  dsimp only
  generalize t.countWrite t.ctx ref.word x.val.toNat s.hart.c = w at hcount ⊢
  have hw := h.counts hcount
  have hmem' : Memory.wf w.mem = true := by
    obtain ⟨_, _, _, _, _, rfl⟩ := hw
    exact hmem
  obtain ⟨u, hu, hlines, hbytes⟩ := plainPlace_writeBytes (hlen ▸ hw.plainPlace hplain) hmem' (.vector t.hart.ser)
  rw [show w.ctx = t.ctx from hw.ctx.trans h.ctx.symm] at hu
  obtain ⟨hwrites, hhart⟩ := hw.writes hlines
  obtain ⟨hin, hout⟩ := hw.bytesPlaced hbytes
  rw [hlen] at hin hout
  rw [hu]
  refine ⟨u, rfl, hhart.trans (counted_hart hcount), hwrites, hout, fun o ho => ?_⟩
  rw [hin o ho, ← hbs]
  simp [List.getD_eq_getElem?_getD, List.getElem?_range ho]

/-- A whole register is loaded with the bytes at its address. -/
theorem Issuing.wholeLoad_eq (hl : s.hart.life = .running) (hp : PassesWhole s x needRead ref)
    (hr : ReadsAs s (ref, x.val.toNat) s.hart.c bs) (pred : Bool) (vs : List Nat) (asked : Bool)
    (answer : Option (Bool × List Byte)) :
    ∃ u, wholeLoad pred vs x asked answer t = .done u ∧ u.hart = t.hart.setImage pred vs bs ∧ CountsOnly s u := by
  obtain ⟨-, hloc, hfree, -⟩ := h.readsAs hr
  have hhost : t.atHost x.val.toNat = none := by
    unfold State.atHost
    rcases hloc with ⟨_, _, hreg⟩ | ⟨_, _, hreg⟩ <;> rw [hreg]
  have hheld : ¬ t.heldAny s.hart.c [x.val.toNat] = true := by
    unfold State.heldAny
    rw [List.any_cons, List.any_nil, Bool.or_false, hfree.free]
    exact Bool.false_ne_true
  have hcount := t.countAccess_counts ref.word x.val.toNat s.hart.c
  unfold wholeLoad
  dsimp only
  rw [if_neg (h.viewed_c_ne hv hsh), hp.wholeProbe h hm hv, h.viewed_c hv, hhost]
  dsimp only
  rw [if_neg hheld, (hloc.counted hcount).beforeRead_eq]
  generalize t.countAccess ref.word x.val.toNat s.hart.c = w at hcount ⊢
  have hw := h.counts hcount
  obtain ⟨-, -, -, hread⟩ := hw.readsAs hr
  have hlife : w.hart.life = .running := by
    obtain ⟨_, _, _, _, _, _, _, he⟩ := hw.kept
    rw [he]
    exact hl
  have hact : (w.hart.alive && w.hart.ser == w.hart.ser) = true := by simp [Hart.alive, hlife]
  rw [if_neg (not_not_intro hlife), hw.wholeCtx hm, hread]
  refine ⟨w.mapHart fun g => g.setImage pred vs bs, ?_, congrArg (Hart.setImage · pred vs bs) (counted_hart hcount), ?_⟩
  · dsimp only
    rw [hw.viewed hv, State.updHart, if_pos hact]
  · obtain ⟨_, _, _, _, _, rfl⟩ := hw
    exact ⟨rfl, fun _ => rfl⟩

end

/-- The oldest entry completes with a micro-operation that changes the registers of the hart alone, if anything of it. -/
theorem sole_completes_of (h : SoleIssuer core s e) (h0 : e.start = 0)
    (hp : performHead (e.withMask s.hart) (s.started (e.withMask s.hart)) = .done t)
    (hg : Performs (s.started (e.withMask s.hart)).hart t.hart) :
    Yields (.microopIssue core) s fun u => Completes s u ∧ u = t.popHead := by
  have hk := (s.started_kept _).trans (hg.kept.trans t.hart.popHead_kept)
  have hq : t.hart.queue = e.withMask s.hart :: s.hart.queue.tail ∧ t.hart.vstart = s.hart.vstart := by
    obtain ⟨_, _, _, _, he⟩ := hg
    rw [he]
    exact ⟨started_queue s _ e (sole_queue h), rfl⟩
  have hser : t.popHead.hart.ser = s.hart.ser := by
    obtain ⟨_, _, _, _, _, _, _, he⟩ := hk
    exact (congrArg Hart.ser he).trans rfl
  exact ⟨_, sole_exec h (sole_done h (sole_notOver h (by omega)) hp) hser,
    popHead_completes (sole_queue h) hq.1 hq.2 (by rw [withMask_eq]), rfl⟩

end

end Sys2Proof.Machine


/-! ## The effects of whole-register moves (R382) -/

namespace Sys2Proof.Machine
open Sys2Proof.Claims

section
variable {e : QEntry} {h : Hart} {t : State} {x : BitVec 1} {v b : BitVec 5} (h0 : e.start = 0)
include h0

theorem performHead_vsr (hi : e.instr = .vsr x v b) :
    performHead (e.withMask h) t = wholeStore false v e.ops[0] t := by
  rw [withMask_eq]
  unfold performHead
  rw [hi]
  exact if_neg (not_not_intro h0)

theorem performHead_vsrPredicate (hi : e.instr = .vsrPredicate x v b) :
    performHead (e.withMask h) t = wholeStore true v e.ops[0] t := by
  rw [withMask_eq]
  unfold performHead
  rw [hi]
  exact if_neg (not_not_intro h0)

theorem performHead_vlr (hi : e.instr = .vlr x v b) :
    performHead (e.withMask h) t = wholeLoad false (e.copies v) e.ops[0] e.asked e.answer t := by
  rw [withMask_eq]
  unfold performHead
  rw [hi]
  exact if_neg (not_not_intro h0)

theorem performHead_vlrPredicate (hi : e.instr = .vlrPredicate x v b) :
    performHead (e.withMask h) t = wholeLoad true [v.toNat] e.ops[0] e.asked e.answer t := by
  rw [withMask_eq]
  unfold performHead
  rw [hi]
  exact if_neg (not_not_intro h0)

end

/-! ### The image of a register or predicate -/

theorem setImage_registers (h : Hart) (l : List Nat) (bs : List Byte) (k : Nat) (hk : k < 32) :
    (h.setImage false l bs).vreg[k] = if k ∈ l then ⟨64, Bytes.cells 0 bs⟩ else h.vreg[k] := by
  rw [← regAt_eq _ hk, ← regAt_eq _ hk]
  exact regAt_foldl_setReg _ l h.vreg hk

theorem setImage_predicate (h : Hart) {v : Nat} (hv : v < 12) (bs : List Byte) :
    (h.setImage true [v] bs).kreg = h.kreg.set v (Bytes.cells 0 bs) hv := dif_pos hv

section
variable {s : State} {core : BitVec 8} {e : QEntry}

/-! ### A fault of the oldest entry -/

/-- A hart that could take a trap can take one with another queue in which nothing is at the host. -/
theorem canTrap_of_queue {q : List QEntry} {n : Nat} (hc : CanTrap s)
    (hq : (q.any fun e => e.asked || e.answer.isSome || !e.early.isEmpty) = false) :
    CanTrap { s with hart := { s.hart with queue := q, convoyRun := n } } := by
  obtain ⟨hl, hhm, hb, hvec, hset⟩ := hc
  exact ⟨hl, hhm, Bool.or_eq_false_iff.2 ⟨(Bool.or_eq_false_iff.1 hb).1, hq⟩, hvec, hset⟩

/-- What a trap says of a state does not hang on its queue. -/
theorem trapsHere_of_queue {t : State} {cause : Nat} {detail val : Word} {q : List QEntry} {n : Nat}
    (ht : TrapsHere cause detail val { s with hart := { s.hart with queue := q, convoyRun := n } } t) :
    TrapsHere cause detail val s t := by
  obtain ⟨hframe, hmem, hregs⟩ := ht
  exact ⟨hframe, hmem, hregs⟩

/-- A trap into the handler keeps the serial number of the hart. -/
theorem State.takeTrap_ser {cause : Nat} {detail val : Word} (hc : CanTrap s) (hq : violation cause detail = false) :
    (s.takeTrap cause detail val).hart.ser = s.hart.ser := by
  obtain ⟨hl, hhm, hb, hvec, hp⟩ := hc
  have e : s.takeTrap cause detail val = s.enterTrap cause detail val := by
    unfold State.takeTrap
    simp only [Hart.not_busy hb, Bool.false_eq_true, if_false, s.settle_eq hp, hl, hhm, ne_eq, not_true_eq_false, hq,
      Bool.and_false]
  obtain ⟨v, q, b, m, c, l, hs⟩ := s.saveContext_eq
  rw [e, State.enterTrap, hs]
  exact (congrArg (fun t : State => t.hart.ser) (if_neg hvec)).trans rfl

theorem started_settled (h : SoleIssuer core s e) (x : QEntry) : (s.started x).updHead QEntry.settled = { s with
    hart := { s.hart with queue := x.settled :: s.hart.queue.tail, convoyRun := x.convoy } } := by
  unfold State.started State.updHead State.mapHart
  dsimp only
  rw [sole_queue h]
  rfl

/-- The oldest entry has nothing at the host once it is settled, nor have the younger ones where a trap can be taken. -/
theorem settled_noneAsked (h : SoleIssuer core s e) (hc : CanTrap s) :
    (((e.withMask s.hart).settled :: s.hart.queue.tail).any fun e => e.asked || e.answer.isSome || !e.early.isEmpty) = false := by
  obtain ⟨-, -, hb, -⟩ := hc
  have hb := (Bool.or_eq_false_iff.1 hb).2
  unfold Hart.queueAsks at hb
  rw [sole_queue h] at hb
  simp only [List.any_cons, Bool.or_eq_false_iff] at hb ⊢
  obtain ⟨⟨-, hearly⟩, hrest⟩ := hb
  refine ⟨⟨⟨rfl, rfl⟩, ?_⟩, hrest⟩
  rw [withMask_eq]
  exact hearly

/-- An access of the oldest entry whose probe fails is the fault of its element. -/
theorem sole_fault {d i a : Nat} (h : SoleIssuer core s e) (h0 : e.start = 0)
    (hp : performHead (e.withMask s.hart) (s.started (e.withMask s.hart)) = .fault d i a) :
    issueHead s = some (((s.started (e.withMask s.hart)).updHead QEntry.settled).accessFault d i a) := by
  have ho := sole_notOver h (by omega)
  unfold issueHead
  rw [sole_queue h]
  simp only [ho, sole_convoy h, Bool.false_eq_true, if_false, hp]

/-- A whole-register move whose probe fails is a fault at element 0. -/
theorem performHead_wholeMove_faults {t : State} {d : Nat} (h0 : e.start = 0) (hi : wholeMoveOf e.instr ≠ none)
    (hc : ¬ t.viewed.c = 0)
    (hp : ∀ need, t.wholeProbe e.ops[0] need = .error d) :
    performHead (e.withMask s.hart) t = .fault d 0 (e.ops[0]).val.toNat := by
  have hstore (pred : Bool) (v : BitVec 5) : wholeStore pred v e.ops[0] t = .fault d 0 (e.ops[0]).val.toNat := by
    unfold wholeStore
    dsimp only
    rw [if_neg hc, hp]
  have hload (pred : Bool) (l : List Nat) :
      wholeLoad pred l e.ops[0] e.asked e.answer t = .fault d 0 (e.ops[0]).val.toNat := by
    unfold wholeLoad
    dsimp only
    rw [if_neg hc, hp]
  generalize hins : e.instr = i at hi
  unfold wholeMoveOf at hi
  split at hi
  case h_1 => exact (performHead_vsr h0 hins).trans (hstore _ _)
  case h_2 => exact (performHead_vsrPredicate h0 hins).trans (hstore _ _)
  case h_3 => exact (performHead_vlr h0 hins).trans (hload _ _)
  case h_4 => exact (performHead_vlrPredicate h0 hins).trans (hload _ _)
  case h_5 => exact absurd rfl hi

end

/-! ### Loads and stores of the oldest entry -/

section
variable {s : State} {core : BitVec 8} {e : QEntry} {ref : SlotRef} {bs : List Byte} (h : SoleIssuer core s e)
  (h0 : e.start = 0) (hv : s.hart.view = .own) (hsh : s.hart.share ≠ 0)
include h h0 hv hsh

section
variable (hm : s.hart.hm = false)
include hm

theorem sole_wholeStore (hp : PassesWhole s e.ops[0] needWrite ref)
    (hmem : Memory.wf s.mem = true) (hplain : PlainPlace s (ref, (e.ops[0]).val.toNat) s.hart.c) (pred : Bool)
    (v : BitVec 5) (hperf : performHead (e.withMask s.hart) (s.started (e.withMask s.hart)) =
      wholeStore pred v e.ops[0] (s.started (e.withMask s.hart))) :
    Yields (.microopIssue core) s fun u => Completes s u ∧ VectorWrites s u ∧
      u.hart = { s.hart with queue := u.hart.queue, vstart := u.hart.vstart, convoyRun := u.hart.convoyRun } ∧
      OnlyBytes (e.ops[0]).val.toNat s.hart.c s u ∧ ∀ o, o < s.hart.c →
        Bytes.get u.mem (performedAt s ((e.ops[0]).val.toNat + o)) = Bytes.get (s.hart.image pred v) o := by
  obtain ⟨t, ht, hhart, hw, hout, hin⟩ :=
    (s.started_issuing (e.withMask s.hart)).wholeStore_eq hv hsh hm hmem hp hplain pred v
  obtain ⟨u, hx, hc, rfl⟩ := sole_completes_of h h0 (hperf.trans ht) (hhart ▸ ⟨_, _, _, _, rfl⟩)
  refine ⟨_, hx, hc, congrArg State.popHead hw, ?_, hout, hin⟩
  rw [show t.popHead.hart = _ from congrArg Hart.popHead hhart]
  rfl

theorem sole_wholeLoad (hp : PassesWhole s e.ops[0] needRead ref)
    (hr : ReadsAs s (ref, (e.ops[0]).val.toNat) s.hart.c bs) (pred : Bool) (l : List Nat) {asked : Bool}
    {answer : Option (Bool × List Byte)}
    (hperf : performHead (e.withMask s.hart) (s.started (e.withMask s.hart)) =
      wholeLoad pred l e.ops[0] asked answer (s.started (e.withMask s.hart))) :
    Yields (.microopIssue core) s fun u => Completes s u ∧ CountsOnly s u ∧ u.hart = { s.hart.setImage pred l bs with
      queue := u.hart.queue, vstart := u.hart.vstart, convoyRun := u.hart.convoyRun } := by
  obtain ⟨t, ht, hhart, hcount, hmem⟩ :=
    (s.started_issuing (e.withMask s.hart)).wholeLoad_eq hv hsh hm h.1 hp hr pred l asked answer
  have hperforms : Performs (s.started (e.withMask s.hart)).hart t.hart := by
    rw [hhart]
    cases pred <;> exact ⟨_, _, _, _, rfl⟩
  obtain ⟨u, hx, hc, rfl⟩ := sole_completes_of h h0 (hperf.trans ht) hperforms
  refine ⟨_, hx, hc, ⟨congrArg State.popHead hcount, hmem⟩, ?_⟩
  rw [show t.popHead.hart = _ from congrArg Hart.popHead hhart]
  cases pred <;> rfl

/-- `vlr` of a vector register. -/
theorem sole_vlr (hp : PassesWhole s e.ops[0] needRead ref)
    (hr : ReadsAs s (ref, (e.ops[0]).val.toNat) s.hart.c bs) {x : BitVec 1} {v b : BitVec 5} (hi : e.instr = .vlr x v b) :
    Yields (.microopIssue core) s fun u => Completes s u ∧ CountsOnly s u ∧ u.hart = { s.hart with
        queue := u.hart.queue, vstart := u.hart.vstart, convoyRun := u.hart.convoyRun, vreg := u.hart.vreg } ∧
      (∀ r ∈ destinations e v, (u.hart.vreg[r.toNat]).width = 64 ∧
        ∀ o, Bytes.get (u.hart.vreg[r.toNat]).img o = bs.getD o 0) ∧
      ∀ q : BitVec 5, q ∉ destinations e v → u.hart.vreg[q.toNat] = s.hart.vreg[q.toNat] := by
  obtain ⟨u, hx, hc, hcount, hhart⟩ := sole_wholeLoad h h0 hv hsh hm hp hr false _ (performHead_vlr h0 hi)
  have hreg (q : BitVec 5) : u.hart.vreg[q.toNat] =
      if q ∈ destinations e v then ⟨64, Bytes.cells 0 bs⟩ else s.hart.vreg[q.toNat] := by
    have hs := setImage_registers s.hart (e.copies v) bs q.toNat q.isLt
    simp only [mem_copies_reg] at hs
    rw [← hs, hhart]
  refine ⟨u, hx, hc, hcount, by rw [hhart]; rfl, fun r hr => ?_, fun q hq => (hreg q).trans (if_neg hq)⟩
  rw [hreg, if_pos hr]
  exact ⟨rfl, Bytes.get_cells bs⟩

/-- `vlr` of a predicate. -/
theorem sole_vlrPredicate (hp : PassesWhole s e.ops[0] needRead ref)
    (hr : ReadsAs s (ref, (e.ops[0]).val.toNat) s.hart.c bs) {x : BitVec 1} {v b : BitVec 5}
    (hi : e.instr = .vlrPredicate x v b) (hk : v.toNat < 12) :
    Yields (.microopIssue core) s fun u => Completes s u ∧ CountsOnly s u ∧ u.hart = { s.hart with
        queue := u.hart.queue, vstart := u.hart.vstart, convoyRun := u.hart.convoyRun, kreg := u.hart.kreg } ∧
      (∀ o, Bytes.get (u.hart.kreg.toList.getD v.toNat []) o = bs.getD o 0) ∧
      ∀ q : Fin 12, q.val ≠ v.toNat → u.hart.kreg[q] = s.hart.kreg[q] := by
  obtain ⟨u, hx, hc, hcount, hhart⟩ := sole_wholeLoad h h0 hv hsh hm hp hr true _ (performHead_vlrPredicate h0 hi)
  have hpred : u.hart.kreg = s.hart.kreg.set v.toNat (Bytes.cells 0 bs) hk := by
    rw [hhart]
    exact setImage_predicate s.hart hk bs
  refine ⟨u, hx, hc, hcount, by rw [hhart]; rfl, fun o => ?_, fun q hq => ?_⟩
  · rw [hpred]
    simpa [List.getD_eq_getElem?_getD, hk] using Bytes.get_cells bs o
  · rw [hpred]
    exact Vector.getElem_set_ne _ _ (Ne.symm hq)

end

/-! ### An unaligned address -/

/-- A whole-register move to or from an unaligned address is the misaligned fault of element 0. -/
theorem sole_wholeMove_misaligned (hm : s.hart.hm = false) (hi : wholeMoveOf e.instr ≠ none)
    (ha : (e.ops[0]).val.toNat % 64 ≠ 0) (hc : CanTrap s) :
    Yields (.microopIssue core) s (TrapsHere 5 1 (e.ops[0]).val s) := by
  have hiss := s.started_issuing (e.withMask s.hart)
  have hperf := performHead_wholeMove_faults (s := s) h0 hi (hiss.viewed_c_ne hv hsh) (d := 1) fun need => by
    rw [hiss.wholeProbe hm hv]
    exact if_pos ha
  have hcan := canTrap_of_queue (n := (e.withMask s.hart).convoy) hc (settled_noneAsked h hc)
  have hfault := sole_fault h h0 hperf
  have hval : BitVec.ofNat 64 (e.ops[0]).val.toNat = (e.ops[0]).val := BitVec.eq_of_toNat_eq (by simp)
  rw [State.accessFault, if_pos (by decide), State.faultAt, hval, started_settled h] at hfault
  exact ⟨_, sole_exec h hfault (State.takeTrap_ser hcan rfl),
    trapsHere_of_queue (State.takeTrap_enters _ 5 1 _ hcan (.inr rfl))⟩

end

theorem wholeRegisterEffects_claim : Claims.WholeRegisterEffects := by
  intro s core e ref c a passes stores image h h0 hv hm hsh _
  refine ⟨fun hp hmem hplain => ⟨fun x v b hi => ?_, fun x v b hi => ?_⟩,
    fun bs hp hr => ⟨fun x v b hi => ?_, fun x v b hi hk => ?_⟩, fun hi ha hc => ?_⟩
  · exact sole_wholeStore h h0 hv hsh hm hp hmem hplain false v (performHead_vsr h0 hi)
  · exact sole_wholeStore h h0 hv hsh hm hp hmem hplain true v (performHead_vsrPredicate h0 hi)
  · exact sole_vlr h h0 hv hsh hm hp hr hi
  · exact sole_vlrPredicate h h0 hv hsh hm hp hr hi hk
  · exact sole_wholeMove_misaligned h h0 hv hsh hm hi ha hc

/-- Settles O24: the entry of `tshp` and of the whole-register moves is read off their front-end checks; a whole-register
store is performed line by line, and each byte of the image reaches the place where its address is performed. -/
theorem tileShapeAndWholeMoves : Obligations.TileShapeAndWholeMoves :=
  ⟨tileShape_claim, wholeRegisterMoves_claim, wholeRegisterEffects_claim⟩

end Sys2Proof.Machine

/-! ## Scalar instructions: their results (R93, R114, R118 to R121) -/

namespace Sys2Proof.Machine
open Sys2Proof.Claims

/-! ### One form of completion -/

/-- An instruction whose meaning is one write of an x register writes that result and changes nothing else. -/
theorem yields_writeBack {i : Instr} {s : State} {d : BitVec 5} {v : Word} {tag : Option (BitVec 16)}
    (h : exec i s = .next (s.writeBack d v tag)) : Yields i s (WritesX d v tag s) :=
  ⟨_, h, s.writeBack_writesX d v tag⟩

/-! ### Wrap (R93) and the operations of words -/

theorem wrap64_toInt (x : Word) : wrap64 x.toInt = x := BitVec.ofInt_toInt

theorem wrap64_toNat (x : Word) : wrap64 (x.toNat : Int) = x := by
  rw [wrap64, BitVec.ofInt_natCast, BitVec.ofNat_toNat, BitVec.setWidth_eq]

theorem wrap64_add (u v : Int) : wrap64 (u + v) = wrap64 u + wrap64 v := BitVec.ofInt_add u v

theorem wrap64_mul (u v : Int) : wrap64 (u * v) = wrap64 u * wrap64 v := BitVec.ofInt_mul u v

theorem wrap64_sub (u v : Int) : wrap64 (u - v) = wrap64 u - wrap64 v := by
  rw [Int.sub_eq_add_neg, wrap64_add, BitVec.sub_eq_add_neg, wrap64, wrap64, wrap64, BitVec.ofInt_neg]

theorem wrap64_mul_pow (u : Int) (n : Nat) : wrap64 (u * 2 ^ n) = wrap64 u <<< n := by
  have hpow : wrap64 (2 ^ n) = BitVec.twoPow 64 n := by
    have hcast : (2 ^ n : Int) = ((2 ^ n : Nat) : Int) := by push_cast; rfl
    rw [hcast, wrap64, BitVec.ofInt_natCast]
    exact BitVec.eq_of_toNat_eq (by simp)
  rw [wrap64_mul, hpow, BitVec.shiftLeft_eq_mul_twoPow]

/-- A division of the unsigned value rounds down, as a logical shift does. -/
theorem wrap64_toNat_div_pow (x : Word) (n : Nat) : wrap64 ((x.toNat : Int) / 2 ^ n) = x >>> n := by
  have hcast : (x.toNat : Int) / 2 ^ n = ((x.toNat >>> n : Nat) : Int) := by
    rw [Nat.shiftRight_eq_div_pow]
    push_cast
    rfl
  rw [hcast, ← BitVec.toNat_ushiftRight, wrap64_toNat]

/-- A division of the signed value rounds down, as an arithmetic shift does. -/
theorem wrap64_toInt_div_pow (x : Word) (n : Nat) : wrap64 (x.toInt / 2 ^ n) = x.sshiftRight n := ofInt_div_pow x n

theorem wrap64_toNat_mod_pow (x : Word) (n : Nat) :
    wrap64 ((x.toNat : Int) % 2 ^ n) = (x.setWidth n).setWidth 64 := by
  apply BitVec.eq_of_toNat_eq
  have hcast : (x.toNat : Int) % 2 ^ n = ((x.toNat % 2 ^ n : Nat) : Int) := by push_cast; rfl
  rw [hcast, wrap64, BitVec.ofInt_natCast, BitVec.toNat_ofNat, BitVec.toNat_setWidth, BitVec.toNat_setWidth]

theorem wrap64_min (x y : Word) : wrap64 (min x.toInt y.toInt) = if y.slt x then y else x := by
  rw [BitVec.slt_eq_decide]
  by_cases h : y.toInt < x.toInt
  · rw [min_eq_right h.le, wrap64_toInt, if_pos (decide_eq_true h)]
  · rw [min_eq_left (Int.not_lt.1 h), wrap64_toInt, if_neg (by simpa using h)]

theorem wrap64_max (x y : Word) : wrap64 (max x.toInt y.toInt) = if x.slt y then y else x := by
  rw [BitVec.slt_eq_decide]
  by_cases h : x.toInt < y.toInt
  · rw [max_eq_right h.le, wrap64_toInt, if_pos (decide_eq_true h)]
  · rw [max_eq_left (Int.not_lt.1 h), wrap64_toInt, if_neg (by simpa using h)]

theorem wrap64_mulhu (x y : Word) :
    wrap64 ((x.toNat : Int) * (y.toNat : Int) / 2 ^ 64) = BitVec.ofNat 64 (x.toNat * y.toNat / 2 ^ 64) := by
  rw [← BitVec.ofInt_natCast]
  push_cast
  rfl

theorem boolWord_slt (x y : Word) : boolWord (x.slt y) = if x.toInt < y.toInt then 1 else 0 := by
  rw [boolWord, BitVec.slt_eq_decide]
  exact if_congr decide_eq_true_iff rfl rfl

theorem boolWord_ult (x y : Word) : boolWord (x.ult y) = if (x.toNat : Int) < (y.toNat : Int) then 1 else 0 := by
  rw [boolWord, BitVec.ult_eq_decide]
  exact if_congr (decide_eq_true_iff.trans Int.ofNat_lt.symm) rfl rfl

theorem sumTag_eq (a b : Option (BitVec 16)) : sumTag a b = addTag a b := (addTag_eq a b).symm

theorem differenceTag_eq (a b : Option (BitVec 16)) : differenceTag a b = subTag a b := (subTag_eq a b).symm

/-! ### Register-register instructions (R118) -/

/-- Each register-register row is one write of its formula's value and tag. -/
theorem exec_binary {i : Instr} {s : State} {d : BitVec 5} {v : Word} {tag : Option (BitVec 16)}
    (h : binaryResult i s.hart = some (d, v, tag)) : exec i s = .next (s.writeBack d v tag) := by
  cases i
  case add => cases h; rw [wrap64_add, wrap64_toInt, wrap64_toInt, sumTag_eq]; rfl
  case sub => cases h; rw [wrap64_sub, wrap64_toInt, wrap64_toInt, differenceTag_eq]; rfl
  case and | or | xor => cases h; rfl
  case sll => cases h; rw [wrap64_mul_pow, wrap64_toNat]; rfl
  case srl => cases h; rw [wrap64_toNat_div_pow]; rfl
  case sra => cases h; rw [wrap64_toInt_div_pow]; rfl
  case slt => cases h; rw [← boolWord_slt]; rfl
  case sltu => cases h; rw [← boolWord_ult]; rfl
  case min => cases h; rw [wrap64_min]; rfl
  case max => cases h; rw [wrap64_max]; rfl
  case mul => cases h; rw [wrap64_mul, wrap64_toInt, wrap64_toInt]; rfl
  case mulh => cases h; rfl
  case mulhu => cases h; rw [wrap64_mulhu]; rfl
  case sextb | sexth | sextw => cases h; rfl
  case zexth | zextw => cases h; rw [wrap64_toNat_mod_pow]; rfl
  all_goals cases h

theorem scalarRegisterResults_claim : Claims.ScalarRegisterResults :=
  fun _ _ _ _ _ h => yields_writeBack (exec_binary h)

/-! ### Bit counts (R118) -/

theorem clz64_isCount (x : Word) : clz64 x ≤ 64 ∧ (∀ k, k < clz64 x → x.getLsbD (63 - k) = false) ∧
    (clz64 x < 64 → x.getLsbD (63 - clz64 x) = true) := by
  unfold clz64
  split
  case isTrue h => simp [h]
  case isFalse h =>
    have h0 : x.toNat ≠ 0 := fun e => h (BitVec.eq_of_toNat_eq e)
    have hlog : Nat.log2 x.toNat < 64 := (Nat.log2_lt h0).2 x.isLt
    refine ⟨by omega, fun k hk => ?_, fun _ => ?_⟩
    · refine Nat.testBit_lt_two_pow (Nat.lt_of_lt_of_le Nat.lt_log2_self (Nat.pow_le_pow_right (by decide) ?_))
      omega
    · rw [show 63 - (63 - Nat.log2 x.toNat) = Nat.log2 x.toNat by omega]
      exact Nat.testBit_log2 h0

theorem ctz64_isCount (x : Word) : ctz64 x ≤ 64 ∧ (∀ k, k < ctz64 x → x.getLsbD k = false) ∧
    (ctz64 x < 64 → x.getLsbD (ctz64 x) = true) := by
  unfold ctz64
  cases hx : leastFrom x.getLsbD 0 64 with
  | none => exact ⟨Nat.le_refl 64, fun k hk => leastFrom_none hx (Nat.zero_le k) (by simpa using hk),
    fun h => absurd h (lt_irrefl 64)⟩
  | some n =>
    obtain ⟨-, hn, hbelow⟩ := leastFrom_some hx
    have hlt : n < 64 := BitVec.lt_of_getLsbD hn
    exact ⟨hlt.le, fun k hk => hbelow k (Nat.zero_le k) hk, fun _ => hn⟩

theorem sum_map_toNat (p : Nat → Bool) (l : List Nat) : (l.map fun k => (p k).toNat).sum = (l.filter p).length := by
  induction l with
  | nil => rfl
  | cons k l ih =>
    rw [List.map_cons, List.sum_cons, ih]
    cases hk : p k with
    | false => rw [List.filter_cons_of_neg (by simp [hk]), Bool.toNat_false, Nat.zero_add]
    | true => rw [List.filter_cons_of_pos hk, List.length_cons, Bool.toNat_true, Nat.add_comm]

theorem bitCounts_claim : Claims.BitCounts := by
  intro i s d a h
  cases i
  case clz => cases h; exact ⟨clz64 _, clz64_isCount _, yields_writeBack rfl⟩
  case ctz => cases h; exact ⟨ctz64 _, ctz64_isCount _, yields_writeBack rfl⟩
  case popc => cases h; exact ⟨popc64 _, (sum_map_toNat _ _).symm, yields_writeBack rfl⟩
  all_goals cases h

/-- Settles O1: each row is one write of an x register, and Wrap of its formula is the word operation of the model. -/
theorem scalarRegisterResults : Obligations.ScalarRegisterResults := ⟨scalarRegisterResults_claim, bitCounts_claim⟩

/-! ### Division (R119) -/

theorem sdiv_eq (x y : Word) : x.sdiv y = wrap64 (x.toInt.tdiv y.toInt) := by
  apply BitVec.eq_of_toInt_eq
  rw [BitVec.toInt_sdiv, wrap64, BitVec.toInt_ofInt]

theorem srem_eq (x y : Word) : x.srem y = wrap64 (x.toInt.tmod y.toInt) := by
  rw [← BitVec.toInt_srem, wrap64_toInt]

theorem udiv_eq (x y : Word) : x / y = wrap64 ((x.toNat : Int) / (y.toNat : Int)) := by
  rw [← wrap64_toNat (x / y), BitVec.toNat_udiv]
  push_cast
  rfl

theorem umod_eq (x y : Word) : x % y = wrap64 ((x.toNat : Int) % (y.toNat : Int)) := by
  rw [← wrap64_toNat (x % y), BitVec.toNat_umod]
  push_cast
  rfl

theorem toInt_eq_zero (y : Word) : y.toInt = 0 ↔ y = 0 := by
  rw [← BitVec.toInt_inj]
  rfl

theorem toNat_cast_eq_zero (y : Word) : (y.toNat : Int) = 0 ↔ y = 0 := by
  rw [Int.natCast_eq_zero, ← BitVec.toNat_inj]
  rfl

/-- The overflow case of `div` is that of Wrap: the quotient 2^63 wraps to −2^63. -/
theorem div_value (x y : Word) :
    (if y.toInt = 0 then 0xFFFFFFFFFFFFFFFF else if x.toInt = -2 ^ 63 ∧ y.toInt = -1 then wrap64 (-2 ^ 63)
      else wrap64 (x.toInt.tdiv y.toInt)) = if y = 0 then BitVec.allOnes 64 else x.sdiv y := by
  refine if_congr (toInt_eq_zero y) rfl ?_
  rw [sdiv_eq]
  split
  case isTrue h => rw [h.1, h.2]; decide
  case isFalse => rfl

theorem rem_value (x y : Word) :
    (if y.toInt = 0 then x else if x.toInt = -2 ^ 63 ∧ y.toInt = -1 then 0
      else wrap64 (x.toInt - y.toInt * x.toInt.tdiv y.toInt)) = if y = 0 then x else x.srem y := by
  refine if_congr (toInt_eq_zero y) rfl ?_
  rw [srem_eq, ← Int.tmod_def]
  split
  case isTrue h => rw [h.1, h.2]; decide
  case isFalse => rfl

theorem divu_value (x y : Word) :
    (if (y.toNat : Int) = 0 then 0xFFFFFFFFFFFFFFFF else wrap64 ((x.toNat : Int) / y.toNat)) =
      if y = 0 then BitVec.allOnes 64 else x / y :=
  if_congr (toNat_cast_eq_zero y) rfl (udiv_eq x y).symm

theorem remu_value (x y : Word) :
    (if (y.toNat : Int) = 0 then x else wrap64 ((x.toNat : Int) - y.toNat * ((x.toNat : Int) / y.toNat))) =
      if y = 0 then x else x % y := by
  refine if_congr (toNat_cast_eq_zero y) rfl ?_
  rw [umod_eq, Int.emod_def]

theorem exec_division {i : Instr} {s : State} {d : BitVec 5} {v : Word}
    (h : divisionResult i s.hart = some (d, v)) : exec i s = .next (s.writeBack d v) := by
  cases i
  case div => cases h; rw [div_value]; rfl
  case divu => cases h; rw [divu_value]; rfl
  case rem => cases h; rw [rem_value]; rfl
  case remu => cases h; rw [remu_value]; rfl
  all_goals cases h

theorem divisionResults_claim : Claims.DivisionResults := fun _ _ _ _ h => yields_writeBack (exec_division h)

theorem sdiv_mul_add_srem (x y : Word) : x.sdiv y * y + x.srem y = x := by
  rw [sdiv_eq, srem_eq]
  calc wrap64 (x.toInt.tdiv y.toInt) * y + wrap64 (x.toInt.tmod y.toInt)
      = wrap64 (x.toInt.tdiv y.toInt * y.toInt + x.toInt.tmod y.toInt) := by rw [wrap64_add, wrap64_mul, wrap64_toInt]
    _ = x := by rw [Int.tdiv_mul_add_tmod, wrap64_toInt]

theorem udiv_mul_add_umod (x y : Word) : x / y * y + x % y = x := by
  rw [udiv_eq, umod_eq]
  calc wrap64 ((x.toNat : Int) / y.toNat) * y + wrap64 ((x.toNat : Int) % y.toNat)
      = wrap64 ((x.toNat : Int) / y.toNat * y.toNat + (x.toNat : Int) % y.toNat) := by
        rw [wrap64_add, wrap64_mul, wrap64_toNat]
    _ = x := by rw [Int.ediv_mul_add_emod, wrap64_toNat]

/-- A quotient and a remainder that agree with the identity for every other divisor do so for 0 as R119 fixes them. -/
theorem division_identity {x y q r : Word} (h : q * y + r = x) :
    (if y = 0 then BitVec.allOnes 64 else q) * y + (if y = 0 then x else r) = x := by
  split
  case isTrue h0 => rw [h0, mul_zero, zero_add]
  case isFalse => exact h

theorem xr_of_writeBack {s t : State} {d : BitVec 5} {v : Word} (hd : d ≠ 0) 
    (h : (.next (s.writeBack d v) : Out) = .next t) :
    t.hart.xr d = v := by
  cases h
  rw [State.writeBack_hart, Hart.xr_retire, Hart.setX_xr, if_pos ⟨rfl, hd⟩]

theorem divisionIdentity_claim : Claims.DivisionIdentity := by
  intro s t u d e a b hd he
  refine ⟨fun hq hr => ?_, fun hq hr => ?_⟩
  · rw [xr_of_writeBack hd hq, xr_of_writeBack he hr]
    exact division_identity (sdiv_mul_add_srem _ _)
  · rw [xr_of_writeBack hd hq, xr_of_writeBack he hr]
    exact division_identity (udiv_mul_add_umod _ _)

/-- Settles O2: the stated values are the words' own quotients and remainders, and the identity is that of the integers
under Wrap. -/
theorem divisionResults : Obligations.DivisionResults := ⟨divisionResults_claim, divisionIdentity_claim⟩

/-! ### Immediate instructions (R120, R121) -/

theorem wrap64_imm21 (n : BitVec 21) : wrap64 (n.toInt * 2 ^ 16) = imm21 n := wrap64_mul_pow n.toInt 16

theorem exec_immediate {i : Instr} {s : State} {d : BitVec 5} {v : Word} {tag : Option (BitVec 16)}
    (h : immediateResult i s.hart = some (d, v, tag)) : exec i s = .next (s.writeBack d v tag) := by
  cases i
  case addi => cases h; rw [wrap64_add, wrap64_toInt]; rfl
  case andi | ori => cases h; rfl
  case slli => cases h; rw [wrap64_mul_pow, wrap64_toNat]; rfl
  case srli => cases h; rw [wrap64_toNat_div_pow]; rfl
  case srai => cases h; rw [wrap64_toInt_div_pow]; rfl
  case lui => cases h; rw [wrap64_imm21]; rfl
  case auipc => cases h; rw [wrap64_add, wrap64_toNat, wrap64_imm21]; rfl
  all_goals cases h

/-- Settles O3: each row is one write of an x register, and Wrap of its formula is the word operation of the model. -/
theorem immediateResults : Obligations.ImmediateResults :=
  fun _ _ _ _ _ h => yields_writeBack (exec_immediate h)

end Sys2Proof.Machine

/-! ## Control flow (R18, R22, R23, R122 to R125) -/

namespace Sys2Proof.Machine
open Sys2Proof.Claims

/-! ### Targets -/

theorem target_eq {n : Nat} (pc : Word) (o : BitVec n) : target pc o.toInt = pc + (o.signExtend 64 <<< 2) := by
  calc target pc o.toInt
      = wrap64 ((pc.toNat : Int) + o.toInt * 2 ^ 2) := by rw [mul_comm o.toInt]; rfl
    _ = pc + (o.signExtend 64 <<< 2) := by rw [wrap64_add, wrap64_toNat, wrap64_mul_pow]; rfl

theorem target16_eq (pc : Word) (o : BitVec 16) : target16 pc o = target pc o.toInt := (target_eq pc o).symm

theorem target26_eq (pc : Word) (o : BitVec 26) : target26 pc o = target pc o.toInt := (target_eq pc o).symm

/-! ### Where execution goes on -/

theorem State.goto_onlyPc (s : State) (p : Word) : OnlyPc s (s.goto p) ∧ (s.goto p).hart.pc = p :=
  ⟨⟨⟨rfl, fun _ => rfl⟩, rfl⟩, rfl⟩

/-- One result in x[d], after which execution goes on at `p`. -/
theorem WritesX.jump {d : BitVec 5} {v : Word} {tag : Option (BitVec 16)} {s t : State} (h : WritesX d v tag s t)
    (p : Word) : OnlyX d s (t.mapHart fun h => { h with pc := p }) ∧
      HoldsX (t.mapHart fun h => { h with pc := p }).hart d v tag ∧
      (t.mapHart fun h => { h with pc := p }).hart.pc = p := by
  obtain ⟨⟨⟨hstate, hmem⟩, hhart, hregs⟩, hholds, -⟩ := h
  refine ⟨⟨⟨?_, hmem⟩, ?_, hregs⟩, hholds, rfl⟩
  · rw [hstate]; rfl
  · rw [State.mapHart_hart, hhart]

/-! ### Branches (R122, R123) -/

theorem not_slt (x y : Word) : (!x.slt y) = decide (x.toInt ≥ y.toInt) := by
  rw [BitVec.slt_eq_decide, ← decide_not]
  exact decide_eq_decide.2 Int.not_lt

theorem not_ult (x y : Word) : (!x.ult y) = decide (x.toNat ≥ y.toNat) := by
  rw [BitVec.ult_eq_decide, ← decide_not]
  exact decide_eq_decide.2 Nat.not_lt

/-- Each compare-and-branch is `branch` on the condition of its row. -/
theorem exec_branch {i : Instr} {s : State} {c : Bool} {o : BitVec 16} (h : branchOf i s.hart = some (c, o)) :
    exec i s = branch c o s := by
  cases i
  case beq => cases h; rfl
  case bne => cases h; rw [decide_not]; rfl
  case blt => cases h; rw [← BitVec.slt_eq_decide]; rfl
  case bge => cases h; rw [← not_slt]; rfl
  case bltu => cases h; rw [← BitVec.ult_eq_decide]; rfl
  case bgeu => cases h; rw [← not_ult]; rfl
  all_goals cases h

theorem branches_claim : Claims.Branches := by
  intro i s c o h
  rw [← target16_eq]
  exact ⟨_, exec_branch h, s.goto_onlyPc _⟩

theorem exec_bcnt_zero (o : BitVec 16) (s : State) : exec (.bcnt 0 o) s = .next s.illegal := rfl

theorem exec_bcnt {a : BitVec 5} (ha : a ≠ 0) (o : BitVec 16) (s : State) :
    exec (.bcnt a o) s = .next
      (if s.hart.xr a - 1 = 0 then s.writeBack a (s.hart.xr a - 1) (s.hart.tagOf a)
       else (s.writeBack a (s.hart.xr a - 1) (s.hart.tagOf a)).mapHart fun h =>
        { h with pc := target s.hart.pc o.toInt }) := by
  rw [← target16_eq]
  exact if_neg ha

theorem countedLoop_claim : Claims.CountedLoop := by
  refine fun a o s => ⟨fun ha => ⟨_, exec_bcnt ha o s, ?_⟩, fun ha ht => ?_⟩
  · have hw := s.writeBack_writesX a (s.hart.xr a - 1) (s.hart.tagOf a)
    by_cases hn : s.hart.xr a - 1 = 0
    · rw [if_pos hn, if_neg (not_not.2 hn)]
      exact hw
    · rw [if_neg hn, if_pos hn]
      exact hw.jump _
  · subst ha
    exact ⟨_, exec_bcnt_zero o s, s.illegal_traps ht⟩

/-- Settles O6: a branch is `goto` of the one or the other address, and `bcnt` is one write of an x register with or
without a jump. -/
theorem branchesAndCountedLoop : Obligations.BranchesAndCountedLoop := ⟨branches_claim, countedLoop_claim⟩

/-! ### Jumps (R124, R125) -/

theorem exec_j (o : BitVec 26) (s : State) : exec (.j o) s = .next (s.goto (target s.hart.pc o.toInt)) := by
  rw [← target26_eq]
  rfl

theorem exec_jal (o : BitVec 26) (s : State) : exec (.jal o) s =
    .next ((s.writeBack 1 (s.hart.pc + 4)).mapHart fun h => { h with pc := target s.hart.pc o.toInt }) := by
  rw [← target26_eq]
  rfl

/-- The target of `jalr` is read from xa before the link is written, whether or not xd is xa. -/
theorem exec_jalr (d a : BitVec 5) (n : BitVec 16) (s : State) : exec (.jalr d a n) s =
    let t := s.hart.xr a + BitVec.ofInt 64 n.toInt
    if t.toNat % 4 ≠ 0 then .next (s.takeTrap 3 0 t)
    else .next ((s.writeBack d (s.hart.pc + 4)).mapHart fun h => { h with pc := t }) := rfl

/-- Settles O7: j is a `goto`; jal and an aligned jalr are one write of the link with a jump; a misaligned jalr is a trap
of cause 3, which is no violation of a tenant. -/
theorem jumps : Obligations.Jumps := by
  refine fun s d a n o => ⟨⟨_, exec_j o s, s.goto_onlyPc _⟩,
    ⟨_, exec_jal o s, (s.writeBack_writesX 1 _ none).jump _⟩, fun h => ?_, fun h ht => ?_⟩
  · exact ⟨_, (exec_jalr d a n s).trans (if_neg (not_not.2 h)), (s.writeBack_writesX d _ none).jump _⟩
  · exact ⟨_, (exec_jalr d a n s).trans (if_pos h), s.takeTrap_enters 3 0 _ ht (.inr rfl)⟩

end Sys2Proof.Machine

/-! ## Scalar floating instructions (R98, R101, R102, R126 to R131) -/

namespace Sys2Proof.Machine
open Sys2Proof.Claims

/-! ### One result with its flags (R126, R127) -/

/-- SEED advances under SR alone, which is code 5 of FRM. -/
theorem nextSeed_ofCode (frm : BitVec 3) (seed : Word) :
    nextSeed (RMode.ofCode frm.toNat) seed = if frm = 5 then seed + 1 else seed := by
  have hmode : ∀ m : BitVec 3, RMode.ofCode m.toNat = .sr ↔ m = 5 := by decide
  rw [← if_congr (hmode frm) rfl rfl]
  cases RMode.ofCode frm.toNat <;> rfl

/-- The hart after the flags and the seed of a scalar floating instruction, before its result. -/
def Hart.rounded (h : Hart) (fl : Flags) : Hart :=
  { h with fflags := h.fflags ||| fl, seed := if h.frm = 5 then h.seed + 1 else h.seed }

theorem scalarFloat_writes {s : State} {d : BitVec 5} {f : RMode → Word → Nat × Flags} {v : Nat} {fl : Flags}
    (hf : f (RMode.ofCode s.hart.frm.toNat) (rndWord s.hart.seed 0) = (v, fl)) :
    FloatWrites d v fl s (scalarFloat d f s) := by
  have hs : scalarFloat d f s = { s with hart :=
      ((s.hart.rounded fl).setX d (BitVec.ofNat 64 v) none).retire (some d) } := by
    rw [Hart.rounded, ← nextSeed_ofCode]
    unfold scalarFloat Hart.scalarMode
    dsimp only
    rw [hf]
    rfl
  rw [hs]
  obtain ⟨hother, hd⟩ := (s.hart.rounded fl).setX_holds d (BitVec.ofNat 64 v) none
  refine ⟨⟨rfl, fun _ => rfl⟩, ?_, hother, hd⟩
  rw [Hart.setX_eq]
  rfl

/-- An instruction that is one scalar floating result writes it. -/
theorem yields_scalarFloat {i : Instr} {s : State} {d : BitVec 5} {f : RMode → Word → Nat × Flags} {v : Nat}
    {fl : Flags} (h : exec i s = .next (scalarFloat d f s))
    (hf : f (RMode.ofCode s.hart.frm.toNat) (rndWord s.hart.seed 0) = (v, fl)) : Yields i s (FloatWrites d v fl s) :=
  ⟨_, h, scalarFloat_writes hf⟩

/-- Each instruction of major 0x02 is one result of the function that its row names. -/
theorem exec_float {i : Instr} {s : State} {d : BitVec 5} {r : Nat × Flags}
    (h : floatResult i s.hart = some (d, r)) : ∃ f : RMode → Word → Nat × Flags,
      exec i s = .next (scalarFloat d f s) ∧ f (RMode.ofCode s.hart.frm.toNat) (rndWord s.hart.seed 0) = r := by
  cases i
  case faddd | fsubd | fmuld | fdivd | fsqrtd | fmad | fmind | fmaxd | feqd | fltd | fled | fadds | fmuls | fmas |
      fcvtsd | fcvtds | fcvtld | fcvtdl =>
    cases h
    exact ⟨_, rfl, rfl⟩
  all_goals cases h

/-- Settles O4: each instruction is `scalarFloat` of its row's function, which does what R126 and R127 say once for all. -/
theorem scalarFloatResults : Obligations.ScalarFloatResults := by
  intro i s d v fl h
  obtain ⟨f, hx, hf⟩ := exec_float h
  exact yields_scalarFloat hx hf

end Sys2Proof.Machine

/-! ## Compares and extremes of FP64 (R90, R91, R129, R130) -/

namespace Sys2Proof.Machine
open Sys2Proof.Claims

/-! ### The value of an encoding -/

/-- What the bits of an FP64 encoding stand for (R90, R91): bits 62 to 52 are the exponent, bits 51 to 0 the fraction. -/
theorem decode64_eq (x : Word) : Fmt.fp64.decode x.toNat =
    if x.toNat % 2 ^ 63 / 2 ^ 52 = 2047 then
      if x.toNat % 2 ^ 63 % 2 ^ 52 = 0 then .inf (decide (2 ^ 63 ≤ x.toNat)) else .nan
    else if x.toNat % 2 ^ 63 / 2 ^ 52 = 0 then
      .num (decide (2 ^ 63 ≤ x.toNat)) (x.toNat % 2 ^ 63 % 2 ^ 52) (-1074)
    else .num (decide (2 ^ 63 ≤ x.toNat)) (2 ^ 52 + x.toNat % 2 ^ 63 % 2 ^ 52)
      ((x.toNat % 2 ^ 63 / 2 ^ 52 : Nat) - 1023 - 52) := by
  have hneg : decide (x.toNat / Fmt.fp64.signBit % 2 = 1) = decide (2 ^ 63 ≤ x.toNat) := by
    have hlt := x.isLt
    refine decide_eq_decide.2 ?_
    rw [show Fmt.fp64.signBit = 2 ^ 63 from rfl]
    omega
  unfold Fmt.decode
  rw [hneg]
  simp only [Fmt.hasInf, true_and, reduceCtorEq, false_and, if_false]
  rfl

theorem decode64_isNaN (x : Word) : (Fmt.fp64.decode x.toNat).isNaN = nan64 x := by
  rw [decode64_eq, nan64]
  split
  case isTrue h =>
    split
    · exact (decide_eq_false (by omega)).symm
    · exact (decide_eq_true (by omega)).symm
  case isFalse h =>
    have hn : ¬ (x.toNat / 2 ^ 52 % 2 ^ 11 = 2047 ∧ x.toNat % 2 ^ 52 ≠ 0) := by omega
    rw [decide_eq_false hn]
    split <;> rfl

theorem decode64_eq_nan (x : Word) : Fmt.fp64.decode x.toNat = .nan ↔ nan64 x = true := by
  rw [← decode64_isNaN]
  cases Fmt.fp64.decode x.toNat <;> simp [Ext.isNaN]

theorem decode64_isNeg {x : Word} (h : nan64 x = false) :
    (Fmt.fp64.decode x.toNat).isNeg = decide (2 ^ 63 ≤ x.toNat) := by
  rw [← decode64_isNaN] at h
  rw [decode64_eq] at h ⊢
  split
  case isTrue he =>
    rw [if_pos he] at h
    split
    · rfl
    case isFalse hf =>
      rw [if_neg hf] at h
      cases h
  case isFalse => split <;> rfl

theorem snanFlag64 (x : Word) : Fmt.fp64.snanFlag x.toNat = if snan64 x then Flags.nv else 0 := by
  have hs : Fmt.fp64.isSNaN x.toNat = snan64 x := by
    have hnan : decide (Fmt.fp64.decode x.toNat = .nan) = nan64 x := 
      Bool.eq_iff_iff.2 (decide_eq_true_iff.trans (decode64_eq_nan x))
    unfold Fmt.isSNaN
    rw [hnan]
    rfl
  rw [Fmt.snanFlag, hs]
  rfl

theorem nan64_of_snan64 {x : Word} (h : snan64 x = true) : nan64 x = true := (Bool.and_eq_true_iff.1 h).1

/-- Either operand's signalling NaN raises NV (R92). -/
theorem snanFlags64 (x y : Word) : Fmt.fp64.snanFlag x.toNat ||| Fmt.fp64.snanFlag y.toNat =
    if snan64 x || snan64 y then Flags.nv else 0 := by
  rw [snanFlag64, snanFlag64]
  cases snan64 x <;> cases snan64 y <;> rfl

/-! ### Values grow with the encodings -/

/-- The magnitude that bits 62 to 0 stand for, in units of 2^−1074. -/
def units64 (n : Nat) : Nat := if n < 2 ^ 52 then n else (2 ^ 52 + n % 2 ^ 52) * 2 ^ (n / 2 ^ 52 - 1)

theorem units64_lt_succ (n : Nat) : units64 n < units64 (n + 1) := by
  unfold units64
  by_cases h : n < 2 ^ 52
  · rw [if_pos h]
    split
    case isTrue => exact Nat.lt_succ_self n
    case isFalse h' =>
      have hn : n + 1 = 2 ^ 52 := by omega
      rw [hn]
      exact h
  · rw [if_neg h, if_neg (by omega)]
    by_cases hc : n % 2 ^ 52 + 1 < 2 ^ 52
    · have hq : (n + 1) / 2 ^ 52 = n / 2 ^ 52 := by omega
      have hr : (n + 1) % 2 ^ 52 = n % 2 ^ 52 + 1 := by omega
      rw [hq, hr]
      exact Nat.mul_lt_mul_of_pos_right (by omega) (Nat.two_pow_pos _)
    · have hq : (n + 1) / 2 ^ 52 - 1 = n / 2 ^ 52 - 1 + 1 := by omega
      have hr : (n + 1) % 2 ^ 52 = 0 := by omega
      rw [hq, hr]
      calc (2 ^ 52 + n % 2 ^ 52) * 2 ^ (n / 2 ^ 52 - 1)
          < (2 ^ 52 + 2 ^ 52) * 2 ^ (n / 2 ^ 52 - 1) := Nat.mul_lt_mul_of_pos_right (by omega) (Nat.two_pow_pos _)
        _ = (2 ^ 52 + 0) * 2 ^ (n / 2 ^ 52 - 1 + 1) := by rw [pow_succ]; omega

theorem units64_strictMono : StrictMono units64 := strictMono_nat_of_lt_succ units64_lt_succ

/-- The same with a sign. -/
def signedUnits64 (z : Int) : Int := if z < 0 then -(units64 z.natAbs : Int) else units64 z.natAbs

theorem signedUnits64_natCast (n : Nat) : signedUnits64 n = units64 n := if_neg (by omega)

theorem signedUnits64_neg (n : Nat) : signedUnits64 (-n) = -units64 n := by
  unfold signedUnits64
  rw [Int.natAbs_neg, Int.natAbs_natCast]
  split
  case isTrue => rfl
  case isFalse h =>
    have hn : n = 0 := by omega
    rw [hn]
    rfl

theorem signedUnits64_strictMono : StrictMono signedUnits64 := by
  intro z w h
  unfold signedUnits64
  by_cases hw : w < 0
  · rw [if_pos (h.trans hw), if_pos hw]
    have := units64_strictMono (show w.natAbs < z.natAbs by omega)
    omega
  · rw [if_neg hw]
    by_cases hz : z < 0
    · rw [if_pos hz]
      have := units64_strictMono (show 0 < z.natAbs by omega)
      omega
    · rw [if_neg hz]
      exact_mod_cast units64_strictMono (show z.natAbs < w.natAbs by omega)

/-- The value of the encoding whose number in the order is `z`: an infinity at ±(2047 × 2^52), numbers between. -/
noncomputable def value64 (z : Int) : EReal :=
  if z = 2047 * 2 ^ 52 then ⊤
  else if z = -(2047 * 2 ^ 52) then ⊥
  else ((signedUnits64 z * 2 ^ (-1074 : Int) : ℝ) : EReal)

theorem value64_strictMonoOn : StrictMonoOn value64 (Set.Icc (-(2047 * 2 ^ 52)) (2047 * 2 ^ 52)) := by
  intro z hz w hw h
  have hpos : (0 : ℝ) < 2 ^ (-1074 : Int) := zpow_pos two_pos _
  have hz1 : z ≠ 2047 * 2 ^ 52 := (h.trans_le hw.2).ne
  have hw1 : w ≠ -(2047 * 2 ^ 52) := (hz.1.trans_lt h).ne'
  unfold value64
  rw [if_neg hz1, if_neg hw1]
  by_cases hzi : z = -(2047 * 2 ^ 52)
  · rw [if_pos hzi]
    split
    · exact bot_lt_top
    · exact EReal.bot_lt_coe _
  · rw [if_neg hzi]
    split
    · exact EReal.coe_lt_top _
    · rw [EReal.coe_lt_coe_iff, mul_lt_mul_iff_left₀ hpos, Int.cast_lt]
      exact signedUnits64_strictMono h

theorem order64_mem {x : Word} (h : nan64 x = false) : order64 x ∈ Set.Icc (-(2047 * 2 ^ 52)) (2047 * 2 ^ 52) := by
  have hn : ¬ (x.toNat / 2 ^ 52 % 2 ^ 11 = 2047 ∧ x.toNat % 2 ^ 52 ≠ 0) := of_decide_eq_false h
  have hlt := x.isLt
  unfold order64
  split <;> constructor <;> omega

/-- The number of an encoding in the order, by the sign and the other bits. -/
theorem order64_eq (x : Word) : order64 x =
    if 2 ^ 63 ≤ x.toNat then -((x.toNat % 2 ^ 63 : Nat) : Int) else (x.toNat % 2 ^ 63 : Nat) := by
  have hlt := x.isLt
  unfold order64
  split <;> split <;> omega

/-- A number of either sign has the value of its order. -/
theorem num_key {neg : Bool} {m n : Nat} {e : Int} (hn : n < 2047 * 2 ^ 52)
    (h : (m : ℝ) * 2 ^ e = units64 n * 2 ^ (-1074 : Int)) :
    (Ext.num neg m e).key = value64 (if neg then -(n : Int) else n) := by
  unfold Ext.key value64
  dsimp only
  cases neg with
  | false =>
    simp only [Bool.false_eq_true, if_false]
    rw [if_neg (by omega), if_neg (by omega), signedUnits64_natCast, h, Int.cast_natCast]
  | true =>
    simp only [if_true]
    rw [if_neg (by omega), if_neg (by omega), signedUnits64_neg, neg_mul, h, Int.cast_neg, Int.cast_natCast, neg_mul]

/-- The number of an encoding in the order gives its value. -/
theorem decode64_key {x : Word} (h : nan64 x = false) : (Fmt.fp64.decode x.toNat).key = value64 (order64 x) := by
  have hord : order64 x =
      if decide (2 ^ 63 ≤ x.toNat) then -((x.toNat % 2 ^ 63 : Nat) : Int) else (x.toNat % 2 ^ 63 : Nat) := by
    rw [order64_eq]
    exact (if_congr decide_eq_true_iff rfl rfl).symm
  rw [← decode64_isNaN] at h
  rw [decode64_eq] at h ⊢
  rw [hord]
  generalize decide (2 ^ 63 ≤ x.toNat) = neg at h ⊢
  have hlt : x.toNat % 2 ^ 63 < 2 ^ 63 := Nat.mod_lt _ (by decide)
  generalize x.toNat % 2 ^ 63 = n at h hlt ⊢
  by_cases he : n / 2 ^ 52 = 2047
  · rw [if_pos he] at h ⊢
    by_cases hf : n % 2 ^ 52 = 0
    · have hn : n = 2047 * 2 ^ 52 := by omega
      rw [if_pos hf, hn]
      cases neg <;> simp [Ext.key, value64]
    · rw [if_neg hf] at h
      cases h
  · rw [if_neg he]
    split
    case isTrue h0 =>
      refine num_key (by omega) ?_
      rw [units64, if_pos (by omega), Nat.mod_eq_of_lt (by omega)]
    case isFalse h0 =>
      refine num_key (by omega) ?_
      have hpow : (2 : ℝ) ^ (((n / 2 ^ 52 : Nat) : Int) - 1023 - 52) = 2 ^ (n / 2 ^ 52 - 1) * 2 ^ (-1074 : Int) := by
        rw [← zpow_natCast, ← zpow_add₀ two_ne_zero]
        congr 1
        omega
      rw [units64, if_neg (by omega), hpow, ← mul_assoc]
      push_cast
      rfl

/-! ### Compares (R130) -/

theorem scaled_strictMono (k : Int) : StrictMono fun z : Int => (((z : ℝ) * 2 ^ k : ℝ) : EReal) := by
  have hpos : (0 : ℝ) < 2 ^ k := zpow_pos two_pos _
  intro z w h
  exact EReal.coe_lt_coe_iff.2 ((mul_lt_mul_iff_left₀ hpos).2 (Int.cast_lt.2 h))

/-- Two extended reals that are no NaN compare as their values. -/
theorem ext_cmp_eq {a b : Ext} (ha : a.isNaN = false) (hb : b.isNaN = false) : a.cmp b = some (cmp a.key b.key) := by
  cases a with
  | nan => cases ha
  | inf x =>
    cases b with
    | nan => cases hb
    | inf y => cases x <;> cases y <;> simp [Ext.cmp, Ext.key, cmp, cmpUsing]
    | num n m e => cases x <;> simp [Ext.cmp, Ext.key, cmp, cmpUsing]
  | num n m e =>
    cases b with
    | nan => cases hb
    | inf y => cases y <;> simp [Ext.cmp, Ext.key, cmp, cmpUsing]
    | num n' m' e' =>
      unfold Ext.cmp Ext.key Ext.align
      dsimp only
      rw [← align_scale n m (min_le_left e e'), ← align_scale n' m' (min_le_right e e'), ← cmp_eq_compare]
      exact congrArg some ((scaled_strictMono (min e e')).cmp_map_eq _ _).symm

theorem decode64_cmp {x y : Word} (hx : nan64 x = false) (hy : nan64 y = false) :
    (Fmt.fp64.decode x.toNat).cmp (Fmt.fp64.decode y.toNat) = some (cmp (order64 x) (order64 y)) := by
  rw [ext_cmp_eq ((decode64_isNaN x).trans hx) ((decode64_isNaN y).trans hy), decode64_key hx, decode64_key hy,
    value64_strictMonoOn.cmp_map_eq (order64_mem hx) (order64_mem hy)]

/-- What R130 asks of the numbers of two encodings in the order. -/
def FCmp.holds : FCmp → Int → Int → Bool
  | .eq, a, b => decide (a = b)
  | .lt, a, b => decide (a < b)
  | .le, a, b => decide (a ≤ b)

theorem FCmp.holds_eq (op : FCmp) (a b : Int) :
    (match op with
      | .eq => cmp a b == .eq
      | .lt => cmp a b == .lt
      | .le => cmp a b != .gt) = op.holds a b := by
  rcases lt_trichotomy a b with h | h | h
  · rw [(cmp_eq_lt_iff _ _).2 h]
    cases op <;> simp [FCmp.holds, h.le, h, h.ne]
  · rw [(cmp_eq_eq_iff _ _).2 h]
    cases op <;> simp [FCmp.holds, h]
  · rw [(cmp_eq_gt_iff _ _).2 h]
    cases op <;> simp [FCmp.holds, h.le, h, h.ne']

/-- A NaN compares false, and raises NV in all but `feqd`, where only a signalling one does. -/
theorem compare64_of_nan {x y : Word} (h : (nan64 x || nan64 y) = true) (op : FCmp) :
    Fmt.fp64.compare op x.toNat y.toNat =
      (false, if op = .eq then (if snan64 x || snan64 y then Flags.nv else 0) else Flags.nv) := by
  have hcmp : (Fmt.fp64.decode x.toNat).cmp (Fmt.fp64.decode y.toNat) = none := by
    rcases Bool.or_eq_true_iff.1 h with h | h
    · rw [(decode64_eq_nan x).2 h]
      rfl
    · rw [(decode64_eq_nan y).2 h]
      cases Fmt.fp64.decode x.toNat <;> rfl
  rw [Fmt.compare_eq, hcmp, snanFlags64]

theorem compare64_of_number {x y : Word} (h : (nan64 x || nan64 y) = false) (op : FCmp) :
    Fmt.fp64.compare op x.toNat y.toNat = (op.holds (order64 x) (order64 y), 0) := by
  obtain ⟨hx, hy⟩ := Bool.or_eq_false_iff.1 h
  rw [Fmt.compare_eq, decode64_cmp hx hy, ← FCmp.holds_eq]
  rfl

/-- The result and the flags of a scalar compare. -/
theorem compare64_eq (op : FCmp) (x y : Word) : compare64 op x.toNat y.toNat =
    (if (!(nan64 x || nan64 y)) ∧ op.holds (order64 x) (order64 y) then 1 else 0,
      if op = .eq then (if snan64 x || snan64 y then Flags.nv else 0)
      else if nan64 x || nan64 y then Flags.nv else 0) := by
  unfold compare64
  cases h : nan64 x || nan64 y with
  | true =>
    rw [compare64_of_nan h]
    rfl
  | false =>
    have hs : (snan64 x || snan64 y) = false := by
      obtain ⟨hx, hy⟩ := Bool.or_eq_false_iff.1 h
      rw [snan64, snan64, hx, hy]
      rfl
    rw [compare64_of_number h, hs]
    simp

theorem floatCompares_claim : Claims.FloatCompares := by
  intro s d a b
  refine ⟨yields_scalarFloat rfl ((compare64_eq .eq _ _).trans ?_),
    yields_scalarFloat rfl ((compare64_eq .lt _ _).trans ?_),
    yields_scalarFloat rfl ((compare64_eq .le _ _).trans ?_)⟩
  all_goals simp only [FCmp.holds, decide_eq_true_eq, reduceCtorEq, if_true, if_false]

/-! ### Extremes (R129) -/

/-- The number of an encoding in the order, with −0 below +0, by the order of values and the sign. -/
theorem strict64_lt_iff {x y : Word} : strict64 x < strict64 y ↔
    order64 x < order64 y ∨ order64 x = order64 y ∧ 2 ^ 63 ≤ x.toNat ∧ ¬ 2 ^ 63 ≤ y.toNat := by
  have hx := x.isLt
  have hy := y.isLt
  unfold strict64 order64
  split <;> split <;> omega

theorem strict64_inj {x y : Word} (h : strict64 x = strict64 y) : x = y := by
  have hx := x.isLt
  have hy := y.isLt
  apply BitVec.eq_of_toNat_eq
  unfold strict64 at h
  split at h <;> split at h <;> omega

theorem below64 {x y : Word} (hx : nan64 x = false) (hy : nan64 y = false) :
    (Fmt.fp64.decode x.toNat).below (Fmt.fp64.decode y.toNat) = decide (strict64 x < strict64 y) := by
  unfold Ext.below
  rw [decode64_cmp hx hy, decode64_isNeg hx, decode64_isNeg hy, Bool.eq_iff_iff, decide_eq_true_iff, strict64_lt_iff]
  rcases lt_trichotomy (order64 x) (order64 y) with h | h | h
  · rw [(cmp_eq_lt_iff _ _).2 h]
    simp [h]
  · rw [(cmp_eq_eq_iff _ _).2 h]
    simp [h]
  · rw [(cmp_eq_gt_iff _ _).2 h]
    simp [h.ne', h.not_gt]

/-- What R129 picks of two operands: the lower one or the higher one, a number before a NaN. -/
def extreme64 (low : Bool) (x y : Word) : Word :=
  if nan64 x ∧ nan64 y then 0x7FF8000000000000
  else if nan64 x then y
  else if nan64 y then x
  else if decide (strict64 x < strict64 y) = low then x else y

theorem minmax64 (low : Bool) (x y : Word) : Fmt.fp64.minmax (!low) x.toNat y.toNat =
    ((extreme64 low x y).toNat, if snan64 x || snan64 y then Flags.nv else 0) := by
  unfold Fmt.minmax extreme64
  simp only [decode64_isNaN, snanFlags64]
  cases hx : nan64 x with
  | true => cases hy : nan64 y <;> rfl
  | false =>
    cases hy : nan64 y with
    | true => rfl
    | false =>
      simp only [below64 hx hy, below64 hy hx, Bool.false_eq_true, false_and, if_false]
      cases low with
      | false => by_cases h : strict64 x < strict64 y <;> simp [h]
      | true =>
        rcases lt_trichotomy (strict64 x) (strict64 y) with h | h | h
        · simp [h, h.not_gt]
        · simp [strict64_inj h]
        · simp [h, h.not_gt]

theorem floatMinMax_claim : Claims.FloatMinMax := fun _ _ _ _ =>
  ⟨yields_scalarFloat rfl (minmax64 true _ _), yields_scalarFloat rfl (minmax64 false _ _)⟩

/-- Settles O5: the value of an encoding grows with its number in the order, so a compare of values is one of these
numbers; encodings of the same number under the strict order are the same. -/
theorem floatComparesAndExtremes : Obligations.FloatComparesAndExtremes := ⟨floatCompares_claim, floatMinMax_claim⟩

end Sys2Proof.Machine


/-! ## Writes of control registers (R97, R134 to R136, R160, R161, R266, R270, R368, R369) -/

namespace Sys2Proof.Machine
open Sys2Proof.Claims

/-! ### A write that the Access column allows -/

section
variable {c : BitVec 10} {x : BitVec 5} {i : Instr} {s u : State}

/-- The Access column lets every hart, or those of world 0, write the registers that the two lists name (R368). -/
theorem crAccess_write {w0 : Bool} (h : c ∈ writtenByAll ∨ w0 = true ∧ c ∈ writtenByWorld0) :
    crAccess c.toNat w0 = .write := by
  have hall : ∀ c ∈ writtenByAll, ∀ w0, crAccess c.toNat w0 = .write := by decide
  have hworld : ∀ c ∈ writtenByWorld0, crAccess c.toNat true = .write := by decide
  rcases h with h | ⟨rfl, h⟩
  · exact hall c h w0
  · exact hworld c h

/-- A register that is neither FFLAGS nor VLFF waits for nothing (R104, R233). -/
theorem moveIsReady_of_ne {h : Hart} (hflags : c ≠ 0x010) (hff : c ≠ 0x003) : MoveIsReady c h :=
  ⟨fun hc => absurd hc hflags, fun hc => absurd hc hff⟩

/-- The register whose number is `n`. -/
theorem crNumber_eq {n : Nat} (hn : c.toNat = n) : c = BitVec.ofNat 10 n := by
  rw [← hn, BitVec.ofNat_toNat, BitVec.setWidth_eq]

theorem moveWaits_of_ready {h : Hart} (hr : MoveIsReady c h) : h.moveWaits c.toNat = false := by
  obtain ⟨hflags, hff⟩ := hr
  unfold Hart.moveWaits
  rw [Bool.or_eq_false_iff, Bool.and_eq_false_imp, Bool.and_eq_false_imp]
  refine ⟨fun hc => ?_, fun hc => List.any_eq_false.2 fun e he hw => ?_⟩
  · rw [hflags (crNumber_eq (beq_iff_eq.1 hc))]
    rfl
  · have hnot := hff (crNumber_eq (beq_iff_eq.1 hc)) e he
    generalize e.instr = i at hnot hw
    cases i
    case vldff | vqrd => exact hnot
    all_goals cases hw

/-- A write that is allowed and need not wait completes with the register written. -/
theorem exec_write (hi : writeMoveOf i = some (x, c))
    (ha : c ∈ writtenByAll ∨ s.hart.world0 = true ∧ c ∈ writtenByWorld0) (hr : MoveIsReady c s.hart) :
    exec i s = .next (finished (s.writeCr c.toNat (s.hart.xr x))) := by
  rw [exec_writeMove hi, writeMove, crAccess_write ha, moveWaits_of_ready hr]
  rfl

/-! ### Registers with plain fields -/

/-- A rounding-mode code is one of the two above 5, or is written (R97). -/
theorem frm_written (h : Hart) (v : Word) :
    (if v.toNat % 8 < 6 then { h with frm := v.setWidth 3 } else h) =
      { h with frm := if (v.setWidth 3 : BitVec 3) = 6 ∨ (v.setWidth 3 : BitVec 3) = 7 then h.frm else v.setWidth 3 } := by
  have hcode : v.toNat % 8 < 6 ↔ ¬ ((v.setWidth 3 : BitVec 3) = 6 ∨ (v.setWidth 3 : BitVec 3) = 7) := by
    bv_omega
  by_cases hv : v.toNat % 8 < 6
  · rw [if_pos hv, if_neg (hcode.1 hv)]
  · rw [if_neg hv, if_pos (not_not.1 (mt hcode.2 hv))]

/-- A register with plain fields is one that some hart may write, and the write is that of its layout. -/
theorem plainWrite_some {v : Word} (h : plainWrite c v s = some u) :
    s.writeCr c.toNat v = u ∧ (c ∈ writtenByAll ∨ c ∈ writtenByWorld0) := by
  unfold plainWrite at h
  split at h
  case h_7 =>
    obtain rfl := crNumber_eq ‹_›
    cases h
    exact ⟨congrArg (fun g => { s with hart := g }) (frm_written s.hart v), by decide⟩
  case h_19 => cases h
  all_goals
    obtain rfl := crNumber_eq ‹_›
    cases h
    exact ⟨rfl, by decide⟩

theorem plainRegisterWrites_claim : Claims.PlainRegisterWrites := by
  intro s u i x c hi ha hr hw
  obtain ⟨rfl, hlisted⟩ := plainWrite_some hw
  refine ⟨_, exec_write hi ?_ hr, rfl⟩
  rcases ha with ha | hworld
  · exact .inl ha
  · exact hlisted.imp_right fun h => ⟨hworld, h⟩

/-! ### VTYPE and TSHP -/

/-- The codes of R135 are those that name a type. -/
theorem ofCode_isNone_iff (n : Nat) : (ETy.ofCode n).isNone = true ↔ n ∉ typeCodes := by
  have hnamed : ∀ n ∈ typeCodes, (ETy.ofCode n).isNone = false := by decide
  have hlisted : (ETy.ofCode n).isNone = false → n ∈ typeCodes := by
    intro h
    unfold ETy.ofCode at h
    split_ifs at h with hs hu
    · simp only [typeCodes, List.mem_append, List.mem_map, List.mem_range]
      exact .inl (.inr ⟨n - 0x82, by omega, by omega⟩)
    · simp only [typeCodes, List.mem_append, List.mem_map, List.mem_range]
      exact .inr ⟨n - 0xA1, by omega, by omega⟩
    · split at h
      case h_18 => cases h
      all_goals decide
  refine ⟨fun h hn => ?_, fun hn => ?_⟩
  · rw [hnamed n hn] at h
    cases h
  · exact Bool.eq_true_of_not_eq_false fun h => hn (hlisted h)

/-- A write of VTYPE leaves VILL alone where a field names nothing, else the fields (R136). -/
theorem vtypeWritten_eq (v : Word) : vtypeWritten v = typeAfter v := by
  unfold vtypeWritten typeAfter
  refine if_congr ?_ rfl rfl
  simp only [Bool.or_eq_true, Bool.and_eq_true, decide_eq_true_eq, vtCode_eq, ofCode_isNone_iff, or_assoc,
    BitVec.msb_eq_getLsbD_last]
  rfl

/-- The operand types of the two kinds are those of R162. -/
theorem matrixKind_iff (n : Nat) :
    (matrixKind n = some true ↔ n ∈ floatOperands) ∧ (matrixKind n = some false ↔ n ∈ integerOperands) := by
  obtain ⟨hfloat, hint⟩ := matrixKind_of_operands
  have hlisted {b : Bool} (h : matrixKind n = some b) : n ∈ if b then floatOperands else integerOperands := by
    have hcodes : ∀ n ∈ typeCodes, ∀ b, matrixKind n = some b → n ∈ if b then floatOperands else integerOperands := by
      decide
    refine hcodes n (not_not.1 fun hn => ?_) b h
    have hclosed : ∀ n ∈ [0x44, 0x34, 0x50, 0x51, 0x52, 0x53, 0x23, 0x13, 0x24, 0x14], n ∈ typeCodes := by decide
    have hcode : ETy.ofCode n = none := Option.isNone_iff_eq_none.1 ((ofCode_isNone_iff n).2 hn)
    unfold matrixKind at h
    rw [hcode] at h
    split_ifs at h with hf hi
    · exact hn (hclosed n (List.mem_append_left [0x23, 0x13, 0x24, 0x14] (List.contains_iff_mem.1 hf)))
    · exact hn (hclosed n (List.mem_append_right [0x44, 0x34, 0x50, 0x51, 0x52, 0x53] (List.contains_iff_mem.1 hi)))
  exact ⟨⟨hlisted, hfloat n⟩, ⟨hlisted, hint n⟩⟩

theorem sameKind_iff {m n : Nat} : sameKind m n = true ↔
    m ∈ floatOperands ∧ n ∈ floatOperands ∨ m ∈ integerOperands ∧ n ∈ integerOperands := by
  obtain ⟨hmf, hmi⟩ := matrixKind_iff m
  obtain ⟨hnf, hni⟩ := matrixKind_iff n
  rw [← hmf, ← hmi, ← hnf, ← hni, sameKind]
  rcases matrixKind m with _ | _ | _ <;> rcases matrixKind n with _ | _ | _ <;> simp

/-- A write of TSHP leaves TILL alone where the shape is none, else the fields (R161). -/
theorem shapeWritten_eq (v : Word) : shapeWritten v = shapeAfter v := by
  unfold shapeWritten shapeAfter
  refine if_congr ?_ rfl rfl
  simp only [Bool.or_eq_true, Bool.not_eq_true', ← Bool.not_eq_true, decide_eq_true_eq, sameKind_iff, or_assoc,
    BitVec.msb_eq_getLsbD_last, show shapeRows v = fieldOf v 0 7 by simp [shapeRows, fieldOf]]
  rfl

theorem schedWritten_eq (old v : Word) : schedWritten old v = scheduleAfter old v := rfl

/-! ### VLCAP -/

/-- A share as the value becomes CAP, and the share pending where none at or below it is pending already. -/
theorem Hart.setCap_of_share (h : Hart) {n : BitVec 3} (hs : n = 1 ∨ n = 2 ∨ n = 4) :
    ∃ p, h.setCap n = if n.toNat < h.share.toNat ∧ ¬ (h.pv = true ∧ p.toNat ≤ n.toNat) then
      { h with cap := n, pv := true, pend := n } else { h with cap := n, pend := p } := by
  unfold Hart.setCap
  rw [if_pos hs]
  exact ⟨_, rfl⟩

/-- A write of VLCAP changes CAP and the share pending alone; a value that is no share is ignored, and a CAP below SHARE
makes a reduction pending (R266). -/
theorem Hart.setCap_spec (h : Hart) (v : Word) :
    let g := h.setCap (v.setWidth 3)
    g = { h with cap := g.cap, pv := g.pv, pend := g.pend } ∧
    (fieldOf v 0 3 ∉ [1, 2, 4] → g = h) ∧
    (fieldOf v 0 3 ∈ [1, 2, 4] → g.cap.toNat = fieldOf v 0 3 ∧
      (fieldOf v 0 3 < h.share.toNat → g.pv = true ∧ g.pend.toNat ≤ fieldOf v 0 3)) := by
  have hn : (v.setWidth 3 : BitVec 3).toNat = fieldOf v 0 3 := by simp [fieldOf]
  rw [← hn]
  generalize (v.setWidth 3 : BitVec 3) = n
  have hshare : n.toNat ∈ [1, 2, 4] ↔ n = 1 ∨ n = 2 ∨ n = 4 := by revert n; decide
  rw [hshare]
  by_cases hs : n = 1 ∨ n = 2 ∨ n = 4
  · obtain ⟨p, hg⟩ := h.setCap_of_share hs
    rw [hg]
    by_cases hr : n.toNat < h.share.toNat ∧ ¬ (h.pv = true ∧ p.toNat ≤ n.toNat)
    · rw [if_pos hr]
      exact ⟨rfl, fun hm => absurd hs hm, fun _ => ⟨rfl, fun _ => ⟨rfl, Nat.le_refl _⟩⟩⟩
    · rw [if_neg hr]
      exact ⟨rfl, fun hm => absurd hs hm, fun _ => ⟨rfl, fun hlt => not_not.1 fun hp => hr ⟨hlt, hp⟩⟩⟩
  · rw [Hart.setCap, if_neg hs]
    exact ⟨rfl, fun _ => rfl, fun hm => absurd hm hs⟩

theorem ruledRegisterWrites_claim : Claims.RuledRegisterWrites := by
  intro s i x c hi v
  refine ⟨?_, ?_, ?_, ?_⟩
  · rintro rfl
    refine ⟨_, exec_write hi (.inl (by decide)) (moveIsReady_of_ne (by decide) (by decide)), ?_⟩
    exact congrArg (fun t => finished { s with hart := { s.hart with vtype := t } }) (vtypeWritten_eq v)
  · rintro rfl
    refine ⟨_, exec_write hi (.inl (by decide)) (moveIsReady_of_ne (by decide) (by decide)), ?_⟩
    exact congrArg (fun t => finished { s with hart := { s.hart with tshp := t } }) (shapeWritten_eq v)
  · rintro rfl hw
    exact ⟨_, exec_write hi (.inr ⟨hw, by decide⟩) (moveIsReady_of_ne (by decide) (by decide)), rfl⟩
  · rintro rfl hw
    refine ⟨_, exec_write hi (.inr ⟨hw, by decide⟩) (moveIsReady_of_ne (by decide) (by decide)), ⟨rfl, fun _ => rfl⟩, ?_⟩
    obtain ⟨hframe, hignored, hcap⟩ := s.hart.setCap_spec v
    refine ⟨congrArg (Hart.completed · none) hframe, fun hm => ?_, hcap⟩
    have hsame := hignored hm
    exact ⟨(congrArg Hart.cap hsame :), (congrArg Hart.pv hsame :), (congrArg Hart.pend hsame :)⟩

end

/-- Settles O19: a move that the Access column allows, and that need not wait, writes its register by the rule of its
layout and completes. -/
theorem controlRegisterWrites : Obligations.ControlRegisterWrites :=
  ⟨plainRegisterWrites_claim, ruledRegisterWrites_claim⟩

end Sys2Proof.Machine


/-! ## The values of reset, and of a hart at its launch (R134, R160, R206, R259, R266, R366) -/

namespace Sys2Proof.Machine
open Sys2Proof.Claims

section
variable (s : State) (g : Gang) (m : Member) (ser : BitVec 16) (core : BitVec 8) (csa : BitVec 52)

/-- A launched hart holds zeros, without tags, in all its scalar registers (R259). -/
theorem State.newHart_xr (r : BitVec 5) : (s.newHart g m ser core csa).xr r = 0 := by
  simp [Hart.xr, State.newHart, Hart.blank]

theorem State.newHart_tagOf (r : BitVec 5) : (s.newHart g m ser core csa).tagOf r = none := by
  simp [Hart.tagOf, State.newHart, Hart.blank]

/-- Its vector state is that of reset: each register of zeros. -/
theorem State.newHart_images :
    let h := s.newHart g m ser core csa
    (∀ r : Fin 32, h.vreg[r].img = []) ∧ (∀ r : Fin 12, h.kreg[r] = []) ∧ (∀ r : Fin 8, h.tile[r] = []) := by
  refine ⟨fun r => ?_, fun r => ?_, fun r => ?_⟩ <;> simp [State.newHart, Hart.blank, VReg.blank]

theorem State.newHart_streams (q : Fin 8) : (s.newHart g m ser core csa).streams[q] = .unbound := by
  simp [State.newHart, Hart.blank]

theorem State.capOf_le : (s.capOf core).toNat ≤ 4 := by
  unfold State.capOf
  dsimp only
  split_ifs <;> decide

/-- The share that a launched hart asks for is its weight, and no more than its core can give (R266). -/
theorem State.newHart_pend : (s.newHart g m ser core csa).pend.toNat = min m.weight.toNat (s.capOf core).toNat := by
  have hcap := s.capOf_le core
  change (if m.weight.toNat < (s.capOf core).toNat then m.weight.setWidth 3 else s.capOf core).toNat = _
  split_ifs with hlt
  · rw [BitVec.toNat_setWidth, Nat.min_eq_left hlt.le, Nat.mod_eq_of_lt (by omega)]
  · rw [Nat.min_eq_right (Nat.le_of_not_lt hlt)]

end

/-- At reset every forwarding entry is free (R206). -/
theorem State.reset_fwd (j : Fin 64) : State.reset.fwd[j] = .free := by
  simp [State.reset]

/-- Settles O56: the reset state is written out by `State.reset`, and a launched hart starts from `Hart.blank`. -/
theorem resetState : Obligations.ResetState := by
  refine ⟨State.reset_memOk, fun _ => rfl, rfl, rfl, rfl, rfl, rfl, rfl, rfl, rfl, rfl, fun _ => rfl, State.reset_fwd,
    fun t g m ser core csa => ?_⟩
  obtain ⟨hv, hk, ht⟩ := t.newHart_images g m ser core csa
  exact ⟨fun r => ⟨t.newHart_xr g m ser core csa r, t.newHart_tagOf g m ser core csa r⟩, hv, hk, ht,
    rfl, rfl, rfl, rfl, rfl, rfl, rfl, rfl, rfl, rfl, rfl, rfl, t.newHart_streams g m ser core csa, rfl, rfl,
    t.newHart_pend g m ser core csa, rfl, rfl⟩

end Sys2Proof.Machine


/-! ## Setting of the strip, and the share that is pending (R133, R139, R265 to R267) -/

namespace Sys2Proof.Machine
open Sys2Proof.Claims

/-! ### The images at a new share -/

/-- The first `n` positions read as before, the others as zero. -/
theorem Bytes.get_keep {m : Bytes} (hm : Memory.wf m = true) (n p : Nat) :
    Bytes.get (Bytes.keep m n) p = if p < n then Bytes.get m p else 0 := by
  split
  · next hp =>
    refine Bytes.get_congr (Bytes.keep_wf n hm) hm fun v => ?_
    obtain ⟨hlow, -⟩ := Bytes.mem_split n (p, v) hm
    exact hlow.trans (and_iff_left hp)
  · next hp => exact Bytes.get_eq_zero fun c hc he => hp (he ▸ Bytes.below hc)

/-- The images of a hart at a new share keep what both sizes hold (R159, R267). -/
theorem Hart.resize_resized {h : Hart} (hok : ImagesOk h) (n : BitVec 3) : Resized n h (h.resize n) := by
  obtain ⟨hv, hk, ht⟩ := hok
  refine ⟨rfl, fun r => ⟨?_, fun p => ?_⟩, fun r p => ?_, fun r p => ?_⟩
  · simp [Hart.resize]
  · simpa [Hart.resize, Hart.c] using Bytes.get_keep (hv r) (min h.c (imageBytes n)) p
  · simpa [Hart.resize, Hart.c] using Bytes.get_keep (hk r) (min h.c (imageBytes n)) p
  · simpa [Hart.resize, Hart.c] using Bytes.get_keep (ht r) (min h.c (imageBytes n)) p

/-! ### The strip -/

section
variable {d a : BitVec 5} {s t : State}

theorem setStrip_sets (s : State) : SetsStrip d a s.hart.wcons s (setStrip d a s) := by
  generalize hn : BitVec.ofNat 20 (min (s.hart.xr a).toNat (vlmax s.hart.vtype s.hart.c)) = vl
  obtain ⟨⟨⟨hhart, hmem⟩, hframe, hother⟩, hd, hpc⟩ := State.writeBack_writesX (s.mapHart fun h => { h with vl := vl })
    d (BitVec.ofNat 64 (min (s.hart.xr a).toNat (vlmax s.hart.vtype s.hart.c))) none
  rw [hpc] at hframe
  subst hn
  exact ⟨⟨hhart, hmem⟩, hframe, hother, hd⟩

theorem setStrip_at_wcons (w : Word) : SetsStrip d a w s (setStrip d a (s.mapHart fun h => { h with wcons := w })) :=
  setStrip_sets (s.mapHart fun h => { h with wcons := w })

/-- With no change of share pending, `svl` and `svl.w` go on at once. -/
theorem withShare_of_not_pending {f : State → State} (hp : s.hart.pv = false) : withShare f s = f s := by
  simp [withShare, State.applyShare, hp]

/-- The position that `svl.w` needs the watermark to reach. -/
def stripBound (a : BitVec 5) (s : State) : Nat :=
  wconsPos s.hart.wcons + min (s.hart.xr a).toNat (vlmax s.hart.vtype s.hart.c)

theorem setStripWait_eq (d a : BitVec 5) (s : State) :
    setStripWait d a s = if s.watermark (wconsWid s.hart.wcons) < stripBound a s then s.waitFor (.svlW d a)
      else setStrip d a (s.mapHart fun h =>
        { h with wcons := BitVec.ofNat 64 (wconsWid s.hart.wcons * 2 ^ 60 + stripBound a s % 2 ^ 48) }) := by
  rw [setStripWait, stripBound, State.mapHart]
  rfl

theorem setStripWait_advances (hmark : stripBound a s ≤ s.watermark (wconsWid s.hart.wcons)) :
    SetsStrip d a (BitVec.ofNat 64 (wconsWid s.hart.wcons * 2 ^ 60 + stripBound a s % 2 ^ 48)) s (setStripWait d a s) := by
  rw [setStripWait_eq, if_neg (Nat.not_lt.2 hmark)]
  exact setStrip_at_wcons _

theorem setStripWait_waits (hmark : s.watermark (wconsWid s.hart.wcons) < stripBound a s) :
    Waits (.svlW d a) s (setStripWait d a s) := by
  rw [setStripWait_eq, if_pos hmark]
  exact s.waitFor_waits _

theorem stripSetting_claim : Claims.StripSetting := by
  intro s d a hp
  have hnow : exec (.svl d a) s = .next (setStrip d a s) := congrArg Host.Outcome.next (withShare_of_not_pending hp)
  have hmarked : exec (.svlW d a) s = .next (setStripWait d a s) :=
    congrArg Host.Outcome.next (withShare_of_not_pending hp)
  refine ⟨⟨_, hnow, setStrip_sets s⟩, fun hmark => ⟨_, hmarked, ?_⟩, fun hmark => ⟨_, hmarked, ?_⟩⟩
  · exact setStripWait_advances hmark
  · exact setStripWait_waits hmark

/-! ### A change of share that is pending -/

/-- What `svl` leaves in a hart whose new share has been applied: the strip of that share, and the images of `g`. -/
theorem setStrip_after_share {g : Hart} (hx : g.x = s.hart.x) (htag : g.tag = s.hart.tag) (hvt : g.vtype = s.hart.vtype)
    (hpc : g.pc = s.hart.pc) (hpv : g.pv = false) (hshare : g.share = s.hart.pend) :
    let n := min (s.hart.xr a).toNat (vlmax s.hart.vtype (imageBytes s.hart.pend))
    let t := setStrip d a { s with hart := g }
    (OnlyHart s t ∧ t.hart.pv = false ∧ t.hart.vl = BitVec.ofNat 20 n ∧ HoldsX t.hart d (BitVec.ofNat 64 n) none ∧
      (∀ r, r ≠ d → t.hart.xr r = s.hart.xr r ∧ t.hart.tagOf r = s.hart.tagOf r) ∧ t.hart.pc = s.hart.pc + 4) ∧
    t.hart.share = g.share ∧ t.hart.vloc = g.vloc ∧ t.hart.groups = g.groups ∧
    t.hart.vreg = g.vreg ∧ t.hart.kreg = g.kreg ∧ t.hart.tile = g.tile := by
  obtain ⟨⟨honly, hmem⟩, hhart, hother, hd⟩ := setStrip_sets (d := d) (a := a) { s with hart := g }
  have hxr (r : BitVec 5) : g.xr r = s.hart.xr r := by rw [Hart.xr, Hart.xr, hx]
  have htagOf (r : BitVec 5) : g.tagOf r = s.hart.tagOf r := by rw [Hart.tagOf, Hart.tagOf, htag]
  simp only [hxr, htagOf, hvt, Hart.c, hshare] at hhart hother hd
  refine ⟨⟨⟨honly, hmem⟩, ?_, ?_, hd, hother, ?_⟩, ?_, ?_, ?_, ?_, ?_, ?_⟩
  · rw [hhart]; exact hpv
  · rw [hhart]
  · rw [hhart]; exact congrArg (· + 4) hpc
  all_goals rw [hhart]; rfl

/-! ### The three ways to apply it -/

/-- A share of nothing gives up the lanes (R267). -/
theorem State.applyShare_zero (hp : s.hart.pv = true) (hzero : s.hart.pend = 0) :
    s.applyShare = .ok { s with hart := { s.hart.resize 0 with vloc := 0, groups := [] } } := by
  simp [State.applyShare, hp, hzero, State.mapHart]

/-- State in lanes keeps its groups, and adds what it lacks where those are free. -/
theorem State.applyShare_lanes (hp : s.hart.pv = true) (hne : s.hart.pend ≠ 0) (hloc : s.hart.vloc = 1)
    (hfree : ∀ g ∈ s.growth (s.hart.pend.toNat - s.hart.groups.length), s.holder s.hart.core s.hart.ser g = none) :
    ∃ gs, s.applyShare = .ok { s with hart := { s.hart.resize s.hart.pend with groups := gs } } := by
  have hnone : ((s.growth (s.hart.pend.toNat - s.hart.groups.length)).any fun g =>
      (s.holder s.hart.core s.hart.ser g).isSome) = false :=
    List.any_eq_false.2 fun g hg => by rw [hfree g hg]; exact Bool.false_ne_true
  simp only [State.applyShare, hp, hne, hloc, hnone]
  exact ⟨_, rfl⟩

/-- State that lies nowhere comes into the groups assigned to it, where they are free (R375). -/
theorem State.applyShare_fresh (hp : s.hart.pv = true) (hne : s.hart.pend ≠ 0) (hloc : s.hart.vloc = 0)
    (hlen : (s.assign s.hart.core s.hart.ser s.hart.pend.toNat).length = s.hart.pend.toNat)
    (hfree : ∀ g ∈ s.assign s.hart.core s.hart.ser s.hart.pend.toNat, s.holder s.hart.core s.hart.ser g = none) :
    s.applyShare = .ok { s with hart :=
      { (s.hart.freshVector (s.assign s.hart.core s.hart.ser s.hart.pend.toNat)) with share := s.hart.pend, pv := false } } := by
  have hall : ((s.assign s.hart.core s.hart.ser s.hart.pend.toNat).all fun g =>
      (s.holder s.hart.core s.hart.ser g).isNone) = true :=
    List.all_eq_true.2 fun g hg => by rw [hfree g hg]; rfl
  simp only [State.applyShare, hp, hne, hloc, hlen, hall]
  rfl

theorem Resized.congr {n : BitVec 3} {h g k : Hart} (hr : Resized n h g) (hs : k.share = g.share) (hv : k.vreg = g.vreg)
    (hk : k.kreg = g.kreg) (ht : k.tile = g.tile) : Resized n h k := by
  rw [Resized, hs, hv, hk, ht]
  exact hr

/-- `svl` once the pending share has been applied. -/
theorem exec_svl_of_applied {g : Hart} (hq : s.hart.queue = []) (happ : s.applyShare = .ok { s with hart := g }) :
    exec (.svl d a) s = .next (setStrip d a { s with hart := g }) := by
  change Host.Outcome.next (withShare (setStrip d a) s) = _
  rw [withShare, hq, happ]
  simp

theorem shareApplied_claim : Claims.ShareApplied := by
  intro s d a hp hq
  refine ⟨fun hloc hok hfree => ?_, fun hloc hne hlen hfree => ?_⟩
  · by_cases hzero : s.hart.pend = 0
    · refine ⟨_, exec_svl_of_applied hq (State.applyShare_zero hp hzero), ?_⟩
      obtain ⟨hstrip, hs, -, -, hv, hk, ht⟩ := setStrip_after_share (d := d) (a := a) (s := s)
        (g := { s.hart.resize 0 with vloc := 0, groups := [] }) rfl rfl rfl rfl rfl hzero.symm
      rw [hzero]
      rw [hzero] at hstrip
      exact ⟨hstrip, Resized.congr (Hart.resize_resized hok 0) hs hv hk ht⟩
    · obtain ⟨gs, happ⟩ := State.applyShare_lanes hp hzero hloc (hfree hzero)
      refine ⟨_, exec_svl_of_applied hq happ, ?_⟩
      obtain ⟨hstrip, hs, -, -, hv, hk, ht⟩ := setStrip_after_share (d := d) (a := a) (s := s)
        (g := { s.hart.resize s.hart.pend with groups := gs }) rfl rfl rfl rfl rfl rfl
      exact ⟨hstrip, Resized.congr (Hart.resize_resized hok _) hs hv hk ht⟩
  · refine ⟨_, exec_svl_of_applied hq (State.applyShare_fresh hp hne hloc hlen hfree), ?_⟩
    exact setStrip_after_share rfl rfl rfl rfl rfl rfl

end

/-- Settles O21: a share that is pending is applied first, and the strip follows from the share that the hart then has. -/
theorem stripSetting : Obligations.StripSetting := ⟨stripSetting_claim, shareApplied_claim⟩

end Sys2Proof.Machine


/-! ## What the model answers where three statements say otherwise (R156, R157, R239) -/

namespace Sys2Proof.Machine
open Sys2Proof.Claims

/-- An instruction has one outcome, so what two statements say of it holds of one state. -/
theorem Yields.both {i : Instr} {s : State} {P Q : State → Prop} (hp : Yields i s P) (hq : Yields i s Q) :
    ∃ t, P t ∧ Q t := by
  obtain ⟨t, ht, hp⟩ := hp
  obtain ⟨u, hu, hq⟩ := hq
  obtain rfl := Host.Outcome.next.inj (ht.symm.trans hu)
  exact ⟨t, hp, hq⟩

/-! ### A queued instruction that has completed before an older one -/

/-- A `kset` of k1 that has completed. -/
def settledSet : QEntry :=
  { farEntry with instr := .kset 0 0 1, cls := .arith, vl := 1, start := 0, done := true }

/-- A hart whose oldest queued instruction has not begun, with `settledSet` behind it. -/
def settledBehind : State :=
  { State.reset with
    hart := { Hart.blank with
      life := .running, share := 1, vloc := 1, queue := [{ farEntry with start := 0 }, settledSet] } }

/-- The predicate has been produced, and `kpop` of it completes. -/
theorem settledBehind_kpop : Yields (.kpop 1 1) settledBehind fun t => t.hart.pc = 4 := ⟨_, rfl, rfl⟩

/-- Refutes O25: the last clause says that `kpop` waits while a queued instruction writes its predicate, and does not ask
that the instruction has still to produce it. In `settledBehind` it has, and stays in the queue for the older one alone. -/
theorem not_vectorReaders : ¬ Obligations.VectorReaders := by
  intro h
  obtain ⟨-, -, hwritten⟩ := h settledBehind 1 1 rfl (by decide)
  obtain ⟨hpop, -⟩ := hwritten ⟨settledSet, by simp [settledBehind], 1, rfl, rfl⟩
  obtain ⟨t, hpc, hwaits⟩ := settledBehind_kpop.both hpop
  rw [hwaits] at hpc
  exact absurd hpc (by decide)

/-! ### A read of a stream with an older read queued -/

/-- A queued `vqrd` of stream 1. -/
def queuedRead : QEntry :=
  { farEntry with instr := .vqrd 0 0 1 0 0, cls := .load, vl := 1, start := 0 }

/-- A hart that waits in `qrd` of stream 0, where an element has arrived, with `queuedRead` in its queue. -/
def waitingRead : State :=
  { State.reset with
    hart := { Hart.blank with
      life := .running, queue := [queuedRead], wait := some (.qrd 0 1)
      streams := Hart.blank.streams.set 0 { Stream.unbound with bound := true, extent := 1, ready := [5] } } }

/-- The step that ends the wait takes the element. -/
theorem waitingRead_returns : Yields (.qrdReturn 0) waitingRead fun t => t.hart.pc = 4 := ⟨_, rfl, rfl⟩

/-- The instruction itself waits for the queued read. -/
theorem waitingRead_waits :
    Yields (.qrd 0 1) (woken (waitingRead.focus 0)) fun t => (t.focus waitingRead.hart.ser).hart.pc = 0 := ⟨_, rfl, rfl⟩

/-- Refutes O45: the clause on `qrd` says that the step which ends the wait acts as the instruction does. In `waitingRead` a
`vqrd` of the stream is queued: the instruction waits for it, and the step, which does not look at the queue, completes. -/
theorem not_waitEnds : ¬ Obligations.WaitEnds := by
  intro h
  obtain ⟨-, -, hqrd, -⟩ := h waitingRead 0 1 0 0 0 0
  obtain ⟨u, hpc, v, hexec, rfl⟩ := waitingRead_returns.both (hqrd waitingRead.hart rfl rfl rfl)
  obtain ⟨t, hwaits, rfl⟩ := waitingRead_waits.both ⟨v, hexec, rfl⟩
  rw [hwaits] at hpc
  exact absurd hpc (by decide)

/-! ### An element across two lines, one of them forwarded -/

/-- An `mmcpy` of one element of two bytes, from 1,024 to 63, whose range has passed its probe. -/
def lineCopy : QEntry :=
  { farEntry with
    instr := .mmcpy 0 0 1 2 0, cls := .arith, vl := 1, start := 0, vtype := 0x14
    ops := #v[⟨63, none⟩, ⟨1024, none⟩, ⟨0, none⟩]
    probed := some [⟨0, SlotWord.ofNat 0⟩, ⟨0, SlotWord.ofNat 0⟩], limit := 1 }

/-- The line at 64 is forwarded to 256, and the second byte of the source is 1. -/
def forwardedLine : State :=
  { State.reset with
    hart := { Hart.blank with life := .running, share := 1, vloc := 1, queue := [lineCopy] }
    mem := [(1025, 1)], fwd := State.reset.fwd.set 0 ⟨1, 4, 64, 2⟩ }

theorem forwardedLine_sole : SoleIssuer 0 forwardedLine lineCopy :=
  ⟨rfl, rfl, rfl, rfl, fun _ => rfl, fun _ hh => absurd hh List.not_mem_nil, fun _ hw => absurd hw List.not_mem_nil⟩

/-- The second byte of the element goes where its line has been moved. -/
theorem forwardedLine_moves : Yields (.microopIssue 0) forwardedLine fun t => Bytes.get t.mem 256 = 1 := by
  have hissue : (issueHead forwardedLine).map (fun t => (t.hart.ser, Bytes.get t.mem 256)) = some (0, 1) := by decide
  obtain ⟨t, ht, hread⟩ := Option.map_eq_some_iff.1 hissue
  obtain ⟨hser, hbyte⟩ := Prod.mk.inj hread
  exact ⟨t, sole_exec forwardedLine_sole ht hser, hbyte⟩

theorem lineCopy_local (j : Fin 3) :
    LocalMemory forwardedLine (lineCopy.ops[j].val + BitVec.ofNat 64 0 * lineCopy.strides[j]).toNat := by
  match j with
  | 0 => exact .inl ⟨_, _, rfl⟩
  | 1 => exact .inl ⟨_, _, rfl⟩
  | 2 => exact .inl ⟨_, _, rfl⟩

/-- The two bytes at the destination are zero, and those at the source 0 and 1. -/
theorem lineCopy_reads : ∀ j : Fin 3, j.val ≤ 1 →
    forwardedLine.readBytes forwardedLine.ctx (SlotWord.ofNat 0)
      (lineCopy.ops[j].val + BitVec.ofNat 64 0 * lineCopy.strides[j]).toNat 2 = some (if j = 1 then [0, 1] else [0, 0]) := by
  decide

/-- The only active element is the first. -/
theorem lineCopy_accessed (i : Nat) : Accessed lineCopy forwardedLine.hart i ↔ i = 0 := by
  refine ⟨fun h => ?_, fun h => h ▸ ⟨Nat.le_refl 0, Nat.zero_lt_one, rfl⟩⟩
  obtain ⟨-, hlt, -⟩ := h
  exact Nat.lt_one_iff.1 hlt

/-- Refutes O30: `Claims.MemoryForms` says that a memory-to-memory form, once its range has passed, changes no byte outside
the `n` at the place of its element. It asks for no alignment (R226), and the element of `lineCopy` lies across two
lines: the second is forwarded, and its byte changes at 256, far from the place 63 of the first. -/
theorem not_vectorMemory : ¬ Obligations.VectorMemory := by
  rintro ⟨-, -, -, -, -, -, hforms⟩
  obtain ⟨-, hmoves⟩ := hforms forwardedLine 0 lineCopy (.uint 16) 1 (fun _ a _ => (a, 0)) (fun _ => ⟨0, SlotWord.ofNat 0⟩)
    forwardedLine_sole rfl rfl rfl rfl (by decide) (.inl rfl)
  have hstays := hmoves 0 (fun j => if j = 1 then [0, 1] else [0, 0]) ((lineCopy_accessed 0).2 rfl)
    (fun j _ => Nat.zero_le j) rfl (fun j hj => ⟨lineCopy_local j, lineCopy_reads j hj⟩) (fun _ _ _ => .inl rfl) (.inl rfl)
  obtain ⟨u, hmoved, -, -, -, hsame, -⟩ := forwardedLine_moves.both hstays
  exact absurd (hmoved.symm.trans (hsame 256 (.inr (by decide)))) (by decide)

end Sys2Proof.Machine


/-! ## What an instruction has read so far (R177, R229, R309) -/

namespace Sys2Proof.Machine
open Sys2Proof.Claims

section
variable {s t u : State} {tag : Option (BitVec 16)} {r : SlotRef} {a n size : Nat} {bs : List Byte}

/-! ### Probes -/

/-- A probe that passes gives the slot word of its index. -/
theorem State.probe_word {c : Ctx} {acc : Access} (h : s.probe c acc = .ok r) :
    r.index = acc.idx ∧ s.slotWordAt c.core c.table acc.idx = some r.word := by
  unfold State.probe at h
  by_cases halign : acc.a % acc.align ≠ 0
  · rw [if_pos halign] at h
    cases h
  · by_cases hpop : (!s.populated acc.a acc.n) = true
    · rw [if_neg halign, if_pos hpop] at h
      cases h
    · rw [if_neg halign, if_neg hpop] at h
      cases hlost : s.slotLost c.core c.table acc.idx with
      | some l => rw [hlost] at h; cases h
      | none =>
        rw [hlost] at h
        cases hw : s.slotWordAt c.core c.table acc.idx with
        | none => rw [hw] at h; cases h
        | some sw =>
          rw [hw] at h
          dsimp only at h
          have hr : r = ⟨acc.idx, sw⟩ := by
            repeat' split at h
            all_goals cases h
            all_goals rfl
          rw [hr]
          exact ⟨rfl, rfl⟩

theorem State.probeRange_word {c : Ctx} {idx align : Nat} {need : BitVec 4} {raw : Bool}
    (h : s.probeRange c idx a n size align need raw = .ok r) :
    r.index = idx ∧ s.slotWordAt c.core c.table idx = some r.word := by
  unfold State.probeRange at h
  dsimp only at h
  cases hp : s.probe c ⟨idx, a, n, align, need, false, true, raw⟩ with
  | ok w =>
    rw [hp] at h
    cases h
    exact State.probe_word hp
  | error d =>
    rw [hp] at h
    dsimp only at h
    split at h
    · cases h
    · split at h <;> cases h

/-- A place in a slot: its index, its word, and an offset from the word's base. -/
def PlaceOf (s : State) (c : Ctx) (idx off : Nat) (p : SlotRef × Nat) : Prop :=
  p.1.index = idx ∧ s.slotWordAt c.core c.table idx = some p.1.word ∧ p.2 = p.1.word.lo + off

theorem State.probeExtent_place {c : Ctx} {x : Span} {p : SlotRef × Nat} (h : s.probeExtent c x = .ok p) :
    PlaceOf s c x.idx x.off p := by
  unfold State.probeExtent at h
  split at h
  · cases h
  · split at h
    · cases h
    · next sw hw =>
      split at h
      · cases h
        exact ⟨rfl, hw, rfl⟩
      · split at h
        · next w hr =>
          cases h
          obtain ⟨hi, hword⟩ := State.probeRange_word hr
          cases hw.symm.trans hword
          exact ⟨hi, hword, rfl⟩
        · cases h

/-- Extents that pass their probes lie each in its own slot. -/
theorem State.probeAll_places {c : Ctx} {xs : List Span} {rs : List (SlotRef × Nat)} (h : s.probeAll c xs = .ok rs) :
    List.Forall₂ (fun x p => PlaceOf s c x.idx x.off p) xs rs := by
  induction xs generalizing rs with
  | nil =>
    cases h
    exact .nil
  | cons x xs ih =>
    unfold State.probeAll at h
    split at h
    · cases h
    · cases h
    · next r rs' hx hxs =>
      cases h
      exact .cons (State.probeExtent_place hx) (ih hxs)

theorem State.probeAll_spanAt {c : Ctx} {xs : List Span} {rs : List (SlotRef × Nat)} (h : s.probeAll c xs = .ok rs)
    {i : Nat} {x : Span} (hx : xs[i]? = some x) : PlaceOf s c x.idx x.off (spanAt rs i) := by
  obtain ⟨hi, rfl⟩ := List.getElem?_eq_some_iff.1 hx
  have hall := State.probeAll_places h
  have hi' : i < rs.length := hall.length_eq ▸ hi
  rw [spanAt, List.getD_eq_getElem _ _ hi']
  exact hall.get hi hi'

/-! ### Reads through a slot -/

/-- The instruction at pc has read, beside page counts, what memory holds through the slots of its context, and it captures no
vector element by element. -/
structure HasRead (s u : State) : Prop where
  reads : ReadsOnly s u
  seen : ∀ i a n bs, u.hart.seenAt i a n = some bs →
    ∃ sw, s.slotWordAt s.ctx.core s.ctx.table i = some sw ∧ s.readBytes s.ctx sw a n = some bs
  vec : u.hart.capture.bind Capture.vec = none

theorem HasRead.refl (h : s.hart.capture = none) : HasRead s s where
  reads := rfl
  seen i a n bs hs := by cases (Hart.seenAt_none h i a n).symm.trans hs
  vec := by rw [h]; rfl

theorem HasRead.counts (h : HasRead s t) (hu : u = counted t u) : HasRead s u where
  reads := h.reads.trans (.of_counts hu)
  seen i a n bs hs := h.seen i a n bs (counted_hart hu ▸ hs)
  vec := counted_hart hu ▸ h.vec

theorem State.remember_seenAt {i j b m : Nat} {cs : List Byte} (h : (s.remember i a bs).hart.seenAt j b m = some cs) :
    j = i ∧ b = a ∧ m = bs.length ∧ cs = bs ∨ s.hart.seenAt j b m = some cs := by
  unfold State.remember Hart.seenAt at h
  simp only [State.mapHart_hart, Option.bind_some] at h
  cases hc : s.hart.capture with
  | none =>
    simp only [hc, List.find?_cons] at h
    split at h
    · next hcond =>
      left
      cases h
      simp only [Bool.and_eq_true, beq_iff_eq, Prod.mk.injEq] at hcond
      exact ⟨hcond.1.1.symm, hcond.1.2.symm, hcond.2.symm, rfl⟩
    · cases h
  | some c =>
    simp only [hc, List.find?_cons] at h
    split at h
    · next hcond =>
      left
      cases h
      simp only [Bool.and_eq_true, beq_iff_eq, Prod.mk.injEq] at hcond
      exact ⟨hcond.1.1.symm, hcond.1.2.symm, hcond.2.symm, rfl⟩
    · right
      unfold Hart.seenAt
      rw [hc]
      exact h

theorem HasRead.remember {i : Nat} {sw : SlotWord} (h : HasRead s u)
    (hw : s.slotWordAt s.ctx.core s.ctx.table i = some sw) (hr : s.readBytes s.ctx sw a bs.length = some bs) :
    HasRead s (u.remember i a bs) where
  reads := h.reads.trans (u.remember_readsOnly i a bs)
  seen j b m cs hs := by
    rcases State.remember_seenAt hs with ⟨rfl, rfl, rfl, rfl⟩ | hs
    · exact ⟨sw, hw, hr⟩
    · exact h.seen j b m cs hs
  vec := by
    have hv := h.vec
    unfold State.remember
    rw [State.mapHart_hart]
    cases hc : u.hart.capture with
    | none => rfl
    | some c =>
      rw [hc] at hv
      exact hv

/-- What a structure's bytes are does not hang on when they are read. -/
theorem structAt_bytes (h : StructAt s tag a n bs) (hn : 8 ≤ n) : bs.length = n ∧ ∃ sw,
    s.slotWordAt s.ctx.core s.ctx.table (slotIndex tag) = some sw ∧ s.readBytes s.ctx sw a n = some bs := by
  obtain ⟨hlen, ref, hprobe, -, -, hread⟩ := h
  exact ⟨hlen, ref.word, (State.probe_word (hprobe 0 (by omega) rfl)).2, hread⟩

/-- A structure that passes its probes is read, or has been read before. -/
theorem HasRead.readStruct (h : HasRead s u) (hp : Prompt s) (hs : StructAt s tag a n bs) (hn : 8 ≤ n) :
    ∃ v, HasRead s v ∧ ∀ f, u.readStruct tag a n f = f bs v := by
  obtain ⟨hlen, sw, hw, hread⟩ := structAt_bytes hs hn
  cases hseen : u.hart.seenAt (slotIndex tag) a n with
  | some cs =>
    obtain ⟨sw', hw', hread'⟩ := h.seen _ _ _ _ hseen
    cases hw.symm.trans hw'
    cases hread.symm.trans hread'
    refine ⟨u, h, fun f => ?_⟩
    unfold State.readStruct
    rw [hseen]
  | none =>
    obtain ⟨v, hv, he⟩ := State.readStruct_eq (h.reads.prompt hp) (h.reads.structAt hs) hn hseen
    exact ⟨_, (h.counts hv).remember hw (hlen ▸ hread), he⟩

/-- A structure of a slot that another structure names is read likewise. -/
theorem HasRead.readNamed (h : HasRead s u) (hp : Prompt s) {idx off : Nat} {sw : SlotWord}
    (hw : s.slotWord s.ctx.table idx = some sw) (hl : s.slotLost s.hart.core s.ctx.table idx = none)
    (hs : StructAt s (some (BitVec.ofNat 16 idx)) (sw.lo + off) n bs) (hn : 8 ≤ n) :
    ∃ v, HasRead s v ∧ ∀ f, u.readNamed idx off n f = f (sw.lo + off) bs v := by
  obtain ⟨v, hv, he⟩ := h.readStruct hp hs hn
  refine ⟨v, hv, fun f => ?_⟩
  have hw' : u.slotWord u.ctx.table idx = some sw := by rw [h.reads]; exact hw
  have hl' : u.slotLost u.hart.core u.ctx.table idx = none := by rw [h.reads]; exact hl
  unfold State.readNamed
  rw [hl', hw']
  exact he _

/-- Bytes of an extent in local memory are read, or have been read before. -/
theorem HasRead.ownRead (h : HasRead s u) (hp : Prompt s) (hw : s.slotWordAt s.ctx.core s.ctx.table r.index = some r.word)
    (hr : ReadsAs s (r, a) n bs) : ∃ v, HasRead s v ∧ ∀ f, u.ownRead r a n size f = f bs v := by
  obtain ⟨hlen, hloc, hheld, hread⟩ := hr
  by_cases hn : n = 0
  · subst hn
    obtain rfl := List.eq_nil_of_length_eq_zero hlen
    exact ⟨u, h, fun f => if_pos rfl⟩
  · cases hseen : u.hart.seenAt r.index a n with
    | some cs =>
      obtain ⟨sw, hw', hread'⟩ := h.seen _ _ _ _ hseen
      cases hw.symm.trans hw'
      cases hread.symm.trans hread'
      refine ⟨u, h, fun f => ?_⟩
      unfold State.ownRead
      rw [if_neg hn, hseen]
    | none =>
      obtain ⟨hlife, -, -, hstores⟩ := h.reads.prompt hp
      have hc := u.countAccess_counts r.word a n
      have hv := h.counts hc
      have hloc' : LocalMemory u a := by rw [h.reads]; exact hloc
      have hheld' : NoHeldWrite u a n := by rw [h.reads]; exact hheld
      refine ⟨_, hv, fun f => ?_⟩
      unfold State.ownRead
      rw [if_neg hn, hseen]
      dsimp only
      rw [u.seeStores_eq a n hstores, if_neg (not_not_intro hlife), hheld'.free, (hloc'.counted hc).beforeRead_eq]
      generalize u.countAccess r.word a n = v at hv
      have hlife' : v.hart.life = .running := (hv.reads.prompt hp).1
      have hread' : v.readBytes v.ctx r.word a n = some bs := by rw [hv.reads]; exact hread
      rcases hloc' with ⟨_, _, hreg⟩ | ⟨_, _, hreg⟩ <;>
        simp only [hreg, Bool.false_eq_true, if_false, hlife', hread', ne_eq, not_true_eq_false]

/-- A hart whose captures are not slow captures a vector at once. -/
theorem HasRead.captureVector (h : HasRead s u) (hp : Prompt s)
    (hw : s.slotWordAt s.ctx.core s.ctx.table r.index = some r.word) (hr : ReadsAs s (r, a) n bs) :
    ∃ v, HasRead s v ∧ ∀ f, u.captureVector r a n size f = f bs v := by
  obtain ⟨v, hv, he⟩ := h.ownRead (size := size) hp hw hr
  obtain ⟨-, -, hslow, -⟩ := h.reads.prompt hp
  by_cases hn : n = 0
  · subst hn
    obtain rfl := List.eq_nil_of_length_eq_zero hr.1
    exact ⟨u, h, fun f => if_pos rfl⟩
  · refine ⟨v, hv, fun f => ?_⟩
    have hs : u.slowCapture a = false := by
      unfold State.slowCapture
      rw [hslow, Bool.false_and]
    unfold State.captureVector
    rw [if_neg hn, h.vec, hs]
    exact he f

theorem ReadsOnly.probeAll (h : ReadsOnly s u) (c : Ctx) (xs : List Span) : u.probeAll c xs = s.probeAll c xs := by
  have hone (x : Span) : u.probeExtent c x = s.probeExtent c x := by
    rw [h]
    rfl
  induction xs with
  | nil => rfl
  | cons x xs ih => rw [State.probeAll, State.probeAll, hone, ih]

/-- What passed the probes of its extents before it read passes them after. -/
theorem HasRead.withExtents (h : HasRead s u) {xs : List Span} {rs : List (SlotRef × Nat)}
    (hx : s.probeAll s.ctx xs = .ok rs) (f : List (SlotRef × Nat) → State) : u.withExtents xs f = f rs := by
  have hc : u.ctx = s.ctx := by rw [h.reads]; rfl
  unfold State.withExtents
  rw [hc, h.reads.probeAll, hx]

end

end Sys2Proof.Machine


/-! ## The order of a map, predicates and fields (R114, R177, R179, R195, R196) -/

namespace Sys2Proof.Machine
open Sys2Proof.Claims

section
variable {s t u : State}

/-! ### Waits of an engine instruction -/

theorem State.drained_scalar (h : ScalarPerformed s) : s.drained false = true := by
  obtain ⟨hstores, hpackets, hheld⟩ := h
  simp only [State.drained, PendingStore.of, Bool.and_eq_true, Bool.not_eq_true', List.any_eq_false, Bool.false_and,
    Bool.or_false, beq_iff_eq, Bool.not_false, Bool.true_or, and_true]
  exact ⟨⟨hpackets, hheld⟩, hstores⟩

theorem HasRead.drained (h : HasRead s u) (hs : ScalarPerformed s) : u.drained false = true := by
  have : u.drained false = s.drained false := by rw [h.reads]; rfl
  rw [this, State.drained_scalar hs]

theorem noOlderWriter_predBusy {h : Hart} {k : BitVec 4} (hk : NoOlderWriter h k) : h.predBusy k.toNat = false := by
  rw [Hart.predBusy, List.any_eq_false]
  intro e he hb
  have hw := (Bool.and_eq_true_iff.1 hb).2
  rw [beq_iff_eq, QEntry.predWritten] at hw
  split at hw
  · next d hd => exact hk e he d hd (Option.some.inj hw)
  · cases hw
  · cases hw
  · cases hw

theorem noOlderVector_regBusy {h : Hart} {r : Nat} (hr : NoOlderVector h r) : h.regBusy r = false := by
  rw [Hart.regBusy, List.any_eq_false]
  intro e he hb
  obtain ⟨x, hx, hshare⟩ := List.any_eq_true.1 (Bool.and_eq_true_iff.1 hb).2
  rw [List.any_cons, List.any_nil, Bool.or_false, decide_eq_true_eq] at hshare
  have hcopies (d : BitVec 5) (n : Nat) (hx : x ∈ (e.copies d).map fun q => (q, n)) :
      ∃ v ∈ destinations e d, x = (v.toNat, n) := by
    obtain ⟨q, hq, rfl⟩ := List.mem_map.1 hx
    obtain ⟨v, hv, rfl⟩ := (mem_copies e d q).1 hq
    exact ⟨v, hv, rfl⟩
  unfold QEntry.writes at hx
  split at hx
  · next d hd =>
    obtain ⟨v, hv, rfl⟩ := hcopies d _ hx
    have := hr e he d _ (.inl ⟨hd, rfl⟩) v hv
    have hg : vtG e.vtype = 2 ^ fieldOf e.vtype 8 2 := rfl
    omega
  · next d hd =>
    obtain ⟨v, hv, rfl⟩ := hcopies d _ hx
    have := hr e he d 1 (.inr ⟨hd, rfl⟩) v hv
    omega
  · cases hx
  · cases hx

theorem State.afterPred_free {k : BitVec 4} (h : NoOlderWriter s.hart k) (f : State → State) : s.afterPred k f = f s := by
  rw [State.afterPred, noOlderWriter_predBusy h, if_neg Bool.false_ne_true]

/-! ### The events of a map -/

theorem HasRead.mapTaken (h : HasRead s u) (k : Nat) : u.mapTaken k = s.mapTaken k := by
  rw [h.reads]
  rfl

/-- An event begins on a map that no other hart's event holds. -/
theorem HasRead.beginMap (h : HasRead s u) {m : MapBlock} (hm : MapFree s m) :
    ∃ v, HasRead s v ∧ ∀ f, u.beginMap (u.key u.hart.core m.addr) f = f v := by
  have hk : u.key u.hart.core m.addr = s.mapKey m := by rw [h.reads]; rfl
  have hfree : u.mapTaken (s.mapKey m) = false := (h.mapTaken _).trans hm
  refine ⟨u.mapHart fun h => { h with capture := some { h.capture.getD ⟨[], none, none⟩ with map := some (s.mapKey m) } },
    ⟨h.reads.trans rfl, fun i a n bs hs => h.seen i a n bs ?_, ?_⟩, fun f => ?_⟩
  · cases hc : u.hart.capture with
    | none =>
      rw [Hart.seenAt, State.mapHart_hart, hc] at hs
      cases hs
    | some c =>
      rw [Hart.seenAt, State.mapHart_hart, hc] at hs
      rw [Hart.seenAt, hc]
      exact hs
  · have hv := h.vec
    rw [State.mapHart_hart]
    cases hc : u.hart.capture with
    | none => rfl
    | some c =>
      rw [hc] at hv
      exact hv
  · unfold State.beginMap
    rw [hk, hfree, if_neg Bool.false_ne_true]

/-- An event of a map that another hart's event holds does not begin. -/
theorem State.beginMap_waits {m : MapBlock} (h : ¬ MapFree s m) (f : State → State) :
    s.beginMap (s.mapKey m) f = s.waitFor .retry :=
  if_pos ((Bool.not_eq_false _).mp h)

/-- A map instruction whose checks pass goes on with its block and its extents (R177, R195). -/
theorem withMap_eq {a : BitVec 5} {m : MapBlock} {rs own : List (SlotRef × Nat)} {write : Bool} (h : MapReady s a m rs)
    (hs : Fresh s)
    (hown : (if write then (m.ownProbe s).map fun r => [(r, m.addr)] else .ok []) = .ok own) :
    ∃ u, HasRead s u ∧ ∀ f, withMap a write f s = f m (rs ++ own) u := by
  obtain ⟨haddr, halign, hidx, hfree, hstruct, hext, hrest, hprobe, -⟩ := h
  obtain ⟨hprompt, hcap⟩ := hs
  obtain ⟨v, hv, hbegin⟩ := (HasRead.refl hcap).beginMap hfree
  obtain ⟨u, hu, hread⟩ := hv.readStruct hprompt hstruct (by decide)
  refine ⟨u, hu, fun f => ?_⟩
  have hblock : (⟨m.addr, slotIndex (u.hart.tagOf a), m.bytes⟩ : MapBlock) = m := by rw [hu.reads.tagOf, ← hidx]
  have hprobed : m.ownProbe u = m.ownProbe s := by rw [hu.reads]; rfl
  unfold withMap
  dsimp only
  rw [← haddr, if_neg (not_not_intro halign), hbegin, hv.reads.tagOf, hread, hblock, hext, if_neg Bool.false_ne_true, hprobed,
    hown]
  dsimp only
  rw [hu.withExtents hprobe, hrest, if_neg Bool.false_ne_true]

theorem withMap_waits {a : BitVec 5} {m : MapBlock} {write : Bool} (haddr : m.addr = (s.hart.xr a).toNat)
    (halign : m.addr % 64 = 0) (h : ¬ MapFree s m) (f : MapBlock → List (SlotRef × Nat) → State → State) :
    withMap a write f s = s.waitFor .retry := by
  unfold withMap
  dsimp only
  rw [← haddr, if_neg (not_not_intro halign)]
  exact State.beginMap_waits h _

end

end Sys2Proof.Machine


/-! ## Tickets (R176, R177, R189, R190, R194) -/

namespace Sys2Proof.Machine
open Sys2Proof.Claims

/-! ### Completion bits -/

theorem getLsbD_one_shiftLeft {i j : Nat} (hi : i < 8) : (1#8 <<< j).getLsbD i = decide (i = j) := by
  rw [BitVec.getLsbD_shiftLeft, BitVec.getLsbD_one]
  simp only [hi, decide_true, Bool.true_and]
  by_cases h : i < j
  · simp [h, Nat.ne_of_lt h]
  · simp only [h, decide_false, Bool.not_false, Bool.true_and, Nat.zero_lt_succ, decide_true]
    exact decide_eq_decide.2 (by omega)

/-- A bit of a predicate after one is set or cleared (R133, R179). -/
theorem Hart.kbit_setBit {h : Hart} {k : BitVec 4} {n : Nat} (hk : k.toNat < 12) (hn : n < 8 * h.c)
    (hw : Memory.wf h.kreg[k.toNat] = true) (v : Bool) (r i : Nat) :
    (h.setBit k n v).kbit r i = if r = k.toNat ∧ i = n then v else h.kbit r i := by
  unfold Hart.setBit
  rw [dif_pos hk, if_pos hn]
  by_cases hr : r = k.toNat
  · subst hr
    unfold Hart.kbit
    rw [dif_pos hk, dif_pos hk]
    dsimp only
    rw [Vector.getElem_set_self, Bytes.get_write hw, List.length_singleton]
    have hi := Nat.mod_lt i (show 0 < 8 by decide)
    by_cases hb : i / 8 = n / 8
    · rw [if_pos (by omega), hb, Nat.sub_self, List.getD_cons_zero]
      have hbit : i % 8 = n % 8 ↔ k.toNat = k.toNat ∧ i = n := by omega
      cases v
      · rw [if_neg Bool.false_ne_true, BitVec.getLsbD_and, BitVec.getLsbD_not, getLsbD_one_shiftLeft hi]
        by_cases he : i = n
        · simp [he]
        · simp [he, hbit, hi]
      · rw [if_pos rfl, BitVec.getLsbD_or, getLsbD_one_shiftLeft hi]
        by_cases he : i = n
        · simp [he]
        · simp [he, hbit]
    · rw [if_neg (by omega), if_neg (by omega)]
  · unfold Hart.kbit
    rw [if_neg (fun h => hr h.1)]
    split
    · dsimp only
      rw [Vector.getElem_set_ne _ _ (Ne.symm hr)]
    · rfl

/-- Clearing a bit changes the predicates alone. -/
theorem Hart.setBit_false_eq (h : Hart) (k : BitVec 4) (n : Nat) :
    h.setBit k n false = { h with kreg := (h.setBit k n false).kreg } := by
  unfold Hart.setBit
  split
  · split
    · simp
    · rfl
  · rfl

theorem kreg_getD {h : Hart} {k : Nat} (hk : k < 12) : h.kreg.toList.getD k [] = h.kreg[k] := by
  rw [List.getD_eq_getElem _ _ (by simpa using hk)]
  simp

/-! ### Fields of vectors -/

theorem splitElems_eq (w m : Nat) (hw : 0 < w) {bs : List Byte} (h : bs.length = m * w) :
    splitElems w bs = (List.range m).map fun i => fieldOfBytes bs (w * i) w := by
  rw [splitElems, h, Nat.mul_div_cancel _ hw, chunks_eq, List.map_map]
  exact List.map_congr_left fun i _ => fieldAt_eq bs (w * i) w

theorem getD_map_range (f : Nat → Nat) {m i : Nat} (h : i < m) : ((List.range m).map f).getD i 0 = f i := by
  rw [List.getD_eq_getElem?_getD, List.getElem?_map, List.getElem?_range h]
  rfl

theorem codeBytes_pos (et : Nat) : 0 < codeBytes et := by
  unfold codeBytes
  split
  · next t ht => exact (ETy.ofCode_whole ht).bytes_pos
  · exact Nat.one_pos

theorem zeroAt_of {bs : List Byte} {o n : Nat} (h : ∀ i, o ≤ i → i < o + n → bs.getD i 0 = 0) : zeroAt bs o n = true := by
  rw [zeroAt, List.all_eq_true]
  intro b hb
  obtain ⟨i, hi, rfl⟩ := List.mem_iff_getElem.1 hb
  have hlen := hi
  rw [List.length_take, List.length_drop] at hlen
  have := h (o + i) (by omega) (by omega)
  rw [List.getD_eq_getElem _ _ (by omega)] at this
  rw [List.getElem_take, List.getElem_drop, this]
  rfl

/-! ### The ticket that is issued -/

section
variable {s u : State}

theorem State.clearBits_one (s : State) (k : BitVec 4) (n : Nat) :
    s.clearBits k [n] = { s with hart := { s.hart with kreg := (s.hart.setBit k n false).kreg } } :=
  congrArg (fun g => { s with hart := g }) (s.hart.setBit_false_eq k n)

/-- Clearing the completion bit, counting the ticket and writing its number are all that the issue does beside the ticket
itself (steps 5 and 7 of R177). -/
theorem HasRead.issueTicket (h : HasRead s u) {a : BitVec 5} {k : BitVec 4} {cbit : Nat} (hk : k.toNat < 12)
    (hw : Memory.wf (s.hart.kreg.toList.getD k.toNat []) = true) (hb : cbit < 8 * s.hart.c) {w : Work} {work : Work → Prop}
    (hwork : work w) : IssuesTicket a k cbit work s ((u.clearBits k [cbit]).issueTicket a k cbit w) := by
  rw [kreg_getD hk] at hw
  obtain ⟨p, e, l, c, rfl⟩ : ∃ p e l c, u = { s with
      pages := p, events := e, eventLost := l, hart := { s.hart with capture := c } } := ⟨_, _, _, _, h.reads⟩
  rw [State.clearBits_one]
  generalize hg : (Hart.setBit _ k cbit false).kreg = kreg
  have hbit (r i : Nat) : ({ s.hart with kreg := kreg } : Hart).kbit r i =
      if r = k.toNat ∧ i = cbit then false else s.hart.kbit r i := by
    rw [← hg]
    exact Hart.kbit_setBit (h := { s.hart with capture := c }) hk hb hw false r i
  have hkreg := Hart.setX_kreg { s.hart with capture := c, kreg := kreg, issue := s.hart.issue + 1 } a
    ((s.hart.issue + 1).zeroExtend 64) none
  have hafter (r i : Nat) := (congrArg (fun l => ({ s.hart with kreg := l } : Hart).kbit r i) hkreg).trans (hbit r i)
  obtain ⟨⟨⟨hframe, -⟩, -, hregs⟩, hx, -⟩ := State.writeBack_writesX _ a _ _
  refine ⟨⟨_, rfl, rfl, rfl, rfl, rfl, rfl, rfl, rfl, rfl, hwork⟩, hframe, ?_, hx, hregs,
    fun i hi => (hafter _ i).trans (if_pos ⟨rfl, hi⟩),
    fun r i hi => (hafter r i).trans (if_neg fun h => hi.elim (fun hr => hr h.1) fun hn => hn h.2)⟩
  exact (congrArg (Hart.retire · (some a)) (Hart.setX_eq _ a _ _)).trans (congrArg (fun l => ({ s.hart.completed (some a) with
    x := _, tag := _, kreg := l, issue := s.hart.issue + 1 } : Hart)) hkreg.symm)

end

end Sys2Proof.Machine


namespace Sys2Proof.Machine
open Sys2Proof.Claims

/-! ### The status of a ticket (R190) -/

theorem ticketStatus : TicketStatus := by
  intro s a b t flying
  have hlive : (s.tickets.any fun k => k.ser == s.hart.ser && k.num == t && !k.mute) = true ↔ flying := by
    simp [flying, and_assoc]
  have key (v : Word) (hv : (if t = 0 ∨ s.hart.issue.toNat < t then 0 else
      if (s.tickets.any fun k => k.ser == s.hart.ser && k.num == t && !k.mute) then 1 else 2) = v) :
      Yields (.nsstat a b) s (WritesX a v none s) := by
    rw [← hv]
    exact ⟨_, rfl, s.writeBack_writesX a _ none⟩
  refine ⟨fun h => key _ (if_pos h), fun h0 hle hf => key _ ?_, fun h0 hle hf => key _ ?_⟩
  · rw [if_neg (by omega), if_pos (hlive.2 hf)]
  · rw [if_neg (by omega), if_neg fun h => hf (hlive.1 h)]

section
variable {s u : State}

theorem PlaceOf.word {c : Ctx} {idx off : Nat} {p : SlotRef × Nat} (h : PlaceOf s c idx off p) :
    s.slotWordAt c.core c.table p.1.index = some p.1.word := by
  obtain ⟨hi, hw, -⟩ := h
  rw [hi, hw]

/-! ### Split products (R191 to R194) -/

/-- The block of a map that a packet names is read, and the event of the map begins (R194, R196). -/
theorem HasRead.readMap (h : HasRead s u) (hp : Prompt s) {idx off : Nat} {sw : SlotWord} {m : MapBlock}
    (hw : s.slotWord s.ctx.table idx = some sw) (hl : s.slotLost s.hart.core s.ctx.table idx = none)
    (haddr : m.addr = sw.lo + off) (halign : m.addr % 64 = 0) (hidx : m.idx = idx) (hfree : MapFree s m)
    (hs : StructAt s (some (BitVec.ofNat 16 idx)) m.addr 64 m.bytes) :
    ∃ v, HasRead s v ∧ ∀ f, u.readMap idx off f = f m v := by
  obtain ⟨v, hv, hbegin⟩ := h.beginMap hfree
  obtain ⟨t, ht, hread⟩ := hv.readNamed hp hw hl (haddr ▸ hs) (by decide)
  refine ⟨t, ht, fun f => ?_⟩
  have hw' : u.slotWord u.ctx.table idx = some sw := by rw [h.reads]; exact hw
  have hl' : u.slotLost u.hart.core u.ctx.table idx = none := by rw [h.reads]; exact hl
  have hblock : (⟨m.addr, idx, m.bytes⟩ : MapBlock) = m := by rw [← hidx]
  unfold State.readMap
  rw [hl', hw']
  dsimp only
  rw [← haddr, if_neg (not_not_intro halign), hbegin, hread, ← haddr, hblock]

theorem HasRead.mapKey (h : HasRead s u) (m : MapBlock) : u.mapKey m = s.mapKey m := by
  rw [h.reads]
  rfl

theorem HasRead.products (h : HasRead s u) (map : Nat) : u.products map = s.products map := by
  rw [h.reads]
  rfl

/-- The extents that a product names beside its map: x and y. -/
def operandSpans (p : List Byte) (m : MapBlock) : List Span :=
  [⟨fieldOfBytes p 4 4, fieldOfBytes p 24 8, m.cols * m.w, m.w, m.w, needRead⟩,
   ⟨fieldOfBytes p 8 4, fieldOfBytes p 32 8, 4 * m.rows, 4, 1, needWrite⟩]

theorem HasRead.checkProduct (h : HasRead s u) {a : BitVec 5} {k : BitVec 4} {addr : Nat} {p : List Byte} {m : MapBlock}
    {rs : List (SlotRef × Nat)} (hext : m.badExtent = false) (hrest : m.badRest = false)
    (hy : fieldOfBytes p 32 8 % 4 = 0) (hz : ∀ o, 40 ≤ o → o < 48 → p.getD o 0 = 0)
    (hb : fieldOfBytes p 12 4 < 8 * s.hart.c) (hprobe : s.probeAll s.ctx (m.spans ++ operandSpans p m) = .ok rs) :
    checkProduct a k addr p m u = issueProduct a k p m rs u := by
  have hbit : u.hart.badBit (fieldOfBytes p 12 4) = false := by
    rw [h.reads]
    exact decide_eq_false (Nat.not_le.2 hb)
  simp only [Machine.checkProduct, fieldAt_eq]
  rw [if_neg (not_not_intro hy), hext, if_neg Bool.false_ne_true]
  refine (h.withExtents hprobe _).trans ?_
  rw [zeroAt_of hz, hbit, hrest]
  rfl

/-- The ticket of a product whose checks have passed. -/
def productTicket (s : State) (m : MapBlock) (rs : List (SlotRef × Nat)) (hot xs : List Byte) : Product where
  map := s.mapKey m
  half := m.cur
  hot := splitElems 4 hot
  etype := BitVec.ofNat 8 m.et
  rows := m.rows
  cols := m.cols
  hmax := m.hmax
  rstride := m.rstride
  wslot := (spanAt rs 0).1
  hslot := (spanAt rs 2).1
  yslot := (spanAt rs 4).1
  waddr := (spanAt rs 0).2
  haddr := (spanAt rs 2).2 + m.cur * m.hhalf + m.lb
  yaddr := (spanAt rs 4).2
  x := splitElems m.w xs

theorem HasRead.issueProduct (h : HasRead s u) (hp : Prompt s) {a : BitVec 5} {k : BitVec 4} {p : List Byte} {m : MapBlock}
    {rs : List (SlotRef × Nat)} {hot xs : List Byte} (hperf : ScalarPerformed s)
    (hprobe : s.probeAll s.ctx (m.spans ++ operandSpans p m) = .ok rs)
    (hhot : m.nhot m.cur = 0 ∧ hot = [] ∨
      ReadsAs s ((spanAt rs 2).1, (spanAt rs 2).2 + m.cur * m.hhalf) (4 * m.nhot m.cur) hot)
    (hx : ReadsAs s (spanAt rs 3) (m.cols * m.w) xs) (hroom : (s.products (s.mapKey m)).length < 64) :
    ∃ v, HasRead s v ∧ Machine.issueProduct a k p m rs u = (v.clearBits k [fieldOfBytes p 12 4]).issueTicket a k
      (fieldOfBytes p 12 4) (.product (productTicket s m rs hot xs)) := by
  obtain ⟨v, hv, hlist⟩ : ∃ v, HasRead s v ∧ ∀ f,
      u.ownRead (spanAt rs 2).1 ((spanAt rs 2).2 + m.cur * m.hhalf) (4 * m.nhot m.cur) 4 f = f hot v := by
    rcases hhot with ⟨h0, rfl⟩ | hhot
    · exact ⟨u, h, fun f => if_pos (by omega)⟩
    · exact h.ownRead hp (State.probeAll_spanAt hprobe (i := 2) rfl).word hhot
  obtain ⟨w, hw, hvec⟩ := hv.captureVector (a := (spanAt rs 3).2) (size := m.w) hp
    (State.probeAll_spanAt hprobe (i := 3) rfl).word hx
  have hmap : (w.clearBits k [fieldOfBytes p 12 4]).mapKey m = s.mapKey m := by
    rw [State.clearBits_one]
    exact hw.mapKey m
  have hproducts (x : Nat) : (w.clearBits k [fieldOfBytes p 12 4]).products x = s.products x := hw.products x
  refine ⟨w, hw, ?_⟩
  unfold Machine.issueProduct
  dsimp only
  rw [h.drained hperf, if_neg (by decide), hlist, hvec, fieldAt_eq, hmap, hproducts, if_neg (Nat.not_le.2 hroom)]
  rfl

/-- What the ticket of a product holds (R194). -/
theorem splitProductIssue : SplitProductIssue := by
  intro s a b k p m mw rs hot xs addr mslot hk hk12 hs hw halign hp hmw hml _ haddr hmalign hidx hfree hm hext hrest hy hz hb
    hprobe hhot hx hperf hroom
  obtain ⟨hprompt, hcap⟩ := hs
  obtain ⟨list, hlist, hlen, hall⟩ : ∃ list, (m.nhot m.cur = 0 ∧ list = [] ∨
      ReadsAs s ((spanAt rs 2).1, (spanAt rs 2).2 + m.cur * m.hhalf) (4 * m.nhot m.cur) list) ∧
      list.length = m.nhot m.cur * 4 ∧ (m.nhot m.cur ≠ 0 → list = hot) := by
    rcases hhot with h0 | hr
    · exact ⟨[], .inl ⟨h0, rfl⟩, by simp [h0], fun h => absurd h0 h⟩
    · exact ⟨hot, .inr hr, hr.1.trans (Nat.mul_comm _ _), fun _ => rfl⟩
  obtain ⟨u, hu, hpacket⟩ := (HasRead.refl hcap).readStruct hprompt hp (by decide)
  obtain ⟨v, hv, hmapread⟩ := hu.readMap hprompt hmw hml haddr hmalign hidx hfree hm
  obtain ⟨w, hw', hissue⟩ := hv.issueProduct (a := a) (k := k) (p := p) hprompt hperf hprobe hlist hx hroom
  have hexec : exec (.hcmv a b k) s = .next ((w.clearBits k [fieldOfBytes p 12 4]).issueTicket a k
      (fieldOfBytes p 12 4) (.product (productTicket s m rs list xs))) := by
    refine congrArg Host.Outcome.next ?_
    rw [State.afterPred_free hk]
    unfold startProduct
    dsimp only
    rw [if_neg (not_not_intro halign), hpacket, fieldAt_eq, fieldAt_eq, hmapread, hv.checkProduct hext hrest hy hz hb hprobe, hissue]
  refine ⟨_, hexec, hw'.issueTicket hk12 hw hb ⟨_, rfl, rfl, rfl, rfl, ?_, rfl, rfl, ?_, fun e he => ?_, ?_, fun e he => ?_, rfl, rfl,
    rfl, rfl, ?_⟩⟩
  · have het : m.et = fieldOfBytes m.bytes 1 1 := fieldAt_eq _ _ _
    exact (BitVec.toNat_ofNat _ _).trans (Nat.mod_eq_of_lt (het ▸ fieldOfBytes_lt m.bytes 1 1))
  · rw [productTicket, splitElems_eq 4 _ (by decide) hlen, List.length_map, List.length_range]
  · rw [productTicket, splitElems_eq 4 _ (by decide) hlen, getD_map_range _ he, hall (by omega)]
  · rw [productTicket, splitElems_eq m.w _ (codeBytes_pos _) hx.1, List.length_map, List.length_range]
  · rw [productTicket, splitElems_eq m.w _ (codeBytes_pos _) hx.1, getD_map_range _ he]
  · obtain ⟨hi, -, ha⟩ := State.probeAll_spanAt hprobe (i := 4) rfl
    exact ⟨_, congrArg (SlotRef.mk · _) hi, ha⟩

end

end Sys2Proof.Machine


namespace Sys2Proof.Machine
open Sys2Proof.Claims

section
variable {s u : State}

/-! ### Queries (R182, R183, R189) -/

/-- Bytes of an element of a search, by its type (R182). -/
def searchWidth (et : Nat) : Nat := if et = 0x35 then 4 else if et = 0x23 then 1 else 2

theorem codeBytes_search {et : Nat} (h : et ∈ searchTypes) : codeBytes et = searchWidth et := by
  have hall : ∀ x ∈ searchTypes, codeBytes x = searchWidth x := by decide
  exact hall et h

/-- The descriptors of the selected shards are read, each from its place in slot GSLOT. -/
theorem HasRead.readDescs (h : HasRead s u) (hp : Prompt s) {gslot : Nat} {gw : SlotWord}
    (hw : s.slotWord s.ctx.table gslot = some gw) (hl : s.slotLost s.hart.core s.ctx.table gslot = none) {ds : List Desc}
    (hds : ∀ d ∈ ds, d.addr = gw.lo + 64 * d.stack ∧ StructAt s (some (BitVec.ofNat 16 gslot)) d.addr 64 d.bytes)
    (acc : List Desc) :
    ∃ v, HasRead s v ∧ ∀ f, u.readDescs gslot (ds.map Desc.stack) acc f = f (acc.reverse ++ ds) v := by
  induction ds generalizing u acc with
  | nil => exact ⟨u, h, fun f => by rw [List.append_nil]; rfl⟩
  | cons d ds ih =>
    obtain ⟨haddr, hs⟩ := hds d List.mem_cons_self
    obtain ⟨v, hv, hread⟩ := h.readNamed hp hw hl (haddr ▸ hs) (by decide)
    obtain ⟨w, hw', hrest⟩ := ih hv (fun x hx => hds x (List.mem_cons_of_mem _ hx)) (d :: acc)
    refine ⟨w, hw', fun f => ?_⟩
    rw [List.map_cons, State.readDescs, hread, ← haddr]
    exact (hrest f).trans (by rw [List.reverse_cons, List.append_assoc]; rfl)

/-- A descriptor that passes the checks of its extents is not empty, and has the type and the size of the query. -/
theorem Desc.badExtent_false {d : Desc} {et dim : Nat} (h : d.badExtent et dim = false) :
    zeroAt d.bytes 0 64 = false ∧ d.et ∈ searchTypes ∧ d.et = et ∧ d.dim = dim := by
  simp only [Desc.badExtent, Bool.or_eq_false_iff, Bool.not_eq_false', List.contains_iff_mem, ne_eq, decide_eq_false_iff_not,
    Decidable.not_not] at h
  obtain ⟨⟨⟨⟨⟨⟨⟨⟨⟨⟨⟨⟨⟨hz, het⟩, -⟩, -⟩, -⟩, -⟩, -⟩, -⟩, -⟩, -⟩, -⟩, -⟩, hsame⟩, hdim⟩ := h
  exact ⟨hz, het, hsame, hdim⟩

/-- The fields of a query packet are in their ranges (R183), for a query of this many bytes and registers of `c` bytes. -/
structure PacketFits (c bytes : Nat) (p : List Byte) (ds : List Desc) : Prop where
  shards_lt : fieldOfBytes p 4 2 < 2 ^ 12
  shards_ne : fieldOfBytes p 4 2 ≠ 0
  k_pos : 1 ≤ fieldOfBytes p 6 1
  k_le : fieldOfBytes p 6 1 ≤ 128
  source : fieldOfBytes p 7 1 = 0 ∧ fieldOfBytes p 10 1 = 0 ∨
    fieldOfBytes p 7 1 = 1 ∧ fieldOfBytes p 10 1 ≤ 31 ∧ bytes ≤ c
  ef_ge : fieldOfBytes p 6 1 ≤ fieldOfBytes p 8 2
  ef_le : fieldOfBytes p 8 2 ≤ 512
  zero : fieldOfBytes p 11 1 = 0 ∧ fieldOfBytes p 36 4 = 0 ∧ zeroAt p 48 16 = true
  entry : fieldOfBytes p 12 4 = 0xFFFFFFFF ∨
    ∃ d ∈ ds, d.idbase ≤ fieldOfBytes p 12 4 ∧ fieldOfBytes p 12 4 < d.idbase + d.nodes
  cbit : fieldOfBytes p 16 4 < 8 * c
  aligned : fieldOfBytes p 40 8 % 8 = 0

/-- The descriptors of a query are valid, agree with one another, and their slots lie in their stacks (R182). -/
structure DescsFit (s : State) (ds : List Desc) (rs : List (SlotRef × Nat)) (et dim metric : Nat) : Prop where
  extent : ∀ d ∈ ds, d.badExtent et dim = false
  rest : ∀ d ∈ ds, d.badRest metric = false
  ids : ∀ d ∈ ds, d.badIds ds = false
  inStack : ∀ x d, (x, d) ∈ ds.zipIdx.map (fun (d, i) => ((spanAt rs (2 * i)).1.word, d)) →
    s.inStack x.lo x.len.toNat d.stack = true

/-- The type, dimension and metric of a query are those of its descriptors. -/
def queryType (ds : List Desc) : Nat := (ds.head?.map Desc.et).getD 0
def queryDim (ds : List Desc) : Nat := (ds.head?.map Desc.dim).getD 0
def queryMetric (ds : List Desc) : Nat := (ds.head?.map fun d => d.f 2 1).getD 0

theorem queryType_lt (ds : List Desc) : queryType ds < 2 ^ 8 := by
  cases ds with
  | nil => decide
  | cons d ds =>
    have h : d.et = fieldOfBytes d.bytes 1 1 := fieldAt_eq _ _ _
    exact h.trans_lt (fieldOfBytes_lt d.bytes 1 1)

theorem any_eq_false_of {α : Type} {l : List α} {f : α → Bool} (h : ∀ x ∈ l, f x = false) : l.any f = false :=
  List.any_eq_false.2 fun x hx => by rw [h x hx]; exact Bool.false_ne_true

/-- A query whose packet, descriptors and extents pass is issued (steps 3 and 4 of R177). -/
theorem HasRead.checkQuery (h : HasRead s u) {a : BitVec 5} {k : BitVec 4} {addr : Nat} {p : List Byte} {ds : List Desc}
    {rs : List (SlotRef × Nat)} (hne : ds ≠ [])
    (hp : PacketFits s.hart.c (queryDim ds * codeBytes (queryType ds)) p ds)
    (hds : DescsFit s ds rs (queryType ds) (queryDim ds) (queryMetric ds))
    (hprobe : s.probeAll s.ctx (querySpans p ds (codeBytes (queryType ds)) (queryDim ds)) = .ok rs) :
    Machine.checkQuery a k addr p ds u = issueQuery a k p ds rs u := by
  obtain ⟨d, l, rfl⟩ := List.exists_cons_of_ne_nil hne
  have hfirst : (d :: l).find? (fun d => !zeroAt d.bytes 0 64) = some d :=
    List.find?_cons_of_pos (by rw [(Desc.badExtent_false (hds.extent d List.mem_cons_self)).1]; rfl)
  obtain ⟨hzero11, hzero36, hzeros⟩ := hp.zero
  have hc : u.hart.c = s.hart.c := by rw [h.reads]; rfl
  have hbit : u.hart.badBit (fieldOfBytes p 16 4) = false := by
    rw [Hart.badBit, hc]
    exact decide_eq_false (Nat.not_le.2 hp.cbit)
  have hextent : ((d :: l).any fun x => x.badExtent d.et d.dim) = false := any_eq_false_of hds.extent
  have hrest : ((d :: l).any fun x => x.badRest (d.f 2 1)) = false := any_eq_false_of hds.rest
  have hsource := hp.source
  have hpacket := hp.shards_lt
  have hshards := hp.shards_ne
  have hk := hp.k_pos
  have hk' := hp.k_le
  have hef := hp.ef_ge
  have hef' := hp.ef_le
  have hal := hp.aligned
  change _ ∨ _ ∧ _ ∧ d.dim * codeBytes d.et ≤ s.hart.c at hsource
  unfold Machine.checkQuery
  rw [hfirst]
  simp only [Option.map_some, Option.getD_some, fieldAt_eq]
  rw [if_neg, hextent, if_neg Bool.false_ne_true]
  · refine (h.withExtents hprobe _).trans ?_
    rw [if_neg, hrest, if_neg Bool.false_ne_true, List.filterMap_eq_nil_iff.2, any_eq_false_of hds.ids, hbit]
    · rfl
    · rintro ⟨e, i⟩ he
      dsimp only
      split
      · next r ad hr =>
        have hspan : (spanAt rs (2 * i)).1 = r := by
          rw [spanAt, List.getD_eq_getElem?_getD, hr]
          rfl
        have := hds.inStack r.word e (List.mem_map.2 ⟨(e, i), he, congrArg (fun r : SlotRef => (r.word, e)) hspan⟩)
        exact if_pos (by rw [h.reads]; exact this)
      · rfl
    · have houtside : (decide (fieldOfBytes p 12 4 ≠ 0xFFFFFFFF) && !(d :: l).any fun d =>
          decide (d.idbase ≤ fieldOfBytes p 12 4 ∧ fieldOfBytes p 12 4 < d.idbase + d.nodes)) = false := by
        rcases hp.entry with he | ⟨e, he, hin⟩
        · simp [he]
        · rw [List.any_eq_true.2 ⟨e, he, decide_eq_true hin⟩]
          exact Bool.and_false _
      rw [houtside, hzeros]
      rcases hsource with ⟨h7, h10⟩ | ⟨h7, h10, -⟩ <;>
        simp [h7, h10, hzero11, hzero36] <;> omega
  · rw [hc]
    simp only [Bool.or_eq_true, Bool.and_eq_true, decide_eq_true_eq]
    omega

/-- The last of the extents that pass their probes is the place of the last span. -/
theorem State.probeAll_last {c : Ctx} {xs : List Span} {x : Span} {rs : List (SlotRef × Nat)}
    (h : s.probeAll c (xs ++ [x]) = .ok rs) : ∃ p, rs.getLast? = some p ∧ PlaceOf s c x.idx x.off p := by
  have hlen := (State.probeAll_places h).length_eq
  rw [List.length_append, List.length_singleton] at hlen
  refine ⟨spanAt rs xs.length, ?_, State.probeAll_spanAt h (by rw [List.getElem?_append_right (Nat.le_refl _), Nat.sub_self]; rfl)⟩
  rw [List.getLast?_eq_getElem?, ← hlen, Nat.add_sub_cancel, spanAt, List.getD_eq_getElem _ _ (by omega),
    List.getElem?_eq_getElem]

/-- The extent of a query vector in memory comes after two of each shard. -/
theorem querySpans_vector {p : List Byte} {ds : List Desc} {w dim : Nat} (h : fieldOfBytes p 7 1 = 0) :
    (querySpans p ds w dim)[2 * ds.length]? =
      some ⟨fieldOfBytes p 20 4, fieldOfBytes p 24 8, dim * w, w, w, needRead⟩ := by
  have hlen (f g : Desc → Span) : (ds.flatMap fun d => [f d, g d]).length = 2 * ds.length := by
    simp [List.length_flatMap, Nat.mul_comm]
  unfold querySpans
  rw [List.append_assoc, List.getElem?_append_right (Nat.le_of_eq (hlen _ _)), hlen, Nat.sub_self, fieldAt_eq, h]
  simp only [fieldAt_eq]
  rfl

theorem querySpans_record (p : List Byte) (ds : List Desc) (w dim : Nat) : ∃ xs, querySpans p ds w dim =
    xs ++ [⟨fieldOfBytes p 32 4, fieldOfBytes p 40 8, 32 + 8 * fieldOfBytes p 6 1, 8, 1, needWrite⟩] := by
  simp only [querySpans, fieldAt_eq]
  exact ⟨_, rfl⟩

/-- The ticket of a query whose checks have passed. -/
def queryTicket (p : List Byte) (ds : List Desc) (rs : List (SlotRef × Nat)) (q : List Nat) : Query where
  shards := ds.zipIdx.map fun x => x.1.shard (fieldOfBytes p 12 4) (spanAt rs (2 * x.2)).1
  mask := fieldOfBytes p 4 2
  k := fieldOfBytes p 6 1
  ef := fieldOfBytes p 8 2
  etype := BitVec.ofNat 8 (queryType ds)
  metric := queryMetric ds
  dim := queryDim ds
  q := q
  rslot := (rs.getLastD (⟨0, .ofNat 0⟩, 0)).1
  raddr := (rs.getLastD (⟨0, .ofNat 0⟩, 0)).2

/-- The query vector that an issue captures: from memory, or from a vector register (R183). -/
def QueryVector (s : State) (p : List Byte) (ds : List Desc) (rs : List (SlotRef × Nat)) (q : List Nat) : Prop :=
  let w := codeBytes (queryType ds)
  (fieldOfBytes p 7 1 = 0 ∧ ∃ qv, ReadsAs s (spanAt rs (2 * ds.length)) (queryDim ds * w) qv ∧ q = splitElems w qv) ∨
  (fieldOfBytes p 7 1 = 1 ∧ ∃ t, ETy.ofCode (queryType ds) = some t ∧
    q = readElems s.hart.vreg s.hart.c (fieldOfBytes p 10 1) t 0 (queryDim ds))

theorem HasRead.engineLoad (h : HasRead s u) (stack : Nat) : u.engineLoad stack = s.engineLoad stack := by
  rw [h.reads]
  rfl

theorem HasRead.issueQuery (h : HasRead s u) (hp : Prompt s) {a : BitVec 5} {k : BitVec 4} {p : List Byte} {ds : List Desc}
    {rs : List (SlotRef × Nat)} {q : List Nat} (hperf : ScalarPerformed s) (hload : ∀ d ∈ ds, s.engineLoad d.stack < 512)
    (hprobe : s.probeAll s.ctx (querySpans p ds (codeBytes (queryType ds)) (queryDim ds)) = .ok rs)
    (hq : QueryVector s p ds rs q) :
    ∃ v, HasRead s v ∧ Machine.issueQuery a k p ds rs u = (v.clearBits k [fieldOfBytes p 16 4]).issueTicket a k
      (fieldOfBytes p 16 4) (.query (queryTicket p ds rs q)) := by
  have hroom {v : State} (hv : HasRead s v) :
      (ds.any fun d => decide (512 ≤ (v.clearBits k [fieldOfBytes p 16 4]).engineLoad d.stack)) = false :=
    any_eq_false_of fun d hd => decide_eq_false (Nat.not_le.2 ((hv.engineLoad d.stack).trans_lt (hload d hd)))
  unfold Machine.issueQuery
  simp only [fieldAt_eq, h.drained hperf, Bool.not_true, Bool.false_eq_true, if_false]
  rcases hq with ⟨h7, qv, hvec, rfl⟩ | ⟨h7, t, ht, rfl⟩
  · obtain ⟨v, hv, hread⟩ := h.captureVector (a := (spanAt rs (2 * ds.length)).2) (size := codeBytes (queryType ds)) hp
      (State.probeAll_spanAt hprobe (querySpans_vector h7)).word hvec
    refine ⟨v, hv, ?_⟩
    rw [h7, if_neg (by decide)]
    refine (hread _).trans ?_
    rw [hroom hv]
    rfl
  · refine ⟨u, h, ?_⟩
    have hregs : readElems u.hart.vreg u.hart.c = readElems s.hart.vreg s.hart.c := by rw [h.reads]; rfl
    rw [h7, if_pos rfl, show ETy.ofCode ((ds.head?.map Desc.et).getD 0) = some t from ht, hregs]
    dsimp only
    rw [hroom h]
    rfl

theorem HasRead.regBusy (h : HasRead s u) (r : Nat) : u.hart.regBusy r = s.hart.regBusy r := by
  rw [h.reads]
  rfl

/-- What the ticket of a query holds (R189). -/
theorem nearSearchIssue : NearSearchIssue := by
  intro s a b k p ds rs qv gw t addr sel gslot et dim metric w inMemory reg hk hk12 hs hwf halign hpacket hshards hshards0 hkk hkk'
    hsource hty hef hef' h11 hentry hcbit h36 h40 hzeros hgw hlost _ hsel hds hprobe hstacks hperf hload
  obtain ⟨hprompt, hcap⟩ := hs
  have hne : ds ≠ [] := by
    rintro rfl
    cases hty
  have hw : w = codeBytes (queryType ds) := by
    obtain ⟨d, hd⟩ := List.exists_mem_of_ne_nil ds hne
    obtain ⟨-, -, hext, -⟩ := hds d hd
    obtain ⟨-, htype, hsame, -⟩ := Desc.badExtent_false hext
    exact (codeBytes_search (hsame ▸ htype)).symm
  rw [hw] at hsource hprobe
  obtain ⟨q, hq, hlen, helem⟩ : ∃ q, QueryVector s p ds rs q ∧ q.length = dim ∧ ∀ e, e < dim → q.getD e 0 =
      if inMemory then fieldOfBytes qv (w * e) w else readElem s.hart.vreg s.hart.c reg t e := by
    rcases hsource with ⟨h7, -, hread⟩ | ⟨h7, -⟩
    · have hsplit := splitElems_eq (codeBytes (queryType ds)) dim (codeBytes_pos _) hread.1
      refine ⟨_, .inl ⟨h7, qv, hread, rfl⟩, by simp [hsplit], fun e he => ?_⟩
      rw [if_pos h7, hsplit, getD_map_range _ he, hw]
    · have hwhole := ETy.ofCode_whole hty
      refine ⟨_, .inr ⟨h7, t, hty, rfl⟩, by simp [readElems_eq hwhole]; rfl, fun e he => ?_⟩
      rw [if_neg (fun h0 => absurd (h0.symm.trans h7) (by decide))]
      exact getD_readElems hwhole _ _ _ _ he
  have hfits : PacketFits s.hart.c (queryDim ds * codeBytes (queryType ds)) p ds :=
    ⟨hshards, hshards0, hkk, hkk', hsource.imp (fun ⟨h7, h10, _⟩ => ⟨h7, h10⟩) fun ⟨h7, h10, hfit, _⟩ => ⟨h7, h10, hfit⟩,
      hef, hef', ⟨h11, h36, zeroAt_of hzeros⟩, hentry, hcbit, h40⟩
  have hdescs : DescsFit s ds rs (queryType ds) (queryDim ds) (queryMetric ds) := by
    refine ⟨fun d hd => ?_, fun d hd => ?_, fun d hd => ?_, hstacks⟩ <;> obtain ⟨-, -, hext, hrest, hids⟩ := hds d hd
    · exact hext
    · exact hrest
    · exact hids
  have hbusy : (decide (fieldOfBytes p 7 1 = 1) && s.hart.regBusy (fieldOfBytes p 10 1)) = false := by
    rcases hsource with ⟨h7, -⟩ | ⟨-, -, -, hfree⟩
    · rw [h7]
      rfl
    · rw [noOlderVector_regBusy hfree, Bool.and_false]
  obtain ⟨u, hu, hread⟩ := (HasRead.refl hcap).readStruct hprompt hpacket (by decide)
  obtain ⟨v, hv, hreads⟩ := hu.readDescs hprompt hgw hlost (ds := ds) (fun d hd => ⟨(hds d hd).1, (hds d hd).2.1⟩) []
  obtain ⟨x, hx, hissue⟩ := hv.issueQuery (a := a) (k := k) hprompt hperf hload hprobe hq
  have hexec : exec (.nsq a b k) s = .next ((x.clearBits k [fieldOfBytes p 16 4]).issueTicket a k (fieldOfBytes p 16 4)
      (.query (queryTicket p ds rs q))) := by
    refine congrArg Host.Outcome.next ?_
    rw [State.afterPred_free hk]
    unfold startQuery
    simp only [fieldAt_eq]
    rw [if_neg (not_not_intro halign), hread, hu.regBusy, hbusy, if_neg Bool.false_ne_true]
    change u.readDescs gslot sel [] _ = _
    rw [← hsel, hreads]
    exact (hv.checkQuery hne hfits hdescs hprobe).trans hissue
  obtain ⟨xs, hxs⟩ := querySpans_record p ds (codeBytes (queryType ds)) (queryDim ds)
  obtain ⟨⟨rslot, raddr⟩, hlast, hindex, -, hraddr⟩ := State.probeAll_last (hxs ▸ hprobe)
  have hlastD : rs.getLastD (⟨0, .ofNat 0⟩, 0) = (rslot, raddr) := by rw [List.getLastD_eq_getLast?, hlast]; rfl
  refine ⟨_, hexec, hx.issueTicket hk12 hwf hcbit ⟨_, rfl, rfl, rfl, rfl, ?_, rfl, rfl, hlen, helem, ?_, ?_, ?_, ?_⟩⟩
  · exact (BitVec.toNat_ofNat _ _).trans (Nat.mod_eq_of_lt (queryType_lt ds))
  · exact hlast.trans (congrArg some hlastD.symm)
  · rw [queryTicket, hlastD]
    exact ⟨_, congrArg (SlotRef.mk · _) hindex, hraddr⟩
  · rw [queryTicket, List.map_map, ← hsel]
    exact (List.map_map (f := Prod.fst) (g := Desc.stack)).symm.trans (congrArg _ (List.zipIdx_map_fst 0 ds))
  · intro x hx
    obtain ⟨y, -, rfl⟩ := List.mem_map.1 hx
    rfl

end

/-- Settles O34: what the checks of a query or a product read leaves the device as it was but for page counts, so that they
pass as they do before the instruction, and the ticket is made of what has been read. -/
theorem nearMemoryIssue : Obligations.NearMemoryIssue := ⟨nearSearchIssue, ticketStatus, splitProductIssue⟩

end Sys2Proof.Machine


/-! ## Bytes that an instruction reads and writes through slots of KEYID 0 (R200, R318, R333) -/

namespace Sys2Proof.Machine
open Sys2Proof.Claims

section
variable {s t u v : State} {r : SlotRef} {a n : Nat} {bs : List Byte}

/-! ### Parts of a block -/

theorem seen_add (s u : State) (a k n : Nat) : seen s u a (k + n) = seen s u a k ++ seen s u (a + k) n := by
  unfold seen
  rw [List.range_add, List.map_append, List.map_map]
  exact congrArg _ (List.map_congr_left fun i _ => by rw [Function.comp_apply, Nat.add_assoc])

theorem seen_length (s u : State) (a n : Nat) : (seen s u a n).length = n := by
  rw [seen, List.length_map, List.length_range]

/-- Part of the bytes at an address. -/
theorem seen_part (s u : State) (a : Nat) {o m n : Nat} (h : o + m ≤ n) :
    seen s u (a + o) m = ((seen s u a n).drop o).take m := by
  have hn : n = o + (m + (n - o - m)) := by omega
  rw [hn, seen_add, seen_add, List.drop_left' (seen_length s u a o), List.take_left' (seen_length s u (a + o) m)]

theorem seen_eq_of_get (h : ∀ o, o < bs.length → Bytes.get u.mem (performedAt s (a + o)) = bs.getD o 0) :
    seen s u a bs.length = bs := by
  refine List.ext_getElem (seen_length s u a _) fun i _ hi => ?_
  simp only [seen, List.getElem_map, List.getElem_range, h i hi, List.getD_eq_getElem _ _ hi]

/-- Bytes at places where two memories agree. -/
theorem seen_congr (h : ∀ o, o < n → Bytes.get u.mem (performedAt s (a + o)) = Bytes.get v.mem (performedAt s (a + o))) :
    seen s u a n = seen s v a n :=
  List.map_congr_left fun o ho => h o (List.mem_range.1 ho)

theorem plainPlace_part (h : PlainPlace s (r, a) n) {k m : Nat} (hm : 0 < m) (hk : k + m ≤ n) :
    PlainPlace s (r, a + k) m := by
  obtain ⟨hkey, hlines, hloc, hplaces, hinj, hlost⟩ := plainPlace_drop (k := k) h (by omega)
  exact ⟨hkey, hlines, hloc, fun o ho => hplaces o (by omega), fun o q ho hq => hinj o q (by omega) (by omega),
    fun o ho => hlost o (by omega)⟩

theorem regionOf_local_lt {x : Nat} (h : (∃ st off, regionOf x = .hbm st off) ∨ ∃ p off, regionOf x = .tier p off) :
    x < 2 ^ 45 := by
  by_contra hle
  have hno : (∀ st off, regionOf x ≠ .hbm st off) ∧ ∀ p off, regionOf x ≠ .tier p off := by
    unfold regionOf
    rw [if_neg (by omega), if_neg (by omega), if_neg (by omega)]
    repeat' split
    all_goals exact ⟨nofun, nofun⟩
  rcases h with ⟨_, _, h⟩ | ⟨_, _, h⟩
  · exact hno.1 _ _ h
  · exact hno.2 _ _ h

/-- Local memory that goes on without a gap has canonical addresses that follow one another. -/
theorem LocalMemory.canon_add (h : LocalMemory s a) {k : Nat} (hk : LocalMemory s (a + k)) (hlt : k < 2 ^ 42) :
    s.canon (a + k) = s.canon a + k := by
  have h1 : s.canon a < 2 ^ 45 := regionOf_local_lt h
  have h2 : s.canon (a + k) < 2 ^ 45 := regionOf_local_lt hk
  rw [s.canon_eq] at h1 h2 ⊢
  rw [s.canon_eq]
  split_ifs at h1 h2 ⊢ <;> omega

theorem noHeldWrite_part (h : NoHeldWrite s a n) {k m : Nat} (ha : LocalMemory s a) (hk : LocalMemory s (a + k))
    (hlt : k < 2 ^ 42) (hle : k + m ≤ n) : NoHeldWrite s (a + k) m := by
  refine h.imp_right fun hh => ?_
  have hkey : s.key s.hart.core (a + k) = s.key s.hart.core a + k := by rw [hk.key_eq, ha.key_eq, ha.canon_add hk hlt]
  rw [State.heldOver, List.any_eq_false] at hh ⊢
  intro w hw hover
  refine hh w hw ?_
  rw [hkey] at hover
  simp only [decide_eq_true_eq] at hover ⊢
  omega

/-! ### Reading -/

/-- One step of `readBytes`: the part of a line comes before the parts after it. -/
def State.readOne (s : State) (c : Ctx) (sw : SlotWord) (p : Nat × Nat) (acc : Option (List Byte)) : Option (List Byte) :=
  match s.readPart sw.keyid sw.version (s.key c.core p.1) (p.1 - sw.lo) p.2, acc with
  | some bs, some t => some (bs ++ t)
  | _, _ => none

theorem State.readBytes_eq (s : State) (c : Ctx) (sw : SlotWord) (a n : Nat) :
    s.readBytes c sw a n = (linesOf a n).foldr (s.readOne c sw) (some []) := rfl

theorem plainPlace_readPart (h : PlainPlace s (r, a) n) (hpos : 0 < n) (hline : a % 64 + n ≤ 64) (o : Nat) :
    s.readPart r.word.keyid r.word.version (s.key s.ctx.core a) o n = some (seen s s a n) := by
  obtain ⟨hkey, hlines, hloc, hplaces, -, hlost⟩ := h
  have hlost := hlost 0 hpos
  rw [Nat.add_zero] at hlost
  have hp : s.forward (s.key s.ctx.core a) = performedAt s a := rfl
  unfold State.readPart
  dsimp only
  rw [hp, List.contains_eq_mem, decide_eq_false hlost, if_neg Bool.false_ne_true, hkey, if_pos (by simp), Bytes.read_get]
  refine congrArg some (List.map_congr_left fun i hi => ?_)
  have hi := List.mem_range.1 hi
  rw [hloc.performedAt_add (hplaces i hi).1 hlines (by omega)]

theorem plainPlace_readParts (fuel a n : Nat) (hfuel : n = 0 ∨ a % 64 + n ≤ 64 * fuel)
    (h : n ≠ 0 → PlainPlace s (r, a) n) :
    (lineParts fuel a n).foldr (s.readOne s.ctx r.word) (some []) = some (seen s s a n) := by
  induction fuel generalizing a n with
  | zero =>
    obtain rfl : n = 0 := by omega
    rfl
  | succ fuel ih =>
    by_cases hn : n = 0
    · subst hn
      rfl
    · have hmod := Nat.mod_lt a (show 0 < 64 by decide)
      have hfit := hfuel.resolve_left hn
      have hparts : lineParts (fuel + 1) a n = (a, min n (64 - a % 64)) ::
          lineParts fuel (a + min n (64 - a % 64)) (n - min n (64 - a % 64)) := if_neg hn
      generalize hk : min n (64 - a % 64) = k at hparts
      have hrest := ih (a + k) (n - k) (by omega) fun hne => plainPlace_part (h hn) (by omega) (by omega)
      have hone := plainPlace_readPart (plainPlace_part (k := 0) (m := k) (h hn) (by omega) (by omega)) (by omega) (by omega)
        (a - r.word.lo)
      have hadd := seen_add s s a k (n - k)
      rw [show k + (n - k) = n by omega] at hadd
      rw [Nat.add_zero] at hone
      rw [hparts, List.foldr_cons, hrest]
      unfold State.readOne
      dsimp only
      rw [hone, hadd]

/-- A plain place is read as the bytes that lie there. -/
theorem plainPlace_readBytes (h : PlainPlace s (r, a) n) : s.readBytes s.ctx r.word a n = some (seen s s a n) :=
  (s.readBytes_eq _ _ _ _).trans (plainPlace_readParts _ a n (.inr (by omega)) fun _ => h)

/-- Part of an extent that is read. -/
theorem readsAs_part (h : ReadsAs s (r, a) n bs) (hp : PlainPlace s (r, a) n) {k m : Nat} (hm : 0 < m) (hle : k + m ≤ n)
    (hlt : k < 2 ^ 42) : ReadsAs s (r, a + k) m ((bs.drop k).take m) := by
  obtain ⟨hlen, hloc, hheld, hread⟩ := h
  have hpart := plainPlace_part hp hm hle
  have hbs : bs = seen s s a n := Option.some.inj (hread.symm.trans (plainPlace_readBytes hp))
  rw [hbs, ← seen_part s s a hle]
  exact ⟨seen_length s s _ m, hpart.2.2.1, noHeldWrite_part hheld hloc hpart.2.2.1 hlt hle, plainPlace_readBytes hpart⟩

/-! ### Lines that a write leaves as they were -/

theorem State.markDirty_lost (s : State) (line : Nat) (k w : BitVec 10) : (s.markDirty line k w).lost = s.lost := by
  unfold State.markDirty
  dsimp only
  split
  · split <;> rfl
  · split <;> rfl
  · rfl

/-- A write into a line without an error leaves the lines that have one as they are. -/
theorem State.commit_lost {w : MemWrite} (h : s.commit w = some t) (hl : s.forward w.key / 64 * 64 ∉ s.lost) :
    t.lost = s.lost := by
  have hput (b : Bool) (line : Nat) (k v : BitVec 10) (bs : List Byte) (m : BitVec 32) :
      ((if b then s.markDirty line k v else s).putLine (s.forward w.key) bs m).lost = s.lost := by
    have hmark : (if b then s.markDirty line k v else s).lost = s.lost := by
      cases b
      · rfl
      · exact s.markDirty_lost line k v
    refine (List.filter_eq_self.2 fun l hm => ?_).trans hmark
    rw [bne_iff_ne]
    rintro rfl
    exact hl (hmark ▸ hm)
  unfold State.commit at h
  dsimp only at h
  split at h
  · cases h
  · split at h
    · cases h; exact hput _ _ _ _ _ _
    · split at h
      · cases h
      · split at h
        · cases h; exact hput _ _ _ _ _ _
        · cases h

/-- Wherever a write goes, into a line without an error it leaves those lines and the forwarding entries as they are. -/
theorem State.sendWrite_lost {c : Ctx} {st : FabricStream} {w : MemWrite} (h : s.sendWrite c st w = some t)
    (hl : s.forward w.key / 64 * 64 ∉ s.lost) : t.lost = s.lost ∧ t.fwd = s.fwd := by
  unfold State.sendWrite at h
  split at h
  · cases h
    unfold State.sendPacket
    dsimp only
    split <;> exact ⟨rfl, rfl⟩
  · cases h
    exact ⟨State.sendHost_lost .., State.sendHost_fwd ..⟩
  · split at h
    · cases h
      exact ⟨rfl, rfl⟩
    · refine ⟨State.commit_lost h hl, ?_⟩
      rw [(State.commit_writes h).frame]

theorem lineParts_mem {fuel : Nat} {p : Nat × Nat} (h : p ∈ lineParts fuel a n) : ∃ o, o < n ∧ p.1 = a + o := by
  induction fuel generalizing a n with
  | zero => cases h
  | succ fuel ih =>
    unfold lineParts at h
    split at h
    · cases h
    · next hn =>
      rcases List.mem_cons.1 h with rfl | h
      · exact ⟨0, Nat.pos_of_ne_zero hn, rfl⟩
      · obtain ⟨o, ho, hp⟩ := ih h
        exact ⟨_, by omega, hp.trans (Nat.add_assoc _ _ _)⟩

theorem State.writeParts_lost {c : Ctx} {st : FabricStream} {sw : SlotWord} {l : List (Nat × Nat)}
    (hl : ∀ p ∈ l, s.forward (s.key c.core p.1) / 64 * 64 ∉ s.lost) (ht : t.lost = s.lost ∧ t.fwd = s.fwd) (bs : List Byte)
    (h : (l.foldl (s.writePart c st sw) (some t, bs)).1 = some u) : u.lost = s.lost := by
  have hnone (l : List (Nat × Nat)) (bs : List Byte) : (l.foldl (s.writePart c st sw) (none, bs)).1 = none := by
    induction l with
    | nil => rfl
    | cons p l ih => exact ih
  induction l generalizing t bs with
  | nil =>
    cases h
    exact ht.1
  | cons p l ih =>
    rw [List.foldl_cons] at h
    unfold State.writePart at h
    dsimp only at h
    cases hw : t.sendWrite c st _ with
    | none =>
      rw [hw] at h
      cases (hnone _ _).symm.trans h
    | some v =>
      rw [hw] at h
      have hforward (k : Nat) : t.forward k = s.forward k := by
        unfold State.forward State.fwdAt
        rw [ht.2]
      obtain ⟨hlost, hfwd⟩ := State.sendWrite_lost hw (by rw [hforward, ht.1]; exact hl p List.mem_cons_self)
      exact ih (fun q hq => hl q (List.mem_cons_of_mem _ hq)) ⟨hlost.trans ht.1, hfwd.trans ht.2⟩ _ h

/-- A write to a plain place changes bytes, line MACs and dirty lines alone. -/
theorem plainPlace_stores (h : PlainPlace s (r, a) bs.length) (hm : Memory.wf s.mem = true) (st : FabricStream) :
    ∃ u, s.writeBytes s.ctx st r.word a bs = some u ∧ u = { s with mem := u.mem, macs := u.macs, dirty := u.dirty } ∧
      Memory.wf u.mem = true ∧ BytesPlaced s a bs s u := by
  obtain ⟨u, hu, hlines, hbytes⟩ := plainPlace_writeBytes h hm st
  obtain ⟨-, -, hloc, -, -, hlost⟩ := h
  have hkept : u.lost = s.lost := by
    have hw := hu
    rw [s.writeBytes_eq, s.claimAll_low _ _ _ (hloc.key_low _)] at hw
    refine State.writeParts_lost (fun p hp => ?_) ⟨rfl, rfl⟩ bs hw
    obtain ⟨o, ho, hpo⟩ := lineParts_mem hp
    rw [hpo]
    exact hlost o ho
  refine ⟨u, hu, ?_, State.writeBytes_memOk hm hu, hbytes⟩
  rw [hlines.frame, hkept]

/-! ### Blocks that an instruction stores -/

/-- Beside page counts and what it has read, an instruction has stored bytes, in lines without an error. -/
structure Stored (s u : State) : Prop where
  frame : u = { counted s u with
    hart := { s.hart with capture := u.hart.capture }, mem := u.mem, macs := u.macs, dirty := u.dirty }
  wf : Memory.wf u.mem = true

theorem HasRead.mem (h : HasRead s u) : u.mem = s.mem := by
  rw [h.reads]
  rfl

theorem HasRead.stored (h : HasRead s u) (hm : Memory.wf s.mem = true) : Stored s u where
  frame := by
    rw [h.reads]
    rfl
  wf := h.mem ▸ hm

theorem Stored.plainPlace (h : Stored s u) (hp : PlainPlace s (r, a) n) : PlainPlace u (r, a) n := by
  rw [h.frame]
  exact hp

theorem Stored.performedAt (h : Stored s u) (a : Nat) : Machine.performedAt u a = Machine.performedAt s a := by
  rw [h.frame]
  rfl

theorem Stored.ownWrite (h : Stored s u) (hp : PlainPlace s (r, a) bs.length) :
    ∃ v, Stored s v ∧ BytesPlaced s a bs u v ∧ ∀ f, u.ownWrite r a bs f = f v := by
  have hc := u.countWrite_counts u.ctx r.word a bs.length
  have hw : Stored s (u.countWrite u.ctx r.word a bs.length) := by
    refine ⟨?_, ?_⟩
    · rw [hc, h.frame]
      rfl
    · rw [hc]
      exact h.wf
  have hmem : (u.countWrite u.ctx r.word a bs.length).mem = u.mem := by
    rw [hc]
    rfl
  unfold State.ownWrite
  dsimp only
  generalize u.countWrite u.ctx r.word a bs.length = w at hw hmem
  obtain ⟨v, hv, hframe, hwf, hin, hout⟩ := plainPlace_stores (hw.plainPlace hp) hw.wf w.scalarStream
  simp only [hw.performedAt] at hin hout
  refine ⟨v, ⟨?_, hwf⟩, ⟨hin, fun x hx => hmem ▸ hout x hx⟩, fun f => by rw [hv]⟩
  rw [hframe, hw.frame]
  rfl

/-- Bytes at an address have all their places apart from those of others. -/
def Apart (s : State) (w w' : Nat × List Byte) : Prop :=
  ∀ o q, o < w.2.length → q < w'.2.length → performedAt s (w.1 + o) ≠ performedAt s (w'.1 + q)

/-- Blocks are where they are performed, where no later block lies over them, and every other byte is as before. -/
structure BlocksPlaced (s : State) (ws : List (Nat × List Byte)) (u v : State) : Prop where
  inside : ws.Pairwise (Apart s) → ∀ w ∈ ws, seen s v w.1 w.2.length = w.2
  outside : ∀ x, (∀ w ∈ ws, ∀ o, o < w.2.length → x ≠ performedAt s (w.1 + o)) → Bytes.get v.mem x = Bytes.get u.mem x

theorem Stored.writeAll (h : Stored s u) {ws : List (Nat × List Byte)} (hp : ∀ w ∈ ws, PlainPlace s (r, w.1) w.2.length) :
    ∃ v, Stored s v ∧ BlocksPlaced s ws u v ∧ ∀ f, u.writeAll r ws f = f v := by
  induction ws generalizing u with
  | nil => exact ⟨u, h, ⟨fun _ w hw => absurd hw List.not_mem_nil, fun _ _ => rfl⟩, fun _ => rfl⟩
  | cons w ws ih =>
    have hw := hp w List.mem_cons_self
    obtain ⟨t, ht, hblock, hwrite⟩ := h.ownWrite hw
    obtain ⟨v, hv, hblocks, hrest⟩ := ih ht fun x hx => hp x (List.mem_cons_of_mem _ hx)
    have hfar : t.farDev w.1 = none := LocalMemory.farDev_none (ht.plainPlace hw).2.2.1
    refine ⟨v, hv, ⟨fun hpw x hx => ?_, fun x hx => ?_⟩, fun f => ?_⟩
    · obtain ⟨hapart, hpw⟩ := List.pairwise_cons.1 hpw
      rcases List.mem_cons.1 hx with rfl | hx
      · refine seen_eq_of_get fun o ho => ?_
        rw [hblocks.outside _ fun y hy q hq => hapart y hy o q ho hq, hblock.inside o ho]
      · exact hblocks.inside hpw x hx
    · rw [hblocks.outside x fun y hy => hx y (List.mem_cons_of_mem _ hy), hblock.outside x (hx w List.mem_cons_self)]
    · unfold State.writeAll
      rw [hwrite, State.arriveAt, hfar]
      exact hrest f

end

end Sys2Proof.Machine


/-! ## The ranking of a map's rows (R195) -/

namespace Sys2Proof.Machine
open Sys2Proof.Claims

section
variable (cs : List Nat) {i j k n : Nat}

/-- Row `j` ranks before row `i`: its counter is greater, or equal and its index lower. -/
def Outranks (j i : Nat) : Prop := cs.getD i 0 < cs.getD j 0 ∨ (cs.getD i 0 = cs.getD j 0 ∧ j < i)

/-- The number of rows that rank before row `i`. -/
def rankOf (i : Nat) : Nat :=
  ((List.range cs.length).filter fun j =>
    decide (cs.getD i 0 < cs.getD j 0 ∨ (cs.getD i 0 = cs.getD j 0 ∧ j < i))).length

theorem rankOf_lt_iff : rankOf cs i < n ↔ RanksWithin cs n i := Iff.rfl

variable {cs}

theorem Outranks.trans (h : Outranks cs k j) (h' : Outranks cs j i) : Outranks cs k i := by
  unfold Outranks at *
  omega

theorem Outranks.irrefl (i : Nat) : ¬ Outranks cs i i := by
  unfold Outranks
  omega

theorem outranks_total (h : i ≠ j) : Outranks cs i j ∨ Outranks cs j i := by
  unfold Outranks
  omega

/-- A row that ranks before another has the lower rank. -/
theorem rankOf_lt (hj : j < cs.length) (h : Outranks cs j i) : rankOf cs j < rankOf cs i := by
  have hmem {x y : Nat} : x ∈ (List.range cs.length).filter (fun j =>
      decide (cs.getD y 0 < cs.getD j 0 ∨ (cs.getD y 0 = cs.getD j 0 ∧ j < y))) ↔ x < cs.length ∧ Outranks cs x y := by
    rw [List.mem_filter, List.mem_range, decide_eq_true_eq]
    rfl
  have hsub := List.subperm_of_subset (List.Nodup.cons (a := j) (fun hin => Outranks.irrefl j (hmem.1 hin).2)
    (List.nodup_range.filter _)) (l₂ := (List.range cs.length).filter fun x =>
      decide (cs.getD i 0 < cs.getD x 0 ∨ (cs.getD i 0 = cs.getD x 0 ∧ x < i))) (by
    intro x hx
    rcases List.mem_cons.1 hx with rfl | hx
    · exact hmem.2 ⟨hj, h⟩
    · obtain ⟨hx, hxj⟩ := hmem.1 hx
      exact hmem.2 ⟨hx, hxj.trans h⟩)
  exact Nat.lt_of_succ_le hsub.length_le

theorem rankOf_lt_length (hi : i < cs.length) : rankOf cs i < cs.length := by
  refine Nat.lt_of_lt_of_eq (List.length_filter_lt_length_iff_exists.2 ⟨i, List.mem_range.2 hi, ?_⟩) List.length_range
  rw [decide_eq_true_eq]
  exact Outranks.irrefl i

/-- Each of the first ranks is the rank of one row. -/
theorem card_ranks (h : n ≤ cs.length) : ((List.range cs.length).filter fun i => decide (rankOf cs i < n)).length = n := by
  have hinj : Set.InjOn (rankOf cs) (Finset.range cs.length) := by
    intro x hx y hy hxy
    by_contra hne
    rcases outranks_total (cs := cs) hne with hr | hr
    · exact absurd hxy (Nat.ne_of_lt (rankOf_lt (Finset.mem_range.1 hx) hr))
    · exact absurd hxy.symm (Nat.ne_of_lt (rankOf_lt (Finset.mem_range.1 hy) hr))
  have himage : (Finset.range cs.length).image (rankOf cs) = Finset.range cs.length :=
    Finset.eq_of_subset_of_card_le
      (Finset.image_subset_iff.2 fun x hx => Finset.mem_range.2 (rankOf_lt_length (Finset.mem_range.1 hx)))
      (Finset.card_image_of_injOn hinj).ge
  calc ((List.range cs.length).filter fun i => decide (rankOf cs i < n)).length
      = ((Finset.range cs.length).filter fun i => rankOf cs i < n).card := rfl
    _ = (((Finset.range cs.length).filter fun i => rankOf cs i < n).image (rankOf cs)).card :=
        (Finset.card_image_of_injOn (hinj.mono (Finset.filter_subset _ _))).symm
    _ = (((Finset.range cs.length).image (rankOf cs)).filter (· < n)).card := by rw [Finset.filter_image]
    _ = (Finset.range n).card := by
        rw [himage]
        congr 1
        ext x
        rw [Finset.mem_filter, Finset.mem_range, Finset.mem_range]
        omega
    _ = n := Finset.card_range n

theorem zipIdx_eq_range (cs : List Nat) : cs.zipIdx = (List.range cs.length).map fun i => (cs.getD i 0, i) := by
  refine List.ext_getElem (by simp) fun i hi _ => ?_
  rw [List.getElem_zipIdx, List.getElem_map, List.getElem_range, Nat.zero_add,
    List.getD_eq_getElem _ _ (by simpa using hi)]

theorem topRows_eq (cs : List Nat) (n : Nat) :
    topRows cs n = (List.range cs.length).filter fun i => decide (rankOf cs i < n) := by
  unfold topRows
  rw [zipIdx_eq_range, List.filter_map, List.map_map]
  refine (List.map_id' _).trans (List.filter_congr fun i _ => ?_)
  have hbefore (j : Nat) : ranksBefore (cs.getD j 0, j) (cs.getD i 0, i) =
      decide (cs.getD i 0 < cs.getD j 0 ∨ (cs.getD i 0 = cs.getD j 0 ∧ j < i)) := by
    exact decide_eq_decide.2 (or_congr_right (and_congr_left' eq_comm))
  rw [Function.comp_apply, List.filter_map, List.length_map, rankOf]
  exact congrArg (fun l : List Nat => decide (l.length < n)) (List.filter_congr fun j _ => hbefore j)

/-- The rows of the ranking's head, in ascending order of their indices. -/
theorem topRows_spec (h : n ≤ cs.length) : (topRows cs n).length = n ∧ (topRows cs n).Pairwise (· < ·) ∧
    ∀ i, i ∈ topRows cs n ↔ i < cs.length ∧ RanksWithin cs n i := by
  rw [topRows_eq]
  refine ⟨card_ranks h, List.pairwise_lt_range.filter _, fun i => ?_⟩
  rw [List.mem_filter, List.mem_range, decide_eq_true_eq, rankOf_lt_iff]

end

end Sys2Proof.Machine


/-! ## The instructions of a map (R195, R196) -/

namespace Sys2Proof.Machine
open Sys2Proof.Claims

section
variable {s u v : State} {r own : SlotRef} {a n : Nat} {rs : List (SlotRef × Nat)} {m : MapBlock}

/-! ### What the map instructions share -/

theorem spanAt_append {i : Nat} (l : List (SlotRef × Nat)) (h : i < rs.length) : spanAt (rs ++ l) i = spanAt rs i := by
  rw [spanAt, spanAt, List.getD_append _ _ _ _ h]

/-- The block of a map that is written comes after its three extents. -/
theorem spanAt_block (p : SlotRef × Nat) (h : rs.length = 3) : spanAt (rs ++ [p]) 3 = p := by
  rw [spanAt, List.getD_append_right _ _ _ _ (Nat.le_of_eq h), h]
  rfl

theorem HasRead.copying (h : HasRead s u) (map : Nat) : u.copying map = s.copying map := by
  rw [h.reads]
  rfl

theorem HasRead.mapHeld (h : HasRead s u) (a n : Nat) : u.mapHeld a n = s.mapHeld a n := by
  rw [h.reads]
  rfl

theorem HasRead.retire (h : HasRead s u) : CountsOnly s (u.retire none) ∧ (u.retire none).hart = (finished s).hart := by
  rw [h.reads]
  exact ⟨⟨rfl, fun _ => rfl⟩, rfl⟩

theorem Stored.retire (h : Stored s u) : WritesMemory s (u.retire none) := by
  unfold WritesMemory
  rw [h.frame]
  rfl

theorem seen_retire (s u : State) (a n : Nat) : seen s (u.retire none) a n = seen s u a n := rfl

/-- Byte strings at offsets of a block: none of them empty, all of them inside the block, and none over another. -/
structure FieldsOf (n : Nat) (fs : List (Nat × List Byte)) : Prop where
  inside : ∀ f ∈ fs, 0 < f.2.length ∧ f.1 + f.2.length ≤ n
  apart : fs.Pairwise fun f g => f.1 + f.2.length ≤ g.1 ∨ g.1 + g.2.length ≤ f.1

/-- Fields of a block have been stored, and every other byte is as before. -/
structure FieldsPlaced (s : State) (a : Nat) (fs : List (Nat × List Byte)) (u v : State) : Prop where
  inside : ∀ f ∈ fs, seen s v (a + f.1) f.2.length = f.2
  outside : ∀ x, (∀ f ∈ fs, ∀ o, o < f.2.length → x ≠ performedAt s (a + (f.1 + o))) → Bytes.get v.mem x = Bytes.get u.mem x

/-- Fields of a plain place are stored one after the other. -/
theorem Stored.writeFields (h : Stored s u) {fs : List (Nat × List Byte)} (hp : PlainPlace s (r, a) n) (hfs : FieldsOf n fs) :
    ∃ v, Stored s v ∧ FieldsPlaced s a fs u v ∧ ∀ f, u.writeAll r (fs.map fun x => (a + x.1, x.2)) f = f v := by
  obtain ⟨hfit, hapart⟩ := hfs
  obtain ⟨v, hv, ⟨hin, hout⟩, hwrite⟩ := h.writeAll (r := r) (ws := fs.map fun x => (a + x.1, x.2)) fun w hw => by
    obtain ⟨x, hx, rfl⟩ := List.mem_map.1 hw
    obtain ⟨hpos, hle⟩ := hfit x hx
    exact plainPlace_part hp hpos hle
  obtain ⟨-, -, -, -, hinj, -⟩ := hp
  have hpw : (fs.map fun x => (a + x.1, x.2)).Pairwise (Apart s) := by
    refine List.pairwise_map.2 (hapart.imp_of_mem fun {x y} hx hy hxy o q ho hq he => ?_)
    obtain ⟨-, hlx⟩ := hfit x hx
    obtain ⟨-, hly⟩ := hfit y hy
    dsimp only at ho hq he
    rw [Nat.add_assoc, Nat.add_assoc] at he
    have := hinj _ _ (by omega) (by omega) he
    omega
  refine ⟨v, hv, ⟨fun x hx => ?_, fun x hx => hout x fun w hw o ho => ?_⟩, hwrite⟩
  · exact hin hpw (a + x.1, x.2) (List.mem_map.2 ⟨x, hx, rfl⟩)
  obtain ⟨y, hy, rfl⟩ := List.mem_map.1 hw
  rw [Nat.add_assoc]
  exact hx y hy o ho

theorem MapBlock.rows_bounds (h : m.badExtent = false) : m.rows ≠ 0 ∧ m.rows ≤ 2 ^ 20 := by
  simp only [MapBlock.badExtent, Bool.or_eq_false_iff, decide_eq_false_iff_not] at h
  omega

theorem leBytes_value {k x : Nat} : littleEndian (Crypto.leBytes k x) = x % 256 ^ k := by
  rw [littleEndian_eq_leNat, leNat_leBytes]

/-- A map instruction that writes the block goes on with its block and its extents. -/
theorem withMap_own {a : BitVec 5} (h : MapWritable s a m rs own) (hs : Fresh s) :
    ∃ u, HasRead s u ∧ ∀ f, withMap a true f s = f m (rs ++ [(own, m.addr)]) u := by
  obtain ⟨hready, hown⟩ := h
  exact withMap_eq hready hs (by rw [if_pos rfl, MapBlock.ownProbe, hown]; rfl)

theorem withMap_read {a : BitVec 5} (h : MapReady s a m rs) (hs : Fresh s) :
    ∃ u, HasRead s u ∧ ∀ f, withMap a false f s = f m rs u := by
  obtain ⟨u, hu, he⟩ := withMap_eq (write := false) (own := []) h hs rfl
  exact ⟨u, hu, fun f => by rw [he, List.append_nil]⟩

/-! ### The map order (R196) -/

theorem mapOrder : MapOrder := by
  intro s a b k m haddr halign hheld
  have hwaits (write : Bool) (f : MapBlock → List (SlotRef × Nat) → State → State) :
      Waits .retry s (withMap a write f s) := by
    rw [withMap_waits haddr halign hheld]
    exact s.waitFor_waits .retry
  refine ⟨fun hk => ⟨_, rfl, ?_⟩, ⟨_, rfl, hwaits _ _⟩, ⟨_, rfl, hwaits _ _⟩, ⟨_, rfl, hwaits _ _⟩⟩
  rw [State.afterPred_free hk]
  exact hwaits _ _

/-! ### `hccommit` -/

/-- The fields of a block that a commit writes: CUR with STAGED, and GEN. -/
def committedFields (m : MapBlock) : List (Nat × List Byte) :=
  [(2, [BitVec.ofNat 8 (1 - m.cur), 0]), (28, Crypto.leBytes 4 (m.gen + 1))]

theorem committedFields_of (m : MapBlock) : FieldsOf 64 (committedFields m) := by
  refine ⟨fun f hf => ?_, List.pairwise_pair.2 (.inl (Nat.le_of_ble_eq_true rfl))⟩
  rcases List.mem_pair.1 hf with rfl | rfl <;> exact ⟨Nat.le_of_ble_eq_true rfl, Nat.le_of_ble_eq_true rfl⟩

theorem HasRead.commitMap (h : HasRead s u) (hlen : rs.length = 3) :
    Machine.commitMap m (rs ++ [(own, m.addr)]) u =
      if s.copying (s.mapKey m) || s.mapHeld m.addr 64 then u.waitFor .retry
      else if m.staged = 1 then
        u.writeAll own ((committedFields m).map fun f => (m.addr + f.1, f.2)) fun t => t.retire none
      else u.retire none := by
  unfold Machine.commitMap
  rw [spanAt_block _ hlen, h.mapKey, h.copying]
  dsimp only
  rw [h.mapHeld]
  rfl

theorem mapCommit : MapCommit := by
  intro s a m rs own hmap hs hwf
  obtain ⟨u, hu, hwith⟩ := withMap_own hmap hs
  obtain ⟨⟨-, -, -, -, -, -, -, -, hlen⟩, -⟩ := hmap
  have hexec : exec (.hccommit a) s = .next (Machine.commitMap m (rs ++ [(own, m.addr)]) u) := congrArg _ (hwith _)
  rw [hu.commitMap hlen] at hexec
  refine ⟨fun hc => ⟨_, hexec, ?_⟩, fun hc hheld hplain => ⟨fun hst => ⟨_, hexec, ?_⟩, fun hst => ?_⟩⟩
  · rw [hc, Bool.true_or, if_pos rfl]
    exact hu.reads.countsOnly_waitFor .retry
  · rw [hc, hheld, Bool.or_false, if_neg Bool.false_ne_true, if_neg hst]
    exact hu.retire
  · obtain ⟨v, hv, ⟨hin, hout⟩, hwrite⟩ := (hu.stored hwf).writeFields hplain (committedFields_of m)
    rw [hc, hheld, Bool.or_false, if_neg Bool.false_ne_true, if_pos hst, hwrite] at hexec
    have hgen := hin (28, Crypto.leBytes 4 (m.gen + 1)) (List.mem_cons_of_mem _ List.mem_cons_self)
    rw [Crypto.leBytes_length] at hgen
    refine ⟨_, hexec, hv.retire, ?_, ?_, fun x hx => ?_⟩
    · rw [seen_retire]
      exact hin (2, [BitVec.ofNat 8 (1 - m.cur), 0]) List.mem_cons_self
    · rw [seen_retire, hgen, leBytes_value]
      norm_num
    refine (hout x fun f hf o ho => hx _ ?_).trans (congrArg (Bytes.get · x) hu.mem)
    rcases List.mem_pair.1 hf with rfl | rfl
    · rw [show [BitVec.ofNat 8 (1 - m.cur), 0].length = 2 from rfl] at ho
      omega
    · rw [Crypto.leBytes_length] at ho
      omega

end

end Sys2Proof.Machine


/-! ## The counters of a map (R195) -/

namespace Sys2Proof.Machine
open Sys2Proof.Claims

section
variable {s u v : State} {r : SlotRef} {a n : Nat} {rs : List (SlotRef × Nat)} {m : MapBlock} {bs : List Byte}

/-- Blocks of one length, one after the other: the block of an index. -/
theorem block_flatMap {α β : Type} (f : α → List β) {k : Nat} (hf : ∀ x, (f x).length = k) :
    ∀ (l : List α) (i : Nat) (h : i < l.length), ((l.flatMap f).drop (k * i)).take k = f l[i]
  | x :: l, 0, _ => by rw [List.flatMap_cons, Nat.mul_zero, List.drop_zero, ← hf x, List.take_left]; rfl
  | x :: l, i + 1, h => by
    rw [List.flatMap_cons, Nat.mul_succ, Nat.add_comm, ← List.drop_drop, List.drop_left' (hf x),
      block_flatMap f hf l i (Nat.lt_of_succ_lt_succ h)]
    rfl

theorem length_flatMap_const {α β : Type} (f : α → List β) {k : Nat} (hf : ∀ x, (f x).length = k) (l : List α) :
    (l.flatMap f).length = k * l.length := by
  simp [List.length_flatMap, hf, Nat.mul_comm]

/-- The number at an index of a list of numbers in memory. -/
theorem seen_number {k : Nat} {l : List Nat} {g : Nat → Nat}
    (h : seen s v a (k * l.length) = l.flatMap fun x => Crypto.leBytes k (g x)) (i : Nat) (hi : i < l.length) :
    littleEndian (seen s v (a + k * i) k) = g l[i] % 256 ^ k := by
  rw [seen_part s v a (o := k * i) (n := k * l.length) (by rw [← Nat.mul_succ]; exact Nat.mul_le_mul_left k hi), h,
    block_flatMap (fun x => Crypto.leBytes k (g x)) (fun x => Crypto.leBytes_length k _) l i hi, leBytes_value]

theorem readsAs_seen (h : ReadsAs s (r, a) n bs) (hp : PlainPlace s (r, a) n) : seen s s a n = bs := by
  obtain ⟨-, -, -, hread⟩ := h
  exact Option.some.inj ((plainPlace_readBytes hp).symm.trans hread)

/-! ### `hcage` -/

/-- The counters of a map, from its bytes. -/
theorem splitElems_counters (h : bs.length = 2 * n) :
    splitElems 2 bs = (List.range n).map fun i => fieldOfBytes bs (2 * i) 2 :=
  splitElems_eq 2 n (by decide) (h.trans (Nat.mul_comm _ _))

theorem ageCounters {a : BitVec 5} (hmap : MapReady s a m rs) (hs : Fresh s) (hwf : Memory.wf s.mem = true)
    (hplain : PlainPlace s (spanAt rs 1) (2 * m.rows)) (hheld : s.mapHeld (spanAt rs 1).2 (2 * m.rows) = false)
    (hread : ReadsAs s (spanAt rs 1) (2 * m.rows) bs) :
    ∃ v, exec (.hcage a) s = .next (v.retire none) ∧ Stored s v ∧
      (∀ i, i < m.rows → littleEndian (seen s v ((spanAt rs 1).2 + 2 * i) 2) = fieldOfBytes bs (2 * i) 2 / 2) ∧
      OnlyBytes (spanAt rs 1).2 (2 * m.rows) s v := by
  obtain ⟨u, hu, hwith⟩ := withMap_read hmap hs
  obtain ⟨-, -, -, -, -, hext, -, hprobe, -⟩ := hmap
  obtain ⟨hrows, -⟩ := MapBlock.rows_bounds hext
  obtain ⟨hprompt, -⟩ := hs
  have hword := (State.probeAll_spanAt hprobe (i := 1) rfl).word
  obtain ⟨w, hw, hown⟩ := hu.ownRead (a := (spanAt rs 1).2) (size := 2) hprompt hword hread
  have hsplit := splitElems_counters hread.1
  have hcount : (splitElems 2 bs).length = m.rows := by rw [hsplit, List.length_map, List.length_range]
  generalize hbytes : ((splitElems 2 bs).flatMap fun c => Crypto.leBytes 2 (c / 2)) = bytes
  have hlen : bytes.length = 2 * m.rows := by
    rw [← hbytes, length_flatMap_const _ (fun _ => Crypto.leBytes_length 2 _), hcount]
  have hfields : FieldsOf (2 * m.rows) [(0, bytes)] := by
    refine ⟨fun f hf => ?_, List.pairwise_singleton _ _⟩
    obtain rfl := List.mem_singleton.1 hf
    dsimp only
    omega
  obtain ⟨v, hv, ⟨hin, hout⟩, hwrite⟩ := (hw.stored hwf).writeFields (r := (spanAt rs 1).1) (a := (spanAt rs 1).2) hplain hfields
  refine ⟨v, congrArg Host.Outcome.next ?_, hv, fun i hi => ?_, fun x hx => ?_⟩
  · rw [hwith]
    unfold ageRows
    dsimp only
    rw [hu.mapHeld, hheld, if_neg Bool.false_ne_true, hown, hbytes]
    exact hwrite _
  · have hall := hin (0, bytes) List.mem_cons_self
    rw [hlen, ← hbytes, ← hcount] at hall
    refine (seen_number hall i (hcount ▸ hi)).trans ?_
    have := fieldOfBytes_lt bs (2 * i) 2
    simp only [hsplit, List.getElem_map, List.getElem_range]
    omega
  · refine (hout x fun f hf o ho => ?_).trans (congrArg (Bytes.get · x) hw.mem)
    obtain rfl := List.mem_singleton.1 hf
    exact hx _ (by dsimp only at ho ⊢; omega)

/-! ### `hcfire` -/

theorem mem_firedRows (h : Hart) (b : BitVec 5) (k : BitVec 4) (i : Nat) : i ∈ h.firedRows b k ↔
    (h.xr b).toNat ≤ i ∧ i - (h.xr b).toNat < h.vl.toNat ∧ h.kbit k.toNat (i - (h.xr b).toNat) = true := by
  simp only [Hart.firedRows, List.mem_map, List.mem_filter, List.mem_range]
  constructor
  · rintro ⟨j, ⟨hj, hb⟩, rfl⟩
    rw [Nat.add_sub_cancel_left]
    exact ⟨Nat.le_add_right _ _, hj, hb⟩
  · rintro ⟨hle, hlt, hb⟩
    exact ⟨_, ⟨hlt, hb⟩, Nat.add_sub_cancel' hle⟩

/-- A row is named once. -/
theorem firedRows_pairwise (h : Hart) (b : BitVec 5) (k : BitVec 4) : (h.firedRows b k).Pairwise (· < ·) :=
  List.pairwise_map.2 ((List.pairwise_lt_range.filter _).imp fun hlt => Nat.add_lt_add_left hlt _)

/-- The counters at indices are read one after the other. -/
theorem HasRead.readCounters (h : HasRead s u) (hp : Prompt s)
    (hw : s.slotWordAt s.ctx.core s.ctx.table r.index = some r.word) (hplain : PlainPlace s (r, a) (2 * n))
    (hread : ReadsAs s (r, a) (2 * n) bs) (hn : n ≤ 2 ^ 20) (rows acc : List Nat) (hrows : ∀ i ∈ rows, i < n) :
    ∃ v, HasRead s v ∧ ∀ f, u.readCounters r (rows.map fun i => a + 2 * i) acc f =
      f (acc.reverse ++ rows.map fun i => fieldOfBytes bs (2 * i) 2) v := by
  induction rows generalizing u acc with
  | nil => exact ⟨u, h, fun f => by rw [List.map_nil, List.map_nil, List.append_nil]; rfl⟩
  | cons i rows ih =>
    have hi := hrows i List.mem_cons_self
    obtain ⟨t, ht, hone⟩ := h.ownRead (size := 2) hp hw
      (readsAs_part hread hplain (k := 2 * i) (m := 2) (by decide) (by omega) (by omega))
    obtain ⟨v, hv, hrest⟩ := ih ht (fieldOfBytes bs (2 * i) 2 :: acc) fun j hj => hrows j (List.mem_cons_of_mem _ hj)
    refine ⟨v, hv, fun f => ?_⟩
    rw [List.map_cons, State.readCounters, hone, ← littleEndian_eq_leNat]
    refine (hrest f).trans ?_
    rw [List.reverse_cons, List.append_assoc]
    rfl

/-- The counters that `hcfire` stores for rows. -/
def firedCounters (bs : List Byte) (rows : List Nat) : List (Nat × List Byte) :=
  rows.map fun i => (2 * i, Crypto.leBytes 2 (min (fieldOfBytes bs (2 * i) 2 + 1) 0xFFFF))

theorem firedCounters_of {rows : List Nat} (hrows : ∀ i ∈ rows, i < n) (hpw : rows.Pairwise (· < ·)) :
    FieldsOf (2 * n) (firedCounters bs rows) := by
  refine ⟨fun f hf => ?_, List.pairwise_map.2 (hpw.imp fun {i j} hij => ?_)⟩
  · obtain ⟨i, hi, rfl⟩ := List.mem_map.1 hf
    have := hrows i hi
    rw [Crypto.leBytes_length]
    omega
  · rw [Crypto.leBytes_length, Crypto.leBytes_length]
    omega

theorem HasRead.fireRows (h : HasRead s u) (hp : Prompt s) (hwf : Memory.wf s.mem = true) {b : BitVec 5} {k : BitVec 4}
    (hsp : spanAt rs 1 = (r, a)) (hw : s.slotWordAt s.ctx.core s.ctx.table r.index = some r.word)
    (hn : m.rows ≤ 2 ^ 20) (hplain : PlainPlace s (r, a) (2 * m.rows)) (hheld : s.mapHeld a (2 * m.rows) = false)
    (hread : ReadsAs s (r, a) (2 * m.rows) bs) (hrows : ∀ i ∈ s.hart.firedRows b k, i < m.rows) :
    ∃ v, Machine.fireRows b k m rs u = v.retire none ∧ Stored s v ∧
      FieldsPlaced s a (firedCounters bs (s.hart.firedRows b k)) s v := by
  obtain ⟨w, hw', hcounters⟩ := h.readCounters hp hw hplain hread hn (s.hart.firedRows b k) [] hrows
  obtain ⟨v, hv, ⟨hin, hout⟩, hwrite⟩ :=
    (hw'.stored hwf).writeFields hplain (firedCounters_of (bs := bs) hrows (firedRows_pairwise _ b k))
  refine ⟨v, ?_, hv, hin, fun x hx => (hout x hx).trans (congrArg (Bytes.get · x) hw'.mem)⟩
  have hfired : u.hart.firedRows b k = s.hart.firedRows b k := by
    rw [h.reads]
    rfl
  unfold Machine.fireRows
  dsimp only
  rw [hsp, hfired, any_eq_false_of fun i hi => decide_eq_false (Nat.not_le.2 (hrows i hi)), if_neg Bool.false_ne_true]
  dsimp only
  rw [h.mapHeld, hheld, if_neg Bool.false_ne_true, hcounters, List.reverse_nil, List.nil_append, List.map_map, List.zip_map']
  rw [firedCounters, List.map_map] at hwrite
  exact hwrite fun t => t.retire none

/-- The counter of each row after `hcfire`. -/
theorem FieldsPlaced.counter {rows : List Nat} (h : FieldsPlaced s a (firedCounters bs rows) s v)
    (hplain : PlainPlace s (r, a) (2 * n)) (hread : ReadsAs s (r, a) (2 * n) bs) (hrows : ∀ i ∈ rows, i < n) {i : Nat}
    (hi : i < n) : littleEndian (seen s v (a + 2 * i) 2) =
      if i ∈ rows then min (fieldOfBytes bs (2 * i) 2 + 1) 0xFFFF else fieldOfBytes bs (2 * i) 2 := by
  obtain ⟨hin, hout⟩ := h
  split
  · next hmem =>
    have hone := hin _ (List.mem_map.2 ⟨i, hmem, rfl⟩)
    rw [Crypto.leBytes_length] at hone
    rw [hone, leBytes_value]
    omega
  · next hmem =>
    have hsame : seen s v (a + 2 * i) 2 = seen s s (a + 2 * i) 2 := by
      refine seen_congr fun o ho => hout _ fun f hf q hq he => ?_
      obtain ⟨j, hj, rfl⟩ := List.mem_map.1 hf
      have hjn := hrows j hj
      rw [Crypto.leBytes_length] at hq
      obtain ⟨-, -, -, -, hinj, -⟩ := hplain
      rw [Nat.add_assoc] at he
      have := hinj _ _ (by omega) (by omega) he
      obtain rfl : i = j := by omega
      exact hmem hj
    rw [hsame, seen_part s s a (o := 2 * i) (n := 2 * n) (by omega), readsAs_seen hread hplain]
    rfl

theorem mapCounters : MapCounters := by
  intro s a b k m rs bs base count fired after hmap hs hwf hplain hheld hread
  constructor
  · intro hk hfit
    have hrows : ∀ i ∈ s.hart.firedRows b k, i < m.rows := by
      intro i hi
      obtain ⟨hle, hlt, hbit⟩ := (mem_firedRows _ b k i).1 hi
      have := hfit _ hlt hbit
      omega
    obtain ⟨u, hu, hwith⟩ := withMap_read hmap hs
    obtain ⟨-, -, -, -, -, hext, -, hprobe, -⟩ := hmap
    obtain ⟨-, hmax⟩ := MapBlock.rows_bounds hext
    obtain ⟨v, hfire, hv, hfields⟩ := hu.fireRows hs.1 hwf rfl (State.probeAll_spanAt hprobe (i := 1) rfl).word hmax hplain hheld
      hread hrows
    have hexec : exec (.hcfire a b k) s = .next (v.retire none) := by
      refine congrArg Host.Outcome.next ?_
      rw [State.afterPred_free hk, hwith, hfire]
    refine ⟨_, hexec, fun i => if i ∈ s.hart.firedRows b k then min (count i + 1) 0xFFFF else count i,
      ⟨hv.retire, fun i hi => hfields.counter hplain hread hrows hi, fun x hx => ?_⟩, fun i _ => ⟨fun hf => ?_, fun hf => ?_⟩⟩
    · refine hfields.outside x fun f hf o ho => hx _ ?_
      obtain ⟨-, hle⟩ := (firedCounters_of hrows (firedRows_pairwise _ b k)).inside f hf
      omega
    · exact if_pos ((mem_firedRows _ b k i).2 hf)
    · exact if_neg fun hmem => hf ((mem_firedRows _ b k i).1 hmem)
  · obtain ⟨v, hexec, hv, hcount, honly⟩ := ageCounters hmap hs hwf hplain hheld hread
    exact ⟨_, hexec, hv.retire, hcount, honly⟩

end

end Sys2Proof.Machine


/-! ## Staging the hot rows of a map (R195) -/

namespace Sys2Proof.Machine
open Sys2Proof.Claims

section
variable {s u v : State} {own r : SlotRef} {a n half : Nat} {rs : List (SlotRef × Nat)} {m : MapBlock} {bs : List Byte}
  {rows : List Nat}

/-- The fields of a block that `hcrank` writes: NHOT of the half, and STAGED. -/
def stagedFields (g n : Nat) : List (Nat × List Byte) := [(32 + 4 * g, Crypto.leBytes 4 n), (3, [1])]

theorem stagedFields_of {g : Nat} (h : g ≤ 1) : FieldsOf 64 (stagedFields g n) := by
  refine ⟨fun f hf => ?_, List.pairwise_pair.2 (.inr ?_)⟩
  · rcases List.mem_pair.1 hf with rfl | rfl
    · rw [Crypto.leBytes_length]
      omega
    · exact ⟨Nat.le_of_ble_eq_true rfl, Nat.le_of_ble_eq_true rfl⟩
  · change 3 + 1 ≤ 32 + 4 * g
    omega

/-- The bytes of the list of a half. -/
def rowList (rows : List Nat) : List Byte := rows.flatMap (Crypto.leBytes 4)

theorem rowList_length (rows : List Nat) : (rowList rows).length = 4 * rows.length :=
  length_flatMap_const _ (fun _ => Crypto.leBytes_length 4 _) rows

/-- What staging leaves in memory: the list in the half, and the fields of the block. -/
structure RowsStaged (s : State) (half addr g : Nat) (rows : List Nat) (v : State) : Prop where
  list : seen s v half (rowList rows).length = rowList rows
  fields : ∀ f ∈ stagedFields g rows.length, seen s v (addr + f.1) f.2.length = f.2
  outside : ∀ x, (∀ o, o < 4 * rows.length → x ≠ performedAt s (half + o)) →
    (∀ f ∈ stagedFields g rows.length, ∀ o, o < f.2.length → x ≠ performedAt s (addr + (f.1 + o))) →
    Bytes.get v.mem x = Bytes.get s.mem x

theorem RowsStaged.congr {addr g : Nat} (h : RowsStaged s half addr g rows v) (hm : u.mem = v.mem) :
    RowsStaged s half addr g rows u := by
  obtain ⟨hlist, hfields, hout⟩ := h
  have hseen (a n : Nat) : seen s u a n = seen s v a n := seen_congr fun _ _ => by rw [hm]
  exact ⟨(hseen _ _).trans hlist, fun f hf => (hseen _ _).trans (hfields f hf), fun x hx hx' => hm ▸ hout x hx hx'⟩

theorem RowsStaged.row {addr g : Nat} (h : RowsStaged s half addr g rows v) (hrows : ∀ i ∈ rows, i < 2 ^ 32) {e : Nat}
    (he : e < rows.length) : littleEndian (seen s v (half + 4 * e) 4) = rows.getD e 0 := by
  obtain ⟨hlist, -, -⟩ := h
  rw [rowList_length] at hlist
  have := hrows _ (List.getElem_mem he)
  rw [seen_number (g := fun x => x) hlist e he, List.getD_eq_getElem _ _ he]
  exact Nat.mod_eq_of_lt (by omega)

theorem RowsStaged.nhot {addr g : Nat} (h : RowsStaged s half addr g rows v) (hn : rows.length < 2 ^ 32) :
    littleEndian (seen s v (addr + 32 + 4 * g) 4) = rows.length := by
  have hfield := h.fields (32 + 4 * g, Crypto.leBytes 4 rows.length) List.mem_cons_self
  rw [Crypto.leBytes_length] at hfield
  rw [Nat.add_assoc, hfield, leBytes_value]
  exact Nat.mod_eq_of_lt (by omega)

theorem RowsStaged.elsewhere {addr g : Nat} (h : RowsStaged s half addr g rows v) {x : Nat}
    (hx : ∀ o, o < 4 * rows.length → x ≠ performedAt s (half + o))
    (hx' : ∀ o, (o = 3 ∨ 32 + 4 * g ≤ o ∧ o < 36 + 4 * g) → x ≠ performedAt s (addr + o)) :
    Bytes.get v.mem x = Bytes.get s.mem x := by
  refine h.outside x hx fun f hf o ho => hx' _ ?_
  rcases List.mem_pair.1 hf with rfl | rfl
  · rw [Crypto.leBytes_length] at ho
    omega
  · rw [List.length_singleton] at ho
    omega

/-- Beside bytes, staging adds a copy and completes the instruction. -/
def StagesCopy (s : State) (c : HotCopy) (u : State) : Prop :=
  u.copies = s.copies ++ [c] ∧ u = { finished s with
    copies := u.copies, mem := u.mem, macs := u.macs, dirty := u.dirty, pages := u.pages, events := u.events
    eventLost := u.eventLost }

theorem Stored.stagesCopy (h : Stored s v) (c : HotCopy) :
    StagesCopy s c (({ v with copies := s.copies ++ [c] } : State).retire none) := by
  refine ⟨rfl, ?_⟩
  rw [h.frame]
  rfl

/-- The copy of hot rows that staging starts. -/
def stagedCopy (s : State) (m : MapBlock) (rs : List (SlotRef × Nat)) (rows : List Nat) : HotCopy where
  map := s.mapKey m
  ser := s.hart.ser
  wid := s.ctx.world
  core := s.hart.core
  rows := rows
  waddr := (spanAt rs 0).2
  haddr := (spanAt rs 2).2 + (1 - m.cur) * m.hhalf + m.lb
  rstride := m.rstride
  bytes := m.cols * m.w
  wslot := (spanAt rs 0).1
  hslot := (spanAt rs 2).1
  sent := false

/-- The list and the block are written, and the copy starts. -/
theorem HasRead.stageRows (h : HasRead s u) (hwf : Memory.wf s.mem = true) (hlen : rs.length = 3)
    (hhalf : (spanAt rs 2).2 + (1 - m.cur) * m.hhalf = half)
    (hlist : PlainPlace s ((spanAt rs 2).1, half) (4 * rows.length)) (hblock : PlainPlace s (own, m.addr) 64)
    (hapart : ∀ o q, o < 4 * rows.length → q < 64 → performedAt s (half + o) ≠ performedAt s (m.addr + q)) :
    ∃ v, Machine.stageRows m (rs ++ [(own, m.addr)]) rows u = v ∧ StagesCopy s (stagedCopy s m rs rows) v ∧
      RowsStaged s half m.addr (1 - m.cur) rows v := by
  have hg := stagedFields_of (n := rows.length) (show 1 - m.cur ≤ 1 from Nat.sub_le 1 _)
  obtain ⟨w, hw, ⟨hin, hout⟩, hwrite⟩ := (h.stored hwf).writeAll (r := (spanAt rs 2).1) (ws := [(half, rowList rows)]) (by
    intro x hx
    obtain rfl := List.mem_singleton.1 hx
    rw [rowList_length]
    exact hlist)
  obtain ⟨v, hv, ⟨hin', hout'⟩, hwrite'⟩ := hw.writeFields hblock hg
  have hinside {f : Nat × List Byte} (hf : f ∈ stagedFields (1 - m.cur) rows.length) := hg.inside f hf
  have hstaged : RowsStaged s half m.addr (1 - m.cur) rows v := by
    refine ⟨?_, hin', fun x hx hx' => ?_⟩
    · refine Eq.trans ?_ (hin (List.pairwise_singleton _ _) (half, rowList rows) List.mem_cons_self)
      refine seen_congr fun o ho => hout' _ fun f hf q hq => hapart o _ (rowList_length rows ▸ ho) ?_
      have := hinside hf
      omega
    · rw [hout' x hx', hout x ?_, h.mem]
      intro y hy o ho
      obtain rfl := List.mem_singleton.1 hy
      exact hx o (rowList_length rows ▸ ho)
  refine ⟨_, ?_, hv.stagesCopy (stagedCopy s m rs rows), hstaged.congr rfl⟩
  have hframe := hv.frame
  unfold Machine.stageRows
  rw [spanAt_append _ (by omega), spanAt_append _ (by omega), spanAt_block _ hlen]
  dsimp only
  rw [hhalf]
  change u.writeAll _ [(half, rowList rows)] _ = _
  rw [hwrite]
  simp only [stagedFields, List.map_cons, List.map_nil, ← Nat.add_assoc] at hwrite'
  rw [hwrite', ← hhalf, hframe]
  rfl

/-- The instruction waits for nothing: the other half is of no product, no copy runs, and no entry holds what it reads and
writes. -/
def RankFree (s : State) (m : MapBlock) (base half n : Nat) : Prop :=
  (∀ p ∈ s.products (s.mapKey m), p.half ≠ 1 - m.cur) ∧ s.copying (s.mapKey m) = false ∧
    s.mapHeld base (2 * m.rows) = false ∧ s.mapHeld half (4 * n) = false ∧ s.mapHeld m.addr 64 = false

theorem HasRead.rankRows (h : HasRead s u) (hp : Prompt s) {b : BitVec 5} (hn : (s.hart.xr b).toNat = n) (hmax : n ≤ m.hmax)
    (hrows : n ≤ m.rows) (hfree : RankFree s m (spanAt rs 1).2 ((spanAt rs 2).2 + (1 - m.cur) * m.hhalf) n)
    (hw : s.slotWordAt s.ctx.core s.ctx.table (spanAt rs 1).1.index = some (spanAt rs 1).1.word)
    (hread : ReadsAs s (spanAt rs 1) (2 * m.rows) bs) :
    ∃ v, HasRead s v ∧ Machine.rankRows b m rs u = Machine.stageRows m rs (topRows (splitElems 2 bs) n) v := by
  obtain ⟨hproducts, hcopy, hcounters, hlist, hblock⟩ := hfree
  obtain ⟨v, hv, hown⟩ := h.ownRead (a := (spanAt rs 1).2) (size := 2) hp hw hread
  have hn' : (u.hart.xr b).toNat = n := by
    rw [h.reads]
    exact hn
  refine ⟨v, hv, ?_⟩
  unfold Machine.rankRows
  dsimp only
  rw [hn', decide_eq_false (Nat.not_lt.2 hmax), decide_eq_false (Nat.not_lt.2 hrows), Bool.or_false, if_neg Bool.false_ne_true,
    h.mapKey, h.products, any_eq_false_of fun p hp => beq_false_of_ne (hproducts p hp), h.copying, hcopy, h.mapHeld, hcounters,
    h.mapHeld, hlist, h.mapHeld, hblock, Bool.or_false, Bool.or_false, Bool.or_false, Bool.or_false, if_neg Bool.false_ne_true,
    hown]

theorem mapStaging : MapStaging := by
  intro s a b m rs own bs n g half counters hmap hs hwf hmax hrows hproducts hcopy hheld hheldList hheldBlock hread hlist hblock
    hapart
  obtain ⟨u, hu, hwith⟩ := withMap_own hmap hs
  obtain ⟨⟨-, -, -, -, -, hext, -, hprobe, hlen⟩, -⟩ := hmap
  obtain ⟨-, hbound⟩ := MapBlock.rows_bounds hext
  obtain ⟨hprompt, -⟩ := hs
  have hsp (i : Nat) (hi : i < 3) : spanAt (rs ++ [(own, m.addr)]) i = spanAt rs i := spanAt_append _ (hlen ▸ hi)
  have hcounters : splitElems 2 bs = counters := splitElems_counters hread.1
  have hcount : counters.length = m.rows := by
    rw [List.length_map, List.length_range]
  obtain ⟨htop, hsorted, hmem⟩ := topRows_spec (cs := counters) (n := n) (hcount ▸ hrows)
  obtain ⟨v, hv, hrank⟩ := hu.rankRows (rs := rs ++ [(own, m.addr)]) (b := b) (bs := bs) (n := n) hprompt rfl hmax hrows
    (by rw [hsp 1 (by decide), hsp 2 (by decide)]; exact ⟨hproducts, hcopy, hheld, hheldList, hheldBlock⟩)
    (by rw [hsp 1 (by decide)]; exact (State.probeAll_spanAt hprobe (i := 1) rfl).word)
    (by rw [hsp 1 (by decide)]; exact hread)
  rw [hcounters] at hrank
  generalize topRows counters n = rows at htop hsorted hmem hrank
  have hrow (i : Nat) (hi : i ∈ rows) : i < 2 ^ 32 := by
    obtain ⟨hlt, -⟩ := (hmem i).1 hi
    omega
  obtain ⟨w, hstage, ⟨hcopies, hframe⟩, hstaged⟩ := hv.stageRows (rows := rows) hwf hlen rfl (htop ▸ hlist) hblock (htop ▸ hapart)
  have hexec : exec (.hcrank a b) s = .next w := by
    refine congrArg Host.Outcome.next ?_
    rw [hwith, hrank, hstage]
  refine ⟨w, hexec, ⟨stagedCopy s m rs rows, hcopies, htop, hsorted, fun i => ?_, fun e he => hstaged.row hrow (htop ▸ he), rfl,
    rfl, rfl⟩, (hstaged.nhot (by omega)).trans htop, hstaged.fields (3, [1]) (List.mem_cons_of_mem _ List.mem_cons_self),
    fun x hx hx' => hstaged.elsewhere (htop ▸ hx) hx', hframe⟩
  rw [← hcount]
  exact hmem i

end

/-- Settles O35: what a map instruction reads leaves the device as it was but for page counts, and what it writes are fields of
plain places, each where the map has it; the rows that are staged are those of lowest rank. -/
theorem hotMaps : Obligations.HotMaps := ⟨mapCounters, mapStaging, mapCommit, mapOrder⟩

end Sys2Proof.Machine


/-! ## A product without rows (R326) -/

namespace Sys2Proof.Machine
open Sys2Proof.Claims

/-- A product of no rows, whose y lies at the second byte of the scratchpad. -/
def emptyProduct : Product :=
  ⟨0, 0, [], 0x50, 0, 0, 0, 0, ⟨0, .ofNat 0⟩, ⟨0, .ofNat 0⟩, ⟨0, .ofNat 0⟩, 0, 0, scratchBase + 1, []⟩

/-- Its ticket, for world 1; the hart that issued it has exited. -/
def emptyTicket : Ticket := ⟨0, 1, 0, 5, 0, 0, .product emptyProduct, false, true⟩

def emptyFlying : State := { State.reset with tickets := [emptyTicket] }

/-- The write of no bytes claims the scratchpad region of its address for world 1. -/
theorem emptyProduct_claims : Yields (.splitProductComplete 0 5) emptyFlying fun u => u.owners = [(0, 1)] :=
  ⟨_, rfl, by decide⟩

theorem emptyProduct_place : EnginePlace emptyFlying 1 (emptyProduct.yslot, emptyProduct.yaddr) (4 * emptyProduct.rows) := by
  refine ⟨rfl, fun e he => ?_, fun o ho => absurd ho (Nat.not_lt_zero o), fun o q ho => absurd ho (Nat.not_lt_zero o)⟩
  have hfree : e = .free := (Vector.mem_replicate.1 (Vector.mem_toList_iff.1 he)).2
  rw [hfree]
  rfl

/-- Refutes O49: `Claims.TicketsComplete` says that a product which completes changes, beside its ticket and its hart, bytes
of memory and their line state alone. It asks for no row, so that it says nothing of where y lies when there is none, and
`emptyProduct` writes no bytes at an address in the scratchpad: the region there is cleared and changes its owner. -/
theorem not_engineCompletions : ¬ Obligations.EngineCompletions := by
  rintro ⟨htickets, -⟩
  obtain ⟨-, -, -, hproduct⟩ := htickets emptyFlying 0 5 emptyTicket rfl
  obtain ⟨u, hu, ⟨hends, -⟩, -⟩ := hproduct emptyProduct [] rfl rfl rfl (fun ⟨_, hw, _⟩ => absurd hw List.not_mem_nil) rfl rfl
    (fun i hi => absurd hi (Nat.not_lt_zero i)) emptyProduct_place
  obtain ⟨t, ht, howners⟩ := emptyProduct_claims
  cases hu.symm.trans ht
  have hkept : u.owners = emptyFlying.owners := by rw [hends]
  exact absurd (howners.symm.trans hkept) (by decide)

end Sys2Proof.Machine
